-- ==== Sys2Proof/Word.lean ====
section
/-! DEFINITION. The byte type of the hub: R508 of spec/16_object_dictionary.md encodes every value as bytes. -/

namespace Sys2Proof

/-- One byte of an encoded value. -/
abbrev Byte := BitVec 8

/-- An encoded value, record, block or page. -/
abbrev Bytes := List Byte

end Sys2Proof
end

