-- ==== Sys2Proof/Syntax.lean ====
section
/-! DEFINITION. The commands of the hub. The opcode table gives its rows no operands and no bits; the operands here are
what the rules of spec/ read from outside the hub for each row: the session and bytes of a write, the tick that a
detection names, a measured voltage, a received message. Where a command carries no tick, it happens at the grid count of
the state it runs in. -/

namespace Sys2Proof

/-- What the error code of a queue, SRAM or recorder word showed (R418, R419). -/
inductive Ecc
  | good            -- no error
  | corrected       -- a single-bit error, corrected
  | uncorrectable   -- an uncorrectable error
  deriving DecidableEq, Repr

/-- An excitation unit of a cell: driver k (R65) or bias source j (R68). -/
inductive ExcUnit
  | driver (cell k : Nat)
  | bias (cell j : Nat)
  deriving DecidableEq, Repr

/-- The destinations of the event router's route lines (R544). -/
inductive RouteLine
  | dma
  | coreA
  | coreB
  | management
  deriving DecidableEq, Repr

/-- The PTP messages that R197 and R482 tell apart. -/
inductive PtpKind
  | sync | followUp | delayReq | delayResp | pdelayReq | pdelayResp | pdelayRespFollowUp | announce | other
  deriving DecidableEq, Repr

/-- What an Announce message says of its sender (R196, R207). -/
structure PtpAnnounce where
  sender : Nat           -- clock identity of the sending port
  priority1 : Nat
  clockClass : Nat
  accuracy : Nat
  variance : Nat
  priority2 : Nat
  gm : Nat               -- grandmaster identity
  steps : Nat            -- stepsRemoved
  utcOffset : Int
  deriving DecidableEq, Repr

/-- A PTP message (R196 to R200), with the fields of IEEE 1588 that the hub reads or writes: the source clock identity and the
sequence number, the correctionField in 2^-16 ns, the timestamp that its kind carries in ns, the two-step flag, for a response the
clock identity that asked, for an Announce its content, and whether it travels over UDP/IPv4 instead of Ethernet. -/
structure PtpMsg where
  kind : PtpKind
  domain : Nat
  sender : Nat
  seq : Nat
  corr : Int
  time : Int
  twoStep : Bool
  asker : Nat
  announce : Option PtpAnnounce
  udp : Bool
  deriving DecidableEq, Repr

/-- The payload of a frame. A KMP message and a KSF frame are bytes (R489 of spec/15_ports_and_kmp.md, R360 of
spec/11_streams_and_spill.md). -/
inductive Content
  | kmp (message : Bytes)
  | ksf (payload : Bytes)
  | ptp (m : PtpMsg)
  | udp (srcIp srcPort dstIp dstPort : Nat) (payload : Bytes)
  | icmpEcho (reply : Bool) (srcIp dstIp : Nat) (payload : Bytes)
  | arp (reply : Bool) (senderIp targetIp : Nat)
  | other
  deriving DecidableEq, Repr

/-- An Ethernet frame at a port: its FCS check, 802.1Q tag, addresses, length in bytes, payload, and for a frame that arrives the
place in the grid clock cycle at which it passes the port's reference plane, in 1/65,536 of the cycle (R198). -/
structure Frame where
  fcsGood : Bool
  vlan : Option Nat
  dst : Nat
  src : Nat
  len : Nat
  content : Content
  sub : Nat
  deriving DecidableEq, Repr

/-- What a self-test measured on one modulator (R246): the mean level at zero input and the span, in 1/10,000 of a level,
whether an overload began, and the 18 element estimates in 0.1 ppm. -/
structure CalMod where
  zero : Int
  span : Int
  overload : Bool
  est : List Int
  deriving DecidableEq, Repr

/-- What an interruption measured on one channel (R236, R252, R254): the span and the offset of each gain pass in counts,
and the front-end delay in ns. -/
structure CalChan where
  spans : List Int
  offsets : List Int
  delta : Nat
  deriving DecidableEq, Repr

/-- What the interruption of a cell measured: positions 0 to 15 and the spare, channels 0 to 15, and the four drivers'
readings in mV or µA (R245). -/
structure CalResult where
  mods : List CalMod
  chans : List CalChan
  drivers : List Int
  deriving DecidableEq, Repr

/-- A moment: `sub`/65,536 of the grid clock cycle of a tick (R198, R223). -/
structure Moment where
  tick : Nat
  sub : Nat
  deriving DecidableEq, Repr

/-- A frame passes the reference plane of a port at `sub`/65,536 of the present cycle (R198). -/
structure Egress where
  port : Nat
  sub : Nat
  deriving DecidableEq, Repr

/-- What the rail-stick comparators of a channel show in consecutive periods from a tick on: those active in each, IN+ low, IN+
high, IN− low, IN− high from bit 0 on (R95, R124). -/
structure RailRun where
  tick : Nat
  active : List Nat
  deriving DecidableEq, Repr

/-- A worker's answer to the zone SLATE of a tick (R227). -/
structure SlateAnswer where
  tick : Nat
  accepted : Bool
  deriving DecidableEq, Repr

/-- The commands of the hub: one constructor for each row of spec/opcode_table.json: the rows with operands in the
table's order, then those without. -/
inductive Instr
  /-- RESET_RELEASE (R587). Rails 1 to 5 become good, reset is released, the boot phase begins and the role straps are sampled. -/
  | resetRelease (straps : Nat)
  /-- BOOT_END (R594). Boot completes: the chosen image is loaded and checked, with fallback to the other image, and the islands start. -/
  | bootEnd (okA okB : Bool)
  /-- POWER_MONITOR_SAMPLE (R588). The power-die monitor samples VIN, the input current and the rails each millisecond and raises supply warnings or rail events. -/
  | powerMonitorSample (vin current excMv excMw rails : Nat)
  /-- TEMPERATURE_SAMPLE (R603). Die temperatures are sampled every 100 ms and raise warning, return or junction-limit events. -/
  | temperatureSample (readings : List Int)
  /-- RESET_NOW (R605). Restart command 1 resets the hub at once with cause 4. -/
  | resetNow (ses : Nat)
  /-- RESET_WHEN_IDLE (R605). Restart command 2 resets the hub once no store or image write is in progress. -/
  | resetWhenIdle (ses : Nat)
  /-- PREFER_IMAGE_A (R606). Image command 1 makes image A preferred, unless that image is empty or an update is in progress. -/
  | preferImageA (ses : Nat)
  /-- PREFER_IMAGE_B (R606). Image command 2 makes image B preferred, unless that image is empty or an update is in progress. -/
  | preferImageB (ses : Nat)
  /-- UPDATE_BEGIN (R596). Image command 3 makes the non-running image empty and starts erasing it. -/
  | updateBegin (ses : Nat)
  /-- UPDATE_SEGMENT (R596). A segment written to object 0x1C31:09 is stored at the update offset, which then advances by the segment length. -/
  | updateSegment (ses : Nat) (bs : Bytes)
  /-- UPDATE_FINISH (R596). Image command 4 starts the check of the written image's header and CRC-32C. -/
  | updateFinish (ses : Nat)
  /-- UPDATE_VERIFY_COMPLETE (R596). The image check ends, and the image becomes trial and preferred, or the update state becomes failed. -/
  | updateVerifyComplete (ok : Bool) (version : Nat)
  /-- UPDATE_ABORT (R596). Image command 5 abandons the update, leaves the target image empty and sets the update state to idle. -/
  | updateAbort (ses : Nat)
  /-- DICTIONARY_WRITE (R510). A write to an entry that has no row of its own is checked under R511 and then takes effect when served, or is staged. -/
  | dictionaryWrite (ses idx sub : Nat) (bs : Bytes)
  /-- STAGED_WRITE_TAKES_EFFECT (R430). An immediate-mode RWS write takes effect at the tick that the time island assigns, and its effect checks are applied there. -/
  | stagedWriteTakesEffect (ses idx sub : Nat)
  /-- ROUTING_WRITE (R56). A routing write is checked against the legality rules at receipt and then staged, or refused as not routable. -/
  | routingWrite (ses idx sub : Nat) (bs : Bytes)
  /-- EXCITATION_WRITE (R72). A write to a driver or bias-source setting is checked against the reserved 12 W budget and reserves any rise in allocation. -/
  | excitationWrite (ses idx sub : Nat) (bs : Bytes)
  /-- SWITCH_CLOSE (R59). Two modulator clock periods after a routing change takes effect, the crosspoint switches that the change closes are closed. -/
  | switchClose (cell : Nat)
  /-- CLAMP_ONSET (R75). A clamp comparator first reads active, so the onset is counted, latched and raised as EV44. -/
  | clampOnset (term : Nat)
  /-- CLAMP_RELEASE (R75). A clamp comparator reads inactive for 16 consecutive periods, which fixes the release tick and the CLP, SET and NBR interval ends. -/
  | clampRelease (term tick : Nat)
  /-- CLAMP_LATCHED_CLEAR (R60). A write to the clamp latched mask clears the bits written as 1. -/
  | clampLatchedClear (ses cell : Nat) (bs : Bytes)
  /-- EXCITATION_OUT_OF_REGULATION (R79). A driver or bias source meets an out-of-regulation condition for 8 consecutive periods, so it enters the state, is counted and raises EV45. -/
  | excitationOutOfRegulation (unit : ExcUnit) (tick conditions : Nat)
  /-- EXCITATION_REGULATION_LEAVE (R79). A unit is free of every condition for 64 consecutive periods and leaves the out-of-regulation state. -/
  | excitationRegulationLeave (unit : ExcUnit) (tick : Nat)
  /-- OVERLOAD_ONSET (R96). A run of 16 outer-code words declares a modulator overload, which counts the onset, raises the event and starts the integrator reset. -/
  | overloadOnset (ch : Nat)
  /-- OVERLOAD_RESET_END (R97). The 32-period integrator reset ends and the modulator restarts, or a further reset follows. -/
  | overloadResetEnd (ch : Nat)
  /-- OVERLOAD_RELEASE (R98). A window of 64 words with at most 3 outer codes fixes the release tick of an overload. -/
  | overloadRelease (ch : Nat)
  /-- SPARE_RESET_END (R104). 32 modulator periods after a change of the spare assignment, the modulator that now serves the channel starts converting. -/
  | spareResetEnd (cell : Nat)
  /-- REFERENCE_READY (R109). 20 ms after its enable or a power-mode switch, a cell reference becomes ready and the ready tick is recorded. -/
  | referenceReady (cell : Nat)
  /-- POWER_MODE_SWITCH (R114). At the first multiple of 512 grid ticks after a power-mode change, the cell's modulator clock switches rate. -/
  | powerModeSwitch (cell : Nat)
  /-- PULL_PHASE_END (R119). At the end of each pull phase the cell measures each pulled terminal and marks the phase or leaves it unmarked. -/
  | pullPhaseEnd (cell : Nat) (microvolts : List Int)
  /-- OPEN_WIRE_DETECTED (R120). Two consecutive marked pull phases declare OWD on a channel, which counts it and raises the event. -/
  | openWireDetected (ch : Nat)
  /-- OPEN_WIRE_PULL_RELEASE (R120). 16 consecutive unmarked pull phases release pull-based OWD. -/
  | openWirePullRelease (ch : Nat)
  /-- RAIL_STICK_ONSET (R124). A selected rail-stick comparator is active for 64 consecutive periods, which starts OWD with its count and event. -/
  | railStickOnset (ch : Nat) (run : RailRun)
  /-- RAIL_STICK_RELEASE (R124). No selected comparator is active for 64 consecutive periods, which releases rail-stick OWD. -/
  | railStickRelease (ch : Nat) (run : RailRun)
  /-- AUX_ENTRY_COMPLETE (R141). The last conversion of a sequence entry or injected request ends, and its averaged result is written. -/
  | auxEntryComplete (values : List Int)
  /-- INJECTED_REQUEST (R147). A write of an injected request is checked and queued, or refused with queue full. -/
  | injectedRequest (ses : Nat) (bs : Bytes)
  /-- INJECTED_FLUSH (R147). A write to the flush entry drops every injected request not yet started. -/
  | injectedFlush (ses : Nat) (bs : Bytes)
  /-- SAMPLE_EMITTED (R158). Stage 7 emits a channel's sample at grid tick 4·D·k, with its flags and value as the rules give them. -/
  | sampleEmitted (ch : Nat)
  /-- THRESHOLD_CROSSING (R187). A comparator's run count reaches the dwell, so the state changes, the crossing is counted and passed to the take engine, and the event is raised. -/
  | thresholdCrossing (ch cmp : Nat)
  /-- DECIMATION_SWITCH (R190). At t_x a pending change of the decimation word switches the chain and clears the affected stages, comparators and fades. -/
  | decimationSwitch (ch : Nat)
  /-- CROSS_FADE_END (R169). After F samples a cross-fade ends, only the new bank runs, and any waiting bank change starts its own fade. -/
  | crossFadeEnd (ch : Nat)
  /-- SLATE_REQUEST (R225). A write of a tick to object 0x1520:01 requests a SLATE, which is accepted or refused with too late. -/
  | slateRequest (ses : Nat) (bs : Bytes)
  /-- SLATE_BALL_EDGE (R226). A filtered rising edge on the SLATE ball in input mode requests a SLATE at the next aligned tick beyond the lead time. -/
  | slateBallEdge (edge : Moment)
  /-- ZONE_SLATE (R227). A write of t_s to object 0x1521:01 on a manager accepts the SLATE locally and sends the SLATE command to every listed worker. -/
  | zoneSlate (ses : Nat) (bs : Bytes)
  /-- SLATE_CONFIRM (R227). A worker's answer to a zone SLATE sets its bit in the confirm mask. -/
  | slateConfirm (pos : Nat) (answer : SlateAnswer)
  /-- PTP_FORWARD (R197). A forwarded PTP event message has the residence time, and the link delay where the profile requires it, added to its correctionField. -/
  | ptpForward (out : Egress)
  /-- PDELAY_MEASUREMENT (R199). Under the peer-to-peer profile the link delay of each ring port is measured by a Pdelay exchange. -/
  | pdelayMeasurement (port : Nat) (ask : Bool)
  /-- STEP (R204). A write of a step in step-then-rate mode adds the step to the local clock in one cycle, and a second step is refused. -/
  | clockStep (ses : Nat) (bs : Bytes)
  /-- INCREMENT_WRITE (R204). A user write of the increment in increment mode sets the local clock rate. -/
  | incrementWrite (ses : Nat) (bs : Bytes)
  /-- RATE_ADJUSTMENT_WRITE (R204). A rate adjustment written in step-then-rate mode sets the increment to nominal × (1 + r·10^−11). -/
  | rateAdjustmentWrite (ses : Nat) (bs : Bytes)
  /-- CORRECTION_MODE_WRITE (R204). A write of the correction mode switches between increment mode and step-then-rate mode. -/
  | correctionModeWrite (ses : Nat) (bs : Bytes)
  /-- SERVO_OWNER_WRITE (R205). A write of the servo owner hands the writing of the increment, step and rate between the firmware and the user. -/
  | servoOwnerWrite (ses : Nat) (bs : Bytes)
  /-- REANCHOR_COMMAND (R213). A write of 1 to the re-anchor command is accepted in SLEWING, DRIFTING or FREERUN, and refused otherwise. -/
  | reanchorCommand (ses : Nat) (bs : Bytes)
  /-- TPO_LEADING_EDGE (R219). A time-pulse instance's leading edge falls due and is fired, or is counted as late or suppressed. -/
  | tpoLeadingEdge (p : Nat)
  /-- TPO_TRAILING_EDGE (R219). One width after the leading edge, a time-pulse output returns to its idle level. -/
  | tpoTrailingEdge (p : Nat)
  /-- CALIBRATION_START (R235). CMD 0x1 starts a run whose CALRES step begins at a later millisecond tick. -/
  | calibrationStart (ses : Nat) (allg stst skew defer_ : Bool)
  /-- CALIBRATION_ABORT (R241). CMD 0x2 aborts the run at the next millisecond tick, applies the values of finished parts and sets result code 3. -/
  | calibrationAbort (ses : Nat)
  /-- END_HOLD_OFF (R259). CMD 0x3 ends the hold-off with the values in effect and no calibration run. -/
  | endHoldOff (ses : Nat)
  /-- CALRES_STEP_END (R232). After 16 ms the CALRES resistance is reported, and the run continues or ends with result code 4. -/
  | calresStepEnd (milliohms : Nat)
  /-- CELL_INTERRUPTION_END (R238). At t_b the cell's calibration, self-test and skew values take effect in both cores and the inputs return to their routes. -/
  | cellInterruptionEnd (cell : Nat) (measured : CalResult)
  /-- TAKE_GUARD_EXPIRY (R244). The take guard runs out for a deferred cell, which starts its interruption anyway and raises calibration overlapped take. -/
  | takeGuardExpiry (cell : Nat)
  /-- ESTIMATION_WINDOW_END (R248). A background estimation window of 2^n words ends, and it updates the element estimates or is discarded. -/
  | estimationWindowEnd (cell m : Nat) (est : List Int)
  /-- ELEMENT_SWITCH (R250). At the integer second after two qualifying windows, a drifting active element is swapped for the best idle one and one sample carries SET. -/
  | elementSwitch (cell m : Nat)
  /-- MODULATOR_CANNOT_BE_MATCHED (R251). At the next whole millisecond a modulator that cannot be matched is marked failed, and the spare is assigned where possible. -/
  | modulatorCannotBeMatched (cell m : Nat)
  /-- CALIBRATION_IMAGE_READ (R257). A read of object 0x4110:01 forms the calibration image from the values in effect at one grid tick. -/
  | calibrationImageRead (ses : Nat)
  /-- CALIBRATION_IMAGE_WRITE (R258). A write of a calibration image during the hold-off is checked, restores every value and ends the hold-off with result code 5. -/
  | calibrationImageWrite (ses : Nat) (bs : Bytes)
  /-- DIN_FILTER_ACCEPT (R262). A digital input's glitch filter accepts a new level after F equal cycles, or a short pulse is counted as a glitch. -/
  | dinFilterAccept (i : Nat) (ball : Bool) (edge : Moment) (run : Nat)
  /-- DIN_EDGE_PROCESSED (R263). The edge processor processes an edge, at most once per 98 ticks, and delivers it to capture, takes and EV16 to EV31 while merging any overrun. -/
  | dinEdgeProcessed (i : Nat)
  /-- DIGITAL_INPUT_STUCK (R264). An input whose level has been 1 for its maximum active time is declared stuck. -/
  | digitalInputStuck (i : Nat)
  /-- DIN_SETTING_WRITE (R265). A write of the invert setting or filter length of a digital input restarts its glitch filter. -/
  | dinSettingWrite (ses idx sub : Nat) (bs : Bytes)
  /-- TAKE_TRIGGER_OCCURRENCE (R283). A start-source occurrence is taken by the take engine and accepted, gated, missed or ignored, and an accepted one fixes the trigger and pre-trigger counts. -/
  | takeTriggerOccurrence (t : Nat)
  /-- TIME_SOURCE_INSTANCE (R271). A take's time source reaches an instance tick and fires. -/
  | timeSourceInstance (t : Nat)
  /-- NETWORK_TRIGGER (R272). A write to a take's network trigger triggers the take at the named tick or at the tick of arrival. -/
  | networkTrigger (ses t : Nat) (bs : Bytes)
  /-- ARM_COMMAND (R295). A staged arm command takes a take in DONE to ARMED, or waits during the fill. -/
  | armCommand (ses t : Nat) (bs : Bytes)
  /-- TAKE_STOP_OCCURRENCE (R275). A stop-source occurrence after the trigger point fixes the stop point of the fill. -/
  | takeStopOccurrence (t : Nat)
  /-- TAKE_FILL_END (R285). The fill ends at N_post, at the stop sample or at the tideline, and the take goes to FINISHING. -/
  | takeFillEnd (t : Nat)
  /-- TAKE_RECORD_COMMIT (R289). The take record is committed, the write offset advances, and the waiting writes and the next state are applied. -/
  | takeRecordCommit (t : Nat)
  /-- TAKE_REARM (R288). At the re-arm tick a take in REARMING becomes ARMED, with its waiting writes applied. -/
  | takeRearm (t : Nat)
  /-- RELEASE_OFFSET_WRITE (R290). A write of the release offset frees capture-region records, or is refused when it lies out of span. -/
  | releaseOffsetWrite (ses : Nat) (bs : Bytes)
  /-- LARGEST_SLACK_CLEAR (R295). Any write to a take's largest slack sets it to 0. -/
  | largestSlackClear (ses t : Nat) (bs : Bytes)
  /-- WINDOW_START (R302). At a grid window start, the waiting definition changes take effect together and a new window index begins. -/
  | windowStart (w : Nat)
  /-- WINDOW_RECORD_FORMED (R317). Once the last sample of a grid window has been emitted on every member, its reduction record is formed and sent or kept. -/
  | windowRecordFormed (w : Nat)
  /-- CROSS_HUB_DEADLINE (R322). The deadline after the end tick passes, so the combined record is issued with the contributions received. -/
  | crossHubDeadline (x : Nat)
  /-- BLOCK_FORMED (R328). A block completes or is shortened, and it is encoded, self-verified, numbered and stored in the spill ring, or falls back. -/
  | blockFormed (failA failB : Bool)
  /-- REPLAY_DECODER_WRITE (R351). A block written to the replay decoder is decoded at once and its result and sample words are set. -/
  | replayDecoderWrite (ses : Nat) (bs : Bytes)
  /-- NACK (R368). A hub receives a NACK and resends each listed item it holds, with RETX. -/
  | nack (bad : List Nat)
  /-- RESEND_TIMEOUT (R368). A held item last sent more than the resend timeout ago is sent again while the manager is reachable. -/
  | resendTimeout (bad : List Nat)
  /-- SIGNATURE_ARRIVAL (R393). A core's compare signature reaches the custody controller and is compared, which advances the release mark or decides a mismatch. -/
  | signatureArrival (core ord flip : Nat)
  /-- CORE_FAULT_SIGNAL (R393). An internal fault signal or a one-core queue loss takes the attributed core out of service, with a takeover if it holds custody. -/
  | coreFaultSignal (core : Nat)
  /-- HIDDEN_FAULT_AT_TAKEOVER (R398). A fault in a part never exercised in the standby surfaces after takeover, and custody returns or gaps are written. -/
  | hiddenFaultAtTakeover (part : Nat)
  /-- CORE_SELF_TEST_END (R400). A core's self-test ends in pass or fail, which sets its next state and the verdict. -/
  | coreSelfTestEnd (core : Nat) (pass : Bool)
  /-- PLANNED_HANDOVER (R406). Command 0x01 moves custody to the standby core at the next release mark and tests the former holder. -/
  | plannedHandover (ses : Nat)
  /-- RESTORE_CORE_A (R406). Command 0x02 sends a FAILED core A to self-test. -/
  | restoreCoreA (ses : Nat)
  /-- RESTORE_CORE_B (R406). Command 0x03 sends a FAILED core B to self-test. -/
  | restoreCoreB (ses : Nat)
  /-- QUEUE_PUSH (R412). A writer's push completes when the tail stage is empty. -/
  | queuePush (q data : Nat) (eoi : Bool)
  /-- QUEUE_POP (R412). A reader's pop completes when the head is full, correcting or dropping words under ECC. -/
  | queuePop (q : Nat) (ecc : Ecc)
  /-- CELL_ITEM_ABANDON (R415). A cell whose push is still pending as its next word falls due abandons the item and counts a writer overrun. -/
  | cellItemAbandon (q : Nat)
  /-- FLUSH (R420). The flush command divides a queue at the flush point and drops every item before it. -/
  | flush (ses q : Nat) (bs : Bytes)
  /-- FLUSH_COMPLETE (R421). All words before the flush point have left and the partial item has ended, so the flush state returns to 0. -/
  | flushComplete (q : Nat)
  /-- PEAK_OCCUPANCY_CLEAR (R427). Any write to a queue's peak occupancy sets it to 0. -/
  | peakOccupancyClear (ses q : Nat) (bs : Bytes)
  /-- OPEN_SET (R432). A write of 1 to object 0x1300:01 puts the session in held mode. -/
  | openSet (ses : Nat) (bs : Bytes)
  /-- COMMIT_AT_TICK (R433). A write to object 0x1300:02 decides the effective tick of the held set, or refuses it. -/
  | commitAtTick (ses : Nat) (bs : Bytes)
  /-- ABANDON (R436). A write of 1 to object 0x1300:03 drops the held set and releases its reservations. -/
  | abandon (ses : Nat) (bs : Bytes)
  /-- SET_TIMEOUT (R436). A held set open for the set timeout is abandoned. -/
  | setTimeout (ses : Nat)
  /-- COMMIT_FENCE_EFFECT (R434). At the fence's effective tick the pending set is checked as a whole, and it is performed or fails. -/
  | commitFenceEffect (ses : Nat)
  /-- DMA_START (R443). Command 1 starts a run of an IDLE manual-mode channel. -/
  | dmaStart (ses c : Nat)
  /-- DMA_EVENT_START (R443). A start-source pulse starts an event-mode channel, or latches one pending start. -/
  | dmaEventStart (c : Nat)
  /-- DMA_ABORT (R444). Command 2 stops the channel at its next beat boundary and takes it to IDLE. -/
  | dmaAbort (ses c : Nat)
  /-- CLEAR_FAULT (R468). Command 3 takes a channel in FAULT to IDLE. -/
  | clearFault (ses c : Nat)
  /-- DMA_BEAT (R458). At each beat boundary the engine serves one channel by priority and rotation, pre-empting lower levels. -/
  | dmaBeat (ecc : Ecc) (host : Option Bytes)
  /-- WAIT_COMPLETE (R454). The awaited pulse or tick arrives and the channel returns to RUN. -/
  | waitComplete (c : Nat)
  /-- WAIT_TIMEOUT (R454). A WAIT's timeout runs out and faults the channel with cause 15. -/
  | waitTimeout (c : Nat)
  /-- WRITE_CONFIRMED (R463). The read-back, link acknowledgement or dictionary answer confirms a channel's writes. -/
  | writeConfirmed (c : Nat) (ok : Bool)
  /-- DICTIONARY_ANSWER (R448). The answer to a channel's dictionary access returns, and the access completes or faults with cause 7. -/
  | dictionaryAnswer (c : Nat)
  /-- TARGET_TIMEOUT (R466). An access without a response within 8 µs faults the channel with cause 6. -/
  | targetTimeout (c : Nat)
  /-- DICTIONARY_ANSWER_TIMEOUT (R466). A dictionary answer missing past the channel's timeout faults it with cause 9. -/
  | dictionaryAnswerTimeout (c : Nat)
  /-- PROGRAM_PAGE_WRITE (R470). A 1,024-byte write lands word by word in a program SRAM page. -/
  | programPageWrite (ses page : Nat) (bs : Bytes)
  /-- LINK_UP (R479). A port's link comes up and starts counting link checks toward readiness. -/
  | linkUp (port speed : Nat)
  /-- LINK_DOWN (R479). A port's link goes down, loses readiness and drops its waiting frames. -/
  | linkDown (port : Nat)
  /-- RESTORE_HOLD_EXPIRY (R479). Link checks have arrived for the restore hold, so the port becomes ready. -/
  | restoreHoldExpiry (port : Nat)
  /-- RING_TIMEOUT (R479). No link check for the ring timeout makes the port stop being ready. -/
  | ringTimeout (port : Nat)
  /-- HOP_COUNT_EXPIRY (R481). A port's hop count becomes invalid after the ring timeout, which can change the upstream port or isolate the worker. -/
  | hopCountExpiry (port : Nat)
  /-- FRAME_RECEIVED (R482). A frame received on a port is FCS-checked and filtered, then consumed, forwarded or dropped. -/
  | frameReceived (port : Nat) (f : Frame)
  /-- EGRESS_TRANSMIT (R483). A ring port sends its next waiting frame by strict class priority. -/
  | egressTransmit (out : Egress)
  /-- LEARN_COMMAND (R487). The learn command rebuilds the worker table from the joins of reachable workers. -/
  | learnCommand (ses : Nat) (bs : Bytes)
  /-- MODULE_INSERTION (R477). An SFP module is inserted, and its identification is read. -/
  | moduleInsertion (ident : Bytes)
  /-- STORE_COMMAND (R519). A write of 1 to object 0x1100:01 begins a store of the retained entries. -/
  | storeCommand (ses : Nat) (bs : Bytes)
  /-- STORE_COMPLETE (R517). The written slot is read back and checked, and the store completes or fails. -/
  | storeComplete (ok : Bool)
  /-- FACTORY_RESTORE_ARM (R525). Command 1 writes the factory-restore marker to flash, with its scope. -/
  | factoryRestoreArm (ses : Nat)
  /-- FACTORY_RESTORE_DISARM (R525). Command 2 erases the factory-restore marker. -/
  | factoryRestoreDisarm (ses : Nat)
  /-- DESCRIPTION_QUERY (R529). A write to object 0x1030:01 fills the description of the queried entry for the session. -/
  | descriptionQuery (ses : Nat) (bs : Bytes)
  /-- TAKE_NOW (R534). A write of 1 to a set's take-now entry schedules a snapshot at the next millisecond tick at least 24,576 ticks later. -/
  | takeNow (ses k : Nat) (bs : Bytes)
  /-- SNAPSHOT_SET_TICK (R534). A snapshot tick of a set arrives, and the listed entries are read by their islands. -/
  | snapshotSetTick (k : Nat)
  /-- SNAPSHOT_COMPLETE (R534). All entries of a snapshot are in, so it replaces the set's last snapshot and the sequence rises. -/
  | snapshotComplete (k : Nat)
  /-- EVENT_ROUTED (R540). The router pops an event item, applies the cause mask, the latches and every route, and records or merges it. -/
  | eventRouted (island : Nat) (ecc : Ecc)
  /-- ROUTE_LINE_DELIVERY (R544). A destination island acts on a routed occurrence from its route-line buffer at its receive tick. -/
  | routeLineDelivery (line : RouteLine)
  /-- RECORD_COMPLETE (R552). Once the snapshot answers are in, the recorder writes and reads back the slot, or writes to the emergency bank. -/
  | recordComplete (seq : Nat) (mainOk emergencyOk : Bool)
  /-- RECORD_SNAPSHOT_TIMEOUT (R552). A snapshot entry without an answer within 1 ms reads 0 and sets SNPX. -/
  | recordSnapshotTimeout (seq : Nat) (missing : List Nat)
  /-- RECORDER_SLOT_READ (R557). A read of a recorder slot returns it, or marks the slot failed on an uncorrectable error. -/
  | recorderSlotRead (bank slot : Nat) (ecc : Ecc)
  /-- CLEAR_FAULT_LATCHES (R547). A write of 1 to object 0x1680:02 clears every fault latch. -/
  | clearFaultLatches (ses : Nat) (bs : Bytes)
  /-- RAISE_SOFTWARE_EVENT (R547). A write of k to object 0x1680:04 raises EV(88 + k) at the tick of receipt. -/
  | raiseSoftwareEvent (ses : Nat) (bs : Bytes)
  /-- STICKY_FLAGS_CLEAR (R549). A write to a channel's sticky flags clears the bits written as 1. -/
  | stickyFlagsClear (ses ch : Nat) (bs : Bytes)
  /-- HOST_LINK_UP (R576). The PCI Express link comes up, which raises EV79 cause 1. -/
  | hostLinkUp (speed width : Nat)
  /-- SLOT_DOORBELL (R567). A doorbell write marks a request slot busy, or is refused when the slot is busy. -/
  | slotDoorbell (w vec : Nat)
  /-- SLOT_ANSWER (R567). The hub serves a request slot in doorbell order, writes the answer with DONE and signals the answer vector. -/
  | slotAnswer (head len tag : Nat) (value : Bytes)
  /-- EVENT_DOORBELL (R566). A write to the event doorbell raises a software event from session 0. -/
  | eventDoorbell (w : Nat)
  /-- BAR2_WRITE (R569). A host write through BAR2 lands within the DMA buffer, and is otherwise discarded and counted. -/
  | bar2Write (offset : Nat) (bs : Bytes)
  /-- MSIX_UNMASK (R570). Unmasking a vector with its pending bit set sends one message. -/
  | msixUnmask (v : Nat)
  /-- CONSUMED_OFFSET_WRITE (R574). A write of the consumed offset frees hand-off entries, so the manager may acknowledge their items. -/
  | consumedOffsetWrite (ses : Nat) (bs : Bytes)
  /-- LGO_UPDATE_TICK (R579). At each update tick a legacy output takes a new value, enters or leaves fault, and sets its increment or duty. -/
  | lgoUpdateTick (i : Nat)
  /-- LGO_STALE_EXPIRY (R581). No new value for the stale limit puts the output into the fault state at the next update tick. -/
  | lgoStaleExpiry (i : Nat)
  /-- LGO_FAULT_HOLD_EXPIRY (R581). The fault hold has passed since the last request, so the output leaves fault at the next update tick. -/
  | lgoFaultHoldExpiry (i : Nat)
  /-- RELEASE_COMMAND (R578). A write of 1 to an output's release command leaves the fault state at the next update tick. -/
  | releaseCommand (ses i : Nat) (bs : Bytes)
  /-- SAMPLE_PRELOAD (R613). SAMPLE/PRELOAD captures the chain's balls without affecting them. -/
  | samplePreload (balls : Nat)
  /-- DBGDATA_UPDATE (R614). Update-DR of DBGDATA with bit 64 set appends a word to the write buffer. -/
  | dbgdataUpdate (w : Nat)
  /-- DEBUG_NO_OPERATION (R615). DBGCMD operation 0x0 does nothing. -/
  | debugNoOperation (w : Nat)
  /-- DEBUG_OBJECT_READ (R618). DBGCMD operation 0x1 reads an object into the read buffer. -/
  | debugObjectRead (w : Nat)
  /-- DEBUG_OBJECT_WRITE (R618). DBGCMD operation 0x2 writes an object from the write buffer in session 15. -/
  | debugObjectWrite (w : Nat)
  /-- DEBUG_MEMORY_READ (R617). DBGCMD operation 0x3 reads memory words of a space into the read buffer. -/
  | debugMemoryRead (w : Nat) (bad : Option Nat)
  /-- DEBUG_MEMORY_WRITE (R617). DBGCMD operation 0x4 writes memory words where the space permits. -/
  | debugMemoryWrite (w : Nat)
  /-- DEBUG_RESET (R619). DBGCMD operation 0x8 resets the hub with cause 5. -/
  | debugReset (w : Nat)
  /-- BREAKPOINT_HIT (R621). A channel reaches a breakpoint address and enters HALTED, with its count and event. -/
  | breakpointHit (c : Nat)
  /-- HALT (R621). Command 1 halts a running channel at its next beat boundary, or sets halt pending while it waits. -/
  | halt (ses c : Nat)
  /-- RELEASE (R621). Command 2 returns a halted channel to the state it held before. -/
  | debugRelease (ses c : Nat)
  /-- SINGLE_STEP (R621). Command 3 runs one instruction of a halted channel and halts it again. -/
  | singleStep (ses c : Nat)
  /-- RESET_N_RELEASE (R590). RESET_N returns high after a reset-ball reset, which ends the held reset and starts the hub as R590 states, and ends any boundary-scan control of the balls. -/
  | resetNRelease (straps : Nat)
  /-- PTP_SYNC_RECEIVED (R206). The ordinary clock takes a Sync from its upstream port, and the firmware servo steps, converges or writes the increment. -/
  | ptpSyncReceived (port domain sender : Nat) (origin corr : Int)
  /-- ANNOUNCE_RECEIVED (R196). The ordinary clock takes an Announce from its upstream port and runs the best master clock algorithm, which selects the master and sets the grandmaster identity and currentUtcOffset. -/
  | announceReceived (port domain : Nat) (a : PtpAnnounce)
  /-- DELAY_RESP_RECEIVED (R215). Under the end-to-end profile a Delay_Resp completes the delay exchange on the upstream port and sets the mean path delay, so the servo may leave holdover on a new upstream port. -/
  | delayRespReceived (port : Nat) (receipt corr : Int)
  /-- POWER_ON (R586). VIN rises through 35 V from below 33 V or from no supply, so the rails start in order with the input current limited. -/
  | powerOn
  /-- UNDERVOLTAGE_LOCKOUT (R586). VIN falls through 33 V, so the drivers and bias sources switch off, reset is asserted and the rails go down in reverse order. -/
  | undervoltageLockout
  /-- RESET_BALL (R590). RESET_N held low for at least 1 µs resets the hub with cause 2. -/
  | resetBall
  /-- WATCHDOG_EXPIRY (R593). The 2 s management watchdog expires, which resets the hub with cause 3. -/
  | watchdogExpiry
  /-- TRIAL_TIMEOUT (R595). A trial image has not reached the end of the restore step 60 s after reset release, which resets the hub with cause 6 and rejects the image. -/
  | trialTimeout
  /-- RESTORE (R520). The restore step reads every store slot, applies the newest valid snapshot or a factory restore, checks the set, and then opens the dictionary and starts the ports and references. -/
  | restore
  /-- STREAM_START (R600). At the stream start tick, streams, windows, takes, time-pulse outputs, event-mode DMA channels and legacy outputs begin together. -/
  | streamStart
  /-- UPDATE_ERASE_COMPLETE (R596). The erase of the target image completes, the update state becomes receiving and the offset is set to 0. -/
  | updateEraseComplete
  /-- AUX_SCAN_START (R142). At each multiple of the scan period a regular scan begins, or the start is skipped as an overrun or as suppressed by calibration. -/
  | auxScanStart
  /-- INJECTED_REQUEST_START (R148). At the next free slot boundary the oldest queued injected request starts and interrupts the regular sequence. -/
  | injectedRequestStart
  /-- AUX_REFERENCE_READY (R135). 2 ms after its enable or a power-mode switch, the converter reference becomes ready. -/
  | auxReferenceReady
  /-- AUX_POWER_MODE_SWITCH (R136). At the first multiple of 192 ticks after a power-mode change, the converter slot length changes. -/
  | auxPowerModeSwitch
  /-- CALIBRATION_CLAIM (R153). Calibration claims the converter, which takes it at the next slot boundary once the queued injected requests have run. -/
  | calibrationClaim
  /-- CALIBRATION_STEP_END (R153). A calibration step on the converter ends after at most 42 µs, and the converter returns or waits for the injected queue to empty. -/
  | calibrationStepEnd
  /-- SLATE_PERFORMED (R192). At t_s every channel of both cores clears its stages, ends fades, resets comparators and marks SET, and the event is raised. -/
  | slatePerformed
  /-- DELAY_REQ_SEND (R199). Under the end-to-end profile a worker sends Delay_Req on its upstream port at its interval. -/
  | delayReqSend
  /-- GRANDMASTER_SYNC_SEND (R200). A manager in the ring-grandmaster role sends Sync and Announce on ports A and B from its local clock. -/
  | grandmasterSyncSend
  /-- SYNC_TIMEOUT (R206). No Sync has arrived for 3 sync intervals, so the servo enters holdover. -/
  | syncTimeout
  /-- ANNOUNCE_RECEIPT_TIMEOUT (R206). The announce receipt timeout passes, so the servo enters holdover. -/
  | announceReceiptTimeout
  /-- GRID_EVALUATION (R208). Every 24,576 ticks the grid error is measured, the DCO offset is set and at most one grid state transition is made. -/
  | gridEvaluation
  /-- HOLDOVER_GRACE_EXPIRY (R210). The holdover grace has passed, so the grid goes from HOLDOVER to DRIFTING. -/
  | holdoverGraceExpiry
  /-- FREE_RUN_TIMEOUT (R210). The free-run timeout passes with no master, so the grid is anchored to the free-running local clock in FREERUN. -/
  | freeRunTimeout
  /-- GRID_ANCHOR (R209). At the integer second of the local clock the grid count is loaded, ticks named before the first load are cancelled, and streams restart after a re-anchor. -/
  | gridAnchor
  /-- REANCHOR_START (R213). At the first evaluation tick after receipt, stream instances end, takes end at their tideline, and named SLATEs, fences and pulses are cancelled. -/
  | reanchorStart
  /-- HOLD_OFF_EXPIRY (R259). 2,000 ms after the restore step with no image accepted, the start-up calibration run begins. -/
  | holdOffExpiry
  /-- CALRES_STEP_START (R232). At its tick the CALRES step begins, forcing the calibration current and claiming the converter. -/
  | calresStepStart
  /-- CELL_INTERRUPTION_START (R235). A selected cell's interruption starts on a whole millisecond, with its inputs moved to the calibration bus and CAL set. -/
  | cellInterruptionStart
  /-- TAKE_COPY (R286). The take engine copies slots from the rushes rings into the record within its DRAM write share. -/
  | takeCopy
  /-- CROSS_HUB_CONTRIBUTION (R321). A manager accepts a worker window record and uses, mismatches or counts as late its contributions, issuing the combined record once all are in. -/
  | crossHubContribution
  /-- PACKING_HOLD_EXPIRY (R364). The oldest pending item has waited the packing hold, so a data frame is sent. -/
  | packingHoldExpiry
  /-- KSF_DATA_SEND (R364). A data frame is sent when the frame budget or 64 pending items is reached. -/
  | ksfDataSend
  /-- KSF_DATA_RECEIVED (R365). The manager takes a KSF data or record frame, checks it, decodes and accepts the items, and passes them on to the uplink and hand-off. -/
  | ksfDataReceived
  /-- ACK_INTERVAL (R366). At an ack-interval boundary the manager sends an ACK for each stream whose A or bitmap has changed. -/
  | ackInterval
  /-- KEEPALIVE_ACK (R366). The keepalive interval passes, and the manager sends an ACK for each stream instance that qualifies. -/
  | keepaliveAck
  /-- NACK_HOLDOFF_EXPIRY (R367). A hole has lasted the NACK holdoff, so the manager sends a NACK. -/
  | nackHoldoffExpiry
  /-- RETRANSMIT_INTERVAL (R367). Each retransmit interval while a hole remains and the hub is reachable, the NACK is repeated. -/
  | retransmitInterval
  /-- ACK (R368). A hub receives an ACK, frees the acknowledged items, refreshes reachability and resumes a fallen-back stream. -/
  | ack
  /-- REACHABILITY_TIMEOUT (R368). No ACK has arrived within the reachability timeout, so the hub stops resending. -/
  | reachabilityTimeout
  /-- COMPARE_TIMEOUT (R393). One core's signature is missing after T_c, which is decided as active late or standby late. -/
  | compareTimeout
  /-- PROVING_PERIOD_END (R395). The proving period ends without a hidden fault, and the held core is reset into self-test. -/
  | provingPeriodEnd
  /-- RESYNC_JOIN (R402). At t_j a returning core starts consuming inputs with its chains cleared. -/
  | resyncJoin
  /-- RESYNC_SNAPSHOT (R402). At t_s the active core captures its snapshot and the returning core starts buffering its samples. -/
  | resyncSnapshot
  /-- SNAPSHOT_COPY_COMPLETE (R402). The snapshot copy completes, and the returning core loads it and replays its buffered samples. -/
  | snapshotCopyComplete
  /-- CORE_RESYNCHRONISED (R402). The first unit after the replay puts the returning core in STANDBY and comparison resumes. -/
  | coreResynchronised
  /-- CORE_RESYNCHRONISATION_FAILED (R404). A resynchronisation fails, and it is retried 1 s later or the core enters FAILED. -/
  | coreResynchronisationFailed
  /-- RESYNC_RETRY (R404). 1 s after a failed resynchronisation, the core begins again from t_j. -/
  | resyncRetry
  /-- HANDBACK (R401). After 64 equal ordinals with handback on, custody passes back as a planned handover. -/
  | handback
  /-- END (R456). END waits for confirmation of the run's writes, pulses when SIG is set, and ends the run. -/
  | dmaEnd
  /-- MOVE (R451). MOVE copies bytes or elements between targets in beats. -/
  | dmaMove
  /-- LOOP (R453). LOOP opens a loop frame with its count. -/
  | dmaLoop
  /-- ENDLOOP (R453). ENDLOOP decrements the innermost counter and repeats or closes the frame. -/
  | dmaEndloop
  /-- WAIT (R454). WAIT waits for an event pulse or a grid tick. -/
  | dmaWait
  /-- SIGNAL (R462). SIGNAL waits for confirmation of earlier writes and then pulses the channel's event source. -/
  | dmaSignal
  /-- FENCE (R462). FENCE holds later instructions until every earlier write of the channel is confirmed. -/
  | dmaFence
  /-- SETA (R455). SETA sets an address register's address, target and attributes. -/
  | dmaSeta
  /-- ADDA (R455). ADDA adds an immediate or a register to an address register. -/
  | dmaAdda
  /-- ILLEGAL_INSTRUCTION (R467). An opcode of 0x9 to 0xF faults the channel with cause 1. -/
  | illegalInstruction
  /-- COPY_PORT_BEAT (R460). The take engine's copy port takes a beat boundary within its DRAM write share. -/
  | copyPortBeat
  /-- COPY_TIMEOUT (R460). A copy not completed within 100 µs is a hidden fault after takeover, or fixes the take's tideline. -/
  | copyTimeout
  /-- LINK_CHECK_SEND (R479). Once per hello interval a link check is sent on each ring port. -/
  | linkCheckSend
  /-- LINK_CHECK (R479). A link check arrives on a ring port and continues or restarts the readiness count. -/
  | linkCheck
  /-- HELLO_SEND (R480). A manager sends a hello on each ready ring port once per hello interval. -/
  | helloSend
  /-- HELLO (R480). A hub takes a hello, updates its hop count and position, and forwards it with the hop count increased. -/
  | hello
  /-- REVERT_HOLD_EXPIRY (R481). The other port has had the lower hop count for the revert hold, so upstream reverts to it. -/
  | revertHoldExpiry
  /-- JOIN_SEND (R484). A worker sends a join at each change of upstream or position, and every 100 ms. -/
  | joinSend
  /-- JOIN (R484). A manager takes a join and marks the worker reachable on its port. -/
  | join
  /-- WORKER_REACHABILITY_TIMEOUT (R484). No join from a worker within the reachability timeout makes it unreachable. -/
  | workerReachabilityTimeout
  /-- READ (R492). A KMP READ serves its entries in order and answers their values. -/
  | kmpRead
  /-- WRITE (R492). A KMP WRITE serves its entries in order and answers their statuses. -/
  | kmpWrite
  /-- READ_BLOCK (R493). A KMP READ BLOCK returns a segment of an object copy or of the capture region. -/
  | readBlock
  /-- WRITE_BLOCK (R493). A KMP WRITE BLOCK assembles a segment, and the last segment writes the whole value. -/
  | writeBlock
  /-- OPEN_SESSION (R494). OPEN SESSION opens a session with its timeout, or answers sessions exhausted. -/
  | openSession
  /-- CLOSE_SESSION (R494). CLOSE SESSION closes the session and abandons its held set. -/
  | closeSession
  /-- KEEPALIVE (R494). KEEPALIVE refreshes the session timeout. -/
  | keepalive
  /-- SESSION_EXPIRY (R494). A session with no request for its timeout closes, and KMP session expired is raised. -/
  | sessionExpiry
  /-- KMP_FENCE_OPEN_SET (R496). KMP FENCE operation 1 opens a held set, as a write to object 0x1300:01 does. -/
  | kmpFenceOpenSet
  /-- KMP_FENCE_COMMIT (R496). KMP FENCE operation 2 commits the set and answers the effective tick. -/
  | kmpFenceCommit
  /-- KMP_FENCE_ABANDON (R496). KMP FENCE operation 3 abandons the held set. -/
  | kmpFenceAbandon
  /-- SLATE_COMMAND (R497). A worker takes a SLATE command from its manager, applies R225 and answers. -/
  | slateCommand
  /-- TAKE_TRIGGER (R497). A KMP TAKE TRIGGER triggers a take on one hub, or on every hub of the zone. -/
  | takeTrigger
  /-- NOTIFY (R498). A manager takes a NOTIFY and passes it on to its notification sink. -/
  | notify
  /-- BRIDGE_FORWARD (R503). A manager takes a port-C request for a worker and forwards it with BRIDGED set, or refuses it. -/
  | bridgeForward
  /-- BRIDGE_ANSWER (R503). A worker's answer to a bridged request is returned to the client. -/
  | bridgeAnswer
  /-- BRIDGE_TIMEOUT (R503). A forwarded request with no answer within the bridge timeout is answered no answer. -/
  | bridgeTimeout
  /-- ARP_REQUEST (R501). A manager answers an ARP request for its IPv4 address. -/
  | arpRequest
  /-- ICMP_ECHO (R501). A manager answers an ICMP echo request. -/
  | icmpEcho
  /-- AUTOSAVE (R519). The autosave delay and minimum interval have passed with changes pending, so a store begins. -/
  | autosave
  /-- SNAPSHOT_TICK_STORE (R517). At the first millisecond tick of the store, the retained values are recorded and the slot is erased and written. -/
  | snapshotTickStore
  /-- PERST (R564). PERST_N resets only the endpoint, which closes session 0 while acquisition runs on. -/
  | perst
  /-- FUNCTION_LEVEL_RESET (R564). A Function Level Reset acts as PERST_N does. -/
  | functionLevelReset
  /-- HOST_LINK_DOWN (R576). The PCI Express link goes down, which raises EV79 cause 2. -/
  | hostLinkDown
  /-- TAP_RESET (R609). TRST_N low, or five TMS-high clocks, resets the TAP controller with IDCODE selected. -/
  | tapReset
  /-- EXTEST (R613). EXTEST takes control of the digital balls while RESET_N is low, and otherwise acts as BYPASS and is refused. -/
  | tapExtest
  /-- IDCODE (R611). IDCODE selects the 32-bit identification register. -/
  | tapIdcode
  /-- CLAMP (R613). CLAMP holds the balls while RESET_N is low, and otherwise acts as BYPASS and is refused. -/
  | tapClamp
  /-- HIGHZ (R613). HIGHZ releases the balls while RESET_N is low, and otherwise acts as BYPASS and is refused. -/
  | tapHighz
  /-- BYPASS (R610). BYPASS, or any code not listed, selects the 1-bit bypass register. -/
  | tapBypass
  /-- DBGDATA_CAPTURE (R614). Capture-DR of DBGDATA loads the next word of the read buffer. -/
  | dbgdataCapture
  /-- DEBUG_COMMAND_DONE (R615). A debug command completes and its status becomes done or refused. -/
  | debugCommandDone
  /-- OWN_HELLO_TIMEOUT (R485). A manager's own hellos have been missing at its other ring port for the ring timeout, so its ring state becomes open and it raises ring opened. -/
  | ownHelloTimeout
  /-- VIN_RISES_THROUGH_10_V (R636). VIN reaches 10 V and the power die begins to drive FAULT_N asserted from its own start-up supply. -/
  | vinRisesThrough10V
  /-- VIN_FALLS_BELOW_10_V (R636). VIN falls below 10 V and FAULT_N stops being driven, so it reads as released through the external pull-up. -/
  | vinFallsBelow10V
  /-- MODULE_REMOVAL (R477). The SFP module is removed from port C, which clears the module-present bit of the module status. -/
  | moduleRemoval
  /-- BAD_REQUEST_RECEIVED (R576). The endpoint receives a poisoned or unsupported request, counts it and raises EV79 cause 4 with detail 0. -/
  | badRequestReceived
  deriving DecidableEq, Repr

end Sys2Proof
end

