-- ==== Sys2Proof/Config.lean ====
section
/-! DEFINITION. What an instance of the hub fixes (its variant), the architectural constants of the spec, and
the free values: what the spec leaves open. A free value has no body, so nothing can be proved of it. -/

namespace Sys2Proof

/-- The three variants of R4 (spec/00_scope.md). -/
inductive Variant
  | nxh384
  | nxh192
  | nxh096
  deriving DecidableEq, Repr

namespace Config

/-- Grid ticks in one second (R13: 24.576 MHz). -/
abbrev ticksPerSecond : Nat := 24576000

/-- Grid ticks in one millisecond. -/
abbrev ticksPerMs : Nat := 24576

/-- Cells present (R4, object 0x1020:02). -/
def cells : Variant → Nat
  | .nxh384 => 24
  | .nxh192 => 12
  | .nxh096 => 6

/-- Channels present (R4, object 0x1020:03). -/
def channels (v : Variant) : Nat := 16 * cells v

/-- Stream core B is present (R4). -/
def hasCoreB : Variant → Bool
  | .nxh384 => true
  | _ => false

/-- The host port is present (R4). -/
def hasHostPort : Variant → Bool
  | .nxh384 => true
  | _ => false

/-- Port C, the codec and the manager role are present (R4). -/
def hasManager : Variant → Bool
  | .nxh096 => false
  | _ => true

/-- Open-wire pull currents are present (R4, R10). -/
def hasPull : Variant → Bool
  | .nxh384 => true
  | _ => false

/-- DRAM size in bytes (R4; 1 MB is 2^20 bytes under R374). -/
def dramBytes : Variant → Nat
  | .nxh384 => 512 * 1048576
  | .nxh192 => 256 * 1048576
  | .nxh096 => 128 * 1048576

/-- Free value: the increment that the firmware servo writes after a Sync (R206 states that it writes, not what). -/
opaque servoIncrement : Nat → BitVec 64

/-- Free value: the rate adjustment that the firmware servo writes while it converges (R206). -/
opaque servoRate : Nat → BitVec 64

/-- Free value: the attenuation at the chopper's odd harmonics in 0.01 dB is rounded up (R164 states no rounding), by decimation word,
power mode and the coefficients of the active set. -/
opaque chopperUp : Nat → Nat → List Int → Bool

/-- Free value: the same attenuation where the chain has no DC response to measure it by, or responds more strongly than at DC (R164
states no value there). -/
opaque chopperRejection : Nat → Nat → List Int → BitVec 16

/-- Free value: a pulse at a digital input of one tick less than the filter length passes (R262 promises nothing). -/
opaque glitchPasses : Nat → Bool

/-- Free value: the DRAM address of capture-region offset 0 (R281), by the partition sizes in use. -/
opaque regionBase : Nat → Nat → BitVec 64

/-- Free value: the clock accuracy that a ring grandmaster announces (R200 names the class alone). -/
opaque gmAccuracy : BitVec 8

/-- Free value: the clock variance that a ring grandmaster announces. -/
opaque gmVariance : BitVec 16

/-- Free value: the DRAM address of the DMA buffer, the first 4 MiB of the system reserve (R446 names the object, not the
address). -/
opaque dmaBase : BitVec 64

/-- Free value: a byte of DRAM whose place the spec does not give (the spill ring, the rushes rings, the records), by the
model's counter and the address. -/
opaque dramByte : Nat → Nat → BitVec 8

/-- Free value: a test DAC is at its current limit (R116, subindex 0x03: the spec states no event for it), by grid count and
cell. -/
opaque testDacLimited : Nat → Nat → Bool

/-- Free value: which of the free sessions an OPEN SESSION opens (R494 names none), by the model's counter. -/
opaque sessionPick : Nat → BitVec 8

/-- Free value: what a recorder slot holds after a failed write, or a word that an uncorrectable error has met (R559 states no
contents), by the record's sequence number. -/
opaque failedSlot : Nat → List Byte

/-- Free value: the detail of EV47 where a write to the auxiliary converter's configuration is discarded (R143 has it fail as a
routing write, whose event names a cell; the converter has none), by session. -/
opaque auxDiscardDetail : Nat → BitVec 32

/-- Free value: the size of a snapshot of the retained values (R516 gives no layout), by those that differ from their
defaults. -/
opaque storeSize : List (Nat × Int) → List (Nat × List Byte) → BitVec 32

/-- Free value: the size of a core's snapshot (R403 gives no layout), by the entries that differ from their defaults. -/
opaque coreSnapshotSize : List (Nat × Int) → BitVec 32

/-- Free value: a byte of the image A region of the flash that nothing has written since the image was emptied (the spec gives no
contents for it), by offset. -/
opaque flashByte : Nat → BitVec 8

/-- Free value: the version that an image's header names (R596 gives no header layout), by the image's bytes. -/
opaque imageVersion : List (Nat × Byte) → BitVec 32

/-- Free value: a module's 256 bytes of identification report 10GBASE-R capability (R476 names no byte). -/
opaque reports10G : List Byte → Bool

end Config

end Sys2Proof
end

