-- ==== Sys2Proof/Machine/Arith.lean ====
section
/-! DEFINITION. Arithmetic, byte-order and bit-field helpers: exact integers, narrowed explicitly. -/

namespace Sys2Proof.Machine

/-- The `n` low bytes of `v`, least significant first (R508). -/
def leBytes : Nat → Nat → Bytes
  | 0, _ => []
  | n + 1, v => BitVec.ofNat 8 v :: leBytes n (v / 256)

/-- The value of little-endian bytes (R508). -/
def leNat : Bytes → Nat
  | [] => 0
  | b :: bs => b.toNat + 256 * leNat bs

/-- `v` modulo 2^w, as an unsigned value. -/
def wrapU (w : Nat) (v : Int) : Int := v % (2 ^ w : Int)

/-- `v` modulo 2^w, as a two's complement value. -/
def wrapS (w : Nat) (v : Int) : Int :=
  (v + (2 ^ (w - 1) : Int)) % (2 ^ w : Int) - (2 ^ (w - 1) : Int)

/-- The two's complement reading of a `w`-bit unsigned value. -/
def toSigned (w : Nat) (v : Nat) : Int :=
  if v % 2 ^ w < 2 ^ (w - 1) then (v % 2 ^ w : Nat) else ((v % 2 ^ w : Nat) : Int) - (2 ^ w : Nat)

/-- `v` held between `lo` and `hi`. -/
def clampI (lo hi v : Int) : Int := if v < lo then lo else if hi < v then hi else v

/-- `v` lies outside `lo` to `hi`. -/
def outside (lo hi v : Int) : Bool := decide (v < lo) || decide (hi < v)

/-- Bit `b` of `m`. -/
def bit (m b : Nat) : Bool := (m / 2 ^ b) % 2 = 1

/-- Bits `hi` down to `lo` of `m`. -/
def bits (m hi lo : Nat) : Nat := (m / 2 ^ lo) % 2 ^ (hi + 1 - lo)

/-- `m` with bit `b` set. -/
def setBit (m b : Nat) : Nat := if bit m b then m else m + 2 ^ b

/-- `m` with bit `b` clear. -/
def clearBit (m b : Nat) : Nat := if bit m b then m - 2 ^ b else m

/-- `m` with bit `b` equal to `v`. -/
def putBit (m b : Nat) (v : Bool) : Nat := if v then setBit m b else clearBit m b

/-- The number of set bits among the `w` lowest. -/
def popCount (w m : Nat) : Nat := ((List.range w).filter (bit m ·)).length

/-- 1 for true. -/
def b2n (b : Bool) : Nat := if b then 1 else 0

/-- The least multiple of `m` at or above `a` (`a` itself when `m` is 0). -/
def ceilTo (m a : Nat) : Nat := if m = 0 then a else (a + m - 1) / m * m

/-- The quotient rounded up. -/
def ceilDiv (a b : Nat) : Nat := if b = 0 then 0 else (a + b - 1) / b

/-- The list with position `i` replaced; unchanged when there is none. -/
def setAt {α : Type} (xs : List α) (i : Nat) (x : α) : List α := xs.set i x

/-- The element at `i`, or `d`. -/
def getAt {α : Type} (xs : List α) (i : Nat) (d : α) : α := xs.getD i d

/-- The list with position `i` changed by `f`. -/
def modAt {α : Type} (xs : List α) (i : Nat) (f : α → α) : List α := xs.modify i f

/-- The last `n` elements. -/
def lastN {α : Type} (n : Nat) (xs : List α) : List α := xs.drop (xs.length - n)

/-- A byte string cut or padded with zeros to `n` bytes. -/
def padTo (n : Nat) (bs : Bytes) : Bytes := (bs ++ List.replicate (n - bs.length) 0).take n

/-- The bytes from `lo`, `n` of them. -/
def slice (bs : Bytes) (lo n : Nat) : Bytes := (bs.drop lo).take n

/-- The unsigned value of `n` bytes from offset `o`. -/
def leAt (bs : Bytes) (o n : Nat) : Nat := leNat (slice bs o n)

/-- Groups of `n` bytes. `fuel` bounds the groups. -/
def chunksF {α : Type} (n : Nat) : Nat → List α → List (List α)
  | 0, _ => []
  | k + 1, bs => if bs.isEmpty then [] else bs.take n :: chunksF n k (bs.drop n)

/-- Groups of `n` elements, in order. -/
def chunks {α : Type} (n : Nat) (bs : List α) : List (List α) := chunksF n bs.length bs

/-- The U16 values of a member list (R266, R298, R354). -/
def u16s (bs : Bytes) : List Nat := (chunks 2 bs).map leNat

/-- One bit of the reflected CRC-32C register (R342: polynomial 0x82F63B78 reflected). -/
def crcBit (c : Nat) : Nat := if c % 2 = 1 then (c / 2) ^^^ 0x82F63B78 else c / 2

/-- One byte into the CRC register. -/
def crcByte (c : Nat) (b : Byte) : Nat :=
  let c := c ^^^ b.toNat
  crcBit (crcBit (crcBit (crcBit (crcBit (crcBit (crcBit (crcBit c)))))))

/-- The CRC-32C of a byte string (R342 of spec/10_stream_codec.md). -/
def crc32c (bs : Bytes) : Nat := (bs.foldl crcByte 0xFFFFFFFF) ^^^ 0xFFFFFFFF

/-- A sparse table: a list of (key, value) with strictly rising keys. -/
abbrev Sparse (α : Type) := List (Nat × α)

/-- The value at a key, if listed. -/
def Sparse.find {α : Type} : Sparse α → Nat → Option α
  | [], _ => none
  | (k, v) :: m, i => if k = i then some v else Sparse.find m i

/-- The value at a key, or `d`. -/
def Sparse.get {α : Type} (m : Sparse α) (i : Nat) (d : α) : α := (Sparse.find m i).getD d

/-- The table with `i` listed as `v`, in key order. -/
def Sparse.put {α : Type} : Sparse α → Nat → α → Sparse α
  | [], i, v => [(i, v)]
  | (k, w) :: m, i, v =>
    if i < k then (i, v) :: (k, w) :: m
    else if i = k then (i, v) :: m
    else (k, w) :: Sparse.put m i v

/-- The table without key `i`. -/
def Sparse.del {α : Type} (m : Sparse α) (i : Nat) : Sparse α := m.filter (fun p => !(p.1 == i))

/-- The table with `i` set to `v`, unlisted when `v` is the default `d`: the canonical form. -/
def Sparse.store {α : Type} [DecidableEq α] (m : Sparse α) (i : Nat) (v d : α) : Sparse α :=
  if v = d then Sparse.del m i else Sparse.put m i v

/-- The keys rise strictly. -/
def Sparse.rising {α : Type} : Sparse α → Bool
  | [] => true
  | [_] => true
  | (a, _) :: (b, w) :: m => decide (a < b) && Sparse.rising ((b, w) :: m)

/-- UTF-8 continuation byte. -/
def utf8Cont (b : Byte) : Bool := decide (128 ≤ b.toNat) && decide (b.toNat < 192)

/-- Well-formed UTF-8 (R509, type STR), by fuel. -/
def utf8F : Nat → Bytes → Bool
  | 0, bs => bs.isEmpty
  | _ + 1, [] => true
  | k + 1, b :: bs =>
    let n := b.toNat
    if n < 128 then utf8F k bs
    else if n < 194 then false
    else if n < 224 then
      match bs with
      | c :: r => utf8Cont c && utf8F k r
      | _ => false
    else if n < 240 then
      match bs with
      | c :: d :: r =>
        utf8Cont c && utf8Cont d && !(n == 224 && decide (c.toNat < 160)) &&
          !(n == 237 && decide (160 ≤ c.toNat)) && utf8F k r
      | _ => false
    else if n < 245 then
      match bs with
      | c :: d :: e :: r =>
        utf8Cont c && utf8Cont d && utf8Cont e && !(n == 240 && decide (c.toNat < 144)) &&
          !(n == 244 && decide (144 ≤ c.toNat)) && utf8F k r
      | _ => false
    else false

/-- Well-formed UTF-8 (R509). -/
def utf8 (bs : Bytes) : Bool := utf8F bs.length bs

/-- The UTF-8 bytes of one scalar value. -/
def utf8Char (c : Char) : Bytes :=
  let n := c.toNat
  if n < 128 then [BitVec.ofNat 8 n]
  else if n < 2048 then [BitVec.ofNat 8 (192 + n / 64), BitVec.ofNat 8 (128 + n % 64)]
  else if n < 65536 then
    [BitVec.ofNat 8 (224 + n / 4096), BitVec.ofNat 8 (128 + n / 64 % 64), BitVec.ofNat 8 (128 + n % 64)]
  else
    [BitVec.ofNat 8 (240 + n / 262144), BitVec.ofNat 8 (128 + n / 4096 % 64),
      BitVec.ofNat 8 (128 + n / 64 % 64), BitVec.ofNat 8 (128 + n % 64)]

/-- The UTF-8 bytes of a name. -/
def utf8Of (s : String) : Bytes := s.toList.flatMap utf8Char

end Sys2Proof.Machine
end

