-- ==== Sys2Proof/Machine/Entries.lean ====
section
/-! DEFINITION. The object dictionary's map: every object family of the index map (R532 of
spec/16_object_dictionary.md) with the type, access code, retained flag, default and plain range of each entry, as
the object tables of the chapters give them. Checks that a table states in words are in Machine/Dictionary.lean. -/

namespace Sys2Proof.Machine

/-- The types of R509 (spec/16_object_dictionary.md). -/
inductive Ty
  | bool | u8 | u16 | u32 | u64 | i8 | i16 | i32 | i64
  | q (m n : Nat)
  | time | grid | str | blob
  deriving DecidableEq, Repr

/-- The access codes of R510. -/
inductive Acc
  | ro | rw | wo | rws
  deriving DecidableEq, Repr

/-- How a table's default column gives the default. -/
inductive Dflt
  | num (v : Int)            -- a value
  | byVar (a b c : Int)      -- by variant: NXH384, NXH192, NXH096
  | seq (vs : List Int)      -- one value for each subindex of the row
  | empty                    -- an empty BLOB or STR
  | zeros (n : Nat)          -- n zero bytes
  | text (s : String)        -- a string
  | rule                     -- a rule gives it (Machine/Operands.lean)
  | calc                     -- computed from the configuration, no stored value (R507)
  | factory                  -- fixed at manufacture (R507)
  | sampled                  -- sampled at the release of reset (R24)
  deriving DecidableEq, Repr

/-- The plain range a table states; `any` where it states none or states it in words. -/
inductive Chk
  | any
  | rng (lo hi : Int)
  deriving DecidableEq, Repr

/-- One row of an object table: subindices `lo` to `hi` share it. -/
structure Entry where
  lo : Nat
  hi : Nat
  name : String
  ty : Ty
  acc : Acc
  ret : Bool
  dflt : Dflt
  chk : Chk
  deriving DecidableEq, Repr

/-- The size in bytes (R509); 0 for STR and BLOB. -/
def Ty.size : Ty → Nat
  | .bool | .u8 | .i8 => 1
  | .u16 | .i16 => 2
  | .u32 | .i32 => 4
  | .u64 | .i64 | .grid => 8
  | .q m n => (m + n) / 8
  | .time => 10
  | .str | .blob => 0

/-- The type holds a byte string, not a number. -/
def Ty.isBytes : Ty → Bool
  | .str | .blob => true
  | _ => false

/-- The type code of R530. -/
def Ty.code : Ty → Nat
  | .bool => 1 | .u8 => 2 | .u16 => 3 | .u32 => 4 | .u64 => 5 | .i8 => 6 | .i16 => 7 | .i32 => 8 | .i64 => 9
  | .q _ _ => 10 | .time => 12 | .grid => 13 | .str => 14 | .blob => 15

/-- A value narrowed to its type: unsigned types wrap at 2^w, signed ones in two's complement. A TIME is held as its
total of nanoseconds and wraps with its 48-bit seconds. -/
def Ty.narrow : Ty → Int → Int
  | .bool, v => if v = 0 then 0 else 1
  | .u8, v => wrapU 8 v
  | .u16, v => wrapU 16 v
  | .u32, v => wrapU 32 v
  | .u64, v => wrapU 64 v
  | .grid, v => wrapU 64 v
  | .i8, v => wrapS 8 v
  | .i16, v => wrapS 16 v
  | .i32, v => wrapS 32 v
  | .i64, v => wrapS 64 v
  | .q m n, v => wrapS (m + n) v
  | .time, v => v % (1000000000 * 2 ^ 48)
  | .str, _ => 0
  | .blob, _ => 0

/-- A value encoded as the table of R509 states. -/
def Ty.encode (ty : Ty) (v : Int) : Bytes :=
  match ty with
  | .time => leBytes 6 (v / 1000000000).toNat ++ leBytes 4 (v % 1000000000).toNat
  | .str | .blob => []
  | t => leBytes t.size (v % (2 ^ (8 * t.size) : Int)).toNat

/-- The value that bytes of the right length stand for (R509). -/
def Ty.decode (ty : Ty) (bs : Bytes) : Int :=
  match ty with
  | .time => (leAt bs 0 6 : Int) * 1000000000 + (leAt bs 6 4 : Int)
  | .i8 => toSigned 8 (leNat bs)
  | .i16 => toSigned 16 (leNat bs)
  | .i32 => toSigned 32 (leNat bs)
  | .i64 => toSigned 64 (leNat bs)
  | .q m n => toSigned (m + n) (leNat bs)
  | .str | .blob => 0
  | _ => leNat bs

/-- One constructor for each object family of the index map (R532 of spec/16_object_dictionary.md). -/
inductive Obj
  | identity
  | variant
  | role
  | describe
  | dictSummary
  | store
  | factoryRestore
  | ring
  | link
  | kmp
  | bridge
  | fence
  | session
  | clock
  | ptpPort
  | localClock
  | grid
  | slate
  | zoneSlate
  | tpo
  | capture
  | route
  | router
  | recorder
  | snapList
  | recSlots
  | recEmergency
  | custody
  | mismatch
  | resync
  | queues
  | queue
  | dmaEngine
  | sram
  | dmaCtl
  | dmaStat
  | endpoint
  | handoff
  | lgo
  | supply
  | temps
  | budget
  | startup
  | images
  | debug
  | debugCh
  | termRoute
  | routeStatus
  | driver
  | bias
  | refPower
  | testDac
  | spare
  | elements
  | cellCal
  | chFront
  | chFilter
  | chCorr
  | chThresh
  | chBands
  | chStatus
  | chCal
  | chLegacy
  | aux
  | auxSeq
  | auxRes
  | injected
  | injRes
  | cal
  | calImage
  | coefSet
  | firLoad
  | take
  | takeStat
  | takeMem
  | din
  | window
  | band
  | winLast
  | redLoad
  | codec
  | replay
  | stream
  | partitions
  | transmit
  | workers
  | zone
  | crossHub
  | crossLast
  | decoder
  | mgrAck
  | uplink
  | diagSummary
  | snapSet
  | snapLast
  | answers
  deriving DecidableEq, Repr

/-- Entries of the family `identity`: R527 of 16_object_dictionary.md. -/
def entIdentity : List Entry := [
  ⟨1, 1, "Vendor name", .str, .ro, false, .text "Palyaqua Devices", .any⟩,
  ⟨2, 2, "Product name", .str, .ro, false, .text "Rutha", .any⟩,
  ⟨3, 3, "Part number", .str, .ro, false, .factory, .any⟩,
  ⟨4, 4, "Hub identity", .u64, .ro, false, .factory, .any⟩,
  ⟨5, 5, "MAC address", .u64, .ro, false, .factory, .any⟩,
  ⟨6, 6, "Serial number", .str, .ro, false, .factory, .any⟩,
  ⟨7, 7, "Manufacture date", .u32, .ro, false, .factory, .any⟩,
  ⟨8, 8, "Silicon revision", .u16, .ro, false, .factory, .any⟩,
  ⟨9, 9, "Firmware version", .u32, .ro, false, .calc, .any⟩,
  ⟨10, 10, "Running image", .u8, .ro, false, .calc, .any⟩,
  ⟨11, 11, "Dictionary format", .u16, .ro, false, .num 1, .any⟩,
  ⟨12, 12, "User tag", .str, .rw, true, .empty, .any⟩,
  ⟨13, 13, "Location code", .u32, .rw, true, .num 0, .any⟩]

/-- Entries of the family `variant`: R6 of 00_scope.md. -/
def entVariant : List Entry := [
  ⟨1, 1, "Variant code", .u16, .ro, false, .byVar 900 402 150, .any⟩,
  ⟨2, 2, "Cells present", .u8, .ro, false, .byVar 24 12 6, .any⟩,
  ⟨3, 3, "Channels present", .u16, .ro, false, .byVar 384 192 96, .any⟩,
  ⟨4, 4, "Terminals present", .u16, .ro, false, .byVar 768 384 192, .any⟩,
  ⟨5, 5, "Stream cores", .u8, .ro, false, .byVar 2 1 1, .any⟩,
  ⟨6, 6, "Feature mask", .u32, .ro, false, .byVar 127 92 4, .any⟩,
  ⟨7, 7, "DRAM size (MB)", .u16, .ro, false, .byVar 512 256 128, .any⟩,
  ⟨8, 8, "Cell present mask", .u32, .ro, false, .byVar 16777215 4095 63, .any⟩]

/-- Entries of the family `role`: R25 of 01_architecture.md. -/
def entRole : List Entry := [
  ⟨1, 1, "Strap code", .u8, .ro, false, .sampled, .any⟩,
  ⟨2, 2, "Active role", .u8, .ro, false, .sampled, .any⟩,
  ⟨3, 3, "Role demoted", .bool, .ro, false, .sampled, .any⟩]

/-- Entries of the family `describe`: R529 of 16_object_dictionary.md. -/
def entDescribe : List Entry := [
  ⟨1, 1, "Query", .u32, .rw, false, .num 268435456, .any⟩,
  ⟨2, 2, "Result", .u16, .ro, false, .num 0, .any⟩,
  ⟨3, 3, "Type code", .u8, .ro, false, .num 0, .any⟩,
  ⟨4, 4, "Access", .u8, .ro, false, .num 0, .any⟩,
  ⟨5, 5, "Size (bytes)", .u16, .ro, false, .num 0, .any⟩,
  ⟨6, 6, "Maximum length (bytes)", .u16, .ro, false, .num 0, .any⟩,
  ⟨7, 7, "Fraction bits n", .u8, .ro, false, .num 0, .any⟩,
  ⟨8, 8, "Default", .blob, .ro, false, .empty, .any⟩,
  ⟨9, 9, "Highest subindex of the index", .u8, .ro, false, .num 0, .any⟩,
  ⟨10, 10, "Next index", .u16, .ro, false, .num 0, .any⟩,
  ⟨11, 11, "Name", .str, .ro, false, .empty, .any⟩]

/-- Entries of the family `dictSummary`: R531 of 16_object_dictionary.md. -/
def entDictSummary : List Entry := [
  ⟨1, 1, "Indices present", .u16, .ro, false, .calc, .any⟩,
  ⟨2, 2, "Entries present", .u32, .ro, false, .calc, .any⟩,
  ⟨3, 3, "Retained entries", .u32, .ro, false, .calc, .any⟩]

/-- Entries of the family `store`: R526 of 16_object_dictionary.md. -/
def entStore : List Entry := [
  ⟨1, 1, "Store command", .u8, .wo, false, .calc, .rng 1 1⟩,
  ⟨2, 2, "Autosave", .u8, .rw, true, .num 1, .rng 0 1⟩,
  ⟨3, 3, "Autosave delay (s)", .u16, .rw, true, .num 10, .rng 1 3600⟩,
  ⟨4, 4, "Autosave minimum interval (s)", .u16, .rw, true, .num 300, .rng 60 65535⟩,
  ⟨5, 5, "Store state", .u8, .ro, false, .num 0, .any⟩,
  ⟨6, 6, "Last store result", .u8, .ro, false, .num 0, .any⟩,
  ⟨7, 7, "Newest generation", .u32, .ro, false, .calc, .any⟩,
  ⟨8, 8, "Last snapshot tick", .grid, .ro, false, .num 0, .any⟩,
  ⟨9, 9, "Stores completed", .u32, .ro, false, .num 0, .any⟩,
  ⟨10, 10, "Restore result", .u8, .ro, false, .calc, .any⟩,
  ⟨11, 11, "Generation restored", .u32, .ro, false, .calc, .any⟩,
  ⟨12, 12, "Entries defaulted", .u32, .ro, false, .num 0, .any⟩,
  ⟨13, 13, "Snapshot size (bytes)", .u32, .ro, false, .calc, .any⟩,
  ⟨14, 14, "Slot size (bytes)", .u32, .ro, false, .num 2097152, .any⟩,
  ⟨15, 15, "Change count", .u32, .ro, false, .num 0, .any⟩,
  ⟨16, 16, "Erase count, copy 0", .u32, .ro, false, .calc, .any⟩,
  ⟨17, 17, "Erase count, copy 1", .u32, .ro, false, .calc, .any⟩]

/-- Entries of the family `factoryRestore`: R526 of 16_object_dictionary.md. -/
def entFactoryRestore : List Entry := [
  ⟨1, 1, "Command", .u8, .wo, false, .calc, .rng 1 2⟩,
  ⟨2, 2, "Armed", .bool, .ro, false, .calc, .any⟩,
  ⟨3, 3, "Scope", .u8, .rw, false, .num 0, .rng 0 1⟩]

/-- Entries of the family `ring`: R485 of 15_ports_and_kmp.md. -/
def entRing : List Entry := [
  ⟨1, 1, "Ring state", .u8, .ro, false, .num 0, .any⟩,
  ⟨2, 2, "Upstream port", .u8, .ro, false, .num 255, .any⟩,
  ⟨3, 3, "Ring position", .u8, .ro, false, .num 255, .any⟩,
  ⟨4, 4, "Hop count, port A", .u8, .ro, false, .num 255, .any⟩,
  ⟨5, 5, "Hop count, port B", .u8, .ro, false, .num 255, .any⟩,
  ⟨6, 6, "Manager identity", .u64, .ro, false, .num 0, .any⟩,
  ⟨7, 7, "Hello interval (µs)", .u16, .rw, true, .num 2000, .rng 500 50000⟩,
  ⟨8, 8, "Ring timeout (intervals)", .u8, .rw, true, .num 3, .rng 2 10⟩,
  ⟨9, 9, "Restore hold (ms)", .u16, .rw, true, .num 500, .rng 0 60000⟩,
  ⟨10, 10, "Revert hold (ms)", .u32, .rw, true, .num 5000, .rng 0 3600000⟩,
  ⟨11, 11, "Upstream changes", .u32, .ro, false, .num 0, .any⟩,
  ⟨12, 12, "Misdirected frames dropped", .u32, .ro, false, .num 0, .any⟩]

/-- Entries of the family `link`: R477 of 15_ports_and_kmp.md. -/
def entLink : List Entry := [
  ⟨1, 1, "Enable", .bool, .rw, true, .num 1, .any⟩,
  ⟨2, 2, "Speed select", .u8, .rw, true, .num 0, .any⟩,
  ⟨3, 3, "Link state", .u8, .ro, false, .num 0, .any⟩,
  ⟨4, 4, "Speed in use (Mb/s)", .u16, .ro, false, .num 0, .any⟩,
  ⟨5, 5, "Frames received", .u64, .ro, false, .num 0, .any⟩,
  ⟨6, 6, "Frames sent", .u64, .ro, false, .num 0, .any⟩,
  ⟨7, 7, "FCS errors", .u32, .ro, false, .num 0, .any⟩,
  ⟨8, 8, "Foreign or oversize frames dropped", .u32, .ro, false, .num 0, .any⟩,
  ⟨9, 9, "Egress drops", .u32, .ro, false, .num 0, .any⟩,
  ⟨10, 10, "Link-down events", .u32, .ro, false, .num 0, .any⟩,
  ⟨11, 11, "Peer identity", .u64, .ro, false, .num 0, .any⟩,
  ⟨12, 12, "Ready tick", .grid, .ro, false, .num 0, .any⟩,
  ⟨13, 13, "Module status", .u8, .ro, false, .num 0, .any⟩,
  ⟨14, 14, "Module identification", .blob, .ro, false, .empty, .any⟩,
  ⟨15, 15, "VLAN ID", .u16, .rw, true, .num 0, .rng 0 4094⟩]

/-- Entries of the family `kmp`: R504 of 15_ports_and_kmp.md. -/
def entKmp : List Entry := [
  ⟨1, 1, "Sessions open", .u8, .ro, false, .num 0, .any⟩,
  ⟨2, 2, "Requests served", .u64, .ro, false, .num 0, .any⟩,
  ⟨3, 3, "Messages discarded", .u32, .ro, false, .num 0, .any⟩,
  ⟨4, 4, "Session expiries", .u32, .ro, false, .num 0, .any⟩,
  ⟨5, 5, "Notification sink MAC", .u64, .rw, true, .num 0, .rng 0 281474976710655⟩,
  ⟨6, 6, "Notification sink IPv4", .u32, .rw, true, .num 0, .any⟩,
  ⟨7, 7, "Notification UDP port", .u16, .rw, true, .num 47902, .any⟩,
  ⟨8, 8, "Notifications sent", .u32, .ro, false, .num 0, .any⟩]

/-- Entries of the family `bridge`: R504 of 15_ports_and_kmp.md. -/
def entBridge : List Entry := [
  ⟨1, 1, "IPv4 address", .u32, .rw, true, .num 0, .any⟩,
  ⟨2, 2, "Prefix length", .u8, .rw, true, .num 24, .rng 8 30⟩,
  ⟨3, 3, "Bridge UDP port", .u16, .rw, true, .num 47900, .any⟩,
  ⟨4, 4, "Bridge timeout (ms)", .u16, .rw, true, .num 500, .rng 10 10000⟩,
  ⟨5, 5, "Requests bridged", .u64, .ro, false, .num 0, .any⟩,
  ⟨6, 6, "Bridge timeouts", .u32, .ro, false, .num 0, .any⟩,
  ⟨7, 7, "Refused as unreachable", .u32, .ro, false, .num 0, .any⟩]

/-- Entries of the family `fence`: R432 of 13_queues_and_ordering.md. -/
def entFence : List Entry := [
  ⟨1, 1, "Open set", .u8, .wo, false, .calc, .rng 1 1⟩,
  ⟨2, 2, "Commit at tick", .grid, .wo, false, .calc, .any⟩,
  ⟨3, 3, "Abandon", .u8, .wo, false, .calc, .rng 1 1⟩,
  ⟨4, 4, "Fence lead (grid ticks)", .u32, .rw, true, .num 49152, .rng 24576 24576000⟩,
  ⟨5, 5, "Set timeout (s)", .u16, .rw, true, .num 60, .rng 1 3600⟩,
  ⟨6, 6, "Staging capacity (entries)", .u16, .ro, false, .num 4096, .any⟩]

/-- Entries of the family `session`: R437 of 13_queues_and_ordering.md. -/
def entSession : List Entry := [
  ⟨1, 1, "Mode", .u8, .ro, false, .num 0, .any⟩,
  ⟨2, 2, "Staged entries", .u16, .ro, false, .num 0, .any⟩,
  ⟨3, 3, "Set opened tick", .grid, .ro, false, .num 0, .any⟩,
  ⟨4, 4, "Last fence tick", .grid, .ro, false, .num 0, .any⟩,
  ⟨5, 5, "Last fence result", .u8, .ro, false, .num 0, .any⟩,
  ⟨6, 6, "First failing object", .u32, .ro, false, .num 0, .any⟩,
  ⟨7, 7, "Failure code", .u16, .ro, false, .num 0, .any⟩,
  ⟨8, 8, "Last immediate effective tick", .grid, .ro, false, .num 0, .any⟩,
  ⟨9, 9, "Fences performed", .u32, .ro, false, .num 0, .any⟩,
  ⟨10, 10, "Fences failed", .u32, .ro, false, .num 0, .any⟩]

/-- Entries of the family `clock`: R201 of 06_sample_grid_and_time.md. -/
def entClock : List Entry := [
  ⟨1, 1, "Domain number", .u8, .rw, true, .num 0, .rng 0 127⟩,
  ⟨2, 2, "Profile", .u8, .rw, true, .num 0, .rng 0 1⟩,
  ⟨3, 3, "Ring role", .u8, .rw, true, .num 0, .rng 0 1⟩,
  ⟨4, 4, "priority1", .u8, .rw, true, .num 128, .any⟩,
  ⟨5, 5, "priority2", .u8, .rw, true, .num 128, .any⟩,
  ⟨6, 6, "Clock identity", .u64, .ro, false, .factory, .any⟩,
  ⟨7, 7, "logSyncInterval", .i8, .rw, true, .num (-3), .rng (-7) 1⟩,
  ⟨8, 8, "logAnnounceInterval", .i8, .rw, true, .num 0, .rng (-3) 3⟩,
  ⟨9, 9, "logMinDelayReqInterval", .i8, .rw, true, .num (-3), .rng (-7) 4⟩,
  ⟨10, 10, "logMinPdelayReqInterval", .i8, .rw, true, .num 0, .rng (-3) 4⟩,
  ⟨11, 11, "announceReceiptTimeout", .u8, .rw, true, .num 3, .rng 2 10⟩,
  ⟨12, 12, "Port C transport", .u8, .rw, true, .num 0, .rng 0 1⟩]

/-- Entries of the family `ptpPort`: R202 of 06_sample_grid_and_time.md. -/
def entPtpPort : List Entry := [
  ⟨1, 1, "PTP enable", .bool, .rw, true, .num 1, .any⟩,
  ⟨2, 2, "Port state", .u8, .ro, false, .num 0, .any⟩,
  ⟨3, 3, "Mean link delay", .i64, .ro, false, .num 0, .any⟩,
  ⟨4, 4, "Delay asymmetry (ns)", .i32, .rw, true, .num 0, .rng (-100000) 100000⟩,
  ⟨5, 5, "Ingress latency (ns)", .u16, .ro, false, .factory, .any⟩,
  ⟨6, 6, "Egress latency (ns)", .u16, .ro, false, .factory, .any⟩,
  ⟨7, 7, "Sync received", .u32, .ro, false, .num 0, .any⟩,
  ⟨8, 8, "Frames corrected", .u32, .ro, false, .num 0, .any⟩]

/-- Entries of the family `localClock`: R207 of 06_sample_grid_and_time.md. -/
def entLocalClock : List Entry := [
  ⟨1, 1, "Local time", .time, .ro, false, .calc, .any⟩,
  ⟨2, 2, "Increment", .u64, .rw, false, .num 174762666667, .any⟩,
  ⟨3, 3, "Servo owner", .u8, .rw, true, .num 0, .rng 0 1⟩,
  ⟨4, 4, "Correction mode", .u8, .rw, false, .num 1, .rng 0 1⟩,
  ⟨5, 5, "Step (ns)", .i64, .wo, false, .calc, .any⟩,
  ⟨6, 6, "Rate adjustment (0.01 ppb)", .i32, .rw, false, .num 0, .rng (-100000000) 100000000⟩,
  ⟨7, 7, "Offset from master (ns)", .i64, .ro, false, .num 0, .any⟩,
  ⟨8, 8, "Mean path delay (ns)", .i64, .ro, false, .num 0, .any⟩,
  ⟨9, 9, "Step threshold (ns)", .u32, .rw, true, .num 1000000, .rng 1000 1000000000⟩,
  ⟨10, 10, "Steps made", .u32, .ro, false, .num 0, .any⟩,
  ⟨11, 11, "Master port", .u8, .ro, false, .num 255, .any⟩,
  ⟨12, 12, "Grandmaster identity", .u64, .ro, false, .num 0, .any⟩,
  ⟨13, 13, "currentUtcOffset (s)", .i16, .ro, false, .num 0, .any⟩,
  ⟨14, 14, "Servo state", .u8, .ro, false, .num 0, .any⟩]

/-- Entries of the family `grid`: R214 of 06_sample_grid_and_time.md. -/
def entGrid : List Entry := [
  ⟨1, 1, "Grid count", .grid, .ro, false, .num 0, .any⟩,
  ⟨2, 2, "Grid state", .u8, .ro, false, .num 0, .any⟩,
  ⟨3, 3, "Grid error e (ns)", .i64, .ro, false, .num 0, .any⟩,
  ⟨4, 4, "Lock threshold (ns)", .u32, .rw, true, .num 1000, .rng 100 100000⟩,
  ⟨5, 5, "Slew limit (ppb)", .u32, .rw, true, .num 100000, .rng 1000 200000⟩,
  ⟨6, 6, "Holdover grace (ms)", .u32, .rw, true, .num 10000, .rng 0 3600000⟩,
  ⟨7, 7, "Free-run timeout (ms)", .u32, .rw, true, .num 30000, .any⟩,
  ⟨8, 8, "Free-run marks SET", .bool, .rw, true, .num 1, .any⟩,
  ⟨9, 9, "Anchor tick", .grid, .ro, false, .num 0, .any⟩,
  ⟨10, 10, "Re-anchor command", .u8, .wo, false, .calc, .rng 1 1⟩,
  ⟨11, 11, "Re-anchor threshold (ns)", .u64, .rw, true, .num 100000000, .rng 1000000 1000000000000⟩,
  ⟨12, 12, "Anchors made", .u32, .ro, false, .num 0, .any⟩,
  ⟨13, 13, "DCO offset (ppb)", .i32, .ro, false, .num 0, .any⟩]

/-- Entries of the family `slate`: R228 of 06_sample_grid_and_time.md. -/
def entSlate : List Entry := [
  ⟨1, 1, "Request SLATE at tick", .grid, .wo, false, .calc, .any⟩,
  ⟨2, 2, "Ball mode", .u8, .rw, true, .num 0, .rng 0 2⟩,
  ⟨3, 3, "SLATE alignment (ticks)", .u32, .rw, true, .num 24576000, .any⟩,
  ⟨4, 4, "SLATE lead time (ticks)", .u32, .rw, true, .num 245760, .rng 24576 24576000⟩,
  ⟨5, 5, "Zone propagation", .bool, .rw, true, .num 0, .any⟩,
  ⟨6, 6, "Last SLATE tick", .grid, .ro, false, .num 0, .any⟩,
  ⟨7, 7, "SLATE count", .u32, .ro, false, .num 0, .any⟩,
  ⟨8, 8, "SLATE refused", .u32, .ro, false, .num 0, .any⟩]

/-- Entries of the family `zoneSlate`: R228 of 06_sample_grid_and_time.md. -/
def entZoneSlate : List Entry := [
  ⟨1, 1, "Zone SLATE at tick", .grid, .wo, false, .calc, .any⟩,
  ⟨2, 2, "Confirm mask", .u64, .ro, false, .num 0, .any⟩,
  ⟨3, 3, "Zone SLATE tick", .grid, .ro, false, .num 0, .any⟩]

/-- Entries of the family `tpo`: R217 of 06_sample_grid_and_time.md. -/
def entTpo : List Entry := [
  ⟨1, 1, "Mode", .u8, .rws, true, .num 0, .rng 0 2⟩,
  ⟨2, 2, "Timebase", .u8, .rws, true, .num 0, .rng 0 1⟩,
  ⟨3, 3, "Polarity", .u8, .rws, true, .num 0, .rng 0 1⟩,
  ⟨4, 4, "Start, grid", .grid, .rws, true, .num 0, .any⟩,
  ⟨5, 5, "Period, grid (ticks)", .u32, .rws, true, .num 24576000, .rng 25 4294967295⟩,
  ⟨6, 6, "Width, grid (ticks)", .u32, .rws, true, .num 41, .rng 3 4294967295⟩,
  ⟨7, 7, "Start, PTP", .time, .rws, true, .num 0, .any⟩,
  ⟨8, 8, "Period, PTP (ns)", .u64, .rws, true, .num 1000000000, .rng 1000 1000000000000⟩,
  ⟨9, 9, "Width, PTP (ns)", .u32, .rws, true, .num 1000, .rng 100 4294967295⟩,
  ⟨10, 10, "Pulse limit", .u32, .rws, true, .num 0, .any⟩,
  ⟨11, 11, "Lock gate", .u8, .rws, true, .num 0, .rng 0 1⟩,
  ⟨12, 12, "Pulses fired", .u32, .ro, false, .num 0, .any⟩,
  ⟨13, 13, "Pulses late or suppressed", .u32, .ro, false, .num 0, .any⟩]

/-- Entries of the family `capture`: R222 of 06_sample_grid_and_time.md. -/
def entCapture : List Entry := [
  ⟨1, 1, "Edge select", .u8, .rw, true, .num 0, .rng 0 3⟩,
  ⟨2, 2, "Event source", .u8, .rw, true, .num 0, .rng 0 95⟩,
  ⟨3, 3, "Last time", .time, .ro, false, .num 0, .any⟩,
  ⟨4, 4, "Last grid tick", .grid, .ro, false, .num 0, .any⟩,
  ⟨5, 5, "Last edge", .u8, .ro, false, .num 0, .any⟩,
  ⟨6, 6, "Capture count", .u32, .ro, false, .num 0, .any⟩,
  ⟨7, 7, "Overwritten", .u32, .ro, false, .num 0, .any⟩]

/-- Entries of the family `route`: R542 of 17_events_and_recorder.md. -/
def entRoute : List Entry := [
  ⟨1, 1, "Route mask", .u8, .rw, true, .rule, .any⟩,
  ⟨2, 2, "MSI-X vector", .u8, .rw, true, .num 0, .rng 0 31⟩,
  ⟨3, 3, "Legacy-output mask", .u16, .rw, true, .num 0, .any⟩,
  ⟨4, 4, "Snapshot list", .u8, .rw, true, .num 255, .any⟩,
  ⟨5, 5, "Cause mask", .u16, .rw, true, .num 65534, .any⟩,
  ⟨6, 6, "FAULT_N cause mask", .u16, .rw, true, .rule, .any⟩,
  ⟨7, 7, "Occurrences", .u32, .ro, false, .num 0, .any⟩,
  ⟨8, 8, "Last source tick", .grid, .ro, false, .num 0, .any⟩]

/-- Entries of the family `router`: R547 of 17_events_and_recorder.md. -/
def entRouter : List Entry := [
  ⟨1, 1, "FAULT_N asserted", .bool, .ro, false, .num 0, .any⟩,
  ⟨2, 2, "Clear fault latches", .u8, .wo, false, .calc, .rng 1 1⟩,
  ⟨3, 3, "Latched sources", .blob, .ro, false, .zeros 12, .any⟩,
  ⟨4, 4, "Raise software event", .u8, .wo, false, .calc, .rng 0 7⟩,
  ⟨5, 5, "Events received", .u64, .ro, false, .num 0, .any⟩,
  ⟨6, 6, "Events reported lost", .u32, .ro, false, .num 0, .any⟩,
  ⟨7, 7, "Fault latch sets", .u32, .ro, false, .num 0, .any⟩]

/-- Entries of the family `recorder`: R558 of 17_events_and_recorder.md. -/
def entRecorder : List Entry := [
  ⟨1, 1, "Repeat window (ms)", .u16, .rw, true, .num 1000, .rng 0 60000⟩,
  ⟨2, 2, "Notify holdoff (ms)", .u16, .rw, true, .num 1000, .rng 10 60000⟩,
  ⟨3, 3, "Next sequence", .u32, .ro, false, .num 0, .any⟩,
  ⟨4, 4, "Complete below", .u32, .ro, false, .num 0, .any⟩,
  ⟨5, 5, "Records written", .u32, .ro, false, .num 0, .any⟩,
  ⟨6, 6, "Merges", .u32, .ro, false, .num 0, .any⟩,
  ⟨7, 7, "Update count", .u32, .ro, false, .num 0, .any⟩,
  ⟨8, 8, "Snapshot timeouts", .u32, .ro, false, .num 0, .any⟩,
  ⟨9, 9, "Corrected errors", .u32, .ro, false, .num 0, .any⟩,
  ⟨10, 10, "Failed main slots", .u16, .ro, false, .num 0, .any⟩,
  ⟨11, 11, "Failed emergency slots", .u8, .ro, false, .num 0, .any⟩,
  ⟨12, 12, "Emergency records written", .u32, .ro, false, .num 0, .any⟩,
  ⟨13, 13, "Records not stored", .u32, .ro, false, .num 0, .any⟩,
  ⟨14, 14, "Recorder status", .u8, .ro, false, .num 0, .any⟩]

/-- Entries of the family `snapList`: R553 of 17_events_and_recorder.md. -/
def entSnapList : List Entry := [
  ⟨1, 1, "Entries", .blob, .rw, true, .empty, .any⟩,
  ⟨2, 2, "Words used", .u8, .ro, false, .num 0, .any⟩]

/-- Entries of the family `recSlots`: R557 of 17_events_and_recorder.md. -/
def entRecSlots : List Entry := [
  ⟨1, 128, "Recorder slot", .blob, .ro, false, .zeros 128, .any⟩]

/-- Entries of the family `recEmergency`: R557 of 17_events_and_recorder.md. -/
def entRecEmergency : List Entry := [
  ⟨1, 32, "Emergency slot", .blob, .ro, false, .zeros 128, .any⟩]

/-- Entries of the family `custody`: R405 of 12_redundant_stream_cores.md. -/
def entCustody : List Entry := [
  ⟨1, 1, "Custody", .u8, .ro, false, .num 0, .any⟩,
  ⟨2, 2, "Core A state", .u8, .ro, false, .calc, .any⟩,
  ⟨3, 3, "Core B state", .u8, .ro, false, .calc, .any⟩,
  ⟨4, 4, "Compare timeout T_c (µs)", .u16, .rw, true, .num 500, .rng 50 10000⟩,
  ⟨5, 5, "Handback", .u8, .rw, true, .byVar 1 0 0, .rng 0 1⟩,
  ⟨6, 6, "Automatic return", .u8, .rw, true, .num 1, .rng 0 1⟩,
  ⟨7, 7, "Command", .u8, .wo, false, .calc, .any⟩,
  ⟨8, 8, "Units compared", .u64, .ro, false, .num 0, .any⟩,
  ⟨9, 9, "Units released uncompared", .u64, .ro, false, .num 0, .any⟩,
  ⟨10, 10, "Mismatches", .u32, .ro, false, .num 0, .any⟩,
  ⟨11, 11, "Takeovers", .u32, .ro, false, .num 0, .any⟩,
  ⟨12, 12, "Hidden faults found", .u32, .ro, false, .num 0, .any⟩,
  ⟨13, 13, "Self-tests run", .u32, .ro, false, .num 0, .any⟩,
  ⟨14, 14, "Release mark", .u64, .ro, false, .num 0, .any⟩,
  ⟨15, 15, "Proving period (µs)", .u16, .rw, true, .num 1000, .rng 100 10000⟩]

/-- Entries of the family `mismatch`: R407 of 12_redundant_stream_cores.md. -/
def entMismatch : List Entry := [
  ⟨1, 1, "Unit formation tick", .grid, .ro, false, .num 0, .any⟩,
  ⟨2, 2, "Kind", .u8, .ro, false, .num 0, .any⟩,
  ⟨3, 3, "Unit key", .u64, .ro, false, .num 0, .any⟩,
  ⟨4, 4, "Custody at mismatch", .u8, .ro, false, .num 0, .any⟩,
  ⟨5, 5, "Verdict", .u8, .ro, false, .num 0, .any⟩,
  ⟨6, 6, "Suspect start", .grid, .ro, false, .num 0, .any⟩,
  ⟨7, 7, "Suspect end", .grid, .ro, false, .num 0, .any⟩]

/-- Entries of the family `resync`: R408 of 12_redundant_stream_cores.md. -/
def entResync : List Entry := [
  ⟨1, 1, "Snapshot size (bytes)", .u32, .ro, false, .calc, .any⟩,
  ⟨2, 2, "Catch-up limit (bytes)", .u32, .ro, false, .num 8388608, .any⟩,
  ⟨3, 3, "Last snapshot tick t_s", .grid, .ro, false, .num 0, .any⟩,
  ⟨4, 4, "Last resync duration (µs)", .u32, .ro, false, .num 0, .any⟩,
  ⟨5, 5, "Resync attempts", .u32, .ro, false, .num 0, .any⟩,
  ⟨6, 6, "Resync failures", .u32, .ro, false, .num 0, .any⟩,
  ⟨7, 7, "Resync attempt limit", .u8, .rw, true, .num 3, .rng 1 10⟩]

/-- Entries of the family `queues`: R428 of 13_queues_and_ordering.md. -/
def entQueues : List Entry := [
  ⟨1, 1, "Queues present", .u16, .ro, false, .calc, .any⟩,
  ⟨2, 2, "Corrected errors", .u64, .ro, false, .num 0, .any⟩,
  ⟨3, 3, "Uncorrectable errors", .u32, .ro, false, .num 0, .any⟩,
  ⟨4, 4, "Items flushed", .u32, .ro, false, .num 0, .any⟩,
  ⟨5, 5, "Writer overruns", .u32, .ro, false, .num 0, .any⟩,
  ⟨6, 6, "Corrected-error event step", .u32, .rw, true, .num 1024, .rng 1 4294967295⟩]

/-- Entries of the family `queue`: R427 of 13_queues_and_ordering.md. -/
def entQueue : List Entry := [
  ⟨1, 1, "Depth (stages)", .u8, .ro, false, .rule, .any⟩,
  ⟨2, 2, "Occupancy (words)", .u8, .ro, false, .num 0, .any⟩,
  ⟨3, 3, "Peak occupancy (words)", .u8, .rw, false, .num 0, .any⟩,
  ⟨4, 4, "Items passed", .u64, .ro, false, .num 0, .any⟩,
  ⟨5, 5, "Corrected errors", .u32, .ro, false, .num 0, .any⟩,
  ⟨6, 6, "Uncorrectable errors", .u32, .ro, false, .num 0, .any⟩,
  ⟨7, 7, "Items flushed", .u32, .ro, false, .num 0, .any⟩,
  ⟨8, 8, "Items dropped by error", .u32, .ro, false, .num 0, .any⟩,
  ⟨9, 9, "Writer overruns", .u32, .ro, false, .num 0, .any⟩,
  ⟨10, 10, "Flush command", .u8, .wo, false, .calc, .rng 1 1⟩,
  ⟨11, 11, "Flush state", .u8, .ro, false, .num 0, .any⟩,
  ⟨12, 12, "Last error tick", .grid, .ro, false, .num 0, .any⟩]

/-- Entries of the family `dmaEngine`: R469 of 14_channel_programs.md. -/
def entDmaEngine : List Entry := [
  ⟨1, 1, "Channels", .u8, .ro, false, .num 16, .any⟩,
  ⟨2, 2, "Program SRAM size (bytes)", .u32, .ro, false, .num 65536, .any⟩,
  ⟨3, 3, "SRAM corrected errors", .u32, .ro, false, .num 0, .any⟩,
  ⟨4, 4, "SRAM uncorrectable errors", .u32, .ro, false, .num 0, .any⟩,
  ⟨5, 5, "DMA buffer base", .u64, .ro, false, .calc, .any⟩,
  ⟨6, 6, "DMA buffer size (bytes)", .u32, .ro, false, .num 4194304, .any⟩,
  ⟨7, 7, "Copy-port beats", .u64, .ro, false, .num 0, .any⟩,
  ⟨8, 8, "Faults, all channels", .u32, .ro, false, .num 0, .any⟩]

/-- Entries of the family `sram`: R470 of 14_channel_programs.md. -/
def entSram : List Entry := [
  ⟨1, 64, "Page 0 to 63", .blob, .rw, true, .zeros 1024, .any⟩]

/-- Entries of the family `dmaCtl`: R471 of 14_channel_programs.md. -/
def entDmaCtl : List Entry := [
  ⟨1, 1, "Program address", .u16, .rw, true, .num 0, .any⟩,
  ⟨2, 2, "Priority", .u8, .rw, true, .num 0, .rng 0 3⟩,
  ⟨3, 3, "Start mode", .u8, .rw, true, .num 0, .rng 0 2⟩,
  ⟨4, 4, "Start source", .u8, .rw, true, .num 0, .rng 0 95⟩,
  ⟨5, 5, "Instruction budget", .u32, .rw, true, .num 1048576, .rng 16 4294967295⟩,
  ⟨6, 6, "Command", .u8, .wo, false, .calc, .rng 1 3⟩,
  ⟨7, 7, "Dictionary answer timeout (ms)", .u16, .rw, true, .num 100, .rng 1 10000⟩]

/-- Entries of the family `dmaStat`: R472 of 14_channel_programs.md. -/
def entDmaStat : List Entry := [
  ⟨1, 1, "State", .u8, .ro, false, .num 0, .any⟩,
  ⟨2, 2, "Instruction address", .u16, .ro, false, .num 0, .any⟩,
  ⟨3, 3, "Fault cause", .u8, .ro, false, .num 0, .any⟩,
  ⟨4, 4, "Instructions at fault", .u32, .ro, false, .num 0, .any⟩,
  ⟨5, 5, "Fault target", .u8, .ro, false, .num 0, .any⟩,
  ⟨6, 6, "Fault address", .u64, .ro, false, .num 0, .any⟩,
  ⟨7, 7, "Fault dictionary code", .u16, .ro, false, .num 0, .any⟩,
  ⟨8, 8, "Runs started", .u32, .ro, false, .num 0, .any⟩,
  ⟨9, 9, "Starts not taken", .u32, .ro, false, .num 0, .any⟩,
  ⟨10, 10, "Faults", .u32, .ro, false, .num 0, .any⟩,
  ⟨11, 11, "Pre-emptions", .u32, .ro, false, .num 0, .any⟩,
  ⟨12, 12, "Address registers", .blob, .ro, false, .zeros 128, .any⟩,
  ⟨13, 13, "Loop frames", .blob, .ro, false, .zeros 17, .any⟩,
  ⟨14, 14, "Last run start tick", .grid, .ro, false, .num 0, .any⟩]

/-- Entries of the family `endpoint`: R575 of 18_host_port_and_legacy_outputs.md. -/
def entEndpoint : List Entry := [
  ⟨1, 1, "Link state", .u8, .ro, false, .num 0, .any⟩,
  ⟨2, 2, "Link speed (0.1 GT/s)", .u8, .ro, false, .num 0, .any⟩,
  ⟨3, 3, "Link width", .u8, .ro, false, .num 0, .any⟩,
  ⟨4, 4, "Vendor ID", .u16, .ro, false, .factory, .any⟩,
  ⟨5, 5, "Device ID", .u16, .ro, false, .num 900, .any⟩,
  ⟨6, 6, "Doorbells served", .u64, .ro, false, .num 0, .any⟩,
  ⟨7, 7, "Doorbells refused", .u32, .ro, false, .num 0, .any⟩,
  ⟨8, 8, "Link-down events", .u32, .ro, false, .num 0, .any⟩,
  ⟨9, 9, "Bad requests received", .u32, .ro, false, .num 0, .any⟩,
  ⟨10, 10, "BAR2 window base (MB)", .u16, .rw, false, .num 0, .any⟩,
  ⟨11, 11, "BAR2 writes discarded", .u32, .ro, false, .num 0, .any⟩,
  ⟨12, 12, "MSI-X messages sent", .u64, .ro, false, .num 0, .any⟩]

/-- Entries of the family `handoff`: R574 of 18_host_port_and_legacy_outputs.md. -/
def entHandoff : List Entry := [
  ⟨1, 1, "Hand-off enable", .bool, .rw, true, .num 0, .any⟩,
  ⟨2, 2, "Ring size (bytes)", .u32, .ro, false, .num 2097152, .any⟩,
  ⟨3, 3, "Write offset", .u64, .ro, false, .num 0, .any⟩,
  ⟨4, 4, "Consumed offset", .u64, .rw, false, .num 0, .any⟩,
  ⟨5, 5, "Items not accepted", .u32, .ro, false, .num 0, .any⟩,
  ⟨6, 6, "Ring base", .u64, .ro, false, .calc, .any⟩]

/-- Entries of the family `lgo`: R578 of 18_host_port_and_legacy_outputs.md. -/
def entLgo : List Entry := [
  ⟨1, 1, "Mode", .u8, .rws, true, .num 0, .rng 0 2⟩,
  ⟨2, 2, "Frequency at zero scale (Hz)", .u16, .rws, true, .num 0, .rng 0 20000⟩,
  ⟨3, 3, "Frequency at full scale (Hz)", .u16, .rws, true, .num 10000, .rng 0 20000⟩,
  ⟨4, 4, "Polarity", .u8, .rws, true, .num 0, .rng 0 1⟩,
  ⟨5, 5, "Update period (grid ticks)", .u32, .rws, true, .num 24576, .any⟩,
  ⟨6, 6, "Fault behaviour", .u8, .rws, true, .num 0, .rng 0 1⟩,
  ⟨7, 7, "Fault frequency (Hz)", .u16, .rws, true, .num 0, .rng 0 20000⟩,
  ⟨8, 8, "Fault duty (0.01 %)", .u16, .rws, true, .num 0, .rng 0 10000⟩,
  ⟨9, 9, "Fault hold (ms)", .u32, .rws, true, .num 1000, .rng 0 3600000⟩,
  ⟨10, 10, "Release command", .u8, .wo, false, .calc, .rng 1 1⟩,
  ⟨11, 11, "State", .u8, .ro, false, .num 0, .any⟩,
  ⟨12, 12, "Output in use", .u32, .ro, false, .num 0, .any⟩,
  ⟨13, 13, "Fault entries", .u32, .ro, false, .num 0, .any⟩,
  ⟨14, 14, "Late values", .u32, .ro, false, .num 0, .any⟩]

/-- Entries of the family `supply`: R602 of 19_power_reset_startup.md. -/
def entSupply : List Entry := [
  ⟨1, 1, "VIN (mV)", .u32, .ro, false, .calc, .any⟩,
  ⟨2, 2, "Input current (mA)", .u16, .ro, false, .calc, .any⟩,
  ⟨3, 3, "Input power (mW)", .u32, .ro, false, .calc, .any⟩,
  ⟨4, 4, "VIN minimum since reset (mV)", .u32, .ro, false, .calc, .any⟩,
  ⟨5, 5, "VIN maximum since reset (mV)", .u32, .ro, false, .calc, .any⟩,
  ⟨6, 6, "Low warning (mV)", .u32, .rw, true, .num 38000, .rng 36000 75000⟩,
  ⟨7, 7, "High warning (mV)", .u32, .rw, true, .num 72000, .rng 36000 75000⟩,
  ⟨8, 8, "Warning hysteresis (mV)", .u16, .rw, true, .num 500, .rng 100 5000⟩,
  ⟨9, 9, "Excitation rail (mV)", .u32, .ro, false, .calc, .any⟩,
  ⟨10, 10, "Excitation rail input (mW)", .u32, .ro, false, .calc, .any⟩,
  ⟨11, 11, "Rail status", .u8, .ro, false, .calc, .any⟩,
  ⟨12, 12, "Rail faults", .u32, .ro, false, .num 0, .any⟩]

/-- Entries of the family `temps`: R603 of 19_power_reset_startup.md. -/
def entTemps : List Entry := [
  ⟨1, 5, "Temperature: power die, front-end die 0, front-end die 1, digital die, DRAM", .i16, .ro, false, .calc, .any⟩,
  ⟨6, 10, "Maximum since reset, same order", .i16, .ro, false, .calc, .any⟩,
  ⟨11, 11, "Warning (1/128 °C)", .i16, .rw, true, .num 12800, .rng 0 14080⟩,
  ⟨12, 12, "Hysteresis (1/128 °C)", .u16, .rw, true, .num 640, .rng 128 2560⟩,
  ⟨13, 13, "Status", .u16, .ro, false, .num 0, .any⟩,
  ⟨14, 14, "Warnings raised", .u32, .ro, false, .num 0, .any⟩]

/-- Entries of the family `budget`: R74 of 02_terminals_and_crosspoint.md. -/
def entBudget : List Entry := [
  ⟨1, 1, "Budget (µW)", .u32, .ro, false, .num 12000000, .any⟩,
  ⟨2, 2, "Effective allocation (µW)", .u32, .ro, false, .calc, .any⟩,
  ⟨3, 3, "Reserved total (µW)", .u32, .ro, false, .calc, .any⟩,
  ⟨4, 4, "Budget refusals", .u32, .ro, false, .num 0, .any⟩]

/-- Entries of the family `startup`: R605 of 19_power_reset_startup.md. -/
def entStartup : List Entry := [
  ⟨1, 1, "Reset cause", .u8, .ro, false, .calc, .any⟩,
  ⟨2, 2, "Boot count", .u32, .ro, false, .calc, .any⟩,
  ⟨3, 3, "Start-up phase", .u8, .ro, false, .calc, .any⟩,
  ⟨4, 4, "Boot end (ms)", .u32, .ro, false, .calc, .any⟩,
  ⟨5, 5, "Restore end (ms)", .u32, .ro, false, .calc, .any⟩,
  ⟨6, 6, "Hold-off end (ms)", .u32, .ro, false, .num 0, .any⟩,
  ⟨7, 7, "Calibration end (ms)", .u32, .ro, false, .num 0, .any⟩,
  ⟨8, 8, "Stream start tick", .grid, .ro, false, .num 0, .any⟩,
  ⟨9, 9, "Stream start condition", .u8, .rw, true, .num 0, .rng 0 1⟩,
  ⟨10, 10, "Restart command", .u8, .wo, false, .calc, .rng 1 2⟩,
  ⟨11, 11, "Watchdog resets", .u32, .ro, false, .calc, .any⟩]

/-- Entries of the family `images`: R606 of 19_power_reset_startup.md. -/
def entImages : List Entry := [
  ⟨1, 1, "Running image", .u8, .ro, false, .calc, .any⟩,
  ⟨2, 2, "Preferred image", .u8, .ro, false, .calc, .any⟩,
  ⟨3, 3, "Image A state", .u8, .ro, false, .calc, .any⟩,
  ⟨4, 4, "Image B state", .u8, .ro, false, .calc, .any⟩,
  ⟨5, 5, "Image A version", .u32, .ro, false, .calc, .any⟩,
  ⟨6, 6, "Image B version", .u32, .ro, false, .calc, .any⟩,
  ⟨7, 7, "Image command", .u8, .wo, false, .calc, .rng 1 5⟩,
  ⟨8, 8, "Update offset (bytes)", .u32, .ro, false, .num 0, .any⟩,
  ⟨9, 9, "Update segment", .blob, .wo, false, .calc, .any⟩,
  ⟨10, 10, "Update state", .u8, .ro, false, .num 0, .any⟩,
  ⟨11, 11, "Image size limit (bytes)", .u32, .ro, false, .num 20971520, .any⟩]

/-- Entries of the family `debug`: R624 of 20_debug_port.md. -/
def entDebug : List Entry := [
  ⟨1, 1, "IDCODE", .u32, .ro, false, .factory, .any⟩,
  ⟨2, 2, "Boundary scan in control", .bool, .ro, false, .num 0, .any⟩,
  ⟨3, 3, "Debug commands served", .u32, .ro, false, .num 0, .any⟩,
  ⟨4, 4, "Debug commands refused", .u32, .ro, false, .num 0, .any⟩,
  ⟨5, 5, "Boundary-scan refusals", .u32, .ro, false, .num 0, .any⟩,
  ⟨6, 6, "Halted channels", .u16, .ro, false, .num 0, .any⟩,
  ⟨7, 7, "Last debug command tick", .grid, .ro, false, .num 0, .any⟩,
  ⟨8, 8, "Boundary-scan length (bits)", .u16, .ro, false, .factory, .any⟩]

/-- Entries of the family `debugCh`: R620 of 20_debug_port.md. -/
def entDebugCh : List Entry := [
  ⟨1, 4, "Breakpoint 0 to 3 address", .u16, .rw, false, .num 65535, .any⟩,
  ⟨5, 5, "Halt on start", .bool, .rw, false, .num 0, .any⟩,
  ⟨6, 6, "Command", .u8, .wo, false, .calc, .rng 1 3⟩,
  ⟨7, 7, "Breakpoint hits", .u32, .ro, false, .num 0, .any⟩,
  ⟨8, 8, "Halt pending", .bool, .ro, false, .num 0, .any⟩]

/-- Entries of the family `termRoute`: R49 of 02_terminals_and_crosspoint.md. -/
def entTermRoute : List Entry := [
  ⟨1, 32, "Terminal route word, local terminal 0 to 31", .u32, .rws, true, .num 0, .any⟩]

/-- Entries of the family `routeStatus`: R60 of 02_terminals_and_crosspoint.md. -/
def entRouteStatus : List Entry := [
  ⟨1, 1, "Clamp active mask", .u32, .ro, false, .num 0, .any⟩,
  ⟨2, 2, "Clamp latched mask", .u32, .rw, false, .num 0, .any⟩,
  ⟨3, 3, "Clamp onset count", .u32, .ro, false, .num 0, .any⟩,
  ⟨4, 4, "Discarded routing writes", .u32, .ro, false, .num 0, .any⟩]

/-- Entries of the family `driver`: R65 of 02_terminals_and_crosspoint.md. -/
def entDriver : List Entry := [
  ⟨1, 1, "Mode", .u8, .rws, true, .num 0, .any⟩,
  ⟨2, 2, "Voltage setpoint (mV)", .u16, .rws, true, .num 5000, .rng 1000 10000⟩,
  ⟨3, 3, "Current setpoint (µA)", .u16, .rws, true, .num 1000, .rng 100 20000⟩,
  ⟨4, 4, "Current limit (µA)", .u16, .rws, true, .num 10000, .rng 1000 50000⟩,
  ⟨5, 5, "Sense routing", .u8, .ro, false, .num 0, .any⟩,
  ⟨6, 6, "Regulation state", .u8, .ro, false, .num 0, .any⟩,
  ⟨7, 7, "Allocation (µW)", .u32, .ro, false, .num 0, .any⟩,
  ⟨8, 8, "Out-of-regulation count", .u32, .ro, false, .num 0, .any⟩]

/-- Entries of the family `bias`: R68 of 02_terminals_and_crosspoint.md. -/
def entBias : List Entry := [
  ⟨1, 1, "Mode", .u8, .rws, true, .num 0, .any⟩,
  ⟨2, 2, "Current (µA)", .u16, .rws, true, .num 0, .rng 0 10000⟩,
  ⟨3, 3, "Voltage (mV)", .u16, .rws, true, .num 13000, .rng 500 24000⟩,
  ⟨4, 4, "Regulation state", .u8, .ro, false, .num 0, .any⟩,
  ⟨5, 5, "Allocation (µW)", .u32, .ro, false, .num 0, .any⟩]

/-- Entries of the family `refPower`: R108 of 03_modulators_and_references.md. -/
def entRefPower : List Entry := [
  ⟨1, 1, "Reference enable", .u8, .rws, true, .num 1, .rng 0 1⟩,
  ⟨2, 2, "Power mode", .u8, .rws, true, .num 0, .rng 0 1⟩,
  ⟨3, 3, "Reference state", .u8, .ro, false, .num 0, .any⟩,
  ⟨4, 4, "Modulator clock (kHz)", .u16, .ro, false, .num 6144, .any⟩,
  ⟨5, 5, "Ready tick", .grid, .ro, false, .num 0, .any⟩]

/-- Entries of the family `testDac`: R116 of 03_modulators_and_references.md. -/
def entTestDac : List Entry := [
  ⟨1, 1, "Code", .u16, .rws, true, .num 0, .rng 0 4095⟩,
  ⟨2, 2, "Series resistance", .u8, .rws, true, .num 0, .rng 0 1⟩,
  ⟨3, 3, "State", .u8, .ro, false, .num 0, .any⟩]

/-- Entries of the family `spare`: R106 of 03_modulators_and_references.md. -/
def entSpare : List Entry := [
  ⟨1, 1, "Spare assignment", .u8, .rws, false, .num 255, .any⟩,
  ⟨2, 2, "Failed modulator mask", .u32, .ro, false, .num 0, .any⟩,
  ⟨3, 3, "Substitution count", .u32, .ro, false, .num 0, .any⟩]

/-- Entries of the family `elements`: R94 of 03_modulators_and_references.md. -/
def entElements : List Entry := [
  ⟨1, 16, "Active elements, modulator of channel position 0 to 15", .u32, .ro, false, .num 32767, .any⟩,
  ⟨17, 17, "Active elements, spare modulator", .u32, .ro, false, .num 32767, .any⟩]

/-- Entries of the family `cellCal`: R255 of 07_calibration.md. -/
def entCellCal : List Entry := [
  ⟨1, 4, "Voltage trim, driver 0 to 3 (ppm)", .i32, .rws, false, .factory, .rng (-5000) 5000⟩,
  ⟨5, 8, "Current trim, driver 0 to 3 (ppm)", .i32, .rws, false, .factory, .rng (-5000) 5000⟩,
  ⟨9, 9, "Estimate view", .u8, .rw, false, .num 0, .rng 0 16⟩,
  ⟨10, 27, "Mismatch, element 0 to 17 (0.1 ppm)", .i16, .ro, false, .num 0, .any⟩,
  ⟨28, 28, "Element switches", .u32, .ro, false, .num 0, .any⟩,
  ⟨29, 29, "Last switch tick", .grid, .ro, false, .num 0, .any⟩,
  ⟨30, 30, "Interruption state", .u8, .ro, false, .num 0, .any⟩,
  ⟨31, 31, "Last interruption start", .grid, .ro, false, .num 0, .any⟩,
  ⟨32, 32, "Last interruption end", .grid, .ro, false, .num 0, .any⟩]

/-- Entries of the family `chFront`: R51 of 02_terminals_and_crosspoint.md, R95 of 03_modulators_and_references.md. -/
def entChFront : List Entry := [
  ⟨1, 1, "Input source", .u8, .rws, true, .num 1, .any⟩,
  ⟨2, 2, "IN+ terminal", .u8, .rws, true, .rule, .any⟩,
  ⟨3, 3, "IN− terminal", .u8, .rws, true, .rule, .any⟩,
  ⟨4, 4, "Driver association", .u8, .rws, true, .num 0, .any⟩,
  ⟨5, 5, "Settle hold (ms)", .u16, .rws, true, .num 0, .rng 0 60000⟩,
  ⟨6, 6, "Tracker corner", .u8, .rws, true, .num 0, .rng 0 2⟩,
  ⟨7, 7, "Gain code", .u8, .rws, true, .num 0, .rng 0 7⟩,
  ⟨8, 8, "Open-wire pull detection", .u8, .rws, true, .num 0, .rng 0 1⟩,
  ⟨9, 9, "Rail-stick mask", .u8, .rws, true, .num 0, .rng 0 15⟩,
  ⟨10, 10, "Modulator serving", .u8, .ro, false, .num 0, .any⟩,
  ⟨11, 11, "Overload count", .u32, .ro, false, .num 0, .any⟩,
  ⟨12, 12, "Open-wire count", .u32, .ro, false, .num 0, .any⟩]

/-- Entries of the family `chFilter`: R180 of 05_filter_chain.md. -/
def entChFilter : List Entry := [
  ⟨1, 1, "Decimation word", .u32, .rws, true, .num 2206203910, .any⟩,
  ⟨2, 2, "Total decimation D", .u32, .ro, false, .num 6144, .any⟩,
  ⟨3, 3, "Output rate (mS/s)", .u32, .ro, false, .num 1000000, .any⟩,
  ⟨4, 4, "Bank A set", .u8, .rws, true, .num 0, .rng 0 127⟩,
  ⟨5, 5, "Bank B set", .u8, .rws, true, .num 0, .rng 0 127⟩,
  ⟨6, 6, "Active bank", .u8, .rws, true, .num 0, .rng 0 1⟩,
  ⟨7, 7, "Cross-fade length (samples)", .u16, .rws, true, .num 1, .rng 1 4096⟩,
  ⟨8, 8, "Shift s1, after CIC", .u8, .rws, true, .num 8, .rng 0 31⟩,
  ⟨9, 9, "Shift s2, after halfband 1", .u8, .rws, true, .num 5, .rng 0 31⟩,
  ⟨10, 10, "Shift s3, after halfband 2", .u8, .rws, true, .num 9, .rng 0 31⟩,
  ⟨11, 11, "Shift s4, after FIR", .u8, .rws, true, .num 23, .rng 0 31⟩,
  ⟨12, 12, "Shift s5, after boxcar", .u8, .rws, true, .num 1, .rng 0 31⟩,
  ⟨13, 13, "Shift s6, after skew correction", .u8, .rws, true, .num 23, .rng 0 31⟩,
  ⟨14, 14, "Shift s7, after gain and offset", .u8, .rws, true, .num 0, .rng 0 31⟩,
  ⟨15, 15, "Settling floor (samples)", .u16, .rws, true, .num 0, .rng 0 65535⟩,
  ⟨16, 16, "Settling length L (samples)", .u16, .ro, false, .num 5, .any⟩,
  ⟨17, 17, "Chain delay (ns)", .u32, .ro, false, .num 1653239, .any⟩,
  ⟨18, 18, "Chopper rejection (0.01 dB)", .u16, .ro, false, .num 65535, .any⟩,
  ⟨19, 19, "Fade state", .u8, .ro, false, .num 0, .any⟩,
  ⟨20, 20, "Saturation count", .u32, .ro, false, .num 0, .any⟩]

/-- Entries of the family `chCorr`: R181 of 05_filter_chain.md. -/
def entChCorr : List Entry := [
  ⟨1, 1, "User gain", .q 8 24, .rws, true, .num 16777216, .any⟩,
  ⟨2, 2, "User offset (counts)", .i32, .rws, true, .num 0, .any⟩,
  ⟨3, 3, "Multiplier M", .i32, .ro, false, .num 1137777778, .any⟩,
  ⟨4, 4, "Offset A (counts)", .i32, .ro, false, .num 0, .any⟩,
  ⟨5, 8, "Skew taps H_0 to H_3", .i32, .ro, false, .seq [0, 8388608, 0, 0], .any⟩,
  ⟨9, 9, "Skew delay in use (ns)", .u16, .ro, false, .num 0, .any⟩]

/-- Entries of the family `chThresh`: R185 of 05_filter_chain.md. -/
def entChThresh : List Entry := [
  ⟨1, 1, "Mode", .u8, .rws, true, .num 0, .rng 0 2⟩,
  ⟨2, 2, "Level (counts)", .i32, .rws, true, .num 0, .rng (-8388608) 8388607⟩,
  ⟨3, 3, "Hysteresis (counts)", .u32, .rws, true, .num 0, .rng 0 16777215⟩,
  ⟨4, 4, "Dwell (samples)", .u16, .rws, true, .num 1, .rng 1 65535⟩,
  ⟨5, 5, "Blocking flags", .u8, .rws, true, .num 56, .any⟩,
  ⟨6, 6, "State", .u8, .ro, false, .num 0, .any⟩,
  ⟨7, 7, "Crossing count", .u32, .ro, false, .num 0, .any⟩,
  ⟨8, 8, "Mode", .u8, .rws, true, .num 0, .rng 0 2⟩,
  ⟨9, 9, "Level (counts)", .i32, .rws, true, .num 0, .rng (-8388608) 8388607⟩,
  ⟨10, 10, "Hysteresis (counts)", .u32, .rws, true, .num 0, .rng 0 16777215⟩,
  ⟨11, 11, "Dwell (samples)", .u16, .rws, true, .num 1, .rng 1 65535⟩,
  ⟨12, 12, "Blocking flags", .u8, .rws, true, .num 56, .any⟩,
  ⟨13, 13, "State", .u8, .ro, false, .num 0, .any⟩,
  ⟨14, 14, "Crossing count", .u32, .ro, false, .num 0, .any⟩]

/-- Entries of the family `chBands`: R311 of 09_reduction_engine.md. -/
def entChBands : List Entry := [
  ⟨1, 8, "Band slot 0 to 7", .u8, .rws, true, .num 255, .any⟩,
  ⟨9, 9, "Band saturation count", .u32, .ro, false, .num 0, .any⟩]

/-- Entries of the family `chStatus`: R549 of 17_events_and_recorder.md. -/
def entChStatus : List Entry := [
  ⟨1, 1, "Event enable", .u8, .rws, true, .num 15, .rng 0 15⟩,
  ⟨2, 2, "Last sample word", .u32, .ro, false, .num 0, .any⟩,
  ⟨3, 3, "Last sample index", .u64, .ro, false, .num 0, .any⟩,
  ⟨4, 4, "Last sample D", .u32, .ro, false, .num 0, .any⟩,
  ⟨5, 5, "Sticky flags", .u8, .rw, false, .num 0, .any⟩,
  ⟨6, 6, "Events raised", .u32, .ro, false, .num 0, .any⟩]

/-- Entries of the family `chCal`: R254 of 07_calibration.md. -/
def entChCal : List Entry := [
  ⟨1, 8, "Calibration gain, gain code 0 to 7", .q 2 30, .rws, false, .factory, .rng 536870912 1610612736⟩,
  ⟨9, 16, "Calibration offset, gain code 0 to 7 (counts)", .i32, .rws, false, .factory, .rng (-500000) 500000⟩,
  ⟨17, 17, "Front-end delay δ (ns)", .u16, .ro, false, .factory, .any⟩,
  ⟨18, 18, "Skew delay d (ns)", .u16, .rws, false, .rule, .rng 0 4095⟩,
  ⟨19, 19, "Validity mask", .u16, .ro, false, .num 0, .any⟩,
  ⟨20, 20, "Last calibration tick", .grid, .ro, false, .num 0, .any⟩]

/-- Entries of the family `chLegacy`: R577 of 18_host_port_and_legacy_outputs.md. -/
def entChLegacy : List Entry := [
  ⟨1, 1, "Output", .u8, .rws, true, .num 255, .any⟩,
  ⟨2, 2, "Source", .u8, .rws, true, .num 0, .rng 0 2⟩,
  ⟨3, 3, "Window", .u8, .rws, true, .num 0, .any⟩,
  ⟨4, 4, "Value at zero scale v0", .i64, .rws, true, .num 0, .any⟩,
  ⟨5, 5, "Value at full scale v1", .i64, .rws, true, .num 5000000, .any⟩,
  ⟨6, 6, "Blocking flags", .u8, .rws, true, .num 184, .any⟩,
  ⟨7, 7, "Sample lag (grid ticks)", .u32, .rws, true, .num 24576, .rng 0 24576000⟩,
  ⟨8, 8, "Stale limit (ms)", .u32, .rws, true, .num 0, .rng 0 3600000⟩,
  ⟨9, 9, "Last value used", .i64, .ro, false, .num 0, .any⟩]

/-- Entries of the family `aux`: R138 of 04_auxiliary_converter.md. -/
def entAux : List Entry := [
  ⟨1, 1, "Reference enable", .u8, .rws, true, .num 1, .rng 0 1⟩,
  ⟨2, 2, "Power mode", .u8, .rws, true, .num 0, .rng 0 1⟩,
  ⟨3, 3, "Reference state", .u8, .ro, false, .num 0, .any⟩,
  ⟨4, 4, "Scan period (grid ticks)", .u32, .rws, true, .num 24576, .rng 192 4294967040⟩,
  ⟨5, 5, "Sequence length", .u8, .rws, true, .num 0, .rng 0 64⟩,
  ⟨6, 6, "Scan count", .u32, .ro, false, .num 0, .any⟩,
  ⟨7, 7, "Scan start tick", .grid, .ro, false, .num 0, .any⟩,
  ⟨8, 8, "Scan overruns", .u32, .ro, false, .num 0, .any⟩,
  ⟨9, 9, "Scans suppressed by calibration", .u32, .ro, false, .num 0, .any⟩,
  ⟨10, 10, "Ready tick", .grid, .ro, false, .num 0, .any⟩]

/-- Entries of the family `auxSeq`: R139 of 04_auxiliary_converter.md. -/
def entAuxSeq : List Entry := [
  ⟨1, 64, "Sequence entry 1 to 64", .u32, .rws, true, .num 512, .any⟩]

/-- Entries of the family `auxRes`: R150 of 04_auxiliary_converter.md. -/
def entAuxRes : List Entry := [
  ⟨1, 64, "Regular result 1 to 64", .u64, .ro, false, .num 0, .any⟩]

/-- Entries of the family `injected`: R146 of 04_auxiliary_converter.md. -/
def entInjected : List Entry := [
  ⟨1, 1, "Injected request", .u32, .wo, false, .calc, .any⟩,
  ⟨2, 2, "Queue occupancy", .u8, .ro, false, .num 0, .any⟩,
  ⟨3, 3, "Refused requests", .u32, .ro, false, .num 0, .any⟩,
  ⟨4, 4, "Injected result count", .u32, .ro, false, .num 0, .any⟩,
  ⟨5, 5, "Flush", .u8, .wo, false, .calc, .any⟩]

/-- Entries of the family `injRes`: R146 of 04_auxiliary_converter.md. -/
def entInjRes : List Entry := [
  ⟨1, 16, "Injected result 0 to 15", .u64, .ro, false, .num 0, .any⟩]

/-- Entries of the family `cal`: R233 of 07_calibration.md. -/
def entCal : List Entry := [
  ⟨1, 1, "Command", .u32, .wo, false, .calc, .any⟩,
  ⟨2, 2, "Cell mask", .u32, .rw, true, .byVar 16777215 4095 63, .any⟩,
  ⟨3, 3, "Concurrency", .u8, .rw, true, .num 4, .rng 1 4⟩,
  ⟨4, 4, "Take guard (ms)", .u32, .rw, true, .num 1000, .rng 0 60000⟩,
  ⟨5, 5, "Run state", .u8, .ro, false, .num 1, .any⟩,
  ⟨6, 6, "Result code", .u8, .ro, false, .num 0, .any⟩,
  ⟨7, 7, "Runs completed", .u32, .ro, false, .num 0, .any⟩,
  ⟨8, 8, "Run start tick", .grid, .ro, false, .num 0, .any⟩,
  ⟨9, 9, "Hold-off remaining (ms)", .u16, .ro, false, .num 2000, .any⟩,
  ⟨10, 10, "Background selection", .u8, .rw, true, .num 1, .rng 0 1⟩,
  ⟨11, 11, "Estimation window", .u8, .rw, true, .num 24, .rng 20 28⟩,
  ⟨12, 12, "Switch margin (0.1 ppm)", .u16, .rw, true, .num 200, .rng 10 10000⟩,
  ⟨13, 13, "CALRES measured (mΩ)", .u32, .ro, false, .num 0, .any⟩,
  ⟨14, 14, "Element limit (0.1 ppm)", .u16, .rw, true, .num 5000, .rng 100 32767⟩,
  ⟨15, 15, "Automatic substitution", .u8, .rw, true, .num 1, .rng 0 1⟩,
  ⟨16, 16, "Skew target Δs (ns)", .u16, .rw, true, .num 64, .rng 0 4095⟩,
  ⟨17, 17, "Cells deferred", .u32, .ro, false, .num 0, .any⟩,
  ⟨18, 18, "Values refused", .u32, .ro, false, .num 0, .any⟩]

/-- Entries of the family `calImage`: R257 of 07_calibration.md. -/
def entCalImage : List Entry := [
  ⟨1, 1, "Calibration image", .blob, .rw, false, .calc, .any⟩]

/-- Entries of the family `coefSet`: R165 of 05_filter_chain.md. -/
def entCoefSet : List Entry := [
  ⟨1, 1, "Tap count N", .u8, .rw, true, .num 16, .rng 16 255⟩,
  ⟨2, 2, "Coefficients", .blob, .rw, true, .rule, .any⟩,
  ⟨3, 3, "Coefficient sum", .i32, .ro, false, .num 8388608, .any⟩,
  ⟨4, 4, "Symmetric", .bool, .ro, false, .num 1, .any⟩,
  ⟨5, 5, "References", .u16, .ro, false, .rule, .any⟩]

/-- Entries of the family `firLoad`: R167 of 05_filter_chain.md. -/
def entFirLoad : List Entry := [
  ⟨1, 1, "FIR load (taps/s)", .u64, .ro, false, .calc, .any⟩,
  ⟨2, 2, "FIR load limit (taps/s)", .u64, .ro, false, .num 6000000000, .any⟩,
  ⟨3, 3, "Load refusals", .u32, .ro, false, .num 0, .any⟩]

/-- Entries of the family `take`: R266 of 08_takes_and_triggers.md. -/
def entTake : List Entry := [
  ⟨1, 1, "Mode", .u8, .rws, true, .num 0, .rng 0 2⟩,
  ⟨2, 2, "Members", .blob, .rws, true, .empty, .any⟩,
  ⟨3, 3, "Pre-trigger N_pre (samples)", .u32, .rws, true, .num 0, .any⟩,
  ⟨4, 4, "Post-trigger N_post (samples)", .u32, .rws, true, .num 1024, .rng 1 1048576⟩,
  ⟨5, 8, "Start source 1 to 4", .u16, .rws, true, .num 0, .any⟩,
  ⟨9, 9, "Gate", .u16, .rws, true, .num 0, .any⟩,
  ⟨10, 10, "Stop source", .u16, .rws, true, .num 0, .any⟩,
  ⟨11, 11, "Time source start", .grid, .rws, true, .num 0, .any⟩,
  ⟨12, 12, "Time source period (grid ticks)", .u32, .rws, true, .num 0, .any⟩,
  ⟨13, 13, "Re-arm holdoff (samples)", .u32, .rws, true, .num 0, .rng 0 16777215⟩]

/-- Entries of the family `takeStat`: R295 of 08_takes_and_triggers.md. -/
def entTakeStat : List Entry := [
  ⟨1, 1, "State", .u8, .ro, false, .num 0, .any⟩,
  ⟨2, 2, "Network trigger", .grid, .wo, false, .calc, .any⟩,
  ⟨3, 3, "Arm command", .u8, .wo, false, .calc, .rng 1 1⟩,
  ⟨4, 4, "Takes recorded", .u32, .ro, false, .num 0, .any⟩,
  ⟨5, 5, "Takes truncated", .u32, .ro, false, .num 0, .any⟩,
  ⟨6, 6, "Short pre-trigger", .u32, .ro, false, .num 0, .any⟩,
  ⟨7, 7, "Missed triggers", .u32, .ro, false, .num 0, .any⟩,
  ⟨8, 8, "Gated triggers", .u32, .ro, false, .num 0, .any⟩,
  ⟨9, 9, "Last missed trigger tick", .grid, .ro, false, .num 0, .any⟩,
  ⟨10, 10, "Last trigger tick", .grid, .ro, false, .num 0, .any⟩,
  ⟨11, 11, "Last slack (grid ticks)", .u64, .ro, false, .num 0, .any⟩,
  ⟨12, 12, "Largest slack (grid ticks)", .u64, .rw, false, .num 0, .any⟩,
  ⟨13, 13, "Last record offset", .u64, .ro, false, .num 0, .any⟩,
  ⟨14, 14, "Rushes held (samples)", .u32, .ro, false, .num 0, .any⟩,
  ⟨15, 15, "Fill slot", .u32, .ro, false, .num 0, .any⟩]

/-- Entries of the family `takeMem`: R281 of 08_takes_and_triggers.md. -/
def entTakeMem : List Entry := [
  ⟨1, 1, "Rushes depth (samples)", .u32, .rws, true, .num 65536, .any⟩,
  ⟨2, 2, "Rushes partition (MB)", .u16, .rws, true, .byVar 96 48 24, .any⟩,
  ⟨3, 3, "Capture region (MB)", .u16, .rws, true, .byVar 128 64 32, .any⟩,
  ⟨4, 4, "DRAM write share (MB/s)", .u16, .rws, true, .num 400, .rng 10 1600⟩,
  ⟨5, 5, "Write offset", .u64, .ro, false, .num 0, .any⟩,
  ⟨6, 6, "Release offset", .u64, .rw, false, .num 0, .any⟩,
  ⟨7, 7, "Records committed", .u32, .ro, false, .num 0, .any⟩,
  ⟨8, 8, "Largest free run (bytes)", .u64, .ro, false, .calc, .any⟩,
  ⟨9, 9, "Missed records not stored", .u32, .ro, false, .num 0, .any⟩,
  ⟨10, 10, "Region base", .u64, .ro, false, .calc, .any⟩,
  ⟨11, 11, "Rushes channels", .u16, .ro, false, .num 0, .any⟩,
  ⟨12, 12, "Rushes partition in use (MB)", .u16, .ro, false, .calc, .any⟩,
  ⟨13, 13, "Capture region in use (MB)", .u16, .ro, false, .calc, .any⟩]

/-- Entries of the family `din`: R265 of 08_takes_and_triggers.md. -/
def entDin : List Entry := [
  ⟨1, 1, "Invert", .bool, .rw, true, .num 0, .any⟩,
  ⟨2, 2, "Filter length F (grid ticks)", .u16, .rw, true, .num 25, .rng 25 24576⟩,
  ⟨3, 3, "Maximum active time A (ms)", .u32, .rw, true, .num 0, .rng 0 3600000⟩,
  ⟨4, 4, "State", .u8, .ro, false, .num 0, .any⟩,
  ⟨5, 5, "Edges processed", .u32, .ro, false, .num 0, .any⟩,
  ⟨6, 6, "Glitches rejected", .u32, .ro, false, .num 0, .any⟩,
  ⟨7, 7, "Overruns", .u32, .ro, false, .num 0, .any⟩,
  ⟨8, 8, "Stuck declarations", .u32, .ro, false, .num 0, .any⟩,
  ⟨9, 9, "Last stuck tick", .grid, .ro, false, .num 0, .any⟩]

/-- Entries of the family `window`: R298 of 09_reduction_engine.md. -/
def entWindow : List Entry := [
  ⟨1, 1, "Mode", .u8, .rws, true, .num 0, .rng 0 2⟩,
  ⟨2, 2, "Members", .blob, .rws, true, .empty, .any⟩,
  ⟨3, 3, "Length W (grid ticks)", .u64, .rws, true, .num 24576000, .any⟩,
  ⟨4, 4, "Phase Φ (grid ticks)", .u64, .rws, true, .num 0, .any⟩,
  ⟨5, 5, "Take", .u8, .rws, true, .num 0, .rng 0 15⟩,
  ⟨6, 6, "Span", .u8, .rws, true, .num 0, .rng 0 2⟩,
  ⟨7, 7, "Lead trim (samples)", .u32, .rws, true, .num 0, .any⟩,
  ⟨8, 8, "Tail trim (samples)", .u32, .rws, true, .num 0, .any⟩,
  ⟨9, 9, "Exclusion mask", .u8, .rws, true, .num 248, .any⟩,
  ⟨10, 10, "Destination", .u8, .rws, true, .num 3, .rng 0 3⟩,
  ⟨11, 11, "Records produced", .u32, .ro, false, .num 0, .any⟩,
  ⟨12, 12, "Last window index", .u64, .ro, false, .num 0, .any⟩,
  ⟨13, 13, "Incomplete records", .u32, .ro, false, .num 0, .any⟩]

/-- Entries of the family `band`: R307 of 09_reduction_engine.md. -/
def entBand : List Entry := [
  ⟨1, 1, "Design D", .u32, .rw, true, .num 6144, .any⟩,
  ⟨2, 2, "Sections", .u8, .rw, true, .num 1, .rng 1 2⟩,
  ⟨3, 7, "Section 1: b0, b1, b2, a1, a2", .i32, .rw, true, .seq [1073741824, 0, 0, 0, 0], .any⟩,
  ⟨8, 12, "Section 2: b0, b1, b2, a1, a2", .i32, .rw, true, .seq [1073741824, 0, 0, 0, 0], .any⟩,
  ⟨13, 13, "Guard G (samples)", .u16, .rw, true, .num 0, .rng 0 65535⟩,
  ⟨14, 14, "References", .u16, .ro, false, .num 0, .any⟩]

/-- Entries of the family `winLast`: R317 of 09_reduction_engine.md. -/
def entWinLast : List Entry := [
  ⟨1, 1, "Last record", .blob, .ro, false, .empty, .any⟩]

/-- Entries of the family `redLoad`: R312 of 09_reduction_engine.md. -/
def entRedLoad : List Entry := [
  ⟨1, 1, "Reduction load (sections/s)", .u64, .ro, false, .num 0, .any⟩,
  ⟨2, 2, "Reduction load limit (sections/s)", .u64, .ro, false, .num 200000000, .any⟩,
  ⟨3, 3, "Load refusals", .u32, .ro, false, .num 0, .any⟩]

/-- Entries of the family `codec`: R346 of 10_stream_codec.md. -/
def entCodec : List Entry := [
  ⟨1, 1, "Coding", .u8, .rws, true, .num 1, .rng 0 1⟩,
  ⟨2, 2, "Maximum predictor order", .u8, .rws, true, .num 3, .rng 0 3⟩,
  ⟨3, 3, "Blocks released", .u64, .ro, false, .num 0, .any⟩,
  ⟨4, 4, "Coded blocks released", .u64, .ro, false, .num 0, .any⟩,
  ⟨5, 5, "Raw by size rule", .u64, .ro, false, .num 0, .any⟩,
  ⟨6, 6, "Overflow residuals", .u64, .ro, false, .num 0, .any⟩,
  ⟨7, 7, "Raw-equivalent bytes", .u64, .ro, false, .num 0, .any⟩,
  ⟨8, 8, "Bytes released", .u64, .ro, false, .num 0, .any⟩,
  ⟨9, 9, "Verification failures, core A", .u32, .ro, false, .num 0, .any⟩,
  ⟨10, 10, "Verification failures, core B", .u32, .ro, false, .num 0, .any⟩]

/-- Entries of the family `replay`: R351 of 10_stream_codec.md. -/
def entReplay : List Entry := [
  ⟨1, 1, "Block", .blob, .wo, false, .calc, .any⟩,
  ⟨2, 2, "Result", .u8, .ro, false, .num 0, .any⟩,
  ⟨3, 3, "Sample words", .blob, .ro, false, .empty, .any⟩,
  ⟨4, 4, "Blocks decoded", .u32, .ro, false, .num 0, .any⟩]

/-- Entries of the family `stream`: R354 of 11_streams_and_spill.md. -/
def entStream : List Entry := [
  ⟨1, 1, "Mode", .u8, .rws, true, .num 0, .rng 0 1⟩,
  ⟨2, 2, "Members", .blob, .rws, true, .empty, .any⟩,
  ⟨3, 3, "Block length B", .u16, .rws, true, .num 32, .any⟩,
  ⟨4, 4, "Frame budget (bytes)", .u16, .rws, true, .num 1500, .rng 1112 1500⟩,
  ⟨5, 5, "Packing hold (µs)", .u16, .rws, true, .num 20, .rng 0 10000⟩,
  ⟨6, 6, "State", .u8, .ro, false, .num 0, .any⟩,
  ⟨7, 7, "Instance number", .u32, .ro, false, .num 0, .any⟩,
  ⟨8, 8, "Next sequence", .u32, .ro, false, .num 0, .any⟩,
  ⟨9, 9, "Oldest held sequence", .u32, .ro, false, .num 0, .any⟩,
  ⟨10, 10, "Items sent", .u64, .ro, false, .num 0, .any⟩,
  ⟨11, 11, "Items resent", .u64, .ro, false, .num 0, .any⟩,
  ⟨12, 12, "Fallbacks", .u32, .ro, false, .num 0, .any⟩,
  ⟨13, 13, "Gap records written", .u32, .ro, false, .num 0, .any⟩,
  ⟨14, 14, "Spill bytes held", .u64, .ro, false, .num 0, .any⟩,
  ⟨15, 15, "Last fallback tick", .grid, .ro, false, .num 0, .any⟩]

/-- Entries of the family `partitions`: R374 of 11_streams_and_spill.md. -/
def entPartitions : List Entry := [
  ⟨1, 1, "Spill partition (MB)", .u16, .rws, true, .byVar 256 120 52, .any⟩,
  ⟨2, 2, "Records partition (MB)", .u16, .rws, true, .byVar 16 8 4, .any⟩,
  ⟨3, 3, "Spill reserve (1/64)", .u8, .rws, true, .num 4, .rng 1 32⟩,
  ⟨4, 4, "System reserve (MB)", .u16, .ro, false, .num 16, .any⟩,
  ⟨5, 5, "Gap store (MB)", .u16, .ro, false, .num 1, .any⟩,
  ⟨6, 6, "Spill bytes held", .u64, .ro, false, .num 0, .any⟩,
  ⟨7, 7, "Records bytes held", .u64, .ro, false, .num 0, .any⟩,
  ⟨8, 8, "Gap store bytes held", .u64, .ro, false, .num 0, .any⟩,
  ⟨9, 9, "Spill partition in use (MB)", .u16, .ro, false, .calc, .any⟩,
  ⟨10, 10, "Records partition in use (MB)", .u16, .ro, false, .calc, .any⟩]

/-- Entries of the family `transmit`: R372 of 11_streams_and_spill.md. -/
def entTransmit : List Entry := [
  ⟨1, 1, "Resend timeout (ms)", .u16, .rw, true, .num 20, .rng 2 1000⟩,
  ⟨2, 2, "Reachability timeout (ms)", .u16, .rw, true, .num 300, .rng 50 10000⟩,
  ⟨3, 3, "Resend rate limit (Mb/s)", .u16, .rw, true, .num 500, .rng 10 2000⟩,
  ⟨4, 4, "NACKs received", .u32, .ro, false, .num 0, .any⟩]

/-- Entries of the family `workers`: R486 of 15_ports_and_kmp.md. -/
def entWorkers : List Entry := [
  ⟨1, 62, "Identity at position 1 to 62", .u64, .rw, true, .num 0, .any⟩]

/-- Entries of the family `zone`: R486 of 15_ports_and_kmp.md. -/
def entZone : List Entry := [
  ⟨1, 1, "Learn command", .u8, .wo, false, .calc, .rng 1 1⟩,
  ⟨2, 2, "Reachable mask", .u64, .ro, false, .num 0, .any⟩,
  ⟨3, 3, "Segment B mask", .u64, .ro, false, .num 0, .any⟩,
  ⟨4, 4, "Ring size seen", .u8, .ro, false, .num 255, .any⟩,
  ⟨5, 5, "Unlisted workers", .u8, .ro, false, .num 0, .any⟩,
  ⟨6, 6, "Reachability timeout (ms)", .u16, .rw, true, .num 300, .rng 150 10000⟩,
  ⟨7, 7, "Learns made", .u32, .ro, false, .num 0, .any⟩]

/-- Entries of the family `crossHub`: R320 of 09_reduction_engine.md. -/
def entCrossHub : List Entry := [
  ⟨1, 1, "Mode", .u8, .rws, true, .num 0, .rng 0 1⟩,
  ⟨2, 2, "Source window", .u8, .rws, true, .num 0, .rng 0 31⟩,
  ⟨3, 3, "Contributions", .blob, .rws, true, .empty, .any⟩,
  ⟨4, 4, "Length W (grid ticks)", .u64, .rws, true, .num 24576000, .any⟩,
  ⟨5, 5, "Phase Φ (grid ticks)", .u64, .rws, true, .num 0, .any⟩,
  ⟨6, 6, "D", .u32, .rws, true, .num 6144, .any⟩,
  ⟨7, 7, "Band slots", .u64, .rws, true, .num 18446744073709551615, .any⟩,
  ⟨8, 8, "Deadline (ms)", .u32, .rws, true, .num 500, .rng 10 60000⟩,
  ⟨9, 9, "Records produced", .u32, .ro, false, .num 0, .any⟩,
  ⟨10, 10, "Incomplete records", .u32, .ro, false, .num 0, .any⟩,
  ⟨11, 11, "Late contributions", .u32, .ro, false, .num 0, .any⟩,
  ⟨12, 12, "Mismatched contributions", .u32, .ro, false, .num 0, .any⟩]

/-- Entries of the family `crossLast`: R325 of 09_reduction_engine.md. -/
def entCrossLast : List Entry := [
  ⟨1, 1, "Last combined record", .blob, .ro, false, .empty, .any⟩]

/-- Entries of the family `decoder`: R352 of 10_stream_codec.md. -/
def entDecoder : List Entry := [
  ⟨1, 1, "Blocks accepted", .u64, .ro, false, .num 0, .any⟩,
  ⟨2, 2, "Raw blocks accepted", .u64, .ro, false, .num 0, .any⟩,
  ⟨3, 3, "VFY blocks accepted", .u32, .ro, false, .num 0, .any⟩,
  ⟨4, 13, "Rejections, reason 1 to 10", .u32, .ro, false, .num 0, .any⟩,
  ⟨14, 14, "Last rejection", .u32, .ro, false, .num 0, .any⟩]

/-- Entries of the family `mgrAck`: R371 of 11_streams_and_spill.md. -/
def entMgrAck : List Entry := [
  ⟨1, 1, "Ack interval (µs)", .u16, .rw, true, .num 1000, .rng 100 10000⟩,
  ⟨2, 2, "NACK holdoff (µs)", .u16, .rw, true, .num 200, .rng 50 10000⟩,
  ⟨3, 3, "Retransmit interval (ms)", .u16, .rw, true, .num 5, .rng 1 1000⟩,
  ⟨4, 4, "Keepalive interval (ms)", .u16, .rw, true, .num 100, .rng 10 1000⟩,
  ⟨5, 5, "Reachability timeout (ms)", .u16, .rw, true, .num 300, .rng 50 10000⟩,
  ⟨6, 6, "Items accepted", .u64, .ro, false, .num 0, .any⟩,
  ⟨7, 7, "Duplicates", .u64, .ro, false, .num 0, .any⟩,
  ⟨8, 8, "Frames discarded", .u32, .ro, false, .num 0, .any⟩,
  ⟨9, 9, "NACKs sent", .u32, .ro, false, .num 0, .any⟩,
  ⟨10, 10, "Gap records written", .u32, .ro, false, .num 0, .any⟩]

/-- Entries of the family `uplink`: R383 of 11_streams_and_spill.md. -/
def entUplink : List Entry := [
  ⟨1, 1, "Uplink mode", .u8, .rw, true, .num 0, .rng 0 1⟩,
  ⟨2, 2, "Transport", .u8, .rw, true, .num 0, .rng 0 1⟩,
  ⟨3, 3, "Destination MAC", .u64, .rw, true, .num 0, .rng 0 281474976710655⟩,
  ⟨4, 4, "Destination IPv4", .u32, .rw, true, .num 0, .any⟩,
  ⟨5, 5, "UDP port", .u16, .rw, true, .num 47901, .any⟩,
  ⟨6, 6, "Frames sent", .u64, .ro, false, .num 0, .any⟩,
  ⟨7, 7, "Uplink bytes held", .u64, .ro, false, .num 0, .any⟩]

/-- Entries of the family `diagSummary`: R536 of 16_object_dictionary.md. -/
def entDiagSummary : List Entry := [
  ⟨1, 1, "Snapshot sets", .u8, .ro, false, .num 8, .any⟩,
  ⟨2, 2, "Snapshots taken", .u32, .ro, false, .num 0, .any⟩]

/-- Entries of the family `snapSet`: R533 of 16_object_dictionary.md. -/
def entSnapSet : List Entry := [
  ⟨1, 1, "Entry list", .blob, .rws, true, .empty, .any⟩,
  ⟨2, 2, "Period (grid ticks)", .u32, .rws, true, .num 0, .any⟩,
  ⟨3, 3, "Take now", .u8, .wo, false, .calc, .rng 1 1⟩,
  ⟨4, 4, "Last snapshot tick", .grid, .ro, false, .num 0, .any⟩]

/-- Entries of the family `snapLast`: R533 of 16_object_dictionary.md. -/
def entSnapLast : List Entry := [
  ⟨1, 1, "Snapshot", .blob, .ro, false, .empty, .any⟩,
  ⟨2, 2, "Snapshot sequence", .u32, .ro, false, .num 0, .any⟩]

/-- Entries of the family `answers`: R535 of 16_object_dictionary.md. -/
def entAnswers : List Entry := [
  ⟨1, 19, "Answers with status 0x0000 to 0x0012", .u32, .ro, false, .num 0, .any⟩]

/-- The entries of a family, subindex 0x00 apart (R506). -/
def Obj.entries : Obj → List Entry
  | .identity => entIdentity
  | .variant => entVariant
  | .role => entRole
  | .describe => entDescribe
  | .dictSummary => entDictSummary
  | .store => entStore
  | .factoryRestore => entFactoryRestore
  | .ring => entRing
  | .link => entLink
  | .kmp => entKmp
  | .bridge => entBridge
  | .fence => entFence
  | .session => entSession
  | .clock => entClock
  | .ptpPort => entPtpPort
  | .localClock => entLocalClock
  | .grid => entGrid
  | .slate => entSlate
  | .zoneSlate => entZoneSlate
  | .tpo => entTpo
  | .capture => entCapture
  | .route => entRoute
  | .router => entRouter
  | .recorder => entRecorder
  | .snapList => entSnapList
  | .recSlots => entRecSlots
  | .recEmergency => entRecEmergency
  | .custody => entCustody
  | .mismatch => entMismatch
  | .resync => entResync
  | .queues => entQueues
  | .queue => entQueue
  | .dmaEngine => entDmaEngine
  | .sram => entSram
  | .dmaCtl => entDmaCtl
  | .dmaStat => entDmaStat
  | .endpoint => entEndpoint
  | .handoff => entHandoff
  | .lgo => entLgo
  | .supply => entSupply
  | .temps => entTemps
  | .budget => entBudget
  | .startup => entStartup
  | .images => entImages
  | .debug => entDebug
  | .debugCh => entDebugCh
  | .termRoute => entTermRoute
  | .routeStatus => entRouteStatus
  | .driver => entDriver
  | .bias => entBias
  | .refPower => entRefPower
  | .testDac => entTestDac
  | .spare => entSpare
  | .elements => entElements
  | .cellCal => entCellCal
  | .chFront => entChFront
  | .chFilter => entChFilter
  | .chCorr => entChCorr
  | .chThresh => entChThresh
  | .chBands => entChBands
  | .chStatus => entChStatus
  | .chCal => entChCal
  | .chLegacy => entChLegacy
  | .aux => entAux
  | .auxSeq => entAuxSeq
  | .auxRes => entAuxRes
  | .injected => entInjected
  | .injRes => entInjRes
  | .cal => entCal
  | .calImage => entCalImage
  | .coefSet => entCoefSet
  | .firLoad => entFirLoad
  | .take => entTake
  | .takeStat => entTakeStat
  | .takeMem => entTakeMem
  | .din => entDin
  | .window => entWindow
  | .band => entBand
  | .winLast => entWinLast
  | .redLoad => entRedLoad
  | .codec => entCodec
  | .replay => entReplay
  | .stream => entStream
  | .partitions => entPartitions
  | .transmit => entTransmit
  | .workers => entWorkers
  | .zone => entZone
  | .crossHub => entCrossHub
  | .crossLast => entCrossLast
  | .decoder => entDecoder
  | .mgrAck => entMgrAck
  | .uplink => entUplink
  | .diagSummary => entDiagSummary
  | .snapSet => entSnapSet
  | .snapLast => entSnapLast
  | .answers => entAnswers
/-- Every family, in rising order of its lowest index. -/
def Obj.all : List Obj := [
  .identity, .variant, .role, .describe, .dictSummary, .store, .factoryRestore, .ring, .link, .kmp, .bridge, .fence, .session, .clock, .ptpPort, .localClock, .grid, .slate, .zoneSlate, .tpo, .capture, .route, .router, .recorder, .snapList, .recSlots, .recEmergency, .custody, .mismatch, .resync, .queues, .queue, .dmaEngine, .sram, .dmaCtl, .dmaStat, .endpoint, .handoff, .lgo, .supply, .temps, .budget, .startup, .images, .debug, .debugCh, .termRoute, .routeStatus, .driver, .bias, .refPower, .testDac, .spare, .elements, .cellCal, .chFront, .chFilter, .chCorr, .chThresh, .chBands, .chStatus, .chCal, .chLegacy, .aux, .auxSeq, .auxRes, .injected, .injRes, .cal, .calImage, .coefSet, .firLoad, .take, .takeStat, .takeMem, .din, .window, .band, .winLast, .redLoad, .codec, .replay, .stream, .partitions, .transmit, .workers, .zone, .crossHub, .crossLast, .decoder, .mgrAck, .uplink, .diagSummary, .snapSet, .snapLast, .answers]

/-- The lowest index of a family (R532). -/
def Obj.base : Obj → Nat
  | .identity => 0x1000
  | .variant => 0x1020
  | .role => 0x1022
  | .describe => 0x1030
  | .dictSummary => 0x1031
  | .store => 0x1100
  | .factoryRestore => 0x1101
  | .ring => 0x1200
  | .link => 0x1201
  | .kmp => 0x1210
  | .bridge => 0x1211
  | .fence => 0x1300
  | .session => 0x1310
  | .clock => 0x1400
  | .ptpPort => 0x1401
  | .localClock => 0x1410
  | .grid => 0x1500
  | .slate => 0x1520
  | .zoneSlate => 0x1521
  | .tpo => 0x1540
  | .capture => 0x1560
  | .route => 0x1600
  | .router => 0x1680
  | .recorder => 0x1700
  | .snapList => 0x1710
  | .recSlots => 0x1740
  | .recEmergency => 0x1750
  | .custody => 0x1800
  | .mismatch => 0x1801
  | .resync => 0x1802
  | .queues => 0x1900
  | .queue => 0x1910
  | .dmaEngine => 0x1A00
  | .sram => 0x1A10
  | .dmaCtl => 0x1A20
  | .dmaStat => 0x1A40
  | .endpoint => 0x1B00
  | .handoff => 0x1B10
  | .lgo => 0x1B40
  | .supply => 0x1C00
  | .temps => 0x1C10
  | .budget => 0x1C20
  | .startup => 0x1C30
  | .images => 0x1C31
  | .debug => 0x1D00
  | .debugCh => 0x1D10
  | .termRoute => 0x2010
  | .routeStatus => 0x2011
  | .driver => 0x2018
  | .bias => 0x2020
  | .refPower => 0x2030
  | .testDac => 0x2031
  | .spare => 0x2032
  | .elements => 0x2033
  | .cellCal => 0x2034
  | .chFront => 0x3000
  | .chFilter => 0x3001
  | .chCorr => 0x3002
  | .chThresh => 0x3003
  | .chBands => 0x3004
  | .chStatus => 0x3005
  | .chCal => 0x3006
  | .chLegacy => 0x3007
  | .aux => 0x4000
  | .auxSeq => 0x4001
  | .auxRes => 0x4002
  | .injected => 0x4010
  | .injRes => 0x4011
  | .cal => 0x4100
  | .calImage => 0x4110
  | .coefSet => 0x4200
  | .firLoad => 0x4280
  | .take => 0x4400
  | .takeStat => 0x4410
  | .takeMem => 0x4420
  | .din => 0x4480
  | .window => 0x4600
  | .band => 0x4620
  | .winLast => 0x4640
  | .redLoad => 0x4680
  | .codec => 0x4800
  | .replay => 0x4810
  | .stream => 0x4A00
  | .partitions => 0x4A80
  | .transmit => 0x4A81
  | .workers => 0x5000
  | .zone => 0x5001
  | .crossHub => 0x5400
  | .crossLast => 0x5440
  | .decoder => 0x5480
  | .mgrAck => 0x5500
  | .uplink => 0x5501
  | .diagSummary => 0x6000
  | .snapSet => 0x6010
  | .snapLast => 0x6020
  | .answers => 0x6030

/-- The distance in index between units of a family: cells 0x80, channels 8, others 1 (R532). -/
def Obj.stride : Obj → Nat
  | .termRoute | .routeStatus | .driver | .bias | .refPower | .testDac | .spare | .elements | .cellCal => 128
  | .chFront | .chFilter | .chCorr | .chThresh | .chBands | .chStatus | .chCal | .chLegacy => 8
  | _ => 1

/-- How many units of a family share one stride step (drivers 4, bias sources 16). -/
def Obj.inner : Obj → Nat
  | .driver => 4
  | .bias => 16
  | _ => 1

/-- The number of units the index map lists, presence of single units apart. -/
def Obj.count : Obj → Nat
  | .link | .ptpPort => 3
  | .session | .recSlots | .dmaCtl | .dmaStat | .lgo | .debugCh | .take | .takeStat | .din | .stream => 16
  | .tpo | .snapList | .snapSet | .snapLast => 8
  | .capture => 24
  | .route => 96
  | .queue => 195
  | .termRoute | .routeStatus | .driver | .bias | .refPower | .testDac | .spare | .elements | .cellCal => 24
  | .chFront | .chFilter | .chCorr | .chThresh | .chBands | .chStatus | .chCal | .chLegacy => 384
  | .coefSet => 128
  | .window | .band | .winLast => 32
  | .crossHub | .crossLast => 64
  | _ => 1

/-- An island code of R426 is present on a variant: cells, core B and the others. -/
def islandPresent (v : Variant) (i : Nat) : Bool :=
  if i < 24 then decide (i < Config.cells v) else if i = 26 then Config.hasCoreB v else decide (i < 31)

/-- Queue q exists on a variant: both its ends are present (R426). -/
def queuePresent (v : Variant) (q : Nat) : Bool :=
  if q < 24 then islandPresent v q
  else if q < 48 then islandPresent v (q - 24) && Config.hasCoreB v
  else if q < 72 then islandPresent v (q - 48)
  else if q < 96 then islandPresent v (q - 72) && Config.hasCoreB v
  else if q < 99 then true
  else if q = 99 then Config.hasCoreB v
  else if q < 131 then islandPresent v (q - 100)
  else if q < 162 then islandPresent v (q - 131)
  else if q < 193 then islandPresent v (q - 162)
  else if q = 193 then true
  else if q = 194 then Config.hasHostPort v
  else false

/-- Unit `u` of a family is present on a variant in a role (R8, R477, R202, R228, R409, R426; `mgr`: the active role is
manager). -/
def Obj.present (v : Variant) (mgr : Bool) (o : Obj) (u : Nat) : Bool :=
  match o with
  | .termRoute | .routeStatus | .refPower | .testDac | .spare | .elements | .cellCal => decide (u < Config.cells v)
  | .driver => decide (u / 4 < Config.cells v)
  | .bias => decide (u / 16 < Config.cells v)
  | .chFront | .chFilter | .chCorr | .chThresh | .chBands | .chStatus | .chCal | .chLegacy =>
    decide (u < Config.channels v)
  | .link | .ptpPort => decide (u < 2) || Config.hasManager v
  | .bridge | .codec | .replay => Config.hasManager v
  | .workers | .zone | .crossHub | .crossLast | .decoder | .mgrAck | .uplink => Config.hasManager v
  | .zoneSlate => mgr
  | .endpoint | .handoff => Config.hasHostPort v
  | .resync => Config.hasCoreB v
  | .queue => queuePresent v u && !(u == 129) && !(u == 160) && !(u == 186)
  | _ => true

/-- The index of unit `u` of a family. -/
def Obj.index (o : Obj) (u : Nat) : Nat := o.base + o.stride * (u / o.inner) + u % o.inner

/-- The unit of family `o` that an index names, if any. -/
def Obj.unitAt (o : Obj) (idx : Nat) : Option Nat :=
  let d := idx - o.base
  if o.base ≤ idx ∧ d % o.stride < o.inner ∧ d / o.stride < o.count then
    some (d / o.stride * o.inner + d % o.stride)
  else none

/-- The family and unit that an index names, present or not. -/
def locate (idx : Nat) : Option (Obj × Nat) :=
  Obj.all.findSome? (fun o => (o.unitAt idx).map (fun u => (o, u)))

/-- The highest subindex of an index (R506); objects 0x1201 and 0x1202 end at 0x0C (R477). -/
def Obj.top (o : Obj) (u : Nat) : Nat :=
  if o = .link ∧ u < 2 then 12 else (o.entries.map (·.hi)).foldl max 0

/-- The table row of an entry. -/
def Obj.entry (o : Obj) (u sub : Nat) : Option Entry :=
  if sub ≤ o.top u then o.entries.find? (fun e => decide (e.lo ≤ sub) && decide (sub ≤ e.hi)) else none

/-- The key of an entry in the register file. -/
def entryKey (o : Obj) (u sub : Nat) : Nat := o.index u * 256 + sub

end Sys2Proof.Machine
end

