-- ==== Sys2Proof/Machine/State.lean ====
section
/-! DEFINITION. The state of the hub: plain data. The object dictionary is a register file (`regs`, `blobs`), sparse
against the defaults of Machine/Entries.lean; beside it stands what the rules of spec/ keep that no entry shows. -/

namespace Sys2Proof.Machine

open Sys2Proof

/-- Why a step stops. Closed. -/
inductive Fault
  /-- Raised by `execHello`: a hello with a hop count above 62 means a ring beyond its rating (R478), whose behaviour R15
  leaves undefined. Safe: the model stops where the spec promises nothing. -/
  | ringBeyondRating
  deriving DecidableEq, Repr

/-- Why a command is refused. Closed. -/
inductive Refusal
  /-- Raised by an arm of `exec` whose meaning is not written yet. Safe: the model stops. -/
  | notModelled (mnemonic : String)
  deriving DecidableEq, Repr

/-- The status codes of R499. -/
inductive Code
  | success | noObject | notRoutable | outOfRange | inUse | access | excBudget | procBudget | queueFull | stagingFull
  | tooLate | internal | noSession | sessionsExhausted | lengthMismatch | blockSequence | unreachable | noAnswer
  | malformed
  deriving DecidableEq, Repr

/-- One write: an entry of the dictionary and the value written (`num` for a number, `bytes` for STR and BLOB). -/
structure Wr where
  obj : Obj
  u : Nat
  sub : Nat
  num : Int
  bytes : Bytes
  deriving DecidableEq, Repr

/-- One occurrence on an events queue (R537). -/
structure EvItem where
  src : Nat
  cause : Nat
  detail : Nat
  tick : Nat
  deriving DecidableEq, Repr

/-- One word of a queue (R411, R416): 64 data bits, the end-of-item mark, and on an events queue the occurrence that the
item carries. -/
structure QWord where
  data : Nat
  eoi : Bool
  ev : Option EvItem
  deriving DecidableEq, Repr

/-- The hidden state of one queue (R411 to R421): the full stages from the head, a push and a pop that wait, the words of
the item that the reader is in, and what error and flush leave to discard. -/
structure Queue where
  words : List QWord
  pushing : Option QWord
  popWaiting : Bool
  item : List QWord
  dropToMark : Bool        -- R419: the reader discards up to the next end mark
  dropNew : Bool           -- R419: the next word discarded begins an item
  dropIn : Bool            -- R420, R415: later words of a partly pushed item are discarded up to its end mark
  flushLeft : Nat          -- R421: words before the flush point still in the queue
  midItem : Bool           -- the writer has pushed words of an item whose end mark is still to come
  cause : Nat              -- cause code of the last loss: 2 flush or overrun, 3 error (R423)
  deriving DecidableEq, Repr

/-- What opened a flag interval; the closing rule names it. -/
inductive FSrc
  | clampOwn (term : Nat)
  | clampNbr (term : Nat)
  | excitation (unit : Nat)
  | overload (neg : Bool)
  | pull
  | rail
  | reference
  | powerMode
  | failed
  | freeRun
  | calibration
  | timed
  deriving DecidableEq, Repr

/-- A flag interval of a channel (R76, R83, R183): from `start` up to, but not including, `stop`; open while `none`. The
flag is its bit number in R182. -/
structure FlagIv where
  flag : Nat
  src : FSrc
  start : Nat
  stop : Option Nat
  deriving DecidableEq, Repr

/-- The settings of a channel whose point of effect R189 places at a sample or a switch tick. -/
inductive ChField
  | dec
  | shift (i : Nat)
  | bankRef (b : Nat)
  | active
  | fadeLen
  | floor
  | skewD
  | gUsr
  | oUsr
  | gCal
  | oCal
  | cmpMode (i : Nat)
  | cmpLevel (i : Nat)
  | cmpHyst (i : Nat)
  | cmpDwell (i : Nat)
  | cmpBlock (i : Nat)
  deriving DecidableEq, Repr

/-- A value of a stage with its saturation mark (R156). -/
structure Marked where
  x : Int
  m : Bool
  deriving DecidableEq, Repr

/-- The settings with which a chain computes its next sample (R189). `shifts` holds s1 to s7. -/
structure ChUse where
  dw : Nat
  shifts : List Nat
  bankA : Nat
  bankB : Nat
  active : Nat
  fadeLen : Nat
  floor : Nat
  d : Nat
  gUsr : Int
  oUsr : Int
  gCal : Int
  oCal : Int
  deriving DecidableEq, Repr

/-- The histories of stages 1 to 6, newest first (R157). An empty history is a cleared stage. -/
structure Hist where
  v : List Int
  h1 : List Marked
  h2 : List Marked
  fir : List Marked
  box : List Marked
  skew : List Marked
  deriving DecidableEq, Repr

/-- A cross-fade in progress (R169): FIR outputs done, outputs in all, the old and the new bank, and the samples left. -/
structure Fade where
  j : Nat
  total : Nat
  old : Nat
  new : Nat
  left : Nat
  deriving DecidableEq, Repr

/-- A change that waits for its point of effect (R189): its tick, and whether it waits for a decimation switch at that tick
(R190, R191) and not for the first sample at or after it. -/
structure Sched where
  tick : Nat
  field : ChField
  val : Int
  atSwitch : Bool
  deriving DecidableEq, Repr

/-- One comparator (R185, R186): the settings in use, its state, the run count, the first sample of the run, that sample's
VALUE, and the VALUE of the sample before it where R277 uses it. -/
structure Cmp where
  mode : Nat
  level : Int
  hyst : Int
  dwell : Nat
  block : Nat
  active : Bool
  run : Nat
  start : Nat
  v0 : Option Int
  v1 : Int
  deriving DecidableEq, Repr

/-- A crossing found and not yet performed (R187), with its position C and the channel's D (R276, R277). -/
structure Crossing where
  cmp : Nat
  active : Bool
  confirm : Nat
  start : Nat
  pos : Nat
  dn : Nat
  deriving DecidableEq, Repr

/-- What the overload detector found and has not yet performed (R96 to R98). -/
inductive OvlDue
  | onset (tick : Nat) (neg : Bool)
  | resetEnd (tick : Nat)
  | release (tick : Nat)
  deriving DecidableEq, Repr

/-- The overload detector of a channel (R96 to R99): the run of outer codes, the overload in progress with the tick at which
its latest reset ends, and the words since. -/
structure Ovl where
  run : Nat
  runStart : Nat
  on : Bool
  neg : Bool
  resetEnd : Nat
  window : List (Nat × Bool)
  due : List OvlDue
  cuts : List Nat                  -- switch ticks that the words have still to reach (R102)
  deriving DecidableEq, Repr

/-- The pull detector of a channel (R120): consecutive marked and unmarked phases, the ticks their runs start from, and what
was found and not yet performed. -/
structure Pull where
  marked : Nat
  unmarked : Nat
  startTick : Nat
  unmarkedTick : Nat
  on : Bool
  declareDue : Option (Nat × Nat)  -- (OWD start, tick of the declaration)
  releaseDue : Option Nat
  hold : Nat                       -- no phase that begins before this tick is marked (R122)
  since : Nat                      -- no phase that begins before this tick counts (R122)
  deriving DecidableEq, Repr

/-- One channel: its chain, comparators, detectors and flag intervals. -/
structure Chan where
  use : ChUse
  sched : List Sched
  hist : Hist
  buf : List Int                   -- levels received and not yet consumed, oldest first
  nextM : Option Nat               -- index m of the first of them: its period ends at grid tick 4·m (R157)
  nextK : Nat                      -- index of the next sample (R158)
  fade : Option Fade
  fadeWait : List Nat              -- active-bank changes waiting behind the fade (R171)
  refWait : List (Nat × Nat)       -- bank references waiting for the end of the fade (R168)
  slates : List Nat                -- performed SLATEs that the chain has still to meet (R192)
  cmp0 : Cmp
  cmp1 : Cmp
  crossings : List Crossing
  last : Option (Nat × Nat)        -- the latest sample (index, word) at the current D
  cmpHist : List (Nat × Nat × Bool) -- comparator states (grid time, comparator, state), newest first
  ovl : Ovl
  pull : Pull
  rail : Bool
  flags : List FlagIv
  stat : List (Nat × Nat × Nat)    -- periods of cell status received with a bit set: start, end, CLP OWD EXC NBR (R416)
  statTo : Option Nat              -- the tick up to which the cell status has been received
  delays : List (Nat × Nat)        -- the chain's delay K from a tick on, in millionths of a tick, newest first (R278)
  deriving DecidableEq, Repr

/-- What a cell puts into one of its queues (R415, R416): the tick of the next word, the words of the item still to come, and for
modulator words the overload detectors that the cell runs on the words it emits (R99). -/
structure Emit where
  next : Nat
  left : Nat
  ovls : List Ovl
  deriving DecidableEq, Repr

/-- One cell beside its objects: header ticks of modulator words and of cell status that the two cores expect (R424), the lost
periods, switches waiting to close (R59), reference and power-mode changes in progress (R109, R114) and past ones by tick, the
integrators held reset after a change of the spare's assignment (R104), the clamp episodes (R64, R75), what the cell emits,
element rotation (R93), and the pull voltages with the tick at which they were measured (R119). -/
structure CellSt where
  expA : Option Nat
  expB : Option Nat
  statA : Option Nat
  statB : Option Nat
  early : List (Bool × Nat × List Nat)  -- items (cell status?, tick, words) ahead of what the chains have, received whole
  missed : List (Nat × Bool × Nat × Nat)  -- (core, cell status?, from, to): lost by one core, the other not yet past it (R425)
  lost : List (Nat × Nat)
  closing : List (Nat × Nat)       -- (tick, switch)
  readyDue : Option Nat
  modeDue : Option (Nat × Nat)     -- (switch tick, mode)
  modes : List (Nat × Nat)         -- switch ticks and modes, newest first
  refs : List (Nat × Bool)         -- ticks at which the reference was enabled or switched off, newest first
  resets : List (Nat × Nat × Nat)  -- (position, start, end) of resets of R104
  spareDue : Option Nat
  clamps : List (Nat × Nat × Option Nat)  -- (terminal, onset, release)
  emit : List Emit                 -- modulator words to cores A and B, cell status to cores A and B
  rot : List Nat                   -- place in the active set at which each modulator takes its next element
  pullVolts : List Int
  pullAt : Option Nat
  deriving DecidableEq, Repr

/-- The auxiliary converter beside its objects: the scan in progress with the entries it runs under (R145), the injected
queue (R147) and the request in progress, the calibration claim (R153), pending changes (R135, R136, R145), and the intervals
in which its reference was not ready. -/
structure AuxSt where
  scan : Option Nat                -- start tick
  entry : Nat                      -- entry in progress, 1 to N
  entryStart : Option Nat          -- grid tick of its first slot; none while it waits to restart (R149)
  seq : List Nat                   -- the entries the scan runs under
  inj : List (Nat × Nat)           -- accepted and not yet started, oldest first: word and grid tick of acceptance
  injRun : Option (Nat × Nat)      -- the request in progress: word and grid tick of its first slot
  injFree : Nat                    -- grid tick from which the converter is free of earlier requests and steps
  claim : Nat                      -- 0 none, 1 claimed and waiting for requests, 2 in a step, 3 between steps
  ahead : Nat                      -- requests in the queue since before the claim, which run before its first step
  stepStart : Nat                  -- grid tick at which the step in progress began
  looked : Option Nat              -- last scan start tick looked at
  lowPower : Bool                  -- slot length in use
  sws : List (Nat × Bool)          -- slot-length switches, newest first: grid tick and the length before it
  modeDue : Option (Nat × Bool)
  period : Nat                     -- scan period in use, and the scan start tick from which on another is (R145)
  periodDue : Option (Nat × Nat)
  readyDue : Option Nat
  notReady : List (Nat × Option Nat)
  claims : List (Nat × Option Nat) -- ticks of calibration's claims to come, with the driver that a claim measures (R242)
  trimmed : List Nat               -- drivers measured under a claim
  deriving DecidableEq, Repr

/-- A set of staged writes pending under an accepted commit (R433): its tick, its place in the order of acceptance and its
writes. -/
structure PendSet where
  tick : Nat
  order : Nat
  writes : List Wr
  deriving DecidableEq, Repr

/-- A staged write made in immediate mode (R430): the tick of receipt and the place in the order of acceptance. -/
structure Imm where
  w : Wr
  at_ : Nat
  order : Nat
  deriving DecidableEq, Repr

/-- One session's staging (R429 to R437). -/
structure Stage where
  held : Bool
  set : List Wr
  opened : Nat
  pend : List PendSet
  imm : List Imm
  deriving DecidableEq, Repr

/-- What a route line carries to its destination (R544). -/
inductive RouteAct
  | pulse                                             -- DMA WAIT input (R454)
  | msix (vector : Nat)
  | take
  | lgo (mask : Nat)
  | notify (seq rep : Nat) (time : Int) (detail : Nat)
  deriving DecidableEq, Repr

/-- One occurrence in a route-line buffer. -/
structure RouteOcc where
  src : Nat
  cause : Nat
  tick : Nat
  act : RouteAct
  deriving DecidableEq, Repr

/-- A record accepted and not yet written (R552). `words` are its snapshot words in list order, one list for each entry. -/
structure PendRec where
  seq : Nat
  time : Int
  src : Nat
  cause : Nat
  detail : Nat
  rep : Nat
  flags : Nat
  list : Nat
  words : List (List Nat)
  tick : Nat
  notify : Bool
  deriving DecidableEq, Repr

/-- One entry of the merge table (R554). -/
structure MergeEnt where
  src : Nat
  cause : Nat
  detail : Nat
  seq : Nat
  updated : Nat
  notified : Option Nat            -- the last NOTIFY of the record
  rep : Nat
  deriving DecidableEq, Repr

/-- The router and the recorder beside their objects (R540 to R560). -/
structure EvSt where
  lost : Sparse Nat                -- island code ↦ occurrences discarded at the source (R548)
  lines : List (List RouteOcc)     -- DMA, core A, core B, management: the lines of each together
  lineLost : List Nat
  latches : List Nat               -- sources whose fault latch is set
  recs : List PendRec
  merge : List MergeEnt            -- least recently updated first
  failMain : List Nat
  failEmer : List Nat
  emerNext : Nat
  emerSeq : List (Nat × Nat)       -- (sequence, emergency slot)
  sticky : Bool
  deriving DecidableEq, Repr

/-- The residence time of a two-step Sync that has been forwarded, for its Follow_Up (R196): the message's source, domain and
sequence number, the egress port, and the correction in 2^−16 ns. -/
structure Resid where
  sender : Nat
  domain : Nat
  seq : Nat
  out : Nat
  corr : Int
  deriving DecidableEq, Repr

/-- The Pdelay exchange of a port (R199): the sequence number and grid tick of the last request, its egress timestamp in ns while the
exchange is open, and of a two-step response its ingress timestamp, its receipt time and its correction in 2^−16 ns. -/
structure Pdelay where
  seq : Nat
  last : Nat
  t1 : Option Int
  resp : Option (Int × Int × Int)
  deriving DecidableEq, Repr

/-- The local clock, the servo and the grid beside their objects (R203 to R215). -/
structure ClkSt where
  local_ : Rat                     -- the local clock in ns, exact
  marks : List (Nat × Rat × Rat)   -- changes of its time or rate, newest first: grid tick, time reached, rate until then
  started : Bool                   -- the step of start-up has been made (R206)
  twoStep : Option (Nat × Int × Int) -- a two-step Sync: sequence number, receipt in ns, correction in 2^−16 ns (R196)
  reqSeq : Nat                     -- sequence numbers of the last Delay_Req, Sync and Announce sent
  syncSeq : Nat
  annSeq : Nat
  resid : List Resid
  pdelay : List Pdelay             -- ports A, B, C
  stepDone : Bool                  -- a step was made since mode 1 was entered (R204)
  overN : Nat                      -- consecutive Sync messages above the step threshold (R206)
  lastSync : Nat                   -- grid tick of the last Sync taken
  lastAnnounce : Nat
  syncT : Option (Int × Int)       -- the last Sync: corrected origin and receipt, ns
  reqT : Option Int                -- send time of the Delay_Req in flight, ns
  lastReq : Nat                    -- grid tick of the last Delay_Req
  lastGmSync : Nat                 -- grid ticks of the last Sync and Announce sent (R200)
  lastGmAnnounce : Nat
  pathOk : Bool                    -- a path delay is known for the upstream port (R215)
  linkOk : List Bool               -- the link delay of ports A, B, C is measured (R216)
  masters : List (PtpAnnounce × Nat)  -- Announce messages and their ticks of receipt
  hadMaster : Bool                 -- a master was tracked since start-up (R200)
  evalAt : Option Nat              -- last evaluation tick looked at
  moved : Option Nat               -- tick of the last transition
  anchorDue : Option Nat           -- a load waits: 0 first anchor, 1 free-run, 2 re-anchor
  reanchorCmd : Option Nat         -- tick of receipt of an obeyed command that has not started
  graceFrom : Nat                  -- tick at which HOLDOVER was entered
  beyond : Bool                    -- R212 condition holds
  aloneFrom : Nat                  -- tick from which no master has been there (free-run timeout)
  slates : List Nat                -- accepted SLATE ticks, each once
  zones : List (Nat × Nat)         -- zone SLATEs not yet performed: tick and confirm mask (R227)
  stHist : List (Nat × Nat)        -- grid states and their ticks, newest first
  slateBall : Option Nat           -- tick at which the last output pulse of 1 µs began (R226)
  deriving DecidableEq, Repr

/-- One time-pulse output (R217 to R221): the next instance, its programmed pulse in progress with trailing edge, timebase
and polarity, the instant of the leading edge in grid ticks, pulses since it was armed, and a write that waits for the end of the
pulse. -/
structure TpoSt where
  next : Option Nat
  pulse : Option (Int × Nat × Nat)   -- trailing edge (tick or ns), timebase, polarity
  lead : Rat
  fired : Nat
  rearm : Bool
  deriving DecidableEq, Repr

/-- A capture unit (R224): a capture not yet read, and how far the read procedure is: 0 not begun, else bit 0 begun, bits 1
to 3 subindices 0x03 to 0x05 read. -/
structure CapSt where
  unread : Bool
  prog : Nat
  deriving DecidableEq, Repr

/-- A frame waiting at a port (R483): the hub's own or forwarded, and for a forwarded frame its port and local time of
arrival. -/
structure OutFrame where
  frame : Frame
  own : Bool
  inPort : Nat
  rxNs : Int
  deriving DecidableEq, Repr

/-- A frame consumed and not yet acted on: its port and grid tick of arrival. -/
structure Rx where
  port : Nat
  tick : Nat
  frame : Frame
  deriving DecidableEq, Repr

/-- One port (R479, R481, R483, R485): link checks since the link came up, the last hello and the last own hello, and the
waiting frames in the four classes, with the class's last sender. -/
structure PortSt where
  lcFirst : Option Nat
  lcLast : Option Nat
  helloAt : Option Nat
  ownHelloAt : Option Nat
  egress : List (List OutFrame)
  lastOwn : List Bool
  sent : Option Frame              -- the frame last put on the wire
  deriving DecidableEq, Repr

/-- The last join of a worker (R484, R487). -/
structure JoinRec where
  ident : Nat
  mac : Nat
  port : Nat
  pos : Nat
  hopA : Nat
  hopB : Nat
  boot : Nat
  tick : Nat
  deriving DecidableEq, Repr

/-- One KMP session (R493 to R495): timeout in s, client tag, grid tick of the last request, the answers kept, and a block
write being assembled. -/
structure Sess where
  timeout : Nat
  tag : Nat
  last : Nat
  kept : List (Nat × Nat × Bytes)            -- transaction, status, body; newest last
  asm : Option (Nat × Nat × Nat × Bytes)     -- index, subindex, total, data so far
  deriving DecidableEq, Repr

/-- A copy that READ BLOCK serves from (R493), for a session or a MAC address. -/
structure BlockCopy where
  ses : Nat
  mac : Nat
  idx : Nat
  sub : Nat
  data : Bytes
  deriving DecidableEq, Repr

/-- A bridged request (R503): client frame's source, form and port, target, session, transaction and tick. -/
structure Bridged where
  client : Frame
  target : Nat
  ses : Nat
  tid : Nat
  tick : Nat
  deriving DecidableEq, Repr

/-- The network ports, the ring and KMP beside their objects. -/
structure NetSt where
  ports : List PortSt
  inbox : List Rx
  lastHello : Option Nat           -- grid tick of the last hello sent
  lastCheck : Option Nat           -- grid tick of the last link checks sent
  helloSeq : Nat
  mgrMac : Nat
  helloUs : Nat                    -- hello interval and ring timeout in use on a worker (R480)
  helloTo : Nat
  revertFrom : Option Nat
  attached : Bool                  -- an upstream port was chosen since start-up
  lastJoin : Option Nat
  joinDue : Bool
  joins : List JoinRec
  sessions : Sparse Sess
  copies : List BlockCopy
  bridged : List Bridged
  lateAnswers : Nat                -- worker answers discarded after the bridge timeout (R503)
  notifySeq : Nat
  deriving DecidableEq, Repr

/-- What a band slot gave at a sample (R308 to R310): its definition, its output, whether a section was limited, the
first sample since its state was last cleared, and the definition's guard. -/
structure BandOut where
  d : Nat
  y : Int
  sat : Bool
  cleared : Nat
  guard : Nat
  deriving DecidableEq, Repr

/-- A sample as the reduction engine and the rushes rings hold it: its index and word, the slots' outputs (none for an unused
slot), whether a crossing of comparator 0 or 1 was confirmed at it, and the latest earlier index at which each flag of R182,
and then a missing sample, occurred. -/
structure Samp where
  k : Nat
  word : Nat
  outs : List (Option BandOut)
  cross0 : Bool
  cross1 : Bool
  last : List (Option Nat)
  deriving DecidableEq, Repr

/-- One accepted change at a digital input that the edge processor has not looked at (R263): the tick of acceptance, the
tick of the ball edge, and the new level. -/
structure DinChange where
  accepted : Nat
  edge : Nat
  sub : Nat                        -- place of the ball edge in its cycle, in 1/65,536 of it
  level : Bool
  deriving DecidableEq, Repr

/-- One digital input beside its object (R262 to R264, R648): whether the filter still waits for its first acceptance, the
tick from which it reads, the edge processor's last edge and level, the changes it has not looked at, the filtered level
over time, the stuck intervals and the run of level 1, newest first. -/
structure DinSt where
  fresh : Bool
  from_ : Nat
  proc : Option Nat
  procLevel : Bool
  changes : List DinChange
  levels : List (Nat × Bool)
  stuck : List (Nat × Option Nat)
  runFrom : Option Nat
  deriving DecidableEq, Repr

/-- What makes a trigger occurrence, with what its trigger point needs (R269, R276). -/
inductive OccKind
  | crossing (ch cmp : Nat) (active : Bool) (pos dn : Nat)   -- crossing position C and D_n
  | edge (input : Nat) (rising : Bool) (ns e : Int)
  | time
  | network
  | slate
  | event (src : Nat)
  deriving DecidableEq, Repr

/-- An occurrence that waits for a take: the selector that it matches and its trigger tick (R270). -/
structure Occ where
  idx : Nat                        -- number of the start source, 0 to 3
  sel : Nat
  tick : Nat
  kind : OccKind
  deriving DecidableEq, Repr

/-- A fill in progress (R283 to R289): what acceptance fixed, and what the copy has reached. -/
structure Fill where
  tick : Nat                       -- trigger tick
  sel : Nat
  pIn : Int
  asyn : Bool
  d : Nat
  members : List Nat
  kt : List Int                    -- trigger samples, in the order of the members
  nPre : Nat
  nPost : Nat
  held : Nat                       -- P_h
  stopSel : Nat
  slots : Nat                      -- S_r
  slack : Nat
  missed : Nat
  offset : Nat                     -- region offset of the record
  stop : Option Int                -- P_s
  stopAt : Nat                     -- tick of the stop occurrence
  since : Nat                      -- tick of the acceptance
  copied : List (List Samp)        -- the slots copied, oldest first, by member
  tide : Option Int                -- tideline slot
  anch : Bool
  post : Nat                       -- post-trigger slots, once the fill has ended
  fillEnd : Option Nat
  maxLen : Bool
  deriving DecidableEq, Repr

/-- One take beside its objects: state changes with their ticks, newest first; the tick at which it becomes ARMED; waiting
occurrences; the trigger ticks considered; waiting writes and arm command; and the next time-source instance. -/
structure TakeSt where
  hist : List (Nat × Nat)
  armAt : Option Nat
  fromIdle : Bool                  -- the arming comes from OFF or DONE
  starts : List Occ
  stops : List Occ
  seen : List Nat                  -- trigger ticks considered, newest first (R274)
  waits : List (Nat × Bool × Wr)   -- session, an immediate write, the write (R289)
  armWait : Bool
  timeNext : Option Nat
  fill : Option Fill
  lastFillEnd : Nat
  slack : Nat                      -- before the present arming
  missed : Nat                     -- since the previous record
  seq : Nat
  deriving DecidableEq, Repr

/-- A reservation in the capture region (R290): its offset and span, and whether the record in it is complete. -/
structure Place where
  offset : Nat
  span : Nat
  done : Bool
  take : Nat
  deriving DecidableEq, Repr

/-- A rushes ring (R280): the tick after which it takes samples, and its samples, newest first. -/
structure Ring where
  after_ : Nat
  samples : List Samp
  deriving DecidableEq, Repr

/-- The capture region and the copy port beside object 0x4420: the reservations in order, the next free offset, the bytes
of the region (canonical), the sizes in use in MB, the copy port's bytes in the present millisecond, and the tick at which the copy
that it has still to make was requested. -/
structure TakeMem where
  places : List Place
  head : Nat
  bytes : List Host.Cell
  rushesMb : Nat
  captureMb : Nat
  shareMs : Nat
  shareUsed : Nat
  copyAt : Option Nat
  deriving DecidableEq, Repr

/-- What a calibration run includes (R234). -/
structure CalRun where
  allg : Bool
  stst : Bool
  skew : Bool
  defer : Bool
  startup : Bool
  deriving DecidableEq, Repr

/-- An element switch that waits for its integer second (R250). -/
structure ElemSwitch where
  cell : Nat
  m : Nat
  tick : Nat
  out : Nat
  into : Nat
  deriving DecidableEq, Repr

/-- Calibration beside its objects: the run, the tick at which its CALRES step begins or began, the cells that wait, the
deferred ones with the tick of their first deferral, the interrupted ones with t_a, a value refused, a pending abort, the
hold-off's start and whether a value was written in it; and background selection's estimates, windows, qualifying windows,
pending switches and unmatched modulators, by modulator 17·cell + m. -/
structure CalSt where
  run : Option CalRun
  startAt : Option Nat
  calres : Option Nat
  waiting : List Nat
  deferred : List (Nat × Nat)
  running : List (Nat × Nat)
  refused : Bool
  abortAt : Option Nat
  holdFrom : Option Nat
  wrote : Bool
  est : Sparse (List Int)
  winFrom : Sparse Nat
  qual : Sparse Nat
  switches : List ElemSwitch
  unmatched : List (Nat × Nat × Nat)
  deriving DecidableEq, Repr

/-- One band slot of a channel (R307 to R310): its definition, the inputs and outputs of its two sections, and the first
sample since it was cleared. -/
structure BandSlot where
  d : Nat
  s1 : List Int                    -- x[k−1], x[k−2], y[k−1], y[k−2] of section 1
  s2 : List Int
  cleared : Nat
  deriving DecidableEq, Repr

/-- The bands of a channel: its slots, changes of definition that wait for their sample (tick, slot, definition), clears that
wait (grid tick), and the latest index of each flag and of a missing sample. -/
structure BandCh where
  slots : List BandSlot
  waits : List (Nat × Nat × Nat)
  clears : List Nat
  last : List (Option Nat)
  deriving DecidableEq, Repr

/-- The statistics of one member over a window (R306). -/
structure Stat where
  n : Nat
  ex : Nat
  sum : Int
  sq : Nat
  lo : Option (Int × Nat)
  hi : Option (Int × Nat)
  first : Option (Int × Nat)
  last : Option (Int × Nat)
  peak : Nat
  cross0 : Nat
  cross1 : Nat
  flags : List Nat
  energy : List Nat
  count : List Nat
  bsat : Bool
  d : Nat                          -- D of its last sample, 0 before the first
  due : Nat                        -- samples of the range up to `since`
  since : Nat                      -- tick from which the present D counts
  defs : Option (List Nat)         -- definitions of the band slots at its last sample (R315)
  deriving DecidableEq, Repr

/-- The definition of a window (R298). -/
structure WinDef where
  mode : Nat
  members : List Nat
  w : Nat
  phase : Nat
  take : Nat
  span : Nat
  lead : Nat
  tail : Nat
  mask : Nat
  dest : Nat
  deriving DecidableEq, Repr

/-- A grid window in progress (R301, R649). -/
structure WinRun where
  i : Nat
  start : Nat
  stop : Nat
  part : Bool
  anch : Option Nat                -- the tick at which a re-anchor closed it
  d : WinDef
  accs : List Stat
  deriving DecidableEq, Repr

/-- One window beside its objects: its definitions by effective tick, newest first, the next window start, the windows
in progress, oldest first, and committed takes whose record it still owes: take, sequence, definition and fill. -/
structure WinSt where
  defs : List (Nat × WinDef)
  next : Option Nat
  runs : List WinRun
  bound : List (Nat × Nat × WinDef × Fill)
  deriving DecidableEq, Repr

/-- A member block that a manager took from a record: ring position, channel and the block (R321). -/
structure CrossBlk where
  pos : Nat
  ch : Nat
  blk : Bytes
  deriving DecidableEq, Repr

/-- A window index that a cross-hub reduction has not issued (R321, R322). -/
structure CrossIdx where
  i : Nat
  got : Nat                        -- received mask
  bad : Bool
  blks : List CrossBlk
  deriving DecidableEq, Repr

/-- A cross-hub reduction beside its objects: the indexes in progress, and those issued. -/
structure CrossSt where
  pend : List CrossIdx
  first : Nat                      -- the first index since the definition was turned on
  next : Option Nat                -- every index from `first` up to it is issued
  issued : List Nat                -- the other issued ones
  deriving DecidableEq, Repr

/-- A range of slots: channel, D, and first and last index, the last open while `none` (R377). For reduction records it is a
window number, a record type and window indices. -/
structure Range where
  ch : Nat
  d : Nat
  first : Nat
  last : Option Nat
  deriving DecidableEq, Repr

/-- One held item (R359, R363, R373): its sequence number, its bytes, what its descriptor says (channel or 0xFFFF, n or record
type, D, first index), the tick at which it was formed, the tick at which it was last sent (`none`: not yet), and whether a
resend is queued. `range` is what a gap record would name for it, and `ord` the ordinal of its compare unit. -/
structure Item where
  seq : Nat
  bytes : Bytes
  ch : Nat
  n : Nat
  d : Nat
  first : Nat
  formed : Nat
  sent : Option Nat
  again : Bool
  range : List Range
  ord : Option Nat
  deriving DecidableEq, Repr

/-- A sequence space (R359, R361): a stream's instance, or the record stream as stream 0xFF; its members, B and t_b, the next
sequence number, the next gap number of the instance, whether the instance runs, whether item 0 has been acknowledged, and the items
held. -/
structure Space where
  stream : Nat
  num : Nat
  tb : Nat
  members : List Nat
  b : Nat
  next : Nat
  gaps : Nat
  live : Bool
  acked0 : Bool
  items : List Item
  deriving DecidableEq, Repr

/-- A block being assembled (R328, R347): its words, oldest first, and the codec settings at its first sample. -/
structure BlkAcc where
  ch : Nat
  first : Nat
  d : Nat
  coding : Bool
  maxOrder : Nat
  words : List Nat
  deriving DecidableEq, Repr

/-- What a block's header says, and what its formation fixes (R327, R330, R347). -/
structure BlkDef where
  ch : Nat
  first : Nat
  d : Nat
  b : Nat
  coding : Bool
  maxOrder : Nat
  words : List Nat
  deriving DecidableEq, Repr

/-- A block whose last sample has been emitted, or that a case of R328 has ended: its formation tick, stream and instance. -/
structure BlkReady where
  tick : Nat
  stream : Nat
  inst : Nat
  blk : BlkDef
  deriving DecidableEq, Repr

/-- An instance that has ended and whose last samples have still to be emitted (R328, R356): its number, the tick t_e, the blocks
being assembled, and the slots that have neither been stored nor named. -/
structure OldInst where
  inst : Nat
  stop : Nat
  accs : List BlkAcc
  want : List Range
  deriving DecidableEq, Repr

/-- One stream beside its object: the blocks being assembled, the slots that have neither been stored nor named, the open
gap's number, whether the announcement is stored, the tick of the latest ACK, and ended instances whose samples still come. -/
structure StreamSt where
  accs : List BlkAcc
  want : List Range
  gap : Option Nat
  ann : Bool
  ackAt : Option Nat
  old : List OldInst
  deriving DecidableEq, Repr

/-- A manager's acknowledgement state of one instance of one hub (R365 to R370, R381): the announcement's content, A, the
accepted numbers above A, those accepted and not yet consumed by the host (R574), holes with the tick from which they last
and of the last NACK, the last ACK sent and its tick, the tick of the last frame, and the slots with no final account. -/
structure AckSt where
  pos : Nat
  ident : Nat
  stream : Nat
  num : Nat
  boot : Nat
  tb : Nat
  members : List Nat
  newest : Bool
  a : Nat
  acc : List Nat
  taken : List Nat
  holes : List (Nat × Nat × Option Nat)
  lastA : Nat
  lastAcc : List Nat
  ackAt : Option Nat
  heard : Nat
  want : List Range
  named : List Range
  gaps : Nat
  deriving DecidableEq, Repr

/-- An uplink frame held in mode 1 (R383): its first uplink number, its items, its bytes, and the tick at which it was last
sent. -/
structure UpFrame where
  first : Nat
  count : Nat
  bytes : Bytes
  acked : List Nat
  sent : Nat
  deriving DecidableEq, Repr

/-- An item in the hand-off ring that the host has not consumed (R574): the write offset after it, and its number in its
instance. -/
structure HandItem where
  stop : Nat
  ident : Nat
  stream : Nat
  num : Nat
  seq : Nat
  deriving DecidableEq, Repr

/-- Streams beside their objects (chapter 11): the sequence spaces, the streams, the blocks ready to form, instances begun,
halted reduction windows, the codec's settings by effective tick, newest first (R347), slots owed to a cause 6 record after their instance ended, the partitions in use in MB, the
resend bytes of the present millisecond; and on a manager the acknowledgement states, the ack-interval boundary last looked
at, the uplink and the hand-off ring. -/
structure StrmSt where
  spaces : List Space
  streams : Sparse StreamSt
  ready : List BlkReady
  nextInst : Nat
  recHalt : List Range
  codec : List (Nat × Bool × Nat)
  owed : List (Nat × Nat × Range)
  spillMb : Nat
  recMb : Nat
  rateMs : Nat
  rateUsed : Nat
  acks : List AckSt
  ackLook : Option Nat
  upNext : Nat
  upFrames : List UpFrame
  upAckAt : Option Nat
  hand : List HandItem
  deriving DecidableEq, Repr

/-- What a compare unit is (R389). -/
inductive UnitBody
  | span
  | block (stream inst : Nat) (blk : BlkDef) (failA failB : Bool)
  | window (w index : Nat) (send : Bool)
  | take (t : Nat)
  deriving DecidableEq, Repr

/-- A compare unit that is formed and not yet released (R389 to R391): its key, its bytes in core A and in core B, and the
signatures that have arrived with their ticks. -/
structure CUnit where
  tick : Nat
  kind : Nat
  num : Nat
  ch : Nat
  body : UnitBody
  bytesA : Bytes
  bytesB : Bytes
  sigA : Option (Nat × Nat)
  sigB : Option (Nat × Nat)
  deriving DecidableEq, Repr

/-- A check span being assembled (R389): its first index, D, words and crossing descriptors. -/
structure SpanAcc where
  first : Nat
  d : Nat
  words : List Nat
  crossings : Bytes
  deriving DecidableEq, Repr

/-- Why a core is in SELF-TEST (R388, R400, R406). -/
inductive TestWhy
  | startUp
  | mismatch      -- X, after kind 1 or 2
  | handback      -- Y, after handback or a planned handover that follows a mismatch
  | standbyLate   -- kind 3
  | attributed    -- kind 4
  | planned       -- a planned handover without a mismatch
  | hidden        -- a hidden fault (R398)
  | restored      -- a restore command
  deriving DecidableEq, Repr

/-- A resynchronisation (R402 to R404): the core, t_j and t_s once reached, whether the copy is complete, whether a case
of R404 has come since t_s, failed attempts, and
the tick of the next attempt. -/
structure Resync where
  core : Nat
  due : Nat
  tj : Option Nat
  ts : Option Nat
  copied : Bool
  spoiled : Bool
  fails : Nat
  deriving DecidableEq, Repr

/-- Custody beside objects 0x1800 to 0x1802: the ordinal of the first unit listed, the units, the spans being assembled,
self-tests in progress (core, reason, tick of entry), the proving period (core held, its reason, end), the resynchronisation,
consecutive equal ordinals, a planned handover that waits for a release mark, the core under a pending verdict, the tick of the handback, a part found
faulty in the core in custody, whether custody returns whatever the handback setting, and whether its copy path is unproven. -/
structure CustSt where
  base : Nat
  units : List CUnit
  spans : Sparse SpanAcc
  tests : List (Nat × TestWhy × Nat)
  proving : Option (Nat × TestWhy × Nat)
  resync : Option Resync
  equal : Nat
  handover : Bool
  suspect : Option Nat
  backTick : Nat
  broken : Option Nat
  mustReturn : Bool
  copyNew : Bool                   -- no take copy has completed since custody last passed (R397)
  both : List (Nat × Nat × Nat)    -- (cell, from, to): periods that both cores lost (R394)
  deriving DecidableEq, Repr

/-- A sample that a legacy output may take (R579): grid time, tick of emission and word. -/
structure LgoSamp where
  g : Nat
  p : Nat                          -- output period in grid ticks
  at_ : Nat
  word : Nat
  deriving DecidableEq, Repr

/-- One legacy output (R578 to R583): the mode and the update period in use; the phase accumulator and the increment of
frequency mode; the duty in use, the next one and the tick from which it applies; whether the output is in fault; the tick of the
last value taken and of the last fault request; what has come since the last update tick: a request, the stale limit, the fault
hold's end, a release; the update tick last looked at; the formation tick and the window of the record last used; and the polarity,
the stale limit and the fault hold in use. -/
structure LgoSt where
  mode : Nat
  period : Nat
  acc : Nat
  inc : Nat
  duty : Nat
  nextDuty : Nat
  dutyFrom : Nat
  fault : Bool
  lastTaken : Nat
  request : Option Nat
  asked : Bool
  stale : Bool
  held : Bool
  release : Bool
  looked : Option Nat
  usedRec : Option (Nat × Nat)
  idleHigh : Bool
  staleMs : Nat
  holdMs : Nat
  deriving DecidableEq, Repr

/-- The legacy outputs beside their objects: outputs, the samples they may take by channel, and the newest records by window
with the tick at which each was formed. -/
structure LgoAll where
  outs : Sparse LgoSt
  samps : Sparse (List LgoSamp)
  recs : Sparse (List (Nat × Bytes))
  deriving DecidableEq, Repr

/-- A MOVE in progress (R451, R452): its registers, element sizes in bytes, increments, mode, and what is left to read and to
write, in bytes in packed mode and in elements otherwise. -/
structure DmaMove where
  src : Nat
  dst : Nat
  ws : Nat
  wd : Nat
  sinc : Bool
  dinc : Bool
  mode : Nat
  toRead : Nat
  toWrite : Nat
  data : Option Bytes              -- the value that a dictionary source answered
  acc : Bytes                      -- the bytes gathered for a dictionary destination
  deriving DecidableEq, Repr

/-- A dictionary request of a channel whose answer is still to come (R448): its direction, entry, the value written or the count
of bytes wanted, and the tick of its receipt. -/
structure DmaReq where
  write : Bool
  idx : Nat
  sub : Nat
  data : Bytes
  count : Nat
  at_ : Nat
  deriving DecidableEq, Repr

/-- What a channel in WAIT waits for (R454, R456, R462). -/
inductive DmaFor
  | event (src : Nat)
  | tick (t : Nat)
  | fence
  | signal
  | finish (sig : Bool)
  deriving DecidableEq, Repr

/-- A wait in progress: its timeout in ticks (0 for none) and the tick at which it began (R454). -/
structure DmaWait where
  what : DmaFor
  limit : Nat
  since : Nat
  deriving DecidableEq, Repr

/-- An address register (R445). -/
structure DmaReg where
  addr : Nat
  target : Nat
  ns : Bool
  nrb : Bool
  deriving DecidableEq, Repr

/-- Writes to one target since the last confirmation (R463): the target, the last element's address and size, NRB and NS. -/
structure DmaOut where
  target : Nat
  addr : Nat
  size : Nat
  nrb : Bool
  ns : Bool
  deriving DecidableEq, Repr

/-- A request of a channel at the host port (R447): a write or a read, its address, its bytes or the count wanted, and the Relaxed
Ordering and No Snoop attributes. -/
structure HostTlp where
  write : Bool
  addr : Nat
  data : Bytes
  count : Nat
  relaxed : Bool
  noSnoop : Bool
  deriving DecidableEq, Repr

/-- One DMA channel beside its objects (R441 to R468, R621). -/
structure DmaCh where
  pc : Nat
  regs : List DmaReg
  frames : List (Nat × Nat)        -- address after the LOOP and counter, innermost first
  count : Nat                      -- instructions executed in this run
  mask : Nat                       -- pending events
  hold : Bytes                     -- holding register
  move : Option DmaMove
  reqs : List DmaReq
  outs : List DmaOut
  wait : Option DmaWait
  latched : Bool
  pulses : Nat                     -- start pulses taken in IDLE whose run has not begun
  skip : Bool                      -- a breakpoint on the next instruction does not act
  stepping : Bool
  at_ : Nat                        -- tick of the channel's last progress
  deriving DecidableEq, Repr

/-- The DMA engine (R457 to R459): its channels, the instruction fetched for the present beat, the channel last served at each
level, the request last sent to the host, and dictionary writes received from runs that have ended since. -/
structure DmaSt where
  chs : Sparse DmaCh
  cur : Option (Nat × Nat)
  served : List Nat
  hostOut : Option HostTlp
  orphans : List (Nat × DmaReq)
  deriving DecidableEq, Repr

/-- A request slot of BAR0 (R567). -/
structure HostSlot where
  head : Nat
  len : Nat
  status : Nat
  tag : Nat
  value : Bytes
  deriving DecidableEq, Repr

/-- The host port beside its objects (R564 to R570): the slots, those waiting in doorbell order, the answer vector register,
the vectors that are unmasked, those pending, the vector of the last message, and whether a slot that was being served at a reset of the
endpoint is still to complete. -/
structure HostSt where
  slots : Sparse HostSlot
  busy : List Nat
  ansVec : Nat
  unmasked : List Nat
  pendingV : List Nat
  lastMsg : Option Nat
  cut : Bool
  deriving DecidableEq, Repr

/-- A firmware image in the flash (R594, R606): its bytes by offset, those written since it was emptied. -/
structure Image where
  state : Nat
  version : Nat
  data : List Host.Cell
  deriving DecidableEq, Repr

/-- A snapshot of the retained entries (R516): its generation, whether it is valid (its commit mark present and its check
correct), and the values that differ from their defaults. -/
structure Snap where
  gen : Nat
  valid : Bool
  nums : Sparse Int
  strs : Sparse Bytes
  deriving DecidableEq, Repr

/-- The flash, which alone outlives a reset (R590): the images and the boot record, the factory-restore marker with its scope
(R525), the retained store's slots with their erase counts (R516, R526), and whether the debug port has begun to write image A
after a boot that found no image (R622). -/
structure FlashSt where
  images : List Image
  preferred : Nat
  boots : Nat
  watchdogs : Nat
  marker : Option Nat
  slots : List (Option Snap)
  erases : List Nat
  recovery : Bool
  deriving DecidableEq, Repr

/-- Power, reset and start-up beside their objects: whether VIN has reached 10 V (R636), whether reset is asserted and why,
whether RESET_N is held, the tick of reset release, the image that runs, the events that the boot owes to the end of the restore
step, the tick at which a condition of R599 other than the grid's was last met, a restart that waits, and the VIN warning. -/
structure PowerSt where
  vin10 : Bool
  powered : Bool
  inReset : Bool
  held : Bool
  released : Int
  bootOk : Bool
  fellBack : Bool
  rejected : Option Nat
  metAt : Nat
  resetWait : Bool                 -- restart command 2 waits (R605)
  vinSeen : Bool                   -- a monitor sample since reset
  tempSeen : Bool
  warn : Nat                       -- 0 within, 1 below, 2 above the VIN warnings (R602)
  deriving DecidableEq, Repr

/-- A store in progress (R517): its generation and, from the snapshot tick on, that tick and the values recorded. -/
structure StoreRun where
  gen : Nat
  taken : Option (Nat × Snap)
  later : Nat                      -- retained writes that took effect after the snapshot tick
  deriving DecidableEq, Repr

/-- The retained store beside its objects: the store in progress, the tick at which the last one began, and the tick of the
last retained write. -/
structure StoreSt where
  run : Option StoreRun
  began : Option Nat
  wrote : Nat
  deriving DecidableEq, Repr

/-- A snapshot set beside its objects (R534): take-now ticks to come, the snapshot tick last looked at, and a snapshot being read
with its tick and the entries read. -/
structure SnapSet where
  nows : List Nat
  looked : Option Nat
  run : Option (Nat × Bytes)
  deriving DecidableEq, Repr

/-- The debug port (R609 to R619): the instruction selected, what its data register loaded at the last Capture-DR, whether boundary
scan controls the balls, the boundary-scan register, the read and write buffers, the command being served with its result, the
status of the last one, and whether a debug reset is due. -/
structure DebugSt where
  ir : Nat
  dr : Nat
  control : Bool
  chain : Nat
  rbuf : List Nat
  wbuf : List Nat
  busy : Option (Nat × Code × Bytes)   -- command, its status and the bytes for the read buffer
  state : Nat
  code : Nat
  length : Nat
  resetDue : Bool
  deriving DecidableEq, Repr

/-- Values fixed at manufacture (R507), by entry key; unlisted entries take `factoryNum` of Machine/Operands.lean. -/
structure Factory where
  nums : Sparse Int
  blobs : Sparse Bytes
  deriving DecidableEq, Repr

/-- The state of the hub. -/
structure State where
  /-- The commands that wait, first in, first out. -/
  pending : List Instr
  /-- The variant, fixed at manufacture (R4). -/
  variant : Variant
  /-- The grid count (object 0x1500:01, R13). -/
  now : Nat
  /-- Entries with a number that differs from their default, by key 256·index + subindex, keys rising. -/
  regs : Sparse Int
  /-- Entries with a byte string that differs from their default, by key, keys rising. -/
  blobs : Sparse Bytes
  /-- Values fixed at manufacture. -/
  fac : Factory
  /-- The status of the last dictionary entry served (R499): the answer the hub sent. -/
  ans : Code
  /-- The value that the last dictionary read answered. -/
  ansBody : Bytes
  /-- The queues of R426 by number; an unlisted queue is empty. -/
  queues : Sparse Queue
  /-- The channels by number; an unlisted channel is as after reset. -/
  chans : Sparse Chan
  /-- The cells by number; an unlisted cell is as after reset. -/
  cells : Sparse CellSt
  /-- End of the settling interval of each excitation unit (R81), by unit number. -/
  excSettle : Sparse Nat
  /-- The tick at which each excitation unit last left the out-of-regulation state (R79), by unit number. -/
  excLeft : Sparse Nat
  /-- The auxiliary converter. -/
  aux : AuxSt
  /-- Effective ticks of the changes after which a conversion of a cell's auxiliary bus carries ASET (R134), newest first, by
  cell. -/
  auxSettle : Sparse (List Nat)
  /-- The staging of sessions 0 to 15 (R429), by number; an unlisted session has none. -/
  stages : Sparse Stage
  /-- The time island's count of accepted staged changes, for the order of R435. -/
  order : Nat
  /-- The event router and recorder. -/
  ev : EvSt
  /-- The local clock, the servo and the grid. -/
  clk : ClkSt
  /-- The time-pulse outputs by number; an unlisted one is idle. -/
  tpos : Sparse TpoSt
  /-- The capture units by number. -/
  caps : Sparse CapSt
  /-- Ports, ring and KMP. -/
  net : NetSt
  /-- The digital inputs by number; an unlisted input is as after reset. -/
  dins : Sparse DinSt
  /-- The takes by number; an unlisted take is as after reset. -/
  takes : Sparse TakeSt
  /-- The capture region and the copy port. -/
  takeMem : TakeMem
  /-- The rushes rings by channel. -/
  rings : Sparse Ring
  /-- Calibration and background element selection. -/
  cal : CalSt
  /-- The bands of the channels by number. -/
  bands : Sparse BandCh
  /-- The reduction windows by number. -/
  wins : Sparse WinSt
  /-- A manager's cross-hub reductions by number. -/
  cross : Sparse CrossSt
  /-- Window records that have reached a manager, with their ring positions, oldest first. -/
  crossIn : List (Nat × Bytes)
  /-- Streams, acknowledgement and the uplink. -/
  strm : StrmSt
  /-- Custody and comparison. -/
  cust : CustSt
  /-- The bytes of the DMA buffer by offset, in rising order; a byte that nothing has written reads 0 (log 7). -/
  dmaBuf : List Host.Cell
  /-- The legacy outputs. -/
  lgo : LgoAll
  /-- The DMA engine. -/
  dma : DmaSt
  /-- The host port. -/
  host : HostSt
  /-- The flash. -/
  flash : FlashSt
  /-- Power, reset and start-up. -/
  power : PowerSt
  /-- The retained store's work. -/
  store : StoreSt
  /-- The snapshot sets by number. -/
  snaps : Sparse SnapSet
  /-- The description query of each session (R529). -/
  queries : Sparse Nat
  /-- The debug port. -/
  dbg : DebugSt
  /-- The model's own counter behind fresh free values; no statement rests on it. -/
  free : Nat
  deriving DecidableEq, Repr

/-- The machine right after reset: power-on reset asserted, nothing started (R590, R597). -/
def State.reset : State where
  pending := []
  variant := .nxh384
  now := 0
  regs := []
  blobs := []
  fac := { nums := [], blobs := [] }
  ans := .success
  ansBody := []
  queues := []
  chans := []
  cells := []
  excSettle := []
  excLeft := []
  aux := { scan := none, entry := 1, entryStart := none, seq := [], inj := [], injRun := none, injFree := 0, claim := 0,
           ahead := 0, stepStart := 0, looked := none, lowPower := false, sws := [], modeDue := none, period := 24576,
           periodDue := none, readyDue := none, notReady := [(0, none)], claims := [], trimmed := [] }
  auxSettle := []
  stages := []
  order := 0
  ev := { lost := [], lines := [[], [], [], []], lineLost := [0, 0, 0, 0], latches := [], recs := [], merge := [],
          failMain := [], failEmer := [], emerNext := 0, emerSeq := [], sticky := false }
  clk := { local_ := 0, marks := [], started := false, twoStep := none, reqSeq := 0, syncSeq := 0, annSeq := 0, resid := [],
           pdelay := List.replicate 3 { seq := 0, last := 0, t1 := none, resp := none }, stepDone := false, overN := 0, lastSync := 0, lastAnnounce := 0, syncT := none, reqT := none,
           lastReq := 0, lastGmSync := 0, lastGmAnnounce := 0, pathOk := false, linkOk := [false, false, false],
           masters := [], hadMaster := false,
           evalAt := none, moved := none, anchorDue := none, reanchorCmd := none, graceFrom := 0, beyond := false,
           aloneFrom := 0, slates := [], zones := [], stHist := [], slateBall := none }
  tpos := []
  caps := []
  net := { ports := List.replicate 3 { lcFirst := none, lcLast := none, helloAt := none, ownHelloAt := none,
                                       egress := [[], [], [], []], lastOwn := [false, false, false, false],
                                       sent := none },
           inbox := [], lastHello := none, lastCheck := none, helloSeq := 0, mgrMac := 0, helloUs := 2000,
           helloTo := 3, revertFrom := none, attached := false, lastJoin := none, joinDue := false, joins := [],
           sessions := [], copies := [], bridged := [], lateAnswers := 0, notifySeq := 0 }
  dins := []
  takes := []
  takeMem := { places := [], head := 0, bytes := [], rushesMb := 96, captureMb := 128, shareMs := 0, shareUsed := 0, copyAt := none }
  rings := []
  cal := { run := none, startAt := none, calres := none, waiting := [], deferred := [], running := [], refused := false,
           abortAt := none, holdFrom := none, wrote := false, est := [], winFrom := [], qual := [], switches := [],
           unmatched := [] }
  bands := []
  wins := []
  cross := []
  crossIn := []
  strm := { spaces := [], streams := [], ready := [], nextInst := 0, recHalt := [], codec := [], owed := [], spillMb := 256, recMb := 16,
            rateMs := 0, rateUsed := 0, acks := [], ackLook := none, upNext := 0, upFrames := [], upAckAt := none,
            hand := [] }
  cust := { base := 0, units := [], spans := [], tests := [], proving := none, resync := none, equal := 0,
            handover := false, suspect := none, backTick := 0, broken := none, mustReturn := false, copyNew := false,
            both := [] }
  dmaBuf := []
  lgo := { outs := [], samps := [], recs := [] }
  dma := { chs := [], cur := none, served := [15, 15, 15, 15], hostOut := none, orphans := [] }
  host := { slots := [], busy := [], ansVec := 0, unmasked := [], pendingV := [], lastMsg := none, cut := false }
  flash := { images := [{ state := 2, version := 0, data := [] }, { state := 0, version := 0, data := [] }], preferred := 0,
             boots := 0, watchdogs := 0, marker := none, slots := List.replicate 8 none, erases := [0, 0],
             recovery := false }
  power := { vin10 := true, powered := true, inReset := true, held := false, released := 0, bootOk := true, fellBack := false,
             rejected := none, metAt := 0, resetWait := false, vinSeen := false,
             tempSeen := false, warn := 0 }
  store := { run := none, began := none, wrote := 0 }
  snaps := []
  queries := []
  dbg := { ir := 2, dr := 0, control := false, chain := 0, rbuf := [], wbuf := [], busy := none, state := 0, code := 0, length := 0,
             resetDue := false }
  free := 0

end Sys2Proof.Machine
end

