-- ==== Sys2Proof/Machine/Operands.lean ====
section
/-! DEFINITION. The operand forms: how an entry of the dictionary is found, read and written as a register, what its
default is, and how channels, cells, terminals and excitation units are numbered. -/

namespace Sys2Proof.Machine

open Sys2Proof

/-- Pick by variant, in the order NXH384, NXH192, NXH096. -/
def byVar {α : Type} (v : Variant) (a b c : α) : α :=
  match v with
  | .nxh384 => a
  | .nxh192 => b
  | .nxh096 => c

/-- The default route mask of a source (R538). -/
def routeDefault (s : Nat) : Nat :=
  if s < 42 then 0x00
  else if s ∈ [43, 46, 51, 52, 53, 58, 61, 63, 64, 65, 66, 67, 70, 73, 77, 78, 81, 82, 86] then 0x90
  else if s ∈ [56, 71] then 0x00
  else if s < 87 then 0x80
  else 0x00

/-- The default FAULT_N cause mask of a source (R546, R604). -/
def faultDefault (s : Nat) : Nat :=
  if s = 66 then 0x0002 else if s = 67 then 0x000C else if s = 77 then 0x0020 else if s = 81 then 0x0010 else 0

/-- The depth of queue q (R21). -/
def queueDepth (q : Nat) : Nat :=
  if q < 48 then 16 else if q < 96 then 8 else if q = 96 then 64 else if q = 97 then 32 else if q < 100 then 16
  else if q < 162 then 8 else if q < 193 then 16 else 64

/-- Factory values that a unit holds where `State.fac` lists none: unit calibration gain, a hub identity and MAC address
that are not 0, one boundary-scan cell for each of the 52 balls of R612, zero elsewhere (DESIGN CHOICE, log 6). -/
def factoryNum : Obj → Nat → Int
  | .chCal, sub => if 1 ≤ sub ∧ sub ≤ 8 then 2 ^ 30 else if sub = 17 then 64 else 0
  | .identity, sub => if sub = 4 ∨ sub = 5 then 1 else if sub = 7 then 20250101 else if sub = 8 then 0x0100 else 0
  | .clock, _ => 0xFFFE000001
  | .endpoint, _ => 0
  | .debug, sub => if sub = 1 then 1 else if sub = 8 then 52 else 0
  | _, _ => 0

/-- Factory strings where `State.fac` lists none (R527). -/
def factoryBytes (v : Variant) (sub : Nat) : Bytes :=
  if sub = 3 then utf8Of (byVar v "NXH384" "NXH192" "NXH096") else []

/-- The skew target's default in ns (R233). -/
abbrev skewTarget : Int := 64

/-- The default of an entry that a rule gives (R51, R165, R254, R426, R538, R546): a channel's skew delay from the skew target and the
front-end delay of the factory, and the references of the coefficient sets from the channels present. -/
def ruleNum (v : Variant) (f : Factory) (o : Obj) (u sub : Nat) : Int :=
  match o with
  | .chCal => max 0 (skewTarget - Sparse.get f.nums (entryKey .chCal u 17) (factoryNum .chCal 17))
  | .coefSet => if u = 0 then 2 * (Config.channels v : Int) else 0
  | .chFront => if sub = 2 then (2 * (u % 16) : Nat) else (2 * (u % 16) + 1 : Nat)
  | .route => if sub = 1 then routeDefault u else faultDefault u
  | .queue => queueDepth u
  | _ => 0

/-- The default number of a table row at a subindex (R514). Entries with no stored value stand at 0. -/
def Entry.dfltNum (e : Entry) (v : Variant) (f : Factory) (o : Obj) (u sub : Nat) : Int :=
  match e.dflt with
  | .num n => n
  | .byVar a b c => byVar v a b c
  | .seq vs => vs.getD (sub - e.lo) 0
  | .rule => ruleNum v f o u sub
  | .factory => Sparse.get f.nums (entryKey o u sub) (factoryNum o sub)
  | _ => 0

/-- The default byte string of a table row at a subindex (R514). -/
def Entry.dfltBytes (e : Entry) (v : Variant) (f : Factory) (o : Obj) (u sub : Nat) : Bytes :=
  match e.dflt with
  | .zeros n => List.replicate n 0
  | .text s => utf8Of s
  | .rule => (List.replicate 16 (leBytes 4 524288)).flatten
  | .factory => Sparse.get f.blobs (entryKey o u sub) (factoryBytes v sub)
  | _ => []

/-- The default number of an entry (R514). -/
def State.dfltNum (s : State) (o : Obj) (u sub : Nat) : Int :=
  match o.entry u sub with
  | some e => e.dfltNum s.variant s.fac o u sub
  | none => 0

/-- The default byte string of an entry (R514). -/
def State.dfltBytes (s : State) (o : Obj) (u sub : Nat) : Bytes :=
  match o.entry u sub with
  | some e => e.dfltBytes s.variant s.fac o u sub
  | none => []

/-- The effective number an entry holds. -/
def State.num (s : State) (o : Obj) (u sub : Nat) : Int :=
  match Sparse.find s.regs (entryKey o u sub) with
  | some v => v
  | none => s.dfltNum o u sub

/-- The same, as a natural number: for entries of unsigned type. -/
def State.nat (s : State) (o : Obj) (u sub : Nat) : Nat := (s.num o u sub).toNat

/-- The effective byte string an entry holds. -/
def State.bytes (s : State) (o : Obj) (u sub : Nat) : Bytes :=
  match Sparse.find s.blobs (entryKey o u sub) with
  | some v => v
  | none => s.dfltBytes o u sub

/-- The type of an entry; U64 where there is none. -/
def entryTy (o : Obj) (u sub : Nat) : Ty :=
  match o.entry u sub with
  | some e => e.ty
  | none => .u64

/-- An entry set to a number, narrowed to its type. -/
def State.setNum (s : State) (o : Obj) (u sub : Nat) (v : Int) : State :=
  { s with regs := Sparse.store s.regs (entryKey o u sub) ((entryTy o u sub).narrow v) (s.dfltNum o u sub) }

/-- An entry set to a byte string. -/
def State.setBytes (s : State) (o : Obj) (u sub : Nat) (v : Bytes) : State :=
  { s with blobs := Sparse.store s.blobs (entryKey o u sub) v (s.dfltBytes o u sub) }

/-- A count raised by n; it wraps at its type's width (R508, "wraps at 2^32"). -/
def State.bump (s : State) (o : Obj) (u sub n : Nat) : State := s.setNum o u sub (s.num o u sub + n)

/-- The hub has the manager role (object 0x1022:02, R25). -/
def State.isManager (s : State) : Bool := s.nat .role 0 2 == 1

/-- Unit `u` of a family is present on this hub (R8). -/
def State.has (s : State) (o : Obj) (u : Nat) : Bool := decide (u < o.count * o.inner) && o.present s.variant s.isManager u

/-- The entry that an index and subindex name on this hub, subindex 0x00 apart (R506). -/
def State.entryAt (s : State) (idx sub : Nat) : Option (Obj × Nat × Entry) :=
  match locate idx with
  | some (o, u) => if s.has o u then (o.entry u sub).map (fun e => (o, u, e)) else none
  | none => none

/-- The cell of a channel (R2). -/
def cellOfCh (n : Nat) : Nat := n / 16

/-- The channels of a cell (R2). -/
def chansOf (c : Nat) : List Nat := (List.range 16).map (16 * c + ·)

/-- Every present channel. -/
def State.allChans (s : State) : List Nat := List.range (Config.channels s.variant)

/-- Every present cell. -/
def State.allCells (s : State) : List Nat := List.range (Config.cells s.variant)

/-- An excitation unit's number: drivers 4·cell + k, bias sources 96 + 16·cell + j. -/
def excId : Sys2Proof.ExcUnit → Nat
  | .driver c k => 4 * c + k
  | .bias c j => 96 + 16 * c + j

/-- The unit is one of a present cell. -/
def State.hasExc (s : State) : Sys2Proof.ExcUnit → Bool
  | .driver c k => decide (c < Config.cells s.variant) && decide (k < 4)
  | .bias c j => decide (c < Config.cells s.variant) && decide (j < 16)

/-- A microsecond count in grid ticks, rounded up to the first tick at or after its end. -/
def usTicks (us : Nat) : Nat := ceilDiv (us * 24576) 1000

end Sys2Proof.Machine
end

