-- ==== Sys2Proof/Machine/Chain.lean ====
section
/-! DEFINITION. The arithmetic of a channel's filter chain (R155 to R179 of spec/05_filter_chain.md): exact integers,
narrowed as R156 and R174 state. -/

namespace Sys2Proof.Machine

open Sys2Proof

/-- The fields of a decimation word (R161). -/
structure DecW where
  c : Nat
  e1 : Nat
  e2 : Nat
  f : Nat
  b : Nat
  deriving DecidableEq, Repr

/-- A decimation word's fields (R161). -/
def decW (w : Nat) : DecW := ⟨bits w 31 26, bits w 25 25, bits w 24 24, bits w 23 20, bits w 12 0⟩

/-- The FIR's input period P_f = C·2^(e1+e2) (R155). -/
def DecW.pf (x : DecW) : Nat := x.c * 2 ^ (x.e1 + x.e2)

/-- The total decimation D = C·2^(e1+e2)·f·b (R155). -/
def DecW.D (x : DecW) : Nat := x.pf * x.f * x.b

/-- The ranges of R161: C 4 to 32, f 1 to 8, b 1 to 4,096, reserved bits 0; and D divides 6,144,000 (R162). -/
def decLegal (w : Nat) : Bool :=
  let x := decW w
  decide (4 ≤ x.c) && decide (x.c ≤ 32) && decide (1 ≤ x.f) && decide (x.f ≤ 8) && decide (1 ≤ x.b) &&
    decide (x.b ≤ 4096) && decide (bits w 19 13 = 0) && decide (w < 2 ^ 32) && decide (6144000 % x.D = 0)

/-- D is legal for a power mode: at least 48 in normal mode, even and at least 96 in low-power mode (R112, R162). -/
def decMode (w mode : Nat) : Bool :=
  let d := (decW w).D
  if mode = 0 then decide (48 ≤ d) else decide (d % 2 = 0) && decide (96 ≤ d)

/-- n / d rounded to the nearest integer, half away from zero. -/
def roundHalfAway (n : Int) (d : Nat) : Int :=
  if 0 ≤ n then (2 * n + d) / (2 * d) else -((-2 * n + d) / (2 * d))

/-- The shift of R156. -/
def shiftR (x : Int) (s : Nat) : Int := if s = 0 then x else (x + 2 ^ (s - 1)) / 2 ^ s

/-- A stage result shifted and limited to 32 bits, its mark, and 1 when it saturated (R156). -/
def stageOut (raw : Int) (s : Nat) (mark : Bool) : Marked × Nat :=
  let y := shiftR raw s
  let sat := outside (-2147483648) 2147483647 y
  (⟨clampI (-2147483648) 2147483647 y, mark || sat⟩, b2n sat)

/-- Product of two polynomials, lowest power first. -/
def polyMul (a b : List Int) : List Int :=
  let add := fun (x y : List Int) => (List.range (max x.length y.length)).map (fun i => x.getD i 0 + y.getD i 0)
  a.foldr (fun x acc => add (b.map (x * ·)) (0 :: acc)) []

/-- The CIC's taps: the coefficients of ((1 − z^−C) / (1 − z^−1))^5 (R157). -/
def cicTaps (c : Nat) : List Int :=
  let box := List.replicate c (1 : Int)
  polyMul box (polyMul box (polyMul box (polyMul box box)))

/-- Halfband taps (R160). -/
def hb1Taps : List Int := [-1, 0, 9, 16, 9, 0, -1]

/-- Halfband taps (R160). -/
def hb2Taps : List Int := [3, 0, -25, 0, 150, 256, 150, 0, -25, 0, 3]

/-- Σ h_j · x[j], newest input first; a history shorter than the taps is followed by zeros (R157, R189). -/
def dot : List Int → List Int → Int
  | h :: hs, x :: xs => h * x + dot hs xs
  | _, _ => 0

/-- Some input within n taps carries a mark (R156). -/
def anyMark (n : Nat) (xs : List Marked) : Bool := (xs.take n).any (·.m)

/-- The coefficients of a set: N values of I32 (R165). -/
def coefs (s : State) (set : Nat) : List Int :=
  let n := s.nat .coefSet set 1
  ((chunks 4 (s.bytes .coefSet set 2)).take n).map (fun b => toSigned 32 (leNat b))

/-- The skew taps H_0 to H_3 for a skew delay d in ns (R172), from the exact rational μ = 6,144·d / (10^6·D). -/
def skewTaps (D d : Nat) : List Int :=
  let p : Int := (6144 * d : Nat)
  let q : Int := (1000000 * D : Nat)
  let den6 := 6 * (1000000 * D) ^ 3
  let den2 := 2 * (1000000 * D) ^ 3
  let h0 := roundHalfAway (2 ^ 23 * (-(p * (p - q) * (p - 2 * q)))) den6
  let h2 := roundHalfAway (2 ^ 23 * (-((q + p) * p * (p - 2 * q)))) den2
  let h3 := roundHalfAway (2 ^ 23 * ((q + p) * p * (p - q))) den6
  [h0, 2 ^ 23 - h0 - h2 - h3, h2, h3]

/-- The sum of the shifts s1 to s6, counting s2 and s3 only where their stage is enabled (R175). -/
def shiftSum (x : DecW) (sh : List Nat) : Nat :=
  sh.getD 0 0 + x.e1 * sh.getD 1 0 + x.e2 * sh.getD 2 0 + sh.getD 3 0 + sh.getD 4 0 + sh.getD 5 0

/-- The multiplier M of R175, exact. -/
def multiplier (x : DecW) (sh : List Nat) (gCal gUsr : Int) : Int :=
  roundHalfAway (5000000 * 2 ^ shiftSum x sh * gCal * gUsr)
    (12 * x.c ^ 5 * 32 ^ x.e1 * 512 ^ x.e2 * 2 ^ 46 * x.b * 2 ^ 24)

/-- The offset A of R175. -/
def offsetA (oCal gUsr oUsr : Int) : Int := oUsr - roundHalfAway (oCal * gUsr) (2 ^ 24)

/-- M and A lie within 32 bits (R176). -/
def gainLegal (m a : Int) : Bool := !outside (-2147483648) 2147483647 m && !outside (-2147483648) 2147483647 a

/-- The span S of a chain in periods of 6.144 MHz (R178). -/
def span (x : DecW) (nMax : Nat) : Nat :=
  1 + 5 * (x.c - 1) + 6 * x.c * x.e1 + 10 * x.c * 2 ^ x.e1 * x.e2 + (nMax - 1) * x.pf + (x.b - 1) * (x.pf * x.f) +
    3 * x.D

/-- The settling length L in output samples (R178). -/
def settleLen (x : DecW) (nMax floor : Nat) : Nat := max (ceilDiv (span x nMax) x.D) floor

/-- The chain delay in ns, rounded half away from zero (R179). -/
def chainDelay (x : DecW) (n d : Nat) : Nat :=
  let twice := 5 * (x.c - 1) + 6 * x.c * x.e1 + 10 * x.c * 2 ^ x.e1 * x.e2 + (n - 1) * x.pf +
    (x.b - 1) * (x.pf * x.f) + 2 * x.D
  (roundHalfAway ((twice * 1000000 : Nat) : Int) (2 * 6144)).toNat + d

/-- The chain has transmission zeros at the chopping frequency in a power mode (R163). -/
def chopperZeros (x : DecW) (mode : Nat) : Bool :=
  if mode = 0 then
    decide (x.c = 32 ∧ x.e1 = 1) || decide (x.c = 32 ∧ x.e1 = 0 ∧ x.e2 = 1) || decide (x.c = 16 ∧ x.e1 = 1 ∧ x.e2 = 1)
  else decide (x.c = 32 ∧ x.e1 = 1 ∧ x.e2 = 1)

/-- The result of stage 7 (R174): the limited value, its mark and, when it saturated, whether it was negative. -/
structure Out7 where
  x : Int
  m : Bool
  sat : Option Bool
  deriving DecidableEq, Repr

/-- Stage 7: z = round(x·M / 2^30) + A, shifted and limited to 24 bits (R174). -/
def stage7 (y : Marked) (m a : Int) (s7 : Nat) : Out7 :=
  let z := shiftR (roundHalfAway (y.x * m) (2 ^ 30) + a) s7
  let sat := outside (-8388608) 8388607 z
  ⟨clampI (-8388608) 8388607 z, y.m || sat, if sat then some (decide (z < 0)) else none⟩

/-- The raw FIR sum during a cross-fade (R169): output j of J. -/
def fadeRaw (yOld yNew : Int) (j total : Nat) : Int :=
  roundHalfAway (yOld * (total + 1 - j : Nat) + yNew * (j : Nat)) (total + 1)

/-- What one pass of the chain over a period carries along: histories, the fade's output count, saturations, and the stage-6
output when one was emitted. -/
structure Pass where
  h : Hist
  j : Nat
  sat : Nat
  out : Option Marked
  deriving DecidableEq, Repr

/-- The tables a chain reads while it runs: decimation fields, shifts, CIC taps, the active (or new) bank, the old bank of a
fade with the fade's length, and the skew taps. -/
structure ChTab where
  x : DecW
  sh : List Nat
  cic : List Int
  new : List Int
  old : Option (List Int × Nat)
  skew : List Int
  deriving DecidableEq, Repr

/-- Stages 5 and 6 on a FIR output `y` at period m. -/
def passTail (t : ChTab) (m : Nat) (p : Pass) (y : Marked) : Pass :=
  let box := (y :: p.h.box).take t.x.b
  let p := { p with h := { p.h with box := box } }
  if m % t.x.D = 0 then
    let (z, n5) := stageOut ((box.map (·.x)).foldl (· + ·) 0) (t.sh.getD 4 0) (anyMark t.x.b box)
    let sk := (z :: p.h.skew).take 4
    let (o, n6) := stageOut (dot t.skew (sk.map (·.x))) (t.sh.getD 5 0) (anyMark 4 sk)
    { p with h := { p.h with skew := sk }, sat := p.sat + n5 + n6, out := some o }
  else p

/-- Stage 4 on a halfband output `y` at period m (R155, R169). -/
def passFir (t : ChTab) (m : Nat) (p : Pass) (y : Marked) : Pass :=
  let fir := (y :: p.h.fir).take 255
  let p := { p with h := { p.h with fir := fir } }
  if m % (t.x.pf * t.x.f) = 0 then
    let xs := fir.map (·.x)
    let (raw, n, j) :=
      match t.old with
      | some (old, total) =>
        let j := p.j + 1
        (fadeRaw (dot old xs) (dot t.new xs) j total, max old.length t.new.length, j)
      | none => (dot t.new xs, t.new.length, p.j)
    let (z, n4) := stageOut raw (t.sh.getD 3 0) (anyMark n fir)
    passTail t m { p with j := j, sat := p.sat + n4 } z
  else p

/-- Stage 3 on an input `y` at period m. -/
def passHb2 (t : ChTab) (m : Nat) (p : Pass) (y : Marked) : Pass :=
  if t.x.e2 = 1 then
    let h2 := (y :: p.h.h2).take 11
    let p := { p with h := { p.h with h2 := h2 } }
    if m % t.x.pf = 0 then
      let (z, n3) := stageOut (dot hb2Taps (h2.map (·.x))) (t.sh.getD 2 0) (anyMark 11 h2)
      passFir t m { p with sat := p.sat + n3 } z
    else p
  else passFir t m p y

/-- Stage 2 on an input `y` at period m. -/
def passHb1 (t : ChTab) (m : Nat) (p : Pass) (y : Marked) : Pass :=
  if t.x.e1 = 1 then
    let h1 := (y :: p.h.h1).take 7
    let p := { p with h := { p.h with h1 := h1 } }
    if m % (2 * t.x.c) = 0 then
      let (z, n2) := stageOut (dot hb1Taps (h1.map (·.x))) (t.sh.getD 1 0) (anyMark 7 h1)
      passHb2 t m { p with sat := p.sat + n2 } z
    else p
  else passHb2 t m p y

/-- The chain takes the level `v` of the period m of 6.144 MHz that ends at grid tick 4·m (R157). -/
def passWord (t : ChTab) (m : Nat) (p : Pass) (v : Int) : Pass :=
  let vs := (v :: p.h.v).take t.cic.length
  let p := { p with h := { p.h with v := vs } }
  if m % t.x.c = 0 then
    let (y, n1) := stageOut (dot t.cic vs) (t.sh.getD 0 0) false
    passHb1 t m { p with sat := p.sat + n1 } y
  else p

/-- The chain takes levels in order, the first at period m. -/
def passWords (t : ChTab) : Nat → Pass → List Int → Pass
  | _, p, [] => p
  | m, p, v :: vs => passWords t (m + 1) (passWord t m p v) vs

/-- Cleared stages 1 to 6 (R189, R192). -/
def Hist.clear : Hist := ⟨[], [], [], [], [], []⟩

/-- Stages from the first one that differs between two decimation words to stage 6 cleared (R189). -/
def Hist.clearFrom (h : Hist) (a b : DecW) : Hist :=
  if a.c ≠ b.c then Hist.clear
  else if a.e1 ≠ b.e1 then { Hist.clear with v := h.v }
  else if a.e2 ≠ b.e2 then { Hist.clear with v := h.v, h1 := h.h1 }
  else if a.f ≠ b.f then { Hist.clear with v := h.v, h1 := h.h1, h2 := h.h2 }
  else if a.b ≠ b.b then { Hist.clear with v := h.v, h1 := h.h1, h2 := h.h2, fir := h.fir }
  else h

/-- The value of R184 for a computed output and the flags and overload on the sample. -/
def sampleValue (o : Out7) (cal : Bool) (ovl : Option Bool) : Int :=
  if cal then 0
  else match ovl with
    | some neg => if neg then -8388608 else 8388607
    | none => o.x

/-- A sample word (R182): VALUE in bits 31:8, flags in bits 7:0. -/
def sampleWord (v : Int) (flags : Nat) : Nat := (wrapU 24 v).toNat * 256 + flags % 256

/-- VALUE of a sample word, signed. -/
def wordValue (w : Nat) : Int := toSigned 24 (w / 256)

/-- The comparison of R186. -/
def Cmp.meets (c : Cmp) (v : Int) : Bool :=
  if c.mode = 1 then (if c.active then decide (v < c.level - c.hyst) else decide (c.level ≤ v))
  else (if c.active then decide (c.level + c.hyst < v) else decide (v ≤ c.level))

/-- The crossing position C of R277 for a crossing that starts at sample j: `v0` is the VALUE of j − 1 where it counts, `v1`
that of j. -/
def Cmp.pos (c : Cmp) (toActive : Bool) (j : Nat) : Nat :=
  let lc := if toActive then c.level else if c.mode = 1 then c.level - c.hyst else c.level + c.hyst
  let q := match c.v0 with
    | none => 256
    | some a =>
      let n := if a < c.v1 then lc - a else a - lc
      let d := if a < c.v1 then c.v1 - a else a - c.v1
      if d = 0 ∨ n ≤ 0 ∨ d < n then 256 else clampI 1 256 (roundHalfAway (256 * n) d.toNat)
  (256 * ((j : Int) - 1) + q).toNat

/-- A comparator takes sample k with value v and flags (R186, R187): the comparator and the crossing, if one completes.
`prev` is the word of sample k − 1 at the same D, if it reached the comparator; `d` is the channel's D. -/
def Cmp.take (c : Cmp) (i k d : Nat) (v : Int) (flags : Nat) (prev : Option Nat) : Cmp × Option Crossing :=
  if c.mode = 0 then (c, none)
  else if flags &&& c.block ≠ 0 then ({ c with run := 0 }, none)
  else if c.meets v then
    let old := prev.bind (fun w => if w % 256 &&& c.block ≠ 0 then none else some (wordValue w))
    let c := if c.run = 0 then { c with start := k, v0 := old, v1 := v } else c
    if c.dwell ≤ c.run + 1 then
      ({ c with run := 0, active := !c.active }, some ⟨i, !c.active, k, c.start, c.pos (!c.active) c.start, d⟩)
    else ({ c with run := c.run + 1 }, none)
  else ({ c with run := 0 }, none)

/-- A comparator made inactive without a crossing (R190, R192). -/
def Cmp.reset (c : Cmp) : Cmp := { c with active := false, run := 0 }

end Sys2Proof.Machine
end

