-- ==== Sys2Proof/Machine/Ops.lean ====
section
/-! DEFINITION. The named operations that every family uses: sending an answer, queues, raising an event, and the reads of
the effective configuration that many rules name. -/

namespace Sys2Proof.Machine

open Sys2Proof

/-- The numeric status codes of R499 (spec/15_ports_and_kmp.md). -/
def Code.num : Code → Nat
  | .success => 0 | .noObject => 1 | .notRoutable => 2 | .outOfRange => 3 | .inUse => 4 | .access => 5
  | .excBudget => 6 | .procBudget => 7 | .queueFull => 8 | .stagingFull => 9 | .tooLate => 10 | .internal => 11
  | .noSession => 12 | .sessionsExhausted => 13 | .lengthMismatch => 14 | .blockSequence => 15 | .unreachable => 16
  | .noAnswer => 17 | .malformed => 18

/-- The hub answers a dictionary entry with a status, and counts it (R535). -/
def answer (s : State) (c : Code) : State := { s.bump .answers 0 (c.num + 1) 1 with ans := c }

/-- A queue with nothing in it. -/
def Queue.empty : Queue :=
  { words := [], pushing := none, popWaiting := false, item := [], dropToMark := false, dropNew := false, dropIn := false,
    flushLeft := 0, midItem := false, cause := 2 }

/-- Queue q. -/
def State.queue (s : State) (q : Nat) : Queue := Sparse.get s.queues q Queue.empty

/-- Queue q replaced. -/
def State.putQueue (s : State) (q : Nat) (v : Queue) : State := { s with queues := Sparse.store s.queues q v Queue.empty }

/-- The island code of the core in custody (object 0x1800:01, R426). -/
def State.custodyIsland (s : State) : Nat := 25 + s.nat .custody 0 1

/-- The island on whose events queue an occurrence of a source is pushed (column Origin of R538). -/
def islandOf (s : State) (src detail : Nat) : Nat :=
  if src < 16 then 30
  else if src < 40 then 24
  else if src < 43 then s.custodyIsland
  else if src = 43 then detail / 16
  else if src < 47 then detail / 256
  else if src < 51 then 24
  else if src = 51 then 29
  else if src < 56 then 24
  else if src < 63 then s.custodyIsland
  else if src < 65 then 28
  else if src < 68 then 24
  else if src < 71 then 29
  else if src < 73 then 24
  else if src = 73 then 30
  else if src < 76 then 27
  else if src < 79 then 29
  else if src = 79 then 30
  else if src = 80 then s.custodyIsland
  else if src < 85 then 29
  else if src < 87 then 24
  else 29

/-- The peak occupancy after a push (object 0x1910 + q:03). -/
def notePeak (s : State) (q : Nat) : State :=
  let n := (s.queue q).words.length
  if s.nat .queue q 3 < n then s.setNum .queue q 3 n else s

/-- One word pushed by an island's own logic: it completes when a stage is empty, and otherwise stays pending (R412). -/
def pushWord (s : State) (q : Nat) (w : QWord) : State :=
  let k := s.queue q
  if k.words.length < queueDepth q ∧ k.pushing = none then
    notePeak (s.putQueue q { k with words := k.words ++ [w] }) q
  else if k.pushing = none then s.putQueue q { k with pushing := some w }
  else s

/-- The place of an island's route-line buffer among the four: DMA, core A, core B, management (R544). -/
def lineOf (island : Nat) : Option Nat :=
  if island = 30 then some 0 else if island = 25 then some 1 else if island = 26 then some 2
  else if island = 29 then some 3 else none

/-- The counts of lost occurrences that go out with a push of an island that has completed: EV85 with cause 1 for its own, with
cause 3 for those of its route line (R544, R548). -/
def reportLost (s : State) (island : Nat) : State :=
  let q := 162 + island
  let n := Sparse.get s.ev.lost island 0
  let s := if n = 0 then s
    else pushWord { s with ev := { s.ev with lost := Sparse.del s.ev.lost island } } q
      ⟨0, true, some ⟨85, 1, island * 2 ^ 24 + n % 2 ^ 24, s.now⟩⟩
  match lineOf island with
  | none => s
  | some l =>
    let m := s.ev.lineLost.getD l 0
    if m = 0 ∨ (s.queue q).pushing ≠ none then s
    else pushWord { s with ev := { s.ev with lineLost := s.ev.lineLost.set l 0 } } q
      ⟨0, true, some ⟨85, 3, island * 2 ^ 24 + m % 2 ^ 24, s.now⟩⟩

/-- An occurrence pushed on an island's events queue; one that finds an earlier push of the island pending is discarded and
counted (R537, R548). -/
def pushEvent (s : State) (island : Nat) (e : EvItem) : State :=
  let q := 162 + island
  if (s.queue q).pushing ≠ none then
    { s with ev := { s.ev with lost := Sparse.store s.ev.lost island (Sparse.get s.ev.lost island 0 + 1) 0 } }
  else
    let s := pushWord s q ⟨0, true, some e⟩
    if (s.queue q).pushing = none then reportLost s island else s

/-- The source cannot pulse on this hub (R539). -/
def silentSource (s : State) (src cause : Nat) : Bool :=
  ((src == 65 || src == 66 || src == 68 || (src == 61 && cause == 2)) && !Config.hasCoreB s.variant) ||
    ((src == 60 || src == 62) && !s.isManager) || src == 87

/-- The hub raises an event with a source tick (R537, R539). -/
def raiseAt (s : State) (src cause detail tick : Nat) : State :=
  if silentSource s src cause then s else pushEvent s (islandOf s src detail) ⟨src, cause, detail, tick⟩

/-- The hub raises an event whose rule names no source tick: the grid count now (R537). -/
def raise (s : State) (src cause detail : Nat) : State := raiseAt s src cause detail s.now

/-- EV40 to EV43 of a channel, subject to its event enable, and counted (R549). -/
def raiseChan (s : State) (ch src cause tick : Nat) : State :=
  if bit (s.nat .chStatus ch 1) (src - 40) then (raiseAt s src cause ch tick).bump .chStatus ch 6 1 else s

/-- The power mode in use in a cell: 1 while its modulator clock is 3,072 kHz (R108, R112). -/
def State.modeOf (s : State) (cell : Nat) : Nat := if s.nat .refPower cell 4 = 3072 then 1 else 0

/-- The modulator clock period of a cell in grid ticks (R112). -/
def State.modPeriod (s : State) (cell : Nat) : Nat := if s.modeOf cell = 1 then 8 else 4

/-- An empty comparator record with the settings in effect. -/
def State.cmpInit (s : State) (ch i : Nat) : Cmp :=
  { mode := s.nat .chThresh ch (7 * i + 1), level := s.num .chThresh ch (7 * i + 2),
    hyst := s.nat .chThresh ch (7 * i + 3), dwell := s.nat .chThresh ch (7 * i + 4),
    block := s.nat .chThresh ch (7 * i + 5), active := false, run := 0, start := 0, v0 := none, v1 := 0 }

/-- The settings in effect, as the chain of a channel starts with them. -/
def State.useInit (s : State) (ch : Nat) : ChUse :=
  { dw := s.nat .chFilter ch 1, shifts := (List.range 7).map (fun i => s.nat .chFilter ch (8 + i)),
    bankA := s.nat .chFilter ch 4, bankB := s.nat .chFilter ch 5, active := s.nat .chFilter ch 6,
    fadeLen := s.nat .chFilter ch 7, floor := s.nat .chFilter ch 15, d := s.nat .chCal ch 18, gUsr := s.num .chCorr ch 1, oUsr := s.num .chCorr ch 2,
    gCal := s.num .chCal ch (s.nat .chFront ch 7 + 1), oCal := s.num .chCal ch (s.nat .chFront ch 7 + 9) }

/-- A channel that has processed nothing. -/
def State.chanInit (s : State) (ch : Nat) : Chan :=
  { use := s.useInit ch, sched := [], hist := Hist.clear, buf := [], nextM := none, nextK := 0, fade := none,
    fadeWait := [], refWait := [], slates := [], cmp0 := s.cmpInit ch 0,
    cmp1 := s.cmpInit ch 1, crossings := [], last := none, cmpHist := [],
    ovl := { run := 0, runStart := 0, on := false, neg := false, resetEnd := 0, window := [], due := [], cuts := [] },
    pull := { marked := 0, unmarked := 0, startTick := 0, unmarkedTick := 0, on := false, declareDue := none,
              releaseDue := none, hold := 0, since := 0 },
    rail := false, flags := [], stat := [], statTo := none, delays := [] }

/-- Channel n. An unlisted channel has processed nothing and runs with the settings in effect. -/
def State.chan (s : State) (ch : Nat) : Chan := (Sparse.find s.chans ch).getD (s.chanInit ch)

/-- Channel n replaced. -/
def State.putChan (s : State) (ch : Nat) (c : Chan) : State := { s with chans := Sparse.put s.chans ch c }

/-- Channel n changed. -/
def State.modChan (s : State) (ch : Nat) (f : Chan → Chan) : State := s.putChan ch (f (s.chan ch))

/-- A cell as after reset. -/
def CellSt.init : CellSt :=
  { expA := none, expB := none, statA := none, statB := none, early := [], missed := [], lost := [], closing := [], readyDue := none, modeDue := none,
    modes := [], refs := [], resets := [], spareDue := none, clamps := [], emit := [], rot := [], pullVolts := [],
    pullAt := none }

/-- Cell c beside its objects. -/
def State.cell (s : State) (c : Nat) : CellSt := Sparse.get s.cells c CellSt.init

/-- The value of a history at tick t: that of the newest entry at or before it. -/
def histAt {α : Type} (h : List (Nat × α)) (t : Nat) (d : α) : α := ((h.find? (fun p => decide (p.1 ≤ t))).map (·.2)).getD d

/-- The power mode of a cell at tick t (R114): a switch counts from its tick on. -/
def State.modeAt (s : State) (c t : Nat) : Nat :=
  let k := s.cell c
  let past := histAt k.modes t (if k.modes = [] then s.modeOf c else 0)
  match k.modeDue with
  | some (due, m) => if due ≤ t then m else past
  | none => past

/-- The modulator clock period of a cell at tick t in grid ticks (R112). -/
def State.periodAt (s : State) (c t : Nat) : Nat := if s.modeAt c t = 1 then 8 else 4

/-- The tick at which n modulator clock periods of a cell, the first beginning at t, have passed. -/
def State.periodsOn (s : State) (c : Nat) : Nat → Nat → Nat
  | t, 0 => t
  | t, n + 1 => s.periodsOn c (t + s.periodAt c t) n

/-- The reference buffer of a cell is enabled at tick t (R109, R111). -/
def State.refAt (s : State) (c t : Nat) : Bool :=
  let k := s.cell c
  histAt k.refs t (k.refs != [] || s.nat .refPower c 1 == 1)

/-- Cell c changed. -/
def State.modCell (s : State) (c : Nat) (f : CellSt → CellSt) : State :=
  { s with cells := Sparse.store s.cells c (f (s.cell c)) CellSt.init }

/-- The staging of a session with nothing staged. -/
def Stage.empty : Stage := { held := false, set := [], opened := 0, pend := [], imm := [] }

/-- The staging of session n. -/
def State.stage (s : State) (n : Nat) : Stage := Sparse.get s.stages n Stage.empty

/-- The staging of session n replaced. -/
def State.putStage (s : State) (n : Nat) (v : Stage) : State := { s with stages := Sparse.store s.stages n v Stage.empty }

/-- The configuration with writes applied, in order: what a check "with this write applied" looks at. -/
def State.withWrites (s : State) (ws : List Wr) : State :=
  ws.foldl (fun s w => if (entryTy w.obj w.u w.sub).isBytes then s.setBytes w.obj w.u w.sub w.bytes
    else s.setNum w.obj w.u w.sub w.num) s

/-- Every write staged and not yet in effect: held sets, pending sets and immediate writes (R430, R433). -/
def Stage.writes (g : Stage) : List Wr := (g.pend.map (·.writes)).flatten ++ g.imm.map (·.w) ++ g.set

/-- The writes staged by every session. -/
def State.allStaged (s : State) : List Wr := (s.stages.map (fun p => p.2.writes)).flatten

/-- The tap count of a coefficient set. -/
def State.taps (s : State) (set : Nat) : Nat := s.nat .coefSet set 1

/-- A bank reference of a chain. -/
def ChUse.putBank (u : ChUse) (b set : Nat) : ChUse := if b = 0 then { u with bankA := set } else { u with bankB := set }

/-- A setting of a chain changed. Comparator settings stand in the comparators. -/
def ChUse.put (u : ChUse) (f : ChField) (v : Int) : ChUse :=
  match f with
  | .dec => { u with dw := v.toNat }
  | .shift i => { u with shifts := u.shifts.set i v.toNat }
  | .bankRef b => u.putBank b v.toNat
  | .active => { u with active := v.toNat }
  | .fadeLen => { u with fadeLen := v.toNat }
  | .floor => { u with floor := v.toNat }
  | .skewD => { u with d := v.toNat }
  | .gUsr => { u with gUsr := v }
  | .oUsr => { u with oUsr := v }
  | .gCal => { u with gCal := v }
  | .oCal => { u with oCal := v }
  | _ => u

/-- The grid tick at which a fade in progress has ended: that of the first sample after it (R169). -/
def Chan.fadeEnd (c : Chan) : Nat :=
  match c.fade with
  | some f => 4 * (decW c.use.dw).D * (c.nextK + f.left)
  | none => 0

/-- The settings of a chain in effect at tick t (R189 to R191): those of its latest sample with every change due by t. A bank
reference waits for the end of a fade (R168). -/
def Chan.useAt (c : Chan) (t : Nat) : ChUse :=
  let free := decide (c.fadeEnd ≤ t)
  let u := { c.use with active := c.fadeWait.getLast?.getD c.use.active }
  let u := if free then c.refWait.foldl (fun (u : ChUse) (p : Nat × Nat) => u.putBank p.1 p.2) u else u
  c.sched.foldl (fun u e =>
    if e.tick ≤ t ∧ (free = true ∨ (match e.field with | .bankRef _ => false | _ => true) = true) then u.put e.field e.val else u) u

/-- The larger tap count of the two banks that a chain uses (R178). -/
def State.nMaxOf (s : State) (u : ChUse) : Nat := max (s.taps u.bankA) (s.taps u.bankB)

/-- The settling length L in samples of a chain with the settings `u` (R178). -/
def State.settleLenOf (s : State) (u : ChUse) : Nat := settleLen (decW u.dw) (s.nMaxOf u) u.floor

/-- The decimation word with which the chain of a channel computes (R176). -/
def State.dwOf (s : State) (ch : Nat) : Nat := (s.chan ch).use.dw

/-- The total decimation in use of a channel. -/
def State.decOf (s : State) (ch : Nat) : Nat := (decW (s.dwOf ch)).D

/-- The span S of a channel's chain in periods of 6.144 MHz (R178), with the settings in effect at tick t. -/
def State.spanAt (s : State) (ch t : Nat) : Nat := let u := (s.chan ch).useAt t; span (decW u.dw) (s.nMaxOf u)

/-- The settling length L of a channel in samples (R178), with the settings in effect now. -/
def State.settleOf (s : State) (ch : Nat) : Nat := s.settleLenOf ((s.chan ch).useAt s.now)

/-- L of a channel in grid ticks: L samples of 4·D ticks (R158, R178), both in effect at tick t (R183). -/
def State.settleTicks (s : State) (ch t : Nat) : Nat :=
  let u := (s.chan ch).useAt t
  s.settleLenOf u * (4 * (decW u.dw).D)

/-- The settle hold H of a channel in grid ticks (R51). -/
def State.holdTicks (s : State) (ch : Nat) : Nat := s.nat .chFront ch 5 * Config.ticksPerMs

/-- A retained write took effect: the change count rises, and a store in progress owes it to the next one (R517, R519). -/
def noteRetained (s : State) (o : Obj) (u sub : Nat) : State :=
  match o.entry u sub with
  | some e =>
    if e.ret then
      { s.bump .store 0 15 1 with store := { s.store with wrote := s.now, run := s.store.run.map (fun r =>
          if r.taken.isSome then { r with later := r.later + 1 } else r) } }
    else s
  | none => s

end Sys2Proof.Machine
end

