-- ==== Sys2Proof/Machine/Flags.lean ====
section
/-! DEFINITION. Every flag computation of a sample word (R182, R183): the intervals that rules open and close on a channel,
and the flags and the overload that hold at a grid time. -/

namespace Sys2Proof.Machine

open Sys2Proof

/-- Bit numbers of R182. -/
abbrev fOVR : Nat := 7
/-- Bit numbers of R182. -/
abbrev fCLP : Nat := 6
/-- Bit numbers of R182. -/
abbrev fOWD : Nat := 5
/-- Bit numbers of R182. -/
abbrev fCAL : Nat := 4
/-- Bit numbers of R182. -/
abbrev fSET : Nat := 3
/-- Bit numbers of R182. -/
abbrev fNBR : Nat := 2
/-- Bit numbers of R182. -/
abbrev fXFD : Nat := 1
/-- Bit numbers of R182. -/
abbrev fEXC : Nat := 0

/-- The interval covers a grid time: it includes its start and excludes its end (R76). -/
def FlagIv.covers (i : FlagIv) (g : Nat) : Bool :=
  decide (i.start ≤ g) && (match i.stop with | none => true | some e => decide (g < e))

/-- An interval opened on a channel (R76, R83). -/
def openFlag (s : State) (ch flag : Nat) (src : FSrc) (start : Nat) : State :=
  s.modChan ch (fun c => { c with flags := c.flags ++ [⟨flag, src, start, none⟩] })

/-- An interval with both ends on a channel. An empty one is not kept. -/
def addFlag (s : State) (ch flag : Nat) (src : FSrc) (start stop : Nat) : State :=
  if start < stop then s.modChan ch (fun c => { c with flags := c.flags ++ [⟨flag, src, start, some stop⟩] }) else s

/-- The open intervals of one flag and source on a channel end at `stop`. -/
def closeFlag (s : State) (ch flag : Nat) (src : FSrc) (stop : Nat) : State :=
  s.modChan ch (fun c => { c with flags := c.flags.map (fun i =>
    if i.flag = flag ∧ i.src = src ∧ i.stop = none then { i with stop := some stop } else i) })

/-- An interval of this flag and source is open on the channel. -/
def hasOpen (s : State) (ch flag : Nat) (src : FSrc) : Bool :=
  (s.chan ch).flags.any (fun i => i.flag == flag && decide (i.src = src) && i.stop == none)

/-- The estimation window of modulator m of a cell starts afresh at tick t (R248). -/
def windowRestart (s : State) (cell m t : Nat) : State :=
  { s with cal := { s.cal with winFrom := Sparse.put s.cal.winFrom (17 * cell + m) t,
                               qual := Sparse.del s.cal.qual (17 * cell + m) } }

/-- The estimation windows of every modulator of a cell start afresh (R248). -/
def windowsRestart (s : State) (cell t : Nat) : State :=
  (List.range 17).foldl (fun s m => windowRestart s cell m t) s

/-- A commit fence, decimation switch, SLATE or re-anchor spoils a resynchronisation between t_s and the end of its copy
(R404). -/
def spoilResync (s : State) : State :=
  { s with cust := { s.cust with resync := s.cust.resync.map (fun r =>
      if r.ts.isSome && !r.copied then { r with spoiled := true } else r) } }

/-- The modulator that serves a channel: its own, or the spare as 16 (R103). -/
def modOf (s : State) (ch : Nat) : Nat := if s.nat .spare (ch / 16) 1 = ch % 16 then 16 else ch % 16

/-- SET from t to t + 2·L + H, the tail of R76, R98, R104, R114, R120 and R124. -/
def setTail (s : State) (ch t : Nat) : State :=
  addFlag s ch fSET .timed t (t + 2 * s.settleTicks ch t + s.holdTicks ch)

/-- SET from t to t + T_fe + H + L (R82); T_fe in µs. The pull detector marks no phase before T_fe + H has passed
(R122). -/
def setTouch (s : State) (ch t us : Nat) : State :=
  let s := (windowRestart s (ch / 16) (modOf s ch) t).modChan ch (fun c =>
    { c with pull := { c.pull with hold := max c.pull.hold (t + usTicks us + s.holdTicks ch) } })
  addFlag s ch fSET .timed t (t + usTicks us + s.holdTicks ch + s.settleTicks ch t)

/-- The mask of flags that intervals set on a sample of grid time g (R183). -/
def flagMask (ivs : List FlagIv) (g : Nat) : Nat :=
  ivs.foldl (fun m i => if i.covers g then setBit m i.flag else m) 0

/-- The overload interval that covers grid time g, by its sign (R100). -/
def overloadAt (ivs : List FlagIv) (g : Nat) : Option Bool :=
  ivs.findSome? (fun i => match i.src with
    | .overload neg => if i.covers g then some neg else none
    | _ => none)

/-- Intervals that ended a millisecond before grid time g are dropped: no later sample or item of cell status carries them. -/
def pruneFlags (ivs : List FlagIv) (g : Nat) : List FlagIv :=
  ivs.filter (fun i => match i.stop with | none => true | some e => decide (g < e + Config.ticksPerMs))

/-- The four bits of a channel in a word of cell status for the period that begins at tick t: CLP, OWD, EXC and NBR from bit 3
on (R416). -/
def statusBits (ivs : List FlagIv) (t : Nat) : Nat :=
  let m := flagMask ivs t
  8 * b2n (bit m fCLP) + 4 * b2n (bit m fOWD) + 2 * b2n (bit m fEXC) + b2n (bit m fNBR)

/-- The flags of R182 that four bits of cell status stand for. -/
def statusFlags (b : Nat) : Nat :=
  (if bit b 3 then 2 ^ fCLP else 0) + (if bit b 2 then 2 ^ fOWD else 0) + (if bit b 1 then 2 ^ fEXC else 0) +
    (if bit b 0 then 2 ^ fNBR else 0)

/-- The flags of R182 that a stream core takes from cell status (R127, R416). -/
def statusMask : Nat := statusFlags 15

/-- The flags that cell status received gives a sample of grid time g (R76, R127): those of the period that begins at g. -/
def statusAt (c : Chan) (g : Nat) : Nat :=
  match c.stat.find? (fun p => decide (p.1 ≤ g) && decide (g < p.2.1)) with
  | some (_, _, b) => statusFlags b
  | none => 0

/-- The flags that a sample of grid time g carries beside those of the filter chain: CLP, OWD, EXC and NBR from cell status, the
others from their intervals (R183). -/
def markAt (c : Chan) (g : Nat) : Nat := (flagMask c.flags g &&& (255 - statusMask)) ||| statusAt c g

/-- The terminals that are IN+ or IN− of a channel: with source 1 or 6, the two of R51; with any other source, none
(R53). -/
def inputTerms (s : State) (ch : Nat) : List Nat :=
  let src := s.nat .chFront ch 1
  if src = 1 ∨ src = 6 then
    [32 * cellOfCh ch + s.nat .chFront ch 2, 32 * cellOfCh ch + s.nat .chFront ch 3]
  else []

/-- The channels with IN+ or IN− on a terminal. -/
def chansOnTerm (s : State) (t : Nat) : List Nat := (chansOf (t / 32)).filter (fun n => (inputTerms s n).contains t)

/-- The route word of a terminal (R49). -/
def routeWord (s : State) (t : Nat) : Nat := s.nat .termRoute (t / 32) (t % 32 + 1)

/-- The terminals of a cell. -/
def termsOf (c : Nat) : List Nat := (List.range 32).map (32 * c + ·)

/-- The terminal that carries BIAS j in a cell, if any (R50). -/
def biasTerm (s : State) (c j : Nat) : Option Nat :=
  (termsOf c).find? (fun t => bits (routeWord s t) 31 28 = 2 && bits (routeWord s t) 27 24 = j)

/-- The channels associated with a driver or bias source (R80). -/
def associated (s : State) (u : Sys2Proof.ExcUnit) : List Nat :=
  match u with
  | .driver c k => (chansOf c).filter (fun n => bit (s.nat .chFront n 4) k)
  | .bias c j =>
    match biasTerm s c j with
    | some t => chansOnTerm s t
    | none => []

/-- Fold over channels. -/
def onChans (s : State) (chs : List Nat) (f : State → Nat → State) : State := chs.foldl f s

end Sys2Proof.Machine
end

