-- ==== Sys2Proof/Machine/Terminals.lean ====
section
/-! DEFINITION. Terminals, crosspoint, excitation and bias (spec/02_terminals_and_crosspoint.md): legality, the excitation
budget, clamps, regulation, switches, and the SET intervals of changes. -/

namespace Sys2Proof.Machine

open Sys2Proof

/-- How many terminals of a cell satisfy a test on their route word. -/
def countTerms (s : State) (c : Nat) (p : Nat → Bool) : Nat := ((termsOf c).filter (fun t => p (routeWord s t))).length

/-- DRV of a route word (R50). -/
abbrev rDrv (w : Nat) : Nat := bits w 31 28
/-- UNIT of a route word (R50). -/
abbrev rUnit (w : Nat) : Nat := bits w 27 24
/-- SNS of a route word (R50). -/
abbrev rSns (w : Nat) : Nat := bits w 21 20
/-- PULL of a route word (R50). -/
abbrev rPull (w : Nat) : Nat := bits w 18 17

/-- The field coding of a route word (R50, R10). -/
def routeCoded (v : Variant) (w : Nat) : Bool :=
  decide (rDrv w ≤ 5) &&
    (if rDrv w = 1 ∨ rDrv w = 4 then decide (rUnit w ≤ 3) else rDrv w == 2 || rUnit w == 0) &&
    (bit w 23 || bit w 22 || rSns w == 0) && !(rPull w == 3) && (!(bit w 16) || !(rPull w == 0)) &&
    (bits w 15 0 == 0) && (Config.hasPull v || rPull w == 0)

/-- The rules on one terminal's route word: Single drive and Sense alone (R55). -/
def termRules (w : Nat) : Bool :=
  (rDrv w == 0 || rPull w == 0) &&
    (!(bit w 23 || bit w 22) || (rDrv w == 0 && rPull w == 0 && !(bit w 23 && bit w 22)))

/-- The rules checked at receipt and at effect over one cell (R55). -/
def cellRules (s : State) (c : Nat) : Bool :=
  (termsOf c).all (fun t => termRules (routeWord s t)) &&
    (List.range 4).all (fun k => decide (countTerms s c (fun w => rDrv w == 1 && rUnit w == k) ≤ 1)) &&
    (List.range 16).all (fun j => decide (countTerms s c (fun w => rDrv w == 2 && rUnit w == j) ≤ 1)) &&
    (List.range 4).all (fun k => decide (countTerms s c (fun w => rDrv w == 4 && rUnit w == k) ≤ 1)) &&
    decide (countTerms s c (fun w => rDrv w == 5) ≤ 1) &&
    (List.range 4).all (fun k => decide (countTerms s c (fun w => bit w 23 && rSns w == k) ≤ 1) &&
      decide (countTerms s c (fun w => bit w 22 && rSns w == k) ≤ 1)) &&
    decide (countTerms s c (fun w => bit w 19) ≤ 1) &&
    (termsOf c).all (fun t => decide ((chansOnTerm s t).length ≤ 8)) &&
    (chansOf c).all (fun n =>
      let src := s.nat .chFront n 1
      !(decide (2 ≤ src) && decide (src ≤ 5)) || decide (1 ≤ countTerms s c (fun w => rDrv w == 4 && rUnit w + 2 == src)))

/-- The rules checked at receipt only over one cell: Field coding and Distinct inputs (R55, R52, R10). -/
def cellCoding (s : State) (c : Nat) : Bool :=
  (termsOf c).all (fun t => routeCoded s.variant (routeWord s t)) &&
    (chansOf c).all (fun n =>
      let src := s.nat .chFront n 1
      decide (src ≤ 6) && decide (s.nat .chFront n 2 ≤ 31) && decide (s.nat .chFront n 3 ≤ 31) &&
        decide (s.nat .chFront n 4 ≤ 15) &&
        !((src == 1 || src == 6) && s.nat .chFront n 2 == s.nat .chFront n 3)) &&
    (List.range 4).all (fun k => decide (s.nat .driver (4 * c + k) 1 ≤ 3)) &&
    (List.range 16).all (fun j => decide (s.nat .bias (16 * c + j) 1 ≤ 2))

/-- The cell keeps to every rule of R55: at receipt all of them, at effect those marked "effect". -/
def cellLegal (s : State) (c : Nat) (receipt : Bool) : Bool := cellRules s c && (!receipt || cellCoding s c)

/-- A write to this entry is a routing write (R55). -/
def isRouting (o : Obj) (sub : Nat) : Bool :=
  match o with
  | .termRoute => true
  | .chFront => decide (1 ≤ sub) && decide (sub ≤ 4)
  | .driver | .bias => sub == 1
  | _ => false

/-- A write to this entry is a setting of a driver or bias source (R72). -/
def isExcitation (o : Obj) (sub : Nat) : Bool :=
  match o with
  | .driver => decide (1 ≤ sub) && decide (sub ≤ 4)
  | .bias => decide (1 ≤ sub) && decide (sub ≤ 3)
  | _ => false

/-- The cell of a cell object's or channel record's unit. -/
def cellOf (o : Obj) (u : Nat) : Nat :=
  match o with
  | .driver => u / 4
  | .bias => u / 16
  | .chFront | .chFilter | .chCorr | .chThresh | .chBands | .chStatus | .chCal | .chLegacy => u / 16
  | _ => u

/-- The allocation in µW of a driver or bias source in a mode, with its settings of subindices 0x02 to 0x04 (R71). -/
def allocFor (o : Obj) (mode a b c : Nat) : Nat :=
  match o, mode with
  | .driver, 1 => ceilDiv (a * c) 1000
  | .driver, 2 => b * 26
  | .driver, 3 => 24 * min c 25000
  | .bias, 1 => a * 26
  | .bias, 2 => b
  | _, _ => 0

/-- The allocation of the unit that an entry belongs to, from the effective settings (R71). -/
def allocOf (s : State) (o : Obj) (u : Nat) : Nat := allocFor o (s.nat o u 1) (s.nat o u 2) (s.nat o u 3) (s.nat o u 4)

/-- The allocation of a driver in µW (R71). -/
abbrev driverAlloc (s : State) (d : Nat) : Nat := allocOf s .driver d

/-- The allocation of a bias source in µW (R71). -/
abbrev biasAlloc (s : State) (b : Nat) : Nat := allocOf s .bias b

/-- The sum of the allocations of every present unit (R74). -/
def allocTotal (s : State) : Nat :=
  ((List.range (4 * Config.cells s.variant)).map (driverAlloc s)).foldl (· + ·) 0 +
    ((List.range (16 * Config.cells s.variant)).map (biasAlloc s)).foldl (· + ·) 0

/-- The largest value that an entry of a unit can come to hold: the effective one, or one that a staged write gives it. -/
def settingMax (s : State) (ws : List Wr) (o : Obj) (u sub : Nat) : Nat :=
  ((ws.filter (fun w => w.obj == o && w.u == u && w.sub == sub)).map (·.num.toNat)).foldl max (s.nat o u sub)

/-- The largest allocation that a unit can reach while the staged writes take effect, in whatever order (R73): in any mode that it
has or that is staged for it, with each setting as large as it can be. -/
def allocPeak (s : State) (ws : List Wr) (o : Obj) (u : Nat) : Nat :=
  let modes := s.nat o u 1 :: (ws.filter (fun w => w.obj == o && w.u == u && w.sub == 1)).map (·.num.toNat)
  (modes.map (fun m => allocFor o m (settingMax s ws o u 2) (settingMax s ws o u 3) (settingMax s ws o u 4))).foldl max 0

/-- The hub-wide reserved total (R72, R73): the effective allocations, and for each unit the rise that the writes staged by every
session can bring. -/
def reservedTotal (s : State) : Nat :=
  let ws := s.allStaged.filter (fun w => isExcitation w.obj w.sub)
  let units := (ws.map (fun w => (w.obj, w.u))).dedup
  allocTotal s + (units.map (fun p => allocPeak s ws p.1 p.2 - allocOf s p.1 p.2)).foldl (· + ·) 0

/-- The excitation budget in µW (R72). -/
abbrev excBudget : Nat := 12000000

/-- The sense routing of a driver (R65 subindex 0x05). -/
def senseRouting (s : State) (d : Nat) : Nat :=
  b2n (decide (0 < countTerms s (d / 4) (fun w => bit w 23 && rSns w == d % 4))) +
    2 * b2n (decide (0 < countTerms s (d / 4) (fun w => bit w 22 && rSns w == d % 4)))

/-- The excitation units' settling interval after a change at t with T_fe in µs (R81). -/
def settleUnit (s : State) (unit : Sys2Proof.ExcUnit) (t us : Nat) : State :=
  let h := ((associated s unit).map s.holdTicks).foldl max 0
  let e := max (Sparse.get s.excSettle (excId unit) 0) (t + usTicks us + h)
  { s with excSettle := Sparse.put s.excSettle (excId unit) e }

/-- T_fe in µs of a changed driver setting, `none` where R82 lists no such change. -/
def driverTouch (s : State) (d sub : Nat) : Option Nat :=
  let mode := s.nat .driver d 1
  match sub with
  | 1 => some (match mode with | 0 => 100 | 1 => 200 | 2 => 500 | _ => 2000)
  | 2 => if mode = 1 then some 200 else none
  | 3 => if mode = 2 then some 500 else none
  | 4 => some 0
  | _ => none

/-- T_fe in µs of a changed bias setting, `none` where R82 lists no such change. -/
def biasTouch (s : State) (b sub : Nat) : Option Nat :=
  let mode := s.nat .bias b 1
  match sub with
  | 1 => some (match mode with | 0 => 100 | 1 => 1000 | _ => 500)
  | 2 => if mode = 1 then some 1000 else none
  | 3 => if mode = 2 then some 500 else none
  | _ => none

/-- The channels in two lists, each once. -/
def unionL (a b : List Nat) : List Nat := a ++ b.filter (fun x => !(a.contains x))

/-- Every channel of a list touched at t with T_fe in µs (R82). -/
def touchAll (s : State) (chs : List Nat) (t us : Nat) : State := onChans s chs (fun s n => setTouch s n t us)

/-- A change to a driver or bias source takes effect at t: its channels, before and after, are touched and the unit settles
(R81, R82, R84). -/
def touchUnit (old s : State) (unit : Sys2Proof.ExcUnit) (t : Nat) : Option Nat → State
  | none => s
  | some us => touchAll (settleUnit s unit t us) (unionL (associated s unit) (associated old unit)) t us

/-- The crosspoint switches that a terminal's route word closes (R47, R50): its driver line, its sense line, AUX and PULL, numbered
by the local terminal. -/
def termSwitches (w term : Nat) : List Nat :=
  (if rDrv w = 0 then [] else [1000 * term + 16 * rDrv w + rUnit w]) ++
    (if bit w 23 then [1000 * term + 200 + rSns w] else []) ++ (if bit w 22 then [1000 * term + 204 + rSns w] else []) ++
    (if bit w 19 then [1000 * term + 300] else []) ++ (if rPull w = 0 then [] else [1000 * term + 400 + rPull w])

/-- The switches that a channel's inputs close (R51, R53): two terminals, two Kelvin points of a shunt, or the short at the cell
reference. -/
def inputSwitches (s : State) (ch : Nat) : List Nat :=
  let src := s.nat .chFront ch 1
  let at_ := 100000 + 1000 * (ch % 16)
  if src = 1 ∨ src = 6 then [at_ + s.nat .chFront ch 2, at_ + 100 + s.nat .chFront ch 3] else [at_ + 200 + src, at_ + 210 + src]

/-- The switches that the configuration of a cell closes. -/
def cellSwitches (s : State) (c : Nat) : List Nat :=
  (List.range 32).flatMap (fun t => termSwitches (routeWord s (32 * c + t)) t) ++ (chansOf c).flatMap (inputSwitches s)

/-- Switches wait two modulator clock periods from tick t before they close (R59). -/
def closeLater (s : State) (cell t : Nat) (ks : List Nat) : State :=
  s.modCell cell (fun c => { c with closing := c.closing ++ ks.map (fun k => (s.periodsOn cell t 2, k)) })

/-- A routing change of a cell takes effect at tick t, `old` before and `s` after it (R59): a switch that it opens waits for no
closing any more, and a switch that it closes waits. -/
def switchTouch (old s : State) (cell t : Nat) : State :=
  let was := cellSwitches old cell
  let is := cellSwitches s cell
  let s := s.modCell cell (fun c => { c with closing := c.closing.filter (fun p => is.contains p.2) })
  closeLater s cell t (is.filter (fun k => !(was.contains k) && !((s.cell cell).closing.any (fun p => p.2 == k))))

/-- A crosspoint switch of a cell is closed now (R59): the configuration closes it, it no longer waits, and no calibration has the
cell's inputs away from their routes (R237). -/
def switchClosed (s : State) (cell k : Nat) : Bool :=
  (cellSwitches s cell).contains k && !((s.cell cell).closing.any (fun p => p.2 == k)) &&
    !(decide (100000 ≤ k) && s.cal.running.any (fun p => p.1 == cell))

/-- A conversion of the cell's auxiliary bus carries ASET for 5 µs after a change of an AUX bit, or of the route word of the
terminal that carries AUX (R134). -/
def auxTouch (old s : State) (term t : Nat) : State :=
  if bit (routeWord old term) 19 || bit (routeWord s term) 19 then
    { s with auxSettle := Sparse.put s.auxSettle (term / 32) ((t :: Sparse.get s.auxSettle (term / 32) []).take 256) }
  else s

/-- The excitation units of a cell. -/
def cellUnits (c : Nat) : List Sys2Proof.ExcUnit :=
  (List.range 4).map (fun k => .driver c k) ++ (List.range 16).map (fun j => .bias c j)

/-- A unit is out of regulation (R65, R68, R79). -/
def excOut (s : State) : Sys2Proof.ExcUnit → Bool
  | .driver c k => bit (s.nat .driver (4 * c + k) 6) 0
  | .bias c j => bit (s.nat .bias (16 * c + j) 4) 0

/-- EXC from t on a channel that is newly associated with a unit (R80, R84): it stays open while the unit is out of regulation, and
otherwise runs to the unit's last leave tick plus L + H of the channel. -/
def assocExc (s : State) (unit : Sys2Proof.ExcUnit) (n t : Nat) : State :=
  let src := FSrc.excitation (excId unit)
  if excOut s unit then (if hasOpen s n fEXC src then s else openFlag s n fEXC src t)
  else match Sparse.find s.excLeft (excId unit) with
    | some left => addFlag s n fEXC src t (left + s.settleTicks n left + s.holdTicks n)
    | none => s

/-- A change at t of which channels of a cell are associated with which unit sets EXC on the newly associated ones. -/
def assocTouch (old s : State) (c t : Nat) : State :=
  (cellUnits c).foldl (fun s unit =>
    onChans s ((associated s unit).filter (fun n => !((associated old unit).contains n))) (fun s n => assocExc s unit n t)) s

/-- The front-end consequences of one entry whose effective value changed at t: `old` before, `s` after (R59, R81 to R84,
R89, R117, R134). IN+ and IN- set SET whatever the source (R53, R82), and an open-wire episode outlives its pull (R120): both DEDUCED,
log 17. -/
def frontTouch (old s : State) (t : Nat) (o : Obj) (u sub : Nat) : State :=
  match o with
  | .termRoute =>
    let term := 32 * u + (sub - 1)
    let s := touchAll s (unionL (chansOnTerm s term) (chansOnTerm old term)) t 100
    assocTouch old (auxTouch old (switchTouch old s u t) term t) u t
  | .chFront =>
    match sub with
    | 1 =>
      let s := setTouch (switchTouch old s (cellOfCh u) t) u t 100
      assocTouch old (if s.nat .chFront u 1 = 6 then setTouch s u t 100000 else s) (cellOfCh u) t
    | 2 => assocTouch old (setTouch (switchTouch old s (cellOfCh u) t) u t 100) (cellOfCh u) t
    | 3 => assocTouch old (setTouch (switchTouch old s (cellOfCh u) t) u t 100) (cellOfCh u) t
    | 4 => assocTouch old s (cellOfCh u) t
    | 6 => setTouch s u t 100000
    | 7 => setTouch s u t 50
    | 8 => s.modChan u (fun c => { c with pull := { c.pull with marked := 0, unmarked := 0, since := t } })
    | _ => s
  | .driver => touchUnit old s (.driver (u / 4) (u % 4)) t (driverTouch s u sub)
  | .bias => touchUnit old s (.bias (u / 16) (u % 16)) t (biasTouch s u sub)
  | .testDac =>
    let on := fun (x : State) => (termsOf u).find? (fun k => rDrv (routeWord x k) = 5)
    let chs := fun (x : State) => match on x with | some k => chansOnTerm x k | none => []
    touchAll s (unionL (chs s) (chs old)) t 50
  | _ => s

/-- SWITCH_CLOSE (R59): the switches whose two modulator clock periods have passed are closed. -/
def execSwitchClose (cell : Nat) (s : State) : Host.Outcome State Fault Refusal :=
  if cell < Config.cells s.variant then
    .next (s.modCell cell (fun c => { c with closing := c.closing.filter (fun p => decide (s.now < p.1)) }))
  else .next s

/-- A clamp's onset at tick t on a terminal (R75, R76). Which channels carry CLP and which NBR is fixed here (DEDUCED, log 15). -/
def clampOn (s : State) (term t : Nat) : State :=
  let c := term / 32
  let s := s.setNum .routeStatus c 1 (setBit (s.nat .routeStatus c 1) (term % 32) : Nat)
  let s := s.setNum .routeStatus c 2 (setBit (s.nat .routeStatus c 2) (term % 32) : Nat)
  let s := raiseAt (s.bump .routeStatus c 3 1) 44 1 (c * 256 + term % 32) t
  let s := s.modCell c (fun k => { k with clamps := k.clamps.filter (fun p => match p.2.2 with
    | some e => decide (t < e + Config.ticksPerMs)
    | none => true) ++ [(term, t, none)] })
  onChans s (chansOf c) (fun s n =>
    if (inputTerms s n).contains term then openFlag s n fCLP (.clampOwn term) t
    else openFlag s n fNBR (.clampNbr term) t)

/-- CLAMP_ONSET (R75): the first period in which the comparator of a terminal reads active. -/
def execClampOnset (term : Nat) (s : State) : Host.Outcome State Fault Refusal :=
  if term / 32 < Config.cells s.variant ∧ bit (s.nat .routeStatus (term / 32) 1) (term % 32) = false then
    .next (clampOn s term s.now)
  else .next s

/-- A clamp's release at tick t (R75, R76). -/
def clampOff (s : State) (term t : Nat) : State :=
  let c := term / 32
  let s := s.setNum .routeStatus c 1 (clearBit (s.nat .routeStatus c 1) (term % 32) : Nat)
  let s := s.modCell c (fun k => { k with clamps := k.clamps.map (fun p =>
    if p.1 = term ∧ p.2.2 = none then (p.1, p.2.1, some t) else p) })
  onChans s (chansOf c) (fun s n =>
    if hasOpen s n fCLP (.clampOwn term) then setTail (closeFlag s n fCLP (.clampOwn term) t) n t
    else closeFlag s n fNBR (.clampNbr term) (t + usTicks 100 + s.settleTicks n t))

/-- CLAMP_RELEASE (R75): 16 consecutive periods from `tick` on in which the comparator reads inactive. -/
def execClampRelease (term tick : Nat) (s : State) : Host.Outcome State Fault Refusal :=
  if term / 32 < Config.cells s.variant ∧ bit (s.nat .routeStatus (term / 32) 1) (term % 32) = true ∧
      tick + 15 * s.modPeriod (term / 32) ≤ s.now then
    .next (clampOff s term tick)
  else .next s

/-- The object and unit of an excitation unit. -/
def excObj : Sys2Proof.ExcUnit → Obj × Nat
  | .driver c k => (.driver, 4 * c + k)
  | .bias c j => (.bias, 16 * c + j)

/-- The subindex of an excitation unit's regulation state (R65, R68). -/
def excStateSub : Sys2Proof.ExcUnit → Nat
  | .driver _ _ => 6
  | .bias _ _ => 4

/-- The cell and the number in the cell of an excitation unit. -/
def excPlace : Sys2Proof.ExcUnit → Nat × Nat
  | .driver c k => (c, k)
  | .bias c j => (c, j)

/-- The bits of the regulation state that a condition of R64 or R67 can set in the unit's mode (R65, R68). -/
def excBits (s : State) (unit : Sys2Proof.ExcUnit) : Nat :=
  let (o, u) := excObj unit
  match unit, s.nat o u 1 with
  | .driver _ _, 1 => 10
  | .driver _ _, 2 => 4
  | .driver _ _, 3 => 2
  | .bias _ _, 1 => 2
  | .bias _ _, 2 => 4
  | _, _ => 0

/-- The terminals whose clamp puts a unit out of regulation (R64): force, EXS and RTS of a driver in voltage mode. -/
def excTerms (s : State) (unit : Sys2Proof.ExcUnit) : List Nat :=
  match unit with
  | .driver c k =>
    if s.nat .driver (4 * c + k) 1 = 1 then
      (termsOf c).filter (fun t =>
        let w := routeWord s t
        (rDrv w == 1 && rUnit w == k) || ((bit w 23 || bit w 22) && rSns w == k))
    else []
  | .bias _ _ => []

/-- A clamp on one of the unit's terminals is active from tick a up to b, or at some tick of it (R64). -/
def excClamped (s : State) (unit : Sys2Proof.ExcUnit) (a b : Nat) (whole : Bool) : Bool :=
  let ts := excTerms s unit
  (s.cell (excPlace unit).1).clamps.any (fun p => ts.contains p.1 &&
    (if whole then decide (p.2.1 ≤ a) && (match p.2.2 with | some e => decide (b ≤ e) | none => true)
     else decide (p.2.1 < b) && (match p.2.2 with | some e => decide (a < e) | none => true)))

/-- A unit enters the out-of-regulation state at tick t (R79, R80). Bits 3:1 of its state keep the conditions of the entry until it
leaves (DEDUCED, log 15). -/
def excEnter (s : State) (unit : Sys2Proof.ExcUnit) (t conditions : Nat) : State :=
  let (o, u) := excObj unit
  let (c, k) := excPlace unit
  let s := s.setNum o u (excStateSub unit) (1 + (conditions &&& excBits s unit) : Nat)
  let s := match unit with
    | .driver _ _ => raiseAt (s.bump .driver u 8 1) 45 1 (c * 256 + k) t
    | .bias _ _ => raiseAt s 45 2 (c * 256 + k) t
  onChans s (associated s unit) (fun s n => openFlag s n fEXC (.excitation (excId unit)) t)

/-- EXCITATION_OUT_OF_REGULATION (R79, R81): a condition of R64 or R67 for 8 consecutive periods from `tick` on, counted
only after the unit's settling interval. `conditions` has bits 3:1 of the regulation state; the clamp of R64 the machine knows. -/
def execExcitationOutOfRegulation (unit : Sys2Proof.ExcUnit) (tick conditions : Nat) (s : State) :
    Host.Outcome State Fault Refusal :=
  let (o, u) := excObj unit
  if s.hasExc unit ∧ s.nat o u 1 ≠ 0 ∧ bit (s.nat o u (excStateSub unit)) 0 = false ∧
      Sparse.get s.excSettle (excId unit) 0 ≤ tick ∧ tick + 7 * s.modPeriod (excPlace unit).1 ≤ s.now ∧
      (conditions &&& excBits s unit ≠ 0 ∨
        excClamped s unit tick (tick + 8 * s.modPeriod (excPlace unit).1) true = true) then
    .next (excEnter s unit tick conditions)
  else .next s

/-- A unit leaves the out-of-regulation state at tick t (R79, R80). -/
def excLeave (s : State) (unit : Sys2Proof.ExcUnit) (t : Nat) : State :=
  let (o, u) := excObj unit
  let s := s.setNum o u (excStateSub unit) 0
  let s := { s with excLeft := Sparse.put s.excLeft (excId unit) t }
  onChans s (chansOf (excPlace unit).1) (fun s n =>
    closeFlag s n fEXC (.excitation (excId unit)) (t + s.settleTicks n t + s.holdTicks n))

/-- EXCITATION_REGULATION_LEAVE (R79): 64 consecutive periods from `tick` on without a condition. -/
def execExcitationRegulationLeave (unit : Sys2Proof.ExcUnit) (tick : Nat) (s : State) :
    Host.Outcome State Fault Refusal :=
  let (o, u) := excObj unit
  if s.hasExc unit ∧ bit (s.nat o u (excStateSub unit)) 0 = true ∧
      tick + 63 * s.modPeriod (excPlace unit).1 ≤ s.now ∧
      excClamped s unit tick (tick + 64 * s.modPeriod (excPlace unit).1) false = false then
    .next (excLeave s unit tick)
  else .next s

end Sys2Proof.Machine
end

