-- ==== Sys2Proof/Machine/Modulators.lean ====
section
/-! DEFINITION. Modulators, references, the spare modulator and open-wire detection
(spec/03_modulators_and_references.md). -/

namespace Sys2Proof.Machine

open Sys2Proof

/-- A detector that has counted nothing. -/
def Ovl.init : Ovl := { run := 0, runStart := 0, on := false, neg := false, resetEnd := 0, window := [], due := [], cuts := [] }

/-- The detector reaches the word of `tick` (R102): at the first word at or after a switch of modulator or clock rate counting
starts afresh, and an overload in progress ends at the switch tick. -/
def Ovl.cutTo (o : Ovl) (tick : Nat) : Ovl :=
  match o.cuts.filter (fun t => decide (t ≤ tick)) with
  | [] => o
  | c :: cs => { Ovl.init with due := o.due ++ (if o.on then [.release (cs.foldl min c)] else []),
                               cuts := o.cuts.filter (fun t => decide (tick < t)) }

/-- The modulator holds its integrators reset in the period that begins at `tick` (R97). -/
def Ovl.resetting (o : Ovl) (tick : Nat) : Bool := o.on && decide (tick < o.resetEnd)

/-- Whether a sample of grid time g lies in an overload is still to be decided (R96, R98): a run that began by g may yet complete, or
a window that begins by g may yet end the overload. -/
def Ovl.undecided (o : Ovl) (g : Nat) : Bool :=
  if o.on then decide (((o.window.head?.map (·.1)).getD o.resetEnd) ≤ g) else decide (0 < o.run) && decide (o.runStart ≤ g)

/-- The detector takes the word `code` of the period that begins at `tick` and lasts `period` ticks (R96 to R98). -/
def ovlWord (o : Ovl) (tick period code : Nat) : Ovl :=
  let o := o.cutTo tick
  let outer := code == 0 || code == 15
  let run := if outer then o.run + 1 else 0
  let start := if o.run = 0 then tick else o.runStart
  if !o.on then
    if run = 16 then
      { o with run := 0, on := true, neg := code == 0, resetEnd := tick + 33 * period, window := [],
               due := o.due ++ [.onset start (code == 0)] }
    else { o with run := run, runStart := start }
  else if tick < o.resetEnd then o
  else
    let o := if o.window.isEmpty then { o with due := o.due ++ [.resetEnd o.resetEnd] } else o
    let w := o.window ++ [(tick, outer)]
    if run = 16 then { o with run := 0, resetEnd := tick + 33 * period, window := [] }
    else if w.length = 64 ∧ (w.filter (·.2)).length ≤ 3 then
      { o with run := run, runStart := start, on := false, window := [],
               due := o.due ++ [.release ((w.head?.map (·.1)).getD tick)] }
    else { o with run := run, runStart := start, window := lastN 63 w }

/-- A detection of the overload detector takes effect on the channel (R100, R101). -/
def ovlPerform (s : State) (ch : Nat) : OvlDue → State
  | .onset t neg =>
    let s := raiseChan (s.bump .chFront ch 11 1) ch 42 (if neg then 2 else 1) t
    openFlag (windowRestart s (ch / 16) (modOf s ch) t) ch fOVR (.overload neg) t
  | .resetEnd _ => s
  | .release t => setTail (closeFlag (closeFlag (windowRestart s (ch / 16) (modOf s ch) s.now) ch fOVR (.overload true) t) ch fOVR
      (.overload false) t) ch t

/-- The oldest detection of the overload detector takes effect, when `p` accepts it. -/
def ovlStep (s : State) (ch : Nat) (p : OvlDue → Bool) : State :=
  match (s.chan ch).ovl.due with
  | d :: ds =>
    if p d then ovlPerform (s.modChan ch (fun c => { c with ovl := { c.ovl with due := ds } })) ch d else s
  | [] => s

/-- Every detection still waiting takes effect, in order. -/
def ovlSettle (s : State) (ch : Nat) : State :=
  let ds := (s.chan ch).ovl.due
  ds.foldl (fun s d => ovlPerform s ch d) (s.modChan ch (fun c => { c with ovl := { c.ovl with due := [] } }))

/-- The detector will meet a switch at tick t. -/
def Ovl.cutAt (o : Ovl) (t : Nat) : Ovl := { o with cuts := o.cuts.filter (· != t) ++ [t] }

/-- A switch of modulator or clock rate at tick t (R102): the detectors that the stream cores and the cell run on the words of the
channel meet it at the words of that tick. -/
def ovlSwitch (s : State) (ch t : Nat) : State :=
  let s := s.modChan ch (fun c => { c with ovl := c.ovl.cutAt t })
  s.modCell (cellOfCh ch) (fun c => { c with emit := c.emit.map (fun e =>
    { e with ovls := e.ovls.zipIdx.map (fun (o, m) => if m = ch % 16 then o.cutAt t else o) }) })

/-- A switch of a channel at tick t that will not take place after all. -/
def ovlUnswitch (s : State) (ch t : Nat) : State :=
  let drop := fun (o : Ovl) => { o with cuts := o.cuts.filter (· != t) }
  let s := s.modChan ch (fun c => { c with ovl := drop c.ovl })
  s.modCell (cellOfCh ch) (fun c => { c with emit := c.emit.map (fun e => { e with ovls := e.ovls.map drop }) })

/-- OVERLOAD_ONSET (R96, R100, R101): the run of 16 outer codes that the detector found is declared. -/
def execOverloadOnset (ch : Nat) (s : State) : Host.Outcome State Fault Refusal :=
  .next (ovlStep s ch (fun d => match d with | .onset _ _ => true | _ => false))

/-- OVERLOAD_RESET_END (R97): the 32-period reset that the detector followed has ended; the modulator restarts. -/
def execOverloadResetEnd (ch : Nat) (s : State) : Host.Outcome State Fault Refusal :=
  .next (ovlStep s ch (fun d => match d with | .resetEnd _ => true | _ => false))

/-- OVERLOAD_RELEASE (R98, R100): the window of 64 words that the detector found ends the overload. -/
def execOverloadRelease (ch : Nat) (s : State) : Host.Outcome State Fault Refusal :=
  .next (ovlStep s ch (fun d => match d with | .release _ => true | _ => false))

/-- The channels of a cell whose own modulator is failed and unserved carry SET, from the tick at which this begins to the
tick at which it ends (R105). -/
def failedTouch (s : State) (cell t : Nat) : State :=
  let mask := s.nat .spare cell 2
  let asg := s.nat .spare cell 1
  (List.range 16).foldl (fun s m =>
    let n := 16 * cell + m
    let bad := bit mask m && !(asg == m)
    let is := hasOpen s n fSET .failed
    if bad && !is then openFlag (raiseAt s 46 1 (cell * 256 + m) t) n fSET .failed t
    else if !bad && is then closeFlag s n fSET .failed t
    else s) s

/-- A change of the spare assignment from `a`, in effect before, to the value in effect now, at tick t (R104, R105). -/
def spareTouch (s : State) (cell a t : Nat) : State :=
  let b := s.nat .spare cell 1
  let move := fun (s : State) (m serving : Nat) =>
    if m < 16 then
      setTail (ovlSwitch (s.setNum .chFront (16 * cell + m) 10 serving) (16 * cell + m) t) (16 * cell + m) t
    else s
  let s := windowsRestart (move (move s a 0) b 1) cell t
  let stop := s.periodsOn cell t 32
  failedTouch (s.modCell cell (fun c =>
    { c with spareDue := some stop
             resets := c.resets.filter (fun r => decide (t < r.2.2 + Config.ticksPerMs)) ++
               ([a, b].filter (· < 16)).map (fun m => (m, t, stop)) })) cell t

/-- The hub sets a cell's spare assignment itself (R107, R247, R251); a write of a different value counts (R106). -/
def setSpare (s : State) (cell b t : Nat) : State :=
  let a := s.nat .spare cell 1
  if a = b then s else spareTouch ((s.setNum .spare cell 1 b).bump .spare cell 3 1) cell a t

/-- SPARE_RESET_END (R104): 32 modulator periods after the change, the modulator that serves the channel converts. -/
def execSpareResetEnd (cell : Nat) (s : State) : Host.Outcome State Fault Refusal :=
  match (s.cell cell).spareDue with
  | some t => if t ≤ s.now then .next (s.modCell cell (fun c => { c with spareDue := none })) else .next s
  | none => .next s

/-- Grid ticks in 20 ms (R109). -/
abbrev refSettle : Nat := 20 * Config.ticksPerMs

/-- A cell's reference stops being ready at tick t: its channels carry SET until it is ready again (R110). -/
def refLost (s : State) (cell t : Nat) : State :=
  let s := windowsRestart (s.setNum .refPower cell 3 (clearBit (s.nat .refPower cell 3) 1 : Nat)) cell t
  onChans s (chansOf cell) (fun s n => if hasOpen s n fSET .reference then s else openFlag s n fSET .reference t)

/-- The reference enable of a cell changed at tick t (R109, R110, R111). -/
def refTouch (s : State) (cell t : Nat) : State :=
  let s := s.modCell cell (fun c => { c with refs := ((t, s.nat .refPower cell 1 == 1) :: c.refs).take 64 })
  if s.nat .refPower cell 1 = 1 then
    let s := s.setNum .refPower cell 3 (setBit (s.nat .refPower cell 3) 0 : Nat)
    (refLost s cell t).modCell cell (fun c => { c with readyDue := some (t + refSettle) })
  else
    ((refLost s cell t).setNum .refPower cell 3 0).modCell cell (fun c => { c with readyDue := none })

/-- REFERENCE_READY (R109, R110): the reference is ready; SET lasts L + H longer. -/
def execReferenceReady (cell : Nat) (s : State) : Host.Outcome State Fault Refusal :=
  match (s.cell cell).readyDue with
  | some t =>
    if t ≤ s.now then
      let s := s.modCell cell (fun c => { c with readyDue := none })
      let s := (s.setNum .refPower cell 3 (setBit (s.nat .refPower cell 3) 1 : Nat)).setNum .refPower cell 5 t
      .next (onChans (windowsRestart s cell t) (chansOf cell) (fun s n =>
        closeFlag s n fSET .reference (t + s.settleTicks n t + s.holdTicks n)))
    else .next s
  | none => .next s

/-- A cell's modulator clock switches at tick t to `mode` (R102, R109, R110, R114, R123). Where the mode was changed and changed
back before the tick, the clock keeps its rate and nothing else switches. -/
def modeSwitch (s : State) (cell t mode : Nat) : State :=
  let clock : Nat := if mode = 1 then 3072 else 6144
  let was := s.nat .refPower cell 4
  let s := (s.setNum .refPower cell 4 clock).modCell cell (fun c =>
    { c with modeDue := none
             modes := if was = clock then c.modes
               else ((t, mode) :: (if c.modes = [] then [(0, if was = 3072 then 1 else 0)] else c.modes)).take 64 })
  let s := onChans s (chansOf cell) (fun s n => closeFlag s n fSET .powerMode (t + 2 * s.settleTicks n t + s.holdTicks n))
  if was = clock then s
  else
    let s := s.modCell cell (fun c =>
      { c with readyDue := if s.nat .refPower cell 1 = 1 then some (t + refSettle) else none })
    refLost s cell t

/-- A power-mode change of a cell takes effect at tick t: the clock switches at the next multiple of 512, and the channels
carry SET from t (R114); the detectors of R102 will meet the switch, where the rate then changes. -/
def modeTouch (s : State) (cell t : Nat) : State :=
  let s := match (s.cell cell).modeDue with
    | some (due, m) => if due ≤ t then modeSwitch s cell due m else onChans s (chansOf cell) (fun s n => ovlUnswitch s n due)
    | none => s
  let due := ceilTo 512 t
  let mode := s.nat .refPower cell 2
  let s := s.modCell cell (fun c => { c with modeDue := some (due, mode) })
  let s := if mode = s.modeOf cell then s else onChans s (chansOf cell) (fun s n => ovlSwitch s n due)
  onChans s (chansOf cell) (fun s n => if hasOpen s n fSET .powerMode then s else openFlag s n fSET .powerMode t)

/-- POWER_MODE_SWITCH (R114): at the multiple of 512 grid ticks the modulator clock of the cell switches rate. -/
def execPowerModeSwitch (cell : Nat) (s : State) : Host.Outcome State Fault Refusal :=
  match (s.cell cell).modeDue with
  | some (t, mode) => if t ≤ s.now then .next (modeSwitch s cell t mode) else .next s
  | none => .next s

/-- The pulled input terminals of a channel (R119). -/
def pulledTerms (s : State) (ch : Nat) : List Nat := (inputTerms s ch).filter (fun t => !(rPull (routeWord s t) == 0))

/-- A terminal's phase is marked: its voltage differs from that of the previous phase by the threshold (R119). Voltages in
microvolts. -/
def termMarked (s : State) (term : Nat) (old new : List Int) : Bool :=
  let a := old.getD (term % 32) 0
  let b := new.getD (term % 32) 0
  let thr : Int := if bit (routeWord s term) 16 then 25000 else 2500
  decide (thr ≤ b - a) || decide (thr ≤ a - b)

/-- The pull detector of a channel takes a phase that begins at `start` and lasts `len` ticks (R120, R122). -/
def Pull.phase (p : Pull) (start len : Nat) (mark : Bool) : Pull :=
  if start < p.since then p
  else if mark && decide (p.hold ≤ start) then
    let from_ := if p.marked = 0 then start - len else p.startTick
    let p := { p with marked := p.marked + 1, unmarked := 0, startTick := from_ }
    if 2 ≤ p.marked ∧ p.on = false ∧ p.declareDue = none then { p with declareDue := some (from_, start + len) } else p
  else
    let from_ := if p.unmarked = 0 then start else p.unmarkedTick
    let p := { p with unmarked := p.unmarked + 1, marked := 0, unmarkedTick := from_ }
    if 16 ≤ p.unmarked ∧ (p.on = true ∨ p.declareDue ≠ none) ∧ p.releaseDue = none then { p with releaseDue := some from_ }
    else p

/-- An OWD onset is counted and raised (R120, R124). -/
def owdCount (s : State) (ch cause t : Nat) : State := raiseChan (s.bump .chFront ch 12 1) ch 43 cause t

/-- Pull-based OWD is declared on a channel (R120). -/
def pullDeclare (s : State) (ch : Nat) : State :=
  match (s.chan ch).pull.declareDue with
  | some (start, t) =>
    let s := s.modChan ch (fun c => { c with pull := { c.pull with declareDue := none, on := true } })
    openFlag (owdCount s ch 1 t) ch fOWD .pull start
  | none => s

/-- Pull-based OWD is released on a channel (R120). -/
def pullRelease (s : State) (ch : Nat) : State :=
  match (s.chan ch).pull.releaseDue with
  | some t =>
    let s := s.modChan ch (fun c => { c with pull := { c.pull with releaseDue := none, on := false } })
    setTail (closeFlag s ch fOWD .pull t) ch t
  | none => s

/-- What the pull detector found takes effect. -/
def pullSettle (s : State) (ch : Nat) : State := pullRelease (pullDeclare s ch) ch

/-- The length of a pull phase of a cell at tick t in grid ticks (R112). -/
def pullLen (s : State) (cell t : Nat) : Nat := if s.modeAt cell t = 1 then 256 else 128

/-- The tick at or before t at which the power mode of a cell last switched (R114, R123); 0 before the first switch. -/
def lastSwitch (s : State) (cell t : Nat) : Nat :=
  let k := s.cell cell
  let past := ((k.modes.find? (fun p => decide (p.1 ≤ t))).map (·.1)).getD 0
  match k.modeDue with
  | some (due, m) => if due ≤ t ∧ m ≠ s.modeOf cell then due else past
  | none => past

/-- The start of the pull phase of a cell that tick t lies in, by the odd multiples of half its length (R118). -/
def phaseStart (len t : Nat) : Nat := (t + len / 2) / len * len - len / 2

/-- The pull current of a cell flows at tick t opposite to the direction that PULL names (R118, R123): in odd phases; from a
power-mode switch to the first phase of the new mode it keeps the direction of the phase that the switch interrupted. -/
def pullReversed (s : State) (cell t : Nat) : Bool :=
  let odd := fun (len t : Nat) => decide ((phaseStart len t - len / 2) / len % 2 = 1)
  let len := pullLen s cell t
  let sw := lastSwitch s cell t
  if phaseStart len t < sw then odd (pullLen s cell (sw - 1)) (sw - 1) else odd len t

/-- The pull current into a terminal at tick t in microamperes, negative for a current out of it (R50, R118). -/
def pullCurrent (s : State) (term t : Nat) : Int :=
  let w := routeWord s term
  let size : Int := if bit w 16 then 10 else 1
  let into := if rPull w = 1 then size else if rPull w = 2 then -size else 0
  if pullReversed s (term / 32) t then -into else into

/-- PULL_PHASE_END (R119, R120, R123): the cell measures every pulled terminal at the end of a pull phase, which falls on an
odd multiple of half its length (R118). A phase that a power-mode switch interrupted is not measured; the first phase after a switch,
as one before which nothing was measured, gives only a reference. -/
def execPullPhaseEnd (cell : Nat) (microvolts : List Int) (s : State) : Host.Outcome State Fault Refusal :=
  let len := pullLen s cell s.now
  let start := s.now - len
  if Config.hasPull s.variant ∧ cell < Config.cells s.variant ∧ s.now % len = len / 2 ∧ len ≤ s.now ∧
      lastSwitch s cell s.now ≤ start then
    let k := s.cell cell
    let s := if k.pullAt = some start ∧ lastSwitch s cell s.now + len ≤ start then
        onChans s ((chansOf cell).filter (fun n => s.nat .chFront n 8 == 1 && !(pulledTerms s n).isEmpty)) (fun s n =>
          let s := pullSettle s n
          let mark := s.refAt cell s.now &&
            (pulledTerms s n).any (fun t => termMarked s t k.pullVolts microvolts)
          s.modChan n (fun c => { c with pull := c.pull.phase (s.now - len) len mark }))
      else s
    .next (s.modCell cell (fun c => { c with pullVolts := microvolts, pullAt := some s.now }))
  else .next s

/-- OPEN_WIRE_DETECTED (R120): two consecutive marked phases declare OWD. -/
def execOpenWireDetected (ch : Nat) (s : State) : Host.Outcome State Fault Refusal := .next (pullDeclare s ch)

/-- OPEN_WIRE_PULL_RELEASE (R120): 16 consecutive unmarked phases release pull-based OWD. -/
def execOpenWirePullRelease (ch : Nat) (s : State) : Host.Outcome State Fault Refusal :=
  if (s.chan ch).pull.on then .next (pullRelease s ch) else .next s

/-- In each of 64 consecutive periods some comparator that the channel's rail-stick mask selects is active, or in each of them none
is (R95, R124). -/
def railRun (s : State) (ch : Nat) (run : RailRun) (stuck : Bool) : Bool :=
  run.active.length == 64 && run.active.all (fun a => (a &&& s.nat .chFront ch 9 != 0) == stuck)

/-- RAIL_STICK_ONSET (R124): a selected comparator active for 64 consecutive periods. -/
def execRailStickOnset (ch : Nat) (run : RailRun) (s : State) : Host.Outcome State Fault Refusal :=
  if ch < Config.channels s.variant ∧ railRun s ch run true = true ∧ (s.chan ch).rail = false ∧
      run.tick + 63 * s.modPeriod (cellOfCh ch) ≤ s.now then
    .next (openFlag (owdCount (s.modChan ch (fun c => { c with rail := true })) ch 2 run.tick) ch fOWD .rail run.tick)
  else .next s

/-- RAIL_STICK_RELEASE (R124): no selected comparator active for 64 consecutive periods. -/
def execRailStickRelease (ch : Nat) (run : RailRun) (s : State) : Host.Outcome State Fault Refusal :=
  if ch < Config.channels s.variant ∧ railRun s ch run false = true ∧ (s.chan ch).rail = true ∧ run.tick + 63 * s.modPeriod (cellOfCh ch) ≤ s.now then
    .next (setTail (closeFlag (s.modChan ch (fun c => { c with rail := false })) ch fOWD .rail run.tick) ch run.tick)
  else .next s

end Sys2Proof.Machine
end

