-- ==== Sys2Proof/Machine/AuxConverter.lean ====
section
/-! DEFINITION. The auxiliary converter (spec/04_auxiliary_converter.md): slots, the regular sequence, injected requests,
results, and its share with calibration. -/

namespace Sys2Proof.Machine

open Sys2Proof

/-- SEL of an entry or request (R140). -/
abbrev aSel (w : Nat) : Nat := bits w 10 0
/-- QTY of an entry or request (R140). -/
abbrev aQty (w : Nat) : Nat := bits w 15 14
/-- AVG of an entry or request (R140). -/
abbrev aAvg (w : Nat) : Nat := bits w 18 16
/-- ACQ of an entry or request (R140). -/
abbrev aAcq (w : Nat) : Nat := bits w 23 20

/-- The slots that an entry occupies (R141). -/
def entrySlots (w : Nat) : Nat := aAcq w + 2 ^ aAvg w

/-- A selector of R130, on the largest variant. -/
def selListed (sel : Nat) : Bool :=
  decide (sel < 24) || (decide (0x100 ≤ sel) && decide (sel < 0x160)) || (decide (0x200 ≤ sel) && decide (sel ≤ 0x206)) ||
    (decide (0x300 ≤ sel) && decide (sel ≤ 0x304)) || (decide (0x400 ≤ sel) && decide (sel ≤ 0x418))

/-- The input that a selector names is absent on this variant (R131). Front-end die 1 carries cells 12 to 23 (R2). -/
def selAbsent (v : Variant) (sel : Nat) : Bool :=
  let n := Config.cells v
  (decide (sel < 24) && decide (n ≤ sel)) ||
    (decide (0x100 ≤ sel) && decide (sel < 0x160) && decide (n ≤ (sel - 0x100) / 4)) ||
    (decide (0x400 ≤ sel) && decide (sel < 0x418) && decide (n ≤ sel - 0x400)) || (sel == 0x302 && decide (n ≤ 12))

/-- The checks of an entry or request (R131, R140), in the order of R131 first. -/
def auxWord (v : Variant) (w : Nat) (injected : Bool) : Option Code :=
  if selAbsent v (aSel w) then some .notRoutable
  else if !selListed (aSel w) then some .outOfRange
  else if aQty w ≠ 0 ∧ (aSel w < 0x100 ∨ 0x15F < aSel w) then some .outOfRange
  else if bit w 19 ∨ bits w 13 11 ≠ 0 ∨ 4 < aAvg w then some .outOfRange
  else if !injected && decide (bits w 31 24 ≠ 0) then some .outOfRange
  else none

/-- The sequence entries 1 to N of a configuration. -/
def State.auxSeqOf (s : State) : List Nat := (List.range (s.nat .aux 0 5)).map (fun i => s.nat .auxSeq 0 (i + 1))

/-- The slots of entries 1 to N fit the scan period (R143). -/
def auxFits (s : State) : Bool :=
  decide (((s.auxSeqOf.map entrySlots).foldl (· + ·) 0) * (if s.nat .aux 0 2 = 1 then 192 else 24) ≤ s.nat .aux 0 4)

/-- The checks of a write to the converter's staged objects on the configuration with it applied (R138 to R143). -/
def auxCheck (s : State) (receipt : Bool) (o : Obj) (sub : Nat) : Option Code :=
  match o with
  | .aux =>
    if receipt && decide (sub = 4) && decide (s.nat .aux 0 4 % 192 ≠ 0) then some .outOfRange
    else if (sub = 2 ∨ sub = 4 ∨ sub = 5) ∧ auxFits s = false then some .outOfRange
    else none
  | .auxSeq =>
    match (if receipt then auxWord s.variant (s.nat .auxSeq 0 sub) false else none) with
    | some c => some c
    | none => if auxFits s then none else some .outOfRange
  | _ => none

/-- The slot length in use for a slot that begins at grid tick t (R128, R136). -/
def auxLen (s : State) (t : Nat) : Nat :=
  let past := ((s.aux.sws.filter (fun p => decide (t < p.1))).getLast?.map (·.2)).getD s.aux.lowPower
  let low := match s.aux.modeDue with
    | some (d, m) => if d ≤ t then m else past
    | none => past
  if low then 192 else 24

/-- The first slot boundary at or after grid tick t. -/
def slotAt (s : State) (t : Nat) : Nat := ceilTo (auxLen s (t - t % 24)) t

/-- The grid tick of the slot n places after the one at t. -/
def slotNth (s : State) : Nat → Nat → Nat
  | 0, t => t
  | n + 1, t => slotNth s n (t + auxLen s t)

/-- The grid tick at which an entry that starts at t ends. -/
def entryEnd (s : State) (w t : Nat) : Nat := slotNth s (entrySlots w) t

/-- The sampling ticks of the conversions of an entry that starts at t (R129, R141). -/
def convTicks (s : State) (w t : Nat) : List Nat := (List.range (2 ^ aAvg w)).map (fun i => slotNth s (aAcq w + i) t)

/-- The end values of an input's range (R130, R132): lowest, highest. -/
def selRange (sel qty : Nat) : Int × Int :=
  if sel < 24 ∨ (0x100 ≤ sel ∧ sel < 0x160 ∧ qty ≠ 3) then (-6500, 32767)
  else if 0x300 ≤ sel ∧ sel ≤ 0x304 then (-32768, 32767)
  else (0, 65535)

/-- floor((S + 2^(AVG − 1)) / 2^AVG), or the single conversion (R141). -/
def auxAverage (avg : Nat) (vs : List Int) : Int :=
  if avg = 0 then vs.headD 0 else ((vs.foldl (· + ·) 0) + 2 ^ (avg - 1)) / 2 ^ avg

/-- A conversion at grid tick t carries NRDY (R135). -/
def nrdyAt (s : State) (t : Nat) : Bool :=
  s.aux.notReady.any (fun i => decide (i.1 ≤ t) && (match i.2 with | none => true | some e => decide (t < e)))

/-- A conversion of a cell's auxiliary bus at grid tick t carries ASET (R134). -/
def asetAt (s : State) (sel t : Nat) : Bool :=
  decide (sel < 24) && (Sparse.get s.auxSettle sel []).any (fun c => decide (c ≤ t) && decide (t < c + usTicks 5))

/-- The result word of an entry or request that started at t, from its conversion values before limiting (R132, R141,
R150). -/
def auxResult (s : State) (w t id : Nat) (vs : List Int) (inj dcal : Bool) : Nat :=
  let ts := convTicks s w t
  let (lo, hi) := selRange (aSel w) (aQty w)
  let v := clampI lo hi (auxAverage (aAvg w) (vs.map (clampI lo hi)))
  let ovf := vs.any (outside lo hi)
  (ts.headD t % 2 ^ 32) * 2 ^ 32 + (wrapU 16 v).toNat * 2 ^ 16 + (id % 256) * 256 + b2n ovf * 128 +
    b2n (ts.any (nrdyAt s)) * 64 + b2n (ts.any (asetAt s (aSel w))) * 32 + b2n dcal * 16 + b2n inj * 8

/-- The converter changed. -/
def State.modAux (s : State) (f : AuxSt → AuxSt) : State := { s with aux := f s.aux }

/-- The requests accepted and not yet started (object 0x4010:02). -/
def setOccupancy (s : State) : State := s.setNum .injected 0 2 s.aux.inj.length

/-- A request is queued, or refused and counted (R147). -/
def injRequest (s : State) (w : Nat) : State × Code :=
  match auxWord s.variant w true with
  | some c => (s.bump .injected 0 3 1, c)
  | none =>
    if 8 ≤ s.aux.inj.length then (s.bump .injected 0 3 1, .queueFull)
    else (setOccupancy (s.modAux (fun a => { a with inj := a.inj ++ [(w, s.now)] })), .success)

/-- The grid tick at which the oldest queued request starts (R148). -/
def injStart (s : State) (acc : Nat) : Nat := slotAt s (max (acc + 1) s.aux.injFree)

/-- The regular entry in progress is interrupted at t, unless it has ended (R149). -/
def interrupt (s : State) (t : Nat) : State :=
  match s.aux.scan, s.aux.entryStart with
  | some _, some b =>
    if entryEnd s (s.aux.seq.getD (s.aux.entry - 1) 0) b ≤ t then s else s.modAux (fun a => { a with entryStart := none })
  | _, _ => s

/-- The regular sequence resumes at t (R148, R149). -/
def resume (s : State) (t : Nat) : State :=
  if s.aux.scan.isSome ∧ s.aux.entryStart = none ∧ s.aux.claim = 0 ∧ s.aux.injRun = none ∧ s.aux.inj = [] then
    s.modAux (fun a => { a with entryStart := some (slotAt s t) })
  else s

/-- No request that calibration lets run first is left (R153): those in the queue since before the claim, and between steps every
request. -/
def claimFree (a : AuxSt) : Bool := decide (a.injRun = none) && ((a.claim == 1 && a.ahead == 0) || (a.claim == 3 && a.inj.isEmpty))

/-- A claim whose requests have run takes the converter at the slot boundary at or after t: its step begins (R153). -/
def claimTake (s : State) (t : Nat) : State :=
  if claimFree s.aux then s.modAux (fun a => { a with claim := 2, stepStart := slotAt s t }) else s

/-- A flush drops the requests not yet started (R147). What waited for them goes on: a claim of calibration, or the regular
sequence. -/
def injFlush (s : State) : State :=
  let t := max s.now s.aux.injFree
  resume (claimTake (setOccupancy (s.modAux (fun a => { a with inj := [], ahead := 0 }))) t) t

/-- The calibration claim lets the oldest queued request start (R153). -/
def claimLets (a : AuxSt) : Bool := a.claim != 2 && (a.claim != 1 || a.ahead != 0)

/-- INJECTED_REQUEST_START (R148): the oldest queued request starts at the next free slot boundary. -/
def execInjectedRequestStart (s : State) : Host.Outcome State Fault Refusal :=
  match s.aux.inj, s.aux.injRun with
  | (w, acc) :: rest, none =>
    let t := injStart s acc
    if t ≤ s.now ∧ claimLets s.aux then
      let s := interrupt s t
      .next (setOccupancy (s.modAux (fun a => { a with inj := rest, injRun := some (w, t), ahead := a.ahead - 1 })))
    else .next s
  | _, _ => .next s

/-- The scan period by which tick t is a scan start tick (R142, R145): a new one counts after the scan start at which it takes
effect. -/
def scanPeriod (s : State) (t : Nat) : Nat :=
  match s.aux.periodDue with
  | some (d, p) => if d < t then p else s.aux.period
  | none => s.aux.period

/-- The scan period changed at tick t: it takes effect at the first scan start tick at or after t (R145). -/
def scanPeriodTouch (s : State) (t : Nat) : State :=
  let p := scanPeriod s t
  s.modAux (fun a => { a with period := p, periodDue := some (ceilTo p t, s.nat .aux 0 4) })

/-- No injected request is running, and the oldest in the queue starts only after this tick (R148). One accepted at this very tick has
the next slot, and this one stays idle (DESIGN CHOICE, log 111). -/
def slotFree (s : State) : Bool :=
  s.aux.injRun.isNone && (match s.aux.inj with | [] => true | (_, acc) :: _ => decide (s.now < injStart s acc))

/-- AUX_SCAN_START (R142, R144, R145, R153): at a multiple of the scan period a scan begins under the entries in effect, or
the start is skipped. -/
def execAuxScanStart (s : State) : Host.Outcome State Fault Refusal :=
  let n := s.nat .aux 0 5
  if n ≠ 0 ∧ s.now % scanPeriod s s.now = 0 ∧ s.aux.looked ≠ some s.now then
    let s := s.modAux (fun a => { a with looked := some s.now })
    if s.aux.claim ≠ 0 then .next (s.bump .aux 0 9 1)
    else if s.aux.scan.isSome then .next (raise (s.bump .aux 0 8 1) 50 1 0)
    else
      let b := if slotFree s then some (slotAt s s.now) else none
      .next (s.modAux (fun a => { a with scan := some s.now, entry := 1, seq := s.auxSeqOf, entryStart := b }))
  else .next s

/-- A regular entry completes at grid tick e: its result is written, and the next entry begins, or the scan completes (R142,
R150). A result stands as soon as its entry completes, also where R151 would keep the results of the last completed scan
(DESIGN CHOICE, log 105). -/
def entryDone (s : State) (start b e : Nat) (vs : List Int) : State :=
  let w := s.aux.seq.getD (s.aux.entry - 1) 0
  let s := s.setNum .auxRes 0 s.aux.entry (auxResult s w b s.aux.entry vs false false : Nat)
  if s.aux.seq.length ≤ s.aux.entry then
    let s := (s.bump .aux 0 6 1).setNum .aux 0 7 start
    s.modAux (fun a => { a with scan := none, entry := 1, entryStart := none })
  else
    let b := if s.aux.injRun.isNone && decide (s.aux.claim = 0) then some e else none
    s.modAux (fun a => { a with entry := a.entry + 1, entryStart := b })

/-- An injected request completes at grid tick e (R146, R148, R150); between calibration steps the next step begins when the
queue is empty (R153). -/
def injDone (s : State) (w b e : Nat) (vs : List Int) : State :=
  let k := s.nat .injected 0 4
  let s := s.setNum .injRes 0 (k % 16 + 1)
    (auxResult s w b (bits w 31 24) vs true (decide (s.aux.claim ≠ 0) && decide (s.aux.claim ≠ 1)) : Nat)
  let s := (s.bump .injected 0 4 1).modAux (fun a => { a with injRun := none, injFree := e })
  resume (claimTake s e) e

/-- AUX_ENTRY_COMPLETE (R141): the entry or request whose last conversion has ended takes its result from the values of its
2^AVG conversions, corrected with the factory trim and in the input's LSB (R130). -/
def execAuxEntryComplete (values : List Int) (s : State) : Host.Outcome State Fault Refusal :=
  let regular := match s.aux.scan, s.aux.entryStart with
    | some st, some b =>
      let w := s.aux.seq.getD (s.aux.entry - 1) 0
      if values.length = 2 ^ aAvg w ∧ entryEnd s w b ≤ s.now then some (st, b, entryEnd s w b) else none
    | _, _ => none
  match regular with
  | some (st, b, e) => .next (entryDone s st b e values)
  | none =>
    match s.aux.injRun with
    | some (w, b) =>
      if values.length = 2 ^ aAvg w ∧ entryEnd s w b ≤ s.now then .next (injDone s w b (entryEnd s w b) values)
      else .next s
    | none => .next s

/-- The reference enable changed at tick t (R135). -/
def auxRefTouch (s : State) (t : Nat) : State :=
  let begin_ := fun (l : List (Nat × Option Nat)) => if l.any (fun i => i.2 == none) then l else lastN 3 l ++ [(t, none)]
  if s.nat .aux 0 1 = 1 then
    (s.setNum .aux 0 3 1).modAux (fun a => { a with readyDue := some (t + 2 * Config.ticksPerMs),
                                                    notReady := begin_ a.notReady })
  else (s.setNum .aux 0 3 0).modAux (fun a => { a with readyDue := none, notReady := begin_ a.notReady })

/-- A power-mode switch whose tick has come by t changes the slot length (R136); a reference that is on becomes ready again 2 ms
later (R135). A mode that was changed and changed back before the tick makes no switch (DESIGN CHOICE, log 106). -/
def auxSwitchDue (s : State) (t : Nat) : State :=
  match s.aux.modeDue with
  | some (d, m) =>
    if d ≤ t then
      let s' := s.modAux (fun a => { a with modeDue := none, sws := ((d, a.lowPower) :: a.sws).take 64, lowPower := m })
      if m = s.aux.lowPower then s.modAux (fun a => { a with modeDue := none })
      else if s.nat .aux 0 1 = 1 then auxRefTouch s' d
      else s'
    else s
  | none => s

/-- The converter's power mode changed at tick t: the slot length changes at the next multiple of 192 (R136). -/
def auxModeTouch (s : State) (t : Nat) : State :=
  (auxSwitchDue s t).modAux (fun a => { a with modeDue := some (ceilTo 192 t, s.nat .aux 0 2 == 1) })

/-- What a change of the converter's settings does at its effective tick (R135, R136, R145). -/
def auxChange (s : State) (t sub : Nat) : State :=
  match sub with
  | 1 => auxRefTouch s t
  | 2 => auxModeTouch s t
  | 4 => scanPeriodTouch s t
  | _ => s

/-- AUX_REFERENCE_READY (R135): 2 ms after the enable or a power-mode switch the reference is ready. -/
def execAuxReferenceReady (s : State) : Host.Outcome State Fault Refusal :=
  match s.aux.readyDue with
  | some t =>
    if t ≤ s.now then
      let s := (s.setNum .aux 0 3 3).setNum .aux 0 10 t
      let l := s.aux.notReady.map (fun i => if i.2 = none then (i.1, some t) else i)
      .next (s.modAux (fun a => { a with readyDue := none, notReady := l }))
    else .next s
  | none => .next s

/-- AUX_POWER_MODE_SWITCH (R135, R136): at the multiple of 192 grid ticks the slot length changes; a reference that is on
becomes ready again 2 ms later. -/
def execAuxPowerModeSwitch (s : State) : Host.Outcome State Fault Refusal := .next (auxSwitchDue s s.now)

/-- A calibration step's longest hold of the converter, 42 µs, in whole grid ticks (R153). -/
abbrev calStep : Nat := 42 * 24576 / 1000

/-- A driver's claim is taken only while the driver is not off and not out of regulation (R242). -/
def claimStands (s : State) (c : Nat × Option Nat) : Bool :=
  match c.2 with
  | some d => s.nat .driver d 1 != 0 && !bit (s.nat .driver d 6) 0
  | none => true

/-- Claims that are due and do not stand are dropped. -/
def dropClaims (s : State) : State :=
  s.modAux (fun a => { a with claims := a.claims.filter (fun c => decide (s.now < c.1) || claimStands s c) })

/-- A claim of calibration is due (R242, R153). -/
def calWants (s : State) : Bool := s.aux.claims.any (fun c => decide (c.1 ≤ s.now))

/-- The converter's claim by calibration begins (R153). -/
def auxClaim (s : State) : State :=
  let t := slotAt s (s.now + 1)
  if s.aux.claim ≠ 0 then s
  else claimTake ((interrupt s t).modAux (fun a => { a with claim := 1, ahead := a.inj.length })) t

/-- The converter's claim by calibration ends at t: the scan in progress resumes (R153). -/
def auxUnclaim (s : State) (t : Nat) : State :=
  if s.aux.claim = 0 then s
  else resume (s.modAux (fun a => { a with claim := 0, injFree := max a.injFree t })) t

/-- CALIBRATION_CLAIM (R153, R242): at the tick of a claim calibration claims the converter, which it takes at the next
slot boundary, or once the queued requests have run. -/
def execCalibrationClaim (s : State) : Host.Outcome State Fault Refusal :=
  let s' := dropClaims s
  .next (if calWants s' then auxClaim s' else s)

/-- CALIBRATION_STEP_END (R153): a step of at most 42 µs ends, and with it its claim. When another claim is due, its step
begins once the queue is empty; otherwise the converter is free. -/
def execCalibrationStepEnd (s : State) : Host.Outcome State Fault Refusal :=
  if s.aux.claim = 2 ∧ s.aux.stepStart ≤ s.now ∧ s.now ≤ s.aux.stepStart + calStep then
    let d := (s.aux.claims.head?).bind (·.2)
    let s := s.modAux (fun a => { a with claims := a.claims.drop 1, trimmed := a.trimmed ++ d.toList })
    if calWants s = false then .next (auxUnclaim s s.now)
    else if s.aux.inj = [] then .next (s.modAux (fun a => { a with stepStart := s.now, injFree := max a.injFree s.now }))
    else .next (s.modAux (fun a => { a with claim := 3, injFree := max a.injFree s.now }))
  else .next s

end Sys2Proof.Machine
end

