-- ==== Sys2Proof/Machine/Clock.lean ====
section
/-! DEFINITION. The local clock, the servo's hold and the grid's marks (R194, R195, R203 to R207, R211 of
spec/06_sample_grid_and_time.md). -/

namespace Sys2Proof.Machine

open Sys2Proof

/-- The clock record changed. -/
def State.modClk (s : State) (f : ClkSt → ClkSt) : State := { s with clk := f s.clk }

/-- The local clock in whole ns, within its 48-bit seconds (R203). -/
def State.localNs (s : State) : Int := s.clk.local_.floor % (1000000000 * 2 ^ 48)

/-- The PTP time in ns for which a grid tick stands, nanoseconds rounded down (R194). -/
def gridNs (g : Nat) : Nat := g / 24576000 * 1000000000 + g % 24576000 * 15625 / 384

/-- The grid error e in ns at the current tick (R195). -/
def gridError (s : State) : Int := s.localNs - gridNs s.now

/-- What the local clock adds in one grid clock cycle, in ns: the increment corrected for the DCO offset (R203). -/
def localStep (s : State) : Rat :=
  ((s.nat .localClock 0 2 : Int) : Rat) / (2 ^ 32 : Int) * ((1000000000 : Int) : Rat) /
    ((1000000000 + s.num .grid 0 13 : Int) : Rat)

/-- The local clock's time and rate are about to change: what it has reached is kept, with the rate until now (R223). -/
def markClock (s : State) : State :=
  s.modClk (fun c => { c with marks := ((s.now, c.local_, localStep s) :: c.marks).take 64 })

/-- The local clock, exact, at `sub`/65,536 of the grid clock cycle of tick t, by the rates in use up to now (R198, R203, R223). -/
def clockAt (s : State) (t sub : Nat) : Rat :=
  let (n, reached, rate) := ((s.clk.marks.filter (fun q => decide (t < q.1))).getLast?).getD (s.now, s.clk.local_, localStep s)
  reached - rate * ((n : Int) - t : Int) + rate * (sub % 65536 : Nat) / 65536

/-- A timestamp of the local clock in whole ns, within its 48-bit seconds (R198, R223). -/
def localAt (s : State) (t sub : Nat) : Int := (clockAt s t sub).floor % (1000000000 * 2 ^ 48)

/-- The PHY and SerDes latency of a port, in ns, for the link speed in use (R198, R202): subindex 5 ingress, 6 egress. The factory
holds one for each speed. -/
def portLatency (s : State) (p sub : Nat) : Nat :=
  (Sparse.get s.fac.nums (entryKey .ptpPort (4 * s.nat .link p 4 + p) sub) 0).toNat

/-- The servo has a master (R210). -/
def hasMaster (s : State) : Bool :=
  let v := s.nat .localClock 0 14
  v == 1 || v == 2 || v == 3

/-- The increment that a rate adjustment sets: 15,625/384 ns × (1 + r·10^−11), rounded to 2^−32 ns (R204). -/
def rateIncrement (r : Int) : Int := roundHalfAway (15625 * (100000000000 + r) * 2 ^ 32) (384 * 100000000000)

/-- The rate that an increment implies, in 0.01 ppb (R207 subindex 0x06). -/
def impliedRate (inc : Int) : Int :=
  roundHalfAway ((inc * 384 - 15625 * 2 ^ 32) * 100000000000) (15625 * 2 ^ 32)

/-- The hub marks its samples with SET in a grid state (R211). -/
def gridMarks (s : State) : Bool :=
  let g := s.nat .grid 0 2
  g == 1 || g == 4 || (g == 5 && s.nat .grid 0 8 == 1)

/-- The grid's SET interval begins or ends at tick t on every channel, as the state in effect asks (R211). -/
def markGrid (s : State) (t : Nat) : State :=
  let on := gridMarks s
  onChans s s.allChans (fun s n =>
    let is := hasOpen s n fSET .freeRun
    if on && !is then openFlag s n fSET .freeRun t else if !on && is then closeFlag s n fSET .freeRun t else s)

/-- The grid makes a transition at tick t, with its event (R210). -/
def gridTo (s : State) (st t : Nat) : State :=
  let s := (s.setNum .grid 0 2 st).modClk (fun c => { c with moved := some t, stHist := ((t, st) :: c.stHist).take 64 })
  markGrid (raiseAt s 53 1 st t) t

/-- The servo enters holdover: it keeps the last increment and writes nothing (R206, R215). -/
def servoHold (s : State) : State :=
  if hasMaster s then
    (s.setNum .localClock 0 14 4).modClk (fun c => { c with overN := 0, aloneFrom := s.now })
  else s

/-- The upstream port of a worker changed: holdover until a Sync on the new port with a path delay (R215). A selected master is
reached through the new port; without an upstream port there is none (R207). -/
def clockUpstream (s : State) (port : Nat) : State :=
  let s := servoHold s
  let p2p := s.nat .clock 0 2 == 1
  let s := s.setNum .localClock 0 11 (if s.clk.masters = [] ∨ 2 < port then 255 else port)
  s.modClk (fun c => { c with pathOk := p2p && c.linkOk.getD port false, reqT := none, syncT := none, twoStep := none })

/-- The port from which the ordinary clock takes PTP messages (R199, R200): the upstream ring port on a worker, port C on a
manager. -/
def ptpUpstream (s : State) : Nat := if s.isManager then 2 else s.nat .ring 0 2

/-- The ordinary clock's transport on a port (R196, R200): UDP over IPv4 on port C of a ring grandmaster that selects it. -/
def ptpUdp (s : State) (p : Nat) : Bool :=
  p == 2 && s.isManager && s.nat .clock 0 3 == 1 && s.nat .clock 0 12 == 1

/-- A PTP message of this hub's clock on a port, without its timestamp. -/
def ownPtp (s : State) (p : Nat) (kind : PtpKind) (seq : Nat) : PtpMsg :=
  { kind := kind, domain := s.nat .clock 0 1, sender := s.nat .clock 0 6, seq := seq, corr := 0, time := 0, twoStep := false,
    asker := 0, announce := none, udp := ptpUdp s p }

/-- The time in grid ticks of 2^n seconds. -/
def logTicks (n : Int) : Nat := if 0 ≤ n then 24576000 * 2 ^ n.toNat else 24576000 / 2 ^ (-n).toNat

end Sys2Proof.Machine
end

