-- ==== Sys2Proof/Machine/Net.lean ====
section
/-! DEFINITION. Frames and KMP messages: the layout of R489, the egress classes of R483, and how answers and requests leave
(spec/15_ports_and_kmp.md). -/

namespace Sys2Proof.Machine

open Sys2Proof

/-- The zone group address 03-50-41-59-00-01 (R479). -/
abbrev zoneGroup : Nat := 0x035041590001

/-- The identity that names every hub of the zone (R489). -/
abbrev allHubs : Nat := 2 ^ 64 - 1

/-- A KMP message (R489). -/
structure Kmp where
  ty : Nat
  ident : Nat
  ses : Nat
  flags : Nat
  tid : Nat
  status : Nat
  body : Bytes
  deriving DecidableEq, Repr

/-- A message's bytes: the header, the body and the CRC-32C (R489). -/
def kmpBytes (m : Kmp) : Bytes :=
  let b := leBytes 1 1 ++ leBytes 1 m.ty ++ leBytes 2 (m.body.length + 24) ++ leBytes 8 m.ident ++ leBytes 1 m.ses ++
    leBytes 1 m.flags ++ leBytes 2 m.tid ++ leBytes 2 m.status ++ leBytes 2 0 ++ m.body
  b ++ leBytes 4 (crc32c b)

/-- The message that bytes carry; none where the version, the length or the CRC fails (R490). A frame may pad the message;
a datagram may not. -/
def kmpParse (bs : Bytes) (datagram : Bool) : Option Kmp :=
  let l := leAt bs 2 2
  if leAt bs 0 1 ≠ 1 ∨ l < 24 ∨ 1500 < l ∨ bs.length < l ∨ (datagram = true ∧ bs.length ≠ l) then none
  else if leAt bs (l - 4) 4 ≠ crc32c (bs.take (l - 4)) then none
  else some { ty := leAt bs 1 1, ident := leAt bs 4 8, ses := leAt bs 12 1, flags := leAt bs 13 1, tid := leAt bs 14 2,
              status := leAt bs 16 2, body := slice bs 20 (l - 24) }

/-- The reserved bits of a header are zero (R490). -/
def kmpReserved (bs : Bytes) : Bool := decide (leAt bs 18 2 = 0) && decide (leAt bs 13 1 < 4)

/-- The KMP message of a frame, if it carries one: its bytes and whether it came as a datagram. -/
def frameKmp (f : Frame) : Option (Bytes × Bool) :=
  match f.content with
  | .kmp m => some (m, false)
  | .udp _ _ _ _ p => some (p, true)
  | _ => none

/-- This hub's identity (object 0x1000:04). -/
def State.ident (s : State) : Nat := s.nat .identity 0 4

/-- This hub's MAC address (object 0x1000:05). -/
def State.mac (s : State) : Nat := s.nat .identity 0 5

/-- A port as after reset. -/
def PortSt.init : PortSt :=
  { lcFirst := none, lcLast := none, helloAt := none, ownHelloAt := none, egress := [[], [], [], []],
    lastOwn := [false, false, false, false], sent := none }

/-- Port p: 0 A, 1 B, 2 C. -/
def State.port (s : State) (p : Nat) : PortSt := s.net.ports.getD p PortSt.init

/-- The network record changed. -/
def State.modNet (s : State) (f : NetSt → NetSt) : State := { s with net := f s.net }

/-- Port p changed. -/
def State.modPort (s : State) (p : Nat) (f : PortSt → PortSt) : State :=
  s.modNet (fun n => { n with ports := n.ports.modify p f })

/-- The port is ready (object 0x1201 + p:03). -/
def portReady (s : State) (p : Nat) : Bool := s.has .link p && s.nat .link p 3 == 2

/-- The egress class of a frame (R483): 0 PTP, 1 hellos, link checks and joins, 2 other KMP, 3 KSF. -/
def frameClass (s : State) (f : Frame) : Nat :=
  match f.content with
  | .udp _ sp _ _ _ => if sp = s.nat .uplink 0 5 then 3 else 2
  | .ptp _ => 0
  | .kmp m => let t := leAt m 1 1; if 0x10 ≤ t ∧ t ≤ 0x12 then 1 else 2
  | .ksf _ => 3
  | _ => 2

/-- A frame's length in bytes: addresses, type, payload of at least 46 bytes, FCS. -/
def frameLen (payload : Nat) : Nat := 18 + max 46 payload

/-- What a class holds in bytes (R483). -/
def classRoom (c : Nat) : Nat := if c = 3 then 131072 else 16384

/-- A frame may leave a port that is not ready: a link check, or a Pdelay message under the peer-to-peer profile (R479). -/
def leavesUnready (s : State) (f : Frame) : Bool :=
  match f.content with
  | .kmp m => leAt m 1 1 == 0x11
  | .ptp m => s.nat .clock 0 2 == 1 && (m.kind == .pdelayReq || m.kind == .pdelayResp || m.kind == .pdelayRespFollowUp)
  | _ => false

/-- A frame joins its class at a port, or is dropped and counted when the class is full (R483). A port that is not ready
takes only what R479 lets it send. -/
def enqueue (s : State) (p : Nat) (o : OutFrame) : State :=
  if !(s.has .link p) || !(portReady s p || (leavesUnready s o.frame && s.nat .link p 3 == 1)) then s
  else
    let c := frameClass s o.frame
    let l := (s.port p).egress.getD c []
    if classRoom c < (l.map (·.frame.len)).foldl (· + ·) 0 + o.frame.len then s.bump .link p 9 1
    else s.modPort p (fun q => { q with egress := q.egress.set c (l ++ [o]) })

/-- The VLAN tag that a port's own frames carry (R477). -/
def ownTag (s : State) (p : Nat) : Option Nat :=
  if p = 2 ∧ s.nat .link 2 15 ≠ 0 then some (s.nat .link 2 15) else none

/-- The hub sends a frame of its own. -/
def sendOwn (s : State) (p dst len : Nat) (c : Content) : State :=
  enqueue s p ⟨⟨true, ownTag s p, dst, s.mac, len, c, 0⟩, true, p, 0⟩

/-- The address to which PTP messages are sent: that of Pdelay messages, or that of all others (IEEE 1588, Annex E). -/
def ptpAddress (k : PtpKind) : Nat :=
  match k with
  | .pdelayReq | .pdelayResp | .pdelayRespFollowUp => 0x0180C200000E
  | _ => 0x011B19000000

/-- The hub sends a PTP message of its own. `rx` is the ingress timestamp of the request that a Pdelay_Resp answers. -/
def sendPtp (s : State) (p : Nat) (rx : Int) (m : PtpMsg) : State :=
  enqueue s p ⟨⟨true, ownTag s p, ptpAddress m.kind, s.mac, if m.udp then 96 else 72, .ptp m, 0⟩, true, p, rx⟩

/-- The hub sends a KMP message of its own as an Ethernet frame. -/
def sendKmp (s : State) (p dst : Nat) (m : Kmp) : State :=
  let b := kmpBytes m
  sendOwn s p dst (frameLen b.length) (.kmp b)

/-- The hub sends a KMP message as a UDP datagram on port C. -/
def sendUdp (s : State) (dst srcIp srcPort dstIp dstPort : Nat) (b : Bytes) : State :=
  sendOwn s 2 dst (frameLen (b.length + 28)) (.udp srcIp srcPort dstIp dstPort b)

/-- The port on which an answer leaves (R500). -/
def answerPort (s : State) (rx : Rx) : Nat :=
  if rx.frame.src = s.net.mgrMac ∧ !s.isManager ∧ s.nat .ring 0 2 ≠ 255 then s.nat .ring 0 2 else rx.port

/-- A message goes back to the sender of a received frame, in its form (R500, R501). -/
def reply (s : State) (rx : Rx) (m : Kmp) : State :=
  match rx.frame.content with
  | .udp sip sp dip dp _ => sendUdp s rx.frame.src dip dp sip sp (kmpBytes m)
  | _ => sendKmp s (answerPort s rx) rx.frame.src m

/-- The answer to a request (R489): its session and transaction, ANS set, BRIDGED as the request has it. -/
def answerTo (s : State) (m : Kmp) (ses : Nat) (c : Code) (body : Bytes) : Kmp :=
  { ty := m.ty, ident := s.ident, ses := ses, flags := m.flags / 2 * 2 + 1, tid := m.tid, status := c.num, body := body }

/-- The largest KMP length of an answer to this request (R490, R502). -/
def answerRoom (rx : Rx) (m : Kmp) : Nat :=
  match rx.frame.content with
  | .udp _ _ _ _ _ => 1472
  | _ => if bit m.flags 1 then 1472 else 1500

/-- The first waiting message of a type: its place, its frame and the message. Requests of one session keep their order
(R495): none is taken while an earlier request of its session waits. -/
def inboxKmp (s : State) (p : Kmp → Bool) : Option (Nat × Rx × Kmp) :=
  let msgs := s.net.inbox.zipIdx.filterMap (fun (r, i) =>
    match frameKmp r.frame with
    | some (b, d) => (kmpParse b d).map (fun m => (i, r, m))
    | none => none)
  msgs.find? (fun (i, _, m) => p m &&
    !(m.ses != 0 && !(bit m.flags 0) && msgs.any (fun (j, _, x) => decide (j < i) && x.ses == m.ses && !(bit x.flags 0))))

/-- The received frame at a place is taken away. -/
def dropInbox (s : State) (i : Nat) : State := s.modNet (fun n => { n with inbox := n.inbox.eraseIdx i })

/-- An unsolicited message of this hub with a body. -/
def ownMessage (s : State) (ty : Nat) (body : Bytes) : Kmp :=
  { ty := ty, ident := s.ident, ses := 0, flags := 0, tid := 0, status := 0, body := body }

/-- The hello interval in grid ticks: a manager's own, a worker's as the last hello carried it (R480). -/
def helloTicks (s : State) : Nat := usTicks (if s.isManager then s.nat .ring 0 7 else s.net.helloUs)

/-- The ring timeout in grid ticks. -/
def ringTicks (s : State) : Nat :=
  if s.isManager then s.nat .ring 0 8 * helloTicks s else s.net.helloTo * helloTicks s

/-- Milliseconds in grid ticks. -/
abbrev msTicks (n : Nat) : Nat := n * Config.ticksPerMs

end Sys2Proof.Machine
end

