-- ==== Sys2Proof/Machine/Ring.lean ====
section
/-! DEFINITION. Ports and the ring (R473 to R488 of spec/15_ports_and_kmp.md): links, link checks, hellos, the upstream port,
joins, and what happens to a received frame. -/

namespace Sys2Proof.Machine

open Sys2Proof

/-- The other ring port. -/
abbrev otherPort (p : Nat) : Nat := 1 - p

/-- Every frame waiting at a port is dropped and counted (R483). -/
def dropEgress (s : State) (p : Nat) : State :=
  let n := ((s.port p).egress.map List.length).foldl (· + ·) 0
  (s.bump .link p 9 n).modPort p (fun q => { q with egress := [[], [], [], []] })

/-- The hop count of a ring port (object 0x1200:04, 05). -/
def hop (s : State) (p : Nat) : Nat := s.nat .ring 0 (4 + p)

/-- A worker's upstream port changes to `up`, 0xFF for none (R481, R484, R215). -/
def setUpstream (s : State) (up : Nat) : State :=
  let s := (s.setNum .ring 0 2 up).setNum .ring 0 1 (if up = 255 then 2 else 1)
  let s := raise (s.bump .ring 0 11 1) 75 1 up
  clockUpstream (s.modNet (fun n => { n with attached := true, joinDue := true, revertFrom := none })) up

/-- The revert hold starts, goes on or is dropped, as the hop counts stand (R481). -/
def revertWatch (s : State) : State :=
  let up := s.nat .ring 0 2
  if up ≤ 1 ∧ hop s up ≠ 255 ∧ hop s (otherPort up) ≠ 255 ∧ hop s (otherPort up) < hop s up then
    if s.net.revertFrom.isSome then s else s.modNet (fun n => { n with revertFrom := some s.now })
  else s.modNet (fun n => { n with revertFrom := none })

/-- A worker chooses its upstream port (R481); the revert apart, which REVERT_HOLD_EXPIRY performs. -/
def chooseUpstream (s : State) : State :=
  let a := hop s 0
  let b := hop s 1
  let up := s.nat .ring 0 2
  let s :=
    if s.isManager then s
    else if a = 255 ∧ b = 255 then (if up = 255 then s else setUpstream s 255)
    else if up = 255 then setUpstream s (if b < a then 1 else 0)
    else if hop s up = 255 then setUpstream s (otherPort up)
    else s
  revertWatch s

/-- A manager's ring state (R485): its own hellos have reached both ports within the ring timeout, or a port is ready. -/
def managerRing (s : State) : Nat :=
  let fresh := fun (p : Nat) => portReady s p && (match (s.port p).ownHelloAt with
    | some t => decide (s.now < t + ringTicks s)
    | none => false)
  if fresh 0 && fresh 1 then 2 else if portReady s 0 || portReady s 1 then 1 else 0

/-- A manager's ring state is decided again, with the events of its transitions (R485). -/
def ringRefresh (s : State) : State :=
  if !s.isManager then s
  else
    let r := managerRing s
    if s.nat .ring 0 1 = r then s
    else
      let s := s.setNum .ring 0 1 r
      let s := if r = 2 then s else s.setNum .zone 0 4 255
      if r = 1 then raise s 75 2 0 else if r = 2 then raise s 75 3 0 else s

/-- A ring port stops being ready (R479): its waiting frames are dropped, its hop count is no longer valid. -/
def unready (s : State) (p : Nat) : State :=
  let s := dropEgress s p
  if p ≤ 1 then
    let s := raise s 74 2 p
    let s := s.modPort p (fun q => { q with ownHelloAt := none, helloAt := none })
    if s.isManager then ringRefresh s else chooseUpstream (s.setNum .ring 0 (4 + p) 255)
  else s

/-- A port is held down: disabled, port C of a worker, or before the end of the restore step (R476, R477, R598). -/
def heldDown (s : State) (p : Nat) : Bool :=
  s.nat .link p 1 == 0 || (p == 2 && !s.isManager) || decide (s.nat .startup 0 3 < 3)

/-- A port's link goes down (R479); on port C a failed attempt of a forced speed counts as well (R476). -/
def linkDown (s : State) (p : Nat) : State :=
  let was := s.nat .link p 3
  let s := (s.setNum .link p 3 (if heldDown s p then 3 else 0)).setNum .link p 4 0
  let s := s.modPort p (fun q => { q with lcFirst := none, lcLast := none })
  let s := s.modClk (fun c => { c with linkOk := c.linkOk.set p false })
  let s := if was = 1 ∨ was = 2 ∨ p = 2 then s.bump .link p 10 1 else s
  if was = 2 then unready s p else dropEgress s p

/-- A speed or enable change restarts the link (R504). -/
def linkRestart (s : State) (p : Nat) : State :=
  let was := s.nat .link p 3
  if was = 1 ∨ was = 2 then linkDown s p else s.setNum .link p 3 (if heldDown s p then 3 else 0)

/-- The speeds in Mb/s at which a port's link can come up, as its speed select states and, on port C with automatic selection, as the
module's identification does (R473, R476, R477). -/
def linkSpeeds (s : State) (port : Nat) : List Nat :=
  let sel := s.nat .link port 2
  if port = 2 then
    (if sel = 0 then [if Config.reports10G (s.bytes .link 2 14) then 10000 else 1000] else if sel = 1 then [1000] else [10000])
  else if sel = 0 then [2500, 1000, 100] else if sel = 1 then [2500] else if sel = 2 then [1000] else [100]

/-- LINK_UP (R476, R479): the link is up at a speed in Mb/s that the port's setting allows. A ring port counts link checks from here
on; port C, which has no link checks, is ready. -/
def execLinkUp (port speed : Nat) (s : State) : Host.Outcome State Fault Refusal :=
  if s.has .link port ∧ heldDown s port = false ∧ (s.nat .link port 3 = 0 ∨ s.nat .link port 3 = 3) ∧
      speed ∈ linkSpeeds s port then
    let s := s.setNum .link port 4 speed
    if port = 2 then .next ((s.setNum .link 2 3 2).setNum .link 2 12 s.now)
    else .next ((s.setNum .link port 3 1).modPort port (fun q => { q with lcFirst := none, lcLast := none }))
  else .next s

/-- LINK_DOWN (R479): the link is down; the port loses readiness and its waiting frames. -/
def execLinkDown (port : Nat) (s : State) : Host.Outcome State Fault Refusal :=
  if s.has .link port ∧ heldDown s port = false then .next (linkDown s port) else .next s

/-- LINK_CHECK_SEND (R479): once per hello interval a link check leaves each ring port whose link is up. -/
def execLinkCheckSend (s : State) : Host.Outcome State Fault Refusal :=
  if (match s.net.lastCheck with | some t => decide (t + helloTicks s ≤ s.now) | none => true) then
    let m := ownMessage s 0x11 []
    let s := sendKmp (sendKmp s 0 zoneGroup m) 1 zoneGroup m
    .next (s.modNet (fun n => { n with lastCheck := some s.now }))
  else .next s

/-- A port takes a link check that arrived at grid tick t (R477, R479). -/
def takeLinkCheck (s : State) (p ident t : Nat) : State :=
  let q := s.port p
  let again := match q.lcLast with | some l => decide (l + ringTicks s < t) | none => true
  let s := s.setNum .link p 11 ident
  s.modPort p (fun q => { q with lcLast := some t, lcFirst := if again then some t else q.lcFirst })

/-- LINK_CHECK (R479): the oldest link check received is taken. -/
def execLinkCheck (s : State) : Host.Outcome State Fault Refusal :=
  match inboxKmp s (fun m => m.ty == 0x11) with
  | some (i, rx, m) =>
    let s := dropInbox s i
    if rx.port ≤ 1 ∧ s.nat .link rx.port 3 ≠ 0 ∧ s.nat .link rx.port 3 ≠ 3 then
      .next (takeLinkCheck s rx.port m.ident rx.tick)
    else .next s
  | none => .next s

/-- RESTORE_HOLD_EXPIRY (R479): link checks have arrived for the restore hold with no gap beyond the ring timeout: the port
becomes ready. -/
def execRestoreHoldExpiry (port : Nat) (s : State) : Host.Outcome State Fault Refusal :=
  match (s.port port).lcFirst, (s.port port).lcLast with
  | some f, some l =>
    if port ≤ 1 ∧ s.nat .link port 3 = 1 ∧ f + msTicks (s.nat .ring 0 9) ≤ s.now ∧ s.now ≤ l + ringTicks s then
      let s := (s.setNum .link port 3 2).setNum .link port 12 s.now
      .next (ringRefresh (raise s 74 1 port))
    else .next s
  | _, _ => .next s

/-- RING_TIMEOUT (R479): no link check for the ring timeout: the port stops being ready. -/
def execRingTimeout (port : Nat) (s : State) : Host.Outcome State Fault Refusal :=
  match (s.port port).lcLast with
  | some l =>
    if port ≤ 1 ∧ s.nat .link port 3 = 2 ∧ l + ringTicks s ≤ s.now then
      let s := (s.setNum .link port 3 1).modPort port (fun q => { q with lcFirst := none, lcLast := none })
      .next (unready s port)
    else .next s
  | none => .next s

/-- The highest listed position of the worker table, 0 when it is empty (R480). -/
def ringSize (s : State) : Nat :=
  (List.range 62).foldl (fun n i => if s.nat .workers 0 (i + 1) = 0 then n else i + 1) 0

/-- The body of a hello (R480). -/
def helloBody (s : State) (origin hops : Nat) : Bytes :=
  leBytes 1 origin ++ leBytes 1 hops ++ leBytes 1 (ringSize s) ++ leBytes 1 (s.nat .ring 0 8) ++
    leBytes 2 (s.nat .ring 0 7) ++ leBytes 2 0 ++ leBytes 4 s.net.helloSeq ++ leBytes 8 s.ident ++ leBytes 8 s.mac ++
    (List.range 62).flatMap (fun i => leBytes 8 (s.nat .workers 0 (i + 1)))

/-- HELLO_SEND (R480): once per hello interval a manager sends a hello on each ready ring port. -/
def execHelloSend (s : State) : Host.Outcome State Fault Refusal :=
  let due := match s.net.lastHello with | some t => decide (t + helloTicks s ≤ s.now) | none => true
  if s.isManager = true ∧ due = true then
    let one := fun (s : State) (p : Nat) =>
      if portReady s p then sendKmp s p zoneGroup (ownMessage s 0x10 (helloBody s p 0)) else s
    let s := one (one s 0) 1
    .next (s.modNet (fun n => { n with lastHello := some s.now, helloSeq := (n.helloSeq + 1) % 2 ^ 32 }))
  else .next s

/-- The position of an identity in a hello's worker table; 0xFF where it does not stand (R480). -/
def helloPosition (body : Bytes) (ident : Nat) : Nat :=
  match (List.range 62).find? (fun i => leAt body (28 + 8 * i) 8 = ident) with
  | some i => i + 1
  | none => 255

/-- A worker takes a hello of grid tick t on port p and sends it on (R480, R481, R487). -/
def workerHello (s : State) (p t : Nat) (m : Kmp) : State :=
  let h := leAt m.body 1 1
  let s := (s.setNum .ring 0 (4 + p) h).modPort p (fun q => { q with helloAt := some t })
  let s := s.setNum .ring 0 6 (leAt m.body 12 8)
  let s := s.modNet (fun n => { n with mgrMac := leAt m.body 20 8 % 2 ^ 48, helloUs := leAt m.body 4 2,
                                       helloTo := leAt m.body 3 1 })
  let pos := helloPosition m.body s.ident
  let s := if s.nat .ring 0 3 = pos then s
    else (s.setNum .ring 0 3 pos).modNet (fun n => { n with joinDue := true })
  let s := if portReady s (otherPort p) then
      sendKmp s (otherPort p) zoneGroup { m with body := m.body.take 1 ++ leBytes 1 (h + 1) ++ m.body.drop 2 }
    else s
  chooseUpstream s

/-- A manager takes a hello: its own, at the port other than the one it left from, shows the ring closed (R480, R485, R486). -/
def managerHello (s : State) (p t : Nat) (m : Kmp) : State :=
  if m.ident = s.ident ∧ leAt m.body 0 1 = otherPort p then
    let s := s.modPort p (fun q => { q with ownHelloAt := some t })
    let s := ringRefresh s
    if s.nat .ring 0 1 = 2 then s.setNum .zone 0 4 (leAt m.body 1 1) else s
  else s

/-- HELLO (R480): the oldest hello received on a ready port is taken, and on a worker sent on with its hop count increased.
A hop count of 62 means more than 62 workers, for which R478 promises nothing. -/
def execHello (s : State) : Host.Outcome State Fault Refusal :=
  match inboxKmp s (fun m => m.ty == 0x10) with
  | some (i, rx, m) =>
    let s := dropInbox s i
    if portReady s rx.port = false ∨ m.body.length < 524 then .next s
    else if s.isManager then .next (managerHello s rx.port rx.tick m)
    else if 62 ≤ leAt m.body 1 1 then .fault .ringBeyondRating
    else .next (workerHello s rx.port rx.tick m)
  | none => .next s

/-- HOP_COUNT_EXPIRY (R481): a port's hop count is no longer valid, the ring timeout after its last hello. -/
def execHopCountExpiry (port : Nat) (s : State) : Host.Outcome State Fault Refusal :=
  match (s.port port).helloAt with
  | some t =>
    if port ≤ 1 ∧ s.isManager = false ∧ t + ringTicks s ≤ s.now then
      .next (chooseUpstream ((s.setNum .ring 0 (4 + port) 255).modPort port (fun q => { q with helloAt := none })))
    else .next s
  | none => .next s

/-- REVERT_HOLD_EXPIRY (R481): the other port's hop count has been the lower one for the whole revert hold. -/
def execRevertHoldExpiry (s : State) : Host.Outcome State Fault Refusal :=
  match s.net.revertFrom with
  | some f =>
    if s.isManager = false ∧ s.nat .ring 0 10 ≠ 0 ∧ f + msTicks (s.nat .ring 0 10) ≤ s.now then
      .next (revertWatch (setUpstream s (otherPort (s.nat .ring 0 2))))
    else .next s
  | none => .next s

/-- OWN_HELLO_TIMEOUT (R485): a manager's own hellos have been missing at a ring port for the ring timeout: the ring is no
longer closed. -/
def execOwnHelloTimeout (s : State) : Host.Outcome State Fault Refusal :=
  if s.isManager ∧ s.nat .ring 0 1 = 2 then .next (ringRefresh s) else .next s

/-- The body of a join (R484). -/
def joinBody (s : State) : Bytes :=
  leBytes 1 (s.nat .ring 0 3) ++ leBytes 1 (s.nat .ring 0 2) ++ leBytes 1 (hop s 0) ++ leBytes 1 (hop s 1) ++
    leBytes 4 (s.nat .startup 0 2)

/-- JOIN_SEND (R484): a worker with an upstream port sends a join, at once after a change and every 100 ms. -/
def execJoinSend (s : State) : Host.Outcome State Fault Refusal :=
  let due := s.net.joinDue || (match s.net.lastJoin with | some t => decide (t + msTicks 100 ≤ s.now) | none => true)
  if s.isManager = false ∧ s.nat .ring 0 2 ≠ 255 ∧ due = true then
    let s := sendKmp s (s.nat .ring 0 2) s.net.mgrMac (ownMessage s 0x12 (joinBody s))
    .next (s.modNet (fun n => { n with lastJoin := some s.now, joinDue := false }))
  else .next s

/-- The joins that arrived within the reachability timeout (R484). -/
def freshJoins (s : State) : List JoinRec :=
  s.net.joins.filter (fun j => decide (s.now < j.tick + msTicks (s.nat .zone 0 6)))

/-- The zone's masks and counts follow the joins (R486). -/
def reachRefresh (s : State) : State :=
  let js := freshJoins s
  let listed := js.filter (fun j => decide (1 ≤ j.pos) && decide (j.pos ≤ 62))
  let mask := fun (l : List JoinRec) => l.foldl (fun m j => setBit m j.pos) 0
  ((s.setNum .zone 0 2 (mask listed : Nat)).setNum .zone 0 3 (mask (listed.filter (fun j => j.port == 1)) : Nat)).setNum
    .zone 0 5 (js.filter (fun j => j.pos == 255)).length

/-- JOIN (R484, R486): a manager takes the oldest join received; the worker is reachable on its port. -/
def execJoin (s : State) : Host.Outcome State Fault Refusal :=
  match inboxKmp s (fun m => m.ty == 0x12) with
  | some (i, rx, m) =>
    let s := dropInbox s i
    if s.isManager ∧ 8 ≤ m.body.length ∧ rx.port ≤ 1 then
      let j : JoinRec := { ident := m.ident, mac := rx.frame.src, port := rx.port, pos := leAt m.body 0 1,
                           hopA := leAt m.body 2 1, hopB := leAt m.body 3 1, boot := leAt m.body 4 4, tick := rx.tick }
      .next (reachRefresh (s.modNet (fun n => { n with joins := n.joins.filter (fun x => !(x.ident == m.ident)) ++ [j] })))
    else .next s
  | none => .next s

/-- WORKER_REACHABILITY_TIMEOUT (R484): workers without a join for the reachability timeout are no longer reachable. -/
def execWorkerReachabilityTimeout (s : State) : Host.Outcome State Fault Refusal :=
  if s.isManager then .next (reachRefresh s) else .next s

/-- The learn command (R486, R487). -/
def learn (s : State) : State × Code :=
  if !s.isManager then (s, .outOfRange)
  else if s.nat .ring 0 1 ≠ 2 then (s, .inUse)
  else
    let js := freshJoins s
    let s := (List.range 62).foldl (fun s i => s.setNum .workers 0 (i + 1) 0) s
    let s := js.foldl (fun s j => if j.hopA < 62 then s.setNum .workers 0 (j.hopA + 1) j.ident else s) s
    (raise (s.bump .zone 0 7 1) 75 4 0, .success)

/-- MODULE_INSERTION (R477): an SFP module is inserted and its 256 bytes of identification are read. -/
def execModuleInsertion (ident : Bytes) (s : State) : Host.Outcome State Fault Refusal :=
  if s.has .link 2 then
    .next ((s.setNum .link 2 13 (setBit (s.nat .link 2 13) 0 : Nat)).setBytes .link 2 14 (padTo 256 ident))
  else .next s

/-- MODULE_REMOVAL (R477): the module is removed, which clears the module-present bit. -/
def execModuleRemoval (s : State) : Host.Outcome State Fault Refusal :=
  if s.has .link 2 then .next (s.setNum .link 2 13 (clearBit (s.nat .link 2 13) 0 : Nat)) else .next s

/-- A frame is within what a port accepts (R475). -/
def accepts (s : State) (p : Nat) (f : Frame) : Bool :=
  if p ≤ 1 then
    f.vlan == none && decide (f.len ≤ 1518) &&
      (match f.content with | .kmp _ => true | .ksf _ => true | .ptp m => !m.udp | _ => false)
  else
    (match f.vlan with
      | none => decide (f.len ≤ 1518)
      | some v => decide (s.nat .link 2 15 ≠ 0) && v == s.nat .link 2 15 && decide (f.len ≤ 1522)) &&
      (match f.content with | .other => false | _ => true)

/-- A datagram to the uplink's port on a manager's port C carries a KSF frame (R383). -/
def ksfDatagram (s : State) (p : Nat) (f : Frame) : Frame :=
  match f.content with
  | .udp _ _ _ dp b => if p = 2 ∧ s.isManager = true ∧ dp = s.nat .uplink 0 5 then { f with content := .ksf b } else f
  | _ => f

/-- A message at a manager's port C that names another hub: the bridge decides it (R490, R503). -/
def forBridge (s : State) (p : Nat) (m : Kmp) : Bool := p == 2 && s.isManager && m.ident != s.ident

/-- A message type of R491. -/
def knownType (t : Nat) : Bool := (decide (1 ≤ t) && decide (t ≤ 0x0B)) || (decide (0x10 ≤ t) && decide (t ≤ 0x12))

/-- The waiting requests of a session (R495). -/
def waitingOf (s : State) (ses : Nat) : Nat :=
  (s.net.inbox.filter (fun r => match frameKmp r.frame with
    | some (x, y) => (match kmpParse x y with
      | some n => n.ses == ses && !(bit n.flags 0) && decide (n.ty ≤ 0x0A) && !forBridge s r.port n
      | none => false)
    | none => false)).length

/-- A request that names an open session has arrived (R494). -/
def sessionHeard (s : State) (ses : Nat) : State :=
  s.modNet (fun n => { n with sessions := n.sessions.map (fun p => if p.1 = ses then (p.1, { p.2 with last := s.now }) else p) })

/-- The hub takes a KMP message (R490, R495, R501, R503): one that R490 discards is counted; a malformed header, an unknown type and
a ninth waiting request of a session are answered at once; any other waits to be acted on. Of answers, a manager's bridge alone
takes those with BRIDGED set. -/
def consumeKmp (s : State) (rx : Rx) (b : Bytes) (d : Bool) : State :=
  match kmpParse b d with
  | none => s.bump .kmp 0 3 1
  | some m =>
    let s := if bit m.flags 0 = false ∧ (m.ident = s.ident ∨ m.ident = allHubs) then sessionHeard s m.ses else s
    let bridge := forBridge s rx.port m
    let keep := s.modNet (fun n => { n with inbox := n.inbox ++ [rx] })
    if bit m.flags 0 then (if s.isManager && bit m.flags 1 && rx.port != 2 then keep else s)
    else if !bridge && decide (m.ty < 0x0B) && !(m.ident == s.ident || m.ident == allHubs) then s.bump .kmp 0 3 1
    else if kmpReserved b = false ∨ (bridge = false ∧ knownType m.ty = false) then
      reply (s.bump .kmp 0 2 1) rx (answerTo s m m.ses .malformed [])
    else if !bridge && decide (m.ty ≤ 0x0A) && decide (m.ses ≠ 0) && decide (8 ≤ waitingOf s m.ses) then
      reply s rx (answerTo s m m.ses .queueFull [])
    else keep

/-- The hub's clock takes a PTP message at a port on which PTP is enabled: what its ordinary clock follows, from its upstream port, in
its domain and by its transport, and the Pdelay messages of the peer-to-peer profile (R196, R199, R200, R202). -/
def ptpTakes (s : State) (p : Nat) (m : PtpMsg) : Bool :=
  s.has .ptpPort p && s.nat .ptpPort p 1 == 1 &&
    (match m.kind with
      | .sync | .followUp | .announce | .delayResp =>
        p == ptpUpstream s && m.domain == s.nat .clock 0 1 && m.udp == ptpUdp s p
      | .pdelayReq | .pdelayResp | .pdelayRespFollowUp => s.nat .clock 0 2 == 1
      | _ => false)

/-- The ingress timestamp of a frame that arrived in the cycle of tick t (R198). -/
def ingressNs (s : State) (p t sub : Nat) : Int := localAt s t sub - portLatency s p 5

/-- A ring grandmaster answers a Delay_Req of the ring with the time of its receipt (R196, R200). -/
def gmAnswer (s : State) (p : Nat) (f : Frame) (m : PtpMsg) : State :=
  if s.nat .ptpPort p 1 = 1 ∧ s.nat .clock 0 2 = 0 ∧ m.domain = s.nat .clock 0 1 then
    sendPtp s p 0 { ownPtp s p .delayResp m.seq with corr := m.corr, time := ingressNs s p s.now f.sub, asker := m.sender }
  else s

/-- The hub takes a frame. On a manager's port C the IPv4 address of object 0x1211 and its bridge port admit datagrams, ARP and ICMP
(R501); every other IP service is dropped. -/
def consume (s : State) (p : Nat) (f : Frame) : State :=
  let f := ksfDatagram s p f
  let rx : Rx := ⟨p, s.now, f⟩
  let keep := s.modNet (fun n => { n with inbox := n.inbox ++ [rx] })
  let ip := s.nat .bridge 0 1
  let mine := fun (a : Nat) => s.isManager && p == 2 && ip != 0 && a == ip
  match f.content with
  | .kmp b => consumeKmp s rx b false
  | .udp _ _ dip dp b => if mine dip ∧ dp = s.nat .bridge 0 3 then consumeKmp s rx b true else s
  | .icmpEcho r _ dip _ => if r = false ∧ mine dip = true then keep else s
  | .arp r _ tip => if r = false ∧ mine tip = true then keep else s
  | .ptp m => if ptpTakes s p m then keep else s
  | .other => s
  | .ksf _ => keep

/-- A received frame goes on to another port (R482), with the local clock's time of its arrival. A port that is not ready forwards
nothing, neither out of it nor from it (R479). -/
def forward (s : State) (p out : Nat) (f : Frame) : State :=
  if portReady s p then enqueue s out ⟨{ f with vlan := ownTag s out }, false, p, localAt s s.now f.sub⟩ else s

/-- The hub takes a frame and sends it on (R482). -/
def takeAndForward (s : State) (p out : Nat) (f : Frame) : State := forward (consume s p f) p out f

/-- The type of a frame's KMP message, 0 where it carries none. -/
def kmpType (f : Frame) : Nat := match frameKmp f with | some (b, _) => leAt b 1 1 | none => 0

/-- A MAC address names one station: bit 40 is clear (IEEE 802.3). -/
def unicast (a : Nat) : Bool := !bit a 40

/-- What a worker does with an accepted frame on a ring port (R482); a frame of no row of R482's table is dropped. -/
def workerFrame (s : State) (p : Nat) (f : Frame) : State :=
  let up := s.nat .ring 0 2
  let t := kmpType f
  let out := otherPort p
  if f.dst = s.mac ∨ t = 0x11 then consume s p f
  else if t = 0x10 then consume s p f
  else if up = 255 then s
  else
    match f.content with
    | .ptp m =>
      match m.kind with
      | .pdelayReq | .pdelayResp | .pdelayRespFollowUp => consume s p f
      | .delayReq => if p = up ∨ s.nat .clock 0 2 = 1 then s else forward s p out f
      | .other => if p = up then forward s p out f else s
      | _ => if p = up then takeAndForward s p out f else s
    | _ =>
      if f.dst = s.net.mgrMac then (if p = up then s.bump .ring 0 12 1 else forward s p out f)
      else if f.dst = zoneGroup ∧ (frameKmp f).isSome = true then (if p = up then takeAndForward s p out f else s)
      else if p = up ∧ unicast f.dst = true then forward s p out f
      else s

/-- What a manager does with an accepted frame (R478, R197, R200, R501): nothing passes between its ring ports; port C takes what is
addressed to the manager, and broadcasts; in the
transparent role PTP over Ethernet passes between port C and the ring, Delay_Req under the end-to-end profile alone. -/
def managerFrame (s : State) (p : Nat) (f : Frame) : State :=
  match f.content with
  | .ptp m =>
    let through := s.nat .clock 0 3 == 0
    match m.kind with
    | .pdelayReq | .pdelayResp | .pdelayRespFollowUp => consume s p f
    | .delayReq =>
      if 1 < p then s
      else if through then (if s.nat .clock 0 2 = 1 then s else forward s p 2 f)
      else gmAnswer s p f m
    | _ =>
      if p = 2 ∧ !(through && m.udp) then
        let s := consume s p f
        if through then forward (forward s p 0 f) p 1 f else s
      else s
  | _ => if f.dst = s.mac ∨ (p ≤ 1 ∧ f.dst = zoneGroup) ∨ (p = 2 ∧ f.dst = 2 ^ 48 - 1) then consume s p f else s

/-- FRAME_RECEIVED (R474, R475, R482): the frame's FCS and form are checked; then it is taken, sent on or dropped. -/
def execFrameReceived (port : Nat) (f : Frame) (s : State) : Host.Outcome State Fault Refusal :=
  if s.has .link port = false ∨ (s.nat .link port 3 ≠ 1 ∧ s.nat .link port 3 ≠ 2) then .next s
  else
    let s := s.bump .link port 5 1
    if f.fcsGood = false then .next (s.bump .link port 7 1)
    else if accepts s port f = false then .next (s.bump .link port 8 1)
    else if s.isManager then .next (managerFrame s port f)
    else .next (workerFrame s port f)

/-- The next frame of a class: own and forwarded frames alternate (R483). -/
def pickFrame (l : List OutFrame) (lastOwn : Bool) : Option (OutFrame × List OutFrame) :=
  match l.find? (fun o => o.own != lastOwn) with
  | some o => some (o, l.erase o)
  | none => match l with | o :: r => some (o, r) | [] => none

/-- The next frame of a port: its class, the frame, and what stays in the class. -/
def nextFrame (q : PortSt) : Option (Nat × OutFrame × List OutFrame) :=
  (List.range 4).findSome? (fun c =>
    (pickFrame (q.egress.getD c []) (q.lastOwn.getD c false)).map (fun (o, r) => (c, o, r)))

/-- A frame leaves a port. -/
def putOnWire (s : State) (p c : Nat) (o : OutFrame) (rest : List OutFrame) (f : Frame) : State :=
  (s.bump .link p 6 1).modPort p (fun q =>
    { q with egress := q.egress.set c rest, lastOwn := q.lastOwn.set c o.own, sent := some f })

/-- A forwarded PTP event message to which the transparent clock adds its residence (R197). -/
def correctedKind (s : State) (k : PtpKind) : Bool :=
  if s.nat .clock 0 2 = 1 then k == .sync
  else k == .sync || k == .delayReq || k == .pdelayReq || k == .pdelayResp

/-- The egress timestamp of a frame that leaves a port now (R198). -/
def egressNs (s : State) (p sub : Nat) : Int := localAt s s.now sub + portLatency s p 6

/-- The delay asymmetry that IEEE 1588 has a message corrected by, in 2^−16 ns (R198): that of the ingress port is added to Sync and
Pdelay_Resp, that of the egress port is taken from Delay_Req and Pdelay_Req. -/
def asymmetry (s : State) (inPort out : Nat) (k : PtpKind) : Int :=
  match k with
  | .sync | .pdelayResp => s.num .ptpPort inPort 4 * 65536
  | .delayReq | .pdelayReq => -(s.num .ptpPort out 4 * 65536)
  | _ => 0

/-- The correction added to a forwarded message, in 2^−16 ns (R197, R198): the residence time, the delay asymmetry, and under the
peer-to-peer profile the ingress port's mean link delay. -/
def residence (s : State) (o : OutFrame) (out sub : Nat) (k : PtpKind) : Int :=
  let own := (egressNs s out sub - (o.rxNs - portLatency s o.inPort 5)) * 65536 + asymmetry s o.inPort out k
  if s.nat .clock 0 2 = 1 ∧ k = .sync then own + s.num .ptpPort o.inPort 3 else own

/-- A PTP event message of the hub's own gets its egress timestamp as it leaves (R198 to R200): a Sync carries it, a Pdelay_Resp its
turnaround, and the clock keeps that of a request. -/
def stampOwn (s : State) (p sub : Nat) (o : OutFrame) : State × Frame :=
  match o.frame.content with
  | .ptp m =>
    let ts := egressNs s p sub
    let put := fun (m : PtpMsg) => { o.frame with content := .ptp m }
    match m.kind with
    | .sync => (s, put { m with time := ts })
    | .delayReq => (s.modClk (fun c => { c with reqT := some ts }), put { m with corr := m.corr + asymmetry s p p .delayReq })
    | .pdelayReq =>
      (s.modClk (fun c => { c with pdelay := c.pdelay.modify p (fun d => { d with t1 := some ts }) }),
        put { m with corr := m.corr + asymmetry s p p .pdelayReq })
    | .pdelayResp => (s, put { m with corr := m.corr + (ts - o.rxNs) * 65536 })
    | _ => (s, o.frame)
  | _ => (s, o.frame)

/-- EGRESS_TRANSMIT (R483): a port sends its next waiting frame, by strict class priority. -/
def execEgressTransmit (out : Egress) (s : State) : Host.Outcome State Fault Refusal :=
  match nextFrame (s.port out.port) with
  | some (c, o, r) =>
    if c = 0 ∧ o.own = false then .next s
    else
      let (s, f) := stampOwn s out.port out.sub o
      .next (putOnWire s out.port c o r f)
  | none => .next s

/-- A Follow_Up of a two-step Sync whose residence time is kept for it (R196). -/
def Resid.for (m : PtpMsg) (out : Nat) (r : Resid) : Bool :=
  m.kind == .followUp && r.sender == m.sender && r.domain == m.domain && r.seq == m.seq && r.out == out

/-- What the transparent clock makes of a PTP message that leaves a port (R196, R197, R202, R216): the residence time goes onto a
message that the profile has corrected, where PTP is enabled on both ports and the ingress link's delay is known, and of a two-step
Sync onto its Follow_Up. A message so corrected counts at the port by which it leaves (DESIGN CHOICE, log 107). -/
def correctPtp (s : State) (p sub : Nat) (o : OutFrame) (m : PtpMsg) : State × PtpMsg :=
  let on := s.nat .ptpPort p 1 == 1 && s.nat .ptpPort o.inPort 1 == 1 && correctedKind s m.kind &&
    (s.nat .clock 0 2 == 0 || s.clk.linkOk.getD o.inPort false)
  let r := residence s o p sub m.kind
  if on && m.kind == .sync && m.twoStep then
    (s.modClk (fun c => { c with resid := lastN 64 (c.resid ++ [⟨m.sender, m.domain, m.seq, p, r⟩]) }), m)
  else if on then (s.bump .ptpPort p 8 1, { m with corr := m.corr + r })
  else match s.clk.resid.find? (Resid.for m p) with
    | some k =>
      ((s.bump .ptpPort p 8 1).modClk (fun c => { c with resid := c.resid.erase k }), { m with corr := m.corr + k.corr })
    | none => (s, m)

/-- PTP_FORWARD (R196, R197, R202, R216): the next waiting frame of a port, a forwarded PTP message, leaves it as the transparent
clock corrects it. -/
def execPtpForward (out : Egress) (s : State) : Host.Outcome State Fault Refusal :=
  match nextFrame (s.port out.port) with
  | some (c, o, r) =>
    match o.frame.content with
    | .ptp m =>
      if o.own then .next s
      else
        let (s, m) := correctPtp s out.port out.sub o m
        .next (putOnWire s out.port c o r { o.frame with content := .ptp m })
    | _ => .next s
  | none => .next s

end Sys2Proof.Machine
end

