-- ==== Sys2Proof/Machine/Time.lean ====
section
/-! DEFINITION. Network time, the grid, time-pulse outputs, captures and SLATE requests
(spec/06_sample_grid_and_time.md). -/

namespace Sys2Proof.Machine

open Sys2Proof

/-- A fresh free value is drawn. -/
def State.draw (s : State) : State := { s with free := s.free + 1 }

/-- A time-pulse output with nothing scheduled. -/
def TpoSt.idle : TpoSt := { next := none, pulse := none, lead := 0, fired := 0, rearm := false }

/-- Output p. -/
def State.tpo (s : State) (p : Nat) : TpoSt := Sparse.get s.tpos p TpoSt.idle

/-- Output p changed. -/
def State.modTpo (s : State) (p : Nat) (f : TpoSt → TpoSt) : State :=
  { s with tpos := Sparse.store s.tpos p (f (s.tpo p)) TpoSt.idle }

/-- Start, period and width of an output in its timebase: grid ticks or ns (R217). -/
def tpoPlan (s : State) (p : Nat) : Nat × Nat × Nat :=
  if s.nat .tpo p 2 = 0 then (s.nat .tpo p 4, s.nat .tpo p 5, s.nat .tpo p 6)
  else (s.nat .tpo p 7, s.nat .tpo p 8, s.nat .tpo p 9)

/-- The first whole unit of an output's timebase that is not yet past at the start of this cycle (R219): a grid tick, or a
nanosecond of the local clock. -/
def tpoNow (s : State) (p : Nat) : Int :=
  if s.nat .tpo p 2 = 0 then s.now else s.clk.local_.ceil % (1000000000 * 2 ^ 48)

/-- The place in this cycle, as a share of it, of the instant at which a timebase reaches a time (R219): the start of its tick in grid
time, and in PTP time where the local clock reaches it; 0 for a time already past. -/
def tpoPlace (s : State) (tb : Nat) (e : Int) : Rat :=
  if tb = 0 then max 0 ((e - s.now : Int) : Rat) else max 0 (((e : Rat) - s.clk.local_) / localStep s)

/-- The leading edge of instance i (R218). -/
def tpoEdge (s : State) (p i : Nat) : Nat := let (a, b, _) := tpoPlan s p; a + i * b

/-- The first instance whose leading edge is not before `t`. -/
def tpoFirst (s : State) (p : Nat) (t : Int) : Nat :=
  let (a, b, _) := tpoPlan s p
  if t ≤ a then 0 else ceilDiv (t - a).toNat b

/-- Instances of an output are late: counted, with one event (R218, R220). -/
def tpoLate (s : State) (p n : Nat) : State := if n = 0 then s else raise (s.bump .tpo p 13 n) 49 1 p

/-- The definition of an output applies from now on: its instances are scheduled afresh; an instance of mode 1 that is already due
counts as late (R218). Every write to an output in mode 1 arms it, one that has fired among them, and every write starts the count
of the pulse limit afresh (DESIGN CHOICE, log 108). -/
def tpoSchedule (s : State) (p : Nat) : State :=
  let t := tpoNow s p
  match s.nat .tpo p 1 with
  | 0 => s.modTpo p (fun x => { x with next := none, fired := 0 })
  | 1 =>
    if t ≤ tpoEdge s p 0 then s.modTpo p (fun x => { x with next := some 0, fired := 0 })
    else tpoLate (s.modTpo p (fun x => { x with next := none, fired := 0 })) p 1
  | _ => s.modTpo p (fun x => { x with next := some (tpoFirst s p t), fired := 0 })

/-- A write to an output takes effect at the current tick (R218); between the edges of a pulse it waits for the end of the pulse
(R221). -/
def tpoArm (s : State) (p : Nat) : State :=
  if (s.tpo p).pulse = none then tpoSchedule s p else s.modTpo p (fun x => { x with next := none, rearm := true })

/-- The instance after `i`, by mode and pulse limit (R217): when the limit is reached the mode becomes 0. -/
def tpoAfter (s : State) (p i : Nat) : State :=
  let lim := s.nat .tpo p 10
  if s.nat .tpo p 1 ≠ 2 then s.modTpo p (fun x => { x with next := none })
  else if lim ≠ 0 ∧ lim ≤ (s.tpo p).fired then (s.setNum .tpo p 1 0).modTpo p (fun x => { x with next := none })
  else s.modTpo p (fun x => { x with next := some (i + 1) })

/-- TPO_LEADING_EDGE (R218 to R221): the leading edge of the next instance falls due in this cycle: it fires, or the lock gate
suppresses it, which counts as late with no event. Edges are those at the ball; the output's own delay is taken off before it. -/
def execTpoLeadingEdge (p : Nat) (s : State) : Host.Outcome State Fault Refusal :=
  match (s.tpo p).next with
  | some i =>
    let at_ := tpoPlace s (s.nat .tpo p 2) (tpoEdge s p i)
    if p < 8 ∧ at_ < 1 ∧ (s.tpo p).pulse = none then
      let g := s.nat .grid 0 2
      if s.nat .tpo p 11 = 1 ∧ (g = 1 ∨ g = 4 ∨ g = 5) then .next (tpoAfter (s.bump .tpo p 13 1) p i)
      else
        let (_, _, w) := tpoPlan s p
        let s := raise (s.bump .tpo p 12 1) (32 + p) 1 (i % 2 ^ 32)
        let s := s.modTpo p (fun x =>
          { x with pulse := some (((tpoEdge s p i + w : Nat) : Int), s.nat .tpo p 2, s.nat .tpo p 3),
                   lead := (s.now : Rat) + at_, fired := x.fired + 1 })
        .next (tpoAfter s p i)
    else .next s
  | none => .next s

/-- TPO_TRAILING_EDGE (R219 to R221): the pulse ends in the cycle in which its programmed time is reached, and in PTP time never
within 100 ns of its leading edge; a write that waited for it applies. -/
def execTpoTrailingEdge (p : Nat) (s : State) : Host.Outcome State Fault Refusal :=
  match (s.tpo p).pulse with
  | some (e, tb, _) =>
    let least := (s.tpo p).lead + 100 / localStep s
    if tpoPlace s tb e < 1 ∧ (tb = 0 ∨ least < (s.now : Rat) + 1) then
      let s' := s.modTpo p (fun x => { x with pulse := none, rearm := false })
      .next (if (s.tpo p).rearm then tpoSchedule s' p else s')
    else .next s
  | none => .next s

/-- The level that a time-pulse output drives (R217): idle, or active during a pulse. -/
def tpoLevel (s : State) (p : Nat) : Bool :=
  match (s.tpo p).pulse with
  | some (_, _, pol) => pol == 0
  | none => s.nat .tpo p 3 == 1

/-- The local clock is stepped by n ns: counted and raised; outputs in PTP time lose the instances inside a forward step
(R204, R207, R220). -/
def stepClock (s : State) (n : Int) : State :=
  let before := s.localNs
  let s := (markClock s).modClk (fun c => { c with local_ := c.local_ + (n : Rat) })
  let us := clampI (-2147483648) 2147483647 (roundHalfAway n 1000)
  let s := raise (s.bump .localClock 0 10 1) 52 1 (wrapU 32 us).toNat
  if n ≤ 0 then s
  else (List.range 8).foldl (fun s p =>
    match (s.tpo p).next with
    | some i =>
      if s.nat .tpo p 2 = 1 ∧ s.nat .tpo p 1 ≠ 0 then
        let j := tpoFirst s p (before + n)
        let lost := if s.nat .tpo p 1 = 2 then j - i else if i < j then 1 else 0
        if lost = 0 then s
        else
          let s := tpoLate s p lost
          s.modTpo p (fun x => { x with next := if s.nat .tpo p 1 = 2 then some j else none })
      else s
    | none => s) s

/-- A step written by a user (R204, R205). -/
def stepWrite (s : State) (n : Int) : State × Code :=
  if s.nat .localClock 0 3 = 1 ∧ s.nat .localClock 0 4 = 1 ∧ s.clk.stepDone = false then
    ((stepClock s n).modClk (fun c => { c with stepDone := true }), .success)
  else (s, .outOfRange)

/-- The increment written by a user (R204, R205). -/
def incrementWrite (s : State) (v : Int) : State × Code :=
  if s.nat .localClock 0 3 = 1 ∧ s.nat .localClock 0 4 = 0 then ((markClock s).setNum .localClock 0 2 v, .success)
  else (s, .outOfRange)

/-- A rate adjustment takes effect (R204). -/
def setRate (s : State) (r : Int) : State := ((markClock s).setNum .localClock 0 6 r).setNum .localClock 0 2 (rateIncrement r)

/-- A rate adjustment written by a user (R204, R205). -/
def rateWrite (s : State) (r : Int) : State × Code :=
  if s.nat .localClock 0 3 = 1 ∧ s.nat .localClock 0 4 = 1 then (setRate s r, .success) else (s, .outOfRange)

/-- The correction mode changes; an entry into mode 1 permits one step (R204). -/
def setMode (s : State) (m : Nat) : State :=
  let entry := m = 1 ∧ s.nat .localClock 0 4 ≠ 1
  let s := s.setNum .localClock 0 4 m
  if entry then s.modClk (fun c => { c with stepDone := false }) else s

/-- The servo enters mode 1, steps the local clock by the negated offset, and converges (R206). -/
def servoStep (s : State) (offset : Int) : State :=
  let s := stepClock (setMode s 1) (-offset)
  (s.setNum .localClock 0 14 2).modClk (fun c => { c with stepDone := true, overN := 0, started := true })

/-- The firmware servo acts on an offset from the master (R205, R206): it steps, converges or writes the increment. What it
writes is a free value. While a user owns the servo its state follows the offset: tracking within 1 µs, converging outside
(DESIGN CHOICE, log 109). A start-up whose first Sync comes after a holdover still steps. -/
def servoSync (s : State) (offset : Int) : State :=
  let st := s.nat .localClock 0 14
  let mine := s.nat .localClock 0 3 == 0
  let small := decide (-1000 < offset) && decide (offset < 1000)
  let s := if st = 4 then
      s.setNum .localClock 0 14 (if s.nat .localClock 0 4 = 0 then 3 else 2) else s
  if !mine then (s.setNum .localClock 0 14 (if small then 3 else 2)).modClk (fun c => { c with started := true })
  else if st = 0 ∨ st = 1 ∨ s.clk.started = false then servoStep s offset
  else if s.nat .localClock 0 4 = 1 then
    if small then (setMode s 0).setNum .localClock 0 14 3
    else (setRate s (clampI (-100000000) 100000000 (Config.servoRate s.free).toInt)).draw
  else
    let far := decide (s.num .localClock 0 9 < offset) || decide (offset < -(s.num .localClock 0 9))
    let n := if far then s.clk.overN + 1 else 0
    if 3 ≤ n then servoStep s offset
    else (((markClock s).modClk (fun c => { c with overN := n })).setNum .localClock 0 2 (Config.servoIncrement s.free).toNat).draw

/-- An Announce is better than another (R196, the standard's data set comparison over priority1, class, accuracy, variance,
priority2, identity and stepsRemoved). -/
def announceKey (a : PtpAnnounce) : List Nat :=
  [a.priority1, a.clockClass, a.accuracy, a.variance, a.priority2, a.gm, a.steps, a.sender]

/-- Lexicographic order on keys. -/
def lexLt : List Nat → List Nat → Bool
  | a :: as, b :: bs => decide (a < b) || (a == b && lexLt as bs)
  | _, _ => false

/-- The best of the Announce messages held (R196). -/
def bestMaster (l : List (PtpAnnounce × Nat)) : Option PtpAnnounce :=
  l.foldl (fun b x => match b with
    | none => some x.1
    | some y => if lexLt (announceKey x.1) (announceKey y) then some x.1 else some y) none

/-- The first of the PTP messages waiting at a port that `p` names: its place, its frame and the message. -/
def inboxPtp (s : State) (port : Nat) (p : PtpMsg → Bool) : Option (Nat × Rx × PtpMsg) :=
  s.net.inbox.zipIdx.findSome? (fun (r, i) => match r.frame.content with
    | .ptp m => if r.port = port ∧ p m = true then some (i, r, m) else none
    | _ => none)

/-- A Sync or Follow_Up of a domain and a sender, with its origin time in ns and its correctionField. -/
def syncNamed (domain sender : Nat) (origin corr : Int) (m : PtpMsg) : Bool :=
  (m.kind == .sync || m.kind == .followUp) && m.domain == domain && m.sender == sender && m.time == origin && m.corr == corr

/-- An Announce of a domain with its content. -/
def announceNamed (domain : Nat) (a : PtpAnnounce) (m : PtpMsg) : Bool :=
  m.kind == .announce && m.domain == domain && m.announce == some a

/-- A Delay_Resp with its receipt time in ns and its correctionField. -/
def delayRespNamed (receipt corr : Int) (m : PtpMsg) : Bool :=
  m.kind == .delayResp && m.time == receipt && m.corr == corr

/-- The master that the best master clock algorithm selects, of those whose Announce has not timed out (R196). -/
def ptpMaster (s : State) : Option PtpAnnounce :=
  bestMaster (s.clk.masters.filter (fun m => decide (s.now < m.2 + s.nat .clock 0 11 * logTicks (s.num .clock 0 8))))

/-- A Sync is complete, with its Follow_Up where it is of two steps: receipt at t2, origin t1 and correction in 2^−16 ns. The servo
acts on the offset, unless no path delay is known on the port (R198, R206, R207, R215, R216). -/
def syncTake (s : State) (port : Nat) (t2 origin corr : Int) : State :=
  let p2p := s.nat .clock 0 2 = 1
  if p2p ∧ s.clk.linkOk.getD port false = false then s
  else
    let t1 := origin + corr / 65536
    let s := s.modClk (fun c => { c with syncT := some (t1, t2), lastSync := s.now, hadMaster := true })
    if !p2p && !s.clk.pathOk then s
    else
      let offset := t2 - t1 - (if p2p then 0 else s.num .localClock 0 8)
      servoSync (s.setNum .localClock 0 7 offset) offset

/-- PTP_SYNC_RECEIVED (R196, R198, R199, R206, R207, R215, R216): the ordinary clock takes the waiting Sync, or the Follow_Up
of a two-step Sync, that its operands name, from its master at its upstream port. -/
def execPtpSyncReceived (port domain sender : Nat) (origin corr : Int) (s : State) : Host.Outcome State Fault Refusal :=
  match inboxPtp s port (syncNamed domain sender origin corr) with
  | some (i, rx, m) =>
    let p := rx.port
    let s := dropInbox s i
    if p ≠ ptpUpstream s ∨ (ptpMaster s).map (·.sender) ≠ some m.sender then .next s
    else if m.kind = .sync then
      let s := s.bump .ptpPort p 7 1
      let t2 := ingressNs s p rx.tick rx.frame.sub
      let link := if s.nat .clock 0 2 = 1 then s.num .ptpPort p 3 else 0
      let corr := m.corr + asymmetry s p p .sync + link
      if m.twoStep then .next (s.modClk (fun c => { c with twoStep := some (m.seq, t2, corr) }))
      else .next (syncTake s p t2 m.time corr)
    else
      match s.clk.twoStep with
      | some (seq, t2, corr) =>
        if seq = m.seq then .next (syncTake (s.modClk (fun c => { c with twoStep := none })) p t2 m.time (corr + m.corr))
        else .next s
      | none => .next s
  | none => .next s

/-- ANNOUNCE_RECEIVED (R196, R206, R207): the ordinary clock takes the waiting Announce that its operands name, from its upstream
port, and selects the master. From the first selection the time without a Sync counts. -/
def execAnnounceReceived (port domain : Nat) (a : PtpAnnounce) (s : State) : Host.Outcome State Fault Refusal :=
  match inboxPtp s port (announceNamed domain a) with
  | some (i, rx, _) =>
    let s := dropInbox s i
    if rx.port ≠ ptpUpstream s then .next s
    else
      let life := s.nat .clock 0 11 * logTicks (s.num .clock 0 8)
      let l := (s.clk.masters.filter (fun m => !(m.1.sender == a.sender) && decide (s.now < m.2 + life))) ++ [(a, s.now)]
      let s := s.modClk (fun c => { c with masters := l, lastAnnounce := s.now })
      match bestMaster l with
      | some b =>
        let s := (s.setNum .localClock 0 11 rx.port).setNum .localClock 0 12 b.gm
        let s := s.setNum .localClock 0 13 b.utcOffset
        .next (if s.nat .localClock 0 14 = 0 then
            (s.setNum .localClock 0 14 1).modClk (fun c => { c with lastSync := s.now })
          else s)
      | none => .next s
  | none => .next s

/-- DELAY_REQ_SEND (R199, R201): under the end-to-end profile the ordinary clock sends Delay_Req on its upstream port, at
its interval. -/
def execDelayReqSend (s : State) : Host.Outcome State Fault Refusal :=
  let up := ptpUpstream s
  if s.nat .clock 0 2 = 0 ∧ s.has .ptpPort up ∧ s.nat .ptpPort up 1 = 1 ∧ portReady s up = true ∧
      s.clk.syncT.isSome = true ∧ s.clk.lastReq + logTicks (s.num .clock 0 9) ≤ s.now then
    let n := (s.clk.reqSeq + 1) % 65536
    .next (sendPtp (s.modClk (fun c => { c with reqT := none, reqSeq := n, lastReq := s.now })) up 0 (ownPtp s up .delayReq n))
  else .next s

/-- DELAY_RESP_RECEIVED (R215): the waiting Delay_Resp that its operands name answers this clock's Delay_Req and completes the
exchange on the upstream port. -/
def execDelayRespReceived (port : Nat) (receipt corr : Int) (s : State) : Host.Outcome State Fault Refusal :=
  match inboxPtp s port (delayRespNamed receipt corr) with
  | some (i, rx, m) =>
    let s := dropInbox s i
    match s.clk.syncT, s.clk.reqT with
    | some (t1, t2), some t3 =>
      if s.nat .clock 0 2 = 0 ∧ rx.port = ptpUpstream s ∧ m.asker = s.nat .clock 0 6 ∧ m.seq = s.clk.reqSeq then
        let d := roundHalfAway ((t2 - t1) + (m.time - t3 - m.corr / 65536)) 2
        .next ((s.setNum .localClock 0 8 d).modClk (fun c => { c with reqT := none, pathOk := true }))
      else .next s
    | _, _ => .next s
  | none => .next s

/-- The Pdelay record of a port changed. -/
def modPdelay (s : State) (p : Nat) (f : Pdelay → Pdelay) : State := s.modClk (fun c => { c with pdelay := c.pdelay.modify p f })

/-- The mean link delay of a port has been measured, in 2^−16 ns (R199, R215, R216). -/
def linkMeasured (s : State) (p : Nat) (delay : Int) : State :=
  let up := ptpUpstream s
  (modPdelay (s.setNum .ptpPort p 3 delay) p (fun d => { d with t1 := none, resp := none })).modClk (fun c =>
    { c with linkOk := c.linkOk.set p true, pathOk := c.pathOk || p == up })

/-- A Pdelay message at a port is acted on: a request is answered, and a response completes the exchange, with its follow-up where it
is of two steps (R196, R199). -/
def pdelayTake (s : State) (p : Nat) (rx : Rx) (m : PtpMsg) : State :=
  let ts := ingressNs s p rx.tick rx.frame.sub
  let d := s.clk.pdelay.getD p ⟨0, 0, none, none⟩
  let mine := m.asker == s.nat .clock 0 6 && m.seq == d.seq
  match m.kind, d.t1, d.resp with
  | .pdelayReq, _, _ => sendPtp s p ts { ownPtp s p .pdelayResp m.seq with corr := m.corr, asker := m.sender }
  | .pdelayResp, some t1, _ =>
    let corr := m.corr + asymmetry s p p .pdelayResp
    if !mine then s
    else if m.twoStep then modPdelay s p (fun d => { d with resp := some (ts, m.time, corr) })
    else linkMeasured s p (roundHalfAway ((ts - t1) * 65536 - corr) 2)
  | .pdelayRespFollowUp, some t1, some (t4, t2, corr) =>
    if mine then linkMeasured s p (roundHalfAway ((t4 - t1 - (m.time - t2)) * 65536 - corr - m.corr) 2) else s
  | _, _, _ => s

/-- The first Pdelay message that waits at a port: its place, its frame and the message. -/
def inboxPdelay (s : State) (port : Nat) : Option (Nat × Rx × PtpMsg) :=
  s.net.inbox.zipIdx.findSome? (fun (r, i) => match r.frame.content with
    | .ptp m => if r.port = port ∧ (m.kind = .pdelayReq ∨ m.kind = .pdelayResp ∨ m.kind = .pdelayRespFollowUp) then some (i, r, m)
        else none
    | _ => none)

/-- PDELAY_MEASUREMENT (R199, R201, R216): under the peer-to-peer profile a port's link delay is measured by Pdelay exchanges: at
the interval a Pdelay_Req is sent (`ask`), and the next Pdelay message that waits at the port is acted on. -/
def execPdelayMeasurement (port : Nat) (ask : Bool) (s : State) : Host.Outcome State Fault Refusal :=
  if s.nat .clock 0 2 = 1 ∧ s.has .ptpPort port ∧ s.nat .ptpPort port 1 = 1 ∧
      (s.nat .link port 3 = 1 ∨ s.nat .link port 3 = 2) then
    if ask then
      let d := s.clk.pdelay.getD port ⟨0, 0, none, none⟩
      if d.last + logTicks (s.num .clock 0 10) ≤ s.now then
        let n := (d.seq + 1) % 65536
        .next (sendPtp (modPdelay s port (fun _ => ⟨n, s.now, none, none⟩)) port 0 (ownPtp s port .pdelayReq n))
      else .next s
    else
      match inboxPdelay s port with
      | some (i, rx, m) => .next (pdelayTake (dropInbox s i) port rx m)
      | none => .next s
  else .next s

/-- The clockClass that a ring grandmaster announces (R200). -/
def gmClass (s : State) : Nat :=
  if s.nat .localClock 0 14 = 3 ∧ s.nat .localClock 0 11 = 2 then 6 else if s.clk.hadMaster then 7 else 248

/-- GRANDMASTER_SYNC_SEND (R200, R201): a manager in the ring-grandmaster role sends Sync and Announce on ports A and B,
each at its interval. A Sync takes the local clock's time as it leaves. -/
def execGrandmasterSyncSend (s : State) : Host.Outcome State Fault Refusal :=
  if s.isManager ∧ s.nat .clock 0 3 = 1 then
    let both := fun (s : State) (m : PtpMsg) =>
      let one := fun (s : State) (p : Nat) => if s.nat .ptpPort p 1 = 1 then sendPtp s p 0 m else s
      one (one s 0) 1
    let n := (s.clk.syncSeq + 1) % 65536
    let k := (s.clk.annSeq + 1) % 65536
    let s := if s.clk.lastGmSync + logTicks (s.num .clock 0 7) ≤ s.now then
        (both s (ownPtp s 0 .sync n)).modClk (fun c => { c with lastGmSync := s.now, syncSeq := n }) else s
    let a : PtpAnnounce := { sender := s.nat .clock 0 6, priority1 := s.nat .clock 0 4, clockClass := gmClass s,
                             accuracy := Config.gmAccuracy.toNat, variance := Config.gmVariance.toNat, priority2 := s.nat .clock 0 5,
                             gm := s.nat .clock 0 6, steps := 0, utcOffset := s.num .localClock 0 13 }
    .next (if s.clk.lastGmAnnounce + logTicks (s.num .clock 0 8) ≤ s.now then
        (both s { ownPtp s 0 .announce k with announce := some a }).modClk (fun c => { c with lastGmAnnounce := s.now, annSeq := k })
      else s)
  else .next s

/-- SYNC_TIMEOUT (R206): no Sync for 3 sync intervals: holdover. -/
def execSyncTimeout (s : State) : Host.Outcome State Fault Refusal :=
  if s.clk.lastSync + 3 * logTicks (s.num .clock 0 7) ≤ s.now then .next (servoHold s) else .next s

/-- ANNOUNCE_RECEIPT_TIMEOUT (R206, R207): holdover; no master is left. -/
def execAnnounceReceiptTimeout (s : State) : Host.Outcome State Fault Refusal :=
  if s.clk.lastAnnounce + s.nat .clock 0 11 * logTicks (s.num .clock 0 8) ≤ s.now then
    .next (((servoHold s).setNum .localClock 0 11 255).modClk (fun c => { c with masters := [] }))
  else .next s

/-- GRID_EVALUATION (R208, R210, R212): once at each multiple of 24,576 the error is measured, the DCO offset is set and at
most one transition is made; an anchor is made due. -/
def execGridEvaluation (s : State) : Host.Outcome State Fault Refusal :=
  if s.now % 24576 = 0 ∧ s.clk.evalAt ≠ some s.now then
    let e := gridError s
    let g := s.nat .grid 0 2
    let lim := s.num .grid 0 5
    let sv := s.nat .localClock 0 14
    let s := (s.setNum .grid 0 3 e).modClk (fun c => { c with evalAt := some s.now })
    let s := (markClock s).setNum .grid 0 13 (if g = 0 then 0 else clampI (-lim) lim e)
    let big := decide (s.num .grid 0 11 < e) || decide (e < -(s.num .grid 0 11))
    let s := if big && !s.clk.beyond then raise s 53 2 0 else s
    let s := s.modClk (fun c => { c with beyond := big })
    let near := decide (e < s.num .grid 0 4) && decide (-(s.num .grid 0 4) < e)
    let byE := if near then 2 else 1
    if s.clk.moved = some s.now then .next s
    else
      match g with
      | 0 => .next (if (sv = 2 ∨ sv = 3) ∧ s.clk.anchorDue = none then s.modClk (fun c => { c with anchorDue := some 0 })
          else s)
      | 1 =>
        .next (if !hasMaster s then gridTo s 4 s.now else if near && (sv == 2 || sv == 3) then gridTo s 2 s.now else s)
      | 2 =>
        .next (if !hasMaster s then (gridTo s 3 s.now).modClk (fun c => { c with graceFrom := s.now })
          else if !near then gridTo s 1 s.now else s)
      | _ => .next (if sv = 3 then gridTo s byE s.now else s)
  else .next s

/-- HOLDOVER_GRACE_EXPIRY (R210): at an evaluation tick after the one that entered HOLDOVER the grace has passed:
DRIFTING. -/
def execHoldoverGraceExpiry (s : State) : Host.Outcome State Fault Refusal :=
  if s.nat .grid 0 2 = 3 ∧ s.now % 24576 = 0 ∧ s.clk.graceFrom < s.now ∧ s.clk.moved ≠ some s.now ∧
      s.nat .localClock 0 14 ≠ 3 ∧ s.clk.graceFrom + msTicks (s.nat .grid 0 6) ≤ s.now then
    .next (gridTo s 4 s.now)
  else .next s

/-- FREE_RUN_TIMEOUT (R210): the free-run timeout passes with no master: the grid is to be anchored to the local clock in
FREERUN, at the next integer second. -/
def execFreeRunTimeout (s : State) : Host.Outcome State Fault Refusal :=
  if s.nat .grid 0 2 = 0 ∧ s.nat .grid 0 7 ≠ 0 ∧ hasMaster s = false ∧ s.clk.anchorDue = none ∧
      s.clk.aloneFrom + msTicks (s.nat .grid 0 7) ≤ s.now then
    .next (s.modClk (fun c => { c with anchorDue := some 1 }))
  else .next s

/-- The grid is anchored and no re-anchor is in progress (R225). -/
def anchored (s : State) : Bool := s.nat .grid 0 2 != 0 && s.clk.anchorDue.isNone

/-- The re-anchor command (R213). -/
def reanchorWrite (s : State) : State × Code :=
  let g := s.nat .grid 0 2
  if g = 1 ∨ g = 4 ∨ g = 5 then (s.modClk (fun c => { c with reanchorCmd := some s.now }), .success)
  else (s, .outOfRange)

/-- A SLATE request that names tick t (R225). -/
def slateRequest (s : State) (t : Nat) : State × Code :=
  if anchored s ∧ s.now + s.nat .slate 0 4 ≤ t then
    (s.modClk (fun c => { c with slates := if c.slates.contains t then c.slates else c.slates ++ [t] }), .success)
  else (raise (s.bump .slate 0 8 1) 55 2 0, .tooLate)

/-- The SLATE command to a worker (R227, R497). -/
def sendSlate (s : State) (j : JoinRec) (t : Nat) : State :=
  sendKmp s j.port j.mac { ty := 0x09, ident := j.ident, ses := 0, flags := 0, tid := t % 65536, status := 0,
                           body := leBytes 8 t }

/-- The positions of the worker table that hold an identity. -/
def listedWorkers (s : State) : List Nat := ((List.range 62).map (· + 1)).filter (fun p => s.nat .workers 0 p != 0)

/-- A manager issues an accepted SLATE to its zone: every listed worker that it reaches is sent the command (R227). -/
def zoneIssue (s : State) (t : Nat) : State :=
  let s := (s.setNum .zoneSlate 0 2 1).setNum .zoneSlate 0 3 t
  let s := s.modClk (fun c => { c with zones := c.zones.filter (fun z => z.1 != t) ++ [(t, 1)] })
  (listedWorkers s).foldl (fun s p =>
    match (freshJoins s).find? (fun j => j.ident == s.nat .workers 0 p) with
    | some j => sendSlate s j t
    | none => s) s

/-- A zone SLATE request (R227). -/
def zoneSlate (s : State) (t : Nat) : State × Code :=
  let (s, c) := slateRequest s t
  if c = .success then (zoneIssue s t, c) else (s, c)

/-- SLATE_BALL_EDGE (R226): a rising edge captured at the moment `edge` has passed the 25-tick filter: it
requests a SLATE at the first multiple of the alignment at least the lead time later, and on a manager with zone propagation for
the zone. -/
def execSlateBallEdge (edge : Moment) (s : State) : Host.Outcome State Fault Refusal :=
  if s.nat .slate 0 2 = 1 ∧ edge.tick + 25 ≤ s.now then
    let t := ceilTo (s.nat .slate 0 3) (edge.tick + b2n (edge.sub % 65536 != 0) + s.nat .slate 0 4)
    if anchored s then
      let s := s.modClk (fun c => { c with slates := if c.slates.contains t then c.slates else c.slates ++ [t] })
      .next (if s.isManager ∧ s.nat .slate 0 5 = 1 then zoneIssue s t else s)
    else .next (raise (s.bump .slate 0 8 1) 55 2 0)
  else .next s

/-- SLATE_CONFIRM (R227): a worker's answer to the zone SLATE of a tick sets its bit for that SLATE; the object shows the mask of the
last zone SLATE. -/
def execSlateConfirm (pos : Nat) (answer : SlateAnswer) (s : State) : Host.Outcome State Fault Refusal :=
  if s.isManager ∧ 1 ≤ pos ∧ pos ≤ 62 ∧ answer.accepted = true then
    let s := s.modClk (fun c => { c with zones := c.zones.map (fun z => if z.1 = answer.tick then (z.1, setBit z.2 pos) else z) })
    .next (if answer.tick = s.nat .zoneSlate 0 3 then s.setNum .zoneSlate 0 2 (setBit (s.nat .zoneSlate 0 2) pos : Nat) else s)
  else .next s

/-- A capture unit with nothing captured. -/
def CapSt.init : CapSt := { unread := false, prog := 0 }

/-- A capture by unit u at `sub`/65,536 of the cycle of grid tick t (R222 to R224). -/
def captureAt (s : State) (u t sub edge : Nat) : State :=
  let c := Sparse.get s.caps u CapSt.init
  let s := if c.unread then s.bump .capture u 7 1 else s
  let s := ((s.setNum .capture u 3 (localAt s t sub)).setNum .capture u 4 t).setNum .capture u 5 edge
  { s.bump .capture u 6 1 with caps := Sparse.store s.caps u { unread := true, prog := 0 } CapSt.init }

/-- A read of a capture entry: the procedure of R224 goes on, and a complete one marks the capture read. -/
def captureRead (s : State) (u sub : Nat) : State :=
  let c := Sparse.get s.caps u CapSt.init
  let put := fun (c : CapSt) => { s with caps := Sparse.store s.caps u c CapSt.init }
  if sub = 6 then (if c.prog = 15 then put { unread := false, prog := 1 } else put { c with prog := 1 })
  else if 3 ≤ sub ∧ sub ≤ 5 ∧ bit c.prog 0 then put { c with prog := setBit c.prog (sub - 2) }
  else s

end Sys2Proof.Machine
end

