-- ==== Sys2Proof/Machine/Filter.lean ====
section
/-! DEFINITION. The filter chain's settings (spec/05_filter_chain.md): legality, coefficient sets, how a change reaches a
running chain, decimation switches, cross-fades and threshold crossings. -/

namespace Sys2Proof.Machine

open Sys2Proof

/-- Why a write is denied: its status code, and the count that rises with it (1 FIR load, 2 reduction load, 3 partition). -/
abbrev Deny := Code × Nat

/-- The FIR load of a channel in taps per second (R167). -/
def firLoadOf (s : State) (ch : Nat) : Nat :=
  let x := decW (s.nat .chFilter ch 1)
  (s.taps (s.nat .chFilter ch 4) + s.taps (s.nat .chFilter ch 5)) * (6144000 / (x.pf * x.f))

/-- The FIR load of the hub (R167). -/
def firLoad (s : State) : Nat := (s.allChans.map (firLoadOf s)).foldl (· + ·) 0

/-- The multiplier of a channel in the configuration (R175). -/
def cfgM (s : State) (ch : Nat) : Int :=
  let u := s.useInit ch
  multiplier (decW u.dw) u.shifts u.gCal u.gUsr

/-- The offset of a channel in the configuration (R175). -/
def cfgA (s : State) (ch : Nat) : Int := let u := s.useInit ch; offsetA u.oCal u.gUsr u.oUsr

/-- The conditions of R162 on one channel, in the table's order. -/
def chainLegal (s : State) (ch : Nat) : Option Code :=
  let w := s.nat .chFilter ch 1
  if !decLegal w then some .outOfRange
  else if !decMode w (s.nat .refPower (cellOfCh ch) 2) then some .notRoutable
  else if !gainLegal (cfgM s ch) (cfgA s ch) then some .outOfRange
  else none

/-- The channel numbers of a take's members list (R266). -/
def takeMembers (s : State) (t : Nat) : List Nat := u16s (s.bytes .take t 2)

/-- The takes whose mode is not 0 and that have a channel as a member. -/
def memberOf (s : State) (ch : Nat) : List Nat :=
  (List.range 16).filter (fun t => s.nat .take t 1 != 0 && (takeMembers s t).contains ch)

/-- The banks of present channels that name a coefficient set, effective or staged (R165); a chain that still uses a set, or is about
to, names it too while a change of its bank reference waits (R168, R191). -/
def setRefs (s : State) (set : Nat) : Nat :=
  let staged := s.allStaged.filter (fun w => w.obj == .chFilter && (w.sub == 4 || w.sub == 5) && w.num == (set : Int))
  let used := fun (ch b : Nat) => match Sparse.find s.chans ch with
    | some c => (if b = 0 then c.use.bankA else c.use.bankB) == set || c.refWait.contains (b, set) ||
        c.sched.any (fun e => e.field = .bankRef b && e.val = (set : Int))
    | none => false
  let one := fun (ch sub : Nat) =>
    b2n (s.nat .chFilter ch sub == set || staged.any (fun w => w.u == ch && w.sub == sub) || used ch (sub - 4))
  (s.allChans.map (fun ch => one ch 4 + one ch 5)).foldl (· + ·) 0

/-- A list of coefficients is within the range of R165. -/
def coefsLegal (bs : Bytes) : Bool :=
  (chunks 4 bs).all (fun b => !outside (-8388608) 8388607 (toSigned 32 (leNat b)))

/-- The checks of a write to a coefficient set (R165, R166); `s` before, `cfg` with the write applied. -/
def coefCheck (s cfg : State) (set sub : Nat) : Option Code :=
  if setRefs s set ≠ 0 then some .inUse
  else if sub = 2 ∧ ((cfg.bytes .coefSet set 2).length ≠ 4 * s.taps set ∨ coefsLegal (cfg.bytes .coefSet set 2) = false)
  then some .outOfRange
  else none

/-- A tap count written to a set truncates its coefficients or extends them with zeros (R165). -/
def setTaps (s : State) (set n : Nat) : State :=
  (s.setNum .coefSet set 1 n).setBytes .coefSet set 2 (padTo (4 * n) (s.bytes .coefSet set 2))

/-- The bank that is active in a channel now (R168): a change that waits for a decimation switch has not made its bank active yet
(R191). -/
def activeBank (s : State) (ch : Nat) : Nat :=
  match Sparse.find s.chans ch with
  | some c => (c.useAt s.now).active
  | none => s.nat .chFilter ch 6

/-- The checks of a staged write to a channel's records 1 and 2, or to a cell's power mode (R113, R162, R168, R268): `old` is
the effective configuration before the write or its set, `cfg` the one to look at. -/
def filterCheck (old cfg : State) (receipt : Bool) (o : Obj) (u sub : Nat) : Option Deny :=
  let legal : Option Deny :=
    match chainLegal cfg u with
    | some c => some (c, 0)
    | none => if 6000000000 < firLoad cfg then some (.procBudget, 1) else none
  match o with
  | .chFilter =>
    match legal with
    | some d => some d
    | none =>
      if sub = 1 ∧ memberOf old u ≠ [] ∧ memberOf cfg u ≠ [] then some (.inUse, 0)
      else if (sub = 4 ∨ sub = 5) ∧ (activeBank old u = sub - 4 ∨
          (receipt = true ∧ cfg.nat .chFilter u 6 ≠ old.nat .chFilter u 6 ∧ cfg.nat .chFilter u 6 = sub - 4)) then some (.inUse, 0)
      else none
  | .chCorr => legal
  | .chFront => if sub = 7 then legal else none
  | .refPower =>
    if sub = 2 ∧ (chansOf u).any (fun n => !decMode (cfg.nat .chFilter n 1) (cfg.nat .refPower u 2)) = true
    then some (.notRoutable, 0) else none
  | _ => none

/-- The settings of a channel that differ between two configurations, in the order in which they take effect together
(R168): bank references before the active bank. -/
def chainDiff (old s : State) (ch : Nat) : List (ChField × Int) :=
  let a := old.useInit ch
  let b := s.useInit ch
  let one := fun (f : ChField) (x y : Int) => if x = y then [] else [(f, y)]
  let cmp := fun (i : Nat) =>
    let c := old.cmpInit ch i
    let d := s.cmpInit ch i
    one (.cmpMode i) c.mode d.mode ++ one (.cmpLevel i) c.level d.level ++ one (.cmpHyst i) c.hyst d.hyst ++
      one (.cmpDwell i) c.dwell d.dwell ++ one (.cmpBlock i) c.block d.block
  one .dec a.dw b.dw ++ (List.range 7).flatMap (fun i => one (.shift i) (a.shifts.getD i 0) (b.shifts.getD i 0)) ++
    one (.bankRef 0) a.bankA b.bankA ++ one (.bankRef 1) a.bankB b.bankB ++ one .fadeLen a.fadeLen b.fadeLen ++ one .floor a.floor b.floor ++
    one .active a.active b.active ++ one .skewD a.d b.d ++ one .gUsr a.gUsr b.gUsr ++ one .oUsr a.oUsr b.oUsr ++
    one .gCal a.gCal b.gCal ++ one .oCal a.oCal b.oCal ++ cmp 0 ++ cmp 1

/-- The switch tick of a change from D to D' that takes effect at t (R190). -/
def switchTick (d d' t : Nat) : Nat := ceilTo (4 * Nat.lcm d d') t

/-- The decimation word with which the chain computes after tick t (R190): a switch at or before t counts. -/
def Chan.dwAt (c : Chan) (t : Nat) : Nat :=
  c.sched.foldl (fun w e => if e.field = .dec ∧ e.tick ≤ t then e.val.toNat else w) c.use.dw

/-- The pending decimation switch after tick t: its tick and word (R190). -/
def Chan.pendingAt (c : Chan) (t : Nat) : Option (Nat × Nat) :=
  c.sched.findSome? (fun e => if e.field = .dec ∧ t < e.tick then some (e.tick, e.val.toNat) else none)

/-- Changes of one channel that take effect together at tick t (R189 to R191). A newer value of a setting takes the place of one that
still waits for a switch. -/
def chainChange (c : Chan) (t : Nat) (cs : List (ChField × Int)) : Chan :=
  match cs.find? (fun p => p.1 = .dec) with
  | none =>
    let newer := fun (e : Sched) => e.atSwitch && decide (t < e.tick) && cs.any (fun p => decide (p.1 = e.field))
    { c with sched := c.sched.filter (fun e => !newer e) ++ cs.map (fun p => ⟨t, p.1, p.2, false⟩) }
  | some (_, w) =>
    let use := c.dwAt t
    let kept := c.sched.filter (fun e => !(e.atSwitch && decide (t < e.tick)))
    let held := (c.sched.filter (fun e => e.atSwitch && decide (t < e.tick) && !(decide (e.field = .dec)))).map
      (fun e => (e.field, e.val))
    let rest := held ++ cs.filter (fun p => !(decide (p.1 = .dec)))
    if w = (use : Int) then { c with sched := kept ++ rest.map (fun p => ⟨t, p.1, p.2, false⟩) }
    else
      let tx := switchTick (decW use).D (decW w.toNat).D t
      { c with sched := kept ++ ⟨tx, .dec, w, true⟩ :: rest.map (fun p => ⟨tx, p.1, p.2, true⟩) }

/-- The channels' settings changed at tick t: `old` before, `s` after. -/
def chainTouch (old s : State) (t ch : Nat) : State :=
  match chainDiff old s ch with
  | [] => s
  | cs =>
    let c := (Sparse.find s.chans ch).getD (old.chan ch)
    s.putChan ch (chainChange c t cs)

/-- The set that a bank in use names. -/
def ChUse.bank (u : ChUse) (b : Nat) : Nat := if b = 0 then u.bankA else u.bankB

/-- A change of the active bank starts its fade at the next sample, or waits behind the running one (R169, R171). `j` FIR outputs
that feed that sample have been made already. -/
def Chan.toBank (c : Chan) (j b : Nat) : Chan :=
  if c.fade.isSome ∨ c.fadeWait ≠ [] then { c with fadeWait := c.fadeWait ++ [b] }
  else if b = c.use.active then c
  else
    { c with fade := some ⟨j, c.use.fadeLen * (decW c.use.dw).b, c.use.active, b, c.use.fadeLen⟩,
             use := { c.use with active := b } }

/-- The fade has ended: waiting bank references apply, and the oldest waiting change starts its own fade (R168, R169,
R171). -/
def Chan.endFade (c : Chan) : Chan :=
  let c := { c with fade := none, use := c.refWait.foldl (fun (u : ChUse) (p : Nat × Nat) => u.putBank p.1 p.2) c.use, refWait := [] }
  match c.fadeWait with
  | [] => c
  | b :: bs =>
    let c := { c with fadeWait := [] }.toBank 0 b
    { c with fadeWait := bs }

/-- The running fade is ended early at a switch or a SLATE: every change of the active bank that took effect by then, those behind
the fade and then `acts`, switches directly (R171). -/
def Chan.cutFade (c : Chan) (acts : List Nat) : Chan :=
  if c.fade.isNone then c
  else
    let u := c.refWait.foldl (fun (u : ChUse) (p : Nat × Nat) => u.putBank p.1 p.2) c.use
    { c with fade := none, fadeWait := [], refWait := [], use := { u with active := (c.fadeWait ++ acts).getLast?.getD u.active } }

/-- The span of a chain with decimation fields `x`, N taps and no skew, in half periods of 6.144 MHz (R179 with μ = 0). -/
def chainTwice (x : DecW) (n : Nat) : Nat :=
  5 * (x.c - 1) + 6 * x.c * x.e1 + 10 * x.c * 2 ^ x.e1 * x.e2 + (n - 1) * x.pf + (x.b - 1) * (x.pf * x.f) + 2 * x.D

/-- The delay K of a channel whose chain has the settings `u`, in millionths of a grid tick (R278). -/
def delayOf (s : State) (ch : Nat) (u : ChUse) : Nat :=
  2 * chainTwice (decW u.dw) (s.taps (u.bank u.active)) * 1000000 + 24576 * (u.d + s.nat .chCal ch 17)

/-- The settings of a chain at tick t, where a switch at that very tick applies only to the samples after it (R189, R190). -/
def Chan.useBy (c : Chan) (t : Nat) : ChUse :=
  c.useAt (if c.sched.any (fun e => e.atSwitch && decide (e.tick = t)) then t - 1 else t)

/-- The delay K of a channel at tick t, in millionths of a grid tick (R278): what changes it counts from the tick at which it takes
effect, however late the occurrence that asks is looked at (R297). -/
def delayK (s : State) (ch t : Nat) : Nat :=
  let c := s.chan ch
  if c.delays.all (fun p => decide (p.1 ≤ t)) then delayOf s ch (c.useBy t)
  else histAt c.delays t ((c.delays.getLast?.map (·.2)).getD 0)

/-- The delay K that holds from tick t on is kept. -/
def noteDelay (s : State) (ch t k : Nat) : State :=
  s.modChan ch (fun c =>
    let h := if c.delays = [] then [(0, delayOf s ch c.use)] else c.delays
    match h with
    | (t0, k0) :: rest =>
      { c with delays := if k0 = k then h else if t ≤ t0 then (t0, k) :: rest else ((t, k) :: h).take 32 }
    | [] => c)

/-- The delays of the changes that the sample of grid time g makes take effect are kept, each with its tick. -/
def noteDelays (s : State) (ch g : Nat) : State :=
  let ts := (((s.chan ch).sched.filter (fun e => !e.atSwitch && decide (e.tick ≤ g))).map (·.tick)).dedup.insertionSort (· ≤ ·)
  ts.foldl (fun s t => noteDelay s ch t (delayOf s ch ((s.chan ch).useBy t))) s

/-- Comparator i of a channel. -/
def Chan.cmp (c : Chan) (i : Nat) : Cmp := if i = 0 then c.cmp0 else c.cmp1

/-- Comparator i of a channel replaced. -/
def Chan.putCmp (c : Chan) (i : Nat) (x : Cmp) : Chan := if i = 0 then { c with cmp0 := x } else { c with cmp1 := x }

/-- One waiting change applies to the chain (R188, R189); a change of the active bank has its own rules (R169, R191). -/
def Chan.apply (c : Chan) (e : Sched) : Chan :=
  let v := e.val.toNat
  let cmp := fun (i : Nat) (f : Cmp → Cmp) => c.putCmp i { f (c.cmp i) with run := 0 }
  match e.field with
  | .dec => c
  | .bankRef b =>
    if c.fade.isSome then { c with refWait := c.refWait ++ [(b, v)] } else { c with use := c.use.putBank b v }
  | .cmpMode i => cmp i (fun x => { x with mode := v, active := x.active && decide (x.mode ≠ 0) && decide (v ≠ 0) })
  | .cmpLevel i => cmp i (fun x => { x with level := e.val })
  | .cmpHyst i => cmp i (fun x => { x with hyst := v })
  | .cmpDwell i => cmp i (fun x => { x with dwell := v })
  | .cmpBlock i => cmp i (fun x => { x with block := v })
  | f => { c with use := c.use.put f e.val }

/-- The comparators become inactive without a crossing at grid time g (R190, R192). -/
def Chan.resetCmps (c : Chan) (g : Nat) : Chan :=
  { c with cmp0 := c.cmp0.reset, cmp1 := c.cmp1.reset,
           cmpHist := ((g, 0, false) :: (g, 1, false) :: c.cmpHist).take 64 }

/-- SET on n samples of a chain from the one of grid time g on (R173, R189, R192). -/
def Chan.setRun (c : Chan) (g n : Nat) : Chan :=
  if n = 0 then c
  else { c with flags := c.flags ++ [⟨fSET, .timed, g, some (g + 4 * (decW c.use.dw).D * (n - 1) + 1)⟩] }

/-- The index of the first sample of a chain at a decimation word, after a clear or a switch: the first that needs no word but those
still to be taken (R157, R190). -/
def Chan.firstK (c : Chan) (w : Nat) : Nat :=
  match c.nextM with
  | some m => ceilDiv m (decW w).D
  | none => 0

/-- The chain of a channel switches its decimation at tick t (R189 to R191). -/
def decSwitch (s : State) (ch t w : Nat) : State :=
  let s := (spoilResync s).modChan ch (fun c =>
    let c := (c.cutFade []).resetCmps t
    let now := c.sched.filter (fun e => e.atSwitch && decide (e.tick = t))
    let c := { c with hist := c.hist.clearFrom (decW c.use.dw) (decW w),
                      sched := c.sched.filter (fun e => !(e.atSwitch && decide (e.tick = t))),
                      nextK := c.firstK w, last := none, use := { c.use with dw := w } }
    let c := now.foldl (fun c e => if e.field = .active then { c with use := c.use.put .active e.val } else c.apply e) c
    c.setRun (t + 4 * (decW w).D) (s.settleLenOf c.use))
  noteDelay s ch (t + 1) (delayOf s ch (s.chan ch).use)

/-- A switch of a chain is due: its tick has come, and the last sample at the old settings has been emitted. -/
def switchDue (s : State) (ch : Nat) : Option (Nat × Nat) :=
  let c := s.chan ch
  c.sched.findSome? (fun e =>
    if e.field = .dec ∧ e.atSwitch = true ∧ e.tick ≤ s.now ∧ (c.nextM = none ∨ e.tick < 4 * (decW c.use.dw).D * c.nextK)
    then some (e.tick, e.val.toNat) else none)

/-- The comparator states that the objects show become 0 (R190, R192). -/
def showCmps (s : State) (ch : Nat) : State := (s.setNum .chThresh ch 6 0).setNum .chThresh ch 13 0

/-- The fade of a channel has ended (R168, R169, R171). -/
def fadeDone (s : State) (ch : Nat) : State :=
  let t := (s.chan ch).fadeEnd
  let s := s.modChan ch Chan.endFade
  noteDelay s ch t (delayOf s ch (s.chan ch).use)

/-- CROSS_FADE_END (R168, R169, R171): once the F samples of the fade have been emitted only the new bank runs. -/
def execCrossFadeEnd (ch : Nat) (s : State) : Host.Outcome State Fault Refusal :=
  match (s.chan ch).fade with
  | some f => if f.left = 0 ∧ ch < Config.channels s.variant then .next (fadeDone s ch) else .next s
  | none => .next s

end Sys2Proof.Machine
end

