-- ==== Sys2Proof/Machine/Takes.lean ====
section
/-! DEFINITION. Takes and triggers (spec/08_takes_and_triggers.md): definitions, occurrences, trigger points, rushes rings,
fills, the capture region and its records. -/

namespace Sys2Proof.Machine

open Sys2Proof

/-- A take as after reset. -/
def TakeSt.init : TakeSt :=
  { hist := [], armAt := none, fromIdle := true, starts := [], stops := [], seen := [], waits := [],
    armWait := false, timeNext := none, fill := none, lastFillEnd := 0, slack := 0, missed := 0, seq := 0 }

/-- Take t. -/
def State.take (s : State) (t : Nat) : TakeSt := Sparse.get s.takes t TakeSt.init

/-- Take t changed. -/
def State.modTake (s : State) (t : Nat) (f : TakeSt → TakeSt) : State :=
  { s with takes := Sparse.store s.takes t (f (s.take t)) TakeSt.init }

/-- The state of take t (R282). -/
def takeState (s : State) (t : Nat) : Nat := s.nat .takeStat t 1

/-- Take t goes to a state at a tick (R282). A fill end that lies before the trigger tick, as behind a long dwell, ends the
state FILLING at the trigger tick, from which R283 counts it. -/
def takeTo (s : State) (t st tick : Nat) : State :=
  (s.setNum .takeStat t 1 st).modTake t (fun k =>
    { k with hist := ((max tick ((k.hist.head?.map (·.1)).getD 0), st) :: k.hist).take 64 })

/-- Every event of the take engine. -/
abbrev evTriggered : Nat := 56
/-- Every event of the take engine. -/
abbrev evMissed : Nat := 57
/-- Every event of the take engine. -/
abbrev evTruncated : Nat := 58

/-- round(64 · K / D) at tick t (R276, R279). -/
def delayUnits (s : State) (ch d t : Nat) : Int := roundHalfAway (64 * delayK s ch t) (1000000 * d)

/-- The trigger point P_in of an occurrence on the sample grid of decimation d (R276). -/
def trigPoint (s : State) (d tick : Nat) : OccKind → Int
  | .crossing ch _ _ pos dn => roundHalfAway (pos * dn) d - delayUnits s ch d tick
  | .edge _ _ ns e => roundHalfAway (64 * 24576 * (ns - e)) (1000000 * d)
  | _ => roundHalfAway (64 * tick) d

/-- An occurrence comes from a source that R31 does not cover (R292, ASYN). -/
def OccKind.asyn : OccKind → Bool
  | .edge _ _ _ _ => true
  | .network => true
  | .event _ => true
  | _ => false

/-- The selector names the occurrence (R269). -/
def selMatches (sel : Nat) (k : OccKind) : Bool :=
  let cls := sel / 4096
  match k with
  | .crossing ch cmp active _ _ =>
    cls == 1 && sel % 512 == ch && bits sel 9 9 == cmp && (if active then bit sel 10 else bit sel 11)
  | .edge i rising _ _ => cls == 2 && sel % 16 == i && (if rising then bit sel 4 else bit sel 5)
  | .time => cls == 3
  | .network => cls == 4
  | .slate => cls == 5
  | .event src => cls == 6 && sel % 128 == src

/-- A source selector is well formed (R269). -/
def selOk (v : Variant) (sel : Nat) : Bool :=
  match sel / 4096 with
  | 0 => sel == 0
  | 1 => bits sel 11 10 != 0 && decide (sel % 512 < Config.channels v)
  | 2 => bits sel 11 6 == 0 && bits sel 5 4 != 0
  | 3 => sel % 4096 == 0
  | 4 => sel % 4096 == 0
  | 5 => sel % 4096 == 0
  | 6 => bits sel 11 7 == 0 && decide (sel % 128 < 96)
  | _ => false

/-- A gate selector is well formed (R273). -/
def gateOk (v : Variant) (sel : Nat) : Bool :=
  match sel / 4096 with
  | 0 => sel == 0
  | 1 => !bit sel 11 && decide (sel % 512 < Config.channels v)
  | 2 => bits sel 11 5 == 0
  | 3 => sel % 4096 == 0
  | _ => false

/-- The channels that are members of a take whose mode is not 0 (R280), in a configuration. -/
def ringChans (s : State) : List Nat := s.allChans.filter (fun ch => memberOf s ch != [])

/-- The rushes rings of a configuration fit the partition in use (R281). -/
def ringsFit (s cfg : State) : Bool :=
  decide ((ringChans cfg).length * cfg.nat .takeMem 0 1 * 4 ≤ s.takeMem.rushesMb * 1048576)

/-- The next start-up's partitions fit the DRAM (R374). -/
def partitionsFit (cfg : State) : Bool :=
  decide ((cfg.nat .takeMem 0 2 + cfg.nat .takeMem 0 3 + cfg.nat .partitions 0 1 + cfg.nat .partitions 0 2 + 16) * 1048576
    ≤ Config.dramBytes cfg.variant)

/-- The rules of R267 on take t, in a configuration. -/
def takeLegal (s cfg : State) (t : Nat) : Option Deny :=
  let ms := takeMembers cfg t
  let on := cfg.nat .take t 1 != 0
  let ds := ms.map (fun ch => (decW (cfg.nat .chFilter ch 1)).D)
  if ms.any (fun ch => decide (Config.channels cfg.variant ≤ ch)) || !(decide ms.Nodup) then some (.notRoutable, 0)
  else if (cfg.bytes .take t 2).length % 2 ≠ 0 ∨ 64 < ms.length then some (.outOfRange, 0)
  else if on && ms.isEmpty then some (.outOfRange, 0)
  else if on && ds.any (fun d => d != ds.headD 0) then some (.outOfRange, 0)
  else if cfg.nat .takeMem 0 1 ≤ cfg.nat .take t 3 then some (.outOfRange, 0)
  else if ([5, 6, 7, 8, 10].any (fun i => !selOk cfg.variant (cfg.nat .take t i))) || !gateOk cfg.variant (cfg.nat .take t 9) ||
      cfg.nat .take t 10 / 4096 == 3 then some (.outOfRange, 0)
  else if on && [5, 6, 7, 8].all (fun i => cfg.nat .take t i == 0) then some (.outOfRange, 0)
  else if !ringsFit s cfg then some (.outOfRange, 0)
  else none

/-- The checks of a write to a take definition, an arm command or the take engine's memory (R267, R271, R281, R295,
R374). -/
def takeCheck (s cfg : State) (receipt : Bool) (o : Obj) (u sub : Nat) : Option Deny :=
  match o with
  | .take =>
    if receipt && sub == 12 && cfg.nat .take u 12 != 0 && decide (cfg.nat .take u 12 < 24576) then some (.outOfRange, 0)
    else takeLegal s cfg u
  | .takeMem =>
    if sub = 1 then
      let d := cfg.nat .takeMem 0 1
      if d < 1024 ∨ 4194304 < d ∨ d &&& (d - 1) ≠ 0 then some (.outOfRange, 0)
      else if (List.range 16).any (fun t => cfg.nat .take t 1 != 0) then some (.inUse, 0)
      else none
    else if (sub = 2 ∨ sub = 3) ∧ receipt = true ∧ partitionsFit cfg = false then some (.outOfRange, 0)
    else none
  | _ => none

/-- An occurrence reaches the take engine: every take with a start source or a stop source that it matches holds it, and
occurrences with equal trigger ticks make one trigger, of the lowest-numbered source (R274, R275). `only` names the one
take that a time or network source belongs to. -/
def deliver (s : State) (k : OccKind) (tick : Nat) (only : Option Nat) : State :=
  (List.range 16).foldl (fun s t =>
    if only.isSome && !(only == some t) then s
    else
      let s := match (List.range 4).find? (fun i => selMatches (s.nat .take t (5 + i)) k) with
        | some i =>
          let o : Occ := ⟨i, s.nat .take t (5 + i), tick, k⟩
          s.modTake t (fun x =>
            if x.starts.any (fun y => y.tick == tick) then
              { x with starts := x.starts.map (fun y => if y.tick == tick && decide (i < y.idx) then o else y) }
            else { x with starts := x.starts ++ [o] })
        | none => s
      if s.nat .take t 10 ≠ 0 ∧ selMatches (s.nat .take t 10) k = true then
        s.modTake t (fun x => { x with stops := x.stops ++ [⟨0, s.nat .take t 10, tick, k⟩] })
      else s) s

/-- A network trigger (R272). -/
def netTrigger (s : State) (t v : Nat) : State := deliver s .network (if v < s.now then s.now else v) (some t)

/-- The oldest crossing found on a channel's comparator takes effect: the state, the count, the event, and the take engine
(R187). -/
def crossPerform (s : State) (ch : Nat) (x : Crossing) : State :=
  let base := 7 * x.cmp
  let g := 4 * x.dn * x.confirm
  let s := (s.setNum .chThresh ch (base + 6) (b2n x.active)).bump .chThresh ch (base + 7) 1
  let s := raiseChan s ch (40 + x.cmp) (if x.active then 1 else 2) g
  deliver s (.crossing ch x.cmp x.active x.pos x.dn) g none

/-- Every crossing still waiting takes effect, in order. -/
def crossSettle (s : State) (ch : Nat) : State :=
  let xs := (s.chan ch).crossings
  if xs.isEmpty then s
  else xs.foldl (fun s x => crossPerform s ch x) (s.modChan ch (fun c => { c with crossings := [] }))

/-- THRESHOLD_CROSSING (R187): the oldest crossing that the comparator's run completed takes effect. -/
def execThresholdCrossing (ch cmp : Nat) (s : State) : Host.Outcome State Fault Refusal :=
  match (s.chan ch).crossings with
  | x :: xs =>
    if x.cmp = cmp then .next (crossPerform (s.modChan ch (fun c => { c with crossings := xs })) ch x) else .next s
  | [] => .next s

/-- The rushes ring of a channel starts empty for samples after a tick (R280). -/
def ringStart (s : State) (ch tick : Nat) : State := { s with rings := Sparse.put s.rings ch ⟨tick, []⟩ }

/-- The rings of a configuration: channels that became members at tick t get an empty ring, the others lose theirs
(R280). -/
def ringsUpdate (s : State) (t : Nat) : State :=
  let want := ringChans s
  let s := { s with rings := s.rings.filter (fun p => want.contains p.1) }
  let s := want.foldl (fun s ch => if (Sparse.find s.rings ch).isSome then s else ringStart s ch t) s
  s.setNum .takeMem 0 11 want.length

/-- The samples of a channel's ring. -/
def ringOf (s : State) (ch : Nat) : List Samp := ((Sparse.find s.rings ch).map (·.samples)).getD []

/-- The total decimation of a take's members. -/
def takeD (s : State) (t : Nat) : Nat :=
  match takeMembers s t with
  | ch :: _ => (decW (s.nat .chFilter ch 1)).D
  | [] => 1

/-- The first time-source instance after tick t (R271). -/
def timeAfter (s : State) (t tick : Nat) : Option Nat :=
  let a := s.nat .take t 11
  let p := s.nat .take t 12
  if tick < a then some 0
  else if p = 0 then none
  else some ((tick - a) / p + 1)

/-- Take t becomes ARMED at a tick. -/
def takeArmed (s : State) (t tick : Nat) : State :=
  (takeTo s t 1 tick).modTake t (fun k => { k with armAt := none })

/-- Take t leaves OFF or DONE at a tick (R268, R282): it becomes ARMED, at the latest decimation switch pending on a member
when there is one. -/
def takeArm (s : State) (t tick : Nat) : State :=
  let ms := takeMembers s t
  let late := ms.filterMap (fun ch => ((s.chan ch).pendingAt tick).map (·.1))
  let s := s.modTake t (fun k => { k with fromIdle := true, slack := 0 })
  if late = [] then takeArmed s t tick
  else
    let tx := late.foldl max tick
    (ms.foldl (fun s ch => ringStart s ch tx) s).modTake t (fun k => { k with armAt := some tx })

/-- What follows when the definition of take t has changed at a tick; `old` is the mode before (R268, R271, R280, R282). -/
def takeChanged (s : State) (t old tick : Nat) : State :=
  let st := takeState s t
  let s := ringsUpdate s tick
  let s := s.modTake t (fun k => { k with timeNext := timeAfter s t tick })
  let mode := s.nat .take t 1
  if mode = 0 then (if st = 1 ∨ st = 5 then takeTo s t 0 tick else s).modTake t (fun k => { k with armAt := none })
  else if st = 0 then (if old = 0 then takeArm s t tick else s)
  else if st = 5 ∧ mode = 2 ∧ old ≠ 2 then takeArm s t tick
  else s

/-- Writes to the definition of take t, which their group's check has passed, take effect at a tick (R282, R289). -/
def takeApply (s : State) (t : Nat) (ws : List Wr) (tick : Nat) : State :=
  let s' := ws.foldl (fun s w => noteRetained s w.obj w.u w.sub) (s.withWrites ws)
  takeChanged s' t (s.nat .take t 1) tick

/-- Writes to the definition of take t take effect at the end of a wait, where they are checked (R57, R267, R289): together, alone
or with what waits for other takes; else each that would break a rule is discarded. -/
def takeLate (s : State) (t : Nat) (ws : List Wr) (tick : Nat) : State :=
  let note := fun (s : State) (w : Wr) => noteRetained s w.obj w.u w.sub
  let together := s.withWrites ws
  let others := (List.range 16).flatMap (fun u => (s.take u).waits.map (·.2.2))
  if (takeLegal s together t).isNone ∨ (takeLegal s (together.withWrites others) t).isNone then takeApply s t ws tick
  else
    takeChanged (ws.foldl (fun s w => let s' := s.withWrites [w]; if (takeLegal s s' t).isNone then note s' w else s) s) t
      (s.nat .take t 1) tick

/-- Take t is in a state in which writes to its definition wait (R289). -/
def takeWaits (s : State) (t : Nat) : Bool := let st := takeState s t; st == 2 || st == 3 || st == 4

/-- Staged writes of a session to the definition of take t reach their effective tick (R289); `imm` says that they were made in
immediate mode. -/
def takeWrites (s : State) (ses : Nat) (imm : Bool) (t : Nat) (ws : List Wr) (tick : Nat) : State :=
  if takeWaits s t then s.modTake t (fun k => { k with waits := k.waits ++ ws.map (fun w => (ses, imm, w)) })
  else takeApply s t ws tick

/-- The arm command of take t takes effect (R295). -/
def takeArmCmd (s : State) (t tick : Nat) : State :=
  let st := takeState s t
  if s.nat .take t 1 ≠ 1 then s
  else if st = 5 then takeArm s t tick
  else if st = 2 ∨ st = 3 then s.modTake t (fun k => { k with armWait := true })
  else s

/-- TIME_SOURCE_INSTANCE (R271): the next instance tick of a take's time source is reached. -/
def execTimeSourceInstance (t : Nat) (s : State) : Host.Outcome State Fault Refusal :=
  match (s.take t).timeNext with
  | some i =>
    let g := s.nat .take t 11 + i * s.nat .take t 12
    if t < 16 ∧ g ≤ s.now then
      let next := if s.nat .take t 12 = 0 then none else some (i + 1)
      .next (deliver (s.modTake t (fun k => { k with timeNext := next })) .time g (some t))
    else .next s
  | none => .next s

/-- An input is stuck at a tick (R264). -/
def stuckAt (s : State) (i t : Nat) : Bool :=
  match Sparse.find s.dins i with
  | some d => d.stuck.any (fun p => decide (p.1 ≤ t) && (match p.2 with | none => true | some e => decide (t ≤ e)))
  | none => false

/-- The filtered level of an input at a tick (R262). -/
def levelAt (s : State) (i t : Nat) : Bool :=
  match Sparse.find s.dins i with
  | some d => histAt d.levels t false
  | none => false

/-- The gate of take t is met at a tick (R273). -/
def gateMet (s : State) (t tick : Nat) : Bool :=
  let sel := s.nat .take t 9
  match sel / 4096 with
  | 1 =>
    let h := ((s.chan (sel % 512)).cmpHist.filter (fun p => p.2.1 == bits sel 9 9)).map (fun p => (p.1, p.2.2))
    histAt h tick false == bit sel 10
  | 2 => levelAt s (sel % 16) tick == bit sel 4 && !stuckAt s (sel % 16) tick
  | 3 => histAt s.clk.stHist tick 0 == 2
  | _ => true

/-- The size of the capture region in use, in bytes (R290). -/
def regionSize (s : State) : Nat := s.takeMem.captureMb * 1048576

/-- The memory record of the take engine changed. -/
def State.modMem (s : State) (f : TakeMem → TakeMem) : State := { s with takeMem := f s.takeMem }

/-- Where a record of `occ` bytes, a multiple of 64, is placed (R290): its offset, and the pad before it. -/
def regionPlace (s : State) (occ : Nat) : Option (Nat × Nat) :=
  let h := s.takeMem.head
  let r := s.nat .takeMem 0 6
  let z := regionSize s
  if r ≤ h then
    if h + occ ≤ z ∧ 64 ≤ z - (h + occ) + r then some (h, 0)
    else if occ + 64 ≤ r then some (0, z - h)
    else none
  else if h + occ + 64 ≤ r then some (h, 0)
  else none

/-- The longest contiguous space that a record can take now (R281 subindex 0x08). -/
def largestRun (s : State) : Nat :=
  let h := s.takeMem.head
  let r := s.nat .takeMem 0 6
  let z := regionSize s
  if r ≤ h then max (if 64 ≤ r then z - h else z - h + r - 64) (r - 64) / 64 * 64 else (r - h - 64) / 64 * 64

/-- The bytes of a record with its CRC-32C appended. -/
def withCrc (b : Bytes) : Bytes := b ++ leBytes 4 (crc32c b)

/-- Bytes are stored in the capture region from an offset on. -/
def regionStore (m : List Host.Cell) : Nat → Bytes → List Host.Cell
  | _, [] => m
  | a, b :: bs => regionStore (Sparse.store m a b 0) (a + 1) bs

/-- The byte at an offset of the capture region. Bytes that nothing has written read 0. -/
def regionLoad (s : State) (a : Nat) : Byte := Sparse.get s.takeMem.bytes a 0

/-- The write offset passes every complete record at the front (R290). -/
def regionAdvance : Nat → State → State
  | 0, s => s
  | n + 1, s =>
    match s.takeMem.places with
    | p :: ps =>
      if p.done then
        let s := (s.modMem (fun m => { m with places := ps })).bump .takeMem 0 7 1
        regionAdvance n (s.setNum .takeMem 0 5 ((p.offset + p.span) % regionSize s : Nat))
      else s
    | [] => s

/-- The write offset passes every complete record at the front. -/
def advance (s : State) : State := regionAdvance s.takeMem.places.length s

/-- Space is reserved at a place found by `regionPlace`, behind its pad record (R290, R291). -/
def regionReserve (s : State) (at_ pad occ take : Nat) : State :=
  let s := if pad = 0 then s
    else
      let h := s.takeMem.head
      s.modMem (fun m => { m with places := m.places ++ [⟨h, pad, true, 16⟩],
                                  bytes := regionStore m.bytes h (leBytes 2 3 ++ leBytes 2 1 ++ leBytes 4 pad) })
  s.modMem (fun m => { m with places := m.places ++ [⟨at_, occ, false, take⟩], head := (at_ + occ) % regionSize s })

/-- The missed-trigger record of R294. -/
def missedRecord (t cause sel tick : Nat) (p : Int) : Bytes :=
  withCrc (leBytes 2 2 ++ leBytes 2 1 ++ leBytes 4 32 ++ leBytes 1 t ++ leBytes 1 cause ++ leBytes 2 sel ++ leBytes 8 tick ++
    leBytes 8 (wrapU 64 p).toNat)

/-- A trigger is missed (R283, R287, R294). -/
def takeMiss (s : State) (t cause : Nat) (o : Occ) (p : Int) : State :=
  let s := (s.bump .takeStat t 7 1).setNum .takeStat t 9 o.tick
  let s := (raise s evMissed cause t).modTake t (fun k => { k with missed := k.missed + 1 })
  match regionPlace s 64 with
  | some (a, pad) =>
    let s := regionReserve s a pad 64 16
    let s := s.modMem (fun m => { m with
      bytes := regionStore m.bytes a (missedRecord t cause o.sel o.tick p),
      places := m.places.map (fun q => if q.offset = a ∧ q.span = 64 then { q with done := true } else q) })
    advance s
  | none => s.bump .takeMem 0 9 1

/-- The first and the newest index held in a channel's ring; a ring that is still empty holds from the first sample after its
start on (R280). -/
def ringSpan (s : State) (d ch : Nat) : Int × Int :=
  match ringOf s ch with
  | [] =>
    let first : Int := (((Sparse.find s.rings ch).map (·.after_)).getD s.now / (4 * d) + 1 : Nat)
    (first, first - 1)
  | new :: rest => ((((new :: rest).getLast?.map (·.k)).getD new.k : Nat), new.k)

/-- What R284 looks at for one member: the trigger sample, with the delay of the trigger tick, and the two counts that its ring
bounds. -/
def memberHeld (s : State) (d : Nat) (p : Int) (tick ch : Nat) : Int × Int × Int :=
  let kt := -((-(p + delayUnits s ch d tick)) / 256)
  let depth := s.nat .takeMem 0 1
  let r := ringSpan s d ch
  (kt, kt - r.1, kt - (r.2 - depth + 1 + (depth / 8 : Nat)))

/-- A trigger is accepted: the fill begins (R283, R284, R287). -/
def takeFill (s : State) (t : Nat) (o : Occ) (p : Int) (kts : List Int) (ph sr at_ pad : Nat) : State :=
  let ms := takeMembers s t
  let nPre := s.nat .take t 3
  let k := s.take t
  let f : Fill :=
    { tick := o.tick, sel := o.sel, pIn := p, asyn := o.kind.asyn, d := takeD s t, members := ms, kt := kts, nPre := nPre,
      nPost := s.nat .take t 4, held := ph, stopSel := s.nat .take t 10, slots := sr, slack := k.slack,
      missed := k.missed, offset := at_, stop := none, stopAt := 0, since := s.now, copied := ms.map (fun _ => []), tide := none, anch := false,
      post := 0, fillEnd := none, maxLen := false }
  let s := regionReserve s at_ pad (ceilTo 64 (100 + ms.length * (16 + 4 * sr))) t
  let s := if ph < nPre then s.bump .takeStat t 6 1 else s
  let s := raise (s.setNum .takeStat t 10 o.tick) evTriggered 1 t
  (takeTo s t 2 o.tick).modTake t (fun x => { x with fill := some f })

/-- The record of take t has become a compare unit (R389): its content stands. -/
def recordFormed (s : State) (t : Nat) : Bool :=
  s.cust.units.any (fun u => match u.body with | .take n => n == t | _ => false)

/-- A further occurrence of a trigger that take t has accepted: the trigger records the selector of the lowest-numbered start
source among them (R274). -/
def takeJoin (s : State) (t : Nat) (o : Occ) : State :=
  match (s.take t).fill with
  | some f =>
    if f.tick = o.tick ∧ recordFormed s t = false ∧
        o.idx < ((List.range 4).find? (fun i => s.nat .take t (5 + i) == f.sel)).getD 4 then
      s.modTake t (fun k => { k with fill := some { f with sel := o.sel } })
    else s
  | none => s

/-- The engine considers a trigger occurrence of take t (R273, R274, R283, R284, R287). `st` is the state at the trigger tick,
`left` the one in which that state ended: an ARMED that ended in FILLING accepted a later trigger, and one that ended in OFF
leaves nothing to trigger. -/
def takeConsider (s : State) (t : Nat) (o : Occ) : State :=
  let k := s.take t
  let st := histAt k.hist o.tick 0
  let left := (k.hist.filter (fun p => decide (o.tick < p.1))).getLast?.map (·.2)
  let d := takeD s t
  let p := trigPoint s d o.tick o.kind
  if k.seen.contains o.tick then takeJoin s t o
  else
    let s := s.modTake t (fun x => { x with seen := (o.tick :: x.seen).take 64 })
    if st = 0 ∨ st = 5 then s
    else if !gateMet s t o.tick then s.bump .takeStat t 8 1
    else if st ≠ 1 then takeMiss s t 1 o p
    else if left = some 2 then takeMiss s t 3 o p
    else if left.isSome then s
    else
      let hs := (takeMembers s t).map (memberHeld s d p o.tick)
      if hs.any (fun h => decide (h.2.1 < 0) || decide (h.2.2 < 0)) then takeMiss s t 4 o p
      else
        let nPre := s.nat .take t 3
        let ph := (hs.foldl (fun (a : Int) h => min a (min h.2.1 h.2.2)) nPre).toNat
        let m := hs.length
        let sr := min (nPre + s.nat .take t 4) ((largestRun s - 100 - 16 * m) / (4 * m))
        match regionPlace s (ceilTo 64 (100 + m * (16 + 4 * sr))) with
        | some (a, pad) => if sr < nPre - ph + 1 then takeMiss s t 2 o p else takeFill s t o p (hs.map (·.1)) ph sr a pad
        | none => takeMiss s t 2 o p

/-- TAKE_TRIGGER_OCCURRENCE (R283): the take engine takes the oldest occurrence of a start source of take t whose tick has
come. -/
def execTakeTriggerOccurrence (t : Nat) (s : State) : Host.Outcome State Fault Refusal :=
  match (s.take t).starts.find? (fun o => decide (o.tick ≤ s.now)) with
  | some o => .next (takeConsider (s.modTake t (fun k => { k with starts := k.starts.erase o })) t o)
  | none => .next s

/-- TAKE_STOP_OCCURRENCE (R275, R285): the first stop occurrence whose point lies after the trigger point fixes the stop
point; one that comes when no fill runs is ignored. -/
def execTakeStopOccurrence (t : Nat) (s : State) : Host.Outcome State Fault Refusal :=
  match (s.take t).stops.find? (fun o => decide (o.tick ≤ s.now)) with
  | some o =>
    let s := s.modTake t (fun k => { k with stops := k.stops.erase o })
    match (s.take t).fill with
    | some f =>
      let p := trigPoint s f.d o.tick o.kind
      if f.fillEnd = none ∧ f.stop = none ∧ f.pIn < p then
        .next (s.modTake t (fun k => { k with fill := some { f with stop := some p, stopAt := o.tick } }))
      else .next s
    | none => .next s
  | none => .next s

/-- The post-trigger slots up to the stop sample, as the smallest over the members (R279); N_post + 1 stands for a stop sample
that lies beyond N_post slots. -/
def stopSpan (s : State) (f : Fill) (p : Int) : Int :=
  (f.members.zip f.kt).foldl (fun (a : Int) (m : Nat × Int) =>
    min a (-((-(p + delayUnits s m.1 f.d f.stopAt)) / 256) - m.2)) (f.nPost + 1 : Nat)

/-- The post-trigger slots that a stop point leaves (R279). -/
def stopCount (s : State) (f : Fill) (p : Int) : Nat := (min (f.nPost : Int) (stopSpan s f p)).toNat

/-- The post-trigger slots that the fill is to hold (R285). -/
def fillPost (s : State) (f : Fill) : Nat :=
  if f.fillEnd.isSome && f.tide.isNone then f.post
  else match f.stop with
    | some p => stopCount s f p
    | none => f.nPost

/-- The slot that the engine copies next. -/
def Fill.nextSlot (f : Fill) : Nat := f.nPre - f.held + (f.copied.headD []).length

/-- The first slot from the one to copy next on that some member's ring does not hold, or that the record does not reserve. -/
def Fill.heldEnd (f : Fill) (s : State) : Nat :=
  (f.members.zip f.kt).foldl (fun (a : Nat) (m : Nat × Int) =>
    let first : Int := m.2 - f.nPre
    let stop := (ringOf s m.1).foldr (fun x (e : Int) => if (x.k : Int) = e then e + 1 else e) (first + f.nextSlot)
    min a (stop - first).toNat) f.slots

/-- The tideline of take t is fixed at a slot (R286): the fill ends, with the event. A stop point has not set the count of a fill
that ends so (R285). A tideline that stands only falls, where a slot before it is lost as well. -/
def fixTide (s : State) (t : Nat) (f : Fill) (anch : Bool) (tide : Int) : State :=
  let tide := match f.tide with | some x => min x tide | none => tide
  let g := { f with tide := some tide, anch := f.anch || anch, post := (tide + 1 - f.nPre).toNat,
                    stop := if f.fillEnd.isNone then none else f.stop, fillEnd := some (f.fillEnd.getD s.now) }
  let s := if f.tide.isSome then s else raise (s.bump .takeStat t 5 1) evTruncated 1 t
  let s := s.modTake t (fun k => { k with fill := some g })
  if takeState s t = 2 then takeTo s t 3 s.now else s

/-- The end of the slots that the engine is to copy: behind the tideline, or behind the last slot of the fill (R286). -/
def copyEnd (s : State) (f : Fill) : Nat :=
  match f.tide with
  | some x => (x + 1).toNat
  | none => min (f.nPre + fillPost s f) f.slots

/-- Sample k of a channel is not in its ring and will not be again (R286): every fill that has still to copy it ends at the last
slot before it that every member holds. -/
def sampleGone (s : State) (ch k : Nat) : State :=
  (List.range 16).foldl (fun s t =>
    match (s.take t).fill with
    | some f =>
      match (f.members.zip f.kt).find? (fun m => m.1 == ch) with
      | some m =>
        let slot : Int := (k : Int) - (m.2 - f.nPre)
        if (f.nextSlot : Int) ≤ slot ∧ slot < copyEnd s f then fixTide s t f false (min slot (f.heldEnd s) - 1) else s
      | none => s
    | none => s) s

/-- A sample reaches its channel's ring, and the oldest leaves a full one (R280, R286). None does behind a faulty results port (R397,
R398). -/
def ringPush (s : State) (ch g : Nat) (x : Samp) : State :=
  match Sparse.find s.rings ch with
  | some r =>
    if s.cust.broken = some 1 then sampleGone s ch x.k
    else if r.after_ < g then
      let depth := s.nat .takeMem 0 1
      let s := { s with rings := Sparse.put s.rings ch { r with samples := (x :: r.samples).take depth } }
      ((x :: r.samples).drop depth).foldr (fun y s => sampleGone s ch y.k) s
    else s
  | none => s

/-- The words of one slot, when every member's ring holds it; `none` where one is not there yet; `some none` where one is
lost. -/
def slotWords (s : State) (f : Fill) (slot : Nat) : Option (Option (List Samp)) :=
  (f.members.zip f.kt).foldr (fun (m : Nat × Int) acc =>
    let idx := m.2 - f.nPre + slot
    match (ringOf s m.1).find? (fun p => (p.k : Int) == idx), acc with
    | some p, some (some ws) => some (some (p :: ws))
    | some _, x => x
    | none, x => if idx < ((s.chan m.1).nextK : Int) then some none else (match x with | some none => some none | _ => none))
    (some (some []))

/-- The takes with a fill, the oldest trigger tick first (R286). -/
def fillOrder (s : State) : List Nat :=
  let xs := (List.range 16).filterMap (fun t => (s.take t).fill.map (fun f => (f.tick, t)))
  (xs.insertionSort (fun a b => a.1 < b.1 ∨ (a.1 = b.1 ∧ a.2 ≤ b.2))).map (·.2)

/-- Bytes that the take engine may still write in this millisecond (R286, R281 subindex 0x04). -/
def shareLeft (s : State) : Nat :=
  let used := if s.takeMem.shareMs = s.now / 24576 then s.takeMem.shareUsed else 0
  s.nat .takeMem 0 4 * 1048576 / 1000 - used

/-- Bytes are written within the share. -/
def shareUse (s : State) (n : Nat) : State :=
  let used := if s.takeMem.shareMs = s.now / 24576 then s.takeMem.shareUsed else 0
  s.modMem (fun m => { m with shareMs := s.now / 24576, shareUsed := used + n })

/-- Take t copies its next slot, if it can: `none` when there is nothing to do (R286). -/
def copyOne (s : State) (t : Nat) : Option State :=
  match (s.take t).fill with
  | some f =>
    let slot := f.nextSlot
    if f.tide.isNone ∧ f.slots ≤ slot ∧ slot < f.nPre + fillPost s f then some (fixTide s t f false (slot - 1 : Int))
    else if copyEnd s f ≤ slot then none
    else
      match slotWords s f slot with
      | some (some ws) =>
        let bytes := 4 * ws.length
        if shareLeft s < bytes then none
        else
          let f := { f with copied := (f.copied.zip ws).map (fun p => p.1 ++ [p.2]) }
          some ((shareUse s bytes).modTake t (fun k => { k with fill := some f }))
      | some none => some (fixTide s t f false (slot - 1 : Int))
      | none => none
  | none => none

/-- Take t has a copy that its share allows (R460). -/
def copyReady (s : State) (t : Nat) : Bool := (copyOne s t).isSome

/-- The copy port has a copy to make. -/
def copyBusy (s : State) : Bool := (fillOrder s).any (copyReady s)

/-- The tick at which the copy port was asked for the copy that it has to make: where nothing else asked, the millisecond whose share
allows it. -/
def copySince (s : State) : Nat := s.takeMem.copyAt.getD (24576 * (s.now / 24576))

/-- Samples have come: a copy that they allow is requested from now on (R460). -/
def noteCopy (old s : State) : State :=
  s.modMem (fun m => { m with copyAt := if copyBusy s then some (if copyBusy old then copySince old else s.now) else none })

/-- A copy is done, or is not to be: the next one is requested now (R460). -/
def copyNext (s : State) : State := s.modMem (fun m => { m with copyAt := if copyBusy s then some s.now else none })

/-- TAKE_COPY (R286): the engine copies the next slot of the filling take with the oldest trigger tick that has one. -/
def execTakeCopy (s : State) : Host.Outcome State Fault Refusal :=
  match (fillOrder s).findSome? (copyOne s) with
  | some s => .next (copyNext { s with cust := { s.cust with copyNew := false } })
  | none => .next s

/-- TAKE_FILL_END (R285): every member holds its post-trigger samples. A stop point beyond N_post has not set the
count. -/
def execTakeFillEnd (t : Nat) (s : State) : Host.Outcome State Fault Refusal :=
  match (s.take t).fill with
  | some f =>
    let post := fillPost s f
    if f.fillEnd = none ∧ f.nPre + post ≤ f.heldEnd s then
      let last := (f.kt.foldl max 0 + post - 1).toNat
      let f := { f with fillEnd := some (4 * f.d * last), post := post, maxLen := f.stopSel != 0 && f.stop.isNone,
                        stop := f.stop.filter (fun p => decide (stopSpan s f p ≤ f.nPost)) }
      .next (takeTo (s.modTake t (fun k => { k with fill := some f })) t 3 (4 * f.d * last))
    else .next s
  | none => .next s

/-- The flags of a take record (R292). -/
def takeFlags (f : Fill) : Nat :=
  b2n (f.copied.any (fun ws => (ws.take (f.held + f.post)).any (fun w => bit w.word 4))) * 128 + b2n f.asyn * 64 + b2n f.anch * 32 + b2n f.maxLen * 16 +
    b2n (f.stop.isSome && f.fillEnd.isSome) * 8 + b2n (decide (f.held < f.nPre)) * 4 + b2n f.tide.isSome * 2

/-- The member block of R293. Slots that were copied before a stop point fixed an earlier end read 0 again. -/
def memberBlock (f : Fill) (ch : Nat) (kt : Int) (ws : List Samp) : Bytes :=
  let lead := List.replicate (f.nPre - f.held) 0
  let all := lead ++ (ws.take (f.held + f.post)).map (·.word)
  let slots := (all ++ List.replicate (f.slots - all.length) 0).take f.slots
  leBytes 2 ch ++ leBytes 2 0 ++ leBytes 4 f.nPre ++ leBytes 8 (wrapU 64 (kt - f.nPre)).toNat ++
    slots.flatMap (leBytes 4)

/-- The take record of R291. -/
def takeRecord (t seq : Nat) (f : Fill) : Bytes :=
  let m := f.members.length
  let len := 100 + m * (16 + 4 * f.slots)
  let stopped := f.stop.isSome && f.fillEnd.isSome
  let hdr := leBytes 2 1 ++ leBytes 2 1 ++ leBytes 4 len ++ leBytes 1 t ++ leBytes 1 m ++ leBytes 2 (takeFlags f) ++
    leBytes 4 seq ++ leBytes 8 f.tick ++ leBytes 8 (wrapU 64 f.pIn).toNat ++ leBytes 2 f.sel ++
    leBytes 2 (if stopped then f.stopSel else 0) ++ leBytes 4 f.d ++ leBytes 4 f.nPre ++ leBytes 4 f.nPost ++
    leBytes 4 f.held ++ leBytes 4 f.post ++
    leBytes 8 (match f.tide with | some x => (wrapU 64 x).toNat | none => 2 ^ 64 - 1) ++
    leBytes 8 (if stopped then (wrapU 64 (f.stop.getD 0)).toNat else 0) ++ leBytes 8 f.slack ++ leBytes 4 f.missed ++
    leBytes 4 f.slots ++ leBytes 8 (f.fillEnd.getD 0)
  withCrc (hdr ++ ((f.members.zip f.kt).zip f.copied).flatMap (fun x => memberBlock f x.1.1 x.1.2 x.2))

/-- The record of take t is whole: its fill has ended and every slot up to its end or its tideline is copied. -/
def fillDone (f : Fill) : Bool :=
  f.fillEnd.isSome && (match f.tide with
    | some x => decide (x < f.nextSlot)
    | none => decide (f.nPre + f.post ≤ f.nextSlot))

/-- The re-arm tick of R288: the first grid time of a sample of the take's D at or after both ticks. -/
def rearmTick (s : State) (t fillEnd commit : Nat) : Nat :=
  let d := takeD s t
  ceilTo (4 * d) (max (fillEnd + s.nat .take t 13 * (4 * d)) commit)

/-- The slack of an arming is reported (R288). -/
def noteSlack (s : State) (t slack : Nat) : State :=
  let s := s.setNum .takeStat t 11 slack
  if s.nat .takeStat t 12 < slack then s.setNum .takeStat t 12 slack else s

/-- The writes that waited for take t take effect together (R289); those made in immediate mode set the tick of subindex 0x08 of
their session (R437). -/
def takeWaited (s : State) (t tick : Nat) : State :=
  let k := s.take t
  let s := takeLate (s.modTake t (fun k => { k with waits := [] })) t (k.waits.map (·.2.2)) tick
  k.waits.foldl (fun s p => if p.2.1 then s.setNum .session p.1 8 tick else s) s

/-- The state after a commit, and the waiting writes that take effect there (R282, R289). -/
def afterCommit (s : State) (t fillEnd : Nat) : State :=
  let k := s.take t
  let sets := fun (m : Int) => k.waits.any (fun w => w.2.2.sub == 1 && w.2.2.num == m)
  let s := if s.nat .take t 1 = 1 ∨ sets 0 ∨ sets 1 then takeWaited s t s.now else s
  let mode := s.nat .take t 1
  let arm := (s.take t).armWait
  let s := s.modTake t (fun k => { k with armWait := false })
  if mode = 0 then takeTo s t 0 s.now
  else if mode = 1 ∧ arm = false then takeTo s t 5 s.now
  else
    let r := rearmTick s t fillEnd s.now
    let s := noteSlack (takeTo s t 4 s.now) t (r - fillEnd)
    s.modTake t (fun k => { k with armAt := some r, fromIdle := false, slack := r - fillEnd })

/-- The record of take t is stored (R290): its bytes stand in the region and the write offset passes it. -/
def takeStore (s : State) (t : Nat) (f : Fill) : State :=
  let rec_ := takeRecord t (s.take t).seq f
  let s := s.modMem (fun m => { m with
    bytes := regionStore m.bytes f.offset rec_,
    places := m.places.map (fun q => if q.take = t then { q with done := true } else q) })
  let s := (advance s).bump .takeStat t 4 1
  let s := s.setNum .takeStat t 13 f.offset
  s.modTake t (fun k => { k with fill := none, seq := (k.seq + 1) % 2 ^ 32, slack := 0, missed := k.missed - f.missed,
                                 lastFillEnd := f.fillEnd.getD 0 })

/-- The record of take t is committed (R289, R290). -/
def takeCommit (s : State) (t : Nat) (f : Fill) : State := afterCommit (takeStore s t f) t (f.fillEnd.getD 0)

/-- TAKE_REARM (R268, R288, R289): at the re-arm tick the take becomes ARMED, with its waiting writes applied. -/
def execTakeRearm (t : Nat) (s : State) : Host.Outcome State Fault Refusal :=
  match (s.take t).armAt with
  | some r =>
    if r ≤ s.now ∧ t < 16 then
      .next (if (s.take t).waits = [] then takeArmed s t r else takeWaited (takeArmed s t r) t r)
    else .next s
  | none => .next s

/-- A write of the release offset (R290). -/
def releaseWrite (s : State) (v : Nat) : State × Code :=
  let w := s.nat .takeMem 0 5
  let r := s.nat .takeMem 0 6
  let inside := if r ≤ w then decide (r ≤ v) && decide (v ≤ w)
    else (decide (r ≤ v) && decide (v < regionSize s)) || decide (v ≤ w)
  if v % 64 = 0 ∧ inside = true then (s.setNum .takeMem 0 6 v, .success) else (s, .outOfRange)

/-- Every take starts under its restored definition at a tick (R296): a restored mode 1 or 2 starts ARMED. -/
def takesStart (s : State) (tick : Nat) : State :=
  let s := ringsUpdate s tick
  (List.range 16).foldl (fun s t =>
    let s := s.modTake t (fun k => { k with timeNext := timeAfter s t tick })
    if s.nat .take t 1 = 0 then s else takeArmed s t tick) s

/-- A re-anchor begins (R213, R296): the rushes rings are emptied, and every fill that has still slots to copy ends at its
tideline, behind the last slot copied, with ANCH. -/
def takesReanchor (s : State) : State :=
  let s := (List.range 16).foldl (fun s t =>
    match (s.take t).fill with
    | some f => if f.fillEnd.isNone ∨ f.nextSlot < copyEnd s f then fixTide s t f true (f.nextSlot - 1 : Int) else s
    | none => s) s
  { s with rings := s.rings.map (fun p => (p.1, { p.2 with samples := [] })) }

/-- Take t at the load tick of a re-anchor, with no fill (R268, R289, R296): it becomes ARMED if it is not OFF or DONE, and what
waits for it takes effect there. -/
def takeLoad (s : State) (t tick : Nat) : State :=
  let arm := (s.take t).armAt.isSome
  let s := s.modTake t (fun k => { k with hist := [], starts := [], stops := [], seen := [], armAt := none, armWait := false,
                                          timeNext := timeAfter s t tick })
  let st := takeState s t
  if st = 0 ∨ st = 5 then
    let s := takeTo s t st tick
    if arm then takeArm s t tick else s
  else
    let s := takeArmed s t tick
    if (s.take t).waits = [] then s else takeWaited s t tick

end Sys2Proof.Machine
end

