-- ==== Sys2Proof/Machine/DigitalInputs.lean ====
section
/-! DEFINITION. Digital inputs (R261 to R265, R648 of spec/08_takes_and_triggers.md): glitch filter, edge processor and the
stuck condition. -/

namespace Sys2Proof.Machine

open Sys2Proof

/-- A digital input whose filter starts at a tick (R648). -/
def DinSt.start (t : Nat) : DinSt :=
  { fresh := true, from_ := t, proc := none, procLevel := false, changes := [], levels := [], stuck := [],
    runFrom := none }

/-- Input i changed. -/
def State.modDin (s : State) (i : Nat) (f : DinSt → DinSt) : State :=
  match Sparse.find s.dins i with
  | some d => { s with dins := Sparse.put s.dins i (f d) }
  | none => s

/-- One bit of the State entry of input i (R265). -/
def dinBit (s : State) (i b : Nat) (v : Bool) : State := s.setNum .din i 4 (putBit (s.nat .din i 4) b v : Nat)

/-- The input is stuck now. -/
def isStuck (d : DinSt) : Bool := d.stuck.any (fun p => p.2 == none)

/-- A stuck condition ends with tick t as its last (R264). -/
def unstick (s : State) (i t : Nat) : State :=
  match Sparse.find s.dins i with
  | some d =>
    if isStuck d then
      let s := s.modDin i (fun d => { d with stuck := d.stuck.map (fun p => if p.2 = none then (p.1, some t) else p) })
      raise (dinBit s i 1 false) 48 3 i
    else s
  | none => s

/-- The filtered level of input i becomes `level` at tick t (R262, R264): a run of level 1 begins, or ends with any stuck
condition. -/
def dinLevel (s : State) (i t : Nat) (level : Bool) : State :=
  let s := s.modDin i (fun d => { d with levels := ((t, level) :: d.levels).take 64,
                                         runFrom := if level then some t else none })
  let s := dinBit s i 0 level
  if level then s else unstick s i (t - 1)

/-- The first acceptance after a start or restart, at tick t: silent (R648). Changes accepted before it stay with the edge processor
(R263). -/
def dinSilent (s : State) (i t : Nat) (level : Bool) : State :=
  let was := bit (s.nat .din i 4) 0
  let s := s.modDin i (fun d => { d with fresh := false })
  if was = level then s else dinLevel s i t level

/-- An accepted change at tick t of the ball edge in the cycle of tick `edge` (R262). -/
def dinAccept (s : State) (i t edge sub : Nat) (level : Bool) : State :=
  (dinLevel s i t level).modDin i (fun d => { d with changes := d.changes ++ [⟨t, edge, sub, level⟩] })

/-- DIN_FILTER_ACCEPT (R261, R262, R265, R648): the ball of an input took level `ball` at the moment `edge` and
kept it for `run` cycles, up to now or until it went back. The filter accepts it after F equal cycles; a pulse that has ended is
shorter, and one of F − 1 cycles passes or not as a free value says. The ball's level now stands in the State entry. -/
def execDinFilterAccept (i : Nat) (ball : Bool) (edge : Moment) (run : Nat) (s : State) : Host.Outcome State Fault Refusal :=
  match Sparse.find s.dins i with
  | some d =>
    let f := s.nat .din i 2
    let level := ball != (s.nat .din i 1 == 1)
    let start := max edge.tick d.from_
    let n := edge.tick + run - start
    let gone := decide (edge.tick + run < s.now)
    if 16 ≤ i then .next s
    else
      let s := dinBit s i 2 (ball != gone)
      if f ≤ n then
        if start + f ≤ s.now then
          if d.fresh then .next (dinSilent s i (start + f) level)
          else if level = bit (s.nat .din i 4) 0 then .next s
          else .next (dinAccept s i (start + f) edge.tick edge.sub level)
        else .next s
      else if gone then
        if d.fresh ∨ level = bit (s.nat .din i 4) 0 then .next s
        else if n + 1 = f ∧ Config.glitchPasses s.free = true then .next (dinAccept s.draw i (start + f) edge.tick edge.sub level)
        else .next (s.draw.bump .din i 6 1)
      else .next s
  | none => .next (if i < 16 then dinBit s i 2 (ball != decide (edge.tick + run < s.now)) else s)

/-- A change is merged: counted and raised (R263). -/
def dinOverrun : Nat → State → Nat → State
  | 0, s, _ => s
  | n + 1, s, i => dinOverrun n (raise (s.bump .din i 7 1) 48 1 i) i

/-- A processed edge reaches its counter, its capture unit, the take engine and its event source (R263, R264, R270). -/
def dinEdge (s : State) (i : Nat) (c : DinChange) : State :=
  let s := s.bump .din i 5 1
  let code := if c.level then 1 else 2
  let sel := s.nat .capture i 1
  let s := if sel = 3 ∨ sel = code then captureAt s i c.edge c.sub code else s
  let s := if stuckAt s i c.edge then s else deliver s (.edge i c.level (localAt s c.edge c.sub) (s.num .grid 0 3)) c.edge none
  raiseAt s (16 + i) code 0 c.edge

/-- The edge processor looks at the changes of input i: `none` when nothing is due (R263). -/
def dinLook (s : State) (i : Nat) (d : DinSt) : Option State :=
  match d.changes with
  | [] => none
  | c :: rest =>
    let free := match d.proc with | none => true | some p => decide (p + 98 ≤ c.accepted)
    if free then
      if s.now < c.accepted then none
      else some (dinEdge (s.modDin i (fun d => { d with changes := rest, proc := some c.accepted, procLevel := c.level })) i c)
    else
      let q := (d.proc.getD 0) + 98
      if s.now < q then none
      else
        let seen := d.changes.takeWhile (fun x => decide (x.accepted ≤ q))
        let later := d.changes.dropWhile (fun x => decide (x.accepted ≤ q))
        let level := histAt d.levels q d.procLevel
        if level = d.procLevel then
          some (dinOverrun seen.length (s.modDin i (fun d => { d with changes := later })) i)
        else
          let s := s.modDin i (fun d => { d with changes := later, proc := some q, procLevel := level })
          some (dinEdge (dinOverrun (seen.length - 1) s i) i { c with level := level })

/-- DIN_EDGE_PROCESSED (R263): the edge processor handles the next edge of an input, at most one in 98 ticks, and merges what
it does not process. -/
def execDinEdgeProcessed (i : Nat) (s : State) : Host.Outcome State Fault Refusal :=
  match Sparse.find s.dins i with
  | some d => .next (if i < 16 then (dinLook s i d).getD s else s)
  | none => .next s

/-- DIGITAL_INPUT_STUCK (R264): the filtered level has been 1 for the maximum active time. -/
def execDigitalInputStuck (i : Nat) (s : State) : Host.Outcome State Fault Refusal :=
  match Sparse.find s.dins i with
  | some d =>
    match d.runFrom with
    | some r =>
      let a := s.nat .din i 3
      if i < 16 ∧ a ≠ 0 ∧ isStuck d = false ∧ r + msTicks a ≤ s.now then
        let s := s.modDin i (fun d => { d with stuck := ((s.now, none) :: d.stuck).take 16 })
        let s := ((dinBit s i 1 true).bump .din i 8 1).setNum .din i 9 s.now
        .next (raise s 48 2 i)
      else .next s
    | none => .next s
  | none => .next s

/-- A setting of input i took effect (R264, R265, R648). -/
def dinSetting (s : State) (i sub : Nat) : State :=
  if sub = 1 ∨ sub = 2 then s.modDin i (fun d => { d with fresh := true, from_ := s.now })
  else if sub = 3 ∧ s.nat .din i 3 = 0 then unstick s i s.now
  else s

/-- Every input's filter starts (R648). -/
def dinsStart (s : State) : State := { s with dins := (List.range 16).map (fun i => (i, DinSt.start s.now)) }

end Sys2Proof.Machine
end

