-- ==== Sys2Proof/Machine/Calibration.lean ====
section
/-! DEFINITION. Calibration and trimming (spec/07_calibration.md): runs, interruptions, the values they produce, background
element selection, the calibration image and the hold-off. -/

namespace Sys2Proof.Machine

open Sys2Proof

/-- The calibration record changed. -/
def State.modCal (s : State) (f : CalSt → CalSt) : State := { s with cal := f s.cal }

/-- The run state (object 0x4100:05). -/
def calState (s : State) : Nat := s.nat .cal 0 5

/-- Claims of calibration join the waiting ones in order of their ticks (R242). -/
def addClaims (s : State) (cs : List (Nat × Option Nat)) : State :=
  s.modAux (fun a => { a with claims := (a.claims ++ cs).insertionSort (fun x y => x.1 ≤ y.1) })

/-- Quarter milliseconds in grid ticks. -/
abbrev quarterMs (n : Nat) : Nat := n * 6144

/-- The tick of the next whole millisecond after the present one. -/
def nextMs (s : State) : Nat := (s.now / 24576 + 1) * 24576

/-- Milliseconds since the release of reset (R605). -/
def sinceRelease (s : State) : Nat := (((s.now : Int) - s.power.released) / 24576).toNat

/-- A condition of R599 is met now. -/
def conditionMet (s : State) : State := { s with power := { s.power with metAt := s.now } }

/-- The hold-off ends, and a start-up phase follows (R259, R597). -/
def holdEnded (s : State) (phase : Nat) : State :=
  conditionMet ((s.setNum .startup 0 6 (sinceRelease s)).setNum .startup 0 3 phase)

/-- The start-up run ends phase 4 (R597). -/
def phaseAfterRun (s : State) : State :=
  conditionMet (if s.nat .startup 0 3 = 4 then (s.setNum .startup 0 7 (sinceRelease s)).setNum .startup 0 3 5 else s)

/-- A run is commanded (R234, R235): its CALRES step begins at the first whole millisecond at least 49,152 ticks after
receipt. -/
def calStart (s : State) (allg stst skew defer : Bool) : State × Code :=
  if calState s ≠ 0 then (s, .inUse)
  else
    (s.modCal (fun c => { c with run := some ⟨allg, stst, skew, defer, false⟩,
                                 startAt := some (ceilTo 24576 (s.now + 49152)) }), .success)

/-- An abort is commanded (R234, R241): it takes effect at the next whole millisecond. -/
def calAbort (s : State) : State × Code :=
  if calState s = 0 ∨ calState s = 1 then (s, .inUse)
  else ((s.setNum .cal 0 5 4).modCal (fun c => { c with abortAt := some (nextMs s), waiting := [], deferred := [] }), .success)

/-- The hold-off ends by command (R234, R259). -/
def calEndHold (s : State) : State × Code :=
  if calState s = 1 then
    (holdEnded (((s.setNum .cal 0 5 0).setNum .cal 0 6 (if s.cal.wrote then 5 else 6)).setNum .cal 0 9 0) 5, .success)
  else (s, .outOfRange)

/-- The command word of R234. -/
def calCommand (s : State) (w : Nat) : State × Code :=
  if 255 < w then (s, .outOfRange)
  else match w % 16 with
    | 1 => calStart s (bit w 4) (bit w 5) (bit w 6) (bit w 7)
    | 2 => calAbort s
    | 3 => calEndHold s
    | _ => (s, .outOfRange)

/-- A run ends with a result code (R232, R233, R239, R241). -/
def calEnd (s : State) (code : Nat) : State :=
  let s := ((s.setNum .cal 0 5 0).setNum .cal 0 6 code).setNum .cal 0 17 0
  let s := if code = 1 ∨ code = 2 then s.bump .cal 0 7 1 else s
  let s := s.modCal (fun c => { c with run := none, startAt := none, calres := none, waiting := [], deferred := [],
                                       running := [], refused := false, abortAt := none })
  raise (phaseAfterRun (s.modAux (fun a => { a with claims := [] }))) 51 1 code

/-- The run ends when no cell is left (R235); after an abort with result code 3. -/
def calCheckEnd (s : State) : State :=
  if s.cal.waiting = [] ∧ s.cal.running = [] then
    calEnd s (if s.cal.abortAt.isSome then 3 else if s.cal.refused then 2 else 1)
  else s

/-- The CALRES step begins at tick t (R232, R242). -/
def calresBegin (s : State) (t : Nat) : State :=
  let s := (s.setNum .cal 0 5 2).setNum .cal 0 8 t
  let s := s.modCal (fun c => { c with startAt := none, calres := some t, refused := false, abortAt := none })
  addClaims s ((List.range 32).map (fun i => (t + quarterMs (1 + 2 * i), none)))

/-- CALRES_STEP_START (R232, R235): at its tick the CALRES step of a commanded run begins. -/
def execCalresStepStart (s : State) : Host.Outcome State Fault Refusal :=
  match s.cal.startAt with
  | some t => if t ≤ s.now ∧ calState s = 0 then .next (calresBegin s t) else .next s
  | none => .next s

/-- HOLD_OFF_EXPIRY (R259): 2,000 ms after the restore the start-up run of every present cell begins. -/
def execHoldOffExpiry (s : State) : Host.Outcome State Fault Refusal :=
  match s.cal.holdFrom with
  | some t =>
    if calState s = 1 ∧ t + msTicks 2000 ≤ s.now then
      let s := (s.setNum .cal 0 9 0).modCal (fun c =>
        { c with run := some ⟨false, true, true, false, true⟩, holdFrom := none })
      .next (calresBegin (holdEnded s 4) (t + msTicks 2000))
    else .next s
  | none => .next s

/-- The cells that a run selects. -/
def calCells (s : State) (r : CalRun) : List Nat :=
  s.allCells.filter (fun c => r.startup || bit (s.nat .cal 0 2) c)

/-- CALRES_STEP_END (R232, R241): after 16 ms the resistance is reported, and the run goes on to its cells or ends; an abort
ends the step with nothing changed. -/
def execCalresStepEnd (milliohms : Nat) (s : State) : Host.Outcome State Fault Refusal :=
  match s.cal.calres, s.cal.run with
  | some t, some r =>
    match s.cal.abortAt with
    | some a => if a ≤ s.now then .next (calEnd s 3) else .next s
    | none =>
      if t + msTicks 16 ≤ s.now then
        let s := s.setNum .cal 0 13 milliohms
        if milliohms < 9950000 ∨ 10050000 < milliohms then .next (calEnd (raise s 51 2 0) 4)
        else
          let s := (s.setNum .cal 0 5 3).modCal (fun c => { c with calres := none, waiting := calCells s r })
          .next (calCheckEnd s)
      else .next s
  | _, _ => .next s

/-- Gain passes of a run (R236). -/
def CalRun.passes (r : CalRun) : Nat := if r.allg then 8 else 1

/-- The length of an interruption in ms (R236). -/
def CalRun.length (r : CalRun) : Nat := 8 * b2n r.stst + 48 * r.passes + 8 * b2n r.skew

/-- A take that includes a channel of the cell is filling post-trigger samples (R244). -/
def cellFilling (s : State) (c : Nat) : Bool :=
  (List.range 16).any (fun t =>
    takeState s t == 2 && (match (s.take t).fill with | some f => f.members.any (fun ch => ch / 16 == c) | none => false))

/-- The interruption of a cell begins at the present tick (R236, R237, R242, R248). -/
def cellBegin (s : State) (c : Nat) (r : CalRun) : State :=
  let t := s.now
  let s := s.modCal (fun k => { k with waiting := k.waiting.erase c, deferred := k.deferred.filter (fun p => p.1 != c),
                                       running := k.running ++ [(c, t)] })
  let s := s.setNum .cal 0 17 (clearBit (s.nat .cal 0 17) c : Nat)
  let s := (windowsRestart s c t).setNum .cellCal c 31 t
  let gain := t + msTicks (8 * b2n r.stst + 48 * (r.passes - 1))
  let s := s.modAux (fun a => { a with trimmed := a.trimmed.filter (fun d => d / 4 != c) })
  let s := addClaims s ((List.range 4).map (fun k => (gain + quarterMs (177 + 2 * k), some (4 * c + k))))
  onChans s (chansOf c) (fun s n => openFlag s n fCAL .calibration t)

/-- A cell whose reference is not ready when it would start is skipped (R240). -/
def cellSkip (s : State) (c : Nat) : State :=
  let s := s.setNum .cal 0 17 (clearBit (s.nat .cal 0 17) c : Nat)
  calCheckEnd (raise (s.modCal (fun k => { k with waiting := k.waiting.erase c,
                                                   deferred := k.deferred.filter (fun p => p.1 != c) })) 51 4 c)

/-- The first waiting cell for which there is something to do at a whole millisecond: skip, start, or defer (R235, R240,
R244). -/
def cellNext (s : State) (r : CalRun) : List Nat → State
  | [] => s
  | c :: cs =>
    let late := s.cal.deferred.any (fun p => p.1 == c)
    if late && cellFilling s c then cellNext s r cs
    else if !bit (s.nat .refPower c 3) 1 then cellSkip s c
    else if r.defer && cellFilling s c then
      (s.setNum .cal 0 17 (setBit (s.nat .cal 0 17) c : Nat)).modCal (fun k =>
        { k with deferred := k.deferred ++ [(c, s.now)] })
    else cellBegin s c r

/-- Cells interrupted at once (R233, R259). -/
def calConcurrency (s : State) (r : CalRun) : Nat := if r.startup then 4 else s.nat .cal 0 3

/-- CELL_INTERRUPTION_START (R235, R240, R241, R244): on a whole millisecond the next selected cell starts, is skipped or is
deferred; after an abort no cell starts and the run ends. -/
def execCellInterruptionStart (s : State) : Host.Outcome State Fault Refusal :=
  match s.cal.run with
  | some r =>
    if calState s = 4 ∧ s.cal.calres = none then
      if (s.cal.abortAt.any (fun a => decide (a ≤ s.now))) then .next (calCheckEnd s) else .next s
    else if calState s = 3 ∧ s.now % 24576 = 0 ∧ s.cal.running.length < calConcurrency s r then
      .next (cellNext s r s.cal.waiting)
    else .next s
  | none => .next s

/-- TAKE_GUARD_EXPIRY (R244): the take guard has run from a cell's first deferral: it starts anyway, with the event, unless its
reference is not ready (R240). -/
def execTakeGuardExpiry (cell : Nat) (s : State) : Host.Outcome State Fault Refusal :=
  match s.cal.run, s.cal.deferred.find? (fun p => p.1 == cell) with
  | some r, some (_, t) =>
    if calState s = 3 ∧ s.now % 24576 = 0 ∧ t + msTicks (s.nat .cal 0 4) ≤ s.now ∧
        s.cal.running.length < calConcurrency s r then
      .next (if bit (s.nat .refPower cell 3) 1 then cellBegin (raise s 51 5 cell) cell r else cellSkip s cell)
    else .next s
  | _, _ => .next s

/-- Twice the median of 18 estimates: the sum of the two middle ones (R246). -/
def median2 (es : List Int) : Int :=
  let l := es.insertionSort (fun a b => a ≤ b)
  l.getD 8 0 + l.getD 9 0

/-- The elements within the element limit of the median (R246, R251). -/
def elementsNear (s : State) (es : List Int) : List Nat :=
  let m := median2 es
  let lim : Int := 2 * s.nat .cal 0 14
  (List.range 18).filter (fun i => !outside (m - lim) (m + lim) (2 * es.getD i 0))

/-- The mask of the 15 elements closest to the median, ties to the lower number (R246). -/
def bestMask (es : List Int) : Nat :=
  let m := median2 es
  let dist := fun (i : Nat) => (2 * es.getD i 0 - m).natAbs
  let order := (List.range 18).insertionSort (fun i j => dist i < dist j ∨ (dist i = dist j ∧ i ≤ j))
  (order.take 15).foldl setBit 0

/-- A modulator fails its self-test (R246). -/
def modFails (s : State) (r : CalMod) : Bool :=
  outside (-600) 600 r.zero || outside (192000 - 3840) (192000 + 3840) r.span || r.overload ||
    decide ((elementsNear s r.est).length < 15)

/-- The active set of modulator m of a cell is replaced at tick t (R246, R258): where it changes, a switch that still waits for its
integer second is void, and the estimation window starts afresh (R248). -/
def setElements (s : State) (c m t mask : Nat) : State :=
  if s.nat .elements c (m + 1) = mask then s
  else
    let s := (s.setNum .elements c (m + 1) mask).modCal (fun k =>
      { k with switches := k.switches.filter (fun x => !(x.cell == c && x.m == m)) })
    windowRestart s c m t

/-- A modulator without a measurement. -/
def CalMod.none_ : CalMod := ⟨0, 0, true, []⟩

/-- The self-test of a cell decides (R107, R246, R247), at tick t. -/
def selfTest (s : State) (c t : Nat) (r : CalResult) : State :=
  let s := (List.range 17).foldl (fun s m =>
    let x := r.mods.getD m CalMod.none_
    let s := s.modCal (fun k => { k with est := Sparse.put k.est (17 * c + m) x.est })
    let bad := modFails s x
    let s := s.setNum .spare c 2 (putBit (s.nat .spare c 2) m bad : Nat)
    if bad then s else setElements s c m t (bestMask x.est)) s
  let mask := s.nat .spare c 2
  let want := match (List.range 16).find? (bit mask ·) with
    | some m => if bit mask 16 then 255 else m
    | none => 255
  let s := if s.nat .cal 0 15 = 1 then setSpare s c want t
    else if bit mask 16 ∧ s.nat .spare c 1 < 16 then setSpare s c 255 t else s
  failedTouch s c t

/-- A value is refused (R239, R245). -/
def calRefuse (s : State) (cause detail : Nat) : State :=
  raise ((s.bump .cal 0 18 1).modCal (fun k => { k with refused := true })) 51 cause detail

/-- The gain of a measured span in Q2.30: 8,000,000 counts over the span (R254). -/
def spanGain (span : Int) : Int := if span ≤ 0 then 0 else roundHalfAway (2 ^ 30 * 8000000) span.toNat

/-- One gain pass gives a channel its gain and offset for one gain code (R239, R254). -/
def gainValue (s : State) (ch code t : Nat) (span offset : Int) : State :=
  let g := spanGain span
  if outside 536870912 1610612736 g || outside (-500000) 500000 offset then calRefuse s 3 ch
  else
    let s := (s.setNum .chCal ch (code + 1) g).setNum .chCal ch (code + 9) offset
    (s.setNum .chCal ch 19 (setBit (s.nat .chCal ch 19) code : Nat)).setNum .chCal ch 20 t

/-- The front-end delay δ of a channel becomes a value, and its delay K follows from now on (R254, R278). -/
def deltaNow (s : State) (ch delta : Nat) : State :=
  let k := delayOf s ch ((s.chan ch).useBy s.now)
  let s' := s.setNum .chCal ch 17 delta
  noteDelay (noteDelay s ch 0 k) ch s.now (delayOf s' ch ((s.chan ch).useBy s.now)) |>.setNum .chCal ch 17 delta

/-- The skew part gives a channel its delays (R252, R253). -/
def skewValue (s : State) (ch t delta : Nat) : State :=
  let target := s.nat .cal 0 16
  let s := deltaNow s ch delta
  let s := (s.setNum .chCal ch 18 (target - delta : Nat)).setNum .chCal ch 20 t
  if target < delta then raise (s.setNum .chCal ch 19 (clearBit (s.nat .chCal ch 19) 8 : Nat)) 51 7 ch
  else s.setNum .chCal ch 19 (setBit (s.nat .chCal ch 19) 8 : Nat)

/-- The excitation trim of driver k of a cell from its reading (R245). -/
def trimValue (s : State) (c k : Nat) (measured : Int) : State :=
  let d := 4 * c + k
  let mode := s.nat .driver d 1
  if mode ≠ 1 ∧ mode ≠ 2 then s
  else
    let sub := if mode = 1 then k + 1 else k + 5
    let set : Int := s.nat .driver d (mode + 1)
    let v := s.num .cellCal c sub + roundHalfAway (1000000 * (set - measured)) measured.toNat
    if measured ≤ 0 ∨ v < -5000 ∨ 5000 < v then calRefuse s 6 (c * 256 + k) else s.setNum .cellCal c sub v

/-- The values of the finished parts of an interruption of `ms` whole milliseconds take effect at tick t (R238, R241). -/
def cellValues (s : State) (c t ms : Nat) (r : CalRun) (x : CalResult) : State :=
  let st := 8 * b2n r.stst
  let s := if r.stst ∧ 8 ≤ ms then selfTest s c t x else s
  let passes := min r.passes ((ms - st) / 48)
  let each := fun (s : State) (f : State → Nat → CalChan → State) =>
    (List.range 16).foldl (fun s p => f s (16 * c + p) (x.chans.getD p ⟨[], [], 0⟩)) s
  let s := (List.range passes).foldl (fun s p => each s (fun s n y =>
    gainValue s n (if r.allg then p else s.nat .chFront n 7) t (y.spans.getD p 0) (y.offsets.getD p 0))) s
  let s := if passes = r.passes then
      (List.range 4).foldl (fun s k => if s.aux.trimmed.contains (4 * c + k) then trimValue s c k (x.drivers.getD k 0) else s) s
    else s
  if r.skew ∧ r.length ≤ ms then each s (fun s n y => skewValue s n t y.delta) else s

/-- The interruption of a cell ends at t_b (R237, R238). -/
def cellEnd (s : State) (c ta tb : Nat) (r : CalRun) (x : CalResult) : State :=
  let old := s
  let s := cellValues s c tb ((tb - ta) / 24576) r x
  let s := onChans s (chansOf c) (fun s n => chainTouch old s tb n)
  let s := onChans s (chansOf c) (fun s n =>
    let s := closeLater (closeFlag s n fCAL .calibration tb) c tb (inputSwitches s n)
    addFlag s n fSET .timed tb (tb + usTicks 200 + s.holdTicks n + s.settleTicks n tb))
  let s := (windowsRestart s c tb).setNum .cellCal c 32 tb
  let s := s.modAux (fun a => { a with claims := a.claims.filter (fun q => (q.2.map (· / 4)) != some c) })
  calCheckEnd (s.modCal (fun k => { k with running := k.running.filter (fun p => p.1 != c) }))

/-- CELL_INTERRUPTION_END (R236 to R241, R245 to R247, R252 to R254): at t_b, or at the tick of an abort, the values that the
finished parts produced take effect, from what was measured. -/
def execCellInterruptionEnd (cell : Nat) (measured : CalResult) (s : State) : Host.Outcome State Fault Refusal :=
  match s.cal.run, s.cal.running.find? (fun p => p.1 == cell) with
  | some r, some (_, ta) =>
    let full := ta + msTicks r.length
    let tb := match s.cal.abortAt with | some a => min a full | none => full
    if tb ≤ s.now then .next (cellEnd s cell ta tb r measured) else .next s
  | _, _ => .next s

/-- The interruption state of a cell (R255 subindex 0x1E). -/
def interruptionState (s : State) (c : Nat) : Nat :=
  match s.cal.run, s.cal.running.find? (fun p => p.1 == c) with
  | some r, some (_, ta) =>
    let ms := (s.now - ta) / 24576
    if r.stst ∧ ms < 8 then 3 else if ms < 8 * b2n r.stst + 48 * r.passes then 4 else 5
  | _, _ =>
    if s.cal.deferred.any (fun p => p.1 == c) then 2 else if s.cal.waiting.contains c then 1 else 0

/-- The cell is interrupted by calibration. -/
def interrupted (s : State) (c : Nat) : Bool := s.cal.running.any (fun p => p.1 == c)

/-- The elements of a mask, or those outside it. -/
def maskElems (mask : Nat) (on : Bool) : List Nat := (List.range 18).filter (fun i => bit mask i == on)

/-- The element with the largest or the smallest magnitude, ties to the lower number (R249). -/
def pickElem (es : List Int) (cand : List Nat) (largest : Bool) : Nat :=
  let mag := fun (i : Nat) => (es.getD i 0).natAbs
  cand.foldl (fun b i => if (if largest then decide (mag b < mag i) else decide (mag i < mag b)) then i else b)
    (cand.headD 0)

/-- A complete window of modulator m of a cell ends at tick t with new estimates of its active elements (R248, R249,
R251). -/
def windowEnd (s : State) (c m t : Nat) (est : List Int) : State :=
  let key := 17 * c + m
  let mask := s.nat .elements c (m + 1)
  let active := maskElems mask true
  let old := Sparse.get s.cal.est key (List.replicate 18 0)
  let es := (active.zip est).foldl (fun (l : List Int) p => l.set p.1 p.2) old
  let a := pickElem es active true
  let b := pickElem es (maskElems mask false) false
  let beyond := decide ((es.getD b 0).natAbs + s.nat .cal 0 12 < (es.getD a 0).natAbs)
  let n := if beyond then Sparse.get s.cal.qual key 0 + 1 else 0
  let s := s.modCal (fun k => { k with est := Sparse.put k.est key es, winFrom := Sparse.put k.winFrom key t,
                                       qual := Sparse.store k.qual key (if 2 ≤ n then 0 else n) 0 })
  let s := if 2 ≤ n ∧ s.cal.switches.any (fun x => x.cell == c && x.m == m) = false then
      s.modCal (fun k => { k with switches := k.switches ++ [⟨c, m, (t / 24576000 + 1) * 24576000, a, b⟩] })
    else s
  let late := (c, m, (t / 24576 + 1) * 24576)
  if (elementsNear s es).length < 15 ∧ s.cal.unmatched.contains late = false then
    s.modCal (fun k => { k with unmatched := k.unmatched ++ [late] })
  else s

/-- The channel that modulator m of a cell serves (R103). -/
def servedBy (s : State) (c m : Nat) : Option Nat :=
  let a := s.nat .spare c 1
  if m = 16 then (if a < 16 then some (16 * c + a) else none)
  else if a = m then none else some (16 * c + m)

/-- An overload of the modulator lies, at least in part, in the window from tick a to tick b (R248). -/
def windowSpoiled (s : State) (c m a b : Nat) : Bool :=
  match servedBy s c m with
  | some n => (s.chan n).ovl.on || (s.chan n).flags.any (fun i => match i.src with
      | .overload _ => decide (i.start < b) && (match i.stop with | some e => decide (a < e) | none => true)
      | _ => false)
  | none => false

/-- ESTIMATION_WINDOW_END (R248, R249, R251): a window of 2^n consecutive words of a modulator ends with estimates of its 15
active elements, or is discarded when an overload lies in it. -/
def execEstimationWindowEnd (cell m : Nat) (est : List Int) (s : State) : Host.Outcome State Fault Refusal :=
  let from_ := Sparse.get s.cal.winFrom (17 * cell + m) 0
  let t := from_ + 2 ^ s.nat .cal 0 11 * s.modPeriod cell
  if cell < Config.cells s.variant ∧ m < 17 ∧ s.nat .cal 0 10 = 1 ∧ interrupted s cell = false ∧
      bit (s.nat .refPower cell 3) 1 = true ∧ est.length = 15 ∧ t ≤ s.now then
    .next (if windowSpoiled s cell m from_ t then windowRestart s cell m t else windowEnd s cell m t est)
  else .next s

/-- Background selection is switched (R248): its windows begin when it is switched on. -/
def selectionWrite (s : State) (n : Int) : State :=
  let t := s.setNum .cal 0 10 n
  if s.nat .cal 0 10 = 0 ∧ n = 1 then t.allCells.foldl (fun s c => windowsRestart s c s.now) t else t

/-- The active set of modulator m of a cell switches at t_sw (R250). -/
def elementSwitch (s : State) (x : ElemSwitch) : State :=
  let mask := s.nat .elements x.cell (x.m + 1)
  let s := s.setNum .elements x.cell (x.m + 1) (setBit (clearBit mask x.out) x.into : Nat)
  let s := (s.bump .cellCal x.cell 28 1).setNum .cellCal x.cell 29 x.tick
  let s := windowRestart s x.cell x.m x.tick
  match servedBy s x.cell x.m with
  | some ch => let p := 4 * s.decOf ch; addFlag s ch fSET .timed (x.tick + p) (x.tick + p + 1)
  | none => s

/-- ELEMENT_SWITCH (R250): at the integer second the drifting element gives way to the idle one. -/
def execElementSwitch (cell m : Nat) (s : State) : Host.Outcome State Fault Refusal :=
  match s.cal.switches.find? (fun x => x.cell == cell && x.m == m) with
  | some x =>
    if x.tick ≤ s.now then
      .next (elementSwitch (s.modCal (fun k => { k with switches := k.switches.erase x })) x)
    else .next s
  | none => .next s

/-- MODULATOR_CANNOT_BE_MATCHED (R251): at the whole millisecond the modulator is marked failed, and the spare serves it
when it is free and substitution is automatic. A failing spare serves no channel (R107). -/
def execModulatorCannotBeMatched (cell m : Nat) (s : State) : Host.Outcome State Fault Refusal :=
  match s.cal.unmatched.find? (fun x => x.1 == cell && x.2.1 == m) with
  | some x =>
    if x.2.2 ≤ s.now then
      let s := s.modCal (fun k => { k with unmatched := k.unmatched.erase x })
      let s := s.setNum .spare cell 2 (setBit (s.nat .spare cell 2) m : Nat)
      let s := raise s 46 2 (cell * 256 + m)
      let a := s.nat .spare cell 1
      let s := if m = 16 then (if a < 16 then setSpare s cell 255 s.now else s)
        else if s.nat .cal 0 15 = 1 ∧ bit (s.nat .spare cell 2) 16 = false ∧ (a = 255 ∨ a = m) then setSpare s cell m s.now
        else s
      .next (failedTouch s cell s.now)
    else .next s
  | none => .next s

/-- A value of a signed entry as n little-endian bytes. -/
def intBytes (n : Nat) (v : Int) : Bytes := leBytes n (v % (2 ^ (8 * n) : Int)).toNat

/-- The block of one channel in the calibration image (R257). -/
def imageChan (s : State) (ch : Nat) : Bytes :=
  (List.range 16).flatMap (fun i => intBytes 4 (s.num .chCal ch (i + 1))) ++ leBytes 2 (s.nat .chCal ch 17) ++
    leBytes 2 (s.nat .chCal ch 18) ++ leBytes 2 (s.nat .chCal ch 19) ++ leBytes 2 0

/-- The block of one cell in the calibration image (R257). -/
def imageCell (s : State) (c : Nat) : Bytes :=
  leBytes 1 c ++ leBytes 1 (s.nat .spare c 1) ++ leBytes 2 0 ++ leBytes 4 (s.nat .spare c 2) ++
    (List.range 17).flatMap (fun m => leBytes 4 (s.nat .elements c (m + 1))) ++
    (List.range 8).flatMap (fun i => intBytes 4 (s.num .cellCal c (i + 1))) ++ (chansOf c).flatMap (imageChan s)

/-- The variant code (object 0x1020:01). -/
def variantCode (v : Variant) : Nat := byVar v 900 402 150

/-- The calibration image at the present tick (R257). -/
def calImage (s : State) : Bytes :=
  let n := Config.cells s.variant
  withCrc (leBytes 2 1 ++ leBytes 2 (variantCode s.variant) ++ leBytes 1 n ++ leBytes 3 0 ++ leBytes 8 s.ident ++
    leBytes 4 (s.nat .cal 0 13) ++ leBytes 8 s.now ++ leBytes 4 (36 + 1260 * n) ++ s.allCells.flatMap (imageCell s))

/-- The values of one cell's block lie within their ranges (R258). -/
def imageCellOk (c : Nat) (b : Bytes) : Bool :=
  let sp := leAt b 1 1
  leAt b 0 1 == c && (decide (sp < 16) || sp == 255) &&
    (List.range 17).all (fun m => let k := leAt b (8 + 4 * m) 4; decide (k < 2 ^ 18) && popCount 18 k == 15) &&
    (List.range 8).all (fun i => !outside (-5000) 5000 (toSigned 32 (leAt b (76 + 4 * i) 4))) &&
    (List.range 16).all (fun p =>
      let o := 108 + 72 * p
      (List.range 8).all (fun g => !outside 536870912 1610612736 (toSigned 32 (leAt b (o + 4 * g) 4)) &&
        !outside (-500000) 500000 (toSigned 32 (leAt b (o + 32 + 4 * g) 4))) && decide (leAt b (o + 66) 2 ≤ 4095))

/-- The checks of R258 on an image. -/
def imageOk (s : State) (b : Bytes) : Bool :=
  let n := Config.cells s.variant
  let len := 36 + 1260 * n
  b.length == len && leAt b 0 2 == 1 && leAt b 2 2 == variantCode s.variant && leAt b 4 1 == n && leAt b 8 8 == s.ident &&
    leAt b 28 4 == len && leAt b (len - 4) 4 == crc32c (b.take (len - 4)) &&
    s.allCells.all (fun c => imageCellOk c (slice b (32 + 1260 * c) 1260))

/-- One cell takes its values from the image (R259). -/
def imageCellApply (s : State) (c : Nat) (b : Bytes) : State :=
  let s := s.setNum .spare c 2 (leAt b 4 4 % 2 ^ 17 : Nat)
  let s := setSpare s c (leAt b 1 1) s.now
  let s := (List.range 17).foldl (fun s m => setElements s c m s.now (leAt b (8 + 4 * m) 4)) s
  let s := (List.range 8).foldl (fun s i => s.setNum .cellCal c (i + 1) (toSigned 32 (leAt b (76 + 4 * i) 4))) s
  let s := (List.range 16).foldl (fun s p =>
    let ch := 16 * c + p
    let o := 108 + 72 * p
    let s := (List.range 16).foldl (fun s i => s.setNum .chCal ch (i + 1) (toSigned 32 (leAt b (o + 4 * i) 4))) s
    ((deltaNow s ch (leAt b (o + 64) 2)).setNum .chCal ch 18 (leAt b (o + 66) 2)).setNum .chCal ch 19
      (leAt b (o + 68) 2 % 512 : Nat)) s
  failedTouch s c s.now

/-- A calibration image is written (R258, R259). -/
def imageWrite (s : State) (b : Bytes) : State × Code :=
  if calState s ≠ 1 then (s, .inUse)
  else if !imageOk s b then (s, .outOfRange)
  else
    let old := s
    let s := s.allCells.foldl (fun s c => imageCellApply s c (slice b (32 + 1260 * c) 1260)) s
    let s := onChans s s.allChans (fun s n => chainTouch old s s.now n)
    let s := ((s.setNum .cal 0 13 (leAt b 16 4)).setNum .cal 0 5 0).setNum .cal 0 6 5
    (holdEnded ((s.setNum .cal 0 9 0).modCal (fun k => { k with holdFrom := none })) 5, .success)

/-- A user's write to a calibration value took effect: its validity bit is set (R254), and the hold-off notes it (R259). -/
def calTouch (s : State) (o : Obj) (u sub : Nat) : State :=
  let s := if calState s = 1 ∧ (o = .chCal ∨ o = .cellCal) then s.modCal (fun k => { k with wrote := true }) else s
  if o = .chCal then
    if 1 ≤ sub ∧ sub ≤ 16 then s.setNum .chCal u 19 (setBit (s.nat .chCal u 19) ((sub - 1) % 8) : Nat)
    else if sub = 18 then s.setNum .chCal u 19 (setBit (s.nat .chCal u 19) 8 : Nat)
    else s
  else s

/-- The hold-off that remains, in ms (R233 subindex 0x09). -/
def holdRemaining (s : State) : Nat :=
  match s.cal.holdFrom with
  | some t => if calState s = 1 then 2000 - (s.now - t) / 24576 else 0
  | none => if calState s = 1 then 2000 else 0

end Sys2Proof.Machine
end

