-- ==== Sys2Proof/Machine/Codec.lean ====
section
/-! DEFINITION. The stream codec (spec/10_stream_codec.md): the block layout, the encoder's exact choices, and the decoder
with the checks of R348. -/

namespace Sys2Proof.Machine

open Sys2Proof

/-- The `n` low bits of `v`, most significant first (R333). -/
def natBits : Nat → Nat → List Bool
  | 0, _ => []
  | n + 1, v => bit v n :: natBits n v

/-- The number that bits stand for, most significant first. -/
def bitsNat (bs : List Bool) : Nat := bs.foldl (fun a b => 2 * a + b2n b) 0

/-- `n` bytes from bits, the first bit in bit 7 of the first byte (R333); missing bits are zeros. -/
def packBits : Nat → List Bool → Bytes
  | 0, _ => []
  | n + 1, bs => BitVec.ofNat 8 (bitsNat ((bs ++ List.replicate (8 - bs.length) false).take 8)) :: packBits n (bs.drop 8)

/-- The bits of a byte string. -/
def bitsOf (bs : Bytes) : List Bool := bs.flatMap (fun b => natBits 8 b.toNat)

/-- The number to which a residual is mapped (R335). -/
def zig (e : Int) : Nat := if 0 ≤ e then (2 * e).toNat else (-2 * e - 1).toNat

/-- The residual of a number (R348). -/
def unzig (u : Nat) : Int := if u % 2 = 0 then (u / 2 : Nat) else -((u + 1) / 2 : Nat)

/-- The prediction of order min(k, p) from the values before position k, newest first (R335). -/
def predict (p : Nat) (prev : List Int) : Int :=
  match min prev.length p with
  | 0 => 0
  | 1 => prev.getD 0 0
  | 2 => 2 * prev.getD 0 0 - prev.getD 1 0
  | _ => 3 * prev.getD 0 0 - 3 * prev.getD 1 0 + prev.getD 2 0

/-- The residuals of values that follow `prev` (R335). -/
def residuals (p : Nat) : List Int → List Int → List Int
  | _, [] => []
  | prev, v :: vs => (v - predict p prev) :: residuals p (v :: prev) vs

/-- The values that residuals give after `prev` (R348). -/
def rebuild (p : Nat) : List Int → List Int → List Int
  | _, [] => []
  | prev, e :: es => let v := e + predict p prev; v :: rebuild p (v :: prev) es

/-- Groups of 32. `fuel` bounds the groups. -/
def groups32 {α : Type} : Nat → List α → List (List α)
  | 0, _ => []
  | k + 1, xs => if xs.isEmpty then [] else xs.take 32 :: groups32 k (xs.drop 32)

/-- The partitions that hold residuals, of the numbers of positions 1 to n − 1 (R336). -/
def partitions {α : Type} (us : List α) : List (List α) :=
  if us.isEmpty then [] else us.take 31 :: groups32 us.length (us.drop 31)

/-- The bits of one number with parameter K (R338). -/
def codeLen (k u : Nat) : Nat := if u / 2 ^ k < 16 then u / 2 ^ k + 1 + k else 43

/-- The code of one number with parameter K (R338). -/
def codeBits (k u : Nat) : List Bool :=
  if u / 2 ^ k < 16 then List.replicate (u / 2 ^ k) true ++ false :: natBits k u
  else List.replicate 16 true ++ natBits 27 u

/-- The least argument from 0 to n at which `f` is smallest. -/
def argMin (f : Nat → Nat) : Nat → Nat
  | 0 => 0
  | n + 1 => let b := argMin f n; if f (n + 1) < f b then n + 1 else b

/-- The cost of a partition with parameter K (R339). -/
def partCost (us : List Nat) (k : Nat) : Nat := us.foldl (fun a u => a + codeLen k u) 5

/-- The parameter of a partition (R339). -/
def bestK (us : List Nat) : Nat := argMin (partCost us) 26

/-- The mapped residuals of a block's values at order p (R335). -/
def mapped (p : Nat) : List Int → List Nat
  | [] => []
  | v :: vs => (residuals p [v] vs).map zig

/-- The bits of a value section at order p, before padding (R340). -/
def valueCount (p : Nat) (vs : List Int) : Nat :=
  (partitions (mapped p vs)).foldl (fun a us => a + partCost us (bestK us)) 24

/-- The order of a block (R340). -/
def bestOrder (maxOrder : Nat) (vs : List Int) : Nat := argMin (fun p => valueCount p vs) (min maxOrder (vs.length - 1))

/-- One partition: the parameter field, then its residuals (R337). -/
def partBits (us : List Nat) : List Bool := natBits 5 (bestK us) ++ us.flatMap (codeBits (bestK us))

/-- The value section before padding (R337). -/
def valueBits (p : Nat) (vs : List Int) : List Bool :=
  natBits 24 (vs.headD 0 % 16777216).toNat ++ (partitions (mapped p vs)).flatMap partBits

/-- The residuals that a block codes in the overflow form (object 0x4800:06). -/
def overflowCount (p : Nat) (vs : List Int) : Nat :=
  ((partitions (mapped p vs)).map (fun us => (us.filter (fun u => decide (16 ≤ u / 2 ^ bestK us))).length)).foldl (· + ·) 0

/-- Maximal runs: value and length (R334). -/
def runsOf : List Nat → List (Nat × Nat)
  | [] => []
  | x :: xs =>
    match runsOf xs with
    | (y, n) :: rs => if x = y then (y, n + 1) :: rs else (x, 1) :: (y, n) :: rs
    | [] => [(x, 1)]

/-- The status section (R334). -/
def statusBytes (words : List Nat) : Bytes :=
  let rs := runsOf (words.map (· % 256))
  leBytes 1 (rs.length - 1) ++ rs.flatMap (fun r => leBytes 1 r.1 ++ leBytes 1 (r.2 - 1))

/-- The HEAD and TAIL bits of a block (R331). -/
def BlkDef.ends (k : BlkDef) : Nat :=
  32 * b2n (decide (k.first % k.b ≠ 0)) + 16 * b2n (decide ((k.first + k.words.length) % k.b ≠ 0))

/-- A block's header (R330). -/
def BlkDef.header (k : BlkDef) (flags p len : Nat) : Bytes :=
  leBytes 1 1 ++ leBytes 1 flags ++ leBytes 2 k.ch ++ leBytes 2 k.words.length ++ leBytes 1 p ++ leBytes 1 0 ++
    leBytes 8 k.first ++ leBytes 4 k.d ++ leBytes 4 len

/-- Bytes with their CRC-32C appended (R342). -/
def sealCrc (bs : Bytes) : Bytes := bs ++ leBytes 4 (crc32c bs)

/-- The raw block (R332); `vfy` marks a block emitted again after a verification mismatch (R344). -/
def BlkDef.raw (k : BlkDef) (vfy : Bool) : Bytes :=
  sealCrc (k.header (128 + 64 * b2n vfy + k.ends) 0 (28 + 4 * k.words.length) ++ k.words.flatMap (leBytes 4))

/-- The values of a block's words (R335). -/
def BlkDef.values (k : BlkDef) : List Int := k.words.map wordValue

/-- The order of a coded block. -/
def BlkDef.order (k : BlkDef) : Nat := bestOrder k.maxOrder k.values

/-- The bytes of a coded block's value section, with its padding (R333). -/
def BlkDef.valueBytes (k : BlkDef) : Nat :=
  let s := 24 + (statusBytes k.words).length
  ceilTo 4 (s + ceilDiv (valueCount k.order k.values) 8) - s

/-- The length of the coded block (R333). -/
def BlkDef.codedLen (k : BlkDef) : Nat := 24 + (statusBytes k.words).length + k.valueBytes + 4

/-- The coded block (R333). -/
def BlkDef.coded (k : BlkDef) : Bytes :=
  sealCrc (k.header k.ends k.order k.codedLen ++ statusBytes k.words ++
    packBits k.valueBytes (valueBits k.order k.values))

/-- The encoder emits the coded block (R341). -/
def BlkDef.isCoded (k : BlkDef) : Bool := k.coding && decide (k.codedLen < 28 + 4 * k.words.length)

/-- The block that the encoder emits (R341). -/
def BlkDef.encode (k : BlkDef) : Bytes := if k.isCoded then k.coded else k.raw false

/-- Take n bits. -/
def takeBits (n : Nat) (bs : List Bool) : Option (Nat × List Bool) :=
  if n ≤ bs.length then some (bitsNat (bs.take n), bs.drop n) else none

/-- Read one-bits up to a zero bit, at most `f` of them (R338). -/
def takeOnes : Nat → List Bool → Option (Nat × List Bool)
  | 0, bs => some (0, bs)
  | _ + 1, [] => none
  | _ + 1, false :: bs => some (0, bs)
  | f + 1, true :: bs => (takeOnes f bs).map (fun r => (r.1 + 1, r.2))

/-- Read one number with parameter K (R338). -/
def takeCode (k : Nat) (bs : List Bool) : Option (Nat × List Bool) :=
  match takeOnes 16 bs with
  | none => none
  | some (q, r) =>
    if q < 16 then (takeBits k r).map (fun t => (q * 2 ^ k + t.1, t.2)) else takeBits 27 r

/-- Read m numbers with parameter K. -/
def takeCodes (k : Nat) : Nat → List Bool → Option (List Nat × List Bool)
  | 0, bs => some ([], bs)
  | m + 1, bs =>
    match takeCode k bs with
    | none => none
    | some (u, r) => (takeCodes k m r).map (fun t => (u :: t.1, t.2))

/-- Read the partitions of the given sizes (R337, R348 code 8). -/
def takeParts : List Nat → List Bool → Option (List Nat × List Bool)
  | [], bs => some ([], bs)
  | m :: ms, bs =>
    match takeBits 5 bs with
    | none => none
    | some (k, r) =>
      if 26 < k then none
      else
        match takeCodes k m r with
        | none => none
        | some (us, t) => (takeParts ms t).map (fun v => (us ++ v.1, v.2))

/-- The sizes of the partitions of n − 1 residuals (R336). -/
def partSizes (n : Nat) : List Nat := (partitions (List.replicate (n - 1) ())).map List.length

/-- Read the status entries of N_r runs (R334). -/
def takeRuns : Nat → Bytes → List (Nat × Nat)
  | 0, _ => []
  | n + 1, bs => (leAt bs 0 1, leAt bs 1 1 + 1) :: takeRuns n (bs.drop 2)

/-- The status bytes that runs stand for. -/
def expandRuns (rs : List (Nat × Nat)) : List Nat := rs.flatMap (fun r => List.replicate r.2 r.1)

/-- A sample word from its value and its flags (R182). -/
def wordOf (v : Int) (flags : Nat) : Nat := (v % 16777216).toNat * 256 + flags

/-- The value section of a coded block, read (R348 codes 8 and 9): a reason code, or the values. -/
def readValues (n p : Nat) (bs : List Bool) : Nat × List Int :=
  match takeBits 24 bs with
  | none => (8, [])
  | some (a, r) =>
    match takeParts (partSizes n) r with
    | none => (8, [])
    | some (us, pad) =>
      if 32 ≤ pad.length ∨ pad.any id = true then (8, [])
      else
        let v0 := toSigned 24 a
        let vs := v0 :: rebuild p [v0] (us.map unzig)
        if vs.any (outside (-8388608) 8388607) then (9, []) else (0, vs)

/-- The body of a coded block (R348 codes 7 to 9). -/
def readCoded (bs : Bytes) : Nat × List Nat :=
  let n := leAt bs 4 2
  let nr := leAt bs 24 1 + 1
  let rs := takeRuns nr (bs.drop 25)
  if bs.length < 25 + 2 * nr + 4 ∨ (rs.map (·.2)).foldl (· + ·) 0 ≠ n then (7, [])
  else
    let sect := (bs.drop (25 + 2 * nr)).take (bs.length - 4 - (25 + 2 * nr))
    let r := readValues n (leAt bs 6 1) (bitsOf sect)
    if r.1 ≠ 0 then (r.1, []) else (0, (r.2.zip (expandRuns rs)).map (fun q => wordOf q.1 q.2))

/-- A block decoded under codes 1 to 9 of R348, in a space of its own length: the reason code, 0 for an accepted block, and
the sample words. -/
def decodeBlock (bs : Bytes) : Nat × List Nat :=
  let l := bs.length
  let flags := leAt bs 1 1
  let n := leAt bs 4 2
  let p := leAt bs 6 1
  if l < 32 ∨ l % 4 ≠ 0 ∨ 1052 < l ∨ leAt bs 20 4 ≠ l then (1, [])
  else if leAt bs (l - 4) 4 ≠ crc32c (bs.take (l - 4)) then (2, [])
  else if leAt bs 0 1 ≠ 1 then (3, [])
  else if flags % 16 ≠ 0 ∨ leAt bs 7 1 ≠ 0 ∨ (bit flags 6 = true ∧ bit flags 7 = false) then (4, [])
  else if n = 0 ∨ 256 < n ∨ 3 < p ∨ n ≤ p ∨ (bit flags 7 = true ∧ p ≠ 0) then (5, [])
  else if bit flags 7 then
    if l ≠ 28 + 4 * n then (6, []) else (0, (chunks 4 ((bs.drop 24).take (4 * n))).map leNat)
  else readCoded bs

end Sys2Proof.Machine
end

