-- ==== Sys2Proof/Machine/Reduction.lean ====
section
/-! DEFINITION. The reduction engine (spec/09_reduction_engine.md): window definitions, band filters, statistics, window
records and cross-hub reductions. -/

namespace Sys2Proof.Machine

open Sys2Proof

/-- The members of a window's list (R298). -/
def winMembers (s : State) (w : Nat) : List Nat := u16s (s.bytes .window w 2)

/-- The definition of a window in the configuration (R298). -/
def winDef (s : State) (w : Nat) : WinDef :=
  { mode := s.nat .window w 1, members := winMembers s w, w := s.nat .window w 3, phase := s.nat .window w 4,
    take := s.nat .window w 5, span := s.nat .window w 6, lead := s.nat .window w 7, tail := s.nat .window w 8,
    mask := s.nat .window w 9, dest := s.nat .window w 10 }

/-- The total decimation of a channel in the configuration. -/
def cfgD (s : State) (ch : Nat) : Nat := (decW (s.nat .chFilter ch 1)).D

/-- One day in grid ticks (R299). -/
abbrev dayTicks : Nat := 2123366400000

/-- The rules of R299 on window w, in a configuration. -/
def winLegal (cfg : State) (w : Nat) : Option Deny :=
  let d := winDef cfg w
  if d.members.any (fun ch => decide (Config.channels cfg.variant ≤ ch)) || !(decide d.members.Nodup)
  then some (.notRoutable, 0)
  else if (cfg.bytes .window w 2).length % 2 ≠ 0 ∨ 384 < d.members.length ∨ (d.mode ≠ 0 ∧ d.members = [])
  then some (.outOfRange, 0)
  else if d.mode = 1 ∧ d.members.any (fun ch => let p := 4 * cfgD cfg ch
      d.w % p != 0 || d.phase % p != 0 || decide (d.w < p)) = true then some (.outOfRange, 0)
  else if d.mode = 1 ∧ (dayTicks < d.w ∨ d.w ≤ d.phase) then some (.outOfRange, 0)
  else if d.mode = 2 ∧ d.members.any (fun ch => !(takeMembers cfg d.take).contains ch) = true then some (.outOfRange, 0)
  else if 3 < d.dest then some (.outOfRange, 0)
  else none

/-- A band slot is used. -/
def slotUsed (d : Nat) : Bool := decide (d < 32)

/-- The used slots of a channel in a configuration name definitions of its D (R311). -/
def bandsMatch (cfg : State) (ch : Nat) : Bool :=
  (List.range 8).all (fun j =>
    let d := cfg.nat .chBands ch (j + 1)
    !slotUsed d || cfg.nat .band d 1 == cfgD cfg ch)

/-- The reduction load of a configuration (R312). -/
def redLoad (cfg : State) : Nat :=
  (cfg.allChans.map (fun ch =>
    ((List.range 8).map (fun j =>
      let d := cfg.nat .chBands ch (j + 1)
      if slotUsed d then cfg.nat .band d 2 * 6144000 / cfgD cfg ch else 0)).foldl (· + ·) 0)).foldl (· + ·) 0

/-- The band slots of present channels that name a definition, effective or staged (R307); a slot that still runs it, until the first
sample of a change (R310), names it too. -/
def bandRefs (s : State) (b : Nat) : Nat :=
  let staged := s.allStaged.filter (fun w => w.obj == .chBands && w.num == (b : Int))
  let runs := fun (ch j : Nat) => match Sparse.find s.bands ch with
    | some k => (match k.slots[j]? with | some q => q.d == b | none => false) || k.waits.any (fun w => w.2.1 == j && w.2.2 == b)
    | none => false
  (s.allChans.map (fun ch => ((List.range 8).filter (fun j =>
    s.nat .chBands ch (j + 1) == b || staged.any (fun w => w.u == ch && w.sub == j + 1) || runs ch j)).length)).foldl (· + ·) 0

/-- The checks of a write to a band definition (R307). -/
def bandCheck (s cfg : State) (b sub : Nat) : Option Code :=
  if bandRefs s b ≠ 0 then some .inUse
  else
    let d := cfg.nat .band b 1
    if sub = 1 ∧ (d < 48 ∨ 6144000 % d ≠ 0) then some .outOfRange else none

/-- The entries of a cross-hub reduction's contributions: ring position and channel (R320). -/
def crossEntries (s : State) (x : Nat) : List (Nat × Nat) :=
  (chunks 4 (s.bytes .crossHub x 3)).map (fun b => (leAt b 0 1, leAt b 2 2))

/-- The rules of R320 on definition x. -/
def crossLegal (cfg : State) (x sub : Nat) : Bool :=
  let bs := cfg.bytes .crossHub x 3
  let es := crossEntries cfg x
  match sub with
  | 1 => cfg.nat .crossHub x 1 == 0 || cfg.isManager
  | 3 => bs.length % 4 == 0 && decide (1 ≤ es.length) && decide (es.length ≤ 4096) && decide es.Nodup &&
      es.all (fun e => decide (e.1 ≤ 62)) && (chunks 4 bs).all (fun b => leAt b 1 1 == 0)
  | _ => true

/-- The checks of a write to the reduction engine's staged objects, or to a decimation word (R299, R300, R311, R312,
R320). -/
def reductionCheck (cfg view : State) (receipt : Bool) (o : Obj) (u sub : Nat) : Option Deny :=
  let load : Option Deny := if 200000000 < redLoad cfg then some (.procBudget, 2) else none
  match o with
  | .window => winLegal cfg u
  | .chBands =>
    let d := cfg.nat .chBands u sub
    if receipt ∧ 32 ≤ d ∧ d ≠ 255 then some (.outOfRange, 0)
    else if !bandsMatch cfg u then some (.outOfRange, 0)
    else load
  | .chFilter =>
    if sub ≠ 1 then none
    else if (List.range 32).any (fun w =>
        let d := winDef view w
        let p := 4 * cfgD view u
        d.mode == 1 && d.members.contains u && (d.w % p != 0 || d.phase % p != 0)) then some (.inUse, 0)
    else if !bandsMatch cfg u then some (.outOfRange, 0)
    else load
  | .crossHub => if receipt ∧ crossLegal cfg u sub = false then some (.outOfRange, 0) else none
  | _ => none

/-- A window that never ran. -/
def WinSt.init : WinSt := { defs := [], next := none, runs := [], bound := [] }

/-- Window w beside its objects. -/
def State.win (s : State) (w : Nat) : WinSt := Sparse.get s.wins w WinSt.init

/-- Window w changed. -/
def State.modWin (s : State) (w : Nat) (f : WinSt → WinSt) : State :=
  { s with wins := Sparse.store s.wins w (f (s.win w)) WinSt.init }

/-- The first window start of a definition at or after tick t. -/
def WinDef.startAfter (d : WinDef) (t : Nat) : Nat := if t ≤ d.phase then d.phase else d.phase + ceilTo d.w (t - d.phase)

/-- The definition of a window that applied at a tick (R302, R304); `now` is the present one. -/
def WinSt.defAt (k : WinSt) (t : Nat) (now : WinDef) : WinDef := histAt k.defs t ((k.defs.getLast?.map (·.2)).getD now)

/-- Windows run: from the stream start on, but not between a re-anchor's start and its load (R318, R599). -/
def winsRun (s : State) : Bool := s.nat .startup 0 3 == 6 && s.clk.anchorDue.isNone

/-- A window's definition changed at tick t, `old` before and `s` after (R302): a change waits for a window start of the definition in
force; one that sets mode 1 while no window start is to come gives the first. -/
def winTouch (old s : State) (w t : Nat) : State :=
  let d := winDef s w
  let k := s.win w
  let past := if k.defs = [] then [(0, winDef old w)] else k.defs
  let next := if k.next.isSome then k.next else if winsRun s = true ∧ d.mode = 1 then some (d.startAfter t) else none
  s.modWin w (fun k => { k with defs := ((t, d) :: past).take 64, next := next })

/-- A member that has seen nothing. -/
def Stat.init : Stat :=
  { n := 0, ex := 0, sum := 0, sq := 0, lo := none, hi := none, first := none, last := none, peak := 0, cross0 := 0,
    cross1 := 0, flags := List.replicate 8 0, energy := List.replicate 8 0, count := List.replicate 8 0, bsat := false, d := 0, due := 0, since := 0,
    defs := none }

/-- The first window start of a window that stopped at tick t: that of the oldest change after t that sets mode 1 (R302). -/
def WinSt.again (k : WinSt) (t : Nat) : Option Nat :=
  (k.defs.reverse.find? (fun p => decide (t < p.1) && p.2.mode == 1)).map (fun p => p.2.startAfter p.1)

/-- A window start of window w (R302, R649): the definition in effect then takes force; a window runs under it. -/
def winStart (s : State) (w : Nat) : State :=
  match (s.win w).next with
  | none => s
  | some t =>
    let d := (s.win w).defAt t (winDef s w)
    if d.mode ≠ 1 then s.modWin w (fun k => { k with next := k.again t })
    else if t < d.phase then s.modWin w (fun k => { k with next := some d.phase })
    else
      let i := (t - d.phase) / d.w
      let stop := d.phase + (i + 1) * d.w
      let run : WinRun := { i := i, start := t, stop := stop, part := decide (d.phase + i * d.w ≠ t), anch := none, d := d,
                            accs := d.members.map (fun _ => Stat.init) }
      s.modWin w (fun k => { k with next := some stop, runs := k.runs ++ [run] })

/-- WINDOW_START (R302): the next window start of a grid window is reached. -/
def execWindowStart (w : Nat) (s : State) : Host.Outcome State Fault Refusal :=
  match (s.win w).next with
  | some t => if w < 32 ∧ t ≤ s.now then .next (winStart s w) else .next s
  | none => .next s

/-- Window starts up to grid time g that have not been performed are, before a sample of that time is reduced. -/
def winCatchUp (s : State) (g : Nat) : State :=
  s.wins.foldl (fun s p => match (s.win p.1).next with
    | some t => if t ≤ g then winStart s p.1 else s
    | none => s) s

/-- A cleared slot (R310), before sample k. -/
def BandSlot.clear (d k : Nat) : BandSlot := { d := d, s1 := [0, 0, 0, 0], s2 := [0, 0, 0, 0], cleared := k }

/-- The bands of a channel as it starts. -/
def State.bandInit (s : State) (ch : Nat) : BandCh :=
  { slots := (List.range 8).map (fun j => BandSlot.clear (s.nat .chBands ch (j + 1)) 0), waits := [], clears := [],
    last := List.replicate 9 none }

/-- The bands of a channel. -/
def State.bandCh (s : State) (ch : Nat) : BandCh := (Sparse.find s.bands ch).getD (s.bandInit ch)

/-- The bands of a channel replaced. -/
def State.putBand (s : State) (ch : Nat) (b : BandCh) : State := { s with bands := Sparse.put s.bands ch b }

/-- Band slots of a channel changed at tick t: `old` before, `s` after (R310). -/
def bandTouch (old s : State) (ch t : Nat) : State :=
  let ws := (List.range 8).filterMap (fun j =>
    let d := s.nat .chBands ch (j + 1)
    if d = old.nat .chBands ch (j + 1) then none else some (t, j, d))
  if ws = [] then s
  else
    let b := (Sparse.find s.bands ch).getD (old.bandInit ch)
    s.putBand ch { b with waits := b.waits ++ ws }

/-- The slots of a channel are cleared before the first sample whose grid time is after t (R310). -/
def bandClear (s : State) (ch t : Nat) : State :=
  let b := s.bandCh ch
  s.putBand ch { b with clears := b.clears ++ [t] }

/-- A decimation switch or a load numbers the samples anew: the earlier ones that count against an output lie before the cleared
state (R309, R310). -/
def bandAnew (s : State) (ch t : Nat) : State :=
  let s := bandClear s ch t
  s.putBand ch { s.bandCh ch with last := List.replicate 9 none }

/-- The bands of a channel as a load of the grid count leaves them: the earlier samples have no number in the new count (R309). -/
def BandCh.renumber (b : BandCh) (move : Nat → Nat) : BandCh :=
  { slots := b.slots.map (fun q => { q with cleared := 0 }), waits := b.waits.map (fun w => (move w.1, w.2)), clears := b.clears.map move,
    last := List.replicate 9 none }

/-- One biquad section on input x (R308): the output, the new history, and whether it was limited. -/
def biquad (c h : List Int) (x : Int) : Int × List Int × Bool :=
  let acc := c.getD 0 0 * x + c.getD 1 0 * h.getD 0 0 + c.getD 2 0 * h.getD 1 0 - c.getD 3 0 * h.getD 2 0 -
    c.getD 4 0 * h.getD 3 0
  let r := shiftR acc 30
  let y := clampI (-8388608) 8388607 r
  (y, [x, h.getD 0 0, y, h.getD 2 0], outside (-8388608) 8388607 r)

/-- The coefficients of a section of a band definition. -/
def sectionCoefs (s : State) (d i : Nat) : List Int := (List.range 5).map (fun j => s.num .band d (3 + 5 * i + j))

/-- A slot takes a sample's value (R308): the slot and what it gave. -/
def slotRun (s : State) (b : BandSlot) (x : Int) : BandSlot × Option BandOut :=
  if !slotUsed b.d then (b, none)
  else
    let (y1, h1, l1) := biquad (sectionCoefs s b.d 0) b.s1 x
    if s.nat .band b.d 2 = 2 then
      let (y2, h2, l2) := biquad (sectionCoefs s b.d 1) b.s2 y1
      ({ b with s1 := h1, s2 := h2 }, some ⟨b.d, y2, l1 || l2, b.cleared, s.nat .band b.d 13⟩)
    else ({ b with s1 := h1 }, some ⟨b.d, y1, l1, b.cleared, s.nat .band b.d 13⟩)

/-- The bands of a channel take sample k of grid time g with value x and flags, or a missing sample (R308 to R310): the
outputs of the slots, and the flag history before the sample. -/
def bandRun (s : State) (ch k g : Nat) (x : Int) (flags : Option Nat) : State × List (Option BandOut) × List (Option Nat) :=
  let b := s.bandCh ch
  let slots := if b.clears.any (fun t => decide (t < g)) then b.slots.map (fun q => BandSlot.clear q.d k) else b.slots
  let slots := b.waits.foldl (fun (l : List BandSlot) w =>
    if w.1 ≤ g then l.set w.2.1 (BandSlot.clear w.2.2 k) else l) slots
  let rs := slots.map (fun q => slotRun s q x)
  let sats := (rs.filter (fun r => match r.2 with | some o => o.sat | none => false)).length
  let hit := fun (i : Nat) => match flags with | some f => decide (i < 8) && bit f i | none => i == 8
  let last := (List.range 9).map (fun i => if hit i then some k else b.last.getD i none)
  let s := s.putBand ch { slots := rs.map (·.1), waits := b.waits.filter (fun w => decide (g < w.1)),
                          clears := b.clears.filter (fun t => decide (g ≤ t)), last := last }
  (if sats = 0 then s else s.bump .chBands ch 9 sats, rs.map (·.2), b.last)

/-- The latest index before a sample at which a masked flag or a missing sample occurred. -/
def lastBad (mask : Nat) (last : List (Option Nat)) : Option Nat :=
  (List.range 9).foldl (fun (a : Option Nat) i =>
    if i = 8 ∨ bit mask i then
      match a, last.getD i none with
      | some x, some y => some (max x y)
      | some x, none => some x
      | none, y => y
    else a) none

/-- A slot's output counts at an included sample (R309). -/
def outCounts (k : Nat) (bad : Option Nat) (o : BandOut) : Bool :=
  (match bad with | some b => decide (b + o.guard < k) | none => true) && decide (o.cleared + o.guard ≤ k)

/-- The smaller of two extremes, ties to the lower index (R306). -/
def lower (a : Option (Int × Nat)) (v : Int) (k : Nat) : Option (Int × Nat) :=
  match a with
  | some (x, i) => if v < x ∨ (v = x ∧ k < i) then some (v, k) else some (x, i)
  | none => some (v, k)

/-- The larger of two extremes, ties to the lower index (R306). -/
def higher (a : Option (Int × Nat)) (v : Int) (k : Nat) : Option (Int × Nat) :=
  match a with
  | some (x, i) => if x < v ∨ (v = x ∧ k < i) then some (v, k) else some (x, i)
  | none => some (v, k)

/-- The definition number of a slot from its output: 0xFF for an unused slot (R315). -/
def slotDef (o : Option BandOut) : Nat := (o.map (·.d)).getD 255

/-- A member takes a present sample (R305, R306, R309) under an exclusion mask. -/
def Stat.take (mask : Nat) (a : Stat) (x : Samp) : Stat :=
  let f := x.word % 256
  let v := wordValue x.word
  let a := { a with defs := some (x.outs.map slotDef), flags := (List.range 8).map (fun j => a.flags.getD j 0 + b2n (bit f (7 - j))),
                    cross0 := a.cross0 + b2n x.cross0, cross1 := a.cross1 + b2n x.cross1,
                    bsat := a.bsat || x.outs.any (fun o => match o with | some o => o.sat | none => false) }
  if f &&& mask ≠ 0 then { a with ex := a.ex + 1 }
  else
    let bad := lastBad mask x.last
    let on := fun (j : Nat) => match x.outs.getD j none with
      | some o => if outCounts x.k bad o then some o.y else none
      | none => none
    { a with n := a.n + 1, sum := a.sum + v, sq := a.sq + v.natAbs ^ 2, lo := lower a.lo v x.k, hi := higher a.hi v x.k,
             first := match a.first with | some p => if x.k < p.2 then some (v, x.k) else some p | none => some (v, x.k),
             last := match a.last with | some p => if p.2 < x.k then some (v, x.k) else some p | none => some (v, x.k),
             peak := max a.peak v.natAbs,
             energy := (List.range 8).map (fun j => a.energy.getD j 0 + (match on j with | some y => y.natAbs ^ 2 | none => 0)),
             count := (List.range 8).map (fun j => a.count.getD j 0 + b2n (on j).isSome) }

/-- Every grid window in progress takes a sample of a channel with grid time g (R301). -/
def winSample (s : State) (ch g : Nat) (x : Samp) : State :=
  s.wins.foldl (fun s p =>
    if (s.win p.1).runs.any (fun r => decide (r.start ≤ g) && decide (g < r.stop) && r.d.members.contains ch) then
      s.modWin p.1 (fun k => { k with runs := k.runs.map (fun r =>
        if r.start ≤ g ∧ g < r.stop ∧ (r.anch.all (fun a => decide (g < a))) then
          { r with accs := (r.d.members.zip r.accs).map (fun q =>
              if q.1 = ch then { Stat.take r.d.mask q.2 x with d := s.decOf ch } else q.2) }
        else r) })
    else s) s

/-- A missing sample's saturations still mark the windows that cover it (R308), and its slots count for R315. -/
def winMissing (s : State) (ch g : Nat) (outs : List (Option BandOut)) : State :=
  let sat := outs.any (fun o => match o with | some o => o.sat | none => false)
  s.wins.foldl (fun s p =>
    if (s.win p.1).runs.any (fun r => decide (r.start ≤ g) && decide (g < r.stop) && r.d.members.contains ch) then
      s.modWin p.1 (fun k => { k with runs := k.runs.map (fun r =>
        if r.start ≤ g ∧ g < r.stop then
          { r with accs := (r.d.members.zip r.accs).map (fun q =>
              if q.1 = ch then { q.2 with bsat := q.2.bsat || sat, defs := some (outs.map slotDef) } else q.2) }
        else r) })
    else s) s

/-- A signed or unsigned value as n bytes. -/
abbrev le := intBytes

/-- One member's fields that are not in its statistics: flags, D, and the missing count (R315, R316). -/
structure Blk where
  ch : Nat
  d : Nat
  missing : Nat
  short : Bool
  trunc : Bool
  a : Stat
  deriving DecidableEq, Repr

/-- The member flags of R316. -/
def Blk.flags (b : Blk) : Nat :=
  16 * b2n b.short + 8 * b2n b.trunc + 4 * b2n b.a.bsat + 2 * b2n (decide (0 < b.missing)) + b2n (decide (b.a.n = 0))

/-- The mean of R306. -/
def meanOf (sum : Int) (n : Nat) : Int := if n = 0 then 0 else roundHalfAway sum n

/-- A value and its index, or zeros. -/
def vk (p : Option (Int × Nat)) : Int × Nat := p.getD (0, 0)

/-- The member block of R315. `defs` are the definitions of the channel's slots. -/
def memberBytes (defs : List Nat) (b : Blk) : Bytes :=
  let a := b.a
  let used := (List.range 8).filter (fun j => slotUsed (defs.getD j 255))
  le 2 b.ch ++ le 1 used.length ++ le 1 b.flags ++ defs.flatMap (fun d => le 1 d) ++ le 4 b.d ++ le 8 a.n ++ le 8 a.ex ++
    le 8 b.missing ++ le 12 a.sum ++ le 12 a.sq ++ le 4 (vk a.lo).1 ++ le 4 (vk a.hi).1 ++ le 8 (vk a.lo).2 ++
    le 8 (vk a.hi).2 ++ le 4 (vk a.first).1 ++ le 4 (vk a.last).1 ++ le 8 (vk a.first).2 ++ le 8 (vk a.last).2 ++
    le 4 a.peak ++ le 4 (meanOf a.sum a.n) ++ le 4 a.cross0 ++ le 4 a.cross1 ++ a.flags.flatMap (fun f => le 4 f) ++
    used.flatMap (fun j => le 12 (a.energy.getD j 0) ++ le 8 (a.count.getD j 0))

/-- The definitions of a channel's slots in use: what R315 lists for a member with no sample at all. -/
def slotDefs (s : State) (ch : Nat) : List Nat := (s.bandCh ch).slots.map (·.d)

/-- What the header of a window record holds (R313). -/
structure WinHead where
  ty : Nat
  w : Nat
  flags : Nat
  index : Nat
  start : Nat
  stop : Nat
  take : Nat
  len : Nat
  deriving DecidableEq, Repr

/-- The window record of R313. -/
def winRecord (s : State) (h : WinHead) (bs : List Blk) : Bytes :=
  let blocks := bs.flatMap (fun b => memberBytes (b.a.defs.getD (slotDefs s b.ch)) b)
  let ds := bs.map (·.d)
  let d := if ds.all (fun x => x == ds.headD 0) then ds.headD 0 else 0
  withCrc (le 2 h.ty ++ le 2 1 ++ le 4 (68 + blocks.length : Nat) ++ le 1 h.w ++ le 1 0 ++ le 2 bs.length ++ le 2 h.flags ++
    le 2 0 ++ le 8 h.index ++ le 8 h.start ++ le 8 h.stop ++ le 4 d ++ le 4 h.take ++ le 8 s.ident ++ le 8 h.len ++ blocks)

/-- The record of a window is counted, kept and announced (R298, R305, R317). -/
def winIssue (s : State) (w index : Nat) (dest : Nat) (miss : Bool) (bs : Bytes) : State :=
  let s := (s.bump .window w 11 1).setNum .window w 12 index
  let s := if miss then raise (s.bump .window w 13 1) 59 1 w else s
  if bit dest 1 then s.setBytes .winLast w 1 bs else s

/-- The samples of period p whose grid time lies from `a` up to `b`. -/
def samplesIn (p a b : Nat) : Nat := ceilDiv b p - ceilDiv a p

/-- The samples of a member's range from where the present D counts up to tick b (R301). -/
def Stat.from_ (a : Stat) (r : WinRun) (d b : Nat) : Nat := samplesIn (4 * d) (max a.since r.start) (min b r.stop)

/-- A channel's decimation switches at t: the samples up to t of every window in progress are counted by the old D (R190,
R305). -/
def winSwitch (s : State) (ch t : Nat) : State :=
  let d := s.decOf ch
  s.wins.foldl (fun s p => s.modWin p.1 (fun k => { k with runs := k.runs.map (fun r =>
    { r with accs := (r.d.members.zip r.accs).map (fun q =>
        if q.1 = ch then { q.2 with due := q.2.due + q.2.from_ r d (t + 1), since := max q.2.since (t + 1) } else q.2) }) })) s

/-- The block of a member of a grid window (R305). -/
def runBlk (s : State) (r : WinRun) (ch : Nat) (a : Stat) : Blk :=
  let d := s.decOf ch
  { ch := ch, d := if a.d = 0 then d else a.d, missing := a.due + a.from_ r d r.stop - (a.n + a.ex), short := false,
    trunc := false, a := a }

/-- A grid window's record (R313, R314, R317). -/
def runRecord (s : State) (w : Nat) (r : WinRun) : Bytes × Bool :=
  let bs := (r.d.members.zip r.accs).map (fun q => runBlk s r q.1 q.2)
  let miss := bs.any (fun b => decide (0 < b.missing))
  let fl := 32 * b2n r.part + 16 * b2n (bs.any (fun b => b.a.bsat)) + 2 * b2n r.anch.isSome + b2n miss
  (winRecord s { ty := 0x10, w := w, flags := fl, index := r.i, start := r.start, stop := r.stop, take := 0xFFFFFFFF,
                 len := r.d.w } bs, miss)

/-- Every member's last sample of the window has been emitted (R317), or of the part before the re-anchor that closed it (R318);
at the load no sample of the old count is left. -/
def runDone (s : State) (r : WinRun) : Bool :=
  let upTo := r.anch.getD r.stop
  (r.anch.isSome && s.clk.anchorDue.isNone) ||
    r.d.members.all (fun ch => decide (upTo ≤ 4 * s.decOf ch * (s.chan ch).nextK))

/-- The range of a member of a take-bound window as slots of the take record (R303): first and last, before trims. Slots behind a
tideline are not held. -/
def boundSlots (d : WinDef) (f : Fill) : Int × Int :=
  let a : Int := f.nPre - f.held
  let b : Int := f.nPre
  let last := fun (hi : Int) => match f.tide with | some x => min x hi | none => hi
  match d.span with
  | 0 => (b, last (b + f.post - 1))
  | 1 => (a, last (b + f.post - 1))
  | _ => (a, last (b - 1))

/-- The block of a member of a take-bound window (R303, R305, R316). -/
def boundBlk (d : WinDef) (f : Fill) (i : Nat) (ch : Nat) : Blk :=
  let (lo, hi) := boundSlots d f
  let lo := lo + d.lead
  let hi := hi - d.tail
  let first : Int := f.kt.getD i 0 - f.nPre
  let words := (f.copied.getD i []).filter (fun x => !outside (first + lo) (first + hi) x.k)
  let a := words.foldl (fun a x => Stat.take d.mask a x) Stat.init
  let size := (hi - lo + 1).toNat
  { ch := ch, d := f.d, missing := size - (a.n + a.ex), short := decide (f.held < f.nPre) && decide (d.span ≠ 0),
    trunc := f.tide.isSome && decide (d.span ≠ 2), a := a }

/-- The start and end ticks of a take-bound record (R313). -/
def boundTicks (d : WinDef) (f : Fill) (kts : List Int) : Nat × Nat :=
  let at_ := fun (lo hi : Int) => (4 * (f.d : Int) * (kts.foldl min (kts.headD 0) - f.nPre + lo),
    4 * (f.d : Int) * (kts.foldl max (kts.headD 0) - f.nPre + hi + 1))
  let (lo, hi) := boundSlots d f
  let (a, b) := if lo + d.lead ≤ hi - d.tail then at_ (lo + d.lead) (hi - d.tail)
    else if lo ≤ hi then at_ lo hi else ((f.tick : Int), (f.tick : Int))
  (a.toNat, b.toNat)

/-- A take-bound window's record of a committed take (R303, R304, R313, R314). -/
def boundRecord (s : State) (w t seq : Nat) (d : WinDef) (f : Fill) : Bytes × Bool :=
  let ms := d.members.filterMap (fun ch => (f.members.findIdx? (· == ch)).map (fun i => (i, ch)))
  let bs := ms.map (fun q => boundBlk d f q.1 q.2)
  let miss := bs.any (fun b => decide (0 < b.missing))
  let (a, b) := boundTicks d f (ms.map (fun q => f.kt.getD q.1 0))
  let fl := 16 * b2n (bs.any (fun b => b.a.bsat)) + 8 * b2n (decide (f.held < f.nPre) && decide (d.span ≠ 0)) +
    4 * b2n (f.tide.isSome && decide (d.span ≠ 2)) + b2n miss
  (winRecord s { ty := 0x11, w := w, flags := fl, index := seq, start := a, stop := b, take := t, len := 0 } bs, miss)

/-- A re-anchor at tick a closes every grid window in progress (R318); windows then follow the new count from the load
tick. -/
def winsReanchor (s : State) (a : Nat) : State :=
  s.wins.foldl (fun s p => s.modWin p.1 (fun k =>
    { k with next := none, runs := k.runs.map (fun r => if r.anch.isNone && decide (a < r.stop) then { r with anch := some a } else r) })) s

/-- Windows start under their definitions in effect from tick t on (R302, R318). -/
def winsStart (s : State) (t : Nat) : State :=
  (List.range 32).foldl (fun s w =>
    let d := winDef s w
    if d.mode = 0 ∧ (s.win w).defs = [] then s
    else s.modWin w (fun k => { k with defs := [(t, d)], next := if d.mode = 1 then some (d.startAfter t) else none })) s

/-- A cross-hub reduction that has received nothing. -/
def CrossSt.init : CrossSt := { pend := [], first := 0, next := none, issued := [] }

/-- Reduction x beside its objects. -/
def State.crossSt (s : State) (x : Nat) : CrossSt := Sparse.get s.cross x CrossSt.init

/-- Reduction x changed. -/
def State.modCross (s : State) (x : Nat) (f : CrossSt → CrossSt) : State :=
  { s with cross := Sparse.store s.cross x (f (s.crossSt x)) CrossSt.init }

/-- A cross-hub definition is on from tick t: its first index is that of the first window from t on. -/
def crossBegin (s : State) (x t : Nat) : State :=
  let w := s.nat .crossHub x 4
  let ph := s.nat .crossHub x 5
  let i := if t ≤ ph then 0 else ceilDiv (t - ph) w
  s.modCross x (fun k => { k with first := if k.next.isSome then min k.first i else i, next := some i })

/-- A cross-hub definition changed at tick t, `old` before and `s` after: turned on, or with other windows, it begins. -/
def crossTouch (old s : State) (x t : Nat) : State :=
  let same := [4, 5].all (fun i => old.nat .crossHub x i == s.nat .crossHub x i)
  if s.nat .crossHub x 1 = 1 then
    if (s.crossSt x).next.isSome && same then s else crossBegin (s.modCross x (fun _ => CrossSt.init)) x t
  else s.modCross x (fun _ => CrossSt.init)

/-- Index i of a reduction is issued (R322). -/
def CrossSt.isIssued (k : CrossSt) (i : Nat) : Bool :=
  k.issued.contains i || (match k.next with | some n => decide (k.first ≤ i) && decide (i < n) | none => false)

/-- The first index from n on that is not among the issued ones. `fuel` bounds them. -/
def nextIssue (issued : List Nat) : Nat → Nat → Nat
  | 0, n => n
  | fuel + 1, n => if issued.contains n then nextIssue issued fuel (n + 1) else n

/-- Index i of a reduction is issued from now on. -/
def CrossSt.issue (k : CrossSt) (i : Nat) : CrossSt :=
  let issued := i :: k.issued
  let next := k.next.map (fun n => nextIssue issued issued.length n)
  { k with pend := k.pend.filter (fun p => p.i != i), next := next
           issued := issued.filter (fun j => decide (j < k.first) || (match next with | some n => decide (n ≤ j) | none => true)) }

/-- The expected mask of definition x (R324). -/
def crossExpected (s : State) (x : Nat) : Nat := (crossEntries s x).foldl (fun m e => setBit m e.1) 0

/-- The member block of a channel in a window record, by walking its blocks. -/
def findBlock (ch : Nat) : Nat → Bytes → Option Bytes
  | 0, _ => none
  | n + 1, bs =>
    let len := 160 + 20 * leAt bs 2 1
    if bs.length < len then none
    else if leAt bs 0 2 = ch then some (bs.take len)
    else findBlock ch n (bs.drop len)

/-- An integer field of a block, two's complement in n bytes. -/
def fieldI (b : Bytes) (o n : Nat) : Int := toSigned (8 * n) (leAt b o n)

/-- The least (or greatest) extreme over the used blocks, with its source (R323): value, ring position, channel, index. -/
def crossExtreme (bs : List CrossBlk) (o oi : Nat) (smallest : Bool) : Int × Nat × Nat × Nat :=
  let cand := (bs.filter (fun b => !bit (leAt b.blk 3 1) 0)).map (fun b => (fieldI b.blk o 4, b.pos, b.ch, leAt b.blk oi 8))
  let better := fun (a b : Int × Nat × Nat × Nat) =>
    (if smallest then decide (a.1 < b.1) else decide (b.1 < a.1)) ||
      (a.1 == b.1 && lexLt [a.2.1, a.2.2.1, a.2.2.2] [b.2.1, b.2.2.1, b.2.2.2])
  match cand with
  | [] => (0, 0, 0, 0)
  | c :: cs => cs.foldl (fun b a => if better a b then a else b) c

/-- The sum of an unsigned field over the used blocks. -/
def crossSum (bs : List CrossBlk) (o n : Nat) : Nat := (bs.map (fun b => leAt b.blk o n)).foldl (· + ·) 0

/-- The combined block of R323, R324. -/
def combinedBlock (defs : List Nat) (bs : List CrossBlk) : Bytes :=
  let n := crossSum bs 16 8
  let sum := (bs.map (fun b => fieldI b.blk 40 12)).foldl (· + ·) 0
  let lo := crossExtreme bs 64 72 true
  let hi := crossExtreme bs 68 80 false
  let src := fun (e : Int × Nat × Nat × Nat) => le 1 e.2.1 ++ le 1 0 ++ le 2 e.2.2.1 ++ le 8 e.2.2.2
  let used := (List.range 8).filter (fun j => slotUsed (defs.getD j 255))
  le 8 n ++ le 8 (crossSum bs 24 8) ++ le 8 (crossSum bs 32 8) ++ le 16 sum ++ le 16 (crossSum bs 52 12) ++
    le 4 lo.1 ++ le 4 hi.1 ++ src lo ++ src hi ++
    le 4 ((bs.map (fun b => leAt b.blk 112 4)).foldl max 0) ++ le 4 (meanOf sum n) ++ le 8 (crossSum bs 120 4) ++
    le 8 (crossSum bs 124 4) ++ (List.range 8).flatMap (fun j => le 8 (crossSum bs (128 + 4 * j) 4)) ++ le 1 used.length ++
    List.replicate 15 0 ++
    (List.range used.length).flatMap (fun j => le 16 (crossSum bs (160 + 20 * j) 12) ++ le 8 (crossSum bs (172 + 20 * j) 8))

/-- The definition numbers of a cross-hub reduction's band slots (R320). -/
def crossDefs (s : State) (x : Nat) : List Nat := (List.range 8).map (fun j => s.nat .crossHub x 7 / 256 ^ j % 256)

/-- The combined record of R324. -/
def combinedRecord (s : State) (x : Nat) (c : CrossIdx) : Bytes :=
  let w := s.nat .crossHub x 4
  let ph := s.nat .crossHub x 5
  let expected := crossExpected s x
  let defs := crossDefs s x
  let used := (defs.filter slotUsed).length
  let fl := b2n (decide (c.got ≠ expected)) + 2 * b2n c.bad + 4 * b2n (c.blks.any (fun b => bit (leAt b.blk 3 1) 1)) +
    8 * b2n (c.blks.any (fun b => bit (leAt b.blk 3 1) 2))
  withCrc (le 2 0x12 ++ le 2 1 ++ le 4 (260 + 24 * used : Nat) ++ le 1 x ++ le 1 (s.nat .crossHub x 2) ++ le 2 fl ++
    le 4 c.blks.length ++ le 8 c.i ++ le 8 (ph + c.i * w : Nat) ++ le 8 (ph + (c.i + 1) * w : Nat) ++
    le 4 (s.nat .crossHub x 6) ++ le 4 0 ++ le 8 expected ++ le 8 c.got ++ combinedBlock defs c.blks)

/-- The combined record of an index is issued (R322, R325): the state, and the record for port C. -/
def crossIssue (s : State) (x : Nat) (c : CrossIdx) : State × Bytes :=
  let r := combinedRecord s x c
  let s := (s.bump .crossHub x 9 1).setBytes .crossLast x 1 r
  let s := if c.got = crossExpected s x then s else raise (s.bump .crossHub x 10 1) 60 3 (x * 256)
  (s.modCross x (fun k => k.issue c.i), r)

/-- A record of the hub at a ring position is accepted by definition x (R321): its window index. -/
def crossAccepts (s : State) (x : Nat) (r : Bytes) : Option Nat :=
  let w := s.nat .crossHub x 4
  let ph := s.nat .crossHub x 5
  let i := leAt r 16 8
  if s.nat .crossHub x 1 = 1 ∧ leAt r 0 2 = 0x10 ∧ leAt r 8 1 = s.nat .crossHub x 2 ∧ leAt r 24 8 = ph + i * w ∧
      leAt r 32 8 = ph + (i + 1) * w ∧ leAt r (r.length - 4) 4 = crc32c (r.take (r.length - 4)) then some i else none

/-- One contribution of an accepted record is used or is mismatched (R321). -/
def crossOne (s : State) (x pos ch : Nat) (r : Bytes) (c : CrossIdx) : State × CrossIdx :=
  let bad := fun (s : State) =>
    (raise (s.bump .crossHub x 12 1) 60 1 (x * 256 + pos), { c with bad := true })
  match findBlock ch 384 ((r.drop 64).take (r.length - 68)) with
  | some b =>
    if leAt b 12 4 = s.nat .crossHub x 6 ∧ (slice b 4 8).map (·.toNat) = crossDefs s x then
      (s, { c with blks := c.blks ++ [⟨pos, ch, b⟩] })
    else bad s
  | none => bad s

/-- Definition x looks at a record from a ring position (R321, R322): the state, and the combined record it completes. -/
def crossTake (s : State) (x pos : Nat) (r : Bytes) : State × Option Bytes :=
  match crossAccepts s x r with
  | none => (s, none)
  | some i =>
    let mine := (crossEntries s x).filter (fun e => e.1 == pos)
    if mine = [] then (s, none)
    else if (s.crossSt x).isIssued i then (raise (s.bump .crossHub x 11 1) 60 2 (x * 256 + pos), none)
    else
      let c := ((s.crossSt x).pend.find? (fun p => p.i == i)).getD { i := i, got := 0, bad := false, blks := [] }
      if bit c.got pos then (s, none)
      else
        let (s, c) := mine.foldl (fun (p : State × CrossIdx) e => crossOne p.1 x pos e.2 r p.2) (s, { c with got := setBit c.got pos })
        if c.got = crossExpected s x then
          let (s, b) := crossIssue s x c
          (s, some b)
        else (s.modCross x (fun k => { k with pend := k.pend.filter (fun p => p.i != i) ++ [c] }), none)

/-- The lowest index of definition x that is not issued. -/
def crossLowest (s : State) (x : Nat) : Option CrossIdx :=
  let k := s.crossSt x
  let n := k.next.map (fun i => (k.pend.find? (fun p => p.i == i)).getD { i := i, got := 0, bad := false, blks := [] })
  k.pend.foldl (fun (a : Option CrossIdx) p => match a with
    | some c => if p.i < c.i then some p else some c
    | none => some p) n

end Sys2Proof.Machine
end

