-- ==== Sys2Proof/Machine/Streams.lean ====
section
/-! DEFINITION. Streams, acknowledgement and the spill ring (spec/11_streams_and_spill.md): instances, items, gap records,
KSF frames, and a manager's side of them. -/

namespace Sys2Proof.Machine

open Sys2Proof

/-- The streams record changed. -/
def State.modStrm (s : State) (f : StrmSt → StrmSt) : State := { s with strm := f s.strm }

/-- A stream that never ran. -/
def StreamSt.init : StreamSt := { accs := [], want := [], gap := none, ann := false, ackAt := none, old := [] }

/-- Stream n beside its object; 255 is the record stream. -/
def State.stream (s : State) (n : Nat) : StreamSt := Sparse.get s.strm.streams n StreamSt.init

/-- Stream n changed. -/
def State.modStream (s : State) (n : Nat) (f : StreamSt → StreamSt) : State :=
  s.modStrm (fun k => { k with streams := Sparse.store k.streams n (f (s.stream n)) StreamSt.init })

/-- The number of the record stream (R361). -/
abbrev recStream : Nat := 255

/-- The members of a stream's list (R354). -/
def streamMembers (s : State) (n : Nat) : List Nat := u16s (s.bytes .stream n 2)

/-- The instance number of the record stream: the boot count's low 32 bits (R361). -/
def recInstance (s : State) : Nat := s.nat .startup 0 2 % 2 ^ 32

/-- The rules of R355 on stream n, in a configuration. -/
def streamLegal (cfg : State) (n : Nat) : Option Code :=
  let ms := streamMembers cfg n
  let len := (cfg.bytes .stream n 2).length
  if ms.any (fun ch => decide (Config.channels cfg.variant ≤ ch)) || !(decide ms.Nodup) then some .notRoutable
  else if len % 2 ≠ 0 ∨ 384 < ms.length ∨ (cfg.nat .stream n 1 ≠ 0 ∧ ms = []) then some .outOfRange
  else if ¬ cfg.nat .stream n 3 ∈ [8, 16, 32, 64, 128, 256] then some .outOfRange
  else if cfg.nat .stream n 4 < 1112 ∨ 1500 < cfg.nat .stream n 4 then some .outOfRange
  else if 10000 < cfg.nat .stream n 5 then some .outOfRange
  else none

/-- The DRAM that an item occupies (R373). -/
def itemRoom (len : Nat) : Nat := 32 * ceilDiv (20 + len) 32

/-- The room that items take. -/
def itemsRoom (is : List Item) : Nat := (is.map (fun i => itemRoom i.bytes.length)).foldl (· + ·) 0

/-- Bytes held in the spill partition (object 0x4A80:06): on a worker blocks and announcements, on a manager uplink frames
(R373, R383). -/
def spillHeld (s : State) : Nat :=
  ((s.strm.spaces.filter (fun p => p.stream != recStream)).map (fun p => itemsRoom p.items)).foldl (· + ·) 0 +
    (s.strm.upFrames.map (fun f => itemRoom f.bytes.length)).foldl (· + ·) 0

/-- The items of the record stream's spaces. -/
def recItems (s : State) : List Item := (s.strm.spaces.filter (fun p => p.stream == recStream)).flatMap (·.items)

/-- A record's type, of its bytes. -/
def recordType (b : Bytes) : Nat := leAt b 0 2

/-- Bytes held in the records partition without the gap store (object 0x4A80:07). -/
def recHeld (s : State) : Nat := itemsRoom ((recItems s).filter (fun i => recordType i.bytes != 0x20))

/-- Bytes held in the gap store (object 0x4A80:08). -/
def gapHeld (s : State) : Nat := itemsRoom ((recItems s).filter (fun i => recordType i.bytes == 0x20))

/-- The spill partition's size in bytes. -/
def spillSize (s : State) : Nat := s.strm.spillMb * 1048576

/-- The spill reserve in bytes (R374). -/
def spillReserve (s : State) : Nat := spillSize s * s.nat .partitions 0 3 / 64

/-- The size of the hand-off ring (R574). -/
abbrev handSize : Nat := 2097152

/-- The bytes an item takes in the hand-off ring, from a write offset on: a pad to the ring's end where the entry would wrap,
and the entry (R574). -/
def handNeed (w len : Nat) : Nat × Nat :=
  let n := 16 + ceilTo 16 len
  (if handSize < w % handSize + n then handSize - w % handSize else 0, n)

/-- The host hand-off is in use (R574). -/
def handOn (s : State) : Bool := s.isManager && s.has .handoff 0 && s.nat .handoff 0 1 == 1

/-- An item fits the hand-off ring, or needs no place in it (R574). -/
def handFits (s : State) (len : Nat) : Bool :=
  !handOn s ||
    (let w := s.nat .handoff 0 3
     let n := handNeed w len
     decide (w + n.1 + n.2 ≤ s.nat .handoff 0 4 + handSize))

/-- An uplink frame with an item of this length can be held, or need not be (R383). -/
def upFits (s : State) (len : Nat) : Bool :=
  s.nat .uplink 0 1 == 0 || decide (spillHeld s + itemRoom (60 + ceilTo 4 len) ≤ spillSize s)

/-- An item fits: on a worker the spill partition, less its reserve unless `full` (R375, R376); on a manager the places to
which it passes items on. -/
def spillFits (s : State) (len : Nat) (full : Bool) : Bool :=
  if s.isManager then handFits s len && upFits s len
  else decide (spillHeld s + itemRoom len + (if full then 0 else spillReserve s) ≤ spillSize s)

/-- A gap record with E entries fits the gap store (R374, R380). -/
def gapFits (s : State) (e : Nat) : Bool :=
  if s.isManager then handFits s (68 + 24 * e) && upFits s (68 + 24 * e)
  else decide (gapHeld s + itemRoom (68 + 24 * e) ≤ s.nat .partitions 0 5 * 1048576)

/-- A reduction record fits the records partition less the gap store (R378 cause 9). -/
def recFits (s : State) (len : Nat) : Bool :=
  if s.isManager then handFits s len && upFits s len
  else decide (recHeld s + itemRoom len + s.nat .partitions 0 5 * 1048576 ≤ s.strm.recMb * 1048576)

/-- A descriptor (R363) of an item at an offset of its frame. -/
def descriptor (i : Item) (off : Nat) : Bytes :=
  leBytes 2 i.ch ++ leBytes 2 i.bytes.length ++ leBytes 2 off ++ leBytes 2 i.n ++ leBytes 4 i.d ++ leBytes 8 i.first

/-- Item bytes, each padded to a multiple of 4. -/
def itemBody (i : Item) : Bytes := padTo (ceilTo 4 i.bytes.length) i.bytes

/-- What the header of a KSF frame says (R362). -/
structure KsfHead where
  ty : Nat
  ident : Nat
  pos : Nat
  stream : Nat
  flags : Nat
  num : Nat
  seq : Nat
  tick : Nat
  deriving DecidableEq, Repr

/-- The first 36 bytes of a KSF frame (R362). -/
def KsfHead.front (h : KsfHead) (len k : Nat) : Bytes :=
  leBytes 1 1 ++ leBytes 1 h.ty ++ leBytes 2 len ++ leBytes 8 h.ident ++ leBytes 1 h.pos ++ leBytes 1 h.stream ++
    leBytes 2 h.flags ++ leBytes 4 h.num ++ leBytes 4 h.seq ++ leBytes 8 h.tick ++ leBytes 2 k ++ leBytes 2 0

/-- The descriptors of items from an offset on. -/
def descriptors : Nat → List Item → Bytes
  | _, [] => []
  | off, i :: is => descriptor i off ++ descriptors (off + (itemBody i).length) is

/-- A data or record frame (R362, R363). -/
def ksfData (h : KsfHead) (is : List Item) : Bytes :=
  let body := is.flatMap itemBody
  let ds := descriptors (40 + 20 * is.length) is
  let front := h.front (40 + 20 * is.length + body.length) is.length
  front ++ leBytes 4 (crc32c (front ++ ds)) ++ ds ++ body

/-- An ACK or NACK frame (R362, R366, R367). -/
def ksfControl (h : KsfHead) (body : Bytes) : Bytes :=
  let front := h.front (40 + body.length) 0
  front ++ leBytes 4 (crc32c (front ++ body)) ++ body

/-- The frame passes the checks of R362: version, type and header CRC-32C. -/
def ksfValid (b : Bytes) : Bool :=
  let ty := leAt b 1 1
  let k := leAt b 32 2
  let len := leAt b 2 2
  decide (40 ≤ b.length) && leAt b 0 1 == 1 && decide (1 ≤ ty) && decide (ty ≤ 4) && decide (len ≤ b.length) &&
    decide (40 + 20 * k ≤ len) &&
    leAt b 36 4 == crc32c (b.take 36 ++ (if ty ≤ 2 then slice b 40 (20 * k) else slice b 40 (len - 40)))

/-- The smallest grid time of a first sample among a frame's blocks (R362). -/
def firstTick (is : List Item) : Nat :=
  match (is.filter (fun i => i.ch != 0xFFFF)).map (fun i => 4 * i.d * i.first) with
  | [] => 0
  | t :: ts => ts.foldl min t

/-- An item is an instance announcement (R360, R363). -/
def Item.isAnn (i : Item) : Bool := i.n == 0x30 && i.ch == 0xFFFF

/-- The oldest number held in a space above the announcement's, or the next number (R354). Items are held in the order of their
numbers, which are compared modulo 2^32 (R359). -/
def Space.oldest (p : Space) : Nat := ((p.items.find? (fun i => !i.isAnn)).map (·.seq)).getD p.next

/-- The next item of a space would lie 2^31 or more behind the oldest one held (R359). -/
def Space.spread (p : Space) : Bool := decide (2 ^ 31 ≤ (p.next + 2 ^ 32 - p.oldest) % 2 ^ 32)

/-- The announcement of an instance as it is sent now (R360). -/
def annBytes (s : State) (p : Space) : Bytes :=
  let m := p.members.length
  let pad := if m % 2 = 1 then leBytes 2 0xFFFF else []
  sealCrc (leBytes 2 0x30 ++ leBytes 2 1 ++ leBytes 4 (52 + 4 * ceilDiv m 2) ++ leBytes 8 s.ident ++
    leBytes 4 (recInstance s) ++ leBytes 4 p.num ++ leBytes 1 p.stream ++ leBytes 1 0 ++ leBytes 2 p.b ++ leBytes 2 m ++
    leBytes 2 0 ++ leBytes 8 p.tb ++ leBytes 4 p.oldest ++ leBytes 4 0 ++ p.members.flatMap (leBytes 2) ++ pad)

/-- An item as it is sent now: an announcement is formed anew. -/
def Space.fresh (s : State) (p : Space) (i : Item) : Item :=
  if i.isAnn then { i with bytes := annBytes s p } else i

/-- Where a manager sends its uplink (R383). -/
def sendUplink (s : State) (b : Bytes) : State :=
  let s := s.bump .uplink 0 6 1
  let mac := s.nat .uplink 0 3 % 2 ^ 48
  if s.nat .uplink 0 2 = 1 then
    let p := s.nat .uplink 0 5
    sendUdp s mac (s.nat .bridge 0 1) p (s.nat .uplink 0 4) p b
  else sendOwn s 2 mac (frameLen b.length) (.ksf b)

/-- An item in the hand-off ring (R574). -/
def handPut (s : State) (pos : Nat) (ident stream num : Nat) (i : Item) : State :=
  if !handOn s then s
  else
    let w := s.nat .handoff 0 3
    let n := handNeed w i.bytes.length
    let m := if n.1 = 0 then s.dmaBuf else regionStore s.dmaBuf (w % handSize) (leBytes 12 0 ++ leBytes 4 (2 ^ 32 - 1))
    let at_ := (w + n.1) % handSize
    let m := regionStore m at_ (leBytes 1 pos ++ leBytes 1 stream ++ leBytes 2 0 ++ leBytes 4 num ++ leBytes 4 i.seq ++
      leBytes 4 i.bytes.length ++ padTo (ceilTo 16 i.bytes.length) i.bytes)
    let stop := w + n.1 + n.2
    ({ s with dmaBuf := m }.setNum .handoff 0 3 stop).modStrm (fun k => { k with hand := k.hand ++ [(⟨stop, ident, stream, num, i.seq⟩ : HandItem)] })

/-- Items go to the uplink in one frame, which mode 1 holds (R382, R383). -/
def uplinkItems (s : State) (pos ident stream num : Nat) (is : List Item) : State :=
  let first := s.strm.upNext
  let b := ksfData { ty := if stream = recStream then 2 else 1, ident := ident, pos := pos, stream := stream, flags := 2,
                     num := num, seq := first, tick := firstTick is } is
  let s := sendUplink (s.modStrm (fun k => { k with upNext := (k.upNext + is.length) % 2 ^ 32 })) b
  if s.nat .uplink 0 1 = 1 then
    s.modStrm (fun k => { k with upFrames := k.upFrames ++ [⟨first, is.length, b, [], s.now⟩] }) else s

/-- A manager passes an accepted item on: to the uplink, to the host's ring, and a window record to its cross-hub
reductions (R321, R365, R382, R574). -/
def passOn (s : State) (pos ident stream num : Nat) (i : Item) : State :=
  let s := handPut (uplinkItems s pos ident stream num [i]) pos ident stream num i
  if stream = recStream ∧ i.n = 0x10 then { s with crossIn := s.crossIn ++ [(pos, i.bytes)] } else s

/-- The longest prefix of items that a frame of `room` bytes takes, at most `n` of them. -/
def framePrefix : Nat → Nat → List Item → List Item
  | 0, _, _ => []
  | _, _, [] => []
  | n + 1, room, i :: is =>
    let need := 20 + (itemBody i).length
    if need ≤ room then i :: framePrefix n (room - need) is else []

/-- A frame's items from the front: at least one, at most 64, within a budget (R364). -/
def frameItems (budget : Nat) (is : List Item) : List Item :=
  match framePrefix 64 (budget - 40) is with
  | [] => is.take 1
  | l => l

/-- A space of the hub. -/
def State.space (s : State) (stream num : Nat) : Option Space :=
  s.strm.spaces.find? (fun p => p.stream == stream && p.num == num)

/-- A space changed. -/
def State.modSpace (s : State) (stream num : Nat) (f : Space → Space) : State :=
  s.modStrm (fun k => { k with spaces := k.spaces.map (fun p => if p.stream = stream ∧ p.num = num then f p else p) })

/-- A space of a stream. -/
def Space.start (stream num tb : Nat) (members : List Nat) (b : Nat) : Space :=
  { stream := stream, num := num, tb := tb, members := members, b := b, next := 0, gaps := 0, live := true,
    acked0 := false, items := [] }

/-- The record stream's space stands (R361). -/
def withRec (s : State) : State :=
  let n := recInstance s
  if (s.space recStream n).isSome then s
  else s.modStrm (fun k => { k with spaces := k.spaces ++ [Space.start recStream n 0 [] 0] })

/-- The next sequence number that a stream's object shows (0x4A00 + s:08). -/
def showNext (s : State) (stream num : Nat) : State :=
  match s.space stream num with
  | some p => if stream < 16 ∧ p.live then s.setNum .stream stream 8 p.next else s
  | none => s

/-- An own item enters a manager's decoder and is accepted at once, at ring position 0 (R27, R373). -/
def ownItem (s : State) (stream num : Nat) (i : Item) : State :=
  let s := s.bump .mgrAck 0 6 1
  let s :=
    if i.ch = 0xFFFF then s
    else
      let fl := leAt i.bytes 1 1
      let s := s.bump .decoder 0 1 1
      let s := if bit fl 7 then s.bump .decoder 0 2 1 else s
      if bit fl 6 then s.bump .decoder 0 3 1 else s
  passOn s 0 s.ident stream num i

/-- An item takes the next number of its space and is held, or on a manager accepted (R359, R373). -/
def putItem (s : State) (stream num : Nat) (i : Item) : State :=
  match s.space stream num with
  | none => s
  | some p =>
    let i := { i with seq := p.next, formed := s.now }
    let s := s.modSpace stream num (fun p =>
      { p with next := (p.next + 1) % 2 ^ 32, items := if s.isManager then p.items else p.items ++ [i] })
    let s := if s.isManager then ownItem s stream num i else s
    showNext s stream num

/-- An item that is a record: its descriptor says 0xFFFF and the record type (R363). -/
def recordItem (b : Bytes) (rs : List Range) : Item :=
  { seq := 0, bytes := b, ch := 0xFFFF, n := recordType b, d := 0, first := 0, formed := 0, sent := none, again := false,
    range := rs, ord := none }

/-- The hub's ring position: 0 on a manager (object 0x1200:03). -/
def ownPos (s : State) : Nat := if s.isManager then 0 else s.nat .ring 0 3

/-- What a gap record says beside its entries (R377). -/
structure GapHead where
  ident : Nat
  pos : Nat
  stream : Nat
  origin : Nat
  cause : Nat
  state : Nat
  number : Nat
  inst : Nat
  seq : Nat
  count : Nat
  deriving DecidableEq, Repr

/-- The largest value of an unsigned 64-bit field. -/
abbrev allOnes : Nat := 2 ^ 64 - 1

/-- The gap record of R377. The grid times are those of the slots named; 0 for reduction records. -/
def gapRecord (h : GapHead) (rs : List Range) : Bytes :=
  let p := fun (r : Range) (k : Nat) => if h.stream = recStream then 0 else 4 * r.d * k
  let lo := match rs.map (fun r => p r r.first) with | [] => 0 | t :: ts => ts.foldl min t
  let hi := if h.state = 1 then allOnes else (rs.map (fun r => p r (r.last.getD 0))).foldl max 0
  sealCrc (leBytes 2 0x20 ++ leBytes 2 1 ++ leBytes 4 (68 + 24 * rs.length) ++ leBytes 8 h.ident ++ leBytes 1 h.stream ++
    leBytes 1 h.origin ++ leBytes 1 h.cause ++ leBytes 1 h.state ++ leBytes 4 h.number ++ leBytes 4 h.inst ++
    leBytes 4 h.seq ++ leBytes 4 h.count ++ leBytes 2 rs.length ++ leBytes 2 0 ++ leBytes 8 lo ++ leBytes 8 hi ++
    leBytes 1 h.pos ++ leBytes 7 0 ++
    rs.flatMap (fun r => leBytes 2 r.ch ++ leBytes 2 0 ++ leBytes 4 r.d ++ leBytes 8 r.first ++
      leBytes 8 (if h.state = 1 then allOnes else r.last.getD allOnes)))

/-- A gap record of the hub goes into its record stream, when the gap store takes it (R377 to R380). -/
def writeGap (s : State) (h : GapHead) (rs : List Range) : State × Bool :=
  if rs = [] then (s, true)
  else if gapFits s rs.length then
    let s := withRec s
    let s := putItem s recStream (recInstance s) (recordItem (gapRecord h rs) rs)
    (if h.stream < 16 then s.bump .stream h.stream 13 1 else s, true)
  else (s, false)

/-- The next gap number of an instance, taken (R377). -/
def takeGapNumber (s : State) (stream inst : Nat) : State × Nat :=
  let s := if stream = recStream then withRec s else s
  match s.space stream inst with
  | some p => (s.modSpace stream inst (fun p => { p with gaps := p.gaps + 1 }), p.gaps)
  | none => (s, 0)

/-- The hub's own gap record of a cause for an instance, complete at once (R378). -/
def ownGap (s : State) (stream inst cause seq count : Nat) (rs : List Range) : State × Bool :=
  if !gapFits s rs.length then (s, false)
  else
    let (s, n) := takeGapNumber s stream inst
    writeGap s { ident := s.ident, pos := ownPos s, stream := stream, origin := 0, cause := cause, state := 3, number := n,
                 inst := inst, seq := seq, count := count } rs

/-- A range without the slots a to b of a channel and D. -/
def Range.minus (r : Range) (ch d a b : Nat) : List Range :=
  if r.ch ≠ ch ∨ r.d ≠ d ∨ b < r.first ∨ (match r.last with | some l => decide (l < a) | none => false) = true then [r]
  else
    (if r.first < a then [{ r with last := some (a - 1) }] else []) ++
      (match r.last with
        | some l => if b < l then [{ r with first := b + 1 }] else []
        | none => [{ r with first := b + 1 }])

/-- Ranges without the slots a to b of a channel and D. -/
def minusAll (rs : List Range) (ch d a b : Nat) : List Range := rs.flatMap (fun r => r.minus ch d a b)

/-- Ranges that are not empty. -/
def solid (rs : List Range) : List Range :=
  rs.filter (fun r => match r.last with | some l => decide (r.first ≤ l) | none => true)

/-- The open ranges end before grid time t: at the last index of their D whose grid time is below t (R356, R379). -/
def closeAt (rs : List Range) (t : Nat) : List Range :=
  solid ((rs.filter (fun r => decide (0 < r.d))).filterMap (fun r => match r.last with
    | some _ => some r
    | none =>
      let c := ceilDiv t (4 * r.d)
      if r.first < c then some { r with last := some (c - 1) } else none))

/-- The state of a stream (object 0x4A00 + s:06). -/
def State.streamState (s : State) (n : Nat) : Nat := s.nat .stream n 6

/-- A block of an instance has ended (R328). -/
def readyAcc (s : State) (n inst : Nat) (a : BlkAcc) : State :=
  let p := (s.space n inst).map (·.b)
  let r : BlkReady := { tick := 4 * a.d * (a.first + a.words.length - 1), stream := n, inst := inst,
                        blk := { ch := a.ch, first := a.first, d := a.d, b := p.getD 32, coding := a.coding,
                                 maxOrder := a.maxOrder, words := a.words } }
  let before := fun (x : BlkReady) => lexLt [x.tick, x.stream, x.blk.ch, x.blk.first] [r.tick, r.stream, r.blk.ch, r.blk.first]
  s.modStrm (fun k => { k with ready := k.ready.filter before ++ r :: k.ready.filter (fun x => !before x) })

/-- Blocks of an instance have ended (R328). -/
def readyAccs (s : State) (n inst : Nat) (as : List BlkAcc) : State := as.foldl (fun s a => readyAcc s n inst a) s

/-- A block being assembled ends (R328). -/
def endAcc (s : State) (n : Nat) (a : BlkAcc) : State :=
  readyAcc (s.modStream n (fun k => { k with accs := k.accs.filter (fun x => x.ch != a.ch) })) n (s.nat .stream n 7) a

/-- Every block being assembled of a stream ends (R328). -/
def endAccs (s : State) (n : Nat) (p : BlkAcc → Bool) : State :=
  ((s.stream n).accs.filter p).foldl (fun s a => endAcc s n a) s

/-- A stream enters state 4 (R380). -/
def haltStream (s : State) (n : Nat) : State :=
  let s := ((s.setNum .stream n 6 4).bump .stream n 12 1).setNum .stream n 15 s.now
  let s := s.modStream n (fun k => { k with accs := [], gap := none })
  raise s 64 2 n

/-- A gap record for ranges of an instance does not fit the gap store (R380): its stream halts, and the ranges wait for the record of
cause 6; for reduction records the windows do. -/
def gapHalts (s : State) (n inst : Nat) (rs : List Range) : State :=
  if n = recStream then
    let new := rs.filter (fun r => !s.strm.recHalt.any (fun x => x.ch == r.ch && x.d == r.d))
    let s := s.modStrm (fun k => { k with recHalt := k.recHalt ++ new.map (fun r => { r with last := none }) })
    if new = [] then s else raise s 64 2 recStream
  else
    let on := s.streamState n ≠ 0
    let s := if on ∧ inst = s.nat .stream n 7 then s.modStream n (fun k => { k with want := rs ++ k.want })
      else s.modStrm (fun k => { k with owed := k.owed ++ rs.map (fun r => (n, inst, r)) })
    if on ∧ s.streamState n ≠ 4 then haltStream s n else s

/-- A stream falls back to reduction-only (R375): its gap begins at the first slot of each member that is not stored. -/
def fallBack (s : State) (n : Nat) : State :=
  let inst := s.nat .stream n 7
  let s := s.modStream n (fun k => { k with accs := [] })
  let s := s.modStrm (fun k => { k with ready := k.ready.filter (fun r => r.stream != n || r.inst != inst) })
  let rs := (s.stream n).want
  if gapFits s rs.length then
    let (s, g) := takeGapNumber s n inst
    let (s, _) := writeGap s { ident := s.ident, pos := ownPos s, stream := n, origin := 0, cause := 1, state := 1, number := g,
                               inst := inst, seq := 0, count := 0 } rs
    let s := ((s.setNum .stream n 6 2).bump .stream n 12 1).setNum .stream n 15 s.now
    raise (s.modStream n (fun k => { k with gap := some g })) 64 1 n
  else haltStream s n

/-- An instance of stream n begins at tick t (R356, R360, R375). -/
def beginInst (s : State) (n t : Nat) : State :=
  let num := s.strm.nextInst
  let ms := streamMembers s n
  let p := { Space.start n num t ms (s.nat .stream n 3) with next := 1 }
  let want := ms.map (fun ch => let d := s.decOf ch; ({ ch := ch, d := d, first := ceilDiv t (4 * d), last := none } : Range))
  let s := s.modStrm (fun k => { k with nextInst := (k.nextInst + 1) % 2 ^ 32, spaces := k.spaces ++ [p] })
  let s := s.modStream n (fun k => { k with accs := [], want := want, gap := none, ann := true })
  let s := (s.setNum .stream n 7 num).setNum .stream n 8 1
  let a := { recordItem (annBytes s p) [] with formed := s.now }
  if spillFits s a.bytes.length false then
    let s := s.setNum .stream n 6 1
    if s.isManager then ownItem s n num a
    else s.modSpace n num (fun p => { p with items := [a] })
  else fallBack (s.modStream n (fun k => { k with ann := false })) n

/-- Slots of an instance that has ended are named by one complete record, or wait for one (R378, R380). -/
def nameGone (s : State) (n inst cause : Nat) (rs : List Range) : State :=
  let (s, ok) := ownGap s n inst cause 0 0 rs
  if ok then s else gapHalts s n inst rs

/-- Blocks of an instance have still to be stored. -/
def instBusy (s : State) (stream num : Nat) : Bool :=
  (s.stream stream).old.any (fun o => o.inst == num) || s.strm.ready.any (fun r => r.stream == stream && r.inst == num) ||
    s.cust.units.any (fun u => match u.body with | .block n inst _ _ _ => n == stream && inst == num | _ => false)

/-- Item 0 of an ended instance is freed once every item of it has been acknowledged (R360), and a space goes with its last item. -/
def freeEnded (s : State) : State :=
  s.modStrm (fun k =>
    let done := fun (q : Space) => !q.live && q.stream != recStream && !instBusy s q.stream q.num
    let free := fun (q : Space) => if done q && q.acked0 && q.items.all (·.isAnn) then { q with items := [] } else q
    { k with spaces := (k.spaces.map free).filter (fun q =>
        !done q || q.items != [] || k.owed.any (fun o => o.1 == q.stream && o.2.1 == q.num)) })

/-- A slot of the range has still to be emitted: its channel runs at this D and has not come past it. -/
def State.toCome (s : State) (r : Range) : Bool :=
  r.d == s.decOf r.ch && (match r.last with | some l => decide ((s.chan r.ch).nextK ≤ l) | none => true)

/-- Ended instances of stream n whose channels have emitted their last slots end their blocks (R328). -/
def settleOld (s : State) (n : Nat) : State :=
  let late := fun (s : State) (o : OldInst) (ch : Nat) => o.want.any (fun r => r.ch == ch && s.toCome r)
  (s.stream n).old.foldl (fun s o =>
    let s := readyAccs s n o.inst (o.accs.filter (fun a => !late s o a.ch))
    s.modStream n (fun k => { k with old := k.old ++
      (if o.want.any s.toCome then [{ o with accs := o.accs.filter (fun a => late s o a.ch) }] else []) })) (s.modStream n (fun k => { k with old := [] }))

/-- The instance of stream n that runs ends at tick t (R356, R379); samples before t that have still to be emitted go to it. -/
def endInst (s : State) (n t : Nat) : State :=
  let inst := s.nat .stream n 7
  if s.streamState n = 0 then s
  else
    let rs := closeAt (s.stream n).want t
    let s :=
      match (s.stream n).gap with
      | some g =>
        let (s, ok) := writeGap s { ident := s.ident, pos := ownPos s, stream := n, origin := 0, cause := 1, state := 2,
                                    number := g, inst := inst, seq := 0, count := 0 } rs
        if ok then s else (haltStream s n).modStrm (fun k => { k with owed := k.owed ++ rs.map (fun r => (n, inst, r)) })
      | none =>
        if s.streamState n = 4 then s.modStrm (fun k => { k with owed := k.owed ++ rs.map (fun r => (n, inst, r)) })
        else s.modStream n (fun k => { k with old := k.old ++ [OldInst.mk inst t k.accs rs] })
    let s := s.modSpace n inst (fun p => { p with live := false })
    freeEnded ((settleOld (s.modStream n (fun k => { k with accs := [], want := [], gap := none })) n).setNum .stream n 6 0)

/-- A stream's definition changed at tick t (R356): `old` before, `s` after. -/
def streamTouch (old s : State) (n t : Nat) : State :=
  let was := old.nat .stream n 1
  let is_ := s.nat .stream n 1
  let changed := old.bytes .stream n 2 != s.bytes .stream n 2 || old.nat .stream n 3 != s.nat .stream n 3
  if winsRun s = false then s
  else if was = 0 ∧ is_ = 1 then beginInst s n t
  else if was = 1 ∧ is_ = 0 then endInst s n t
  else if was = 1 ∧ is_ = 1 ∧ changed = true then beginInst (endInst s n t) n t
  else s

/-- Every stream of mode 1 begins an instance at tick t (R356, R600). -/
def streamsBegin (s : State) (t : Nat) : State :=
  (List.range 16).foldl (fun s n => if s.nat .stream n 1 = 1 then beginInst s n t else s) s

/-- Every instance ends at tick t (R213, R356). -/
def streamsEnd (s : State) (t : Nat) : State := (List.range 16).foldl (fun s n => endInst s n t) s

/-- The streams that run and have a channel as a member. -/
def streamsOf (s : State) (ch : Nat) : List Nat :=
  (List.range 16).filter (fun n => (s.streamState n != 0 &&
    (match s.space n (s.nat .stream n 7) with | some p => p.members.contains ch | none => false)) ||
      (s.stream n).old.any (fun o => o.want.any (fun r => r.ch == ch)))

/-- A slot lies in one of the ranges. -/
def openIn (rs : List Range) (ch d i : Nat) : Bool :=
  rs.any (fun r => r.ch == ch && r.d == d && decide (r.first ≤ i) && (match r.last with | some l => decide (i ≤ l) | none => true))

/-- The range in which a stream takes samples of a channel at D. -/
def StreamSt.open (k : StreamSt) (ch d i : Nat) : Bool := openIn k.want ch d i

/-- The codec's settings at grid time g: coding and maximum order (R347). -/
def codecAt (s : State) (g : Nat) : Bool × Nat :=
  histAt s.strm.codec g ((s.strm.codec.getLast?.map (·.2)).getD (s.nat .codec 0 1 == 1, s.nat .codec 0 2))

/-- The codec's settings have changed at tick t: `old` before, `s` after (R347). -/
def codecTouch (old s : State) (t : Nat) : State :=
  let now := fun (s : State) => (s.nat .codec 0 1 == 1, s.nat .codec 0 2)
  let past := if s.strm.codec = [] then [(0, now old)] else s.strm.codec
  s.modStrm (fun k => { k with codec := ((t, now s) :: past).take 64 })

/-- The block that sample i of a channel joins: one that it goes on, or a new one (R327, R347). -/
def joinAcc (s : State) (accs : List BlkAcc) (ch d i w : Nat) : BlkAcc :=
  match accs.find? (fun a => a.ch == ch && a.d == d && a.first + a.words.length == i) with
  | some a => { a with words := a.words ++ [w] }
  | none =>
    let c := codecAt s (4 * d * i)
    { ch := ch, first := i, d := d, coding := s.has .codec 0 && c.1, maxOrder := c.2, words := [w] }

/-- The block length of an instance. -/
def State.blockLen (s : State) (n inst : Nat) : Nat := ((s.space n inst).map (·.b)).getD 32

/-- Stream n takes sample i of a member into the instance that runs (R327, R328). -/
def streamTake (s : State) (n ch d i w : Nat) : State :=
  if (s.streamState n ≠ 1 ∧ s.streamState n ≠ 3) ∨ (s.stream n).open ch d i = false then s
  else
    let s := endAccs s n (fun a => a.ch == ch && !(a.d == d && a.first + a.words.length == i))
    let a := joinAcc s (s.stream n).accs ch d i w
    if (i + 1) % s.blockLen n (s.nat .stream n 7) = 0 then endAcc s n a
    else s.modStream n (fun k => { k with accs := k.accs.filter (fun x => x.ch != ch) ++ [a] })

/-- An instance that has ended takes sample i of a member, one of its last (R327, R328, R356). -/
def oldTake (s : State) (n : Nat) (o : OldInst) (ch d i w : Nat) : State :=
  let cut := o.accs.filter (fun a => a.ch == ch && !(a.d == d && a.first + a.words.length == i))
  let s := readyAccs s n o.inst cut
  let a := joinAcc s o.accs ch d i w
  let rest := o.accs.filter (fun x => x.ch != ch)
  let full := decide ((i + 1) % s.blockLen n o.inst = 0)
  let s := if full then readyAcc s n o.inst a else s
  let s := s.modStream n (fun k => { k with old := k.old.map (fun x =>
    if x.inst = o.inst then { x with accs := if full then rest else rest ++ [a] } else x) })
  settleOld s n

/-- Stream n takes sample i of a member into the instance whose slot it is (R356). -/
def streamSample (s : State) (n ch d i w : Nat) : State :=
  match (s.stream n).old.find? (fun o => openIn o.want ch d i) with
  | some o => oldTake s n o ch d i w
  | none => streamTake s n ch d i w

/-- Every stream takes sample i of a channel. -/
def streamsSample (s : State) (ch d i w : Nat) : State := (streamsOf s ch).foldl (fun s n => streamSample s n ch d i w) s

/-- Sample i of a channel at D is missing: the blocks that end before it are formed (R328). -/
def streamsMissing (s : State) (ch : Nat) : State :=
  (streamsOf s ch).foldl (fun s n =>
    let s := endAccs s n (fun a => a.ch == ch)
    let s := (s.stream n).old.foldl (fun s o => readyAccs s n o.inst (o.accs.filter (fun a => a.ch == ch))) s
    settleOld (s.modStream n (fun k => { k with old := k.old.map (fun o => { o with accs := o.accs.filter (fun a => a.ch != ch) }) })) n) s

/-- The first index of a channel at D after a switch at tick t, in an instance that begins at `tb` (R356, R358). -/
def switchFirst (d t tb : Nat) : Nat := max (t / (4 * d) + 1) (ceilDiv tb (4 * d))

/-- The slots of an ended instance after a decimation switch at tick t, before its end `stop` (R358, R379). -/
def switchOld (rs : List Range) (ch d d' t tb stop : Nat) : List Range :=
  rs.flatMap (fun r =>
    if r.ch = ch ∧ r.d = d ∧ r.last.any (fun l => decide (t / (4 * d) < l)) = true then
      solid [{ r with last := some (t / (4 * d)) }, ⟨ch, d', switchFirst d' t tb, some (ceilDiv stop (4 * d') - 1)⟩]
    else [r])

/-- The decimation of a channel switches at tick t from D to D' (R328, R358, R379): its blocks end, its slots go on at the
new D. -/
def streamsSwitch (s : State) (ch d d' t : Nat) : State :=
  (streamsOf s ch).foldl (fun s n =>
    let s := endAccs s n (fun a => a.ch == ch)
    let s := (s.stream n).old.foldl (fun s o => readyAccs s n o.inst (o.accs.filter (fun a => a.ch == ch))) s
    let tb := fun (inst : Nat) => ((s.space n inst).map (·.tb)).getD 0
    let more := (s.stream n).want.any (fun r => r.ch == ch && r.last == none)
    settleOld (s.modStream n (fun k => { k with
      want := if more then solid (k.want.map (fun r =>
        if r.ch = ch ∧ r.last = none then { r with last := some (t / (4 * d)) } else r)) ++ [⟨ch, d', switchFirst d' t (tb (s.nat .stream n 7)), none⟩]
        else k.want
      old := k.old.map (fun o => { o with accs := o.accs.filter (fun a => a.ch != ch), want := switchOld o.want ch d d' t (tb o.inst) o.stop }) }))
      n) s

/-- Slots of the running instance of stream n that are lost are named at once by a gap record (R328, R378); the block before them ends
at the first missing sample. A record that does not fit halts the stream. -/
def nameLost (s : State) (n cause : Nat) (rs : List Range) : State :=
  let rs := rs.filter (fun r => (s.stream n).open r.ch r.d r.first)
  if rs = [] ∨ s.streamState n = 2 ∨ s.streamState n = 4 then s
  else
    let (s, ok) := ownGap s n (s.nat .stream n 7) cause 0 0 rs
    if ok then s.modStream n (fun k => { k with want := rs.foldl (fun w r => minusAll w r.ch r.d r.first (r.last.getD r.first)) k.want })
    else haltStream s n

/-- Slots of ended instances that are lost before they were emitted are named at once (R328, R378). -/
def oldLost (s : State) (n cause : Nat) (rs : List Range) : State :=
  (s.stream n).old.foldl (fun s o =>
    let gone := rs.filter (fun r => openIn o.want r.ch r.d r.first)
    if gone = [] then s
    else
      let s := nameGone s n o.inst cause gone
      settleOld (s.modStream n (fun k => { k with old := k.old.map (fun x =>
        if x.inst = o.inst then { x with
          want := gone.foldl (fun w r => minusAll w r.ch r.d r.first (r.last.getD r.first)) x.want } else x) })) n) s

/-- Slots of ended instances that no sample can come for any more, since the count is loaded anew, are owed to a gap record
(R213, R378). -/
def oldDrop (s : State) (n : Nat) : State :=
  let os := (s.stream n).old
  let s := os.foldl (fun s o =>
    let rs := o.want.filterMap (fun r =>
      if s.toCome r then some { r with first := max r.first (s.chan r.ch).nextK } else none)
    let s := readyAccs s n o.inst o.accs
    if rs = [] then s else nameGone s n o.inst 6 rs) s
  s.modStream n (fun k => { k with old := [] })

/-- Every stream drops what it still expected of ended instances. -/
def oldsDrop (s : State) : State := (List.range 16).foldl (fun s n => oldDrop s n) s

/-- A range that has an end. -/
def Range.upTo (ch d a b : Nat) : Range := { ch := ch, d := d, first := a, last := some b }

/-- Missing samples of channels are named in every stream that has them (R328, R378 causes 2 and 3). -/
def streamsLost (s : State) (cause : Nat) (rs : List Range) : State :=
  (List.range 16).foldl (fun s n =>
    let rs := rs.filter (fun r => (streamsOf s r.ch).contains n && decide (r.first ≤ r.last.getD r.first))
    nameLost (oldLost s n cause rs) n cause rs) s

/-- A released block reaches its stream: it is stored, or the stream falls back (R359, R375, R376). -/
def storeBlock (s : State) (n inst ord : Nat) (k : BlkDef) (b : Bytes) : State :=
  let live := inst = s.nat .stream n 7 ∧ s.streamState n ≠ 0
  let last := k.first + k.words.length - 1
  let item : Item := { seq := 0, bytes := b, ch := k.ch, n := k.words.length, d := k.d, first := k.first, formed := 0,
                       sent := none, again := false, range := [Range.upTo k.ch k.d k.first last], ord := some ord }
  if live ∧ (s.streamState n = 2 ∨ s.streamState n = 4 ∨ (s.stream n).open k.ch k.d k.first = false) then s
  else if spillFits s b.length (s.streamState n = 3) ∧ (s.space n inst).any (·.spread) = false then
    let s := putItem s n inst item
    if live then s.modStream n (fun x => { x with want := minusAll x.want k.ch k.d k.first last }) else s
  else if live then fallBack s n
  else nameGone s n inst 1 [Range.upTo k.ch k.d k.first last]

/-- A reduction record of a window is lost: it is named, and a window whose record cannot be named halts (R378, R380). -/
def recordLost (s : State) (cause w ty index : Nat) : State :=
  let (s, ok) := ownGap s recStream (recInstance s) cause 0 0 [Range.upTo w ty index index]
  if ok then s else gapHalts s recStream (recInstance s) [Range.upTo w ty index index]

/-- A reduction record is stored, or named where it does not fit; a halted window names what it has missed first (R378 cause 9,
R380). -/
def storeRecord (s : State) (w index ord : Nat) (b : Bytes) : State :=
  let ty := recordType b
  let s := withRec s
  let storeFit := fun (s : State) =>
    if recFits s b.length ∧ (s.space recStream (recInstance s)).any (·.spread) = false then
      putItem s recStream (recInstance s) { recordItem b [Range.upTo w ty index index] with ord := some ord }
    else recordLost s 9 w ty index
  match s.strm.recHalt.find? (fun r => r.ch == w && r.d == ty) with
  | some r =>
    let (s, ok) := ownGap s recStream (recInstance s) 6 0 0 [{ r with last := some (index - 1) }]
    if ok then
      let s := s.modStrm (fun k => { k with recHalt := k.recHalt.filter (fun x => !(x.ch == w && x.d == ty)) })
      storeFit s
    else s
  | none => storeFit s

/-- A space without an item that has not been stored after all: it takes no number, so the items behind it move up (R359). -/
def Space.unstore (p : Space) (i : Item) : Space :=
  let before := p.items.takeWhile (fun x => x.ord != i.ord)
  let after := (p.items.drop (before.length + 1)).map (fun x => { x with seq := (x.seq + 2 ^ 32 - 1) % 2 ^ 32 })
  { p with items := before ++ after, next := (p.next + 2 ^ 32 - 1) % 2 ^ 32 }

/-- The unit of an ordinal is lost on a queue behind the multiplexer (R423): its item is not stored, and its range is named. A unit
that has gone out already is past its queue. -/
def loseUnit (s : State) (cause ord : Nat) : State :=
  s.strm.spaces.foldl (fun s p =>
    match p.items.find? (fun i => i.ord == some ord) with
    | some i =>
      if i.sent.isSome then s
      else nameGone (showNext (s.modSpace p.stream p.num (fun q => q.unstore i)) p.stream p.num) p.stream p.num cause i.range
    | none => s) s

/-- The first block boundary of a channel's D at or after tick t (R376). -/
def boundary (d b t : Nat) : Nat := ceilTo b (ceilDiv t (4 * d))

/-- The ranges named when members resume at tick t, and the ranges wanted from then on (R376, R380). -/
def resumeAt (rs : List Range) (b t : Nat) : List Range × List Range :=
  (solid (rs.map (fun r => match r.last with
    | some _ => r
    | none => { r with last := some (max (boundary r.d b t) r.first - 1) })),
   rs.filterMap (fun r => match r.last with
    | some _ => none
    | none => some { r with first := max (boundary r.d b t) r.first }))

/-- A stream in state 3 returns to state 1 once the partition holds no more than its size less the reserve (R376). -/
def recover (s : State) : State :=
  (List.range 16).foldl (fun s n =>
    if s.streamState n = 3 ∧ spillHeld s + spillReserve s ≤ spillSize s then s.setNum .stream n 6 1 else s) s

/-- The announcement of an instance that could not store it before is stored (R376). -/
def storeAnn (s : State) (n : Nat) (p : Space) : State :=
  if (s.stream n).ann then s
  else
    let a := { recordItem (annBytes s p) [] with formed := s.now }
    let s := s.modStream n (fun k => { k with ann := true })
    if s.isManager then ownItem s n p.num a else s.modSpace n p.num (fun p => { p with items := a :: p.items })

/-- A fallen-back stream resumes at tick t (R376). -/
def resumeStream (s : State) (n t : Nat) : State :=
  let inst := s.nat .stream n 7
  match s.space n inst, (s.stream n).gap with
  | some p, some g =>
    if s.streamState n ≠ 2 then s
    else
      let need := (annBytes s p).length
      if (s.stream n).ann = false ∧ spillFits s need true = false then s
      else
        let s := storeAnn s n p
        let (named, want) := resumeAt (s.stream n).want p.b t
        let (s, ok) := writeGap s { ident := s.ident, pos := ownPos s, stream := n, origin := 0, cause := 1, state := 2, number := g,
                                    inst := inst, seq := 0, count := 0 } named
        if ok then recover ((s.modStream n (fun k => { k with want := want, gap := none })).setNum .stream n 6 3)
        else haltStream s n
  | _, _ => s

/-- Halted streams and windows, and slots owed after their instance, get their record once the gap store has room (R380). -/
def resumeHalted (s : State) (t : Nat) : State :=
  let s := s.strm.owed.foldl (fun s o =>
    let (s, ok) := ownGap s o.1 o.2.1 6 0 0 [o.2.2]
    if ok then s.modStrm (fun k => { k with owed := k.owed.erase o }) else s) s
  (List.range 16).foldl (fun s n =>
    if s.streamState n ≠ 4 then s
    else
      let inst := s.nat .stream n 7
      match s.space n inst with
      | some p =>
        let (named, want) := resumeAt (s.stream n).want p.b t
        if gapFits s (max p.members.length named.length) = false ∨
            ((s.stream n).ann = false ∧ spillFits s (annBytes s p).length false = false) then s
        else
          let (s, ok) := ownGap (storeAnn s n p) n inst 6 0 0 named
          if ok then (s.modStream n (fun k => { k with want := want })).setNum .stream n 6 1 else s
      | none => s) s

/-- The frame budget of a space (R354, R361). -/
def budgetOf (s : State) (p : Space) : Nat := if p.stream = recStream then 1500 else s.nat .stream p.stream 4

/-- The packing hold of a space in grid ticks. -/
def holdOf (s : State) (p : Space) : Nat := usTicks (if p.stream = recStream then 20 else s.nat .stream p.stream 5)

/-- A worker can send: it has an upstream port, and a position in the worker table (R364, R480). -/
def canSend (s : State) : Bool := !s.isManager && s.nat .ring 0 2 != 255 && s.nat .ring 0 3 != 255

/-- Items of a space go out in one frame (R362 to R364). -/
def sendItems (s : State) (p : Space) (is : List Item) (again : Bool) : State :=
  match is with
  | [] => s
  | i :: _ =>
    let now := is.map (fun x => x.seq)
    let is := is.map (p.fresh s)
    let b := ksfData { ty := if p.stream = recStream then 2 else 1, ident := s.ident, pos := ownPos s, stream := p.stream,
                       flags := b2n again, num := p.num, seq := i.seq, tick := firstTick is } is
    let s := sendOwn s (s.nat .ring 0 2) s.net.mgrMac (frameLen b.length) (.ksf b)
    let s := s.modSpace p.stream p.num (fun q => { q with items := q.items.map (fun x =>
      if now.contains x.seq then { x with sent := some s.now, again := false } else x) })
    if p.stream < 16 then s.bump .stream p.stream (if again then 11 else 10) is.length else s

/-- The items of a space that have never been sent. -/
def Space.unsent (p : Space) : List Item := p.items.filter (fun i => i.sent.isNone)

/-- The leading items with consecutive numbers (R363). -/
def consecutive : List Item → List Item
  | [] => []
  | [i] => [i]
  | i :: j :: r => if j.seq = (i.seq + 1) % 2 ^ 32 then i :: consecutive (j :: r) else [i]

/-- The frame that a space's unsent items would fill: present when a further item waits or 64 are reached (R364). -/
def fullFrame (s : State) (p : Space) : Option (List Item) :=
  let u := consecutive p.unsent
  let f := frameItems (budgetOf s p) u
  if f ≠ [] ∧ (f.length = 64 ∨ f.length < p.unsent.length) then some f else none

/-- Bytes of resends that the rate limit has not worked off: each millisecond takes 125 bytes per Mb/s (object 0x4A81:03). -/
def resendDebt (s : State) : Nat :=
  s.strm.rateUsed - (s.now / Config.ticksPerMs - s.strm.rateMs) * (s.nat .transmit 0 3 * 125)

/-- The rate limit lets a resend begin: this millisecond's bytes are not used up. -/
def resendRoom (s : State) : Bool := decide (resendDebt s < s.nat .transmit 0 3 * 125)

/-- Resend bytes are counted. -/
def useResend (s : State) (n : Nat) : State :=
  let used := resendDebt s + n
  s.modStrm (fun k => { k with rateMs := s.now / Config.ticksPerMs, rateUsed := used })

/-- The manager of a stream is reachable: an ACK of it has arrived within the reachability timeout (R368). -/
def reachable (s : State) (n : Nat) : Bool :=
  match (s.stream n).ackAt with
  | some t => decide (s.now ≤ t + msTicks (s.nat .transmit 0 2))
  | none => false

/-- Queued resends of a space go out while the rate limit has room and the manager is reachable (R364, R368). `fuel` bounds the frames. -/
def sendAgain : Nat → State → Nat → Nat → State
  | 0, s, _, _ => s
  | f + 1, s, stream, num =>
    match s.space stream num with
    | none => s
    | some p =>
      let is := frameItems (budgetOf s p) (consecutive (p.items.filter (·.again)))
      let len := 40 + (is.map (fun i => 20 + (itemBody i).length)).foldl (· + ·) 0
      if is = [] ∨ canSend s = false ∨ resendRoom s = false ∨ reachable s stream = false then s
      else sendAgain f (useResend (sendItems s p is true) len) stream num

/-- Queued resends of every space. -/
def sendAgainAll (s : State) : State :=
  s.strm.spaces.foldl (fun s p => sendAgain p.items.length s p.stream p.num) s

/-- The first space whose unsent items fill a frame, with the frame. -/
def nextFull (s : State) : Option (Space × List Item) :=
  s.strm.spaces.findSome? (fun p => (fullFrame s p).map (fun f => (p, f)))

/-- Full frames of first transmissions go out, before resends (R364). `fuel` bounds the frames. -/
def sendFull : Nat → State → State
  | 0, s => s
  | n + 1, s =>
    match nextFull s with
    | some (p, f) => if canSend s then sendFull n (sendItems s p f false) else s
    | none => s

/-- The items that have never been sent. -/
def unsentCount (s : State) : Nat := (s.strm.spaces.map (fun p => p.unsent.length)).foldl (· + ·) 0

/-- KSF_DATA_SEND (R364): a space whose pending items fill a frame sends it; first transmissions go before queued resends. -/
def execKsfDataSend (s : State) : Host.Outcome State Fault Refusal :=
  if canSend s = false then .next s
  else
    match nextFull s with
    | some (p, f) => .next (sendItems s p f false)
    | none => .next (sendAgainAll s)

/-- PACKING_HOLD_EXPIRY (R364): the oldest pending item of a space has waited the packing hold. -/
def execPackingHoldExpiry (s : State) : Host.Outcome State Fault Refusal :=
  match s.strm.spaces.find? (fun p => match p.unsent with
    | i :: _ => decide (i.formed + holdOf s p ≤ s.now)
    | [] => false) with
  | some p =>
    if canSend s then .next (sendItems s p (frameItems (budgetOf s p) (consecutive p.unsent)) false) else .next s
  | none => .next s

/-- An item fails its check before a resend (R350, R384): its range is named, and it is freed. An announcement is formed
again from the instance's definition, and a gap record from what it names. -/
def spillFailed (s : State) (p : Space) (i : Item) : State :=
  let s := raise s 63 1 p.stream
  if i.range = [] ∨ recordType i.bytes = 0x20 then s
  else
    let (s, ok) := ownGap s p.stream p.num 4 i.seq 1 i.range
    let s := if ok then s else gapHalts s p.stream p.num i.range
    s.modSpace p.stream p.num (fun q => { q with items := q.items.filter (fun x => x.seq != i.seq) })

/-- Items of a space are to be sent again: each is checked, and goes out unless its check failed (R350, R368). `bad` holds the
numbers whose stored bytes fail. Nothing is resent while the manager is not reachable. -/
def resend (s : State) (p : Space) (is : List Item) (bad : List Nat) : State :=
  let broken := fun (i : Item) => bad.contains i.seq && decide (i.ch ≠ 0xFFFF)
  if reachable s p.stream = false then s
  else
    let s := (is.filter broken).foldl (fun s i => spillFailed s p i) s
    let again := (is.filter (fun i => !broken i)).map (·.seq)
    let s := s.modSpace p.stream p.num (fun q => { q with items := q.items.map (fun x =>
      if again.contains x.seq then { x with again := true } else x) })
    sendAgain is.length (sendFull (unsentCount s) s) p.stream p.num

/-- Uplink frames held, last sent more than the resend timeout ago, go again (R383 with R368). -/
def uplinkResend (s : State) (all : Bool) (nums : List Nat) : State :=
  let due := fun (f : UpFrame) =>
    if all then decide (f.sent + msTicks (s.nat .transmit 0 1) < s.now)
    else (List.range f.count).any (fun j => nums.contains ((f.first + j) % 2 ^ 32))
  let again := fun (b : Bytes) =>
    let front := b.take 14 ++ leBytes 2 3 ++ slice b 16 20
    front ++ leBytes 4 (crc32c (front ++ slice b 40 (20 * leAt b 32 2))) ++ b.drop 40
  let fs := s.strm.upFrames.filter due
  let s := fs.foldl (fun s f => sendUplink s (again f.bytes)) s
  s.modStrm (fun k => { k with upFrames := k.upFrames.map (fun f => if due f then { f with sent := s.now } else f) })

/-- The manager's collector is reachable (R383 with R368). -/
def collectorReachable (s : State) : Bool :=
  match s.strm.upAckAt with
  | some t => decide (s.now ≤ t + msTicks (s.nat .transmit 0 2))
  | none => false

/-- Items of a space last sent more than the resend timeout ago (R368). -/
def overdue (s : State) (p : Space) : List Item :=
  p.items.filter (fun i => match i.sent with
    | some t => decide (t + msTicks (s.nat .transmit 0 1) < s.now)
    | none => false)

/-- RESEND_TIMEOUT (R368, R350): the overdue items of a space go again while its manager is reachable; on a manager its held
uplink frames do. -/
def execResendTimeout (bad : List Nat) (s : State) : Host.Outcome State Fault Refusal :=
  if s.isManager then .next (if collectorReachable s then uplinkResend s true [] else s)
  else
    match s.strm.spaces.find? (fun p => reachable s p.stream && overdue s p != []) with
    | some p => if canSend s then .next (resend s p (overdue s p) bad) else .next s
    | none => .next s

/-- REACHABILITY_TIMEOUT (R368): the streams with no ACK within the reachability timeout stop resending. -/
def execReachabilityTimeout (s : State) : Host.Outcome State Fault Refusal :=
  .next (s.strm.streams.foldl (fun s p =>
    if (s.stream p.1).ackAt.isSome ∧ reachable s p.1 = false then
      (s.modStream p.1 (fun k => { k with ackAt := none })).modStrm (fun k =>
        { k with spaces := k.spaces.map (fun q =>
            if q.stream = p.1 then { q with items := q.items.map (fun i => { i with again := false }) } else q) })
    else s) s)

/-- The first received KSF frame that is valid and of the given types. -/
def inboxKsf (s : State) (p : Nat → Bool) : Option (Nat × Rx × Bytes) :=
  s.net.inbox.zipIdx.findSome? (fun (r, i) => match r.frame.content with
    | .ksf b => if ksfValid b && p (leAt b 1 1) then some (i, r, b) else none
    | _ => none)

/-- `a` comes before `b` modulo 2^32 (R359). -/
def seqBefore (a b : Nat) : Bool := let d := (b + 2 ^ 32 - a) % 2 ^ 32; decide (0 < d) && decide (d < 2 ^ 31)

/-- The ACK with A and a bitmap accounts an item (R366). -/
def ackCovers (a bitmap n : Nat) : Bool :=
  let j := (n + 2 ^ 32 - (a + 1) % 2 ^ 32) % 2 ^ 32
  seqBefore n a || (decide (j < 64) && bit bitmap j)

/-- A hub takes an ACK (R366, R368, R369, R376, R380): it frees items of an instance that the hub knows, and makes a fallen-back
stream resume whatever the instance. -/
def takeAck (s : State) (stream num a bitmap : Nat) : State :=
  let s := if (s.space stream num).isSome then
      (s.modSpace stream num (fun q =>
        { q with items := q.items.filter (fun i => i.isAnn || !ackCovers a bitmap i.seq), acked0 := q.acked0 || ackCovers a bitmap 0 })).modStream
        stream (fun k => { k with ackAt := some s.now })
    else s
  let s := if stream < 16 then resumeStream s stream s.now else s
  freeEnded (recover (resumeHalted s s.now))

/-- A manager takes an ACK of the uplink (R383). -/
def takeUpAck (s : State) (a bitmap : Nat) : State :=
  let one := fun (f : UpFrame) =>
    { f with acked := (List.range f.count).filter (fun j => f.acked.contains j || ackCovers a bitmap ((f.first + j) % 2 ^ 32)) }
  let fs := (s.strm.upFrames.map one).filter (fun f => decide (f.acked.length < f.count))
  let s := s.modStrm (fun k => { k with upAckAt := some s.now, upFrames := fs })
  let s := (List.range 16).foldl (fun s n => resumeStream s n s.now) s
  recover (resumeHalted s s.now)

/-- ACK (R366, R368): the oldest ACK received is taken. -/
def execAck (s : State) : Host.Outcome State Fault Refusal :=
  match inboxKsf s (· == 3) with
  | some (i, _, b) =>
    let s := dropInbox s i
    let a := leAt b 20 4
    let m := leAt b 40 8
    if s.isManager then .next (if leAt b 13 1 = 254 ∧ leAt b 4 8 = s.ident then takeUpAck s a m else s)
    else if leAt b 4 8 = s.ident then .next (takeAck s (leAt b 13 1) (leAt b 16 4) a m)
    else .next s
  | none => .next s

/-- The numbers that a NACK lists (R367), in its order. -/
def nackNumbers (b : Bytes) : List Nat :=
  (List.range (leAt b 40 2)).flatMap (fun r =>
    (List.range (leAt b (48 + 8 * r) 2)).map (fun j => (leAt b (44 + 8 * r) 4 + j) % 2 ^ 32))

/-- NACK (R367, R368, R350): the oldest NACK received is taken, and each listed item that is held goes once, with RETX. -/
def execNack (bad : List Nat) (s : State) : Host.Outcome State Fault Refusal :=
  match inboxKsf s (· == 4) with
  | some (i, _, b) =>
    let s := dropInbox s i
    if leAt b 4 8 ≠ s.ident then .next s
    else if s.isManager then .next (if leAt b 13 1 = 254 then uplinkResend s false (nackNumbers b) else s)
    else
      match s.space (leAt b 13 1) (leAt b 16 4) with
      | some p =>
        let s := s.bump .transmit 0 4 1
        .next (resend s p (p.items.filter (fun x => (nackNumbers b).contains x.seq)) bad)
      | none => .next s
  | none => .next s

end Sys2Proof.Machine
end

