-- ==== Sys2Proof/Machine/Manager.lean ====
section
/-! DEFINITION. A manager's side of streams (R365 to R371, R381, R352): taking KSF frames, acknowledging them, and the
cross-hub reductions that its accepted records feed (R321 to R325). Also the replay decoder (R351). -/

namespace Sys2Proof.Machine

open Sys2Proof

/-- The manager holds this acknowledgement state. -/
def State.ackOf (s : State) (ident stream num : Nat) : Option AckSt :=
  s.strm.acks.find? (fun k => k.ident == ident && k.stream == stream && k.num == num)

/-- An acknowledgement state changed. -/
def State.modAck (s : State) (ident stream num : Nat) (f : AckSt → AckSt) : State :=
  s.modStrm (fun k => { k with acks := k.acks.map (fun a =>
    if a.ident = ident ∧ a.stream = stream ∧ a.num = num then f a else a) })

/-- A frame goes to a worker, on the port of its last join (R484). -/
def sendWorker (s : State) (ident : Nat) (b : Bytes) : State :=
  match s.net.joins.find? (fun j => j.ident == ident) with
  | some j => sendOwn s j.port j.mac (frameLen b.length) (.ksf b)
  | none => s

/-- A worker is at a ring position of the worker table (R365). -/
def atPosition (s : State) (pos ident : Nat) : Bool :=
  decide (1 ≤ pos) && decide (pos ≤ 62) && s.nat .workers 0 pos == ident

/-- The ring position of a worker: that of the worker table as it stands (R362, R487). -/
def workerPos (s : State) (k : AckSt) : Nat :=
  if k.ident = s.ident then 0
  else (((List.range 62).map (· + 1)).find? (fun p => s.nat .workers 0 p == k.ident)).getD k.pos

/-- The boot count of a worker, of its last join (R484). -/
def knownBoot (s : State) (ident : Nat) : Option Nat := (s.net.joins.find? (fun j => j.ident == ident)).map (·.boot)

/-- An acknowledgement state is of an instance that can still run: its worker has not restarted since (R357, R381). -/
def AckSt.current (s : State) (k : AckSt) : Bool := match knownBoot s k.ident with | some b => b == k.boot | none => true

/-- A raises past every accounted number. `fuel` bounds the numbers. -/
def raiseA : Nat → AckSt → AckSt
  | 0, k => k
  | f + 1, k =>
    if k.acc.contains k.a then raiseA f { k with a := (k.a + 1) % 2 ^ 32, acc := k.acc.filter (fun n => n != k.a) } else k

/-- An item has its account (R365, R366). -/
def AckSt.account (k : AckSt) (n : Nat) : AckSt :=
  raiseA (k.acc.length + 1)
    { k with acc := if seqBefore n k.a then k.acc else n :: k.acc.filter (fun x => x != n),
             taken := k.taken.filter (fun x => x != n), holes := k.holes.filter (fun h => h.1 != n) }

/-- The item has been accepted before (R37, R369). -/
def AckSt.has (k : AckSt) (n : Nat) : Bool := seqBefore n k.a || k.acc.contains n || k.taken.contains n

/-- The numbers below n that have no account become holes at tick t (R366, R367). -/
def AckSt.digHoles (k : AckSt) (n t : Nat) : AckSt :=
  let miss := ((List.range ((n + 2 ^ 32 - k.a) % 2 ^ 32)).map (fun j => (k.a + j) % 2 ^ 32)).filter
    (fun m => !k.acc.contains m && !k.taken.contains m && !k.holes.any (fun h => h.1 == m))
  { k with holes := k.holes ++ miss.map (fun m => (m, t, none)) }

/-- A NACK for at most 64 ranges of items (R367). -/
def sendNack (s : State) (k : AckSt) (rs : List (Nat × Nat)) : State :=
  if rs = [] then s
  else
    let b := ksfControl { ty := 4, ident := k.ident, pos := workerPos s k, stream := k.stream, flags := 0, num := k.num, seq := 0,
                          tick := 0 }
      (leBytes 2 rs.length ++ leBytes 2 0 ++ rs.flatMap (fun r => leBytes 4 r.1 ++ leBytes 2 r.2 ++ leBytes 2 0))
    sendWorker (s.bump .mgrAck 0 9 1) k.ident b

/-- Consecutive numbers as ranges: first and count. -/
def rangesOf : List Nat → List (Nat × Nat)
  | [] => []
  | n :: ns =>
    match rangesOf ns with
    | (m, c) :: rs => if m = (n + 1) % 2 ^ 32 ∧ c < 65535 then (n, c + 1) :: rs else (n, 1) :: (m, c) :: rs
    | [] => [(n, 1)]

/-- A gap record that the manager writes for a hub's slots, in its own record stream (R349, R381). -/
def managerGap (s : State) (k : AckSt) (cause : Nat) (rs : List Range) : State :=
  if rs = [] then s
  else
    let s := s.modAck k.ident k.stream k.num (fun k => { k with gaps := k.gaps + 1 })
    let s := (withRec s).bump .mgrAck 0 10 1
    putItem s recStream (recInstance s) (recordItem (gapRecord
      { ident := k.ident, pos := workerPos s k, stream := k.stream, origin := 1, cause := cause, state := 3, number := k.gaps,
        inst := k.num, seq := 0, count := 0 } rs) rs)

/-- The slots without a final account, once a block or a gap record accounts slots a to b of a channel at D (R381): a channel
is followed from the first index of the instance at the D that its first block names, and past a switch from the new D's
first block. -/
def AckSt.settle (k : AckSt) (ch d a b : Nat) : AckSt :=
  let open_ := k.want.any (fun r => r.ch == ch && r.d == d && r.last.isNone)
  let old := k.want.map (fun r => if r.ch = ch ∧ r.d ≠ d ∧ r.last = none
    then { r with last := some (4 * d * (a - 1) / (4 * r.d)) } else r)
  let seen := k.want.any (fun r => r.ch == ch) || k.named.any (fun r => r.ch == ch)
  let first := if seen then a else ceilDiv k.tb (4 * d)
  let w := if open_ then k.want
    else if k.named.any (fun r => r.ch == ch && r.d == d) then k.want
    else old ++ [⟨ch, d, first, none⟩]
  let w := minusAll w ch d a b
  { k with want := solid w, named := if k.named.any (fun r => r.ch == ch && r.d == d) then k.named else k.named ++ [⟨ch, d, a, none⟩] }

/-- A block's or a gap record's slots become final at the manager, and the items that a record of cause 4 names have their account
(R377, R379, R381). -/
def settleItem (s : State) (ident : Nat) (i : Item) (stream num : Nat) : State :=
  if i.ch ≠ 0xFFFF then s.modAck ident stream num (fun k => k.settle i.ch i.d i.first (i.first + i.n - 1))
  else if i.n = 0x20 ∧ leAt i.bytes 19 1 ≠ 1 then
    (List.range (leAt i.bytes 36 2)).foldl (fun s e =>
      let o := 64 + 24 * e
      s.modAck ident (leAt i.bytes 16 1) (leAt i.bytes 24 4) (fun k =>
        k.settle (leAt i.bytes o 2) (leAt i.bytes (o + 4) 4) (leAt i.bytes (o + 8) 8) (leAt i.bytes (o + 16) 8)))
      (s.modAck ident (leAt i.bytes 16 1) (leAt i.bytes 24 4) (fun k =>
        (List.range (leAt i.bytes 32 4)).foldl (fun k j => k.account ((leAt i.bytes 28 4 + j) % 2 ^ 32)) k))
  else s

/-- A record's length and CRC-32C are correct (R365). -/
def recordGood (b : Bytes) : Bool :=
  decide (12 ≤ b.length) && leAt b 4 4 == b.length && leAt b (b.length - 4) 4 == crc32c (b.take (b.length - 4))

/-- The reason code of a block under all of R348: `i` is what its descriptor says. -/
def blockReason (k : AckSt) (i : Item) : Nat :=
  let r := (decodeBlock i.bytes).1
  if r ≠ 0 then r
  else if leAt i.bytes 2 2 = i.ch ∧ leAt i.bytes 16 4 = i.d ∧ leAt i.bytes 8 8 = i.first ∧ leAt i.bytes 4 2 = i.n ∧
      k.members.contains i.ch = true then 0
  else 10

/-- An accepted item is passed on, and accounted at once or when the host has consumed it (R365, R574). -/
def acceptItem (s : State) (k : AckSt) (i : Item) : State :=
  if handFits s i.bytes.length = false then s.bump .handoff 0 5 1
  else if upFits s i.bytes.length = false then s
  else
    let waits := handOn s
    let s := passOn (s.bump .mgrAck 0 6 1) (workerPos s k) k.ident k.stream k.num i
    let s := settleItem s k.ident i k.stream k.num
    s.modAck k.ident k.stream k.num (fun k =>
      let k := k.digHoles i.seq s.now
      if waits then { k with taken := i.seq :: k.taken, holes := k.holes.filter (fun h => h.1 != i.seq) } else k.account i.seq)

/-- The length of a gap record with one entry (R377). -/
abbrev gapLen1 : Nat := 92

/-- A malformed block is named in a gap record, and has its account once that is passed on: at once, or when the host has consumed the
record (R349, R365, R574). -/
def malformed (s : State) (k : AckSt) (i : Item) : State :=
  let s := managerGap s k 7 [Range.upTo i.ch i.d i.first (i.first + i.n - 1)]
  let s := s.modAck k.ident k.stream k.num (fun k => (k.settle i.ch i.d i.first (i.first + i.n - 1)).digHoles i.seq s.now)
  if handOn s then
    (s.modAck k.ident k.stream k.num (fun k => { k with taken := i.seq :: k.taken, holes := k.holes.filter (fun h => h.1 != i.seq) })).modStrm
      (fun g => { g with hand := g.hand ++ [⟨s.nat .handoff 0 3, k.ident, k.stream, k.num, i.seq⟩] })
  else s.modAck k.ident k.stream k.num (fun k => k.account i.seq)

/-- The manager takes a block (R348, R349, R352, R365). -/
def takeBlock (s : State) (k : AckSt) (i : Item) : State :=
  let r := blockReason k i
  if r = 0 then
    if handFits s i.bytes.length = false ∨ upFits s i.bytes.length = false then acceptItem s k i
    else
      let fl := leAt i.bytes 1 1
      let s := s.bump .decoder 0 1 1
      let s := if bit fl 7 then s.bump .decoder 0 2 1 else s
      let s := if bit fl 6 then s.bump .decoder 0 3 1 else s
      acceptItem s k i
  else
    let s := (s.bump .decoder 0 (3 + r) 1).setNum .decoder 0 14 (r * 2 ^ 24 + workerPos s k * 2 ^ 16 + i.ch : Nat)
    let s := raise s 62 (if r ≤ 2 then 1 else 2) (workerPos s k * 2 ^ 16 + i.ch)
    if r ≤ 2 then s
    else if handFits s gapLen1 = false then s.bump .handoff 0 5 1
    else if upFits s gapLen1 = false then s
    else malformed s k i

/-- The acknowledgement state that an announcement begins (R360, R370). -/
def announced (s : State) (pos ident stream : Nat) (b : Bytes) : AckSt :=
  { pos := pos, ident := ident, stream := stream, num := leAt b 20 4, boot := leAt b 16 4, tb := leAt b 32 8,
    members := (List.range (leAt b 28 2)).map (fun j => leAt b (48 + 2 * j) 2), newest := true, a := max 1 (leAt b 40 4), acc := [],
    taken := [], holes := [], lastA := 0, lastAcc := [], ackAt := none, heard := s.now, want := [], named := [], gaps := 0 }

/-- The slots of an old instance with no final account before tick t (R381). A member of which the manager holds no block or gap record
of the instance is named at the D that the worker's other instances gave it last. -/
def AckSt.unsettled (k : AckSt) (others : List AckSt) (t : Nat) : List Range :=
  let silent := (k.members.filter (fun ch => !k.named.any (fun r => r.ch == ch))).filterMap (fun ch =>
    ((others.flatMap (·.named)).reverse.find? (fun r => r.ch == ch)).map (fun r => (⟨ch, r.d, ceilDiv k.tb (4 * r.d), none⟩ : Range)))
  closeAt (k.want ++ silent) t

/-- What the manager names when an announcement `k` shows that the worker has restarted (R39, R381): for each instance of the stream that
it holds from before, the slots without a final account up to the t_b of the instance after it. -/
def restartGaps (s : State) (k : AckSt) : List (AckSt × List Range) :=
  let mine := s.strm.acks.filter (fun x => x.ident == k.ident)
  let old := mine.filter (fun x => x.stream == k.stream && x.boot != k.boot)
  (old.zip ((old.drop 1).map (·.tb) ++ [k.tb])).filterMap (fun p =>
    match p.1.unsettled mine p.2 with
    | [] => none
    | rs => some (p.1, rs))

/-- A manager accepts an announcement it does not hold (R370, R381). -/
def takeAnnouncement (s : State) (pos ident stream : Nat) (i : Item) : State :=
  let k := announced s pos ident stream i.bytes
  let num := k.num
  let s := (restartGaps s k).foldl (fun s g => managerGap s g.1 8 g.2) s
  let keep := s.strm.acks.filter (fun x => !(x.ident == ident && x.stream == stream && (x.boot != k.boot || x.num == num)))
  let acks := keep.map (fun x => if x.ident = ident ∧ x.stream = stream then { x with newest := false } else x)
  let s := s.modStrm (fun g => { g with acks := acks ++ [k] })
  passOn (s.bump .mgrAck 0 6 1) pos ident stream num i

/-- The manager can pass on what an announcement makes it write (R365, R381, R383). -/
def announcementFits (s : State) (pos ident stream : Nat) (i : Item) : Bool :=
  let lens := i.bytes.length :: (restartGaps s (announced s pos ident stream i.bytes)).map (fun g => 68 + 24 * g.2.length)
  handFits s ((lens.map (fun n => 32 + ceilTo 16 n)).foldl (· + ·) 0) &&
    (s.nat .uplink 0 1 == 0 ||
      decide (spillHeld s + (lens.map (fun n => itemRoom (60 + ceilTo 4 n))).foldl (· + ·) 0 ≤ spillSize s))

/-- The manager takes one item of a frame (R365, R369, R370). An announcement of another boot count is that of a new instance, whatever
its number. -/
def takeItem (s : State) (pos ident stream num : Nat) (i : Item) : State :=
  let isAnn := stream ≠ recStream ∧ i.isAnn = true
  let held := (s.ackOf ident stream num).filter (fun k => if isAnn then k.boot == leAt i.bytes 16 4 else k.current s)
  match held with
  | none =>
    if isAnn ∧ recordGood i.bytes = true ∧ announcementFits s pos ident stream i = true then takeAnnouncement s pos ident stream i else s
  | some k =>
    if isAnn ∨ k.has i.seq = true then s.bump .mgrAck 0 7 1
    else if stream = recStream then
      if recordGood i.bytes then acceptItem s k i else s
    else takeBlock s k i

/-- The items of a data or record frame, as their descriptors give them (R363). -/
def frameContent (b : Bytes) : List Item :=
  (List.range (leAt b 32 2)).map (fun j =>
    let o := 40 + 20 * j
    { seq := (leAt b 20 4 + j) % 2 ^ 32, bytes := slice b (leAt b (o + 4) 2) (leAt b (o + 2) 2), ch := leAt b o 2,
      n := leAt b (o + 6) 2, d := leAt b (o + 8) 4, first := leAt b (o + 12) 8, formed := 0, sent := none, again := false,
      range := [], ord := none })

/-- A manager takes a data or record frame (R365, R370). -/
def takeFrame (s : State) (b : Bytes) : State :=
  let ident := leAt b 4 8
  let pos := leAt b 12 1
  let stream := leAt b 13 1
  let num := leAt b 16 4
  if atPosition s pos ident = false ∨ (leAt b 1 1 = 2) ≠ (stream = recStream) ∨ (stream ≠ recStream ∧ 15 < stream) then s
  else
    let s := s.modStrm (fun k => { k with acks := k.acks.map (fun x => if x.ident = ident then { x with heard := s.now } else x) })
    let s :=
      if stream = recStream ∧ (s.ackOf ident stream num).isNone then
        s.modStrm (fun k => { k with acks := (k.acks.filter (fun x => !(x.ident == ident && x.stream == stream))) ++
          [{ pos := pos, ident := ident, stream := stream, num := num, boot := num, tb := 0, members := [], newest := true, a := 0,
             acc := [], taken := [], holes := [], lastA := 0, lastAcc := [], ackAt := none, heard := s.now, want := [],
             named := [], gaps := 0 }] })
      else s
    let is := frameContent b
    let s := is.foldl (fun s i => takeItem s pos ident stream num i) s
    if ((s.ackOf ident stream num).filter (fun k => k.current s)).isNone then
      sendNack s { pos := pos, ident := ident, stream := stream, num := num, boot := 0, tb := 0, members := [], newest := false,
                   a := 0, acc := [], taken := [], holes := [], lastA := 0, lastAcc := [], ackAt := none, heard := s.now,
                   want := [], named := [], gaps := 0 } [(0, 1)]
    else s

/-- The first received KSF frame of the data or records type, or one that R362 discards. -/
def inboxData (s : State) : Option (Nat × Bytes × Bool) :=
  s.net.inbox.zipIdx.findSome? (fun (r, i) => match r.frame.content with
    | .ksf b => if !ksfValid b then some (i, b, false) else if leAt b 1 1 ≤ 2 then some (i, b, true) else none
    | _ => none)

/-- KSF_DATA_RECEIVED (R362, R365): the oldest data or record frame received is taken by a manager; a frame that R362
discards is counted. -/
def execKsfDataReceived (s : State) : Host.Outcome State Fault Refusal :=
  match inboxData s with
  | some (i, b, good) =>
    let s := dropInbox s i
    if !s.isManager then .next s
    else if good then .next (takeFrame s b) else .next (s.bump .mgrAck 0 8 1)
  | none => .next s

/-- The bitmap of an ACK with A (R366): bit j says that item A + 1 + j has its account. -/
def ackBits (a : Nat) (acc : List Nat) : Nat :=
  (List.range 64).foldl (fun m j => if acc.contains ((a + 1 + j) % 2 ^ 32) then setBit m j else m) 0

/-- An ACK of an acknowledgement state (R366). -/
def sendAck (s : State) (k : AckSt) : State :=
  let b := ksfControl { ty := 3, ident := k.ident, pos := workerPos s k, stream := k.stream, flags := 0, num := k.num, seq := k.a,
                        tick := 0 } (leBytes 8 (ackBits k.a k.acc))
  (sendWorker s k.ident b).modAck k.ident k.stream k.num (fun k =>
    { k with lastA := k.a, lastAcc := k.acc, ackAt := some s.now })

/-- The ack-interval boundary at or before now, counted from the grid epoch (R371). -/
def ackBoundary (s : State) : Nat := s.now * 1000 / 24576 / max 1 (s.nat .mgrAck 0 1)

/-- ACK_INTERVAL (R366): at a boundary, an ACK goes to every stream whose A or bitmap has changed since the last one. -/
def execAckInterval (s : State) : Host.Outcome State Fault Refusal :=
  let n := ackBoundary s
  if s.isManager = false ∨ s.strm.ackLook = some n then .next s
  else
    let s := s.modStrm (fun k => { k with ackLook := some n })
    .next (s.strm.acks.foldl (fun s k => if (k.a = k.lastA ∧ ackBits k.a k.acc = ackBits k.lastA k.lastAcc) ∨ k.current s = false then s else sendAck s k) s)

/-- The instances that a keepalive names (R366): of a record stream only one of which items have been accepted. -/
def AckSt.keeps (k : AckSt) : Bool :=
  (k.newest && (k.stream != recStream || k.a != 0 || k.acc != [] || k.taken != [])) || k.holes != []

/-- KEEPALIVE_ACK (R366). -/
def execKeepaliveAck (s : State) : Host.Outcome State Fault Refusal :=
  if s.isManager = false then .next s
  else
    .next (s.strm.acks.foldl (fun s k =>
      if k.keeps = true ∧ k.current s = true ∧ (match k.ackAt with | some t => decide (t + msTicks (s.nat .mgrAck 0 4) ≤ s.now) | none => true) = true
      then sendAck s k else s) s)

/-- The numbers of ranges. -/
def rangeNumbers (rs : List (Nat × Nat)) : List Nat := rs.flatMap (fun r => (List.range r.2).map (fun j => (r.1 + j) % 2 ^ 32))

/-- A NACK for the holes that `due` selects, in the order of their numbers from A on: it asks for the first 64 ranges (R367). -/
def nackHoles (s : State) (k : AckSt) (due : Nat × Nat × Option Nat → Bool) : State :=
  let at_ := fun (n : Nat) => (n + 2 ^ 32 - k.a) % 2 ^ 32
  let ns := ((k.holes.filter due).map (·.1)).insertionSort (fun a b => at_ a ≤ at_ b)
  let rs := (rangesOf ns).take 64
  if rs = [] ∨ k.current s = false then s
  else
    (sendNack s k rs).modAck k.ident k.stream k.num (fun k =>
      { k with holes := k.holes.map (fun h => if (rangeNumbers rs).contains h.1 then (h.1, h.2.1, some s.now) else h) })

/-- NACK_HOLDOFF_EXPIRY (R367): holes that have lasted the holdoff are asked for. -/
def execNackHoldoffExpiry (s : State) : Host.Outcome State Fault Refusal :=
  if s.isManager = false then .next s
  else
    .next (s.strm.acks.foldl (fun s k => nackHoles s k (fun h =>
      h.2.2.isNone && decide (h.2.1 + usTicks (s.nat .mgrAck 0 2) ≤ s.now))) s)

/-- RETRANSMIT_INTERVAL (R367): holes asked for a retransmit interval ago are asked for again, while frames arrive from the
hub. -/
def execRetransmitInterval (s : State) : Host.Outcome State Fault Refusal :=
  if s.isManager = false then .next s
  else
    .next (s.strm.acks.foldl (fun s k =>
      if s.now ≤ k.heard + msTicks (s.nat .mgrAck 0 5) then
        nackHoles s k (fun h => match h.2.2 with
          | some t => decide (t + msTicks (s.nat .mgrAck 0 3) ≤ s.now)
          | none => false)
      else s) s)

/-- The host has consumed the hand-off ring up to an offset: the items before it have their account (R365, R574). -/
def consumed (s : State) (v : Nat) : State :=
  let done := s.strm.hand.filter (fun h => decide (h.stop ≤ v))
  let s := done.foldl (fun s h => s.modAck h.ident h.stream h.num (fun k => k.account h.seq)) s
  s.modStrm (fun k => { k with hand := k.hand.filter (fun h => decide (v < h.stop)) })

/-- A combined record goes to port C (R325, R382), or is named when the uplink cannot hold it (R377). -/
def sendCombined (s : State) (x index : Nat) (b : Bytes) : State :=
  let s := withRec s
  let n := recInstance s
  match s.space recStream n with
  | none => s
  | some p =>
    if upFits s b.length then
      uplinkItems (s.modSpace recStream n (fun p => { p with next := (p.next + 1) % 2 ^ 32 })) 0 s.ident recStream n
        [{ recordItem b [] with seq := p.next }]
    else (ownGap s recStream n 9 0 0 [Range.upTo x 0x12 index index]).1

/-- CROSS_HUB_CONTRIBUTION (R321, R322): the cross-hub reductions look at the oldest window record accepted. -/
def execCrossHubContribution (s : State) : Host.Outcome State Fault Refusal :=
  match s.crossIn with
  | [] => .next s
  | (pos, r) :: rest =>
    if s.isManager = false then .next s
    else
      .next ((List.range 64).foldl (fun s x =>
        match crossTake s x pos r with
        | (s, some b) => sendCombined s x (leAt b 16 8) b
        | (s, none) => s) { s with crossIn := rest })

/-- CROSS_HUB_DEADLINE (R322): the local clock reaches the PTP time of the end tick plus the deadline of the lowest index not
issued. -/
def execCrossHubDeadline (x : Nat) (s : State) : Host.Outcome State Fault Refusal :=
  match crossLowest s x with
  | some c =>
    let stop := s.nat .crossHub x 5 + (c.i + 1) * s.nat .crossHub x 4
    if s.isManager = true ∧ x < 64 ∧ s.nat .crossHub x 1 = 1 ∧
        gridNs stop + s.nat .crossHub x 8 * 1000000 ≤ s.localNs then
      let (s, b) := crossIssue s x c
      .next (sendCombined s x c.i b)
    else .next s
  | none => .next s

/-- The replay decoder takes a block (R351). -/
def replayWrite (s : State) (b : Bytes) : State :=
  let r := if b.length < 32 ∨ 1052 < b.length then (1, []) else decodeBlock b
  ((s.setNum .replay 0 2 r.1).setBytes .replay 0 3 (r.2.flatMap (leBytes 4))).bump .replay 0 4 1

end Sys2Proof.Machine
end

