-- ==== Sys2Proof/Machine/Custody.lean ====
section
/-! DEFINITION. Custody of the stream cores (spec/12_redundant_stream_cores.md): compare units, takeover, self-test, return
to service; and the forming of blocks, window records and take records, which are compare units. -/

namespace Sys2Proof.Machine

open Sys2Proof

/-- The custody record changed. -/
def State.modCust (s : State) (f : CustSt → CustSt) : State := { s with cust := f s.cust }

/-- The core in custody (object 0x1800:01). -/
def State.holder (s : State) : Nat := s.nat .custody 0 1

/-- The state of a core (R405): 0 absent, 1 ACTIVE, 2 STANDBY, 3 HELD, 4 SELF-TEST, 5 RESYNC, 6 FAILED. -/
def State.core (s : State) (c : Nat) : Nat := s.nat .custody 0 (2 + c)

/-- The state of a core set. -/
def setCore (s : State) (c v : Nat) : State := s.setNum .custody 0 (2 + c) v

/-- The other core. -/
abbrev otherCore (c : Nat) : Nat := 1 - c

/-- The two cores are compared: one is ACTIVE and the other STANDBY (R393, R394). -/
def comparing (s : State) : Bool :=
  Config.hasCoreB s.variant && s.core s.holder == 1 && s.core (otherCore s.holder) == 2

/-- The key order of R390. -/
def CUnit.before (a b : CUnit) : Bool := lexLt [a.tick, a.kind, a.num, a.ch] [b.tick, b.kind, b.num, b.ch]

/-- The unit key of R407. -/
def CUnit.key (u : CUnit) : Nat := u.kind * 2 ^ 56 + u.num * 2 ^ 48 + u.ch * 2 ^ 32

/-- The bytes of a unit in a core. -/
def CUnit.bytesOf (u : CUnit) (c : Nat) : Bytes := if c = 0 then u.bytesA else u.bytesB

/-- The codec's counts of a released block (R346). -/
def countBlock (s : State) (k : BlkDef) (b : Bytes) : State :=
  if !s.has .codec 0 then s
  else
    let fl := leAt b 1 1
    let s := ((s.bump .codec 0 3 1).bump .codec 0 7 (28 + 4 * k.words.length)).bump .codec 0 8 b.length
    if bit fl 7 then (if k.coding && !bit fl 6 then s.bump .codec 0 5 1 else s)
    else (s.bump .codec 0 4 1).bump .codec 0 6 (overflowCount k.order k.values)

/-- The take-bound windows of take t owe a record of its fill, under their definitions of the trigger tick (R303, R304, R317). -/
def oweBound (s : State) (t : Nat) (f : Fill) : State :=
  let seq := (s.take t).seq
  (List.range 32).foldl (fun s w =>
    let d := (s.win w).defAt f.tick (winDef s w)
    if d.mode = 2 ∧ d.take = t then s.modWin w (fun k => { k with bound := k.bound ++ [(t, seq, d, f)] }) else s) s

/-- Take t's record is committed; the take-bound windows of the take owe theirs (R290, R303, R317). -/
def commitTake (s : State) (t : Nat) : State :=
  match (s.take t).fill with
  | none => s
  | some f => takeCommit (oweBound s t f) t f

/-- The takes at the load tick of a re-anchor (R296): records that are whole are stored, takes not OFF or DONE become ARMED, and the
rings take samples of the new count. -/
def takesLoad (s : State) (tick : Nat) : State :=
  let s := { s with rings := s.rings.map (fun p => (p.1, ⟨tick, []⟩)) }
  (List.range 16).foldl (fun s t =>
    let s := match (s.take t).fill with
      | some f =>
        let f := if recordFormed s t then f else { f with missed := (s.take t).missed }
        takeStore (oweBound s t f) t f
      | none => s
    takeLoad s t tick) s

/-- A unit leaves the core in custody (R391). A write port found faulty after the proving period passes nothing on: what
cannot be written is named, and a take's record stays to be formed again (R398). -/
def emit (s : State) (ord : Nat) (u : CUnit) : State :=
  let b := u.bytesOf s.holder
  match u.body with
  | .span => s
  | .block n inst k _ _ =>
    if s.cust.broken.isSome then
      (if inst = s.nat .stream n 7 then nameLost s n 5 [Range.upTo k.ch k.d k.first (k.first + k.words.length - 1)]
        else nameGone s n inst 5 [Range.upTo k.ch k.d k.first (k.first + k.words.length - 1)])
    else storeBlock (countBlock s k b) n inst ord k b
  | .window w index send =>
    if send = false then s
    else if s.cust.broken.isSome then recordLost (withRec s) 5 w (recordType b) index
    else storeRecord s w index ord b
  | .take t => if s.cust.broken.any (fun p => p != 2) then s else commitTake s t

/-- The first unit is released without comparison (R394). -/
def releaseFirst (s : State) : State :=
  match s.cust.units with
  | [] => s
  | u :: us =>
    let s := (s.modCust (fun c => { c with units := us, base := c.base + 1 })).bump .custody 0 9 1
    emit s (s.cust.base - 1) u

/-- Every unit is released without comparison. `fuel` bounds the units. -/
def releaseN : Nat → State → State
  | 0, s => s
  | n + 1, s => releaseN n (releaseFirst s)

/-- Every unit is released without comparison. -/
def releaseAll (s : State) : State := releaseN s.cust.units.length s

/-- The last of some words gets the end mark. -/
def endMark : List QWord → List QWord
  | [] => []
  | [w] => [{ w with eoi := true }]
  | w :: ws => w :: endMark ws

/-- A reset of the writer's island ends a partly pushed item as its end mark would (R421). -/
def writerReset (s : State) (q : Nat) : State :=
  let k := s.queue q
  let k := { k with dropIn := false, midItem := false }
  s.putQueue q (match k.pushing with
    | some w => { k with pushing := some { w with eoi := true } }
    | none => if k.words = [] then { k with item := [] } else { k with words := endMark k.words })

/-- A core out of service goes to self-test (R393 kinds 3 and 4, R406): its island is reset, which ends the answer it is giving
(R421, R426). -/
def toSelfTest (s : State) (c : Nat) (why : TestWhy) : State :=
  let keep := s.cust.resync.filter (fun r => r.core != c)
  (setCore (writerReset s (156 + c)) c 4).modCust (fun k =>
    { k with tests := k.tests.filter (fun t => t.1 != c) ++ [(c, why, s.now)], resync := keep })

/-- The standby is out of service for self-test (R393 kind 3); from here units are released uncompared. -/
def standbyOut (s : State) (why : TestWhy) : State :=
  let s := if why = .standbyLate then s.bump .custody 0 10 1 else s
  releaseAll ((toSelfTest s (otherCore s.holder) why).modCust (fun k => { k with handover := false }))

/-- The last mismatch is recorded (R395 step 1, R407). -/
def noteMismatch (s : State) (kind : Nat) (u : Option CUnit) : State :=
  let t := match u with | some u => u.tick | none => s.now
  let key := match u with | some u => u.key | none => 0
  let s := (s.setNum .mismatch 0 1 t).setNum .mismatch 0 2 kind
  let s := (s.setNum .mismatch 0 3 key).setNum .mismatch 0 4 s.holder
  let s := (s.setNum .mismatch 0 5 0).setNum .mismatch 0 6 t
  let s := s.setNum .mismatch 0 7 (if kind = 4 then t else allOnes)
  let s := s.modCust (fun k => { k with suspect := if kind = 4 then none else some s.holder })
  let s := if kind ≤ 3 then s.bump .custody 0 10 1 else s
  raise s 65 1 kind

/-- Custody moves from its holder to the other core (R395 steps 2 to 5). -/
def takeover (s : State) (kind : Nat) (why : TestWhy) : State :=
  let x := s.holder
  let y := otherCore x
  let s := (setCore (setCore s x 3) y 1).setNum .custody 0 1 y
  let s := releaseAll s
  let s := (s.bump .custody 0 11 1).modCust (fun k =>
    { k with proving := some (x, why, s.now + usTicks (s.nat .custody 0 15)), equal := 0, handover := false, broken := none,
             mustReturn := false, copyNew := true })
  raise s 65 2 kind

/-- Why the former holder is tested after a planned handover (R400, R401): as Y while a verdict on the other core is
pending. -/
def plannedWhy (s : State) : TestWhy := if s.cust.suspect = some (otherCore s.holder) then .handback else .planned

/-- A planned handover (R401, R406). -/
def plannedMove (s : State) : State :=
  let why := plannedWhy s
  takeover (s.modCust (fun k => { k with backTick := s.now })) 0 why

/-- The span of grid ticks that a unit's samples cover, and the channels that they are of (R389). -/
def CUnit.scope (s : State) (u : CUnit) : Nat × Nat × List Nat :=
  match u.body with
  | .block _ _ k _ _ => (4 * k.d * k.first, u.tick, [u.ch])
  | .span => (u.tick - 64 * (4 * s.decOf u.ch), u.tick, [u.ch])
  | .window w _ _ => (leAt u.bytesA 24 8, leAt u.bytesA 32 8, winMembers s w)
  | .take t => match (s.take t).fill with
    | some f => ((4 * f.d * (f.kt.foldl min (f.kt.headD 0) - f.held)).toNat, u.tick, f.members)
    | none => (u.tick, u.tick, [])

/-- A loss that the two cores share falls within the unit: it is released without comparison (R394). -/
def CUnit.exempt (s : State) (u : CUnit) : Bool :=
  let (a, b, chs) := u.scope s
  s.cust.both.any (fun x => decide (x.2.1 ≤ b) && decide (a < x.2.2) && chs.any (fun ch => cellOfCh ch == x.1))

/-- Units that have been compared equal are released in order, and the release mark advances (R391, R393); a planned handover
takes place at an advance (R406). `fuel` bounds the units. -/
def releaseEqual : Nat → State → State
  | 0, s => s
  | n + 1, s =>
    match s.cust.units with
    | [] => s
    | u :: us =>
      match u.sigA, u.sigB with
      | some a, some b =>
        let free := u.exempt s
        if a.1 = b.1 ∨ free = true then
          let s := (s.bump .custody 0 (if free then 9 else 8) 1).setNum .custody 0 14 s.cust.base
          let s := emit (s.modCust (fun c => { c with units := us, base := c.base + 1, equal := if free then c.equal else c.equal + 1 }))
            s.cust.base u
          if s.cust.handover then plannedMove s else releaseEqual n s
        else s
      | _, _ => s

/-- The limits of a hold buffer (R391): 4,096 units or 2 MiB. -/
def holdOver (s : State) : Bool :=
  let us := s.cust.units.filter (fun u => u.kind != 1)
  decide (4096 < us.length) || decide (2097152 < (us.map (fun u => u.bytesA.length)).foldl (· + ·) 0)

/-- A compare unit is formed (R389 to R391): it takes its place in the key order; it waits for its comparison, or is released
at once where no comparison is made. -/
def formUnit (s : State) (u : CUnit) : State :=
  let us := s.cust.units
  let s := s.modCust (fun c => { c with units := us.filter (fun x => !u.before x) ++ u :: us.filter (fun x => u.before x) })
  if comparing s = false then releaseAll s
  else if holdOver s then standbyOut s .standbyLate else s

/-- SIGNATURE_ARRIVAL (R387, R389, R393, R395): a core's signature of an ordinal arrives. `flip` is what differs from the
signature of the unit that the core formed. -/
def execSignatureArrival (core ord flip : Nat) (s : State) : Host.Outcome State Fault Refusal :=
  if comparing s = false ∨ 1 < core ∨ ord < s.cust.base then .next s
  else
    match s.cust.units[ord - s.cust.base]? with
    | none => .next s
    | some u =>
      let sig := crc32c (u.bytesOf core) ^^^ flip
      let u := if core = 0 then { u with sigA := some (u.sigA.getD (sig, s.now)) }
        else { u with sigB := some (u.sigB.getD (sig, s.now)) }
      let s := s.modCust (fun c => { c with units := c.units.set (ord - c.base) u })
      match u.sigA, u.sigB with
      | some a, some b =>
        if a.1 = b.1 ∨ u.exempt s = true then .next (releaseEqual s.cust.units.length s)
        else .next (takeover (noteMismatch s 1 (some u)) 1 .mismatch)
      | _, _ => .next s

/-- The signature of a core. -/
def CUnit.sig (u : CUnit) (c : Nat) : Option (Nat × Nat) := if c = 0 then u.sigA else u.sigB

/-- COMPARE_TIMEOUT (R393 kinds 2 and 3): one core's signature has been missing for T_c since the other's arrival. -/
def execCompareTimeout (s : State) : Host.Outcome State Fault Refusal :=
  if comparing s = false then .next s
  else
    let limit := usTicks (s.nat .custody 0 4)
    let y := otherCore s.holder
    let late := fun (u : CUnit) => match u.sig s.holder, u.sig y with
      | some a, none => decide (a.2 + limit ≤ s.now)
      | none, some b => decide (b.2 + limit ≤ s.now)
      | _, _ => false
    match s.cust.units.find? late with
    | none => .next s
    | some u =>
      if (u.sig s.holder).isNone then .next (takeover (noteMismatch s 2 (some u)) 2 .mismatch)
      else .next (standbyOut s .standbyLate)

/-- An internal fault of one core (R393 kind 4, R409, R425). -/
def coreFault (s : State) (c : Nat) : State :=
  if !Config.hasCoreB s.variant then (if c = 0 then raise s 67 3 0 else s)
  else if c = s.holder then
    if s.core (otherCore c) = 2 then takeover (noteMismatch s 4 s.cust.units.head?) 4 .attributed else raise s 67 3 c
  else if s.core c = 2 then standbyOut s .attributed
  else s

/-- CORE_FAULT_SIGNAL (R393 kind 4). -/
def execCoreFaultSignal (core : Nat) (s : State) : Host.Outcome State Fault Refusal :=
  if core ≤ 1 then .next (coreFault s core) else .next s

/-- PROVING_PERIOD_END (R395 step 6): the proving period ended without a hidden fault. -/
def execProvingPeriodEnd (s : State) : Host.Outcome State Fault Refusal :=
  match s.cust.proving with
  | some (x, why, t) =>
    if t ≤ s.now then .next (toSelfTest (s.modCust (fun k => { k with proving := none })) x why) else .next s
  | none => .next s

/-- A part that a standby never exercises fails in the core in custody; `part` is the row of R397 (R392, R398). -/
def hiddenFault (s : State) (part : Nat) : State :=
  let s := raise (s.bump .custody 0 12 1) 66 1 part
  let s := if part = 3 then raise s 65 3 0 else s
  match s.cust.proving with
  | some (x, _, _) =>
    let y := s.holder
    let s := (setCore s x 1).setNum .custody 0 1 x
    toSelfTest (s.modCust (fun k => { k with proving := none })) y .hidden
  | none =>
    let s := s.modCust (fun k => { k with mustReturn := true, broken := if part ≤ 3 then some part else k.broken })
    if part = 4 then
      (List.range 16).foldl (fun s t => match (s.take t).fill with
        | some f => if f.tide.isNone then fixTide s t f false (f.nextSlot - 1 : Int) else s
        | none => s) s
    else s

/-- HIDDEN_FAULT_AT_TAKEOVER (R392, R397, R398). -/
def execHiddenFaultAtTakeover (part : Nat) (s : State) : Host.Outcome State Fault Refusal :=
  if Config.hasCoreB s.variant ∧ 1 ≤ part ∧ part ≤ 5 then .next (hiddenFault s part) else .next s

/-- 100 µs in grid ticks (R460). -/
abbrev copyTicks : Nat := usTicks 100

/-- COPY_TIMEOUT (R460): the copy requested first has not completed within 100 µs: the hidden fault of R397 after custody has passed,
or else the end of that take's copying at its tideline. -/
def execCopyTimeout (s : State) : Host.Outcome State Fault Refusal :=
  match (fillOrder s).find? (copyReady s) with
  | some t =>
    match (s.take t).fill with
    | some f =>
      if s.now < max (copySince s) f.since + copyTicks then .next s
      else if Config.hasCoreB s.variant ∧ s.cust.copyNew = true then
        .next (copyNext (hiddenFault (s.modCust (fun k => { k with copyNew := false })) 4))
      else .next (copyNext (fixTide s t f false (f.nextSlot - 1 : Int)))
    | none => .next s
  | none => .next s

/-- COPY_PORT_BEAT (R460): the copy port takes a beat boundary for a copy that its share allows. -/
def execCopyPortBeat (s : State) : Host.Outcome State Fault Refusal :=
  if copyBusy s then .next (s.bump .dmaEngine 0 7 1) else .next s

/-- A core that passed its self-test returns to service, or waits in FAILED for a restore command (R402, R405). -/
def returnCore (s : State) (c : Nat) : State :=
  if s.nat .custody 0 6 = 1 then
    (setCore s c 5).modCust (fun k => { k with resync := some { core := c, due := nextMs s, tj := none, ts := none,
                                                                copied := false, spoiled := false, fails := 0 } })
  else setCore s c 6

/-- A self-test at start-up ends (R388, R409). -/
def startTestEnd (s : State) (c : Nat) (pass : Bool) : State :=
  let other := otherCore c
  let s := conditionMet s
  if !Config.hasCoreB s.variant then
    if pass then setCore s 0 1 else raise (setCore s 0 6) 67 3 0
  else if pass then
    if s.core other = 1 then setCore s c 2
    else if c = 0 then (setCore (setCore s 0 1) 1 (if s.core 1 = 2 then 2 else s.core 1)).setNum .custody 0 1 0
    else if s.core 0 = 6 then (setCore s 1 1).setNum .custody 0 1 1
    else setCore s 1 2
  else
    let s := setCore s c 6
    if s.core other = 6 then raise (s.setNum .custody 0 1 0) 67 3 0
    else if c = 0 ∧ s.core 1 = 2 then (setCore s 1 1).setNum .custody 0 1 1
    else s

/-- The verdict on the last mismatch (R400). -/
def giveVerdict (s : State) (v : Nat) (stop : Nat) : State :=
  ((s.setNum .mismatch 0 5 v).setNum .mismatch 0 7 stop).modCust (fun k => { k with suspect := none })

/-- CORE_SELF_TEST_END (R388, R399, R400): a core's self-test ends, 1 ms of reset and 64 ms after it began. -/
def execCoreSelfTestEnd (core : Nat) (pass : Bool) (s : State) : Host.Outcome State Fault Refusal :=
  match s.cust.tests.find? (fun t => t.1 == core) with
  | none => .next s
  | some (c, why, t) =>
    if s.now < t + 65 * Config.ticksPerMs then .next s
    else
      let s := (s.modCust (fun k => { k with tests := k.tests.filter (fun t => t.1 != c) })).bump .custody 0 13 1
      let s := raise s 67 (if pass then 1 else 2) c
      let start := s.nat .mismatch 0 6
      match why with
      | .startUp => .next (startTestEnd s c pass)
      | .mismatch =>
        if pass then .next (returnCore s c) else .next (giveVerdict (setCore s c 6) (c + 1) start)
      | .handback =>
        if pass then .next (returnCore (giveVerdict s 3 start) c)
        else .next (giveVerdict (setCore s c 6) (c + 1) s.cust.backTick)
      | _ => if pass then .next (returnCore s c) else .next (setCore s c 6)

/-- The largest span S over the present channels, in periods of 6.144 MHz (R178, R402). -/
def largestSpan (s : State) : Nat :=
  (s.allChans.map (fun ch => s.spanAt ch s.now)).foldl max 0

/-- A returning core begins to consume inputs (R402 step 1). -/
def joinCore (s : State) (r : Resync) : State :=
  (s.bump .resync 0 5 1).modCust (fun k => { k with resync := some { r with tj := some r.due, ts := none, copied := false,
                                                                            spoiled := false } })

/-- RESYNC_JOIN (R402 step 1). -/
def execResyncJoin (s : State) : Host.Outcome State Fault Refusal :=
  match s.cust.resync with
  | some r => if r.fails = 0 ∧ r.tj = none ∧ r.due ≤ s.now then .next (joinCore s r) else .next s
  | none => .next s

/-- RESYNC_RETRY (R404): a failed resynchronisation begins again. -/
def execResyncRetry (s : State) : Host.Outcome State Fault Refusal :=
  match s.cust.resync with
  | some r => if r.fails ≠ 0 ∧ r.tj = none ∧ r.due ≤ s.now then .next (joinCore s r) else .next s
  | none => .next s

/-- RESYNC_SNAPSHOT (R402 step 2). -/
def execResyncSnapshot (s : State) : Host.Outcome State Fault Refusal :=
  match s.cust.resync with
  | some r =>
    match r.tj with
    | some tj =>
      let ts := ceilTo Config.ticksPerMs (tj + 4 * largestSpan s)
      if r.ts = none ∧ ts ≤ s.now then
        .next ((s.setNum .resync 0 3 ts).modCust (fun k => { k with resync := some { r with ts := some ts } }))
      else .next s
    | none => .next s
  | none => .next s

/-- SNAPSHOT_COPY_COMPLETE (R402 step 4). -/
def execSnapshotCopyComplete (s : State) : Host.Outcome State Fault Refusal :=
  match s.cust.resync with
  | some r =>
    if r.ts.isSome = true ∧ r.copied = false ∧ r.spoiled = false then
      .next (s.modCust (fun k => { k with resync := some { r with copied := true } }))
    else .next s
  | none => .next s

/-- CORE_RESYNCHRONISED (R402 step 5): the returning core is standby, and comparison resumes. -/
def execCoreResynchronised (s : State) : Host.Outcome State Fault Refusal :=
  match s.cust.resync with
  | some r =>
    if r.copied then
      let tj := r.tj.getD s.now
      let s := (setCore s r.core 2).setNum .resync 0 4 ((s.now - tj) * 1000 / 24576 : Nat)
      let s := raise (s.modCust (fun k => { k with resync := none, equal := 0 })) 68 1 r.core
      .next (if s.cust.mustReturn then plannedMove s else s)
    else .next s
  | none => .next s

/-- CORE_RESYNCHRONISATION_FAILED (R404). -/
def execCoreResynchronisationFailed (s : State) : Host.Outcome State Fault Refusal :=
  match s.cust.resync with
  | some r =>
    if r.ts.isSome = true ∧ r.copied = false then
      let s := raise (s.bump .resync 0 6 1) 68 2 r.core
      if s.nat .resync 0 7 ≤ r.fails + 1 then
        .next ((setCore s r.core 6).modCust (fun k => { k with resync := none }))
      else
        .next (s.modCust (fun k => { k with resync := some { r with
          due := ceilTo Config.ticksPerMs (s.now + Config.ticksPerSecond), tj := none, ts := none, spoiled := false,
          fails := r.fails + 1 } }))
    else .next s
  | none => .next s

/-- HANDBACK (R401): after 64 consecutive equal ordinals custody passes back to the core that a mismatch set aside. -/
def execHandback (s : State) : Host.Outcome State Fault Refusal :=
  if comparing s = true ∧ s.nat .custody 0 5 = 1 ∧ s.cust.suspect = some (otherCore s.holder) ∧ 64 ≤ s.cust.equal then
    .next (plannedMove s)
  else .next s

/-- The custody commands (R406, R409). -/
def custodyCommand (s : State) (v : Nat) : State × Code :=
  let restore := fun (c : Nat) =>
    if s.core c = 6 then (toSelfTest s c .restored, Code.success) else (s, Code.inUse)
  if !Config.hasCoreB s.variant then (s, .outOfRange)
  else if v = 1 then
    if s.core (otherCore s.holder) = 2 then (s.modCust (fun k => { k with handover := true }), .success) else (s, .inUse)
  else if v = 2 then restore 0
  else if v = 3 then restore 1
  else (s, .outOfRange)

/-- BLOCK_FORMED (R328, R344, R347): the earliest block that has ended is encoded and verified, and becomes a compare unit.
`failA` and `failB` say whose verifier finds a mismatch in a coded block. -/
def execBlockFormed (failA failB : Bool) (s : State) : Host.Outcome State Fault Refusal :=
  match s.strm.ready with
  | [] => .next s
  | r :: rs =>
    if s.now < r.tick then .next s
    else
      let s := s.modStrm (fun k => { k with ready := rs })
      let k := r.blk
      let bad := fun (fail : Bool) => k.isCoded && fail
      let bytes := fun (fail : Bool) => if bad fail then k.raw true else k.encode
      let note := fun (s : State) (c : Nat) (fail : Bool) =>
        if bad fail ∧ (c = 0 ∨ Config.hasCoreB s.variant = true) then
          let s := s.bump .codec 0 (9 + c) 1
          if s.holder = c then raise s 61 (c + 1) k.ch else s
        else s
      let s := note (note s 0 failA) 1 failB
      .next (formUnit s { tick := r.tick, kind := 2, num := r.stream, ch := k.ch,
                          body := .block r.stream r.inst k failA failB, bytesA := bytes failA, bytesB := bytes failB,
                          sigA := none, sigB := none })

/-- A record's unit (R389). -/
def recordUnit (tick num : Nat) (body : UnitBody) (b : Bytes) : CUnit :=
  { tick := tick, kind := 3, num := num, ch := 0xFFFF, body := body, bytesA := b, bytesB := b, sigA := none, sigB := none }

/-- A record that a legacy output may take is kept with the tick of its formation (R579). -/
def lgoRecord (s : State) (w : Nat) (b : Bytes) : State :=
  { s with lgo := { s.lgo with recs := Sparse.put s.lgo.recs w (((s.now, b) :: Sparse.get s.lgo.recs w []).take 4) } }

/-- WINDOW_RECORD_FORMED (R303, R317): the oldest record that window w owes is formed: of a committed take, or of a window
whose members' last samples have been emitted. -/
def execWindowRecordFormed (w : Nat) (s : State) : Host.Outcome State Fault Refusal :=
  match (s.win w).bound, (s.win w).runs with
  | (t, seq, d, f) :: rest, _ =>
    let s := s.modWin w (fun k => { k with bound := rest })
    let (b, miss) := boundRecord s w t seq d f
    let s := lgoRecord (winIssue s w seq d.dest miss b) w b
    .next (formUnit s (recordUnit (f.fillEnd.getD s.now) w (.window w seq (bit d.dest 0)) b))
  | [], r :: rest =>
    if runDone s r then
      let s := s.modWin w (fun k => { k with runs := rest })
      let (b, miss) := runRecord s w r
      let s := lgoRecord (winIssue s w r.i r.d.dest miss b) w b
      .next (formUnit s (recordUnit (r.anch.getD r.stop) w (.window w r.i (bit r.d.dest 0)) b))
    else .next s
  | [], [] => .next s

/-- TAKE_RECORD_COMMIT (R290, R389, R391): the record of take t is whole and first in the region: it becomes a compare unit,
and is committed when that is released. It counts the triggers missed since the previous record up to here (R291). -/
def execTakeRecordCommit (t : Nat) (s : State) : Host.Outcome State Fault Refusal :=
  match (s.take t).fill, s.takeMem.places.head? with
  | some f, some p =>
    if t < 16 ∧ p.take = t ∧ fillDone f = true ∧ recordFormed s t = false then
      let f := { f with missed := (s.take t).missed }
      let s := s.modTake t (fun k => { k with fill := some f })
      .next (formUnit s (recordUnit (f.fillEnd.getD s.now) t (.take t) (takeRecord t (s.take t).seq f)))
    else .next s
  | _, _ => .next s

/-- The crossing descriptor of a check span (R389). -/
def crossingBytes (ch : Nat) (x : Crossing) : Bytes :=
  padTo 16 (leBytes 2 ch ++ leBytes 1 x.cmp ++ leBytes 1 (b2n x.active) ++ leBytes 6 x.confirm ++ leBytes 6 x.start)

/-- A check span is formed (R389). -/
def formSpan (s : State) (ch : Nat) (a : SpanAcc) : State :=
  let b := a.words.flatMap (leBytes 4) ++ a.crossings
  let s := s.modCust (fun c => { c with spans := Sparse.del c.spans ch })
  formUnit s { tick := 4 * a.d * (a.first + a.words.length - 1), kind := 1, num := 255, ch := ch, body := .span, bytesA := b,
               bytesB := b, sigA := none, sigB := none }

/-- The check span of a channel ends early (R389 with R328). -/
def cutSpan (s : State) (ch : Nat) : State :=
  match Sparse.find s.cust.spans ch with
  | some a => formSpan s ch a
  | none => s

/-- The check span of a channel takes sample i (R389). -/
def spanSample (s : State) (ch d i w : Nat) (xs : List Crossing) : State :=
  let s := match Sparse.find s.cust.spans ch with
    | some a => if a.d = d ∧ a.first + a.words.length = i then s else formSpan s ch a
    | none => s
  let a := (Sparse.find s.cust.spans ch).getD { first := i, d := d, words := [], crossings := [] }
  let a := { a with words := a.words ++ [w], crossings := a.crossings ++ xs.flatMap (crossingBytes ch) }
  if i % 64 = 63 then formSpan s ch a
  else s.modCust (fun c => { c with spans := Sparse.put c.spans ch a })

end Sys2Proof.Machine
end

