-- ==== Sys2Proof/Machine/Chopper.lean ====
section
/-! DEFINITION. The chopper rejection of a channel (R163, R164 of spec/05_filter_chain.md): the response of the chain at the odd
harmonics of the chopping frequency, relative to its DC response. All the angles are multiples of 2π/128, so a stage's response is
a sum of powers of ζ, the first 128th root of unity, with integer coefficients; a zero is exact, and other magnitudes are worked
out to 2^−256. -/

namespace Sys2Proof.Machine

open Sys2Proof

/-- The scale of the cosines. -/
abbrev unit256 : Nat := 2 ^ 256

/-- Σ h_j ζ^(a·j) as the coefficients of ζ^0 to ζ^63, by ζ^64 = −1. -/
def rootSum (taps : List Int) (a : Nat) : List Int :=
  (taps.zipIdx).foldl (fun cs (h, j) =>
    let e := a * j % 128
    if e < 64 then cs.set e (cs.getD e 0 + h) else cs.set (e - 64) (cs.getD (e - 64) 0 - h)) (List.replicate 64 0)

/-- The cosine of half the angle, scaled: √((1 + c) / 2). -/
def halfCos (c : Nat) : Nat := Nat.sqrt ((unit256 + c) * unit256 / 2)

/-- cos(2π·r/128) for r = 0 to n + 1, scaled, latest first, from the cosine of one step. -/
def cosList (c1 : Int) : Nat → List Int
  | 0 => [c1, (unit256 : Int)]
  | n + 1 =>
    match cosList c1 n with
    | a :: b :: l => (2 * c1 * a / unit256 - b) :: a :: b :: l
    | l => l

/-- cos(2π·r/128) for r = 0 to 63, scaled. -/
def cosines : List Int := (cosList (halfCos (halfCos (halfCos (halfCos (halfCos 0))))) 62).reverse

/-- |Σ c_r ζ^r|² scaled by 2^512; 0 exactly where the sum is 0. -/
def normSq (cs : List Int) : Nat :=
  if cs.all (· == 0) then 0
  else
    let at_ := fun (r : Nat) => if r < 64 then cosines.getD r 0 else -(cosines.getD (r - 64) 0)
    let re := (cs.zipIdx.map (fun (c, r) => c * at_ r)).foldl (· + ·) 0
    let im := (cs.zipIdx.map (fun (c, r) => c * at_ ((r + 96) % 128))).foldl (· + ·) 0
    (re * re + im * im).toNat

/-- The stages of a chain: their taps and input periods (R155, R157, R160, R172). -/
def chainStages (x : DecW) (fir : List Int) (d : Nat) : List (List Int × Nat) :=
  [(cicTaps x.c, 1)] ++ (if x.e1 = 1 then [(hb1Taps, x.c)] else []) ++
    (if x.e2 = 1 then [(hb2Taps, x.c * 2 ^ x.e1)] else []) ++
    [(fir, x.pf), (List.replicate x.b 1, x.pf * x.f), (skewTaps x.D d, x.D)]

/-- |response / DC response|² of the chain at a frequency of `a` 128ths of 6.144 MHz, scaled by 2^512. -/
def responseSq (stages : List (List Int × Nat)) (a : Nat) : Nat :=
  stages.foldl (fun q (taps, p) =>
    let dc := (taps.foldl (· + ·) 0).natAbs
    q * normSq (rootSum taps (a * p)) / (dc * dc * unit256 * unit256)) (unit256 * unit256)

/-- The largest n up to `hi` with q·10^(n/1000) at most 1 (q scaled by 2^512), by bisection with `fuel` steps: the attenuation in
0.01 dB, rounded down. -/
def attenuation (q : Nat) : Nat → Nat → Nat → Nat
  | 0, lo, _ => lo
  | fuel + 1, lo, hi =>
    let mid := (lo + hi + 1) / 2
    if q ^ 1000 * 10 ^ mid ≤ 2 ^ 512000 then attenuation q fuel mid hi else attenuation q fuel lo (mid - 1)

/-- The smallest attenuation over the odd harmonics m = 1 to 31 of the chopping frequency, in 0.01 dB (R164); the spec states no
rounding, and none where a stage's DC response is 0 or the response exceeds it. -/
def chopperAttenuation (dw mode : Nat) (fir : List Int) (d : Nat) : Nat :=
  let stages := chainStages (decW dw) fir d
  let q := ((List.range 16).map (fun i => responseSq stages ((2 * i + 1) * (if mode = 1 then 1 else 2)))).foldl max 0
  if fir.foldl (· + ·) 0 = 0 ∨ 2 ^ 512 < q then (Config.chopperRejection dw mode fir).toNat
  else if q = 0 then 65534
  else attenuation q 17 0 65534 + b2n (Config.chopperUp dw mode fir)

end Sys2Proof.Machine
end

