-- ==== Sys2Proof/Machine/CellItems.lean ====
section
/-! DEFINITION. What a cell puts into its queues (R415, R416 of spec/13_queues_and_ordering.md): items of modulator words, with the
codes that resets and a reference that is off fix, and items of cell status. -/

namespace Sys2Proof.Machine

open Sys2Proof

/-- The cell and the core of a modulator-word or cell-status queue. -/
def cellQueue (q : Nat) : Option (Nat × Nat) :=
  if q < 48 then some (q % 24, q / 24) else if q < 96 then some ((q - 48) % 24, (q - 48) / 24) else none

/-- A cell that has put nothing into a queue. -/
def Emit.init : Emit := { next := 0, left := 0, ovls := List.replicate 16 Ovl.init }

/-- What a cell puts into one of its four queues: modulator words to cores A and B, cell status to cores A and B. -/
def State.emitOf (s : State) (c i : Nat) : Emit := (s.cell c).emit.getD i Emit.init

/-- The same, replaced. -/
def State.putEmit (s : State) (c i : Nat) (e : Emit) : State :=
  s.modCell c (fun k =>
    let es := k.emit ++ List.replicate (4 - k.emit.length) Emit.init
    { k with emit := es.set i e })

/-- The code that a modulator emits while its integrators are held reset outside an overload: 0b0111 and 0b1000 alternately (R104,
R111). Which comes first is the model's choice (log 104). -/
def idleCode (t period : Nat) : Nat := if t / period % 2 = 0 then 7 else 8

/-- The code of position m of a cell in the period that begins at tick t (R97, R104, R111): what the reset of a change of the
spare's assignment, a reference that is off, or the reset of an overload fixes, and otherwise what the modulator converts, `code`. -/
def emittedCode (s : State) (c m t period code : Nat) (o : Ovl) : Nat :=
  if s.refAt c t = false then idleCode t period
  else if (s.cell c).resets.any (fun r => r.1 == m && decide (r.2.1 ≤ t) && decide (t < r.2.2)) then idleCode t period
  else if o.resetting t then (if o.neg then 0 else 15)
  else code

/-- The 16 codes that a word holds (R416). -/
def wordCodes (w : Nat) : List Nat := (List.range 16).map (fun m => bits w (4 * m + 3) (4 * m))

/-- A word of 16 codes (R416). -/
def codesWord (cs : List Nat) : Nat := cs.foldr (fun c w => c % 16 + 16 * w) 0

/-- The place in the active set at which each of a cell's 17 modulators takes its next element, after the codes of one period (R93):
data-weighted averaging moves on by the elements used. -/
def rotate (s : State) (c : Nat) (cs : List Nat) : State :=
  let spare := s.nat .spare c 1
  s.modCell c (fun k =>
    let rot := k.rot ++ List.replicate (17 - k.rot.length) 0
    { k with rot := cs.zipIdx.foldl (fun (r : List Nat) (q, m) =>
        let x := if m = spare then 16 else m
        r.set x ((r.getD x 0 + q) % 15)) rot })

/-- The elements of the active set that modulator m of a cell connects to the positive reference for its next word, a code q
(R93). -/
def elementsUsed (s : State) (c m q : Nat) : List Nat :=
  let active := (List.range 18).filter (bit (s.nat .elements c (m + 1)) ·)
  (List.range q).map (fun i => active.getD (((s.cell c).rot.getD m 0 + i) % 15) 0)

/-- The cell's word of modulator codes for the period that begins at tick t: its codes, and the cell's own detectors after them
(R99). -/
def modulatorWord (s : State) (c t data : Nat) (ovls : List Ovl) : Nat × List Ovl :=
  let p := s.periodAt c t
  let xs := (wordCodes data).zipIdx.map (fun (code, m) =>
    let o := (ovls.getD m Ovl.init).cutTo t
    let q := emittedCode s c m t p code o
    (q, { ovlWord o t p q with due := [] }))
  (codesWord (xs.map (·.1)), xs.map (·.2))

/-- The cell's word of cell status for the period that begins at tick t (R416). -/
def statusWord (s : State) (c t : Nat) : Nat := codesWord ((chansOf c).map (fun n => statusBits (s.chan n).flags t))

/-- How long after its last period a cell forms an item of cell status: until no detection can reach back to it any more, which is 16
pull phases and the phase before them where there are pulls, and 64 periods of a comparator otherwise (log 103). -/
def statusLag (s : State) (c t : Nat) : Nat := s.periodAt c t * (if Config.hasPull s.variant then 544 else 64)

/-- What the pull detectors of a cell found takes effect. -/
def cellSettle (s : State) (c : Nat) : State := onChans s (chansOf c) pullSettle

/-- The next word that cell c puts into its queue i of core `core`, from the operand `data`: the header of an item, a grid tick, or
the word of a period. A cell forms no item of cell status before its flags are settled. -/
def cellWord (s : State) (c i data : Nat) : Option (State × QWord) :=
  let e := s.emitOf c i
  if e.left = 0 then
    let t := data % 2 ^ 64
    if 2 ≤ i ∧ s.now < s.periodsOn c t 32 + statusLag s c t then none
    else some ((if 2 ≤ i then cellSettle s c else s).putEmit c i { e with next := t, left := 32 }, ⟨t, false, none⟩)
  else
    let t := e.next
    let e' := { e with next := t + s.periodAt c t, left := e.left - 1 }
    if 2 ≤ i then some (s.putEmit c i e', ⟨statusWord s c t, e.left == 1, none⟩)
    else
      let (w, ovls) := modulatorWord s c t data e.ovls
      let s := s.putEmit c i { e' with ovls := ovls }
      some (if i = 0 then rotate s c (wordCodes w) else s, ⟨w, e.left == 1, none⟩)

end Sys2Proof.Machine
end

