-- ==== Sys2Proof/Machine/Queues.lean ====
section
/-! DEFINITION. The queues between islands (R411 to R428 of spec/13_queues_and_ordering.md): pushes, pops, errors, flushes,
and what a lost item costs. Words of the modulator queues reach the channels' chains here. -/

namespace Sys2Proof.Machine

open Sys2Proof

/-- The queue exists on this hub: its object does (R426), or it is queue 186, the time island's own events. -/
def hasQueue (s : State) (q : Nat) : Bool := s.has .queue q || q == 186

/-- Queue q changed. -/
def State.modQueue (s : State) (q : Nat) (f : Queue → Queue) : State := s.putQueue q (f (s.queue q))

/-- The flush state of a queue (object 0x1910 + q:0B). -/
def flushing (s : State) (q : Nat) : Bool := s.nat .queue q 11 == 1

/-- The word that was waiting to be pushed enters when a stage is empty (R412, R413). -/
def settlePush (s : State) (q : Nat) : State :=
  let k := s.queue q
  match k.pushing with
  | some w =>
    if k.words.length < queueDepth q then
      notePeak (s.putQueue q { k with words := k.words ++ [w], pushing := none, midItem := !w.eoi }) q
    else s
  | none => s

/-- The grid tick at which a core expects its next item of modulator words, or of cell status, from a cell (R424). -/
def CellSt.expected (c : CellSt) (core : Nat) (status : Bool) : Option Nat :=
  if status then (if core = 0 then c.statA else c.statB) else (if core = 0 then c.expA else c.expB)

/-- The expected tick of a core set. -/
def CellSt.expect (c : CellSt) (core : Nat) (status : Bool) (t : Nat) : CellSt :=
  if status then (if core = 0 then { c with statA := some t } else { c with statB := some t })
  else (if core = 0 then { c with expA := some t } else { c with expB := some t })

/-- The ticks at which a channel's samples are missing because of lost periods: from the end of the first to the end of the last
and 4·S beyond (R424). -/
def missingUntil (s : State) (ch last : Nat) : Nat := last + 4 * s.spanAt ch last

/-- A sample of a channel with grid time g is missing (R424). -/
def isMissing (s : State) (ch g : Nat) : Bool :=
  (s.cell (cellOfCh ch)).lost.any (fun p => decide (p.1 ≤ g) && decide (g < missingUntil s ch p.2))

/-- The modulator periods that begin from tick a up to b are lost to the hub (R423, R424): they enter the chains as level 0, and
the samples that reach back to them are missing and named. -/
def loseperiods (s : State) (cell cause a b : Nat) : State :=
  let e := a + s.periodAt cell a
  let zero := fun (c : Chan) => match c.nextM with
    | some m => { c with buf := c.buf.zipIdx.map (fun (v, i) =>
        if a < 4 * (m + i) ∧ 4 * (m + i) ≤ b then 0 else v) }
    | none => c
  let old := (s.cell cell).lost
  let rs := (chansOf cell).filterMap (fun ch =>
    let d := s.decOf ch
    let from_ := (old.map (fun p => missingUntil s ch p.2)).foldl max e
    let lo := max (ceilDiv from_ (4 * d)) (s.chan ch).nextK
    let hi := ceilDiv (missingUntil s ch b) (4 * d)
    if lo < hi then some (Range.upTo ch d lo (hi - 1)) else none)
  let s := onChans s (chansOf cell) (fun s ch => s.modChan ch zero)
  let s := s.modCell cell (fun c => { c with lost := c.lost ++ [(e, b)] })
  streamsLost s cause rs

/-- The cores whose results count: both while they are compared, else the one in custody (R394, R425). -/
def countingCores (s : State) : List Nat := if comparing s then [0, 1] else [s.holder]

/-- The losses that one core alone has shown are decided once the other core has come past them (R394, R425): lost by both, they are
accounted for the core in custody; lost by one, they are a fault of that core. -/
def judgeLosses (s : State) (cell cause : Nat) : State :=
  (s.cell cell).missed.foldl (fun s m =>
    let (core, status, a, b) := m
    let k := s.cell cell
    if !k.missed.contains m then s
    else if comparing s = false then s.modCell cell (fun c => { c with missed := c.missed.erase m })
    else if (k.expected (otherCore core) status).any (fun t => decide (b ≤ t)) = false then s
    else
      match k.missed.find? (fun x => x.1 == otherCore core && x.2.1 == status && decide (x.2.2.1 < b) && decide (a < x.2.2.2)) with
      | some o =>
        let held := if core = s.holder then (a, b) else o.2.2
        let s := s.modCell cell (fun c => { c with missed := (c.missed.erase m).erase o })
        let s := s.modCust (fun c => { c with both := ((cell, min a o.2.2.1, max b o.2.2.2) :: c.both).take 64 })
        loseperiods s cell cause held.1 held.2
      | none => coreFault (s.modCell cell (fun c => { c with missed := c.missed.erase m })) core) s

/-- The level of a code (R95): 2·q − 15. -/
def levelOf (q : Nat) : Int := 2 * (q : Int) - 15

/-- One modulator period's word enters a channel's overload detector and chain: at the lower clock rate a word spans two periods
of 6.144 MHz (R112, R157). A lost period breaks no run or window of the detector (DESIGN CHOICE, log 110). -/
def chanWord (s : State) (ch tick period code : Nat) : State :=
  s.modChan ch (fun c =>
    let lost := (s.cell (cellOfCh ch)).lost.any (fun p => decide (p.1 ≤ tick + period) && decide (tick + period ≤ p.2))
    let v := if lost then 0 else levelOf code
    { c with buf := c.buf ++ (if period = 8 then [v, v] else [v]), ovl := if lost then c.ovl else ovlWord c.ovl tick period code })

/-- The words of an item enter a cell's channels, the first period beginning at `tick`; a period's length is that of the power mode
at its tick (R114). -/
def cellWords (s : State) (cell : Nat) : Nat → List Nat → State
  | _, [] => s
  | tick, w :: ws =>
    let p := s.periodAt cell tick
    cellWords (onChans s (chansOf cell) (fun s ch => chanWord s ch tick p (bits w (4 * (ch % 16) + 3) (4 * (ch % 16)))))
      cell (tick + p) ws

/-- The tick of the next period that the chains of a cell have not got, of modulator words or of cell status. -/
def chainExpects (s : State) (cell : Nat) (status : Bool) : Option Nat :=
  let c := s.chan (16 * cell)
  if status then c.statTo else c.nextM.map (fun m => 4 * (m + c.buf.length) - 4)

/-- Chains that have processed nothing start with the period that begins at `tick` (R157, R158). -/
def chainsStart (s : State) (cell tick : Nat) : State :=
  onChans s (chansOf cell) (fun s ch =>
    if (s.chan ch).nextM.isSome then s
    else s.modChan ch (fun c =>
      let d := (decW c.use.dw).D
      { c with nextM := some (tick / 4 + 1), buf := [], nextK := ceilDiv (tick / 4 + 1) d }))

/-- The periods of cell status with a bit set, position m of each word, the first period beginning at `tick`. -/
def statusPeriods (s : State) (cell m : Nat) : Nat → List Nat → List (Nat × Nat × Nat)
  | _, [] => []
  | tick, w :: ws =>
    let stop := tick + s.periodAt cell tick
    let b := bits w (4 * m + 3) (4 * m)
    let rest := statusPeriods s cell m stop ws
    if b = 0 then rest
    else match rest with
      | (t, e, x) :: more => if t = stop ∧ x = b then (tick, e, b) :: more else (tick, stop, b) :: rest
      | [] => [(tick, stop, b)]

/-- The chains of a cell take the periods of an item that begins at the tick that they expect (R127, R416). -/
def itemTaken (s : State) (cell : Nat) (status : Bool) (tick : Nat) (ws : List Nat) : State :=
  if status then
    let stop := s.periodsOn cell tick ws.length
    onChans s (chansOf cell) (fun s ch => s.modChan ch (fun c =>
      { c with stat := c.stat ++ statusPeriods s cell (ch % 16) tick ws, statTo := some stop }))
  else cellWords s cell tick ws

/-- The chains of a cell go on without the periods from a up to b, which no core has (R423). -/
def periodsGone (s : State) (cell cause : Nat) (status : Bool) (a b : Nat) : State :=
  let s := if (s.cell cell).lost.any (fun p => decide (p.1 ≤ a + s.periodAt cell a) && decide (b ≤ p.2)) then s
    else loseperiods s cell cause a b
  onChans s (chansOf cell) (fun s ch => s.modChan ch (fun c =>
    if status then { c with statTo := some b } else { c with buf := c.buf ++ List.replicate ((b - a) / 4) 0 }))

/-- Items that have come early are taken in the order of their ticks, each where the chains expect it; a gap before the first of them is
lost once every core that counts has come past it (R423, R425). `fuel` bounds the items. -/
def takeEarly (cell cause : Nat) (status : Bool) : Nat → State → State
  | 0, s => s
  | n + 1, s =>
    let its := (s.cell cell).early.filter (fun x => x.1 == status)
    match chainExpects s cell status, its.foldl (fun (m : Option (Bool × Nat × List Nat)) x => match m with
      | some y => if x.2.1 < y.2.1 then some x else m
      | none => some x) none with
    | some e, some x =>
      let rest := fun (s : State) => s.modCell cell (fun c => { c with early := c.early.erase x })
      if x.2.1 < e then takeEarly cell cause status n (rest s)
      else if x.2.1 = e then takeEarly cell cause status n (itemTaken (rest s) cell status e x.2.2)
      else if (countingCores s).all (fun k => ((s.cell cell).expected k status).any (fun t => decide (e < t))) then
        takeEarly cell cause status n (itemTaken (rest (periodsGone s cell cause status e x.2.1)) cell status x.2.1 x.2.2)
      else s
    | _, _ => s

/-- A whole item of modulator words or of cell status reaches a core (R416, R423 to R425): the periods between the one that the core
expected and its header are lost to that core; what the chains have not got waits for them. -/
def cellItem (s : State) (cell core cause : Nat) (status : Bool) (ws : List Nat) : State :=
  match ws with
  | [] => s
  | tick :: ws =>
    let gap := ((s.cell cell).expected core status).filter (fun e => decide (e < tick))
    let stop := s.periodsOn cell tick ws.length
    let counts := (countingCores s).contains core
    let s := s.modCell cell (fun c =>
      let c := c.expect core status stop
      { c with missed := match gap with | some e => if counts && comparing s then c.missed ++ [(core, status, e, tick)] else c.missed | none => c.missed })
    if counts = false then s
    else
      let s := judgeLosses s cell cause
      let s := if status then
          if (s.chan (16 * cell)).statTo.isSome then s
          else onChans s (chansOf cell) (fun s ch => s.modChan ch (fun c => { c with statTo := some tick }))
        else chainsStart s cell tick
      let s := s.modCell cell (fun c => { c with early := c.early ++ [(status, tick, ws)] })
      takeEarly cell cause status (s.cell cell).early.length s

/-- What a whole item does when its reader has it (R416). -/
def itemDelivered (s : State) (q : Nat) (ws : List Nat) : State :=
  match cellQueue q with
  | some (cell, core) =>
    cellItem s cell core (s.queue q).cause (decide (48 ≤ q)) ws
  | none => s

/-- The grid count is about to be loaded (R209): what a cell has put into its queues reaches the chains, and it begins its next items
with the new count. -/
def drainCell (s : State) (q : Nat) : State :=
  match cellQueue q with
  | some (cell, core) =>
    let k := s.queue q
    let all := (k.item ++ k.words ++ k.pushing.toList).map (·.data)
    let s := if q < 48 ∧ k.dropToMark = false then
        (chunks 33 all).foldl (fun s ws => cellItem s cell core k.cause false ws) s
      else s
    let i := 2 * (q / 48) + core
    let s := s.putEmit cell i { s.emitOf cell i with left := 0 }
    s.modQueue q (fun k => { k with words := [], pushing := none, item := [], dropToMark := false, dropNew := false, dropIn := false,
                                    midItem := false })
  | none => s

/-- The core that a loss on a queue names (R393 kind 4, R425): one that alone reads it, or, for an uncorrectable error, one that alone
writes it. The queues of the cells are judged by the periods lost. -/
def coreOfQueue (q cause : Nat) : Option Nat :=
  if q = 98 ∨ q = 125 then some 0
  else if q = 99 ∨ q = 126 then some 1
  else if cause = 3 ∧ (q = 156 ∨ q = 187) then some 0
  else if cause = 3 ∧ (q = 157 ∨ q = 188) then some 1
  else none

/-- What the loss of n items of queue q costs beside the modulator periods, which the next header shows (R423, R548). -/
def itemsLost (s : State) (q cause n : Nat) (header : Option Nat) : State :=
  let s := match coreOfQueue q cause with
    | some c => if n ≠ 0 ∧ Config.hasCoreB s.variant = true then coreFault s c else s
    | none => s
  if n = 0 then s
  else if 96 ≤ q ∧ q < 98 then
    match header with
    | some h => loseUnit s cause (h % 2 ^ 56)
    | none => s
  else if 100 ≤ q ∧ q < 162 then answer s .internal
  else if 162 ≤ q ∧ q < 193 then raise s 85 2 ((q - 162) * 2 ^ 24 + n)
  else s

/-- The number of items among words: those with an end mark, and one still open. -/
def itemCount (ws : List QWord) : Nat :=
  (ws.filter (·.eoi)).length + (match ws.getLast? with | some w => b2n (!w.eoi) | none => 0)

/-- A single-bit error is corrected (R418, R428). -/
def noteCorrected (s : State) (q : Nat) : State :=
  let s := (s.bump .queue q 5 1).bump .queues 0 2 1
  if s.nat .queue q 5 % s.nat .queues 0 6 = 0 then raise s 69 1 q else s

/-- An uncorrectable error (R419): the reader drops the item that holds the word. -/
def noteUncorrectable (s : State) (q : Nat) (w : QWord) (item : List QWord) : State :=
  let s := (s.bump .queue q 6 1).bump .queues 0 3 1
  let s := raise ((s.bump .queue q 8 1).setNum .queue q 12 s.now) 70 1 q
  let s := s.modQueue q (fun k => { k with item := [], dropToMark := true, dropNew := w.eoi, cause := 3 })
  itemsLost s q 3 1 ((item ++ [w]).head?.map (·.data))

/-- A word popped while the reader discards (R419). -/
def discardWord (s : State) (q : Nat) (w : QWord) : State :=
  let k := s.queue q
  let s := if k.dropNew then itemsLost (s.bump .queue q 8 1) q 3 1 (some w.data) else s
  s.modQueue q (fun k => { k with dropToMark := !w.eoi, dropNew := false })

/-- A word popped (R412, R418, R419): the item it completes, whole, if it does. -/
def popWord (s : State) (q : Nat) (w : QWord) (ecc : Ecc) : State × Option (List QWord) :=
  let s := if ecc = .corrected then noteCorrected s q else s
  let k := s.queue q
  if ecc = .uncorrectable ∧ k.dropToMark = false then (noteUncorrectable s q w k.item, none)
  else if k.dropToMark then
    (if ecc = .uncorrectable then
        raise ((((s.bump .queue q 6 1).bump .queues 0 3 1).setNum .queue q 12 s.now).modQueue q
          (fun k => { k with dropNew := k.dropNew || w.eoi })) 70 1 q
      else discardWord s q w, none)
  else if w.eoi then
    ((s.modQueue q (fun k => { k with item := [] })).bump .queue q 4 1, some (k.item ++ [w]))
  else (s.modQueue q (fun k => { k with item := k.item ++ [w] }), none)

/-- The head word of a queue is popped (R412); without one, or during a flush, the pop stays pending (R412, R421). -/
def popHead (s : State) (q : Nat) (ecc : Ecc) : State × Option (List QWord) :=
  match (s.queue q).words with
  | w :: ws =>
    if flushing s q then (s.modQueue q (fun k => { k with popWaiting := true }), none)
    else
      let s := s.modQueue q (fun k => { k with words := ws, popWaiting := false })
      popWord (settlePush s q) q w ecc
  | [] => (s.modQueue q (fun k => { k with popWaiting := true }), none)

/-- A pop that waits completes with the word that has reached the head (R413). -/
def popPending (s : State) (q : Nat) : State :=
  if (s.queue q).popWaiting ∧ (s.queue q).words ≠ [] ∧ flushing s q = false then
    match popHead s q .good with
    | (s, some ws) => itemDelivered s q (ws.map (·.data))
    | (s, none) => s
  else s

/-- A word that a writer presents is pushed, or discarded while the writer's item is being dropped (R412, R415, R420). -/
def present (s : State) (q : Nat) (w : QWord) : State :=
  let k := s.queue q
  if k.dropIn then s.putQueue q { k with dropIn := !w.eoi, midItem := false }
  else popPending (settlePush (s.putQueue q { k with pushing := some w }) q) q

/-- QUEUE_PUSH (R411 to R416, R420): the writer presents a word; it completes when the tail is empty, and otherwise stays
pending. Words of an item that a flush or an abandonment cut are discarded up to its end mark. A cell's word is the header that
`data` gives, or that of the cell's next period, with the end mark on the 32nd. -/
def execQueuePush (q data : Nat) (eoi : Bool) (s : State) : Host.Outcome State Fault Refusal :=
  if hasQueue s q = false ∨ (162 ≤ q ∧ q < 193) ∨ (s.queue q).pushing.isSome = true then .next s
  else
    match cellQueue q with
    | some (cell, core) =>
      match cellWord s cell (2 * (q / 48) + core) data with
      | some (s, w) => .next (present s q w)
      | none => .next s
    | none => .next (present s q ⟨data % 2 ^ 64, eoi, none⟩)

/-- CELL_ITEM_ABANDON (R415): a push of a cell is still pending as its next word falls due: the item in progress is lost. -/
def execCellItemAbandon (q : Nat) (s : State) : Host.Outcome State Fault Refusal :=
  match (s.queue q).pushing with
  | some w =>
    if q < 96 ∧ hasQueue s q = true then
      let k := s.queue q
      let cut := k.words.reverse.dropWhile (fun x => !x.eoi)
      let k := { k with words := cut.reverse, pushing := none, dropIn := !w.eoi, midItem := false,
                        item := if cut.isEmpty then [] else k.item, cause := 2 }
      .next (((s.putQueue q k).bump .queue q 9 1).bump .queues 0 5 1)
    else .next s
  | none => .next s

/-- A queue is flushed (R420, R421). -/
def flushQueue (s : State) (q : Nat) : State :=
  let k := s.queue q
  let all := k.item ++ k.words ++ k.pushing.toList
  let n := itemCount all
  let mid := match all.getLast? with | some w => !w.eoi | none => k.midItem
  let s := s.putQueue q { k with words := [], pushing := none, item := [], dropIn := mid, dropToMark := false, dropNew := false,
                                 midItem := false, cause := 2 }
  let s := ((s.bump .queue q 7 n).bump .queues 0 4 n).setNum .queue q 11 1
  itemsLost s q 2 n (all.head?.map (·.data))

/-- The flush command (R427). -/
def flushCommand (s : State) (q v : Nat) : State × Code :=
  if flushing s q then (s, .inUse) else if v = 1 then (flushQueue s q, .success) else (s, .outOfRange)

/-- FLUSH_COMPLETE (R421): every word before the flush point has left and a partly pushed item has reached its end mark. -/
def execFlushComplete (q : Nat) (s : State) : Host.Outcome State Fault Refusal :=
  if flushing s q = true ∧ (s.queue q).dropIn = false then .next (popPending (s.setNum .queue q 11 0) q) else .next s

end Sys2Proof.Machine
end

