-- ==== Sys2Proof/Machine/Samples.lean ====
section
/-! DEFINITION. The emission of a sample (R155 to R193 of spec/05_filter_chain.md): the chain consumes its words, the flags and
the value are decided, and the word goes to comparators, bands, windows, rings, streams, check spans and the channel's status.
Also the decimation switch (R190). -/

namespace Sys2Proof.Machine

open Sys2Proof

/-- The decimation switch of a channel that is due takes place, with what follows it (R190, R191, R310, R328, R389). -/
def performSwitch (s : State) (ch : Nat) : State :=
  match switchDue s ch with
  | some (t, w) =>
    let d := s.decOf ch
    let s := showCmps (decSwitch (winSwitch (winCatchUp (cutSpan s ch) t) ch t) ch t w) ch
    bandAnew (streamsSwitch s ch d (decW w).D t) ch t
  | none => s

/-- DECIMATION_SWITCH (R190, R191): at t_x the pending change switches the chain. -/
def execDecimationSwitch (ch : Nat) (s : State) : Host.Outcome State Fault Refusal :=
  if ch < Config.channels s.variant then .next (performSwitch s ch) else .next s

/-- The tables of a chain for its next sample. -/
def Chan.tables (s : State) (c : Chan) : ChTab :=
  let x := decW c.use.dw
  { x := x, sh := c.use.shifts, cic := cicTaps x.c, new := coefs s (c.use.bank c.use.active),
    old := c.fade.map (fun f => (coefs s (c.use.bank f.old), f.total)), skew := skewTaps x.D c.use.d }

/-- The chain takes the words of a sample up to period `stop`. -/
def Chan.passTo (s : State) (c : Chan) (stop : Nat) : Chan × Pass :=
  let m := c.nextM.getD 0
  let n := stop + 1 - m
  let p := passWords (c.tables s) m { h := c.hist, j := (c.fade.map (·.j)).getD 0, sat := 0, out := none } (c.buf.take n)
  ({ c with hist := p.h, buf := c.buf.drop n, nextM := some (m + min n c.buf.length),
            fade := c.fade.map (fun f => { f with j := p.j }) }, p)

/-- Comparator i was active in `c` and is not in `b`: it has been switched off (R188). -/
def Chan.wentOff (c b : Chan) (i : Nat) : Bool := (c.cmp i).active && !(b.cmp i).active

/-- The changes whose point of effect the sample of grid time g is (R189): those of the active bank, or the others. -/
def Chan.dueAt (c : Chan) (g : Nat) (active : Bool) : List Sched :=
  c.sched.filter (fun e => !e.atSwitch && decide (e.tick ≤ g) && (decide (e.field = .active) == active))

/-- The changes due at the sample of grid time g, but those of the active bank, apply in order, with their SET (R173, R189). -/
def Chan.applyDue (s : State) (c : Chan) (g : Nat) : Chan :=
  let due := c.dueAt g false
  let c := { c with sched := c.sched.filter (fun e => !(!e.atSwitch && decide (e.tick ≤ g))) }
  let b := due.foldl Chan.apply c
  let b := due.foldl (fun (b : Chan) e => match e.field with
    | .shift i => if i < 6 then b.setRun g (s.settleLenOf b.use) else b
    | .skewD => b.setRun g 4
    | _ => b) b
  { b with cmpHist := ([0, 1].filter (c.wentOff b)).map (fun i => (g, i, false)) ++ b.cmpHist }

/-- The objects show a comparator that has been switched off as inactive (R188). -/
def showOff (s : State) (ch : Nat) (c b : Chan) : State :=
  [0, 1].foldl (fun s i => if c.wentOff b i then s.setNum .chThresh ch (7 * i + 6) 0 else s) s

/-- FIR outputs that feed sample k and are emitted by tick t (R157). -/
def Chan.firMade (c : Chan) (k t : Nat) : Nat :=
  let x := decW c.use.dw
  t / 4 / (x.pf * x.f) - x.D * (k - 1) / (x.pf * x.f)

/-- The chain meets its SLATEs before sample k of grid time g, and the changes of the active bank that are due at it (R169, R171,
R192, R193): a fade that runs ends at the first SLATE, where the changes effective by then switch directly and later ones begin
to fade; without one they fade behind it, or from sample k on. With the channel, the saturations of stages 1 to 6. -/
def Chan.meet (s : State) (c : Chan) (k : Nat) (acts : List Sched) : List Nat → Chan × Nat
  | [] => (acts.foldl (fun (c : Chan) e => c.toBank 0 e.val.toNat) c, 0)
  | t :: ts =>
    let ran := c.fade.isSome
    let c := if ran then c else acts.foldl (fun (c : Chan) e => c.toBank 0 e.val.toNat) c
    let (c, p) := c.passTo s (t / 4)
    let c := if ran then
        (acts.filter (fun e => decide (t < e.tick))).foldl (fun (c : Chan) e => c.toBank (c.firMade k t) e.val.toNat)
          (c.cutFade ((acts.filter (fun e => decide (e.tick ≤ t))).map (·.val.toNat)))
      else c
    let (c, n) := ts.foldl (fun (q : Chan × Nat) t =>
      let (c, p) := q.1.passTo s (t / 4)
      ({ c with hist := Hist.clear }, q.2 + p.sat)) ({ c with hist := Hist.clear }, p.sat)
    (c.resetCmps t, n)

/-- The chain computes sample k of grid time g: what is due at it, then the words up to it. With the channel, the stage-6 output and
the saturations of stages 1 to 6. -/
def Chan.consume (s : State) (c : Chan) (k g : Nat) : Chan × Pass :=
  let due := c.slates.filter (fun t => decide (t < g))
  let acts := c.dueAt g true
  let b := (due.foldl (fun (b : Chan) t => b.setRun (4 * (decW b.use.dw).D * (t / (4 * (decW b.use.dw).D) + 1))
    (s.settleLenOf (c.useAt t))) c).applyDue s g
  let (b, n) := { b with slates := c.slates.filter (fun t => decide (g ≤ t)) }.meet s k acts due
  let (b, p) := b.passTo s ((decW b.use.dw).D * k)
  (b, { p with sat := p.sat + n })

/-- The next sample of a channel, index and grid time, when the words it needs have arrived with the word that begins at its grid
time, cell status has arrived for that period, and whether it lies in an overload is decided (R76, R100, R126). -/
def nextSample (s : State) (ch : Nat) : Option (Nat × Nat) :=
  let c := s.chan ch
  let d := (decW c.use.dw).D
  match c.nextM with
  | none => none
  | some m =>
    let k := c.nextK
    let g := 4 * d * k
    if 0 < d ∧ d * k + 2 ≤ m + c.buf.length ∧ c.statTo.any (fun t => decide (g < t)) ∧ c.ovl.undecided g = false ∧ g ≤ s.now
    then some (k, g) else none

/-- What a sample is before it goes anywhere: its value and flags (R182 to R184). -/
def sampleFlags (g : Nat) (c : Chan) (o : Out7) : Nat × Int :=
  let base := markAt c g
  let cal := bit base fCAL
  let ovl := overloadAt c.flags g
  let f := if c.fade.isSome then setBit base fXFD else base
  let f := if o.m || ovl.isSome then setBit f fOVR else f
  let f := if cal then clearBit f fOVR else f
  (f, sampleValue o cal ovl)

/-- Both comparators take a sample (R186, R187). -/
def cmpsTake (c : Chan) (k d g : Nat) (v : Int) (flags : Nat) : Chan × List Crossing :=
  let prev := match c.last with | some (i, w) => if i + 1 = k then some w else none | none => none
  let (c0, x0) := c.cmp0.take 0 k d v flags prev
  let (c1, x1) := c.cmp1.take 1 k d v flags prev
  let xs := x0.toList ++ x1.toList
  ({ c with cmp0 := c0, cmp1 := c1, crossings := c.crossings ++ xs,
            cmpHist := (xs.map (fun x => (g, x.cmp, x.active)) ++ c.cmpHist).take 64 }, xs)

/-- The channel's status follows an emitted sample (R549). -/
def noteStatus (s : State) (ch k d w : Nat) : State :=
  let s := ((s.setNum .chStatus ch 2 w).setNum .chStatus ch 3 k).setNum .chStatus ch 4 d
  s.setNum .chStatus ch 5 (s.nat .chStatus ch 5 ||| w % 256 : Nat)

/-- A sample that a legacy output reads by source 0 is kept for the lag and an update period (R579). -/
def lgoSample (s : State) (ch d g w : Nat) : State :=
  if s.nat .chLegacy ch 1 = 255 ∨ s.nat .chLegacy ch 2 ≠ 0 then s
  else
    let old := Sparse.get s.lgo.samps ch []
    let keep := old.filter (fun x => decide (s.now ≤ x.g + 2 * 24576000 + s.nat .chLegacy ch 7))
    { s with lgo := { s.lgo with samps := Sparse.put s.lgo.samps ch (⟨g, 4 * d, s.now, w⟩ :: keep) } }

/-- The emitted word goes on: bands, ring, windows, streams, check span, status, legacy outputs. -/
def deliverSample (s : State) (ch k d g w : Nat) (v : Int) (flags : Nat) (xs : List Crossing) : State :=
  let (s, outs, last) := bandRun s ch k g v (some flags)
  let x : Samp := { k := k, word := w, outs := outs, cross0 := xs.any (fun x => x.cmp == 0),
                    cross1 := xs.any (fun x => x.cmp == 1), last := last }
  let s := winSample (winCatchUp (noteCopy s (ringPush s ch g x)) g) ch g x
  let s := spanSample (streamsSample s ch d k w) ch d k w xs
  lgoSample (noteStatus s ch k d w) ch d g w

/-- Sample k of a channel is emitted, or missing (R155 to R187, R424). -/
def emitSample (s : State) (ch k g : Nat) : State :=
  let slates := (s.chan ch).slates.filter (fun t => decide (t < g))
  let s := slates.foldl (fun s t => showCmps (bandClear s ch t) ch) s
  let s := noteDelays s ch g
  let (c, p) := (s.chan ch).consume s k g
  let s := showOff s ch (s.chan ch) c
  let x := decW c.use.dw
  let o := stage7 (p.out.getD ⟨0, false⟩) (multiplier x c.use.shifts c.use.gCal c.use.gUsr)
    (offsetA c.use.oCal c.use.gUsr c.use.oUsr) (c.use.shifts.getD 6 0)
  let (flags, v) := sampleFlags g c o
  let sats := p.sat + b2n o.sat.isSome
  let w := sampleWord v flags
  let step := fun (c : Chan) => { c with nextK := k + 1,
                                         fade := c.fade.map (fun f => { f with left := f.left - 1 }),
                                         flags := pruneFlags c.flags g, stat := c.stat.filter (fun p => decide (g < p.2.1)) }
  let s := if sats = 0 then s else s.bump .chFilter ch 20 sats
  if isMissing s ch g then
    let (s, outs, _) := bandRun (s.putChan ch (step { c with last := none })) ch k g 0 none
    cutSpan (streamsMissing (sampleGone (winMissing (winCatchUp s g) ch g outs) ch k) ch) ch
  else
    let (c, xs) := cmpsTake c k x.D g v flags
    deliverSample (s.putChan ch (step { c with last := some (k, w) })) ch k x.D g w v flags xs

/-- What detectors found earlier, a fade that has ended, and a switch that is due take effect before the next sample. -/
def settleChan (s : State) (ch : Nat) : State :=
  let s := crossSettle (pullSettle (ovlSettle s ch) ch) ch
  let s := match (s.chan ch).fade with
    | some f => if f.left = 0 then fadeDone s ch else s
    | none => s
  performSwitch s ch

/-- SAMPLE_EMITTED (R155 to R187): the next sample of a channel is computed from the words that have arrived, and emitted. -/
def execSampleEmitted (ch : Nat) (s : State) : Host.Outcome State Fault Refusal :=
  if Config.channels s.variant ≤ ch then .next s
  else
    let s' := settleChan s ch
    match nextSample s' ch with
    | some (k, g) => .next (emitSample s' ch k g)
    | none => .next s

end Sys2Proof.Machine
end

