-- ==== Sys2Proof/Machine/Reanchor.lean ====
section
/-! DEFINITION. The load of the grid count, the re-anchor and the performed SLATE (R192, R209, R213, R225 to R227 of
spec/06_sample_grid_and_time.md; R601 of spec/19_power_reset_startup.md). A load changes the number of the present tick; what
the hub times by elapsed ticks runs on across it, so every tick that it keeps moves with the count. -/

namespace Sys2Proof.Machine

open Sys2Proof

/-- A tick of the old count as the new count numbers it, `d` later. -/
def moveTick (d : Int) (t : Nat) : Nat := ((t : Int) + d).toNat

/-- An optional tick moved. -/
abbrev moveOpt (d : Int) (t : Option Nat) : Option Nat := t.map (moveTick d)

/-- A tick beside something else moved. -/
abbrev moveFst {α : Type} (d : Int) (p : Nat × α) : Nat × α := (moveTick d p.1, p.2)

/-- An interval of the old count moved. -/
abbrev moveIv (d : Int) (p : Nat × Option Nat) : Nat × Option Nat := (moveTick d p.1, moveOpt d p.2)

/-- What the overload detector found, moved. -/
def OvlDue.move (d : Int) : OvlDue → OvlDue
  | .onset t neg => .onset (moveTick d t) neg
  | .resetEnd t => .resetEnd (moveTick d t)
  | .release t => .release (moveTick d t)

/-- The ticks of an overload detector moved. -/
def Ovl.move (d : Int) (o : Ovl) : Ovl :=
  { o with runStart := moveTick d o.runStart, resetEnd := moveTick d o.resetEnd, window := o.window.map (moveFst d),
           due := o.due.map (OvlDue.move d), cuts := o.cuts.map (fun t => if t % 512 = 0 then ceilTo 512 (moveTick d t) else moveTick d t) }

/-- A pending decimation switch of tick t moved: it still falls on a whole multiple of 4·lcm(D_old, D_new) (R190). -/
def Chan.moveSwitch (d : Int) (c : Chan) (t : Nat) : Nat :=
  match c.sched.find? (fun e => decide (e.field = .dec) && decide (e.tick = t)) with
  | some e => switchTick (decW (c.dwAt (t - 1))).D (decW e.val.toNat).D (moveTick d t)
  | none => moveTick d t

/-- The ticks of a channel moved. -/
def Chan.move (d : Int) (c : Chan) : Chan :=
  let o := c.ovl
  let p := c.pull
  { c with
    sched := c.sched.map (fun e => { e with tick := if e.atSwitch then c.moveSwitch d e.tick else moveTick d e.tick })
    slates := c.slates.map (moveTick d)
    cmpHist := c.cmpHist.map (moveFst d)
    ovl := o.move d
    pull := { p with startTick := moveTick d p.startTick, unmarkedTick := moveTick d p.unmarkedTick,
                     declareDue := p.declareDue.map (fun x => (moveTick d x.1, moveTick d x.2)),
                     releaseDue := moveOpt d p.releaseDue, hold := moveTick d p.hold, since := moveTick d p.since }
    flags := c.flags.map (fun i => { i with start := moveTick d i.start, stop := moveOpt d i.stop })
    delays := c.delays.map (moveFst d) }

/-- The ticks of a cell moved. The cores expect its words at the new count afresh. -/
def CellSt.move (d : Int) (c : CellSt) : CellSt :=
  { c with
    expA := none, expB := none, statA := none, statB := none, early := [], missed := [], lost := [], closing := c.closing.map (moveFst d)
    readyDue := moveOpt d c.readyDue, modeDue := c.modeDue.map (fun p => (ceilTo 512 (moveTick d p.1), p.2)), modes := c.modes.map (moveFst d)
    refs := c.refs.map (moveFst d), resets := c.resets.map (fun r => (r.1, moveTick d r.2.1, moveTick d r.2.2))
    spareDue := moveOpt d c.spareDue, clamps := c.clamps.map (fun p => (p.1, moveIv d p.2))
    emit := c.emit.map (fun e => { e with next := moveTick d e.next, ovls := e.ovls.map (Ovl.move d) })
    pullAt := none }

/-- The ticks of the auxiliary converter moved. Slots and scan starts count from the new epoch: what runs in slots goes on from a
slot boundary of the new count (R128, R129, R136, R142). -/
def AuxSt.move (d : Int) (a : AuxSt) : AuxSt :=
  let slot := fun (t : Nat) => ceilTo (if a.lowPower then 192 else 24) (moveTick d t)
  { a with
    scan := moveOpt d a.scan, entryStart := a.entryStart.map slot, inj := a.inj.map (fun p => (p.1, moveTick d p.2))
    injRun := a.injRun.map (fun p => (p.1, slot p.2)), injFree := moveTick d a.injFree
    stepStart := moveTick d a.stepStart, looked := none, sws := a.sws.map (moveFst d)
    modeDue := a.modeDue.map (fun p => (ceilTo 192 (moveTick d p.1), p.2))
    periodDue := a.periodDue.map (fun p => (ceilTo a.period (moveTick d p.1), p.2)), readyDue := moveOpt d a.readyDue, notReady := a.notReady.map (moveIv d)
    claims := a.claims.map (moveFst d) }

/-- The ticks of the clock and the grid moved. -/
def ClkSt.move (d : Int) (c : ClkSt) : ClkSt :=
  { c with
    lastSync := moveTick d c.lastSync, lastAnnounce := moveTick d c.lastAnnounce, lastReq := moveTick d c.lastReq
    lastGmSync := moveTick d c.lastGmSync, lastGmAnnounce := moveTick d c.lastGmAnnounce
    masters := c.masters.map (fun p => (p.1, moveTick d p.2)), evalAt := none, graceFrom := moveTick d c.graceFrom
    marks := c.marks.map (moveFst d), pdelay := c.pdelay.map (fun x => { x with last := moveTick d x.last })
    aloneFrom := moveTick d c.aloneFrom, stHist := c.stHist.map (moveFst d), slateBall := moveOpt d c.slateBall }

/-- The ticks of the ports and of KMP moved. -/
def NetSt.move (d : Int) (n : NetSt) : NetSt :=
  { n with
    ports := n.ports.map (fun p => { p with lcFirst := moveOpt d p.lcFirst, lcLast := moveOpt d p.lcLast,
                                            helloAt := moveOpt d p.helloAt, ownHelloAt := moveOpt d p.ownHelloAt })
    inbox := n.inbox.map (fun r => { r with tick := moveTick d r.tick }), lastHello := moveOpt d n.lastHello
    lastCheck := moveOpt d n.lastCheck, revertFrom := moveOpt d n.revertFrom, lastJoin := moveOpt d n.lastJoin
    joins := n.joins.map (fun j => { j with tick := moveTick d j.tick })
    sessions := n.sessions.map (fun p => (p.1, { p.2 with last := moveTick d p.2.last }))
    bridged := n.bridged.map (fun b => { b with tick := moveTick d b.tick }) }

/-- The ticks of a digital input moved. -/
def DinSt.move (d : Int) (x : DinSt) : DinSt :=
  { x with
    from_ := moveTick d x.from_, proc := moveOpt d x.proc
    changes := x.changes.map (fun c => { c with accepted := moveTick d c.accepted, edge := moveTick d c.edge })
    levels := x.levels.map (moveFst d), stuck := x.stuck.map (moveIv d), runFrom := moveOpt d x.runFrom }

/-- The ticks of calibration moved; starts and an abort still fall on whole milliseconds (R235, R241). -/
def CalSt.move (d : Int) (c : CalSt) : CalSt :=
  let ms := fun (t : Option Nat) => t.map (fun t => ceilTo 24576 (moveTick d t))
  { c with
    startAt := ms c.startAt, calres := moveOpt d c.calres, abortAt := ms c.abortAt, holdFrom := moveOpt d c.holdFrom
    deferred := c.deferred.map (fun p => (p.1, moveTick d p.2)), running := c.running.map (fun p => (p.1, moveTick d p.2))
    winFrom := c.winFrom.map (fun p => (p.1, moveTick d p.2))
    switches := c.switches.map (fun x => { x with tick := ceilTo 24576000 (moveTick d x.tick) })
    unmatched := c.unmatched.map (fun p => (p.1, p.2.1, ceilTo 24576 (moveTick d p.2.2))) }

/-- The ticks of the streams and of acknowledgement moved. -/
def StrmSt.move (d : Int) (k : StrmSt) : StrmSt :=
  { k with
    spaces := k.spaces.map (fun p =>
      { p with items := p.items.map (fun i => { i with formed := moveTick d i.formed, sent := moveOpt d i.sent }) })
    streams := k.streams.map (fun p => (p.1, { p.2 with ackAt := moveOpt d p.2.ackAt })), codec := k.codec.map (moveFst d)
    ready := k.ready.map (fun r => { r with tick := moveTick d r.tick }), rateMs := moveTick d (24576 * k.rateMs) / 24576
    acks := k.acks.map (fun a => { a with holes := a.holes.map (fun h => (h.1, moveTick d h.2.1, moveOpt d h.2.2)),
                                          ackAt := moveOpt d a.ackAt, heard := moveTick d a.heard })
    ackLook := none, upFrames := k.upFrames.map (fun f => { f with sent := moveTick d f.sent })
    upAckAt := moveOpt d k.upAckAt }

/-- The ticks of custody moved. -/
def CustSt.move (d : Int) (c : CustSt) : CustSt :=
  { c with
    units := c.units.map (fun u => { u with sigA := u.sigA.map (fun p => (p.1, moveTick d p.2)),
                                            sigB := u.sigB.map (fun p => (p.1, moveTick d p.2)) })
    tests := c.tests.map (fun t => (t.1, t.2.1, moveTick d t.2.2)), both := []
    proving := c.proving.map (fun p => (p.1, p.2.1, moveTick d p.2.2))
    resync := c.resync.map (fun r => { r with due := ceilTo 24576 (moveTick d r.due), tj := moveOpt d r.tj,
                                              ts := moveOpt d r.ts })
    backTick := moveTick d c.backTick }

/-- The ticks of the legacy outputs moved. -/
def LgoAll.move (d : Int) (l : LgoAll) : LgoAll :=
  { outs := l.outs.map (fun p => (p.1, { p.2 with lastTaken := moveTick d p.2.lastTaken, request := moveOpt d p.2.request,
                                                  dutyFrom := moveTick d p.2.dutyFrom,
                                                  looked := none, usedRec := p.2.usedRec.map (moveFst d) }))
    samps := l.samps.map (fun p => (p.1, p.2.map (fun x => { x with g := moveTick d x.g, at_ := moveTick d x.at_ })))
    recs := l.recs.map (fun p => (p.1, p.2.map (fun r => (moveTick d r.1, r.2)))) }

/-- Everything that elapsed ticks time, moved with a count that goes on `d` later. -/
def moveTicks (s : State) (d : Int) : State :=
  { s with
    chans := s.chans.map (fun p => (p.1, p.2.move d))
    cells := s.cells.map (fun p => (p.1, p.2.move d))
    excSettle := s.excSettle.map (fun p => (p.1, moveTick d p.2))
    excLeft := s.excLeft.map (fun p => (p.1, moveTick d p.2))
    aux := s.aux.move d
    auxSettle := s.auxSettle.map (fun p => (p.1, p.2.map (moveTick d)))
    stages := s.stages.map (fun p => (p.1, { p.2 with opened := moveTick d p.2.opened,
                                                      imm := p.2.imm.map (fun i => { i with at_ := moveTick d i.at_ }) }))
    ev := { s.ev with merge := s.ev.merge.map (fun m => { m with updated := moveTick d m.updated,
                                                                 notified := moveOpt d m.notified })
                      recs := s.ev.recs.map (fun r => { r with tick := moveTick d r.tick }) }
    clk := s.clk.move d
    tpos := s.tpos.map (fun p => (p.1, { p.2 with
      lead := p.2.lead + (d : Rat)
      pulse := p.2.pulse.map (fun x => if x.2.1 = 0 then (x.1 + d, x.2) else x) }))
    net := s.net.move d
    dins := s.dins.map (fun p => (p.1, p.2.move d))
    cal := s.cal.move d
    power := { s.power with released := s.power.released + d, metAt := moveTick d s.power.metAt }
    store := { s.store with began := moveOpt d s.store.began, wrote := moveTick d s.store.wrote }
    snaps := s.snaps.map (fun p => (p.1, { p.2 with looked := none }))
    dma := { s.dma with chs := s.dma.chs.map (fun p => (p.1, { p.2 with
      at_ := moveTick d p.2.at_, wait := p.2.wait.map (fun w => { w with since := moveTick d w.since })
      reqs := p.2.reqs.map (fun r => { r with at_ := moveTick d r.at_ }) })) }
    takes := s.takes.map (fun p => (p.1, { p.2 with fill := p.2.fill.map (fun f => { f with since := moveTick d f.since }) }))
    takeMem := { s.takeMem with copyAt := moveOpt d s.takeMem.copyAt }
    strm := s.strm.move d
    bands := s.bands.map (fun p => (p.1, p.2.renumber (moveTick d)))
    cust := s.cust.move d
    lgo := s.lgo.move d }

/-- A session's pending sets that name a tick at or after a are cancelled, with result 5 (R213, R436); the lower bound is 0
at the first load (R601). -/
def cancelFences (s : State) (a : Nat) : State :=
  s.stages.foldl (fun s p =>
    let g := s.stage p.1
    let gone := g.pend.filter (fun x => decide (a ≤ x.tick))
    gone.foldl (fun s _ => raise ((s.setNum .session p.1 5 5).bump .session p.1 10 1) 54 2 p.1)
      (s.putStage p.1 { g with pend := g.pend.filter (fun x => decide (x.tick < a)) })) s

/-- Accepted SLATEs that name a tick at or after a are cancelled (R213). -/
def cancelSlates (s : State) (a : Nat) : State :=
  let gone := s.clk.slates.filter (fun t => decide (a ≤ t))
  let s := s.modClk (fun c => { c with slates := c.slates.filter (fun t => decide (t < a))
                                       zones := c.zones.filter (fun z => decide (z.1 < a)) })
  gone.foldl (fun s _ => raise s 54 1 0) s

/-- Time-pulse outputs in grid time that name a tick at or after a are cancelled: they go to mode 0 (R213, R220). -/
def cancelPulses (s : State) (a : Nat) : State :=
  (List.range 8).foldl (fun s p =>
    let x := s.tpo p
    match (if x.rearm && s.nat .tpo p 1 != 0 then some (tpoFirst s p (tpoNow s p)) else x.next) with
    | some i =>
      if s.nat .tpo p 2 = 0 ∧ a ≤ tpoEdge s p i then
        raise ((s.setNum .tpo p 1 0).modTpo p (fun x => { x with next := none, rearm := false })) 54 3 p
      else s
    | none => s) s

/-- Step 2 of a re-anchor at tick a (R213, R601). -/
def cancelNamed (s : State) (a : Nat) : State := cancelPulses (cancelFences (cancelSlates s a) a) a

/-- REANCHOR_START (R213): at the first evaluation tick after receipt the stream instances end, takes end at their tideline,
what names a tick at or after it is cancelled, and the load at the next integer second is due. -/
def execReanchorStart (s : State) : Host.Outcome State Fault Refusal :=
  match s.clk.reanchorCmd with
  | some r =>
    if s.now % 24576 = 0 ∧ r < s.now then
      let s := winsReanchor (takesReanchor (streamsEnd s s.now)) s.now
      let s := spoilResync (cancelNamed s s.now)
      .next (s.modClk (fun c => { c with reanchorCmd := none, anchorDue := some 2 }))
    else .next s
  | none => .next s

/-- The words of the old count that no sample has taken enter the chain; its next word is numbered by the new count (R157,
R209). With the channel, the outputs that saturated (R156). -/
def Chan.reload (s : State) (c : Chan) : Chan × Nat :=
  let (c, p) := c.passTo s (c.nextM.getD 0 + c.buf.length)
  ({ c with buf := [], nextM := none, last := none, stat := [], statTo := none }, p.sat)

/-- Snapshot set k as after reset. -/
def SnapSet.init : SnapSet := { nows := [], looked := none, run := none }

/-- Snapshot set k beside its objects. -/
def State.snapSt (s : State) (k : Nat) : SnapSet := Sparse.get s.snaps k SnapSet.init

/-- Snapshot set k changed. -/
def State.modSnap (s : State) (k : Nat) (f : SnapSet → SnapSet) : State :=
  { s with snaps := Sparse.store s.snaps k (f (s.snapSt k)) SnapSet.init }

/-- Snapshot sets whose next periodic tick the load to tick t passes take their snapshot at t (R534). -/
def snapsPassed (s : State) (t : Nat) : State :=
  (List.range 8).foldl (fun s k =>
    let p := s.nat .snapSet k 2
    if p ≠ 0 ∧ s.now / p < t / p then s.modSnap k (fun x => { x with nows := x.nows ++ [t] }) else s) s

/-- The grid count is loaded with S · 24,576,000 (R209): every tick that is kept moves with it. -/
def loadCount (s : State) (t : Nat) : State :=
  let s := s.allChans.foldl (fun s ch =>
    let s := crossSettle (pullSettle (ovlSettle s ch) ch) ch
    if (s.chan ch).nextM.isSome then
      let (c, n) := (s.chan ch).reload s
      let s := s.putChan ch c
      if n = 0 then s else s.bump .chFilter ch 20 n
    else s) (s.allChans.foldl cutSpan ((List.range 96).foldl drainCell s))
  let s := snapsPassed s t
  let s := { moveTicks s ((t : Int) - s.now) with now := t }
  (s.setNum .grid 0 9 t).bump .grid 0 12 1

/-- The integer second that the local clock passed in this grid clock cycle, if it passed one (R209). -/
def passedSecond (s : State) : Option Nat :=
  let f := s.clk.local_ / ((1000000000 : Int) : Rat)
  if s.clk.local_ - ((f.floor * 1000000000 : Int) : Rat) < localStep s then some f.floor.toNat else none

/-- GRID_ANCHOR (R209, R210, R213, R601): in the cycle in which the local clock passes an integer second the count is loaded,
where an anchor, a free-running anchor or a re-anchor is due. -/
def execGridAnchor (s : State) : Host.Outcome State Fault Refusal :=
  match s.clk.anchorDue, passedSecond s with
  | some kind, some sec =>
    let first := s.nat .grid 0 12 = 0
    let s := loadCount (oldsDrop (if first then cancelNamed s 0 else s)) (sec * 24576000)
    let e := gridError s
    let sv := s.nat .localClock 0 14
    let near := decide (e < s.num .grid 0 4) && decide (-(s.num .grid 0 4) < e) && (sv == 2 || sv == 3)
    let s := s.modClk (fun c => { c with anchorDue := none })
    let s := gridTo s (if kind = 1 then 5 else if near then 2 else 1) s.now
    .next (if kind = 2 ∧ s.nat .startup 0 3 = 6 then
        (List.range 64).foldl (fun s x => if s.nat .crossHub x 1 = 1 then crossBegin s x s.now else s)
          (winsStart (takesLoad (streamsBegin (s.bands.foldl (fun s p => bandAnew s p.1 (s.now - 1)) s) s.now) s.now) s.now)
      else s)
  | _, _ => .next s

/-- Some worker has not confirmed a zone SLATE by its tick (R227). -/
def zoneMissing (s : State) (mask : Nat) : Bool := (listedWorkers s).any (fun p => !bit mask p)

/-- SLATE_PERFORMED (R192, R225 to R227): the earliest accepted SLATE whose tick has come clears every channel's chain at that
tick. -/
def execSlatePerformed (s : State) : Host.Outcome State Fault Refusal :=
  match s.clk.slates.foldl (fun (m : Option Nat) t => some (m.elim t (min t))) none with
  | some t =>
    if t ≤ s.now then
      let zone := s.clk.zones.find? (fun z => z.1 == t)
      let s := s.modClk (fun c => { c with slates := c.slates.filter (· != t)
                                           zones := c.zones.filter (fun z => z.1 != t)
                                           slateBall := if s.nat .slate 0 2 = 2 then some t else c.slateBall })
      let s := onChans s s.allChans (fun s n => s.modChan n (fun c => { c with slates := c.slates ++ [t] }))
      let s := spoilResync ((s.setNum .slate 0 6 t).bump .slate 0 7 1)
      let s := raiseAt (deliver s .slate t none) 55 1 0 t
      .next (if zone.any (fun z => zoneMissing s z.2) then raiseAt s 55 3 0 t else s)
    else .next s
  | none => .next s

/-- The level that the SLATE ball drives in output mode: high for 1 µs from a performed SLATE (R226). -/
def slateLevel (s : State) : Bool :=
  s.nat .slate 0 2 == 2 && (match s.clk.slateBall with | some t => decide (s.now < t + 25) | none => false)

end Sys2Proof.Machine
end

