-- ==== Sys2Proof/Machine/Dma.lean ====
section
/-! DEFINITION. The DMA engine (R440 to R472 of spec/14_channel_programs.md) and the halt of its channels (R620, R621 of
spec/20_debug_port.md). DMA_BEAT serves a channel: it moves one beat of a MOVE, or fetches an instruction, which the command of
that instruction then executes. The answers of dictionary requests are in Machine/DmaDictionary.lean. -/

namespace Sys2Proof.Machine

open Sys2Proof

/-- A channel at the start of a run (R441). -/
def DmaCh.init : DmaCh :=
  { pc := 0, regs := List.replicate 8 ⟨0, 0, false, false⟩, frames := [], count := 0, mask := 0, hold := [], move := none,
    reqs := [], outs := [], wait := none, latched := false, pulses := 0, skip := false, stepping := false, at_ := 0 }

/-- Channel c. -/
def State.dmaCh (s : State) (c : Nat) : DmaCh := Sparse.get s.dma.chs c DmaCh.init

/-- The engine changed. -/
def State.modDma (s : State) (f : DmaSt → DmaSt) : State := { s with dma := f s.dma }

/-- Channel c changed. -/
def State.modCh (s : State) (c : Nat) (f : DmaCh → DmaCh) : State :=
  s.modDma (fun d => { d with chs := Sparse.store d.chs c (f (s.dmaCh c)) DmaCh.init })

/-- The state of a channel (R442): 0 IDLE, 1 RUN, 2 WAIT, 3 FAULT, 4 HALTED. -/
def dmaState (s : State) (c : Nat) : Nat := s.nat .dmaStat c 1

/-- A channel enters a state; object 0x1D00:06 shows the halted ones. -/
def dmaTo (s : State) (c st : Nat) : State :=
  (s.setNum .dmaStat c 1 st).setNum .debug 0 6 (putBit (s.nat .debug 0 6) c (st == 4) : Nat)

/-- A channel enters HALTED, with its event (R621, R625). -/
def dmaHalt (s : State) (c : Nat) : State := raise ((dmaTo s c 4).setNum .debugCh c 8 0) 84 2 c

/-- A run starts (R441, R443); with halt on start the channel is HALTED before its first instruction (R621). -/
def dmaBegin (s : State) (c : Nat) : State :=
  let pc := s.nat .dmaCtl c 1
  let s := s.modCh c (fun k => { DmaCh.init with pc := pc, latched := k.latched, pulses := k.pulses, at_ := s.now })
  let s := ((dmaTo s c 1).bump .dmaStat c 8 1).setNum .dmaStat c 14 s.now
  let s := (s.setNum .dmaStat c 2 pc).setNum .debugCh c 8 0
  if s.nat .debugCh c 5 = 1 then dmaHalt s c else s

/-- Command 1 (R443). -/
def dmaStartCmd (s : State) (c : Nat) : State × Code :=
  if dmaState s c = 0 ∧ s.nat .dmaCtl c 3 = 0 then (dmaBegin s c, .success) else (s, .inUse)

/-- A start pulse reaches an armed channel (R443): in IDLE a run is due, in RUN, WAIT or HALTED one start is latched, and a pulse that
finds a start latched or the channel in FAULT is not taken. -/
def startPulse (s : State) (c : Nat) : State :=
  let k := s.dmaCh c
  if dmaState s c = 3 ∨ k.latched = true then s.bump .dmaStat c 9 1
  else if dmaState s c = 0 ∧ k.pulses = 0 then s.modCh c (fun k => { k with pulses := 1 })
  else s.modCh c (fun k => { k with latched := true })

/-- A pulse of a source at the DMA WAIT inputs (R443, R454): it sets the source's bit in every channel's mask and is a start pulse of
the armed channels in event mode that name it. -/
def dmaPulse (s : State) (src : Nat) : State :=
  (List.range 16).foldl (fun s c =>
    let s := s.modCh c (fun k => { k with mask := setBit k.mask src })
    if s.nat .dmaCtl c 3 = 1 ∧ s.nat .dmaCtl c 4 = src ∧ s.nat .startup 0 3 = 6 then startPulse s c else s) s

/-- DMA_EVENT_START (R443): in IDLE the run begins that a start pulse asked for there, or else the latched one. -/
def execDmaEventStart (c : Nat) (s : State) : Host.Outcome State Fault Refusal :=
  let k := s.dmaCh c
  if 16 ≤ c ∨ dmaState s c ≠ 0 then .next s
  else if 0 < k.pulses then .next (dmaBegin (s.modCh c (fun k => { k with pulses := 0 })) c)
  else if k.latched = true then .next (dmaBegin (s.modCh c (fun k => { k with latched := false })) c)
  else .next s

/-- What ends a run early: nothing held, latched or awaited stays; dictionary writes that the management island has received are
still served (R444, R468). -/
def dmaStop (s : State) (c : Nat) : State :=
  let k := s.dmaCh c
  let s := s.modDma (fun d => { d with cur := d.cur.filter (fun x => x.1 != c)
                                       orphans := d.orphans ++ (k.reqs.filter (·.write)).map (fun r => (c, r)) })
  (s.modCh c (fun k => { k with hold := [], move := none, reqs := [], outs := [], wait := none, latched := false,
                                stepping := false })).setNum .debugCh c 8 0

/-- Command 2 (R444). -/
def dmaAbortCmd (s : State) (c : Nat) : State × Code :=
  let st := dmaState s c
  if st = 1 ∨ st = 2 ∨ st = 4 then (raise (dmaTo (dmaStop s c) c 0) 73 2 c, .success) else (s, .inUse)

/-- Command 3 (R468). -/
def dmaClearCmd (s : State) (c : Nat) : State × Code :=
  if dmaState s c = 3 then ((dmaTo s c 0).setNum .dmaStat c 3 0, .success) else (s, .inUse)

/-- A command of object 0x1A20 + c. -/
def dmaCommand (s : State) (c v : Nat) : State × Code :=
  match v with
  | 1 => dmaStartCmd s c
  | 2 => dmaAbortCmd s c
  | 3 => dmaClearCmd s c
  | _ => (s, .outOfRange)

/-- A channel faults (R468): `kind` is 0 for a read, 1 for a write, 2 for a read-back, 3 for a dictionary request. -/
def dmaFault (s : State) (c cause target kind addr code : Nat) : State :=
  let k := s.dmaCh c
  let s := (((s.setNum .dmaStat c 2 k.pc).setNum .dmaStat c 3 cause).setNum .dmaStat c 4 k.count).setNum .dmaStat c 5
    (target + 16 * kind : Nat)
  let s := (s.setNum .dmaStat c 6 addr).setNum .dmaStat c 7 code
  let s := (s.bump .dmaStat c 10 1).bump .dmaEngine 0 8 1
  raise (dmaTo (dmaStop s c) c 3) 73 1 c

/-- A fault with no access. -/
def dmaBad (s : State) (c cause : Nat) : State := dmaFault s c cause 0 0 0 0

/-- The halt, release and step commands (R621). -/
def debugCommand (s : State) (c v : Nat) : State × Code :=
  let st := dmaState s c
  match v with
  | 1 =>
    if st = 1 ∧ (s.dma.cur.map (·.1)) ≠ some c then (dmaHalt s c, .success)
    else if st = 1 ∨ st = 2 then (s.setNum .debugCh c 8 1, .success)
    else (s, .inUse)
  | 2 => if st = 4 then ((dmaTo s c 1).modCh c (fun k => { k with skip := true, at_ := s.now }), .success) else (s, .inUse)
  | 3 =>
    if st = 4 then ((dmaTo s c 1).modCh c (fun k => { k with skip := true, stepping := true, at_ := s.now }), .success)
    else (s, .inUse)
  | _ => (s, .outOfRange)

/-- An instruction ends: the channel goes on at `pc`, in RUN, or HALTED after a step or with a halt pending (R621). -/
def dmaNext (s : State) (c pc : Nat) : State :=
  let k := s.dmaCh c
  let s := s.modCh c (fun k => { k with pc := pc, wait := none, stepping := false, at_ := s.now })
  let s := s.setNum .dmaStat c 2 pc
  if k.stepping then (dmaTo s c 4).setNum .debugCh c 8 0
  else if s.nat .debugCh c 8 = 1 then dmaHalt s c
  else dmaTo s c 1

/-- The channel waits (R442). -/
def dmaAwait (s : State) (c : Nat) (what : DmaFor) (limit : Nat) : State :=
  dmaTo (s.modCh c (fun k => { k with wait := some ⟨what, limit, s.now⟩, at_ := s.now })) c 2

/-- The 16 bytes of a register in object 0x1A40 + c:0C (R472). -/
def DmaReg.bytes (r : DmaReg) : Bytes :=
  leBytes 8 r.addr ++ leBytes 8 (r.target + 16 * b2n r.ns + 32 * b2n r.nrb)

/-- The loop frames as object 0x1A40 + c:0D shows them (R472). -/
def framesBytes (fs : List (Nat × Nat)) : Bytes := padTo 17 (leBytes 1 fs.length ++ fs.flatMap (fun f => leBytes 4 f.2))

/-- The byte of program SRAM at an address (R440, R470). -/
def sramByte (s : State) (a : Nat) : Byte := (s.bytes .sram 0 (a / 1024 + 1)).getD (a % 1024) 0

/-- Bytes of program SRAM. -/
def sramLoad (s : State) (a n : Nat) : Bytes := (List.range n).map (fun i => sramByte s (a + i))

/-- The 64-bit word of program SRAM at an address. -/
def sramWord (s : State) (a : Nat) : Nat := leNat (sramLoad s a 8)

/-- Bytes stored in program SRAM. -/
def sramStore (s : State) : Nat → Bytes → State
  | _, [] => s
  | a, b :: bs => sramStore (s.setBytes .sram 0 (a / 1024 + 1) ((s.bytes .sram 0 (a / 1024 + 1)).set (a % 1024) b)) (a + 1) bs

/-- The DMA buffer holds 4 MiB (R446). -/
abbrev dmaBufSize : Nat := 4194304

/-- The DRAM address of the DMA buffer. -/
abbrev dmaBase : Nat := Config.dmaBase.toNat

/-- The DRAM address of region offset 0, by the partitions in use. -/
def regionBase (s : State) : Nat := (Config.regionBase s.takeMem.rushesMb s.takeMem.captureMb).toNat

/-- n bytes from a lie within size bytes from base. -/
def within (base size a n : Nat) : Bool := decide (base ≤ a) && decide (a + n ≤ base + size)

/-- The bytes that a read of a target returns, where the span allows it (R446). Host memory answers from outside. -/
def dmaLoad (s : State) (r : DmaReg) (a n : Nat) (host : Option Bytes) : Except Nat Bytes :=
  match r.target with
  | 0 =>
    if within dmaBase dmaBufSize a n then .ok ((List.range n).map (fun i => Sparse.get s.dmaBuf (a - dmaBase + i) 0))
    else if within (regionBase s) (regionSize s) a n then
      .ok ((List.range n).map (fun i => regionLoad s (a - regionBase s + i)))
    else .error 4
  | 1 =>
    if s.nat .endpoint 0 1 = 0 then .error 10
    else match host with
      | some b => .ok (padTo n b)
      | none => .error 10
  | _ => if within 0 65536 a n then .ok (sramLoad s a n) else .error 4

/-- Bytes written to a target, where the span allows it (R446). -/
def dmaStore (s : State) (r : DmaReg) (a : Nat) (b : Bytes) : Except Nat State :=
  match r.target with
  | 0 =>
    if within dmaBase dmaBufSize a b.length then .ok { s with dmaBuf := regionStore s.dmaBuf (a - dmaBase) b } else .error 4
  | 1 =>
    if s.nat .endpoint 0 1 = 0 then .error 10
    else .ok (s.modDma (fun d => { d with hostOut := some ⟨true, a, b, b.length, true, false⟩ }))
  | _ => if within 0 65536 a b.length then .ok (sramStore s a b) else .error 4

/-- A read of host memory goes out, Relaxed Ordering clear and No Snoop as its register has NS (R447). -/
def hostRead (s : State) (a n : Nat) (ns : Bool) : State :=
  s.modDma (fun d => { d with hostOut := some ⟨false, a, [], n, false, ns⟩ })

/-- Register i of a channel. -/
def DmaCh.reg (k : DmaCh) (i : Nat) : DmaReg := k.regs.getD i ⟨0, 0, false, false⟩

/-- Register i advanced by n (R445). -/
def DmaCh.advance (k : DmaCh) (i n : Nat) : DmaCh :=
  { k with regs := k.regs.modify i (fun r => { r with addr := (r.addr + n) % 2 ^ 64 }) }

/-- A fixed-address access repeats one element (R452); an incrementing one covers e elements in a row. -/
def gather (s : State) (r : DmaReg) (inc : Bool) (w e : Nat) (host : Option Bytes) : Except Nat Bytes :=
  if inc then dmaLoad s r r.addr (w * e) host
  else match dmaLoad s r r.addr w (host.map (fun b => b.take w)) with
    | .ok b => .ok ((List.replicate e b).flatten)
    | .error x => .error x

/-- The elements that the next read beat takes, 0 for none (R457). -/
def DmaMove.readable (m : DmaMove) (hold : Nat) (src dst : DmaReg) : Nat :=
  let left := if m.mode = 0 then m.toRead / m.ws else m.toRead
  if src.target = 2 ∧ m.data.isNone then 0
  else if dst.target = 2 then min (32 / m.ws) left
  else min (min (32 / m.ws) left) ((256 - hold) / m.ws)

/-- The elements that the next write beat can take, 0 for none. A dictionary destination takes its whole value at once. -/
def DmaMove.writable (m : DmaMove) (hold : Nat) (dst : DmaReg) : Nat :=
  if dst.target = 2 then (if m.toRead = 0 then 1 else 0)
  else if m.mode = 0 then min 32 (min hold m.toWrite) / m.wd
  else min (32 / m.wd) (min (hold / m.ws) m.toWrite)

/-- The next beat of a MOVE: true for a write, false for a read, none when it has none to issue (R458). A write goes first when
it fills a beat or nothing is left to read. -/
def DmaCh.nextBeat (k : DmaCh) (m : DmaMove) : Option Bool :=
  let r := m.readable k.hold.length (k.reg m.src) (k.reg m.dst)
  let w := m.writable k.hold.length (k.reg m.dst)
  if (k.reg m.dst).target ≠ 2 ∧ 32 / m.wd ≤ w then some true
  else if 0 < r then some false
  else if 0 < w then some true
  else none

/-- A breakpoint acts before the next instruction of a channel: its number (R621). -/
def atBreak (s : State) (c : Nat) : Option Nat :=
  let k := s.dmaCh c
  if k.skip ∨ k.move.isSome ∨ 65536 ≤ k.pc then none
  else (List.range 4).find? (fun i => s.nat .debugCh c (i + 1) == k.pc)

/-- A channel has a beat that it can issue (R458). -/
def canBeat (s : State) (c : Nat) : Bool :=
  let k := s.dmaCh c
  dmaState s c == 1 && (match k.move with
    | some m => (k.nextBeat m).isSome
    | none => (atBreak s c).isNone)

/-- The channels in the order in which a level serves them: after the last one served, wrapping (R458). -/
def rotation (last : Nat) : List Nat := (List.range 16).map (fun i => (last + 1 + i) % 16)

/-- The channel that the engine serves next (R458). -/
def pickChannel (s : State) : Option Nat :=
  [3, 2, 1, 0].findSome? (fun l =>
    (rotation (s.dma.served.getD l 15)).find? (fun c => s.nat .dmaCtl c 2 == l && canBeat s c))

/-- A read beat of a MOVE (R452, R457). -/
def readBeat (s : State) (c : Nat) (m : DmaMove) (host : Option Bytes) : State :=
  let k := s.dmaCh c
  let r := k.reg m.src
  let e := m.readable k.hold.length r (k.reg m.dst)
  let n := e * m.ws
  let done := if m.mode = 0 then n else e
  let got : Except Nat Bytes :=
    match r.target with
    | 2 => .ok (((m.data.getD []) ++ List.replicate n 0).take n)
    | 4 => .ok ((List.range n).map (fun i => (leBytes 8 r.addr).getD (i % 8) 0))
    | _ => if r.addr % m.ws ≠ 0 then .error 4 else gather s r m.sinc m.ws e host
  match got with
  | .error x => dmaFault s c x r.target 0 r.addr 0
  | .ok b =>
    let s := if r.target = 1 then hostRead s r.addr (if m.sinc then n else m.ws) r.ns else s
    let m' := { m with toRead := m.toRead - done, data := m.data.map (List.drop n) }
    s.modCh c (fun k =>
      let k := if m.sinc then k.advance m.src n else k
      if (k.reg m.dst).target = 2 then { k with move := some { m' with acc := m.acc ++ b }, at_ := s.now }
      else { k with hold := k.hold ++ b, move := some m', at_ := s.now })

/-- One source element as a destination element (R452). -/
def convert (ws wd mode : Nat) (b : Bytes) : Bytes :=
  if wd ≤ ws then b.take wd
  else
    let neg := match b.getLast? with | some x => bit x.toNat 7 | none => false
    b ++ List.replicate (wd - ws) (if mode = 2 ∧ neg = true then 255 else 0)

/-- Writes to a target are noted for the next confirmation (R463). -/
def noteOut (outs : List DmaOut) (o : DmaOut) : List DmaOut := outs.filter (fun x => x.target != o.target) ++ [o]

/-- A write beat of a MOVE (R452, R457, R463). -/
def writeBeat (s : State) (c : Nat) (m : DmaMove) : State :=
  let k := s.dmaCh c
  let r := k.reg m.dst
  if r.target = 2 then
    dmaNext (s.modCh c (fun k => { k with
      move := none
      reqs := k.reqs ++ [{ write := true, idx := r.addr / 256, sub := r.addr % 256, data := m.acc, count := m.acc.length,
                           at_ := s.now }] })) c (k.pc + 8)
  else
    let e := m.writable k.hold.length r
    let take := if m.mode = 0 then e * m.wd else e * m.ws
    let src := k.hold.take take
    let out := if m.mode = 0 then src else (chunks m.ws src).flatMap (convert m.ws m.wd m.mode)
    let res : Except Nat State :=
      if r.addr % m.wd ≠ 0 then .error 4
      else if m.dinc then dmaStore s r r.addr out
      else (chunks m.wd out).foldl (fun (a : Except Nat State) b => match a with
        | .ok s => dmaStore s r r.addr b
        | .error x => .error x) (.ok s)
    match res with
    | .error x => dmaFault s c x r.target 1 r.addr 0
    | .ok s =>
      let left := m.toWrite - (if m.mode = 0 then e * m.wd else e)
      let last := if m.dinc then r.addr + (e - 1) * m.wd else r.addr
      let s := s.modCh c (fun k =>
        let k := if m.dinc then k.advance m.dst (e * m.wd) else k
        { k with hold := k.hold.drop take, outs := noteOut k.outs ⟨r.target, last, m.wd, r.nrb, r.ns⟩, at_ := s.now
                 move := if left = 0 then none else some { m with toWrite := left } })
      if left = 0 then dmaNext s c (k.pc + 8) else s

/-- The next instruction of a channel is fetched, within its budget (R440, R450, R465, R467). -/
def fetchInstr (s : State) (c : Nat) (ecc : Ecc) : State :=
  let k := s.dmaCh c
  if s.nat .dmaCtl c 5 ≤ k.count then dmaBad s c 16
  else if 65536 ≤ k.pc then dmaBad s c 17
  else
    match ecc with
    | .uncorrectable => dmaBad (s.bump .dmaEngine 0 4 1) c 12
    | _ =>
      let s := if ecc = .corrected then s.bump .dmaEngine 0 3 1 else s
      let w := sramWord s k.pc
      (s.modCh c (fun k => { k with count := k.count + 1, skip := false, at_ := s.now })).modDma (fun d =>
        { d with cur := some (c, w) })

/-- DMA_BEAT (R457 to R460, R465): at a beat boundary that the copy port leaves, the engine serves one channel. Channels of a
lower level that lose the boundary in the middle of a MOVE are pre-empted. `host` is what host memory answers to a read. -/
def execDmaBeat (ecc : Ecc) (host : Option Bytes) (s : State) : Host.Outcome State Fault Refusal :=
  if s.dma.cur.isSome ∨ copyBusy s then .next s
  else
    match pickChannel s with
    | none => .next s
    | some c =>
      let l := s.nat .dmaCtl c 2
      let s := (List.range 16).foldl (fun s d =>
        if s.nat .dmaCtl d 2 < l ∧ (s.dmaCh d).move.isSome ∧ canBeat s d then s.bump .dmaStat d 11 1 else s) s
      let s := s.modDma (fun d => { d with served := d.served.set l c })
      match (s.dmaCh c).move with
      | none => .next (fetchInstr s c ecc)
      | some m =>
        match (s.dmaCh c).nextBeat m with
        | some true => .next (if ecc = .uncorrectable then dmaBad s c 12 else writeBeat s c m)
        | _ => .next (readBeat s c m host)

/-- The instruction fetched for this beat, where its opcode is one of `ops`: it is taken, and its channel and word go on. -/
def takeInstr (s : State) (ops : Nat → Bool) (f : State → Nat → Nat → State) : State :=
  match s.dma.cur with
  | some (c, w) => if ops (bits w 63 60) then f (s.modDma (fun d => { d with cur := none })) c w else s
  | none => s

/-- A channel has writes that are not confirmed (R463). -/
def DmaCh.open_ (k : DmaCh) : Bool := !k.outs.isEmpty || k.reqs.any (·.write)

/-- What follows the confirmation that an instruction waits for (R456, R462, R464). -/
def dmaConfirmed (s : State) (c : Nat) (what : DmaFor) : State :=
  let pc := (s.dmaCh c).pc
  match what with
  | .signal => dmaNext (raise s c 1 pc) c (pc + 8)
  | .finish sig =>
    let s := if sig then raise s c 2 pc else s
    (dmaTo (s.modCh c (fun k => { k with wait := none, frames := [], stepping := false })) c 0).setNum .debugCh c 8 0
  | _ => dmaNext s c (pc + 8)

/-- The read-back of the last element written to host memory goes out, unless NRB asks for none (R447, R463). -/
def readBack (s : State) (c : Nat) : State :=
  match (s.dmaCh c).outs.find? (fun o => o.target == 1 && !o.nrb) with
  | some o => hostRead s o.addr o.size o.ns
  | none => s

/-- An instruction that needs its channel's writes confirmed goes on at once, or waits. -/
def dmaConfirm (s : State) (c : Nat) (what : DmaFor) : State :=
  if (s.dmaCh c).open_ then dmaAwait (readBack s c) c what 0 else dmaConfirmed s c what

/-- END (R456). -/
def execDmaEnd (s : State) : Host.Outcome State Fault Refusal :=
  .next (takeInstr s (· == 0) (fun s c w =>
    if bits w 59 1 ≠ 0 then dmaBad s c 2 else dmaConfirm s c (.finish (bit w 0))))

/-- The size in bytes of a width code. -/
abbrev widthOf (code : Nat) : Nat := 2 ^ code

/-- The dictionary and constant targets take width code 0 and no increment (R448, R449). -/
def sideBad (r : DmaReg) (code : Nat) (inc : Bool) : Bool := (r.target == 2 || r.target == 4) && (code != 0 || inc)

/-- The count of a write to the dictionary suits the type (R448). -/
def countSuits (s : State) (addr n : Nat) : Bool :=
  match s.entryAt (addr / 256) (addr % 256) with
  | some (_, _, e) => if e.ty.isBytes then decide (1 ≤ n) && decide (n ≤ 65535) else n == e.ty.size
  | none => true

/-- The object belongs to a channel's own control, status or debug (R448). -/
def ownObject (c idx : Nat) : Bool := decide (0x1A20 ≤ idx) && decide (idx ≤ 0x1A5F) && (idx == 0x1A20 + c || idx == 0x1A40 + c)

/-- MOVE begins (R448, R449, R451, R452): the fields are checked, and a dictionary source is asked for its value. -/
def moveBegin (s : State) (c w : Nat) : State :=
  let k := s.dmaCh c
  let a := bits w 59 57
  let d := bits w 56 54
  let ra := k.reg a
  let rd := k.reg d
  let ws := bits w 53 51
  let wd := bits w 50 48
  let mode := bits w 45 44
  let creg := bit w 43
  let n := if creg then (k.reg (bits w 2 0)).addr % 2 ^ 32 else bits w 31 0
  let dict := ra.target == 2 || rd.target == 2
  let bad := bits w 42 32 != 0 || (creg && bits w 31 3 != 0) || decide (6 ≤ ws) || decide (6 ≤ wd) || mode == 3 || n == 0 ||
    sideBad ra ws (bit w 47) || sideBad rd wd (bit w 46) || (dict && mode != 0) ||
    (mode == 0 && n % max (widthOf ws) (widthOf wd) != 0)
  if bad then dmaBad s c 2
  else if rd.target = 4 then dmaFault s c 5 4 1 rd.addr 0
  else if ra.target = 2 ∧ 2 ^ 24 ≤ ra.addr then dmaFault s c 4 2 3 ra.addr 0
  else if rd.target = 2 ∧ 2 ^ 24 ≤ rd.addr then dmaFault s c 4 2 3 rd.addr 0
  else if rd.target = 2 ∧ countSuits s rd.addr n = false then dmaFault s c 8 2 3 rd.addr 0
  else
    let m : DmaMove := { src := a, dst := d, ws := widthOf ws, wd := widthOf wd, sinc := bit w 47, dinc := bit w 46,
                         mode := mode, toRead := n, toWrite := n, data := none, acc := [] }
    s.modCh c (fun k => { k with
      move := some m
      reqs := if ra.target = 2 then
          k.reqs ++ [{ write := false, idx := ra.addr / 256, sub := ra.addr % 256, data := [], count := n, at_ := s.now }]
        else k.reqs })

/-- MOVE (R451). -/
def execDmaMove (s : State) : Host.Outcome State Fault Refusal := .next (takeInstr s (· == 1) moveBegin)

/-- LOOP (R453). -/
def execDmaLoop (s : State) : Host.Outcome State Fault Refusal :=
  .next (takeInstr s (· == 2) (fun s c w =>
    let k := s.dmaCh c
    let creg := bit w 59
    let n := if creg then (k.reg (bits w 58 56)).addr % 2 ^ 32 else bits w 31 0
    if bits w 55 32 ≠ 0 ∨ (creg = true ∧ bits w 31 0 ≠ 0) ∨ (creg = false ∧ bits w 58 56 ≠ 0) ∨ n = 0 then dmaBad s c 2
    else if 4 ≤ k.frames.length then dmaBad s c 13
    else dmaNext (s.modCh c (fun k => { k with frames := (k.pc + 8, n) :: k.frames })) c (k.pc + 8)))

/-- ENDLOOP (R453). -/
def execDmaEndloop (s : State) : Host.Outcome State Fault Refusal :=
  .next (takeInstr s (· == 3) (fun s c w =>
    let k := s.dmaCh c
    if bits w 59 0 ≠ 0 then dmaBad s c 2
    else
      match k.frames with
      | [] => dmaBad s c 14
      | (a, n) :: fs =>
        if n = 1 then dmaNext (s.modCh c (fun k => { k with frames := fs })) c (k.pc + 8)
        else dmaNext (s.modCh c (fun k => { k with frames := (a, n - 1) :: fs })) c a))

/-- WAIT (R454). -/
def execDmaWait (s : State) : Host.Outcome State Fault Refusal :=
  .next (takeInstr s (· == 4) (fun s c w =>
    let k := s.dmaCh c
    let kind := bits w 59 58
    let fresh := bit w 57
    let src := bits w 6 0
    let limit := usTicks (bits w 47 32)
    if bits w 53 48 ≠ 0 ∨ bits w 31 7 ≠ 0 ∨ 2 ≤ kind then dmaBad s c 2
    else if kind = 0 then
      if bits w 56 54 ≠ 0 ∨ 96 ≤ src then dmaBad s c 2
      else if fresh = false ∧ bit k.mask src = true then
        dmaNext (s.modCh c (fun k => { k with mask := clearBit k.mask src })) c (k.pc + 8)
      else dmaAwait (s.modCh c (fun k => { k with mask := clearBit k.mask src })) c (.event src) limit
    else if fresh = true ∨ src ≠ 0 then dmaBad s c 2
    else
      let t := (k.reg (bits w 56 54)).addr
      if t ≤ s.now then dmaNext s c (k.pc + 8) else dmaAwait s c (.tick t) limit))

/-- WAIT_COMPLETE (R454): the awaited pulse or tick has come. -/
def execWaitComplete (c : Nat) (s : State) : Host.Outcome State Fault Refusal :=
  let k := s.dmaCh c
  if dmaState s c ≠ 2 then .next s
  else
    match k.wait with
    | some ⟨.event src, _, _⟩ =>
      if bit k.mask src then .next (dmaNext (s.modCh c (fun k => { k with mask := clearBit k.mask src })) c (k.pc + 8))
      else .next s
    | some ⟨.tick t, _, _⟩ => if t ≤ s.now then .next (dmaNext s c (k.pc + 8)) else .next s
    | _ => .next s

/-- WAIT_TIMEOUT (R454, R467). -/
def execWaitTimeout (c : Nat) (s : State) : Host.Outcome State Fault Refusal :=
  match (s.dmaCh c).wait with
  | some w =>
    if dmaState s c = 2 ∧ w.limit ≠ 0 ∧ w.since + w.limit ≤ s.now then .next (dmaBad s c 15) else .next s
  | none => .next s

/-- SIGNAL (R462). -/
def execDmaSignal (s : State) : Host.Outcome State Fault Refusal :=
  .next (takeInstr s (· == 5) (fun s c w => if bits w 59 0 ≠ 0 then dmaBad s c 2 else dmaConfirm s c .signal))

/-- FENCE (R462). -/
def execDmaFence (s : State) : Host.Outcome State Fault Refusal :=
  .next (takeInstr s (· == 6) (fun s c w => if bits w 59 0 ≠ 0 then dmaBad s c 2 else dmaConfirm s c .fence))

/-- SETA (R455). -/
def execDmaSeta (s : State) : Host.Outcome State Fault Refusal :=
  .next (takeInstr s (· == 7) (fun s c w =>
    let k := s.dmaCh c
    let t := bits w 56 53
    let load := bit w 52
    if bits w 49 48 ≠ 0 ∨ 5 ≤ t ∨ (t ≠ 1 ∧ (bit w 51 = true ∨ bit w 50 = true)) ∨ (load = true ∧ bits w 47 16 ≠ 0) then
      dmaBad s c 2
    else if t = 1 ∧ Config.hasHostPort s.variant = false then dmaBad s c 3
    else if load = true ∧ bits w 15 0 % 8 ≠ 0 then dmaFault s c 4 3 0 (bits w 15 0) 0
    else
      let a := if load then sramWord s (bits w 15 0) else bits w 47 0
      dmaNext (s.modCh c (fun k => { k with regs := k.regs.set (bits w 59 57) ⟨a, t, bit w 51, bit w 50⟩ })) c (k.pc + 8)))

/-- ADDA (R455). -/
def execDmaAdda (s : State) : Host.Outcome State Fault Refusal :=
  .next (takeInstr s (· == 8) (fun s c w =>
    let k := s.dmaCh c
    let rsrc := bit w 56
    if bits w 52 48 ≠ 0 ∨ (rsrc = true ∧ bits w 47 0 ≠ 0) then dmaBad s c 2
    else
      let x : Int := if rsrc then (k.reg (bits w 55 53)).addr else toSigned 48 (bits w 47 0)
      dmaNext (s.modCh c (fun k => k.advance (bits w 59 57) (wrapU 64 x).toNat)) c (k.pc + 8)))

/-- ILLEGAL_INSTRUCTION (R467): opcodes 0x9 to 0xF. -/
def execIllegalInstruction (s : State) : Host.Outcome State Fault Refusal :=
  .next (takeInstr s (fun op => decide (9 ≤ op)) (fun s c _ => dmaBad s c 1))

/-- WRITE_CONFIRMED (R463, R467): the read-back or the link's acknowledgement comes back; `ok` is false when host memory answers
the read-back with an error. -/
def execWriteConfirmed (c : Nat) (ok : Bool) (s : State) : Host.Outcome State Fault Refusal :=
  let k := s.dmaCh c
  match k.wait.map (·.what) with
  | some what =>
    let confirms := match what with | .event _ => false | .tick _ => false | _ => true
    if dmaState s c ≠ 2 ∨ confirms = false ∨ k.reqs.any (·.write) = true then .next s
    else
      match k.outs.find? (fun o => o.target == 1) with
      | some o =>
        if s.nat .endpoint 0 1 = 0 ∨ (ok = false ∧ o.nrb = false) then .next (dmaFault s c 10 1 2 o.addr 0)
        else .next (dmaConfirmed (s.modCh c (fun k => { k with outs := [] })) c what)
      | none => .next (dmaConfirmed (s.modCh c (fun k => { k with outs := [] })) c what)
  | none => .next s

/-- 8 µs in grid ticks (R466). -/
abbrev accessTicks : Nat := 197

/-- TARGET_TIMEOUT (R466): the access that a channel presents has had no response for 8 µs. -/
def execTargetTimeout (c : Nat) (s : State) : Host.Outcome State Fault Refusal :=
  let k := s.dmaCh c
  if s.now < k.at_ + accessTicks then .next s
  else if dmaState s c = 1 then
    match k.move with
    | some m =>
      match k.nextBeat m with
      | some true => .next (dmaFault s c 6 (k.reg m.dst).target (if (k.reg m.dst).target = 2 then 3 else 1) (k.reg m.dst).addr 0)
      | some false => .next (dmaFault s c 6 (k.reg m.src).target 0 (k.reg m.src).addr 0)
      | none => .next s
    | none => .next s
  else if dmaState s c = 2 then
    match k.outs with
    | o :: _ => .next (dmaFault s c 6 o.target 2 o.addr 0)
    | [] => .next s
  else .next s

/-- DICTIONARY_ANSWER_TIMEOUT (R466): an answer has not come within the channel's timeout. -/
def execDictionaryAnswerTimeout (c : Nat) (s : State) : Host.Outcome State Fault Refusal :=
  match (s.dmaCh c).reqs with
  | r :: _ =>
    if (dmaState s c = 1 ∨ dmaState s c = 2) ∧ r.at_ + msTicks (s.nat .dmaCtl c 7) ≤ s.now then
      .next (dmaFault s c 9 2 3 (r.idx * 256 + r.sub) 0)
    else .next s
  | [] => .next s

/-- BREAKPOINT_HIT (R621, R625): a channel in RUN reaches a breakpoint. -/
def execBreakpointHit (c : Nat) (s : State) : Host.Outcome State Fault Refusal :=
  match atBreak s c with
  | some b =>
    if c < 16 ∧ dmaState s c = 1 ∧ (s.dma.cur.map (·.1)) ≠ some c then
      .next (raise ((dmaTo (s.modCh c (fun k => { k with stepping := false })) c 4).bump .debugCh c 7 1) 84 1 (c * 256 + b))
    else .next s
  | none => .next s

/-- A lost DMA data item (R423, R467 cause 11): the channel that wrote the target last faults. -/
def dmaItemLost (s : State) (q : Nat) : State :=
  let t := q - 193
  match (List.range 16).find? (fun c => (s.dmaCh c).outs.any (fun o => o.target == t)) with
  | some c =>
    match (s.dmaCh c).outs.find? (fun o => o.target == t) with
    | some o => dmaFault s c 11 t 1 o.addr 0
    | none => s
  | none => s

end Sys2Proof.Machine
end

