-- ==== Sys2Proof/Machine/Legacy.lean ====
section
/-! DEFINITION. The legacy outputs (R577 to R584 of spec/18_host_port_and_legacy_outputs.md). -/

namespace Sys2Proof.Machine

open Sys2Proof

/-- An output that is off. -/
def LgoSt.init : LgoSt :=
  { mode := 0, period := 24576, acc := 0, inc := 0, duty := 0, nextDuty := 0, dutyFrom := 0, fault := false, lastTaken := 0,
    request := none, asked := false, stale := false, held := false, release := false, looked := none, usedRec := none,
    idleHigh := false, staleMs := 0, holdMs := 0 }

/-- Output i. -/
def State.lgoOut (s : State) (i : Nat) : LgoSt := Sparse.get s.lgo.outs i LgoSt.init

/-- Output i changed. -/
def State.modLgo (s : State) (i : Nat) (f : LgoSt → LgoSt) : State :=
  { s with lgo := { s.lgo with outs := Sparse.store s.lgo.outs i (f (s.lgoOut i)) LgoSt.init } }

/-- The legacy rules on the configuration (R577), for a write to record 7 of a channel. -/
def legacyCheck (cfg : State) (ch sub : Nat) : Option Code :=
  let out := cfg.nat .chLegacy ch 1
  let src := cfg.nat .chLegacy ch 2
  let w := cfg.nat .chLegacy ch 3
  if sub = 1 then
    if 15 < out ∧ out ≠ 255 then some .outOfRange
    else if out ≤ 15 ∧ cfg.allChans.any (fun n => n != ch && cfg.nat .chLegacy n 1 == out) then some .inUse
    else none
  else if sub = 2 ∨ sub = 3 then
    if 2 < src ∨ 31 < w then some .outOfRange
    else if src ≠ 0 ∧ (cfg.nat .window w 1 = 0 ∨ !(winMembers cfg w).contains ch) then some .outOfRange
    else none
  else if sub = 4 ∨ sub = 5 then (if cfg.num .chLegacy ch 4 = cfg.num .chLegacy ch 5 then some .outOfRange else none)
  else none

/-- The rules on an output object (R578) that its table states in words. -/
def lgoCheck (cfg : State) (i sub : Nat) : Option Code :=
  let p := cfg.nat .lgo i 5
  if sub = 5 ∧ (p < 24576 ∨ 24576000 % p ≠ 0) then some .outOfRange else none

/-- The channel that names an output. -/
def lgoChan (s : State) (i : Nat) : Option Nat := s.allChans.find? (fun n => s.nat .chLegacy n 1 == i)

/-- The member blocks of a window record. `fuel` bounds them. -/
def recordBlocks : Nat → Bytes → List Bytes
  | 0, _ => []
  | n + 1, bs =>
    let len := 160 + 20 * leAt bs 2 1
    if bs.length < len then [] else bs.take len :: recordBlocks n (bs.drop len)

/-- The output period, in grid ticks, of the samples of a channel round tick w: that of the first sample emitted after it, or else of
the chain as it stands at w (R579, R190). -/
def lgoPeriod (s : State) (ch w : Nat) : Nat :=
  match ((Sparse.get s.lgo.samps ch []).filter (fun x => decide (w < x.g))).getLast? with
  | some x => x.p
  | none => 4 * (decW ((s.chan ch).dwAt w)).D

/-- The newest record of a channel's window formed before u and not used before, where a legacy output may take it: the value and
its formation tick (R579, sources 1 and 2). -/
def lgoRecordValue (s : State) (st : LgoSt) (ch u : Nat) : Option (Int × Nat) :=
  match (Sparse.get s.lgo.recs (s.nat .chLegacy ch 3) []).find? (fun r => decide (r.1 < u)) with
  | some (t, b) =>
    let blocks := b.drop 64
    let empty := fun (k : Bytes) => bit (leAt k 3 1) 0
    if st.usedRec = some (t, s.nat .chLegacy ch 3) ∨ leAt b 12 2 % 16 ≠ 0 then none
    else if s.nat .chLegacy ch 2 = 1 then
      match findBlock ch 384 blocks with
      | some k => if empty k then none else some (fieldI k 116 4, t)
      | none => none
    else
      let ks := recordBlocks 384 blocks
      if ks.any empty then none else some ((ks.map (fun k => fieldI k 116 4)).foldl (· + ·) 0, t)
  | none => none

/-- What an update tick finds to take (R579): a value with the record it comes from, nothing, or a sample that is late. -/
inductive LgoFound
  | value (v : Int) (record : Option Nat)
  | nothing
  | late
  deriving DecidableEq, Repr

/-- The new value at update tick u (R579). -/
def lgoFind (s : State) (st : LgoSt) (ch u : Nat) : LgoFound :=
  if s.nat .chLegacy ch 2 = 0 then
    let lag := s.nat .chLegacy ch 7
    let p := lgoPeriod s ch (u - lag)
    if u < lag ∨ p = 0 then .nothing
    else
      let g := (u - lag) / p * p
      match (Sparse.get s.lgo.samps ch []).find? (fun x => x.g == g && decide (x.at_ ≤ u)) with
      | some x => if x.at_ < u ∧ (x.word % 256) &&& s.nat .chLegacy ch 6 = 0 then .value (toSigned 24 (x.word / 256)) none else .nothing
      | none => .late
  else
    match lgoRecordValue s st ch u with
    | some (v, t) => .value v (some t)
    | none => .nothing

/-- The fraction of the scale that a value stands for, as numerator and positive denominator, limited to 0 to 1 (R580). -/
def lgoScale (v v0 v1 : Int) : Int × Nat :=
  let q := v1 - v0
  let p := if 0 ≤ q then v - v0 else v0 - v
  let d := q.natAbs
  (clampI 0 d p, d)

/-- The frequency in mHz (R580). -/
def lgoMilliHz (s : State) (i : Nat) (x : Int × Nat) : Int :=
  let f0 := s.num .lgo i 2
  let f1 := s.num .lgo i 3
  roundHalfAway (1000 * f0 * (x.2 : Int) + x.1 * 1000 * (f1 - f0)) x.2

/-- The increment of a frequency in mHz (R580). -/
def lgoIncrement (mhz : Int) : Nat := (roundHalfAway (mhz * 131072) 750000).toNat

/-- The frequency that an increment gives, in mHz (R580). -/
def lgoReported (inc : Nat) : Nat := (roundHalfAway ((inc : Int) * 750000) 131072).toNat

/-- The output runs with a setting from update tick u: an increment in frequency mode, a duty in PWM mode (R580). -/
def lgoApply (s : State) (i u setting : Nat) : State :=
  if (s.lgoOut i).mode = 1 then
    (s.modLgo i (fun k => { k with inc := setting, acc := if setting = 0 then 0 else k.acc })).setNum .lgo i 12
      (lgoReported setting)
  else
    (s.modLgo i (fun k => { k with duty := if k.dutyFrom ≤ u then k.nextDuty else k.duty, nextDuty := setting,
                                   dutyFrom := ceilTo 24576 u })).setNum .lgo i 12 setting

/-- Output i, driven by channel ch, takes value v at update tick u (R579, R580). -/
def lgoTake (s : State) (i ch u : Nat) (v : Int) (record : Option Nat) : State :=
  let x := lgoScale v (s.num .chLegacy ch 4) (s.num .chLegacy ch 5)
  let setting := if (s.lgoOut i).mode = 1 then lgoIncrement (lgoMilliHz s i x) else (roundHalfAway (x.1 * 24576) x.2).toNat
  let s := (lgoApply s i u setting).setNum .chLegacy ch 9 v
  s.modLgo i (fun k => { k with lastTaken := u, stale := false, usedRec := (record.map (fun t => (t, s.nat .chLegacy ch 3))).or k.usedRec })

/-- The output enters fault at update tick u (R581, R582). -/
def lgoFaultIn (s : State) (i u : Nat) : State :=
  raiseAt ((s.modLgo i (fun k => { k with fault := true, held := false })).bump .lgo i 13 1) 80 1 i u

/-- The waveform in fault at update tick u: with behaviour 1 the fault value, else what is in use (R581). -/
def lgoFaultWave (s : State) (i u : Nat) : State :=
  if s.nat .lgo i 6 = 1 ∧ (s.lgoOut i).mode ≠ 0 then
    lgoApply s i u (if (s.lgoOut i).mode = 1 then lgoIncrement (1000 * s.num .lgo i 7)
      else (roundHalfAway (s.num .lgo i 8 * 24576) 10000).toNat)
  else s

/-- The output takes the settings that do not act at an update tick alone, at update tick u (R578, R579, R580): a mode that is entered
starts with a clear accumulator and idle. -/
def lgoSettings (s : State) (i u : Nat) : State :=
  let m := s.nat .lgo i 1
  let stale := match lgoChan s i with | some ch => s.nat .chLegacy ch 8 | none => 0
  let s := s.modLgo i (fun k => { k with idleHigh := s.nat .lgo i 4 == 1, staleMs := stale, holdMs := s.nat .lgo i 9 })
  let s := s.modLgo i (fun k =>
    if k.mode = m then { k with period := s.nat .lgo i 5, looked := some u }
    else { k with mode := m, period := s.nat .lgo i 5, looked := some u, acc := 0, inc := 0, duty := 0, nextDuty := 0,
                  lastTaken := u, stale := false, usedRec := none })
  if m = 0 then s.setNum .lgo i 12 0 else s

/-- The state that object 0x1B40 + i:0B shows. -/
def lgoShow (s : State) (i : Nat) : State :=
  let k := s.lgoOut i
  s.setNum .lgo i 11 (if k.fault then 2 else if k.mode = 0 then 0 else 1)

/-- LGO_UPDATE_TICK (R579 to R583): at the first multiple of the update period not looked at, the output takes its settings, enters
or leaves the fault state, and takes a new value. -/
def execLgoUpdateTick (i : Nat) (s : State) : Host.Outcome State Fault Refusal :=
  let u := s.now / (s.lgoOut i).period * (s.lgoOut i).period
  if 16 ≤ i ∨ s.nat .startup 0 3 ≠ 6 ∨ (s.lgoOut i).looked = some u then .next s
  else
    let s := lgoSettings s i u
    let k := s.lgoOut i
    let found := match lgoChan s i with
      | some ch => lgoFind s k ch u
      | none => .nothing
    let fresh := match found with | .value _ _ => true | _ => false
    let stale := k.stale && !(k.fault && fresh)
    let leave := k.fault && (k.release || (k.held && !stale && !k.asked))
    let due := k.asked && decide (k.request.getD 0 ≤ u)
    let enter := !k.fault && k.mode != 0 && (due || k.stale)
    let s := s.modLgo i (fun k => { k with asked := k.asked && !due, release := false, stale := stale && !leave && !k.release })
    let s := if leave then raiseAt (s.modLgo i (fun k => { k with fault := false, held := false })) 80 2 i u else s
    let s := if enter then lgoFaultIn s i u else s
    let s := if (s.lgoOut i).fault then lgoFaultWave s i u else if k.mode = 0 then s
      else
        match found, lgoChan s i with
        | .value v r, some ch => lgoTake s i ch u v r
        | .late, _ => raiseAt (s.bump .lgo i 14 1) 80 3 i u
        | _, _ => s
    .next (lgoShow s i)

/-- LGO_STALE_EXPIRY (R581): no new value has been taken for the stale limit. -/
def execLgoStaleExpiry (i : Nat) (s : State) : Host.Outcome State Fault Refusal :=
  let k := s.lgoOut i
  if i < 16 ∧ k.mode ≠ 0 ∧ k.staleMs ≠ 0 ∧ k.lastTaken + msTicks k.staleMs ≤ s.now then
    .next (s.modLgo i (fun k => { k with stale := true }))
  else .next s

/-- LGO_FAULT_HOLD_EXPIRY (R581): the fault hold has passed since the last request. -/
def execLgoFaultHoldExpiry (i : Nat) (s : State) : Host.Outcome State Fault Refusal :=
  let k := s.lgoOut i
  if i < 16 ∧ k.fault = true ∧ k.holdMs ≠ 0 ∧ k.request.getD 0 + msTicks k.holdMs ≤ s.now then
    .next (s.modLgo i (fun k => { k with held := true }))
  else .next s

/-- Occurrences routed with LGO request the fault state of the outputs in a mask, at their receive tick (R543, R581). -/
def lgoRequest (s : State) (mask tick : Nat) : State :=
  ((List.range 16).filter (bit mask ·)).foldl (fun s i =>
    s.modLgo i (fun k => { k with asked := true, request := some tick, held := false })) s

/-- The outputs take their restored polarity at the end of the restore step (R583). -/
def lgoRestored (s : State) : State :=
  (List.range 16).foldl (fun s i => s.modLgo i (fun k => { k with idleHigh := s.nat .lgo i 4 == 1 })) s

/-- The release command (R578, R581). -/
def lgoRelease (s : State) (i : Nat) : State := s.modLgo i (fun k => { k with release := true })

/-- One grid tick of the outputs in frequency mode (R580). -/
def lgoTick (s : State) : State :=
  { s with lgo := { s.lgo with outs := s.lgo.outs.map (fun p =>
      if p.2.inc = 0 then p else (p.1, { p.2 with acc := (p.2.acc + p.2.inc) % 2 ^ 32 })) } }

/-- The waveform of an output is active now (R580). -/
def lgoActive (s : State) (i : Nat) : Bool :=
  let k := s.lgoOut i
  match k.mode with
  | 1 => k.inc != 0 && bit k.acc 31
  | 2 => decide (s.now % 24576 < (if k.dutyFrom ≤ s.now / 24576 * 24576 then k.nextDuty else k.duty))
  | _ => false

/-- The level of ball LGOi (R583, R636). -/
def lgoLevel (s : State) (i : Nat) : Bool :=
  let ph := s.nat .startup 0 3
  if ph < 3 then false
  else
    let idle := (s.lgoOut i).idleHigh
    if ph = 6 ∧ lgoActive s i = true then !idle else idle

end Sys2Proof.Machine
end

