-- ==== Sys2Proof/Machine/Power.lean ====
section
/-! DEFINITION. Power, resets, firmware images and the start of the streams (spec/19_power_reset_startup.md), and the levels of
the balls (R636, R637 of spec/21_balls_and_electrical.md). The restore step is in Machine/Store.lean. -/

namespace Sys2Proof.Machine

open Sys2Proof

/-- The power record changed. -/
def State.modPower (s : State) (f : PowerSt → PowerSt) : State := { s with power := f s.power }

/-- The flash changed. -/
def State.modFlash (s : State) (f : FlashSt → FlashSt) : State := { s with flash := f s.flash }

/-- The start-up phase (R597). -/
def phase (s : State) : Nat := s.nat .startup 0 3

/-- Image i of the flash. -/
def State.image (s : State) (i : Nat) : Image := s.flash.images.getD i ⟨0, 0, []⟩

/-- Image i replaced. -/
def State.putImage (s : State) (i : Nat) (x : Image) : State := s.modFlash (fun f => { f with images := f.images.set i x })

/-- Objects 0x1C31 and 0x1C30 show the flash's records (R605, R606). -/
def showFlash (s : State) : State :=
  let s := (s.setNum .images 0 2 s.flash.preferred).setNum .images 0 3 (s.image 0).state
  let s := (s.setNum .images 0 4 (s.image 1).state).setNum .images 0 5 (s.image 0).version
  let s := (s.setNum .images 0 6 (s.image 1).version).setNum .startup 0 2 s.flash.boots
  s.setNum .startup 0 11 s.flash.watchdogs

/-- Bytes listed from an offset on. -/
def putBytes (m : List Host.Cell) (a : Nat) (b : Bytes) : List Host.Cell :=
  b.zipIdx.foldl (fun m x => Sparse.put m (a + x.2) x.1) m

/-- The image that runs, or that a boot in progress would choose (R594). -/
def bootImage (s : State) : Nat :=
  if 2 ≤ phase s then s.nat .images 0 1 else if (s.image s.flash.preferred).state ≠ 0 then s.flash.preferred
  else 1 - s.flash.preferred

/-- The slot of the retained store in which a generation stands, of eight (R516). -/
def slotOf (g : Nat) : Nat := g % 2 * 4 + g / 2 % 4

/-- What a reset leaves of a store in progress: a slot without a commit mark (R586, R516). -/
def cutStore (s : State) : FlashSt :=
  match s.store.run with
  | some r =>
    match r.taken with
    | some (_, x) => { s.flash with slots := s.flash.slots.set (slotOf r.gen) (some { x with valid := false }) }
    | none => s.flash
  | none => s.flash

/-- A trial image that runs when a watchdog or trial reset occurs is rejected (R595). -/
def rejectTrial (s : State) (cause : Nat) : State :=
  let i := bootImage s
  if (cause = 3 ∨ cause = 6) ∧ 1 ≤ phase s ∧ (s.image i).state = 1 then
    ((s.putImage i ⟨0, 0, []⟩).modFlash (fun f => { f with preferred := 1 - i })).modPower (fun p => { p with rejected := some i })
  else s

/-- A hub reset (R590, R591): every island is cleared and only the flash keeps its contents; the TAP keeps its instruction
(R609, R619). It is held while RESET_N is low. -/
def hubReset (s : State) (cause : Nat) : State :=
  let s := rejectTrial s cause
  let fl := cutStore s
  let r := State.reset
  let r := { r with
    pending := s.pending, variant := s.variant, fac := s.fac, free := s.free
    flash := if cause = 3 then { fl with watchdogs := (fl.watchdogs + 1) % 2 ^ 32 } else fl
    power := { r.power with held := cause == 2 || s.power.held, rejected := s.power.rejected }
    dbg := if cause = 1 then r.dbg
      else { r.dbg with
        ir := s.dbg.ir, dr := s.dbg.dr, control := s.dbg.control, chain := s.dbg.chain } }
  (showFlash (r.setNum .startup 0 1 cause)).setNum .supply 0 11 (if cause = 1 then 0 else s.nat .supply 0 11 : Nat)

/-- Reset is released (R24, R25, R587, R597, R631): the boot phase begins and the straps are sampled. -/
def releaseReset (s : State) (straps : Nat) : State :=
  let code := straps % 4
  let mgr := code == 2
  let s := s.modPower (fun p => { p with inReset := false, held := false, released := s.now })
  let s := (s.setNum .role 0 1 code).setNum .role 0 2 (b2n (mgr && Config.hasManager s.variant) : Nat)
  let s := s.setNum .role 0 3 (b2n (mgr && !Config.hasManager s.variant) : Nat)
  (s.setNum .startup 0 3 1).setNum .supply 0 11 (s.nat .supply 0 11 / 32 * 32 + 31 : Nat)

/-- POWER_ON (R586, R590): VIN rises through 35 V. -/
def execPowerOn (s : State) : Host.Outcome State Fault Refusal :=
  if s.power.powered then .next s
  else .next ((hubReset s 1).modPower (fun p => { p with vin10 := true, powered := true }))

/-- UNDERVOLTAGE_LOCKOUT (R586): VIN falls through 33 V: the drivers and bias sources go off, reset is asserted and the rails go
down. -/
def execUndervoltageLockout (s : State) : Host.Outcome State Fault Refusal :=
  if s.power.powered then .next ((hubReset s 1).modPower (fun p => { p with powered := false })) else .next s

/-- RESET_RELEASE (R587, R24): rails 1 to 5 are good and reset is released. -/
def execResetRelease (straps : Nat) (s : State) : Host.Outcome State Fault Refusal :=
  if s.power.powered = true ∧ s.power.inReset = true ∧ s.power.held = false then .next (releaseReset s straps) else .next s

/-- RESET_BALL (R590): RESET_N has been low for 1 µs. -/
def execResetBall (s : State) : Host.Outcome State Fault Refusal :=
  if s.power.powered then .next (hubReset s 2) else .next s

/-- RESET_N_RELEASE (R590, R613, R587): RESET_N returns high: boundary scan loses the balls, and the hub starts if rails 1 to 5 are
good; if they are not, RESET_RELEASE follows when they are. -/
def execResetNRelease (straps : Nat) (s : State) : Host.Outcome State Fault Refusal :=
  if s.power.held then
    let s := ({ s with dbg := { s.dbg with control := false } }.setNum .debug 0 2 0).modPower (fun p => { p with held := false })
    .next (if s.power.powered = true ∧ s.nat .supply 0 11 % 32 = 31 then releaseReset s straps else s)
  else .next s

/-- WATCHDOG_EXPIRY (R593): the 2 s watchdog, which runs from reset release, expires. -/
def execWatchdogExpiry (s : State) : Host.Outcome State Fault Refusal :=
  if s.power.inReset = false ∧ s.power.released + (msTicks 2000 : Nat) ≤ (s.now : Int) then .next (hubReset s 3) else .next s

/-- TRIAL_TIMEOUT (R595): a trial image has not ended the restore step 60 s after reset release. -/
def execTrialTimeout (s : State) : Host.Outcome State Fault Refusal :=
  if (phase s = 1 ∨ phase s = 2) ∧ (s.image (bootImage s)).state = 1 ∧
      s.power.released + (msTicks 60000 : Nat) ≤ (s.now : Int) then .next (hubReset s 6)
  else .next s

/-- BOOT_END (R594, R597): the images are tried in order; `okA` and `okB` say whether their length and CRC-32C check. -/
def execBootEnd (okA okB : Bool) (s : State) : Host.Outcome State Fault Refusal :=
  if phase s = 1 ∧ s.power.inReset = false ∧ s.power.bootOk = true then
    let ok := fun (i : Nat) => (s.image i).state != 0 && (if i = 0 then okA else okB)
    let first := bootImage s
    let drop := fun (s : State) (i : Nat) => if (s.image i).state ≠ 0 then s.putImage i ⟨0, 0, []⟩ else s
    let run := fun (s : State) (i : Nat) =>
      let s := (s.setNum .images 0 1 i).setNum .identity 0 10 i
      let s := (s.setNum .identity 0 9 (s.image i).version).setNum .startup 0 4 (sinceRelease s)
      showFlash (s.setNum .startup 0 3 2)
    if ok first then .next (run s first)
    else if ok (1 - first) then
      .next ((run (drop s first) (1 - first)).modPower (fun p => { p with fellBack := decide ((s.image first).state ≠ 0) }))
    else .next (showFlash ((drop (drop s first) (1 - first)).modPower (fun p => { p with bootOk := false })))
  else .next s

/-- A restart that waits takes place once no store or image write is in progress (R605). -/
def idleReset (s : State) : State :=
  if s.power.resetWait = true ∧ s.store.run.isNone = true ∧ (s.nat .images 0 10 = 0 ∨ s.nat .images 0 10 = 4) then hubReset s 4
  else s

/-- The restart command (R605). -/
def restartCmd (s : State) (v : Nat) : State × Code :=
  match v with
  | 1 => (hubReset s 4, .success)
  | 2 => (idleReset (s.modPower (fun p => { p with resetWait := true })), .success)
  | _ => (s, .outOfRange)

/-- The image that an update writes: the one that does not run (R596). -/
def updateTarget (s : State) : Nat := 1 - s.nat .images 0 1

/-- The update state of object 0x1C31:0A. -/
def updateState (s : State) : Nat := s.nat .images 0 10

/-- The image command (R596, R606). -/
def imageCmd (s : State) (v : Nat) : State × Code :=
  let st := updateState s
  match v with
  | 1 => if (s.image 0).state = 0 ∨ st ≠ 0 then (s, .inUse) else (showFlash (s.modFlash (fun f => { f with preferred := 0 })), .success)
  | 2 => if (s.image 1).state = 0 ∨ st ≠ 0 then (s, .inUse) else (showFlash (s.modFlash (fun f => { f with preferred := 1 })), .success)
  | 3 =>
    if st = 0 ∨ st = 4 then (showFlash ((s.putImage (updateTarget s) ⟨0, 0, []⟩).setNum .images 0 10 1), .success) else (s, .inUse)
  | 4 => if st = 2 then (s.setNum .images 0 10 3, .success) else (s, .inUse)
  | 5 =>
    if st = 1 ∨ st = 2 ∨ st = 3 then
      (idleReset (showFlash ((s.putImage (updateTarget s) ⟨0, 0, []⟩).setNum .images 0 10 0)), .success)
    else (s, .inUse)
  | _ => (s, .outOfRange)

/-- A segment of an update (R596). -/
def segmentWrite (s : State) (b : Bytes) : State × Code :=
  let off := s.nat .images 0 8
  if updateState s ≠ 2 then (s, .inUse)
  else if b.length < 1 ∨ 32768 < b.length ∨ 20971520 < off + b.length then (s, .outOfRange)
  else
    let i := updateTarget s
    let x := s.image i
    ((s.putImage i { x with data := putBytes x.data off b }).setNum .images 0 8 (off + b.length : Nat), .success)

/-- UPDATE_ERASE_COMPLETE (R596). -/
def execUpdateEraseComplete (s : State) : Host.Outcome State Fault Refusal :=
  if updateState s = 1 then .next ((s.setNum .images 0 10 2).setNum .images 0 8 0) else .next s

/-- UPDATE_VERIFY_COMPLETE (R596): the check of the image's header and CRC-32C ends; `version` is the one in its header. -/
def execUpdateVerifyComplete (ok : Bool) (version : Nat) (s : State) : Host.Outcome State Fault Refusal :=
  if updateState s = 3 then
    let i := updateTarget s
    let x := s.image i
    .next (idleReset (showFlash (if ok then
        ((s.putImage i { x with state := 1, version := version % 2 ^ 32 }).modFlash (fun f => { f with preferred := i })).setNum
          .images 0 10 0
      else (s.putImage i ⟨0, 0, []⟩).setNum .images 0 10 4)))
  else .next s

/-- The grid's condition for the streams (R599) in a grid state. -/
def gridServes (s : State) (g : Nat) : Bool := if s.nat .startup 0 9 = 1 then g == 2 else g != 0

/-- The grid's condition has held for 24,576 ticks. -/
def gridHeld (s : State) : Bool :=
  let h := s.clk.stHist
  gridServes s (s.nat .grid 0 2) &&
    (h.takeWhile (fun p => decide (s.now < p.1 + 24576))).all (fun p => gridServes s p.2) &&
    (match h.find? (fun p => decide (p.1 + 24576 ≤ s.now)) with | some p => gridServes s p.2 | none => false)

/-- The present tick is the stream start tick (R599). -/
def streamStartTick (s : State) : Bool :=
  phase s == 5 && s.now % 24576000 == 0 && calState s == 0 && !s.cust.tests.any (fun t => decide (t.2.1 = .startUp)) &&
    s.nat .grid 0 12 != 0 && decide (s.nat .grid 0 9 < s.now) && decide (s.power.metAt + 24576 ≤ s.now) && gridHeld s

/-- STREAM_START (R599, R600): streams, windows, takes, time-pulse outputs, event-mode channels and legacy outputs begin
together. -/
def execStreamStart (s : State) : Host.Outcome State Fault Refusal :=
  if streamStartTick s then
    let s := (s.setNum .startup 0 3 6).setNum .startup 0 8 s.now
    let s := raise s 83 1 (s.nat .startup 0 2)
    let s := takesStart (winsStart (streamsBegin s s.now) s.now) s.now
    let s := (List.range 8).foldl (fun s p => if (s.tpo p).next = none ∧ s.nat .tpo p 1 ≠ 0 then tpoArm s p else s) s
    let s := (List.range 16).foldl (fun s i => s.modLgo i (fun k => { k with lastTaken := s.now })) s
    .next (if s.isManager then (List.range 64).foldl (fun s x => if s.nat .crossHub x 1 = 1 then crossBegin s x s.now else s) s else s)
  else .next s

/-- POWER_MONITOR_SAMPLE (R588, R602): VIN and the excitation rail in mV, the input current in mA, the excitation rail's input in mW
and the mask of good rails. -/
def execPowerMonitorSample (vin current excMv excMw rails : Nat) (s : State) : Host.Outcome State Fault Refusal :=
  if s.power.powered = false ∨ s.power.inReset = true then .next s
  else
    let first := !s.power.vinSeen
    let s := ((s.setNum .supply 0 1 vin).setNum .supply 0 2 current).setNum .supply 0 3 (vin * current / 1000 : Nat)
    let s := s.setNum .supply 0 4 (if first then vin else min vin (s.nat .supply 0 4) : Nat)
    let s := s.setNum .supply 0 5 (if first then vin else max vin (s.nat .supply 0 5) : Nat)
    let s := (s.setNum .supply 0 9 excMv).setNum .supply 0 10 excMw
    let old := s.nat .supply 0 11
    let s := (s.setNum .supply 0 11 (rails % 64 : Nat)).modPower (fun p => { p with vinSeen := true })
    let s := (List.range 6).foldl (fun s b =>
      if bit old b && !bit rails b then raise (s.bump .supply 0 12 1) 81 4 b
      else if !bit old b && bit rails b && !(b == 5 && first) then raise s 81 5 b else s) s
    let lo := s.nat .supply 0 6
    let hi := s.nat .supply 0 7
    let hy := s.nat .supply 0 8
    let s' := fun (w cause : Nat) => raise (s.modPower (fun p => { p with warn := w })) 81 cause vin
    .next (if vin < lo ∧ s.power.warn ≠ 1 then s' 1 1
      else if hi < vin ∧ s.power.warn ≠ 2 then s' 2 2
      else if s.power.warn ≠ 0 ∧ lo + hy ≤ vin ∧ vin + hy ≤ hi then s' 0 3
      else s)

/-- TEMPERATURE_SAMPLE (R603): the five die temperatures in 1/128 °C. -/
def execTemperatureSample (readings : List Int) (s : State) : Host.Outcome State Fault Refusal :=
  if s.power.powered = false ∨ s.power.inReset = true then .next s
  else
    let first := !s.power.tempSeen
    let s := s.modPower (fun p => { p with tempSeen := true })
    .next ((List.range 5).foldl (fun s i =>
      if i = 2 ∧ s.variant ≠ .nxh384 then (s.setNum .temps 0 3 (-32768)).setNum .temps 0 8 (-32768)
      else
        let t := wrapS 16 (readings.getD i 0)
        let s := (s.setNum .temps 0 (i + 1) t).setNum .temps 0 (i + 6) (if first then t else max t (s.num .temps 0 (i + 6)))
        let st := s.nat .temps 0 13
        let w := s.num .temps 0 11
        let s :=
          if w < t ∧ bit st i = false then raise ((s.setNum .temps 0 13 (setBit st i : Nat)).bump .temps 0 14 1) 82 1 i
          else if t < w - s.num .temps 0 12 ∧ bit st i = true then raise (s.setNum .temps 0 13 (clearBit st i : Nat)) 82 2 i
          else s
        let st := s.nat .temps 0 13
        if 14080 < t ∧ bit st (i + 8) = false then raise (s.setNum .temps 0 13 (setBit st (i + 8) : Nat)) 82 3 i
        else if t ≤ 14080 then s.setNum .temps 0 13 (clearBit st (i + 8) : Nat)
        else s) s)

/-- VIN_RISES_THROUGH_10_V (R636). -/
def execVinRisesThrough10V (s : State) : Host.Outcome State Fault Refusal :=
  .next (s.modPower (fun p => { p with vin10 := true }))

/-- VIN_FALLS_BELOW_10_V (R636). -/
def execVinFallsBelow10V (s : State) : Host.Outcome State Fault Refusal :=
  if s.power.powered then .next s else .next (s.modPower (fun p => { p with vin10 := false }))

/-- FAULT_N is asserted (R545, R560, R594, R636, R637). -/
def faultN (s : State) : Bool :=
  s.power.vin10 && (decide (phase s < 3) || !s.ev.latches.isEmpty || s.ev.sticky)

/-- The level of ball TPOp (R217, R636). -/
def tpoBall (s : State) (p : Nat) : Bool := decide (3 ≤ phase s) && tpoLevel s p

/-- The level of ball PC_SFP_TXDIS (R476, R636). -/
def txDisable (s : State) : Bool := !(decide (3 ≤ phase s) && s.isManager && s.nat .link 2 1 == 1)

end Sys2Proof.Machine
end

