-- ==== Sys2Proof/Machine/Live.lean ====
section
/-! DEFINITION. What a read of the dictionary answers (R507, R510, R512, R529 to R531, R438 of spec/): values computed at the
read, the view of a session that has staged a value, and the description of an entry. -/

namespace Sys2Proof.Machine

open Sys2Proof

/-- Every unit that exists on this hub, family by family (R506). -/
def State.units (s : State) : List (Obj × Nat) :=
  Obj.all.flatMap (fun o => ((List.range (o.count * o.inner)).filter (s.has o)).map (fun u => (o, u)))

/-- The rows of an entry's object that exist, with how many subindices each covers. -/
def rowsOf (o : Obj) (u : Nat) : List (Entry × Nat) :=
  o.entries.filterMap (fun e => if e.lo ≤ o.top u then some (e, min e.hi (o.top u) + 1 - e.lo) else none)

/-- The retained entries of this hub (R514). -/
def State.retained (s : State) : List (Obj × Nat × Nat) :=
  s.units.flatMap (fun (o, u) => (rowsOf o u).flatMap (fun (e, n) =>
    if e.ret then (List.range n).map (fun i => (o, u, e.lo + i)) else []))

/-- Object 0x1031 (R531): indices, entries with subindex 0x00, and retained entries. -/
def dictCounts (s : State) : Nat × Nat × Nat :=
  s.units.foldl (fun c (o, u) =>
    (c.1 + 1, c.2.1 + o.top u + 1,
      c.2.2 + (rowsOf o u).foldl (fun a (e, n) => if e.ret then a + n else a) 0)) (0, 0, 0)

/-- The snapshot of the retained values that a store would write now (R516, R517): for an entry that the next start-up applies, the
value as written. -/
def takeSnap (s : State) (gen : Nat) : Snap :=
  let rs := s.retained
  { gen := gen, valid := true,
    nums := s.regs.filter (fun p => rs.any (fun r => entryKey r.1 r.2.1 r.2.2 == p.1)),
    strs := s.blobs.filter (fun p => rs.any (fun r => entryKey r.1 r.2.1 r.2.2 == p.1)) }

/-- The valid snapshots in the eight slots. -/
def validSnaps (s : State) : List Snap := s.flash.slots.filterMap (fun x => match x with
  | some x => if x.valid then some x else none
  | none => none)

/-- The newest valid snapshot (R520). -/
def newestSnap (s : State) : Option Snap :=
  (validSnaps s).foldl (fun b x => match b with
    | some y => if y.gen < x.gen then some x else b
    | none => some x) none

/-- The flash is writing a firmware image (R596, R517). -/
def imageWriting (s : State) : Bool := let st := updateState s; st == 1 || st == 2 || st == 3

/-- The store state of object 0x1100:05: storing, waiting for the flash or for autosave's conditions, or idle. -/
def storeState (s : State) : Nat :=
  match s.store.run with
  | some r => if r.taken.isNone && imageWriting s then 1 else 2
  | none => b2n (s.nat .store 0 2 == 1 && decide (0 < s.nat .store 0 15))

/-- The channels of a hub that are HALTED, as a mask (R620). -/
def haltedMask (s : State) : Nat := (List.range 16).foldl (fun m c => if dmaState s c = 4 then setBit m c else m) 0

/-- The portState that the ordinary clock shows on a port (R202; the codes are those of IEEE 1588). -/
def portState (s : State) (p : Nat) : Nat :=
  if s.nat .ptpPort p 1 = 0 then 0
  else if s.isManager ∧ s.nat .clock 0 3 = 1 ∧ p < 2 then 6
  else if p = ptpUpstream s ∧ s.nat .localClock 0 11 = p then
    (match s.nat .localClock 0 14 with | 3 => 9 | 2 => 8 | _ => 4)
  else 0

/-- The settings of a channel's chain in effect now. -/
def useNow (s : State) (ch : Nat) : ChUse := (s.chan ch).useAt s.now

/-- The multiplier M of the settings in effect (R175, R176): while a decimation switch is pending, from the word still in use. -/
def liveM (s : State) (ch : Nat) : Int := let u := useNow s ch; multiplier (decW u.dw) u.shifts u.gCal u.gUsr

/-- The offset A of the settings in effect (R175). -/
def liveA (s : State) (ch : Nat) : Int := let u := useNow s ch; offsetA u.oCal u.gUsr u.oUsr

/-- Sum of the coefficients of a set (R165). -/
def coefSum (s : State) (set : Nat) : Int := (coefs s set).foldl (· + ·) 0

/-- The smallest attenuation at the chopper's odd harmonics (R163, R164). -/
def chopperReport (s : State) (ch : Nat) : Nat :=
  let mode := s.modeOf (cellOfCh ch)
  let u := useNow s ch
  if chopperZeros (decW u.dw) mode then 0xFFFF else min 65534 (chopperAttenuation u.dw mode (coefs s (u.bank u.active)) u.d)

/-- The tap count of the active set of a channel. -/
def activeTaps (s : State) (ch : Nat) : Nat := let u := useNow s ch; s.taps (u.bank u.active)

/-- The estimates of the modulator that a cell's view selects (R255). -/
def viewedEstimate (s : State) (c i : Nat) : Int :=
  (Sparse.get s.cal.est (17 * c + s.nat .cellCal c 9) []).getD i 0

/-- The smallest number of samples that a take's members hold in their rushes rings (R295). -/
def rushesHeld (s : State) (t : Nat) : Nat :=
  match (takeMembers s t).map (fun ch => (ringOf s ch).length) with
  | [] => 0
  | n :: ns => ns.foldl min n

/-- The state of a session's staging in object 0x1310 + n (R437): mode and staged entries. -/
def sessionNum (s : State) (n sub : Nat) : Int :=
  let g := s.stage n
  if sub = 1 then (b2n g.held : Nat) else ((g.pend.map (·.writes)).flatten ++ g.set).length

/-- What a description query answers (R529, R530), for the query word that a requester wrote. -/
def describeNum (s : State) (q sub : Nat) : Nat :=
  let idx := q / 65536
  let sb := q / 256 % 256
  let unit := match locate idx with | some (o, u) => if s.has o u then some (o, u) else none | none => none
  let zero := unit.isSome && sb == 0
  let ent := (s.entryAt idx sb).map (·.2.2)
  match sub with
  | 2 => b2n (!(zero || ent.isSome))
  | 3 => if zero then 2 else match ent with | some e => e.ty.code | none => 0
  | 4 => match ent with
    | some e => (match e.acc with | .ro => 0 | .rw => 1 | .wo => 2 | .rws => 3) + 4 * b2n e.ret
    | none => 0
  | 5 => if zero then 1 else match ent with | some e => e.ty.size | none => 0
  | 6 => if zero then 1 else match ent with | some e => if e.ty.isBytes then 65535 else e.ty.size | none => 0
  | 7 => match ent with | some e => (match e.ty with | .q _ n => n | _ => 0) | none => 0
  | 9 => match unit with | some (o, u) => o.top u | none => 0
  | 10 => ((s.units.map (fun p => p.1.index p.2)).filter (fun i => decide (idx < i))).foldl min 0xFFFF
  | _ => 0

/-- The default and the name that a description query answers (R529). -/
def describeBytes (s : State) (q sub : Nat) : Bytes :=
  let idx := q / 65536
  let sb := q / 256 % 256
  match s.entryAt idx sb with
  | some (o, u, e) =>
    if sub = 8 then
      (if e.acc = .wo ∨ e.dflt = .calc then []
       else if e.ty.isBytes then e.dfltBytes s.variant s.fac o u sb else e.ty.encode (e.dfltNum s.variant s.fac o u sb))
    else utf8Of e.name
  | none =>
    match locate idx with
    | some (o, u) =>
      if s.has o u ∧ sb = 0 then (if sub = 8 then leBytes 1 (o.top u) else utf8Of "Highest subindex") else []
    | none => []

/-- One entry of a list of entries (R533, R553): index, subindex and reserved byte. -/
def listEntries (b : Bytes) : List (Nat × Nat × Nat) := (chunks 4 b).map (fun e => (leAt e 0 2, leAt e 2 1, leAt e 3 1))

/-- The type of an entry that a list may name: it exists and is not write-only (R533, R553). -/
def listedTy (s : State) (e : Nat × Nat × Nat) : Option Ty :=
  if e.2.2 ≠ 0 then none
  else if e.2.1 = 0 then
    (match locate e.1 with | some (o, u) => if s.has o u then some .u8 else none | none => none)
  else match s.entryAt e.1 e.2.1 with
    | some (_, _, r) => if r.acc = .wo then none else some r.ty
    | none => none

/-- The snapshot words of an entry of a type (R553). -/
def Ty.words (ty : Ty) : Nat := if ty.size ≤ 4 then 1 else 2

/-- The identification register (R611): silicon revision, variant code, the manufacturer code of the factory, and 1. -/
def idcode (s : State) : Nat :=
  s.nat .identity 0 8 % 16 * 2 ^ 28 + variantCode s.variant * 4096 + s.nat .debug 0 1 % 4096 / 2 * 2 + 1

/-- A number computed at the read, where an entry holds none. -/
def liveNum (s : State) (who : Nat) (o : Obj) (u sub : Nat) : Option Int :=
  match o, sub with
  | .describe, _ =>
    let q := Sparse.get s.queries who 0x10000000
    if sub = 1 then some q
    else if Sparse.find s.queries who = none then none else some (describeNum s q sub)
  | .dictSummary, 1 => some (dictCounts s).1
  | .dictSummary, 2 => some (dictCounts s).2.1
  | .dictSummary, 3 => some (dictCounts s).2.2
  | .store, 5 => some (storeState s)
  | .store, 7 => some (((newestSnap s).map (·.gen)).getD 0)
  | .store, 13 => some (let x := takeSnap s 0; ((Config.storeSize x.nums x.strs).toNat : Int))
  | .store, 16 => some (s.flash.erases.getD 0 0)
  | .store, 17 => some (s.flash.erases.getD 1 0)
  | .factoryRestore, 2 => some (b2n s.flash.marker.isSome)
  | .kmp, 1 => some s.net.sessions.length
  | .session, 1 => some (sessionNum s u 1)
  | .session, 2 => some (sessionNum s u 2)
  | .ptpPort, 2 => some (portState s u)
  | .ptpPort, 5 => some (portLatency s u 5)
  | .ptpPort, 6 => some (portLatency s u 6)
  | .localClock, 1 => some s.localNs
  | .localClock, 6 => if s.nat .localClock 0 4 = 0 then some (impliedRate (s.num .localClock 0 2)) else none
  | .grid, 1 => some s.now
  | .slate, 5 => if s.isManager then none else some 0
  | .router, 1 => some (b2n (faultN s))
  | .recorder, 10 => some s.ev.failMain.length
  | .recorder, 11 => some s.ev.failEmer.length
  | .recorder, 14 => some (b2n (!s.ev.failMain.isEmpty || !s.ev.failEmer.isEmpty) + 2 * b2n s.ev.sticky : Nat)
  | .snapList, 2 => some ((((listEntries (s.bytes .snapList u 1)).map (listedTy s)).map
      (fun t => match t with | some ty => ty.words | none => 0)).foldl (· + ·) 0)
  | .resync, 1 => some (Config.coreSnapshotSize s.regs).toNat
  | .queues, 1 => some ((List.range 195).filter (s.has .queue)).length
  | .queue, 2 => some (s.queue u).words.length
  | .dmaEngine, 5 => some dmaBase
  | .handoff, 6 => some dmaBase
  | .budget, 2 => some (allocTotal s)
  | .budget, 3 => some (reservedTotal s)
  | .debug, 1 => some (idcode s)
  | .debug, 2 => some (b2n s.dbg.control)
  | .debug, 6 => some (haltedMask s)
  | .driver, 5 => some (senseRouting s u)
  | .driver, 7 => some (driverAlloc s u)
  | .bias, 5 => some (biasAlloc s u)
  | .testDac, 3 => some (b2n (Config.testDacLimited s.now u))
  | .cellCal, 30 => some (interruptionState s u)
  | .cal, 9 => some (holdRemaining s)
  | .chFilter, 2 => some (decW (useNow s u).dw).D
  | .chFilter, 3 => some (6144000000 / (decW (useNow s u).dw).D : Nat)
  | .chFilter, 16 => some (s.settleOf u)
  | .chFilter, 17 => some (let x := useNow s u; chainDelay (decW x.dw) (activeTaps s u) x.d)
  | .chFilter, 18 => some (chopperReport s u)
  | .chFilter, 19 => some (match (s.chan u).fade with | some f => (if f.new = 1 then 1 else 2) | none => 0)
  | .chCorr, 3 => some (liveM s u)
  | .chCorr, 4 => some (liveA s u)
  | .chCorr, 9 => some (useNow s u).d
  | .coefSet, 3 => some (coefSum s u)
  | .coefSet, 4 => some (b2n (coefs s u == (coefs s u).reverse))
  | .coefSet, 5 => some (setRefs s u)
  | .firLoad, 1 => some (firLoad s)
  | .takeStat, 14 => some (rushesHeld s u)
  | .takeStat, 15 => some (match (s.take u).fill with
    | some f => if takeState s u = 2 then (f.copied.headD []).length else 0
    | none => 0)
  | .takeMem, 8 => some (largestRun s)
  | .takeMem, 10 => some (regionBase s)
  | .takeMem, 12 => some s.takeMem.rushesMb
  | .takeMem, 13 => some s.takeMem.captureMb
  | .band, 14 => some (bandRefs s u)
  | .redLoad, 1 => some (redLoad s)
  | .stream, 9 => some (match s.space u (s.nat .stream u 7) with | some p => p.oldest | none => s.nat .stream u 8)
  | .stream, 14 => some (itemsRoom ((s.strm.spaces.filter (fun p => p.stream == u)).flatMap (·.items)))
  | .partitions, 6 => some (spillHeld s)
  | .partitions, 7 => some (recHeld s)
  | .partitions, 8 => some (gapHeld s)
  | .partitions, 9 => some s.strm.spillMb
  | .partitions, 10 => some s.strm.recMb
  | .uplink, 7 => some ((s.strm.upFrames.map (·.bytes.length)).foldl (· + ·) 0)
  | .link, 13 => if u = 2 then some (putBit (s.nat .link 2 13) 3 (txDisable s) : Nat) else none
  | .workers, _ => if s.isManager then none else some 0
  | .zone, _ => if s.isManager then none else some (s.dfltNum .zone u sub)
  | .chCorr, _ => if 5 ≤ sub ∧ sub ≤ 8 then some ((let x := useNow s u; skewTaps (decW x.dw).D x.d).getD (sub - 5) 0) else none
  | .cellCal, _ => if 10 ≤ sub ∧ sub ≤ 27 then some (viewedEstimate s u (sub - 10)) else none
  | _, _ => none

/-- A byte string computed at the read, where an entry holds none. -/
def liveBytes (s : State) (who : Nat) (o : Obj) (u sub : Nat) : Option Bytes :=
  match o, sub with
  | .describe, _ =>
    if Sparse.find s.queries who = none then none else some (describeBytes s (Sparse.get s.queries who 0x10000000) sub)
  | .router, 3 => some (leBytes 12 (s.ev.latches.foldl setBit 0))
  | .dmaStat, 12 => some ((List.range 8).flatMap (fun i => ((s.dmaCh u).reg i).bytes))
  | .dmaStat, 13 => some (framesBytes (s.dmaCh u).frames)
  | .calImage, 1 => some (calImage s)
  | _, _ => none

/-- The writes that a session has staged and that have not taken effect, in the order in which they were accepted: pending sets and
immediate writes, then the held set (R431, R435). -/
def Stage.inOrder (g : Stage) : List Wr :=
  let waits := (g.pend.map (fun p => (p.order, p.writes))) ++ g.imm.map (fun i => (i.order, [i.w]))
  (waits.insertionSort (fun a b => a.1 ≤ b.1)).flatMap (·.2) ++ g.set

/-- The writes of a session that wait for a take, beyond their effective tick (R289). -/
def State.takeWaiting (s : State) (ses : Nat) : List Wr :=
  s.takes.flatMap (fun p => (p.2.waits.filter (fun x => x.1 == ses)).map (·.2.2))

/-- The value that a session has staged for an entry (R438); a write to a take's definition may still wait for the take (R289). -/
def stagedView (s : State) (who : Nat) (o : Obj) (u sub : Nat) : Option Wr :=
  ((s.takeWaiting who ++ (s.stage who).inOrder).filter (fun w => w.obj == o && w.u == u && w.sub == sub)).getLast?

/-- The value of an entry as a requester reads it, encoded (R508, R509). `who` is the session, or 16 plus the MAC address of a
requester without one (R529). -/
def readValue (s : State) (who : Nat) (o : Obj) (u sub : Nat) : Bytes :=
  let ty := entryTy o u sub
  match stagedView s who o u sub with
  | some w => if ty.isBytes then w.bytes else ty.encode w.num
  | none =>
    if ty.isBytes then (liveBytes s who o u sub).getD (s.bytes o u sub)
    else ty.encode ((liveNum s who o u sub).getD (s.num o u sub))

/-- What a read does beside answering: the read procedure of a capture unit (R224). -/
def readEffect (s : State) (o : Obj) (u sub : Nat) : State :=
  match o with
  | .capture => captureRead s u sub
  | _ => s

/-- Before the restore step has ended only objects 0x1000 to 0x10FF and 0x1100 may be read (R524). -/
def notServed (s : State) (idx : Nat) (read : Bool) : Bool :=
  decide (phase s < 3) && !(read && (decide (0x1000 ≤ idx ∧ idx ≤ 0x10FF) || idx == 0x1100))

/-- One entry is read (R506, R511, R524): the status, the value, and the count of object 0x6030 (R535). -/
def serveRead (s : State) (who idx sub : Nat) : State × Code × Bytes :=
  let deny := fun (c : Code) => (answer s c, c, ([] : Bytes))
  if notServed s idx true then deny .inUse
  else
    match locate idx with
    | none => deny .noObject
    | some (o, u) =>
      if !s.has o u then deny .noObject
      else if sub = 0 then (answer s .success, .success, leBytes 1 (o.top u))
      else
        match o.entry u sub with
        | none => deny .noObject
        | some e =>
          if e.acc = .wo then deny .access
          else (readEffect (answer s .success) o u sub, .success, readValue s who o u sub)

end Sys2Proof.Machine
end

