-- ==== Sys2Proof/Machine/Checks.lean ====
section
/-! DEFINITION. The checks of a dictionary write after its access (R511 steps 3 to 6, R509, R647 of spec/16_object_dictionary.md): the
type, the range of the entry's table row, the rules that a table states in words, and the rules of the owning chapters on the
configuration with the write applied, at receipt and at effect. -/

namespace Sys2Proof.Machine

open Sys2Proof

/-- A recorder snapshot list is legal (R553). -/
def snapListOk (s : State) (b : Bytes) : Bool :=
  let tys := (listEntries b).map (listedTy s)
  decide (b.length % 4 = 0) && tys.all (fun t => match t with | some ty => !ty.isBytes && ty != .time | none => false) &&
    decide ((tys.map (fun t => match t with | some ty => ty.words | none => 0)).foldl (· + ·) 0 ≤ 24)

/-- A snapshot set's list is legal (R533). -/
def snapSetOk (s : State) (b : Bytes) : Bool :=
  decide (b.length % 4 = 0) && decide (b.length ≤ 256) &&
    ((listEntries b).map (listedTy s)).all (fun t => match t with | some ty => !ty.isBytes | none => false)

/-- The type check of R509 on the bytes of a write. -/
def typeOk (ty : Ty) (b : Bytes) : Bool :=
  match ty with
  | .bool => decide (leNat b ≤ 1)
  | .time => decide (leAt b 6 4 ≤ 999999999)
  | .str => utf8 b
  | _ => true

/-- A member list holds whole channel numbers, each a U16, and no more than its table admits (R266, R298, R354). -/
def membersFit (most : Nat) (b : Bytes) : Bool := b.length % 2 == 0 && decide (b.length ≤ 2 * most)

/-- The ranges that a table row states, in figures or in words, on one value (R511 step 5, R647). -/
def fieldCheck (s : State) (o : Obj) (u sub : Nat) (n : Int) (b : Bytes) : Option Code :=
  let m := n.toNat
  let need := fun (p : Bool) => if p then (none : Option Code) else some .outOfRange
  let route := fun (p : Bool) => if p then (none : Option Code) else some .notRoutable
  let row : Option Code := match o.entry u sub with
    | some e => (match e.chk with | .rng lo hi => need (!outside lo hi n) | .any => none)
    | none => none
  let words : Option Code := match o with
    | .identity => need (sub != 12 || decide (b.length ≤ 64))
    | .describe => need (m % 256 == 0)
    | .link => need (sub != 2 || decide (m ≤ if u = 2 then 2 else 3))
    | .clock => need (if sub = 3 then m == 0 || s.isManager else sub != 12 || m == 0 || s.nat .clock 0 3 == 1)
    | .slate =>
      if sub = 3 then need (decide (24576 ≤ m) && 24576000 % m == 0)
      else if sub = 5 then need (m == 0 || s.isManager) else none
    | .capture =>
      if sub = 1 then need (decide (u < 16) || decide (m ≤ 1)) else need (decide (16 ≤ u))
    | .route =>
      if sub = 1 then need (!bit m 6 && (!bit m 4 || bit m 7) && (!bit m 5 || Config.hasHostPort s.variant))
      else if sub = 4 then need (decide (m ≤ 7) || m == 255)
      else if sub = 6 then need (u != 66 || bit m 1) else none
    | .snapList => need (snapListOk s b)
    | .custody => need (sub != 5 || m == 0 || Config.hasCoreB s.variant)
    | .sram => need (b.length == 1024)
    | .dmaCtl => need (sub != 1 || m % 8 == 0)
    | .endpoint => need (decide (m + 64 ≤ Config.dramBytes s.variant / 1048576))
    | .handoff => if sub = 1 then need s.isManager else none
    | .lgo => need ((lgoCheck (s.setNum .lgo u sub n) u sub).isNone)
    | .debugCh => need (decide (4 < sub) || m % 8 == 0 || m == 0xFFFF)
    | .spare => need (decide (m ≤ 15) || m == 255)
    | .chBands => need (decide (m ≤ 31) || m == 255)
    | .chLegacy => if sub = 1 then need (decide (m ≤ 15) || m == 255) else if sub = 3 then need (decide (m ≤ 31)) else none
    | .aux => need (sub != 4 || m % 192 == 0)
    | .take =>
      if sub = 2 then need (membersFit 64 b) else need (sub != 12 || m == 0 || decide (24576 ≤ m))
    | .window => need (sub != 2 || membersFit 384 b)
    | .takeMem => need (sub != 1 || (decide (1024 ≤ m) && decide (m ≤ 4194304) && m &&& (m - 1) == 0))
    | .stream =>
      if sub = 2 then need (membersFit 384 b) else need (sub != 3 || [8, 16, 32, 64, 128, 256].contains m)
    | .partitions => need (sub != 2 || decide (2 ≤ m))
    | .supply => need (sub != 7 || decide (s.nat .supply 0 6 < m))
    | .band => need (sub != 1 || (decide (48 ≤ m) && 6144000 % m == 0))
    | .coefSet => need (sub != 2 || (b.length == 4 * s.taps u && coefsLegal b))
    | .workers => need (m == 0 || !((List.range 62).any (fun i => i + 1 != sub && s.nat .workers 0 (i + 1) == m)))
    | .snapSet =>
      if sub = 1 then need (snapSetOk s b) else if sub = 2 then need (m % 24576 == 0) else none
    | .tpo =>
      if sub = 6 then need (decide (m < s.nat .tpo u 5)) else if sub = 9 then need (decide (m < s.nat .tpo u 8)) else none
    | .cal => if sub = 2 then route (decide (m < 2 ^ Config.cells s.variant)) else none
    | _ => none
  match o with
  | .chFront =>
    if sub = 8 ∧ Config.hasPull s.variant = false then route (m == 0) else row
  | _ => match row with | some c => some c | none => words

/-- The cell configuration fails R55 for a routing write. -/
def routingCheck (cfg : State) (receipt : Bool) (o : Obj) (u : Nat) : Option Deny :=
  if cellLegal cfg (cellOf o u) receipt then none else some (.notRoutable, 0)

/-- The rules of the owning chapters on a staged write to an entry, in their order: at receipt all of them on the effective values
with the session's staged writes and this one, at effect those that hold there too. `old` is the configuration before, `cfg` the
one that would result, and `view` the one with the session's other staged writes too, which R113, R143, R281 and R300 name at both
moments. -/
def ruleCheck (old cfg view : State) (receipt : Bool) (o : Obj) (u sub : Nat) : Option Deny :=
  match o with
  | .termRoute => routingCheck cfg receipt o u
  | .chFront => if sub ≤ 4 then routingCheck cfg receipt o u else filterCheck old cfg receipt o u sub
  | .driver | .bias => if sub = 1 then routingCheck cfg receipt o u else none
  | .refPower =>
    match filterCheck old cfg receipt o u sub with
    | some d => some d
    | none => filterCheck old view receipt o u sub
  | .chCorr => filterCheck old cfg receipt o u sub
  | .spare =>
    if receipt ∧ cfg.nat .spare u 1 < 16 ∧ bit (old.nat .spare u 2) 16 then some (.outOfRange, 0) else none
  | .chFilter =>
    match filterCheck old cfg receipt o u sub with
    | some d => some d
    | none => reductionCheck cfg view receipt o u sub
  | .chCal => if sub ≤ 16 ∧ gainLegal (cfgM cfg u) (cfgA cfg u) = false then some (.outOfRange, 0) else none
  | .chBands | .window | .crossHub => reductionCheck cfg view receipt o u sub
  | .chLegacy => (legacyCheck cfg u sub).map (fun c => (c, 0))
  | .aux | .auxSeq => (auxCheck view receipt o sub).map (fun c => (c, 0))
  | .take => takeCheck old cfg receipt o u sub
  | .takeMem => takeCheck old view receipt o u sub
  | .stream => (streamLegal cfg u).map (fun c => (c, 0))
  | .partitions => if receipt ∧ sub ≤ 2 ∧ partitionsFit cfg = false then some (.outOfRange, 0) else none
  | _ => none

/-- A refusal or a discard is counted where its rule counts it: the load refusals of R167 and R312. -/
def noteDeny (s : State) (d : Deny) : State :=
  match d.2 with
  | 1 => s.bump .firLoad 0 3 1
  | 2 => s.bump .redLoad 0 3 1
  | _ => s

/-- Two writes name the same entry. -/
def Wr.same (a b : Wr) : Bool := a.obj == b.obj && a.u == b.u && a.sub == b.sub

/-- Entries that a session has staged, of at most 4,096 (R431). -/
def Stage.count (g : Stage) : Nat := g.writes.length

/-- A checked write joins its session's staging (R430, R431): in held mode it replaces an earlier write of the set to the entry. -/
def stageWrite (s : State) (ses : Nat) (w : Wr) : State :=
  let g := s.stage ses
  if g.held then s.putStage ses { g with set := g.set.filter (fun x => !x.same w) ++ [w] }
  else
    { s.putStage ses { g with imm := g.imm ++ [⟨w, s.now, s.order⟩] } with order := s.order + 1 }

/-- The staging of the session has room for this write. -/
def stageRoom (s : State) (ses : Nat) (w : Wr) : Bool :=
  let g := s.stage ses
  decide (g.count + (s.takeWaiting ses).length < 4096) || (g.held && g.set.any (fun x => x.same w))

/-- A write that would raise the hub's reserved total above the budget (R72, R73). -/
def overBudget (s : State) (ses : Nat) (w : Wr) : Bool :=
  let s' := stageWrite s ses w
  isExcitation w.obj w.sub && decide (excBudget < reservedTotal s') && decide (reservedTotal s < reservedTotal s')

/-- The configuration that a check at receipt looks at (R56): the effective values and the session's staged writes, those that wait
for a take (R289) among them. -/
def sessionView (s : State) (ses : Nat) : State := s.withWrites (s.takeWaiting ses ++ (s.stage ses).inOrder)

/-- A staged entry is written (R510 RWS, R511 steps 5 and 6, R56, R72): refused with its code, or staged. -/
def stagedWrite (s : State) (ses : Nat) (w : Wr) : State × Code :=
  let view := sessionView s ses
  match fieldCheck view w.obj w.u w.sub w.num w.bytes with
  | some c => (s, c)
  | none =>
    let cfg := view.withWrites [w]
    match ruleCheck s cfg cfg true w.obj w.u w.sub with
    | some d => (noteDeny s d, d.1)
    | none =>
      if overBudget s ses w then (s.bump .budget 0 4 1, .excBudget)
      else if !stageRoom s ses w then (s, .stagingFull)
      else (stageWrite s ses w, .success)

end Sys2Proof.Machine
end

