-- ==== Sys2Proof/Machine/Effects.lean ====
section
/-! DEFINITION. How staged writes take effect (R430 to R437 of spec/13_queues_and_ordering.md, R56, R57 of
spec/02_terminals_and_crosspoint.md): immediate writes at their tick, and sets at their fence. -/

namespace Sys2Proof.Machine

open Sys2Proof

/-- A write changed the effective value of its entry. -/
def entryChanged (old s : State) (w : Wr) : Bool :=
  if (entryTy w.obj w.u w.sub).isBytes then old.bytes w.obj w.u w.sub != s.bytes w.obj w.u w.sub
  else old.num w.obj w.u w.sub != s.num w.obj w.u w.sub

/-- The consequences of one entry that a write changed at tick t: `old` before, `s` after. -/
def entryEffect (old s : State) (t : Nat) (w : Wr) : State :=
  if entryChanged old s w = false then s
  else
    let s := frontTouch old s t w.obj w.u w.sub
    match w.obj with
    | .spare => spareTouch (s.bump .spare w.u 3 1) w.u (old.nat .spare w.u 1) t
    | .refPower => if w.sub = 1 then refTouch s w.u t else modeTouch s w.u t
    | .aux => auxChange s t w.sub
    | _ => s

/-- The units of an object that writes name, each once. -/
def unitsOf (p : Obj → Bool) (ws : List Wr) : List Nat := ((ws.filter (fun w => p w.obj)).map (·.u)).dedup

/-- Objects whose settings a channel's chain uses. -/
def chainObj (o : Obj) : Bool := match o with
  | .chFilter | .chCorr | .chThresh | .chFront | .chCal => true
  | _ => false

/-- The consequences that follow a whole group of writes at tick t, object by object. -/
def groupEffect (old s : State) (ws : List Wr) (t : Nat) : State :=
  let each := fun (p : Obj → Bool) (f : State → Nat → State) (s : State) => (unitsOf p ws).foldl f s
  let s := each chainObj (fun s ch => chainTouch old s t ch) s
  let s := each (· == .chBands) (fun s ch => bandTouch old s ch t) s
  let s := each (· == .window) (fun s w => winTouch old s w t) s
  let s := each (· == .crossHub) (fun s x => crossTouch old s x t) s
  let s := each (· == .stream) (fun s n => streamTouch old s n t) s
  let s := each (· == .tpo) (fun s p => tpoArm s p) s
  let s := each (· == .codec) (fun s _ => codecTouch old s t) s
  ws.foldl (fun s w => calTouch s w.obj w.u w.sub) s

/-- Writes of a session that are neither a take's definition nor an arm command take effect together at tick t. -/
def applyPlain (s : State) (ws : List Wr) (t : Nat) : State :=
  let now := ws.foldl (fun s w => noteRetained s w.obj w.u w.sub) (s.withWrites ws)
  let now := (unitsOf chainObj ws).foldl (fun k ch =>
    if chainDiff s k ch = [] then k else k.putChan ch (s.chan ch)) now
  let now := ws.foldl (fun k w => entryEffect s k t w) now
  groupEffect s now ws t

/-- Writes of a session take effect together at tick t: those to a take's definition under R289, then the others, then the arm
commands (R295). -/
def applySet (s : State) (ses : Nat) (imm : Bool) (ws : List Wr) (t : Nat) : State :=
  let isTake := fun (w : Wr) => w.obj == .take
  let isArm := fun (w : Wr) => w.obj == .takeStat
  let plain := ws.filter (fun w => !isTake w && !isArm w)
  let s := if plain = [] then s else applyPlain s plain t
  let s := (unitsOf (· == .take) ws).foldl (fun s k => takeWrites s ses imm k (ws.filter (fun w => isTake w && w.u == k)) t) s
  (ws.filter isArm).foldl (fun s w => takeArmCmd s w.u t) s

/-- The rules marked "effect" on one write of a group `ws` of a session that takes effect together. -/
def effectCheck (s : State) (ses : Nat) (ws : List Wr) (w : Wr) : Option Deny :=
  ruleCheck s (s.withWrites ws) ((sessionView s ses).withWrites ws) false w.obj w.u w.sub

/-- The cell of a write whose failure counts as a discarded routing write (R57): a routing write, which a cell's power mode is too
(R113). -/
def discardCell (w : Wr) : Option Nat :=
  if isRouting w.obj w.sub then some (cellOf w.obj w.u)
  else if w.obj = .refPower ∧ w.sub = 2 then some w.u
  else none

/-- A write whose failure is that of a routing write without a cell (R143). -/
def discardAux (w : Wr) : Bool := w.obj == .aux || w.obj == .auxSeq

/-- Writes of a session discarded at their effect (R57): each is counted in its cell, and the cell raises EV47 once; those to the
auxiliary converter raise it once (R143). -/
def discardWrites (s : State) (ses : Nat) (ws : List Wr) : State :=
  let cells := ws.filterMap discardCell
  let s := cells.foldl (fun s c => s.bump .routeStatus c 4 1) s
  let s := cells.dedup.foldl (fun s c => raise s 47 1 c) s
  if ws.any discardAux then raise s 47 1 (Config.auxDiscardDetail ses).toNat else s

/-- A pending set of the session, accepted before, writes the same entry (R431). -/
def behindSet (g : Stage) (x : Imm) : Bool :=
  g.pend.any (fun p => decide (p.order < x.order) && p.writes.any (fun w => w.same x.w))

/-- An immediate write takes effect at tick t, or is discarded (R430, R57, R437 subindex 0x08); a write to a take's definition may
have to wait for its take (R289). -/
def immEffect (s : State) (ses : Nat) (x : Imm) (t : Nat) : State :=
  let g := s.stage ses
  let s := s.putStage ses { g with imm := g.imm.filter (fun y => y.order != x.order) }
  let later := x.w.obj == .take && takeWaits s x.w.u
  match (if later then none else effectCheck s ses [x.w] x.w) with
  | some d => discardWrites (noteDeny s d) ses [x.w]
  | none =>
    let s := applySet s ses true [x.w] t
    if later then s else s.setNum .session ses 8 t

/-- The writes of a set that break a rule at effect, with the rule, by index and then subindex (R434). -/
def setFailures (s : State) (ses : Nat) (ws : List Wr) : List (Wr × Deny) :=
  let bad := ws.filterMap (fun w => (effectCheck s ses ws w).map (fun d => (w, d)))
  bad.insertionSort (fun a b => entryKey a.1.obj a.1.u a.1.sub ≤ entryKey b.1.obj b.1.u b.1.sub)

/-- A pending set reaches its tick (R434, R437): it is performed as a whole, or dropped. -/
def fenceEffect (s : State) (ses : Nat) (p : PendSet) : State :=
  match setFailures s ses p.writes with
  | [] =>
    let s := spoilResync (applySet s ses false p.writes p.tick)
    raiseAt ((s.setNum .session ses 5 2).bump .session ses 9 1) 71 1 ses p.tick
  | (w, d) :: rest =>
    let s := ((w, d) :: rest).foldl (fun s x => noteDeny s x.2) s
    let cells := ((w, d) :: rest).filterMap (fun x => discardCell x.1)
    let aux := ((w, d) :: rest).any (fun x => discardAux x.1)
    let s := discardWrites s ses (p.writes.filter (fun x =>
      match discardCell x with | some c => cells.contains c | none => aux && discardAux x))
    let s := ((s.setNum .session ses 5 3).setNum .session ses 6 (w.obj.index w.u * 65536 + w.sub * 256 : Nat)).setNum
      .session ses 7 d.1.num
    raiseAt (s.bump .session ses 10 1) 72 1 ses p.tick

/-- The immediate writes that waited behind a set take effect after it, in their order (R431). -/
def afterSet (s : State) (ses : Nat) (p : PendSet) : State :=
  let late := (s.stage ses).imm.filter (fun x => decide (p.order < x.order) && p.writes.any (fun w => w.same x.w))
  late.foldl (fun s x => if behindSet (s.stage ses) x then s else immEffect s ses x p.tick) s

/-- A pending set of a session reaches its tick, and the writes behind it follow (R434, R431). -/
def performSet (s : State) (ses : Nat) (p : PendSet) : State :=
  let g := s.stage ses
  let s := s.putStage ses { g with pend := g.pend.filter (fun q => q.order != p.order) }
  afterSet (fenceEffect s ses p) ses p

/-- One change comes before another, by effective tick and then by acceptance (R435). -/
def PendSet.before (a b : PendSet) : Bool := decide (a.tick < b.tick) || (a.tick == b.tick && decide (a.order ≤ b.order))

/-- The pending sets of every session that come no later than a change of effective tick t accepted as number `o`, in their order
(R435). -/
def setsUpTo (s : State) (t o : Nat) : List (Nat × PendSet) :=
  let all := (List.range 16).flatMap (fun ses =>
    ((s.stage ses).pend.filter (fun p => p.before ⟨t, o, []⟩)).map (fun p => (ses, p)))
  all.insertionSort (fun a b => a.2.before b.2 = true)

/-- Those sets are performed (R435). -/
def performUpTo (s : State) (t o : Nat) : State := (setsUpTo s t o).foldl (fun s x => performSet s x.1 x.2) s

/-- STAGED_WRITE_TAKES_EFFECT (R430, R431, R435): the session's oldest immediate write to an entry takes effect now, after every
set that comes before it, unless it waits behind a pending set. -/
def execStagedWriteTakesEffect (ses idx sub : Nat) (s : State) : Host.Outcome State Fault Refusal :=
  match locate idx with
  | none => .next s
  | some (o, u) =>
    let asked := fun (x : Imm) => x.w.obj == o && x.w.u == u && x.w.sub == sub
    match (s.stage ses).imm.find? asked with
    | some x =>
      let s := performUpTo s s.now x.order
      let g := s.stage ses
      .next (if g.imm.contains x && !behindSet g x then immEffect s ses x s.now else s)
    | none => .next s

/-- COMMIT_FENCE_EFFECT (R434, R435): the session's earliest pending set reaches its effective tick, after every set of any session
that comes before it. -/
def execCommitFenceEffect (ses : Nat) (s : State) : Host.Outcome State Fault Refusal :=
  match (s.stage ses).pend.insertionSort (fun a b => a.before b = true) with
  | [] => .next s
  | p :: _ => .next (if p.tick ≤ s.now then performUpTo s p.tick p.order else s)

/-- A session enters held mode (R432). -/
def openHeld (s : State) (ses v : Nat) : State × Code :=
  let g := s.stage ses
  if v ≠ 1 then (s, .outOfRange)
  else if g.held then (s, .inUse)
  else ((s.putStage ses { g with held := true, set := [], opened := s.now }).setNum .session ses 3 s.now, .success)

/-- The effective tick of a commit that names tick t (R433). -/
def commitTick (s : State) (t : Nat) : Except Code Nat :=
  let a := s.now + s.nat .fence 0 4
  if t = 0 then .ok (ceilTo 24576 a)
  else if t < a then .error .tooLate
  else if s.now + 24576000 * 86400 < t then .error .outOfRange
  else .ok t

/-- A commit of the held set (R432, R433). -/
def commitHeld (s : State) (ses t : Nat) : State × Code :=
  let g := s.stage ses
  if !g.held then (s, .outOfRange)
  else match commitTick s t with
    | .error c => (s, c)
    | .ok e =>
      let s := s.putStage ses { g with held := false, set := [], pend := g.pend ++ [⟨e, s.order, g.set⟩] }
      ((({ s with order := s.order + 1 }).setNum .session ses 4 e).setNum .session ses 5 1, .success)

/-- The held set of a session is dropped (R436). -/
def abandonSet (s : State) (ses : Nat) : State :=
  let g := s.stage ses
  if g.held then
    raise (((s.putStage ses { g with held := false, set := [] }).setNum .session ses 5 4).bump .session ses 10 1) 72 2 ses
  else s

/-- An abandon (R432, R436). -/
def abandonHeld (s : State) (ses v : Nat) : State × Code :=
  if v ≠ 1 ∨ (s.stage ses).held = false then (s, .outOfRange) else (abandonSet s ses, .success)

/-- SET_TIMEOUT (R436): a held set has been open for the set timeout. -/
def execSetTimeout (ses : Nat) (s : State) : Host.Outcome State Fault Refusal :=
  let g := s.stage ses
  .next (if g.held ∧ g.opened + s.nat .fence 0 5 * 24576000 ≤ s.now then abandonSet s ses else s)

end Sys2Proof.Machine
end

