-- ==== Sys2Proof/Machine/Store.lean ====
section
/-! DEFINITION. The retained store, the restore step, the factory restore and the snapshot sets (R514 to R526, R533, R534 of
spec/16_object_dictionary.md, R597, R598 of spec/19_power_reset_startup.md). -/

namespace Sys2Proof.Machine

open Sys2Proof

/-- The store's work changed. -/
def State.modStore (s : State) (f : StoreSt → StoreSt) : State := { s with store := f s.store }

/-- The generation that the next store writes (R517). -/
def nextGen (s : State) : Nat := ((newestSnap s).map (·.gen)).getD 0 + 1

/-- A store begins; one that is in progress serves (R519). -/
def storeBegin (s : State) : State :=
  s.modStore (fun k => match k.run with
    | some _ => k
    | none => { k with run := some { gen := nextGen s, taken := none, later := 0 }, began := some s.now })

/-- The store command (R519, R526). -/
def storeCommand (s : State) (v : Nat) : State × Code :=
  if v ≠ 1 then (s, .outOfRange) else if storeState s = 2 then (s, .inUse) else (storeBegin s, .success)

/-- Autosave's conditions hold (R519). -/
def autosaveDue (s : State) : Bool :=
  decide (3 ≤ phase s) && s.store.run.isNone && s.nat .store 0 2 == 1 && decide (0 < s.nat .store 0 15) &&
    decide (s.store.wrote + s.nat .store 0 3 * 24576000 ≤ s.now) &&
    (match s.store.began with | some t => decide (t + s.nat .store 0 4 * 24576000 ≤ s.now) | none => true)

/-- AUTOSAVE (R519): its conditions hold, so a store begins. -/
def execAutosave (s : State) : Host.Outcome State Fault Refusal := .next (if autosaveDue s then storeBegin s else s)

/-- Slot i is erased (R516, R526). -/
def eraseSlot (s : State) (i : Nat) : State :=
  s.modFlash (fun f => { f with slots := f.slots.set i none, erases := f.erases.modify (i / 4) (fun n => (n + 1) % 2 ^ 32) })

/-- SNAPSHOT_TICK_STORE (R517): at the first whole millisecond after the store began, with no image being written, the values are
recorded and the slot is erased. -/
def execSnapshotTickStore (s : State) : Host.Outcome State Fault Refusal :=
  match s.store.run, s.store.began with
  | some r, some b =>
    if r.taken = none ∧ imageWriting s = false ∧ s.now % 24576 = 0 ∧ b < s.now then
      let x := takeSnap s r.gen
      .next ((eraseSlot s (slotOf r.gen)).modStore (fun k => { k with run := some { r with taken := some (s.now, x), later := 0 } }))
    else .next s
  | _, _ => .next s

/-- STORE_COMPLETE (R517, R518): the slot has been written and read back; `ok` says whether it holds what was written. -/
def execStoreComplete (ok : Bool) (s : State) : Host.Outcome State Fault Refusal :=
  match s.store.run with
  | some ⟨gen, some (t, x), later⟩ =>
    let s := s.modStore (fun k => { k with run := none })
    let s := s.modFlash (fun f => { f with slots := f.slots.set (slotOf gen) (some { x with valid := ok }) })
    .next (idleReset (if ok then
        (((s.setNum .store 0 6 1).setNum .store 0 8 t).bump .store 0 9 1).setNum .store 0 15 later
      else raise (s.setNum .store 0 6 2) 77 1 gen))
  | _ => .next s

/-- The factory-restore command (R525, R526). -/
def factoryCommand (s : State) (v : Nat) : State × Code :=
  match v with
  | 1 => (s.modFlash (fun f => { f with marker := some (s.nat .factoryRestore 0 3) }), .success)
  | 2 => (s.modFlash (fun f => { f with marker := none }), .success)
  | _ => (s, .outOfRange)

/-- The value that a snapshot holds for an entry is put in place of the present one. -/
def snapValue (s : State) (x : Snap) (r : Obj × Nat × Nat) : State :=
  let key := entryKey r.1 r.2.1 r.2.2
  match Sparse.find x.nums key, Sparse.find x.strs key with
  | some v, _ => s.setNum r.1 r.2.1 r.2.2 v
  | none, some b => s.setBytes r.1 r.2.1 r.2.2 b
  | none, none => s

/-- The factory default of an entry is put in its place. -/
def toDefault (s : State) (r : Obj × Nat × Nat) : State :=
  if (entryTy r.1 r.2.1 r.2.2).isBytes then s.setBytes r.1 r.2.1 r.2.2 (s.dfltBytes r.1 r.2.1 r.2.2)
  else s.setNum r.1 r.2.1 r.2.2 (s.dfltNum r.1 r.2.1 r.2.2)

/-- A restored entry fails a type, field or range check (R521). -/
def restoreBad (cfg : State) (r : Obj × Nat × Nat) : Bool :=
  let ty := entryTy r.1 r.2.1 r.2.2
  let b := cfg.bytes r.1 r.2.1 r.2.2
  !typeOk ty (if ty.isBytes then b else ty.encode (cfg.num r.1 r.2.1 r.2.2)) || (fieldCheck cfg r.1 r.2.1 r.2.2 (cfg.num r.1 r.2.1 r.2.2) b).isSome

/-- Entries whose check governs a running change, which a restored set does not meet (R522: R168, R268, and the rushes depth's
of R281), or whose rules `restoredSetOk` states once for the whole set. -/
def changeRule (r : Obj × Nat × Nat) : Bool := match r.1 with
  | .chFilter => true
  | .chCorr => true
  | .chFront => r.2.2 == 7
  | .takeMem => r.2.2 == 1
  | _ => false

/-- An entry of the restored set meets the rules of its owning chapter (R522). -/
def restoredOk (old cfg : State) (r : Obj × Nat × Nat) : Bool :=
  match r.1.entry r.2.1 r.2.2 with
  | some e => e.acc != .rws || changeRule r || (ruleCheck old cfg cfg true r.1 r.2.1 r.2.2).isNone
  | none => true

/-- The restored values hold every rule together (R522). -/
def restoredSetOk (old cfg : State) : Bool :=
  cfg.retained.all (restoredOk old cfg) && cfg.allChans.all (fun n => (chainLegal cfg n).isNone) &&
    decide (firLoad cfg ≤ 6000000000) && decide (allocTotal cfg ≤ excBudget)

/-- The highest generation in any slot, valid or not. -/
def highestGen (s : State) : Option Nat :=
  s.flash.slots.foldl (fun g x => match x, g with
    | some y, some h => some (max y.gen h)
    | some y, none => some y.gen
    | none, _ => g) none

/-- The restore result and the generation restored (R523). -/
def restoreResult (s : State) (result gen : Nat) : State := (s.setNum .store 0 10 result).setNum .store 0 11 gen

/-- The retained values of R520 to R523. -/
def restoreStore (s : State) : State :=
  match newestSnap s with
  | none => raise (restoreResult s 3 0) 77 5 0
  | some x =>
    let rs := s.retained
    let cfg := rs.foldl (fun k r => snapValue k x r) s
    let bad := rs.filter (restoreBad cfg)
    let cfg := bad.foldl toDefault cfg
    let n := bad.length
    let count := fun (s : State) => if n = 0 then s else raise (s.setNum .store 0 12 n) 77 2 n
    if restoredSetOk s cfg then
      if highestGen s = some x.gen then restoreResult (count cfg) 1 x.gen
      else raise (restoreResult (count cfg) 2 x.gen) 77 4 x.gen
    else raise (restoreResult (count s) 4 0) 77 3 x.gen

/-- Scope 1 of a factory restore keeps these indices (R525). -/
def scopeKeeps (idx : Nat) : Bool :=
  decide (0x1000 ≤ idx ∧ idx ≤ 0x10FF) || decide (0x1200 ≤ idx ∧ idx ≤ 0x12FF) || decide (0x1400 ≤ idx ∧ idx ≤ 0x14FF) ||
    decide (0x5000 ≤ idx ∧ idx ≤ 0x50FF)

/-- A factory restore (R525). -/
def factoryRestore (s : State) (scope : Nat) : State :=
  let cfg := match newestSnap s with
    | some x =>
      if scope = 1 then (s.retained.filter (fun r => scopeKeeps (r.1.index r.2.1))).foldl (fun k r => snapValue k x r) s else s
    | none => s
  let gen := (highestGen s).getD 0 + 1
  let cfg := (List.range 8).foldl eraseSlot cfg
  let cfg := cfg.modFlash (fun f => { f with slots := f.slots.set (slotOf gen) (some (takeSnap cfg gen)), marker := none })
  raise (restoreResult cfg 5 gen) 77 6 gen

/-- The restored values take effect (R598, R591): switches close, excitation runs, references and the converter start. `old` holds
every drive off and every route open. -/
def startFrontEnd (old s : State) : State :=
  let t := s.now
  let ws := (s.retained.filter (fun r => r.1 == .termRoute || r.1 == .driver || r.1 == .bias || r.1 == .testDac)).map
    (fun r => (⟨r.1, r.2.1, r.2.2, 0, []⟩ : Wr))
  let s := ws.foldl (fun k w => if entryChanged old k w then frontTouch old k t w.obj w.u w.sub else k) s
  let s := s.allCells.foldl (fun s c =>
    let s := refTouch s c t
    if s.nat .refPower c 2 = 1 then modeTouch s c t else s) s
  let s := auxRefTouch (s.modAux (fun a => { a with period := s.nat .aux 0 4 })) t
  if s.nat .aux 0 2 = 1 then auxModeTouch s t else s

/-- The partitions and the capture region in use from this start-up on (R281, R374). -/
def usePartitions (s : State) : State :=
  { s with
    takeMem := { s.takeMem with rushesMb := s.nat .takeMem 0 2, captureMb := s.nat .takeMem 0 3 }
    strm := { s.strm with spillMb := s.nat .partitions 0 1, recMb := s.nat .partitions 0 2 } }

/-- The cores begin the self-test of start-up (R388, R598). -/
def startCores (s : State) : State :=
  let cores := if Config.hasCoreB s.variant then [0, 1] else [0]
  let s := cores.foldl (fun s c => setCore s c 4) s
  s.modCust (fun k => { k with tests := cores.map (fun c => (c, TestWhy.startUp, s.now)) })

/-- The running image is confirmed, and the events of the start-up are raised (R595, R598, R604). -/
def startEvents (s : State) : State :=
  let i := s.nat .images 0 1
  let x := s.image i
  let s := if x.state = 1 then s.putImage i { x with state := 2 } else s
  let s := showFlash s
  let s := if s.power.fellBack then raise s 83 2 i else s
  let s := match s.power.rejected with | some r => raise s 83 4 r | none => s
  let s := raise s 83 5 (s.nat .startup 0 1)
  let s := if s.nat .role 0 3 = 1 then raise s 78 1 (s.nat .role 0 1) else s
  s.modPower (fun p => { p with fellBack := false, rejected := none })

/-- The end of the restore step (R592, R597, R598). `old` is the configuration before it. -/
def startUp (old s : State) : State :=
  let s := (List.range 8).foldl (fun s p => if s.nat .tpo p 1 = 1 then s.setNum .tpo p 1 0 else s) s
  let s := lgoRestored (startCores (dinsStart (startFrontEnd old (usePartitions s))))
  let s := ringsUpdate s s.now
  let s := (List.range 3).foldl (fun s p => if s.has .link p then s.setNum .link p 3 (if heldDown s p then 3 else 0) else s)
    ((s.setNum .startup 0 3 3).setNum .startup 0 5 (sinceRelease s))
  startEvents (s.modCal (fun k => { k with holdFrom := some s.now }))

/-- RESTORE (R520 to R525, R592, R598): the restore step of a start-up. -/
def execRestore (s : State) : Host.Outcome State Fault Refusal :=
  if phase s = 2 then
    let s0 := s.modFlash (fun f => { f with boots := (f.boots + 1) % 2 ^ 32 })
    let s1 := match s0.flash.marker with
      | some scope => factoryRestore s0 scope
      | none => restoreStore s0
    .next (startUp s s1)
  else .next s

/-- A take-now write (R533, R534). -/
def takeNow (s : State) (k v : Nat) : State × Code :=
  if v ≠ 1 then (s, .outOfRange)
  else (s.modSnap k (fun x => { x with nows := x.nows ++ [ceilTo 24576 (s.now + 24576)] }), .success)

/-- One entry of a snapshot: its key, its status, its length and its value (R534). -/
def snapEntry (s : State) (e : Nat × Nat × Nat) : Bytes :=
  let head := fun (c : Code) (n : Nat) => leBytes 2 e.1 ++ leBytes 1 e.2.1 ++ leBytes 1 0 ++ leBytes 2 c.num ++ leBytes 2 n
  match listedTy s e with
  | none => head .noObject 0 ++ padTo 4 []
  | some _ =>
    let b := if e.2.1 = 0 then (match locate e.1 with | some (o, u) => leBytes 1 (o.top u) | none => [])
      else match s.entryAt e.1 e.2.1 with
        | some (o, u, r) => r.ty.encode ((liveNum s 16 o u e.2.1).getD (s.num o u e.2.1))
        | none => []
    head .success b.length ++ padTo (max 4 (ceilTo 4 b.length)) b

/-- SNAPSHOT_SET_TICK (R534): a snapshot tick of set k: a multiple of its period or a take-now tick, or one that a load of the grid
count has passed. A snapshot still being read makes this one void. -/
def execSnapshotSetTick (k : Nat) (s : State) : Host.Outcome State Fault Refusal :=
  let p := s.nat .snapSet k 2
  let x := s.snapSt k
  let periodic := decide (p ≠ 0) && s.now % p == 0
  let asked := x.nows.any (fun t => decide (t ≤ s.now))
  if k < 8 ∧ 3 ≤ phase s ∧ x.looked ≠ some s.now ∧ (periodic || asked) = true then
    let s' := s.modSnap k (fun x => { x with looked := some s.now, nows := x.nows.filter (fun t => decide (s.now < t)) })
    .next (if x.run.isSome then s'
      else
        let es := listEntries (s.bytes .snapSet k 1)
        s'.modSnap k (fun x => { x with
          run := some (s.now, leBytes 2 es.length ++ leBytes 2 0 ++ leBytes 8 s.now ++ es.flatMap (snapEntry s)) }))
  else .next s

/-- SNAPSHOT_COMPLETE (R534): every entry is in: the snapshot replaces the last one. -/
def execSnapshotComplete (k : Nat) (s : State) : Host.Outcome State Fault Refusal :=
  match (s.snapSt k).run with
  | some (t, b) =>
    if k < 8 then
      let s := (s.modSnap k (fun x => { x with run := none })).bump .snapLast k 2 1
      .next ((s.setBytes .snapLast k 1 (leBytes 4 (s.nat .snapLast k 2) ++ b)).setNum .snapSet k 4 t)
    else .next s
  | none => .next s

end Sys2Proof.Machine
end

