-- ==== Sys2Proof/Machine/Dictionary.lean ====
section
/-! DEFINITION. The write of a dictionary entry (R429, R491, R506 to R511, R524 of spec/16_object_dictionary.md): its checks in their
order, and what the write of each entry does when served. -/

namespace Sys2Proof.Machine

open Sys2Proof

/-- Session n may write: sessions 0 and 15 always, a KMP session while it is open (R429, R491). -/
def sessionOpen (s : State) (n : Nat) : Bool :=
  n == 0 || n == 15 || (decide (n < 15) && (Sparse.find s.net.sessions n).isSome)

/-- Rules that an owning chapter states before its ranges: settings of a channel that runs (R471), and coefficient sets and band
definitions in use (R166, R307). -/
def useCheck (s : State) (o : Obj) (u sub : Nat) : Option Code :=
  match o with
  | .dmaCtl => if sub ≠ 6 ∧ dmaState s u ≠ 0 ∧ dmaState s u ≠ 3 then some .inUse else none
  | .coefSet => if setRefs s u ≠ 0 then some .inUse else none
  | .band => if bandRefs s u ≠ 0 then some .inUse else none
  | .zone => if sub = 1 ∧ s.isManager = false then some .outOfRange else none
  | _ => none

/-- A number written to an entry that keeps it, with the consequences that some settings have at once. -/
def plainWrite (s : State) (o : Obj) (u sub : Nat) (n : Int) : State :=
  let t := s.setNum o u sub n
  match o with
  | .grid => if sub = 8 then markGrid t s.now else t
  | .startup => conditionMet t
  | .din => if n ≠ s.num .din u sub ∨ sub = 3 then dinSetting t u sub else t
  | .link => if n ≠ s.num .link u sub ∧ sub ≤ 2 then linkRestart t u else t
  | .handoff => if sub = 4 then consumed t n.toNat else t
  | _ => t

/-- The bits written as 1 are cleared (R60, R549). -/
def clearBits (s : State) (o : Obj) (u sub m : Nat) : State :=
  let v := s.nat o u sub
  s.setNum o u sub (v - (v &&& m) : Nat)

/-- The hand-off ring's consumed offset may be written so (R574). -/
def consumedOk (s : State) (v : Nat) : Bool :=
  v % 16 == 0 && decide (s.nat .handoff 0 4 ≤ v) && decide (v ≤ s.nat .handoff 0 3)

/-- A flush command (R427); DMA data that it drops costs the channel that wrote it (R423). -/
def flushAny (s : State) (q v : Nat) : State × Code :=
  let n := itemCount ((s.queue q).item ++ (s.queue q).words ++ (s.queue q).pushing.toList)
  let r := flushCommand s q v
  (if r.2 = .success ∧ 193 ≤ q ∧ n ≠ 0 then dmaItemLost r.1 q else r.1, r.2)

/-- What an accepted write of an RW or WO entry does when served (R34, R510): the action of its owning rule, or its value kept. -/
def writeAction (s : State) (ses : Nat) (o : Obj) (u sub : Nat) (n : Int) (b : Bytes) : State × Code :=
  let m := n.toNat
  let done := fun (t : State) => (t, Code.success)
  match o, sub with
  | .fence, 1 => openHeld s ses m
  | .fence, 2 => commitHeld s ses m
  | .fence, 3 => abandonHeld s ses m
  | .describe, 1 => done { s with queries := Sparse.put s.queries ses m }
  | .store, 1 => storeCommand s m
  | .factoryRestore, 1 => factoryCommand s m
  | .localClock, 2 => incrementWrite s n
  | .localClock, 4 => done (setMode s m)
  | .localClock, 5 => stepWrite s n
  | .localClock, 6 => rateWrite s n
  | .grid, 10 => reanchorWrite s
  | .slate, 1 => slateRequest s m
  | .zoneSlate, 1 => zoneSlate s m
  | .route, 5 => done (s.setNum .route u 5 (m / 2 * 2 : Nat))
  | .router, 2 => done { s with ev := { s.ev with latches := [] } }
  | .router, 4 => done (raise s (88 + m) 1 ses)
  | .custody, 7 => custodyCommand s m
  | .queue, 3 => done (s.setNum .queue u 3 0)
  | .queue, 10 => flushAny s u m
  | .dmaCtl, 6 => dmaCommand s u m
  | .startup, 10 => restartCmd s m
  | .images, 7 => imageCmd s m
  | .images, 9 => segmentWrite s b
  | .debugCh, 6 => debugCommand s u m
  | .lgo, 10 => done (lgoRelease s u)
  | .routeStatus, 2 => done (clearBits s .routeStatus u 2 m)
  | .chStatus, 5 => done (clearBits s .chStatus u 5 m)
  | .injected, 1 => injRequest s m
  | .injected, 5 => done (injFlush s)
  | .cal, 1 => calCommand s m
  | .cal, 10 => done (selectionWrite s n)
  | .calImage, 1 => imageWrite s b
  | .coefSet, 1 => done (setTaps s u m)
  | .takeStat, 2 => done (netTrigger s u m)
  | .takeStat, 12 => done (s.setNum .takeStat u 12 0)
  | .takeMem, 6 => releaseWrite s m
  | .replay, 1 => done (replayWrite s b)
  | .zone, 1 => learn s
  | .snapSet, 3 => takeNow s u m
  | .handoff, 4 => if consumedOk s m then done (plainWrite s .handoff 0 4 n) else (s, .outOfRange)
  | _, _ => done (if (entryTy o u sub).isBytes then s.setBytes o u sub b else plainWrite s o u sub n)

/-- A write that passed the checks of its entry's existence, access, length and type is served (R510, R511 step 5). -/
def writeEntry (s : State) (ses : Nat) (o : Obj) (u sub : Nat) (e : Entry) (b : Bytes) : State × Code :=
  let n := if e.ty.isBytes then 0 else e.ty.decode b
  if e.acc = .rws ∨ (o = .takeStat ∧ sub = 3) then stagedWrite s ses ⟨o, u, sub, n, if e.ty.isBytes then b else []⟩
  else
    match useCheck s o u sub with
    | some c => (s, c)
    | none =>
      match fieldCheck s o u sub n b with
      | some c => (s, c)
      | none =>
        match o with
        | .band =>
          (match bandCheck s (s.setNum .band u sub n) u sub with
           | some c => (s, c)
           | none => (noteRetained (s.setNum .band u sub n) o u sub, .success))
        | _ =>
          let r := writeAction s ses o u sub n b
          (if r.2 = .success then noteRetained r.1 o u sub else r.1, r.2)

/-- The write's first checks fail with a code, or it is served (R511 steps 1 to 5). An object of an absent unit does not exist, as R8 and
R506 say, the route words of an absent cell among them, which R9 and R499 call not routable (DESIGN CHOICE, log 4). -/
def tryWrite (s : State) (ses idx sub : Nat) (b : Bytes) : State × Code :=
  if !sessionOpen s ses then (s, .noSession)
  else if notServed s idx false then (s, .inUse)
  else
    match locate idx with
    | none => (s, .noObject)
    | some (o, u) =>
      if !s.has o u then (s, .noObject)
      else if sub = 0 then (s, .access)
      else
        match o.entry u sub with
        | none => (s, .noObject)
        | some e =>
          if e.acc = .ro then (s, .access)
          else if (if e.ty.isBytes then decide (65535 < b.length) else b.length != e.ty.size) then (s, .lengthMismatch)
          else if !typeOk e.ty b then (s, .outOfRange)
          else writeEntry s ses o u sub e b

/-- One dictionary entry is written (R506 to R511, R524) and the answer counted (R535). A write that resets the hub leaves the
counts of the hub after its reset. -/
def serveWrite (s : State) (ses idx sub : Nat) (b : Bytes) : State × Code :=
  let r := tryWrite s ses idx sub b
  (if r.1.power.inReset then r.1 else answer r.1 r.2, r.2)

/-- A write to one entry of an object; a unit beyond the family's does not exist. -/
def serveObj (s : State) (ses : Nat) (o : Obj) (u sub : Nat) (b : Bytes) : State :=
  if u < o.count * o.inner then (serveWrite s ses (o.index u) sub b).1 else answer s .noObject

/-- A write of a number to one entry of an object. -/
def serveNum (s : State) (ses : Nat) (o : Obj) (u sub : Nat) (n : Int) : State :=
  serveObj s ses o u sub ((entryTy o u sub).encode n)

end Sys2Proof.Machine
end

