-- ==== Sys2Proof/Machine/Events.lean ====
section
/-! DEFINITION. The event router, its route lines, and the event recorder (R537 to R561 of spec/17_events_and_recorder.md), and the
pop of a queue (R412 of spec/13_queues_and_ordering.md). -/

namespace Sys2Proof.Machine

open Sys2Proof

/-- The events record changed. -/
def State.modEv (s : State) (f : EvSt → EvSt) : State := { s with ev := f s.ev }

/-- The record time of an occurrence (R541), in ns. -/
def eventTime (s : State) (tick : Nat) : Int := max 0 ((gridNs tick : Int) + s.num .grid 0 3)

/-- The grid was UNANCHORED at a tick (R551). -/
def unanchoredAt (s : State) (tick : Nat) : Bool := histAt s.clk.stHist tick 0 == 0

/-- The words of one entry of a recorder's snapshot list (R552, R553). -/
def snapWords (s : State) (e : Nat × Nat × Nat) : List Nat :=
  if e.2.1 = 0 then (match locate e.1 with | some (o, u) => [o.top u] | none => [0])
  else match s.entryAt e.1 e.2.1 with
    | some (o, u, r) =>
      let v := leNat (r.ty.encode ((liveNum s 16 o u e.2.1).getD (s.num o u e.2.1)))
      if r.ty.size ≤ 4 then [v] else [v % 2 ^ 32, v / 2 ^ 32]
    | none => [0]

/-- A record's bytes (R551). `flags` without EMERG. -/
def recordBytes (r : PendRec) (emerg : Bool) : Bytes :=
  let ws := r.words.flatten
  leBytes 4 r.seq ++ (Ty.time.encode r.time) ++ leBytes 1 r.src ++ leBytes 1 r.cause ++ leBytes 4 r.detail ++
    leBytes 4 r.rep ++ leBytes 1 (r.flags + 8 * b2n emerg) ++ leBytes 1 ws.length ++ leBytes 1 r.list ++ [0] ++
    padTo 96 (ws.flatMap (leBytes 4)) ++ leBytes 4 (2 ^ 32 - 1 - r.seq)

/-- Main slot k (R557). -/
def mainSlot (s : State) (k : Nat) : Bytes := s.bytes .recSlots (k / 128) (k % 128 + 1)

/-- Main slot k written. -/
def putMain (s : State) (k : Nat) (b : Bytes) : State := s.setBytes .recSlots (k / 128) (k % 128 + 1) b

/-- A slot holds the record of a sequence number (R551). -/
def holdsSeq (b : Bytes) (seq : Nat) : Bool := leAt b 0 4 == seq && leAt b 124 4 == 2 ^ 32 - 1 - seq

/-- The emergency slot that holds a sequence number. -/
def emergencyOf (s : State) (seq : Nat) : Option Nat := (s.ev.emerSeq.find? (fun p => p.1 == seq)).map (·.2)

/-- A record is still held: it waits, or a slot holds it (R554, R561). -/
def recordHeld (s : State) (seq : Nat) : Bool :=
  s.ev.recs.any (fun r => r.seq == seq) || (emergencyOf s seq).isSome ||
    (!s.ev.failMain.contains (seq % 2048) && holdsSeq (mainSlot s (seq % 2048)) seq)

/-- The recorder's sequence below which every record is complete (R558). -/
def showComplete (s : State) : State :=
  s.setNum .recorder 0 4 (match s.ev.recs with | r :: _ => r.seq | [] => s.nat .recorder 0 3 : Nat)

/-- The line of a destination that carries an act (R544): of the DMA island, pulses or MSI-X requests; of a core, take deliveries or
fault requests; the management island has one. -/
def RouteAct.line : RouteAct → Nat
  | .pulse | .take | .notify _ _ _ _ => 0
  | .msix _ | .lgo _ => 1

/-- An occurrence enters the buffer of one line of destination `l`, or is discarded there and counted (R544): each line has 64
entries. -/
def pushLine (s : State) (l : Nat) (o : RouteOcc) : State :=
  s.modEv (fun e =>
    if ((e.lines.getD l []).filter (fun x => x.act.line == o.act.line)).length < 64 then { e with lines := e.lines.modify l (· ++ [o]) }
    else { e with lineLost := e.lineLost.modify l (· + 1) })

/-- A NOTIFY is requested of the management island (R555). -/
def askNotify (s : State) (src cause detail seq rep : Nat) (time : Int) : State :=
  pushLine s 3 ⟨src, cause, s.now, .notify seq rep time detail⟩

/-- The repeat count of a stored record rises by one, in place, or REPS is set (R554): the slot's bytes 20 to 27. -/
def repeatBytes (b : Bytes) : Bytes :=
  let n := leAt b 20 4
  if n = 2 ^ 32 - 1 then b.take 24 ++ leBytes 1 (leAt b 24 1 ||| 4) ++ b.drop 25
  else b.take 20 ++ leBytes 4 (n + 1) ++ b.drop 24

/-- A merge into the record of a table entry (R554): its new repeat count and the state. -/
def mergeRecord (s : State) (seq : Nat) : State × Nat :=
  if s.ev.recs.any (fun r => r.seq == seq) then
    let up := fun (r : PendRec) => if r.seq = seq then
        (if r.rep = 2 ^ 32 - 1 then { r with flags := r.flags ||| 4 } else { r with rep := r.rep + 1 }) else r
    let s := s.modEv (fun e => { e with recs := e.recs.map up })
    (s, ((s.ev.recs.find? (fun r => r.seq == seq)).map (·.rep)).getD 1)
  else match emergencyOf s seq with
    | some e =>
      let b := repeatBytes (s.bytes .recEmergency 0 (e + 1))
      (s.setBytes .recEmergency 0 (e + 1) b, leAt b 20 4)
    | none =>
      let b := repeatBytes (mainSlot s (seq % 2048))
      (putMain s (seq % 2048) b, leAt b 20 4)

/-- The recorder takes an occurrence whose route mask has REC (R552, R554, R555). -/
def recordEvent (s : State) (e : EvItem) (kmp : Bool) : State :=
  let win := msTicks (s.nat .recorder 0 1)
  let same := fun (m : MergeEnt) => m.src == e.src && m.cause == e.cause && m.detail == e.detail
  match s.ev.merge.reverse.find? (fun m => same m && recordHeld s m.seq && decide (s.now - m.updated < win)) with
  | some m =>
    let (s, rep) := mergeRecord s m.seq
    let waits := s.ev.recs.any (fun r => r.seq == m.seq)
    let due := kmp && !waits && (match m.notified with | some t => decide (t + msTicks (s.nat .recorder 0 2) ≤ s.now) | none => true)
    let m' := { m with updated := s.now, rep := rep, notified := if due then some s.now else m.notified }
    let s := s.modEv (fun k => { k with merge := k.merge.filter (fun x => x.seq != m.seq) ++ [m'] })
    let s := (s.bump .recorder 0 6 1).bump .recorder 0 7 1
    if due then askNotify s e.src e.cause e.detail m.seq rep (eventTime s e.tick) else s
  | none =>
    let seq := s.nat .recorder 0 3
    let list := s.nat .route e.src 4
    let words := if list < 8 then (listEntries (s.bytes .snapList list 1)).map (snapWords s) else []
    let r : PendRec := { seq := seq, time := eventTime s e.tick, src := e.src, cause := e.cause, detail := e.detail, rep := 1,
                         flags := b2n (unanchoredAt s e.tick), list := list, words := words, tick := s.now, notify := kmp }
    let m : MergeEnt := ⟨e.src, e.cause, e.detail, seq, s.now, none, 1⟩
    let s := s.modEv (fun k =>
      { k with recs := k.recs ++ [r], merge := lastN 64 (k.merge ++ [m]) })
    showComplete (s.bump .recorder 0 3 1)

/-- The edge of a digital input that an event of EV16 to EV31 tells of lies within a stuck condition: it does not reach the
take engine (R264). -/
def heldFromTakes (s : State) (e : EvItem) : Bool := decide (16 ≤ e.src) && decide (e.src < 32) && stuckAt s (e.src - 16) e.tick

/-- Every route of an occurrence that passed the cause mask (R542 to R544). -/
def routeEvent (s : State) (e : EvItem) : State :=
  let mask := s.nat .route e.src 1
  let occ := fun (a : RouteAct) => (⟨e.src, e.cause, s.now, a⟩ : RouteOcc)
  let cores := fun (s : State) (a : RouteAct) =>
    let s := pushLine s 1 (occ a)
    if Config.hasCoreB s.variant then pushLine s 2 (occ a) else s
  let s := (s.bump .route e.src 7 1).setNum .route e.src 8 e.tick
  let s := if bit mask 2 then (List.range 8).foldl (fun s i =>
      if s.nat .capture (16 + i) 1 = 1 ∧ s.nat .capture (16 + i) 2 = e.src then captureAt s (16 + i) s.now 0 1 else s) s else s
  let s := if bit mask 1 then pushLine s 0 (occ .pulse) else s
  let s := if bit mask 5 then pushLine s 0 (occ (.msix (s.nat .route e.src 2))) else s
  let s := if bit mask 0 && !heldFromTakes s e then cores s .take else s
  let s := if bit mask 3 then cores s (.lgo (s.nat .route e.src 3)) else s
  if bit mask 7 then recordEvent s e (bit mask 4) else s

/-- The router takes an item at its receive tick (R540, R543, R545, R547). -/
def routeItem (s : State) (e : EvItem) : State :=
  let s := s.bump .router 0 5 1
  let s := if e.src = 85 then s.bump .router 0 6 (e.detail % 2 ^ 24) else s
  let s := if bit (s.nat .route e.src 6) e.cause ∧ s.ev.latches.contains e.src = false then
      (s.modEv (fun k => { k with latches := k.latches ++ [e.src] })).bump .router 0 7 1 else s
  if bit (s.nat .route e.src 5) e.cause then routeEvent s e else s

/-- The router pops the events queue of an island (R412, R540). -/
def popEvent (s : State) (island : Nat) (ecc : Ecc) : State :=
  match popHead s (162 + island) ecc with
  | (s, some ws) => (match ws.head? with
    | some w => (match w.ev with | some e => routeItem s e | none => s)
    | none => s)
  | (s, none) => s

/-- EVENT_ROUTED (R540): the router pops the item at the head of an island's events queue. -/
def execEventRouted (island : Nat) (ecc : Ecc) (s : State) : Host.Outcome State Fault Refusal :=
  if island < 31 ∧ hasQueue s (162 + island) = true ∧ (s.queue (162 + island)).words ≠ [] ∧ flushing s (162 + island) = false
  then .next (popEvent s island ecc)
  else .next s

/-- QUEUE_POP (R412, R418, R419): a reader pops a queue; its item, once whole, does what its reader does with it. -/
def execQueuePop (q : Nat) (ecc : Ecc) (s : State) : Host.Outcome State Fault Refusal :=
  if hasQueue s q = false ∨ (s.queue q).popWaiting = true then .next s
  else if 162 ≤ q ∧ q < 193 then .next (popEvent s (q - 162) ecc)
  else
    let lost := s.nat .queue q 8
    .next (match popHead s q ecc with
      | (s, some ws) => itemDelivered s q (ws.map (·.data))
      | (s, none) => if 193 ≤ q ∧ s.nat .queue q 8 ≠ lost then dmaItemLost s q else s)

/-- The place of a route line's buffer. -/
def lineIdx : RouteLine → Nat
  | .dma => 0 | .coreA => 1 | .coreB => 2 | .management => 3

/-- An MSI-X message is sent, or its pending bit is set while its vector is masked (R570). -/
def msixSend (s : State) (v : Nat) : State :=
  if !Config.hasHostPort s.variant ∨ 32 ≤ v then s
  else if s.host.unmasked.contains v then { s.bump .endpoint 0 12 1 with host := { s.host with lastMsg := some v } }
  else { s with host := { s.host with pendingV := if s.host.pendingV.contains v then s.host.pendingV
                                                  else s.host.pendingV ++ [v] } }

/-- A notification's body (R498). -/
def notifyBody (s : State) (src seq rep : Nat) (time : Int) : Bytes :=
  leBytes 4 s.net.notifySeq ++ leBytes 1 src ++ leBytes 3 0 ++ leBytes 4 seq ++ leBytes 4 rep ++ Ty.time.encode time ++ leBytes 2 0

/-- A NOTIFY goes to the notification sink: a worker's manager or sink MAC; a manager's sink, as a frame or a datagram (R498,
R504). -/
def sendNotify (s : State) (m : Kmp) : State :=
  let mac := s.nat .kmp 0 5
  if s.isManager then
    if mac = 0 then s
    else
      let s := s.bump .kmp 0 8 1
      let ip := s.nat .kmp 0 6
      if ip = 0 then sendKmp s 2 mac m
      else sendUdp s mac (s.nat .bridge 0 1) (s.nat .kmp 0 7) ip (s.nat .kmp 0 7) (kmpBytes m)
  else
    let up := s.nat .ring 0 2
    let dst := if mac = 0 then s.net.mgrMac else mac
    if up = 255 ∨ dst = 0 then s else sendKmp (s.bump .kmp 0 8 1) up dst m

/-- A destination acts on the oldest occurrence of its route line (R544). Take and legacy-output deliveries act in the core in
custody, whose state the model holds. -/
def lineAct (s : State) (line : RouteLine) (o : RouteOcc) : State :=
  let own := lineIdx line == 1 + s.holder
  match o.act with
  | .pulse => dmaPulse s o.src
  | .msix v => msixSend s v
  | .take => if own then deliver s (.event o.src) o.tick none else s
  | .lgo m => if own then lgoRequest s m o.tick else s
  | .notify seq rep time _ =>
    (sendNotify s (ownMessage s 0x0B (notifyBody s o.src seq rep time))).modNet (fun n =>
      { n with notifySeq := (n.notifySeq + 1) % 2 ^ 32 })

/-- ROUTE_LINE_DELIVERY (R544): a destination acts on the oldest occurrence in its buffer, at or after its receive tick. -/
def execRouteLineDelivery (line : RouteLine) (s : State) : Host.Outcome State Fault Refusal :=
  match s.ev.lines.getD (lineIdx line) [] with
  | o :: rest => .next (lineAct (s.modEv (fun e => { e with lines := e.lines.set (lineIdx line) rest })) line o)
  | [] => .next s

/-- A main slot fails (R559). -/
def failMainSlot (s : State) (k : Nat) : State :=
  if s.ev.failMain.contains k then s
  else raise (s.modEv (fun e => { e with failMain := e.failMain ++ [k] })) 86 1 k

/-- An emergency slot fails (R560). -/
def failEmergency (s : State) (e : Nat) : State :=
  if s.ev.failEmer.contains e then s
  else raise (s.modEv (fun k => { k with failEmer := k.failEmer ++ [e], sticky := true,
                                         emerSeq := k.emerSeq.filter (fun p => p.2 != e) })) 86 2 e

/-- The good emergency slot that follows the last one written (R560). -/
def nextEmergency (s : State) : Option Nat :=
  ((List.range 32).map (fun i => (s.ev.emerNext + i) % 32)).find? (fun e => !s.ev.failEmer.contains e)

/-- A record is written, whole, to its slot (R552, R555). -/
def noteWritten (s : State) (r : PendRec) : State :=
  let s := s.modEv (fun e => { e with
    recs := e.recs.filter (fun x => x.seq != r.seq)
    merge := e.merge.map (fun m => if m.seq = r.seq ∧ r.notify = true then { m with notified := some s.now } else m) })
  let s := showComplete ((s.bump .recorder 0 5 1).bump .recorder 0 7 1)
  if r.notify then askNotify s r.src r.cause r.detail r.seq r.rep r.time else s

/-- A record finds no good slot: it is counted, and notified without a sequence number (R555, R560). -/
def notStored (s : State) (r : PendRec) : State :=
  let s := showComplete ((s.modEv (fun e => { e with recs := e.recs.filter (fun x => x.seq != r.seq) })).bump .recorder 0 13 1)
  if r.notify then askNotify s r.src r.cause r.detail (2 ^ 32 - 1) 1 r.time else s

/-- A record waits, in the order of the sequence numbers, to be written. -/
def waitRecord (s : State) (r : PendRec) : State :=
  showComplete (s.modEv (fun e => { e with
    recs := e.recs.filter (fun x => decide (x.seq < r.seq)) ++ [r] ++ e.recs.filter (fun x => decide (r.seq < x.seq)) }))

/-- A record goes to the emergency bank (R560). `ok` says whether the slot's read-back is right; where it is not, the slot fails
and the record waits for the next one, if one is left. -/
def writeEmergency (s : State) (r : PendRec) (ok : Bool) : State :=
  match nextEmergency s with
  | none => notStored s r
  | some e =>
    if ok then
      let s := s.setBytes .recEmergency 0 (e + 1) (recordBytes r true)
      let s := s.modEv (fun k => { k with emerNext := (e + 1) % 32,
                                          emerSeq := k.emerSeq.filter (fun p => p.2 != e && p.1 != r.seq) ++ [(r.seq, e)] })
      noteWritten (s.bump .recorder 0 12 1) r
    else
      let s := failEmergency (s.setBytes .recEmergency 0 (e + 1) (padTo 128 (Config.failedSlot r.seq))) e
      if (nextEmergency s).isNone then notStored s r else waitRecord s r

/-- A stored record as a pending one again, from its slot. -/
def recordOf (b : Bytes) (tick : Nat) : PendRec :=
  { seq := leAt b 0 4, time := Ty.time.decode (slice b 4 10), src := leAt b 14 1, cause := leAt b 15 1, detail := leAt b 16 4,
    rep := leAt b 20 4, flags := leAt b 24 1 % 8, list := leAt b 26 1,
    words := [((chunks 4 (slice b 28 96)).map leNat).take (leAt b 25 1)], tick := tick, notify := false }

/-- RECORD_COMPLETE (R552, R559, R560): the recorder writes a record, or has rewritten one at a merge, and reads the slot back;
`mainOk` and `emergencyOk` say whether the read-backs are right. -/
def execRecordComplete (seq : Nat) (mainOk emergencyOk : Bool) (s : State) : Host.Outcome State Fault Refusal :=
  let k := seq % 2048
  match s.ev.recs.find? (fun r => r.seq == seq) with
  | some r =>
    if s.ev.failMain.contains k then .next (writeEmergency s r emergencyOk)
    else if mainOk then .next (noteWritten (putMain s k (recordBytes r false)) r)
    else .next (writeEmergency (failMainSlot (putMain s k (padTo 128 (Config.failedSlot seq))) k) r emergencyOk)
  | none =>
    match emergencyOf s seq with
    | some e =>
      let b := s.bytes .recEmergency 0 (e + 1)
      if emergencyOk = false ∧ 1 < leAt b 20 4 then
        let s := failEmergency s e
        .next (if (nextEmergency s).isNone then notStored s (recordOf b s.now) else waitRecord s (recordOf b s.now))
      else .next s
    | none =>
      let b := mainSlot s k
      if mainOk = false ∧ s.ev.failMain.contains k = false ∧ holdsSeq b seq = true ∧ 1 < leAt b 20 4 then
        .next (writeEmergency (failMainSlot s k) (recordOf b s.now) emergencyOk)
      else .next s

/-- RECORD_SNAPSHOT_TIMEOUT (R552): the entries of a record's snapshot list that have not answered within 1 ms read 0 and set
SNPX; `missing` lists them by their place in the list. -/
def execRecordSnapshotTimeout (seq : Nat) (missing : List Nat) (s : State) : Host.Outcome State Fault Refusal :=
  match s.ev.recs.find? (fun r => r.seq == seq) with
  | some r =>
    let gone := (List.range r.words.length).filter (missing.contains ·)
    if r.tick + 24576 ≤ s.now ∧ gone ≠ [] then
      let r' := { r with flags := r.flags ||| 2, words := r.words.zipIdx.map (fun (w, i) =>
        if gone.contains i then w.map (fun _ => 0) else w) }
      .next ((s.modEv (fun e => { e with recs := e.recs.map (fun x => if x.seq = seq then r' else x) })).bump .recorder 0 8
        gone.length)
    else .next s
  | none => .next s

/-- RECORDER_SLOT_READ (R557, R559): a read of a slot: bank 0 is the main bank, bank 1 the emergency bank. The sticky failure bit
is for a failed read-back alone (R560). -/
def execRecorderSlotRead (bank slot : Nat) (ecc : Ecc) (s : State) : Host.Outcome State Fault Refusal :=
  if (bank = 0 ∧ slot < 2048) ∨ (bank = 1 ∧ slot < 32) then
    let s := if ecc = .corrected then s.bump .recorder 0 9 1 else s
    if ecc = .uncorrectable then
      let f := if bank = 0 then failMainSlot s slot
        else (failEmergency s slot).modEv (fun e => { e with sticky := s.ev.sticky })
      .next { answer f .internal with ansBody := [] }
    else
      .next { answer s .success with
        ansBody := if bank = 0 then mainSlot s slot else s.bytes .recEmergency 0 (slot + 1) }
  else .next s

end Sys2Proof.Machine
end

