-- ==== Sys2Proof/Machine/Debug.lean ====
section
/-! DEFINITION. The debug port (R609 to R625 of spec/20_debug_port.md): the TAP, boundary scan, and the mailbox to the management
island. Halt, step and breakpoints are in Machine/Dma.lean. -/

namespace Sys2Proof.Machine

open Sys2Proof

/-- The debug port's record changed. -/
def State.modDbg (s : State) (f : DebugSt → DebugSt) : State := { s with dbg := f s.dbg }

/-- A debug reset (R619, R622): one that follows a write of image A by the debug port makes image A trial and preferred. -/
def debugResetNow (s : State) : State :=
  let s := if s.flash.recovery then
      (s.putImage 0 { s.image 0 with state := 1, version := (Config.imageVersion (s.image 0).data).toNat }).modFlash (fun f =>
        { f with preferred := 0, recovery := false })
    else s
  hubReset s 5

/-- Update-IR selects an instruction (R610, R613, R619): a debug reset that is due takes place, and control of the balls ends when
another instruction is selected. -/
def updateIr (s : State) (code : Nat) : State :=
  let s := if s.dbg.resetDue then debugResetNow s else s
  s.modDbg (fun d => { d with ir := code, control := d.control && d.ir == code })

/-- A data register is scanned under an instruction, which is selected first when another one was. -/
def selectIr (s : State) (code : Nat) : State := if s.dbg.ir = code then s else updateIr s code

/-- Capture-DR loads a value into the selected data register. -/
def captureDr (s : State) (v : Nat) : State := s.modDbg (fun d => { d with dr := v })

/-- The TAP works: rails 1 to 5 are good (R609). -/
def tapOn (s : State) : Bool := s.power.powered && s.nat .supply 0 11 % 32 == 31

/-- TAP_RESET (R609, R613). -/
def execTapReset (s : State) : Host.Outcome State Fault Refusal :=
  .next (if tapOn s then s.modDbg (fun d => { d with ir := 0x02, control := false }) else s)

/-- An instruction that takes the digital balls while RESET_N is held low, and otherwise acts as BYPASS, counted unless a reset holds
the count (R613, R625). -/
def takeBalls (s : State) (code : Nat) : State :=
  if s.power.held then (updateIr s code).modDbg (fun d => { d with control := true })
  else
    let s := captureDr (updateIr s 0x3F) 0
    if s.power.inReset then s else raise (s.bump .debug 0 5 1) 84 3 code

/-- EXTEST (R613). -/
def execTapExtest (s : State) : Host.Outcome State Fault Refusal := .next (if tapOn s then takeBalls s 0x00 else s)

/-- CLAMP (R613). -/
def execTapClamp (s : State) : Host.Outcome State Fault Refusal := .next (if tapOn s then takeBalls s 0x03 else s)

/-- HIGHZ (R613). -/
def execTapHighz (s : State) : Host.Outcome State Fault Refusal := .next (if tapOn s then takeBalls s 0x04 else s)

/-- SAMPLE_PRELOAD (R612, R613): `balls` are the levels of the chain's balls, cell 0 in bit 0. -/
def execSamplePreload (balls : Nat) (s : State) : Host.Outcome State Fault Refusal :=
  .next (if tapOn s then
      let v := balls % 2 ^ (s.nat .debug 0 8)
      captureDr ((updateIr s 0x01).modDbg (fun d => { d with chain := v })) v
    else s)

/-- IDCODE (R611). -/
def execTapIdcode (s : State) : Host.Outcome State Fault Refusal :=
  .next (if tapOn s then captureDr (updateIr s 0x02) (idcode s) else s)

/-- BYPASS (R610): its register is one bit, captured as 0. -/
def execTapBypass (s : State) : Host.Outcome State Fault Refusal :=
  .next (if tapOn s then captureDr (updateIr s 0x3F) 0 else s)

/-- DBGDATA_CAPTURE (R614). -/
def execDbgdataCapture (s : State) : Host.Outcome State Fault Refusal :=
  if tapOn s = false then .next s
  else
    let s := selectIr s 0x11
    match s.dbg.rbuf with
    | [] => .next (captureDr s 0)
    | w :: rest => .next (captureDr (s.modDbg (fun d => { d with rbuf := rest })) (2 ^ 64 + w))

/-- DBGDATA_UPDATE (R614): the 65 bits shifted in. While the hub is in reset no buffer takes them. -/
def execDbgdataUpdate (w : Nat) (s : State) : Host.Outcome State Fault Refusal :=
  if tapOn s = false then .next s
  else
    let s := selectIr s 0x11
    if s.power.inReset = true ∨ bit w 64 = false then .next s
    else if 8192 ≤ s.dbg.wbuf.length then .next (s.bump .debug 0 4 1)
    else .next (s.modDbg (fun d => { d with wbuf := d.wbuf ++ [w % 2 ^ 64] }))

/-- The status that DBGCMD loads at Capture-DR (R615). -/
def DebugSt.word (d : DebugSt) : Nat := d.state * 2 ^ 62 + d.code * 2 ^ 32 + d.length

/-- DBGCMD is scanned: its status is captured, and a debug reset whose status is done takes place (R615, R619). -/
def scanCmd (s : State) : State :=
  let s := selectIr s 0x10
  let s := captureDr s s.dbg.word
  if s.dbg.resetDue ∧ s.dbg.state = 2 then debugResetNow s else s

/-- What a debug command comes to: the state after it, its status and the bytes for the read buffer. -/
abbrev Served3 := State × Code × Bytes

/-- A command taken at Update-DR (R616): discarded while one is busy, and otherwise started. Its status becomes done or refused at
DEBUG_COMMAND_DONE. While the hub is in reset nothing takes it. -/
def takeCmd (s : State) (w op : Nat) (run : State → Served3) : State :=
  if tapOn s = false ∨ bits w 63 60 ≠ op then s
  else
    let s := scanCmd s
    if s.power.inReset then s
    else if s.dbg.busy.isSome then s.bump .debug 0 4 1
    else
      let s := (s.modDbg (fun d => { d with rbuf := [], state := 1, code := 0, length := 0 })).setNum .debug 0 7 s.now
      let r := run s
      if r.1.power.inReset then r.1 else r.1.modDbg (fun d => { d with busy := some (op, r.2.1, r.2.2) })

/-- The write buffer as bytes (R614). -/
def DebugSt.wbytes (d : DebugSt) : Bytes := d.wbuf.flatMap (leBytes 8)

/-- DEBUG_NO_OPERATION (R615): an operation code of 0x0 does nothing but scan the status; a code that is not listed is refused as
malformed. -/
def execDebugNoOperation (w : Nat) (s : State) : Host.Outcome State Fault Refusal :=
  let op := bits w 63 60
  if op = 0 then .next (if tapOn s then scanCmd s else s)
  else if op ∈ [1, 2, 3, 4, 8] then .next s
  else .next (takeCmd s w op (fun s => (s, .malformed, [])))

/-- An object command refused by the hub, and counted as its answer (R535). -/
def objectRefused (s : State) (c : Code) : Served3 := (answer s c, c, [])

/-- A requester outside every session, and without a MAC address (R618). -/
abbrev noRequester : Nat := 2 ^ 64

/-- DEBUG_OBJECT_READ (R615, R618). -/
def execDebugObjectRead (w : Nat) (s : State) : Host.Outcome State Fault Refusal :=
  .next (takeCmd s w 1 (fun s =>
    if bits w 59 32 ≠ 0 ∨ bits w 7 0 ≠ 0 then objectRefused s .outOfRange
    else if phase s < 3 then objectRefused s .inUse
    else serveRead s noRequester (bits w 31 16) (bits w 15 8)))

/-- DEBUG_OBJECT_WRITE (R615, R616, R618). -/
def execDebugObjectWrite (w : Nat) (s : State) : Host.Outcome State Fault Refusal :=
  .next (takeCmd s w 2 (fun s =>
    let b := s.dbg.wbytes
    let len := bits w 55 40
    let idx := bits w 31 16
    if bits w 59 56 ≠ 0 ∨ bits w 39 32 ≠ 0 ∨ bits w 7 0 ≠ 0 then objectRefused s .outOfRange
    else if b.length < len then objectRefused s .lengthMismatch
    else if phase s < 3 then objectRefused s .inUse
    else if idx = 0x1300 then objectRefused s .access
    else if (s.stage 15).held then objectRefused s .inUse
    else
      let r := serveWrite s 15 idx (bits w 15 8) (b.take len)
      (r.1, r.2, [])))

/-- The bytes of a space of R617, all but its last 8 as a limit for addresses. -/
def spaceSize (s : State) (space : Nat) : Nat :=
  match space with
  | 0 => Config.dramBytes s.variant
  | 1 => 65536
  | 2 => 266240
  | 3 => 20971520
  | _ => 0

/-- The 8 bytes of DRAM at an address; those whose place the spec does not give are free values. -/
def dramWord (s : State) (a : Nat) : Bytes :=
  (List.range 8).map (fun i =>
    if within dmaBase dmaBufSize (a + i) 1 then Sparse.get s.dmaBuf (a + i - dmaBase) 0
    else if within (regionBase s) (regionSize s) (a + i) 1 then regionLoad s (a + i - regionBase s)
    else Config.dramByte s.free (a + i))

/-- The 8 bytes of a space at an address (R617). -/
def spaceWord (s : State) (space a : Nat) : Bytes :=
  match space with
  | 0 => dramWord s a
  | 1 => sramLoad s a 8
  | 2 =>
    if a < 262144 then slice (mainSlot s (a / 128)) (a % 128) 8
    else slice (s.bytes .recEmergency 0 ((a - 262144) / 128 + 1)) (a % 128) 8
  | _ => (List.range 8).map (fun i => (Sparse.find (s.image 0).data (a + i)).getD (Config.flashByte (a + i)))

/-- The checks that both memory operations share (R615, R617, R618). -/
def memoryCheck (s : State) (w : Nat) : Option Code :=
  let space := bits w 59 56
  let a := bits w 47 0
  if 4 ≤ space ∨ a % 8 ≠ 0 ∨ spaceSize s space < a + 8 * (bits w 55 48 + 1) then some .outOfRange
  else if space ≠ 3 ∧ phase s < 2 then some .inUse
  else none

/-- DEBUG_MEMORY_READ (R617): `bad` names the word, if any, that an uncorrectable error meets; the command stops there. -/
def execDebugMemoryRead (w : Nat) (bad : Option Nat) (s : State) : Host.Outcome State Fault Refusal :=
  .next (takeCmd s w 3 (fun s =>
    match memoryCheck s w with
    | some c => (s, c, [])
    | none =>
      let n := bits w 55 48 + 1
      let good := match bad with | some k => min k n | none => n
      let b := (List.range good).flatMap (fun i => spaceWord s (bits w 59 56) (bits w 47 0 + 8 * i))
      ({ s with free := s.free + 1 }, if good < n then .internal else .success, b)))

/-- Bytes written to image A by the debug port (R622): the first such write empties the image. -/
def recoverImage (s : State) (a : Nat) (b : Bytes) : State :=
  let s := if s.flash.recovery then s
    else (s.putImage 0 ⟨0, 0, []⟩).modFlash (fun f => { f with recovery := true })
  showFlash (s.putImage 0 { s.image 0 with data := putBytes (s.image 0).data a b })

/-- DEBUG_MEMORY_WRITE (R616, R617, R622). -/
def execDebugMemoryWrite (w : Nat) (s : State) : Host.Outcome State Fault Refusal :=
  .next (takeCmd s w 4 (fun s =>
    let n := 8 * (bits w 55 48 + 1)
    let a := bits w 47 0
    let b := s.dbg.wbytes
    match memoryCheck s w with
    | some c => (s, c, [])
    | none =>
      if b.length < n then (s, .lengthMismatch, [])
      else match bits w 59 56 with
        | 0 =>
          if within dmaBase dmaBufSize a n then
            ({ s with dmaBuf := regionStore s.dmaBuf (a - dmaBase) (b.take n) }, .success, [])
          else (s, .outOfRange, [])
        | 1 => (sramStore s a (b.take n), .success, [])
        | 3 => if s.power.bootOk then (s, .outOfRange, []) else (recoverImage s a (b.take n), .success, [])
        | _ => (s, .outOfRange, [])))

/-- DEBUG_RESET (R619): the reset waits until the command's status has been captured as done, or for the next Update-IR. -/
def execDebugReset (w : Nat) (s : State) : Host.Outcome State Fault Refusal :=
  .next (takeCmd s w 8 (fun s =>
    if bits w 59 0 ≠ 0 then (s, .outOfRange, []) else (s.modDbg (fun d => { d with resetDue := true }), .success, [])))

/-- DEBUG_COMMAND_DONE (R615, R616, R624): the command that is busy ends: its status becomes done or refused, its bytes stand in the read
buffer, and a write empties the write buffer. -/
def execDebugCommandDone (s : State) : Host.Outcome State Fault Refusal :=
  match s.dbg.busy with
  | none => .next s
  | some (op, c, b) =>
    let ok := c == .success
    let s := s.modDbg (fun d => { d with
      busy := none, state := if ok then 2 else 3, code := c.num, length := b.length
      rbuf := (chunks 8 b).map leNat, wbuf := if op = 2 ∨ op = 4 then [] else d.wbuf })
    .next (s.bump .debug 0 (if ok then 3 else 4) 1)

end Sys2Proof.Machine
end

