-- ==== Sys2Proof/Machine/DmaDictionary.lean ====
section
/-! DEFINITION. The answers to the dictionary requests of DMA channels (R448, R466 to R468 of spec/14_channel_programs.md). -/

namespace Sys2Proof.Machine

open Sys2Proof

/-- A channel's dictionary write is served in session 15; one to an object of the channel's own is refused (R448). -/
def channelWrite (s : State) (c : Nat) (r : DmaReq) : State × Code :=
  if ownObject c r.idx then (answer s .inUse, .inUse) else serveWrite s 15 r.idx r.sub r.data

/-- A request of a running channel is refused: the channel faults, unless serving it has ended the run (R467 causes 7 and 8). -/
def requestFault (s : State) (c cause : Nat) (r : DmaReq) (code : Nat) : State :=
  if dmaState s c = 0 ∨ dmaState s c = 3 then s else dmaFault s c cause 2 3 (r.idx * 256 + r.sub) code

/-- The answer to a channel's read: the value followed by zeros up to the count, or a fault (R448). -/
def readAnswered (s : State) (c : Nat) (r : DmaReq) : State :=
  let (s, code, v) := serveRead s 15 r.idx r.sub
  if code ≠ .success then requestFault s c 7 r code.num
  else if r.count < v.length then requestFault s c 8 r 0
  else s.modCh c (fun k => { k with move := k.move.map (fun m => { m with data := some v }), at_ := s.now })

/-- The answer to a channel's write. A write that resets the hub leaves no channel to answer. -/
def writeAnswered (s : State) (c : Nat) (r : DmaReq) : State :=
  let (s, code) := channelWrite s c r
  if s.power.inReset = true ∨ code = .success then s else requestFault s c 7 r code.num

/-- DICTIONARY_ANSWER (R448): the oldest dictionary request of a channel is served and its answer comes back. Writes of a run that
has ended are served first, and nobody awaits their answers. -/
def execDictionaryAnswer (c : Nat) (s : State) : Host.Outcome State Fault Refusal :=
  match s.dma.orphans.find? (fun p => p.1 == c) with
  | some (_, r) => .next (channelWrite (s.modDma (fun d => { d with orphans := d.orphans.erase (c, r) })) c r).1
  | none =>
    match (s.dmaCh c).reqs with
    | [] => .next s
    | r :: rest =>
      let s := s.modCh c (fun k => { k with reqs := rest })
      .next (if r.write then writeAnswered s c r else readAnswered s c r)

end Sys2Proof.Machine
end

