-- ==== Sys2Proof/Machine/HostPort.lean ====
section
/-! DEFINITION. The host port (R563 to R576 of spec/18_host_port_and_legacy_outputs.md): the endpoint's resets and link, the request
slots, the doorbells, writes through BAR2 and MSI-X masking. -/

namespace Sys2Proof.Machine

open Sys2Proof

/-- The host port's record changed. -/
def State.modHost (s : State) (f : HostSt → HostSt) : State := { s with host := f s.host }

/-- The endpoint runs: the variant has one, the hub is powered and out of reset, and an image was found (R563, R594). -/
def hostOn (s : State) : Bool := Config.hasHostPort s.variant && s.power.powered && !s.power.inReset && s.power.bootOk

/-- The endpoint runs and its link is up. -/
def hostUp (s : State) : Bool := hostOn s && s.nat .endpoint 0 1 == 1

/-- The link goes down (R575, R576). -/
def linkLost (s : State) : State :=
  raise ((((s.setNum .endpoint 0 1 0).setNum .endpoint 0 2 0).setNum .endpoint 0 3 0).bump .endpoint 0 8 1) 79 2 0

/-- The endpoint is reset (R564): the link goes down, session 0 closes, and slots, waiting answers and MSI-X are cleared. The slot that is
being served, the first in doorbell order, is still to complete. -/
def endpointReset (s : State) : State :=
  let s := if s.nat .endpoint 0 1 = 1 then linkLost s else s
  let s := abandonSet s 0
  { s with queries := Sparse.del s.queries 0
           host := { slots := [], busy := [], ansVec := 0, unmasked := [], pendingV := [], lastMsg := none,
                     cut := s.host.cut || !s.host.busy.isEmpty } }

/-- PERST (R564): PERST_N is asserted. -/
def execPerst (s : State) : Host.Outcome State Fault Refusal := .next (if hostOn s then endpointReset s else s)

/-- FUNCTION_LEVEL_RESET (R564): the effect of PERST_N. -/
def execFunctionLevelReset (s : State) : Host.Outcome State Fault Refusal := .next (if hostOn s then endpointReset s else s)

/-- HOST_LINK_UP (R576): the link trains, at a speed in 0.1 GT/s and a width (R563, R575). -/
def execHostLinkUp (speed width : Nat) (s : State) : Host.Outcome State Fault Refusal :=
  .next (if hostOn s = true ∧ s.nat .endpoint 0 1 = 0 ∧ speed ∈ [25, 50, 80] ∧ width ∈ [1, 2] then
      raise (((s.setNum .endpoint 0 1 1).setNum .endpoint 0 2 speed).setNum .endpoint 0 3 width) 79 1 0
    else s)

/-- HOST_LINK_DOWN (R576). -/
def execHostLinkDown (s : State) : Host.Outcome State Fault Refusal := .next (if hostUp s then linkLost s else s)

/-- Request slot k. -/
def State.slot (s : State) (k : Nat) : HostSlot := Sparse.get s.host.slots k ⟨0, 0, 0, 0, []⟩

/-- Request slot k replaced. -/
def putSlot (s : State) (k : Nat) (x : HostSlot) : State := s.modHost (fun h => { h with slots := Sparse.put h.slots k x })

/-- SLOT_DOORBELL (R566, R567): a write of the slot doorbell; `vec` is the answer vector register as the host last wrote it. -/
def execSlotDoorbell (w vec : Nat) (s : State) : Host.Outcome State Fault Refusal :=
  if hostUp s = false ∨ 16 ≤ w then .next s
  else
    let s := s.modHost (fun h => { h with ansVec := vec })
    .next (if s.host.busy.contains w then raise (s.bump .endpoint 0 7 1) 79 3 w
      else (putSlot s w { s.slot w with status := (s.slot w).status % 2 ^ 31 }).modHost (fun h =>
        { h with busy := h.busy ++ [w] }))

/-- The access that a slot holds is served in session 0: the state after it, the status and the value read (R567, R568). -/
def slotAccess (s : State) (head len : Nat) (value : Bytes) : State × Code × Bytes :=
  let idx := bits head 23 8
  let sub := bits head 7 0
  if bits head 27 24 ≠ 0 then (answer s .outOfRange, .outOfRange, [])
  else
    match bits head 31 28 with
    | 1 =>
      let r := serveRead s 0 idx sub
      if 65535 < r.2.2.length then (answer s .lengthMismatch, .lengthMismatch, []) else r
    | 2 =>
      let r := serveWrite s 0 idx sub (padTo (min len 65536) value)
      (r.1, r.2, [])
    | _ => (answer s .malformed, .malformed, [])

/-- The answer vector signals an answered slot when it is enabled (R566, R567). -/
def signalAnswer (s : State) : State := if bit s.host.ansVec 31 then msixSend s (bits s.host.ansVec 4 0) else s

/-- SLOT_ANSWER (R564, R567, R568): the hub serves the slot whose doorbell came first; the operands are the slot's contents as the hub
reads them. The answer of one that a reset of the endpoint has cut is discarded, and a write that resets the hub is not answered. -/
def execSlotAnswer (head len tag : Nat) (value : Bytes) (s : State) : Host.Outcome State Fault Refusal :=
  if s.host.cut then
    let s := (slotAccess s head len value).1
    .next (s.modHost (fun h => { h with cut := false }))
  else
  match s.host.busy with
  | [] => .next s
  | k :: rest =>
    let r := slotAccess s head len value
    if r.1.power.inReset then .next r.1
    else
      let read := bits head 31 28 == 1
      let x : HostSlot := { head := head, len := if read then r.2.2.length else len, status := 2 ^ 31 + r.2.1.num, tag := tag
                            value := if read then r.2.2 else value }
      .next (signalAnswer (((putSlot r.1 k x).modHost (fun h => { h with busy := rest })).bump .endpoint 0 6 1))

/-- What a 32-bit read of the host-port registers of BAR0 returns (R565, R566); write-only and reserved offsets read 0. -/
def bar0Reg (s : State) (off : Nat) : Nat :=
  match off with
  | 0x000 => variantCode s.variant * 65536 + s.nat .identity 0 11
  | 0x004 => b2n (decide (3 ≤ phase s)) + 2 * b2n (phase s == 6) + 4 * b2n (faultN s)
  | 0x00C => s.host.busy.foldl setBit 0
  | 0x010 => s.now % 2 ^ 32
  | 0x014 => s.now / 2 ^ 32 % 2 ^ 32
  | 0x018 => s.nat .endpoint 0 7
  | 0x01C => s.host.ansVec
  | 0x024 => s.nat .endpoint 0 10
  | _ => 0

/-- The byte of a request slot at an offset (R567). -/
def slotByte (x : HostSlot) (off : Nat) : Byte :=
  if off < 16 then (leBytes 4 x.head ++ leBytes 4 x.len ++ leBytes 4 x.status ++ leBytes 4 x.tag).getD off 0
  else if 0x100 ≤ off then x.value.getD (off - 0x100) 0
  else 0

/-- What a read of a byte of BAR0 returns (R565): registers, pending bits, slots and the recorder's banks in place; a reserved range
reads zeros. The MSI-X table is the host's. -/
def bar0Byte (s : State) (off : Nat) : Byte :=
  if off < 0x1000 then (leBytes 4 (bar0Reg s (off / 4 * 4))).getD (off % 4) 0
  else if 0x2000 ≤ off ∧ off < 0x2008 then (leBytes 8 (s.host.pendingV.foldl setBit 0)).getD (off % 8) 0
  else if 0x200000 ≤ off ∧ off < 0x400000 then slotByte (s.slot ((off - 0x200000) / 0x20000)) (off % 0x20000)
  else if 0x400000 ≤ off ∧ off < 0x440000 then (mainSlot s ((off - 0x400000) / 128)).getD (off % 128) 0
  else if 0x440000 ≤ off ∧ off < 0x441000 then (s.bytes .recEmergency 0 ((off - 0x440000) / 128 + 1)).getD (off % 128) 0
  else 0

/-- EVENT_DOORBELL (R566): a write of the event doorbell raises a software event as session 0 would. -/
def execEventDoorbell (w : Nat) (s : State) : Host.Outcome State Fault Refusal :=
  .next (if hostUp s then serveNum s 0 .router 0 4 (w % 8 : Nat) else s)

/-- BAR2_WRITE (R569): a write at an offset of BAR2. -/
def execBar2Write (offset : Nat) (bs : Bytes) (s : State) : Host.Outcome State Fault Refusal :=
  if hostUp s = false ∨ 67108864 < offset + bs.length then .next s
  else
    let a := s.nat .endpoint 0 10 * 1048576 + offset
    .next (if within dmaBase dmaBufSize a bs.length then { s with dmaBuf := regionStore s.dmaBuf (a - dmaBase) bs }
      else raise (s.bump .endpoint 0 11 1) 79 4 (offset / 64))

/-- MSIX_UNMASK (R570): a vector is unmasked, and a message is sent for all that is pending on it. -/
def execMsixUnmask (v : Nat) (s : State) : Host.Outcome State Fault Refusal :=
  if hostUp s = false ∨ 32 ≤ v then .next s
  else
    let held := s.host.pendingV.contains v
    let s := s.modHost (fun h => { h with unmasked := if h.unmasked.contains v then h.unmasked else h.unmasked ++ [v]
                                          pendingV := h.pendingV.filter (· != v) })
    .next (if held then msixSend s v else s)

/-- BAD_REQUEST_RECEIVED (R575, R576): a poisoned or unsupported request. -/
def execBadRequestReceived (s : State) : Host.Outcome State Fault Refusal :=
  .next (if hostUp s then raise (s.bump .endpoint 0 9 1) 79 4 0 else s)

end Sys2Proof.Machine
end

