-- ==== Sys2Proof/Machine/Kmp.lean ====
section
/-! DEFINITION. The management protocol's requests and the manager's bridge (R489 to R503 of spec/15_ports_and_kmp.md). A command
acts on the oldest message of its type that waits; with none it does nothing (log 3). -/

namespace Sys2Proof.Machine

open Sys2Proof

/-- A waiting message that this hub serves itself, and not its bridge. -/
def servesLocal (s : State) (rx : Rx) (m : Kmp) : Bool :=
  !(bit m.flags 0) && (!forBridge s rx.port m || (m.ident == allHubs && m.ty == 0x0A))

/-- The waiting KMP messages with their places. -/
def inboxMsgs (s : State) : List (Nat × Rx × Kmp) :=
  s.net.inbox.zipIdx.filterMap (fun (r, i) =>
    match frameKmp r.frame with
    | some (b, d) => (kmpParse b d).map (fun m => (i, r, m))
    | none => none)

/-- The first waiting request that this hub serves and that meets a condition; requests of one session keep their order (R495). -/
def inboxReq (s : State) (p : Kmp → Bool) : Option (Nat × Rx × Kmp) :=
  let msgs := (inboxMsgs s).filter (fun (_, r, m) => servesLocal s r m)
  msgs.find? (fun (i, _, m) => p m &&
    !(m.ses != 0 && msgs.any (fun (j, _, x) => decide (j < i) && x.ses == m.ses)))

/-- A session's record replaced. -/
def putSess (s : State) (n : Nat) (k : Sess) : State :=
  s.modNet (fun x => { x with sessions := Sparse.put x.sessions n k })

/-- The session's answer is kept among its last eight (R495). -/
def keepAnswer (s : State) (ses tid : Nat) (c : Code) (body : Bytes) : State :=
  match Sparse.find s.net.sessions ses with
  | some k => putSess s ses { k with kept := lastN 8 (k.kept ++ [(tid, c.num, body)]) }
  | none => s

/-- How a request uses its session field (R491): none, optional, required. -/
inductive SesUse
  | none_
  | optional
  | required
  deriving DecidableEq, Repr

/-- What a request is answered with; `none` where it is not answered. -/
abbrev Served := State × Option (Code × Bytes)

/-- The answer to a request leaves, if it has one. -/
def sendAnswer (r : Served) (rx : Rx) (m : Kmp) (ses : Nat) : State :=
  match r.2 with
  | some (c, body) => reply r.1 rx (answerTo r.1 m ses c body)
  | none => r.1

/-- A waiting request is served: its session is refreshed, a repeated transaction gets the kept answer, a session that is not open is
refused (R491, R494, R495). -/
def serveRequest (s : State) (p : Kmp → Bool) (use : SesUse) (run : State → Rx → Kmp → Served) : State :=
  match inboxReq s p with
  | none => s
  | some (i, rx, m) =>
    let s := dropInbox s i
    let served := s.bump .kmp 0 2 1
    if use = .none_ then sendAnswer (run served rx m) rx m m.ses
    else if m.ses = 0 then
      (if use = .required then sendAnswer (s, some (.noSession, [])) rx m 0 else sendAnswer (run served rx m) rx m 0)
    else match Sparse.find s.net.sessions m.ses with
      | none => sendAnswer (s, some (.noSession, [])) rx m m.ses
      | some k =>
        let s := putSess s m.ses { k with last := max k.last rx.tick }
        match k.kept.find? (fun a => a.1 == m.tid) with
        | some a => reply s rx { answerTo s m m.ses .success a.2.2 with status := a.2.1 }
        | none =>
          let r := run (s.bump .kmp 0 2 1) rx m
          match r.2 with
          | some (c, body) => sendAnswer (keepAnswer r.1 m.ses m.tid c body, r.2) rx m m.ses
          | none => r.1

/-- Who asks: the session, or the MAC address of a requester without one (R529). -/
def whoOf (rx : Rx) (m : Kmp) : Nat := if m.ses = 0 then 16 + rx.frame.src else m.ses

/-- The entries of a READ request (R492); none where the body does not fit. -/
def readEntries (b : Bytes) : Option (List (Nat × Nat)) :=
  let c := leAt b 0 1
  let es := chunks 4 (b.drop 4)
  if 1 ≤ c ∧ c ≤ 32 ∧ leAt b 1 3 = 0 ∧ b.length = 4 + 4 * c ∧ es.all (fun e => leAt e 3 1 == 0) = true then
    some (es.map (fun e => (leAt e 0 2, leAt e 2 1)))
  else none

/-- One entry of a READ answer (R492); a value that does not fit the space left is not carried. -/
def readOne (who room : Nat) (a : State × Bytes) (e : (Nat × Nat) × Nat) (later : Nat) : State × Bytes :=
  let (s, c, v) := serveRead a.1 who e.1.1 e.1.2
  let entry := leBytes 2 c.num ++ leBytes 2 v.length ++ padTo (ceilTo 4 v.length) v
  if a.2.length + entry.length + 4 * later ≤ room then (s, a.2 ++ entry)
  else (answer a.1 .lengthMismatch, a.2 ++ leBytes 2 Code.lengthMismatch.num ++ leBytes 2 0)

/-- The entries of a READ served in order. -/
def readAll (s : State) (who room : Nat) (es : List (Nat × Nat)) : State × Bytes :=
  es.zipIdx.foldl (fun a e => readOne who room a e (es.length - 1 - e.2)) (s, [])

/-- READ (R492). -/
def execKmpRead (s : State) : Host.Outcome State Fault Refusal :=
  .next (serveRequest s (fun m => m.ty == 0x01) .optional (fun s rx m =>
    match readEntries m.body with
    | none => (s, some (.malformed, []))
    | some es =>
      let (s, b) := readAll s (whoOf rx m) (answerRoom rx m - 24) es
      (s, some (.success, b))))

/-- The entries of a WRITE request after its count (R492). -/
def writeEntries : Nat → Bytes → Option (List (Nat × Nat × Bytes))
  | 0, b => if b = [] then some [] else none
  | n + 1, b =>
    let l := leAt b 4 2
    if b.length < 8 + ceilTo 4 l ∨ leAt b 3 1 ≠ 0 ∨ leAt b 6 2 ≠ 0 then none
    else (writeEntries n (b.drop (8 + ceilTo 4 l))).map ((leAt b 0 2, leAt b 2 1, slice b 8 l) :: ·)

/-- The entries of a WRITE served in order (R492). -/
def writeAll (s : State) (ses : Nat) (es : List (Nat × Nat × Bytes)) : State × List Code :=
  es.foldl (fun a e =>
    let (s, c) := serveWrite a.1 ses e.1 e.2.1 e.2.2
    (s, a.2 ++ [c])) (s, [])

/-- WRITE (R492). -/
def execKmpWrite (s : State) : Host.Outcome State Fault Refusal :=
  .next (serveRequest s (fun m => m.ty == 0x02) .required (fun s _ m =>
    let c := leAt m.body 0 1
    if c < 1 ∨ 32 < c ∨ leAt m.body 1 3 ≠ 0 then (s, some (.malformed, []))
    else match writeEntries c (m.body.drop 4) with
      | none => (s, some (.malformed, []))
      | some es =>
        let (s, cs) := writeAll s m.ses es
        (s, some (.success, padTo (ceilTo 4 (2 * cs.length)) (cs.flatMap (fun c => leBytes 2 c.num))))))

/-- The copy that a requester reads from, if one is in place (R493). -/
def copyOf (s : State) (ses mac : Nat) : Option BlockCopy :=
  s.net.copies.find? (fun k => k.ses == ses && (ses != 0 || k.mac == mac))

/-- The requester's copy replaced or dropped. -/
def putCopy (s : State) (ses mac : Nat) (k : Option BlockCopy) : State :=
  s.modNet (fun n => { n with
    copies := n.copies.filter (fun k => !(k.ses == ses && (ses != 0 || k.mac == mac))) ++ k.toList })

/-- The body of a READ BLOCK answer (R493). -/
def blockBody (total off : Nat) (data : Bytes) : Bytes :=
  leBytes 8 total ++ leBytes 8 off ++ leBytes 2 data.length ++ leBytes 2 0 ++ padTo (ceilTo 4 data.length) data

/-- A segment of a copy (R493). -/
def copySegment (s : State) (v : Bytes) (off len : Nat) : State × Code × Bytes :=
  if v.length ≤ off ∧ v ≠ [] then (answer s .outOfRange, .outOfRange, [])
  else (s, .success, blockBody v.length off (slice v off len))

/-- A READ BLOCK of an object (R493). -/
def readObjectBlock (s : State) (rx : Rx) (m : Kmp) (idx sub off len : Nat) : State × Code × Bytes :=
  let mac := rx.frame.src
  if off = 0 then
    let (s, c, v) := serveRead s (whoOf rx m) idx sub
    if c = .success then copySegment (putCopy s m.ses mac (some ⟨m.ses, mac, idx, sub, v⟩)) v 0 len
    else (putCopy s m.ses mac none, c, [])
  else
    match copyOf s m.ses mac with
    | some k =>
      if k.idx = idx ∧ k.sub = sub then copySegment s k.data off len
      else (answer (putCopy s m.ses mac none) .blockSequence, .blockSequence, [])
    | none => (answer s .blockSequence, .blockSequence, [])

/-- A range of the capture region lies between the release offset and the write offset (R290, R493). -/
def regionHeld (s : State) (off len : Nat) : Bool :=
  let w := s.nat .takeMem 0 5
  let r := s.nat .takeMem 0 6
  if r ≤ w then decide (r ≤ off) && decide (off + len ≤ w)
  else (decide (r ≤ off) && decide (off + len ≤ regionSize s)) || decide (off + len ≤ w)

/-- READ_BLOCK (R493, R502). -/
def execReadBlock (s : State) : Host.Outcome State Fault Refusal :=
  .next (serveRequest s (fun m => m.ty == 0x03) .optional (fun s rx m =>
    let b := m.body
    let idx := leAt b 2 2
    let sub := leAt b 4 1
    let off := leAt b 8 8
    let len := leAt b 16 2
    let deny := fun (c : Code) => ((answer s c, some (c, [])) : Served)
    if b.length ≠ 20 ∨ leAt b 1 1 ≠ 0 ∨ leAt b 5 3 ≠ 0 ∨ leAt b 18 2 ≠ 0 then (s, some (.malformed, []))
    else if len < 1 ∨ 1440 < len ∨ (answerRoom rx m = 1472 ∧ 1424 < len) then deny .outOfRange
    else match leAt b 0 1 with
      | 0 => let (s, c, v) := readObjectBlock s rx m idx sub off len; (s, some (c, v))
      | 1 =>
        if idx ≠ 0 ∨ sub ≠ 0 ∨ regionHeld s off len = false then deny .outOfRange
        else (answer s .success, some (.success,
          blockBody (regionSize s) off ((List.range len).map (fun i => regionLoad s (off + i)))))
      | _ => deny .outOfRange))

/-- The assembled data of a session's WRITE BLOCK (R493). -/
def putAsm (s : State) (ses : Nat) (a : Option (Nat × Nat × Nat × Bytes)) : State :=
  match Sparse.find s.net.sessions ses with
  | some k => putSess s ses { k with asm := a }
  | none => s

/-- WRITE_BLOCK (R493): a segment joins the session's data; the last one makes the write. -/
def execWriteBlock (s : State) : Host.Outcome State Fault Refusal :=
  .next (serveRequest s (fun m => m.ty == 0x04) .required (fun s _ m =>
    let b := m.body
    let idx := leAt b 0 2
    let sub := leAt b 2 1
    let total := leAt b 4 4
    let off := leAt b 8 4
    let len := leAt b 12 2
    let asm := (Sparse.find s.net.sessions m.ses).bind (·.asm)
    let held : Option Bytes := if off = 0 then some [] else match asm with
      | some (i, u, t, d) => if i = idx ∧ u = sub ∧ t = total ∧ d.length = off then some d else none
      | none => none
    if b.length ≠ 16 + ceilTo 4 len ∨ leAt b 3 1 ≠ 0 ∨ leAt b 14 2 ≠ 0 then (s, some (.malformed, []))
    else if len < 1 ∨ 1440 < len ∨ total < 1 ∨ 65535 < total then (answer s .outOfRange, some (.outOfRange, []))
    else match held with
      | none => (answer (putAsm s m.ses none) .blockSequence, some (.blockSequence, []))
      | some d =>
        let v := d ++ slice b 16 len
        if total < v.length then (answer (putAsm s m.ses none) .blockSequence, some (.blockSequence, []))
        else if v.length = total then
          let (s, c) := serveWrite (putAsm s m.ses none) m.ses idx sub v
          (s, some (c, []))
        else (putAsm s m.ses (some (idx, sub, total, v)), some (.success, []))))

/-- The sessions of 1 to 14 that are not open. -/
def freeSessions (s : State) : List Nat :=
  ((List.range 14).map (· + 1)).filter (fun n => (Sparse.find s.net.sessions n).isNone)

/-- OPEN_SESSION (R494): a session opens with its timeout; which one is a free value. -/
def openSession (s : State) (rx : Rx) (m : Kmp) : State :=
  let t := leAt m.body 0 2
  let l := freeSessions s
  let n := l.getD ((Config.sessionPick s.free).toNat % max 1 l.length) 0
  if m.body.length ≠ 12 ∨ leAt m.body 2 2 ≠ 0 then sendAnswer (s, some (.malformed, [])) rx m 0
  else if t < 1 ∨ 3600 < t then sendAnswer (s, some (.outOfRange, [])) rx m 0
  else if n = 0 then sendAnswer (s, some (.sessionsExhausted, [])) rx m 0
  else
    let s := putSess s.draw n { timeout := t, tag := leAt m.body 4 8, last := s.now, kept := [], asm := none }
    sendAnswer (s, some (.success, leBytes 2 t ++ leBytes 2 0)) rx m n

/-- OPEN_SESSION (R494). -/
def execOpenSession (s : State) : Host.Outcome State Fault Refusal :=
  match inboxReq s (fun m => m.ty == 0x05) with
  | some (i, rx, m) => .next (openSession ((dropInbox s i).bump .kmp 0 2 1) rx m)
  | none => .next s

/-- A session closes: its held set is abandoned (R436, R494); its query, its copy and its answers go. -/
def closeSes (s : State) (n : Nat) : State :=
  let s := abandonSet s n
  let s := s.modNet (fun x => { x with sessions := Sparse.del x.sessions n, copies := x.copies.filter (fun k => k.ses != n) })
  { s with queries := Sparse.del s.queries n }

/-- CLOSE_SESSION (R494). -/
def execCloseSession (s : State) : Host.Outcome State Fault Refusal :=
  .next (serveRequest s (fun m => m.ty == 0x06) .required (fun s _ m =>
    if m.body ≠ [] then (s, some (.malformed, [])) else (closeSes s m.ses, some (.success, []))))

/-- KEEPALIVE (R494): it changes nothing but the session's timeout. -/
def execKeepalive (s : State) : Host.Outcome State Fault Refusal :=
  .next (serveRequest s (fun m => m.ty == 0x07) .required (fun s _ m =>
    (s, some (if m.body ≠ [] then .malformed else .success, []))))

/-- SESSION_EXPIRY (R494): the first session that no request has named for its timeout closes. -/
def execSessionExpiry (s : State) : Host.Outcome State Fault Refusal :=
  match s.net.sessions.find? (fun p => decide (p.2.last + p.2.timeout * 24576000 ≤ s.now)) with
  | some (n, _) => .next (raise ((closeSes s n).bump .kmp 0 4 1) 76 1 n)
  | none => .next s

/-- A FENCE request (R496): the write of object 0x1300 that its operation names, and the effective tick of an accepted commit. -/
def fenceRequest (s : State) (m : Kmp) : Served :=
  let op := leAt m.body 0 1
  if m.body.length ≠ 12 ∨ leAt m.body 1 3 ≠ 0 then (s, some (.malformed, []))
  else if op < 1 ∨ 3 < op then (s, some (.outOfRange, leBytes 8 0))
  else
    let v := if op = 2 then slice m.body 4 8 else [1]
    let (s, c) := serveWrite s m.ses 0x1300 op v
    (s, some (c, leBytes 8 (if op = 2 ∧ c = .success then s.nat .session m.ses 4 else 0)))

/-- KMP_FENCE_OPEN_SET (R496): operation 1; an operation that R496 does not list is refused here. -/
def execKmpFenceOpenSet (s : State) : Host.Outcome State Fault Refusal :=
  .next (serveRequest s (fun m => m.ty == 0x08 && leAt m.body 0 1 != 2 && leAt m.body 0 1 != 3) .required
    (fun s _ m => fenceRequest s m))

/-- KMP_FENCE_COMMIT (R496): operation 2. -/
def execKmpFenceCommit (s : State) : Host.Outcome State Fault Refusal :=
  .next (serveRequest s (fun m => m.ty == 0x08 && leAt m.body 0 1 == 2) .required (fun s _ m => fenceRequest s m))

/-- KMP_FENCE_ABANDON (R496): operation 3. -/
def execKmpFenceAbandon (s : State) : Host.Outcome State Fault Refusal :=
  .next (serveRequest s (fun m => m.ty == 0x08 && leAt m.body 0 1 == 3) .required (fun s _ m => fenceRequest s m))

/-- SLATE_COMMAND (R497): a worker takes a SLATE from its manager alone, and applies R225. -/
def execSlateCommand (s : State) : Host.Outcome State Fault Refusal :=
  .next (serveRequest s (fun m => m.ty == 0x09) .none_ (fun s rx m =>
    if m.body.length ≠ 8 then (s, some (.malformed, []))
    else if s.isManager ∨ rx.frame.src ≠ s.net.mgrMac then (s, some (.access, []))
    else let (s, c) := slateRequest s (leNat m.body); (s, some (c, []))))

/-- TAKE_TRIGGER (R272, R497): the take is triggered; one addressed to all hubs is not answered, and a manager that has it through its
bridge sends it to the zone. -/
def execTakeTrigger (s : State) : Host.Outcome State Fault Refusal :=
  .next (serveRequest s (fun m => m.ty == 0x0A) .optional (fun s rx m =>
    let t := leAt m.body 0 1
    let zone := m.ident == allHubs
    let c : Code := if m.body.length ≠ 16 ∨ leAt m.body 1 7 ≠ 0 then .malformed else if 16 ≤ t then .outOfRange else .success
    let s := if c = .success then netTrigger s t (leAt m.body 8 8) else s
    let s := if zone ∧ s.isManager = true ∧ rx.port = 2 ∧ c = .success then
        [0, 1].foldl (fun s p => sendKmp s p zoneGroup { m with flags := setBit m.flags 1 }) s else s
    (s, if zone then none else some (c, []))))

/-- NOTIFY (R498): a manager passes a worker's notification on to its sink. -/
def execNotify (s : State) : Host.Outcome State Fault Refusal :=
  match (inboxMsgs s).find? (fun (_, _, m) => m.ty == 0x0B && !(bit m.flags 0)) with
  | some (i, _, m) => .next (let s := dropInbox s i; if s.isManager then sendNotify s m else s)
  | none => .next s

/-- Two clients are one: the same MAC address and, over UDP, the same address and port. -/
def sameClient (a b : Frame) : Bool :=
  a.src == b.src && (match a.content, b.content with
    | .udp i p _ _ _, .udp j q _ _ _ => i == j && p == q
    | .kmp _, .kmp _ => true
    | _, _ => false)

/-- The bridge decides a request from port C (R503). -/
def bridgeRequest (s : State) (rx : Rx) (m : Kmp) : State :=
  let refuse := fun (s : State) (c : Code) => reply s rx (answerTo s m m.ses c [])
  if m.ident = allHubs then refuse s .malformed
  else
    match (if (listedWorkers s).any (fun p => s.nat .workers 0 p == m.ident) then
        (freshJoins s).find? (fun j => j.ident == m.ident) else none) with
    | none => refuse (s.bump .bridge 0 7 1) .unreachable
    | some j =>
      let same := fun (b : Bridged) => b.target == m.ident && b.tid == m.tid && b.ses == m.ses
      if m.ses = 0 ∧ s.net.bridged.any (fun b => b.target == m.ident && b.tid == m.tid && !sameClient b.client rx.frame) = true
      then refuse s .inUse
      else
        let kept := s.net.bridged.filter (fun b => !(same b && sameClient b.client rx.frame))
        if 256 ≤ kept.length then refuse s .queueFull
        else
          let s := s.modNet (fun n => { n with bridged := kept ++ [⟨rx.frame, m.ident, m.ses, m.tid, s.now⟩] })
          sendKmp (s.bump .bridge 0 5 1) j.port j.mac { m with flags := setBit m.flags 1 }

/-- BRIDGE_FORWARD (R503): the oldest request from port C that names another hub is sent on, or refused. -/
def execBridgeForward (s : State) : Host.Outcome State Fault Refusal :=
  match (inboxMsgs s).find? (fun (_, r, m) => !(bit m.flags 0) && forBridge s r.port m && !servesLocal s r m) with
  | some (i, rx, m) => .next (bridgeRequest (dropInbox s i) rx m)
  | none => .next s

/-- BRIDGE_ANSWER (R503): a worker's answer goes to the client in its form; one that comes too late is discarded and counted. -/
def execBridgeAnswer (s : State) : Host.Outcome State Fault Refusal :=
  match (inboxMsgs s).find? (fun (_, _, m) => bit m.flags 0 && bit m.flags 1) with
  | some (i, _, m) =>
    let s := dropInbox s i
    match s.net.bridged.find? (fun b => b.target == m.ident && b.tid == m.tid && (b.ses == m.ses || b.ses == 0)) with
    | some b =>
      let s := s.modNet (fun n => { n with bridged := n.bridged.erase b })
      .next (reply s ⟨2, s.now, b.client⟩ m)
    | none => .next (s.modNet (fun n => { n with lateAnswers := n.lateAnswers + 1 }))
  | none => .next s

/-- BRIDGE_TIMEOUT (R503): a forwarded request has had no answer for the bridge timeout. -/
def execBridgeTimeout (s : State) : Host.Outcome State Fault Refusal :=
  match s.net.bridged.find? (fun b => decide (b.tick + msTicks (s.nat .bridge 0 4) ≤ s.now)) with
  | some b =>
    let s := (s.modNet (fun n => { n with bridged := n.bridged.erase b })).bump .bridge 0 6 1
    let m := (frameKmp b.client).bind (fun p => kmpParse p.1 p.2)
    .next (match m with
      | some m => reply s ⟨2, s.now, b.client⟩ (answerTo s m m.ses .noAnswer [])
      | none => s)
  | none => .next s

/-- ARP_REQUEST (R501): a manager answers for its IPv4 address. -/
def execArpRequest (s : State) : Host.Outcome State Fault Refusal :=
  match s.net.inbox.zipIdx.find? (fun p => match p.1.frame.content with | .arp _ _ _ => true | _ => false) with
  | some (rx, i) =>
    let s := dropInbox s i
    (match rx.frame.content with
     | .arp _ sip tip => .next (sendOwn s 2 rx.frame.src 64 (.arp true tip sip))
     | _ => .next s)
  | none => .next s

/-- ICMP_ECHO (R501): a manager answers an echo request. -/
def execIcmpEcho (s : State) : Host.Outcome State Fault Refusal :=
  match s.net.inbox.zipIdx.find? (fun p => match p.1.frame.content with | .icmpEcho _ _ _ _ => true | _ => false) with
  | some (rx, i) =>
    let s := dropInbox s i
    (match rx.frame.content with
     | .icmpEcho _ sip dip b => .next (sendOwn s 2 rx.frame.src (frameLen (b.length + 28)) (.icmpEcho true dip sip b))
     | _ => .next s)
  | none => .next s

end Sys2Proof.Machine
end

