-- ==== Sys2Proof/Machine/WriteRows.lean ====
section
/-! DEFINITION. The commands that are writes, or a read, of one entry of the dictionary. Each is served as every write is
(Machine/Dictionary.lean); a command that names an entry of another kind than its row's does nothing (log 3). -/

namespace Sys2Proof.Machine

open Sys2Proof

/-- The index names a unit of an object of a kind. -/
def rowOf (idx : Nat) (p : Obj → Bool) : Bool := match locate idx with | some (o, _) => p o | none => false

/-- A read's answer as the hub sent it. -/
def readAnswer (r : State × Code × Bytes) : State := { r.1 with ansBody := r.2.2 }

/-- RESET_NOW (R605): restart command 1. -/
def execResetNow (ses : Nat) (s : State) : Host.Outcome State Fault Refusal := .next (serveNum s ses .startup 0 10 1)

/-- RESET_WHEN_IDLE (R605): restart command 2. -/
def execResetWhenIdle (ses : Nat) (s : State) : Host.Outcome State Fault Refusal := .next (serveNum s ses .startup 0 10 2)

/-- PREFER_IMAGE_A (R606): image command 1. -/
def execPreferImageA (ses : Nat) (s : State) : Host.Outcome State Fault Refusal := .next (serveNum s ses .images 0 7 1)

/-- PREFER_IMAGE_B (R606): image command 2. -/
def execPreferImageB (ses : Nat) (s : State) : Host.Outcome State Fault Refusal := .next (serveNum s ses .images 0 7 2)

/-- UPDATE_BEGIN (R596): image command 3. -/
def execUpdateBegin (ses : Nat) (s : State) : Host.Outcome State Fault Refusal := .next (serveNum s ses .images 0 7 3)

/-- UPDATE_SEGMENT (R596): a segment of the image. -/
def execUpdateSegment (ses : Nat) (bs : Bytes) (s : State) : Host.Outcome State Fault Refusal :=
  .next (serveObj s ses .images 0 9 bs)

/-- UPDATE_FINISH (R596): image command 4. -/
def execUpdateFinish (ses : Nat) (s : State) : Host.Outcome State Fault Refusal := .next (serveNum s ses .images 0 7 4)

/-- UPDATE_ABORT (R596): image command 5. -/
def execUpdateAbort (ses : Nat) (s : State) : Host.Outcome State Fault Refusal := .next (serveNum s ses .images 0 7 5)

/-- DICTIONARY_WRITE (R510): a write to an entry. -/
def execDictionaryWrite (ses idx sub : Nat) (bs : Bytes) (s : State) : Host.Outcome State Fault Refusal :=
  .next ((serveWrite s ses idx sub bs).1)

/-- ROUTING_WRITE (R56, R113): a write to a routing entry, or to a cell's power mode. -/
def execRoutingWrite (ses idx sub : Nat) (bs : Bytes) (s : State) : Host.Outcome State Fault Refusal :=
  .next (if rowOf idx (fun o => isRouting o sub || (o == .refPower && sub == 2)) then (serveWrite s ses idx sub bs).1 else s)

/-- EXCITATION_WRITE (R72): a write to a driver's or a bias source's setting. -/
def execExcitationWrite (ses idx sub : Nat) (bs : Bytes) (s : State) : Host.Outcome State Fault Refusal :=
  .next (if rowOf idx (fun o => isExcitation o sub) then (serveWrite s ses idx sub bs).1 else s)

/-- CLAMP_LATCHED_CLEAR (R60): a write to a cell's clamp latched mask. -/
def execClampLatchedClear (ses cell : Nat) (bs : Bytes) (s : State) : Host.Outcome State Fault Refusal :=
  .next (serveObj s ses .routeStatus cell 2 bs)

/-- INJECTED_REQUEST (R147): a write of an injected request. -/
def execInjectedRequest (ses : Nat) (bs : Bytes) (s : State) : Host.Outcome State Fault Refusal :=
  .next (serveObj s ses .injected 0 1 bs)

/-- INJECTED_FLUSH (R147): a write to the injected queue's flush entry. -/
def execInjectedFlush (ses : Nat) (bs : Bytes) (s : State) : Host.Outcome State Fault Refusal :=
  .next (serveObj s ses .injected 0 5 bs)

/-- SLATE_REQUEST (R225): a write of a tick to object 0x1520:01. -/
def execSlateRequest (ses : Nat) (bs : Bytes) (s : State) : Host.Outcome State Fault Refusal :=
  .next (serveObj s ses .slate 0 1 bs)

/-- ZONE_SLATE (R227): a write of a tick to object 0x1521:01. -/
def execZoneSlate (ses : Nat) (bs : Bytes) (s : State) : Host.Outcome State Fault Refusal :=
  .next (serveObj s ses .zoneSlate 0 1 bs)

/-- STEP (R204): a write of a step of the local clock. -/
def execClockStep (ses : Nat) (bs : Bytes) (s : State) : Host.Outcome State Fault Refusal :=
  .next (serveObj s ses .localClock 0 5 bs)

/-- INCREMENT_WRITE (R204): a write of the local clock's increment. -/
def execIncrementWrite (ses : Nat) (bs : Bytes) (s : State) : Host.Outcome State Fault Refusal :=
  .next (serveObj s ses .localClock 0 2 bs)

/-- RATE_ADJUSTMENT_WRITE (R204): a write of the rate adjustment. -/
def execRateAdjustmentWrite (ses : Nat) (bs : Bytes) (s : State) : Host.Outcome State Fault Refusal :=
  .next (serveObj s ses .localClock 0 6 bs)

/-- CORRECTION_MODE_WRITE (R204): a write of the correction mode. -/
def execCorrectionModeWrite (ses : Nat) (bs : Bytes) (s : State) : Host.Outcome State Fault Refusal :=
  .next (serveObj s ses .localClock 0 4 bs)

/-- SERVO_OWNER_WRITE (R205): a write of the servo owner. -/
def execServoOwnerWrite (ses : Nat) (bs : Bytes) (s : State) : Host.Outcome State Fault Refusal :=
  .next (serveObj s ses .localClock 0 3 bs)

/-- REANCHOR_COMMAND (R213): a write to the re-anchor command. -/
def execReanchorCommand (ses : Nat) (bs : Bytes) (s : State) : Host.Outcome State Fault Refusal :=
  .next (serveObj s ses .grid 0 10 bs)

/-- CALIBRATION_START (R234, R235): CMD 0x1 with its bits. -/
def execCalibrationStart (ses : Nat) (allg stst skew defer_ : Bool) (s : State) : Host.Outcome State Fault Refusal :=
  .next (serveNum s ses .cal 0 1 (1 + 16 * b2n allg + 32 * b2n stst + 64 * b2n skew + 128 * b2n defer_ : Nat))

/-- CALIBRATION_ABORT (R241): CMD 0x2. -/
def execCalibrationAbort (ses : Nat) (s : State) : Host.Outcome State Fault Refusal := .next (serveNum s ses .cal 0 1 2)

/-- END_HOLD_OFF (R259): CMD 0x3. -/
def execEndHoldOff (ses : Nat) (s : State) : Host.Outcome State Fault Refusal := .next (serveNum s ses .cal 0 1 3)

/-- CALIBRATION_IMAGE_READ (R257): a read of object 0x4110:01. -/
def execCalibrationImageRead (ses : Nat) (s : State) : Host.Outcome State Fault Refusal :=
  .next (readAnswer (serveRead s ses 0x4110 1))

/-- CALIBRATION_IMAGE_WRITE (R258): a write of a calibration image. -/
def execCalibrationImageWrite (ses : Nat) (bs : Bytes) (s : State) : Host.Outcome State Fault Refusal :=
  .next (serveObj s ses .calImage 0 1 bs)

/-- DIN_SETTING_WRITE (R265): a write of an input's invert setting or filter length. -/
def execDinSettingWrite (ses idx sub : Nat) (bs : Bytes) (s : State) : Host.Outcome State Fault Refusal :=
  .next (if rowOf idx (fun o => o == .din && (sub == 1 || sub == 2)) then (serveWrite s ses idx sub bs).1 else s)

/-- NETWORK_TRIGGER (R272): a write to a take's network trigger. -/
def execNetworkTrigger (ses t : Nat) (bs : Bytes) (s : State) : Host.Outcome State Fault Refusal :=
  .next (serveObj s ses .takeStat t 2 bs)

/-- ARM_COMMAND (R295): a write of a take's arm command, which is staged. -/
def execArmCommand (ses t : Nat) (bs : Bytes) (s : State) : Host.Outcome State Fault Refusal :=
  .next (serveObj s ses .takeStat t 3 bs)

/-- RELEASE_OFFSET_WRITE (R290): a write of the capture region's release offset. -/
def execReleaseOffsetWrite (ses : Nat) (bs : Bytes) (s : State) : Host.Outcome State Fault Refusal :=
  .next (serveObj s ses .takeMem 0 6 bs)

/-- LARGEST_SLACK_CLEAR (R295): a write to a take's largest slack. -/
def execLargestSlackClear (ses t : Nat) (bs : Bytes) (s : State) : Host.Outcome State Fault Refusal :=
  .next (serveObj s ses .takeStat t 12 bs)

/-- REPLAY_DECODER_WRITE (R351): a block written to the replay decoder. -/
def execReplayDecoderWrite (ses : Nat) (bs : Bytes) (s : State) : Host.Outcome State Fault Refusal :=
  .next (serveObj s ses .replay 0 1 bs)

/-- PLANNED_HANDOVER (R406): custody command 0x01. -/
def execPlannedHandover (ses : Nat) (s : State) : Host.Outcome State Fault Refusal := .next (serveNum s ses .custody 0 7 1)

/-- RESTORE_CORE_A (R406): custody command 0x02. -/
def execRestoreCoreA (ses : Nat) (s : State) : Host.Outcome State Fault Refusal := .next (serveNum s ses .custody 0 7 2)

/-- RESTORE_CORE_B (R406): custody command 0x03. -/
def execRestoreCoreB (ses : Nat) (s : State) : Host.Outcome State Fault Refusal := .next (serveNum s ses .custody 0 7 3)

/-- FLUSH (R420, R427): a write to a queue's flush command. -/
def execFlush (ses q : Nat) (bs : Bytes) (s : State) : Host.Outcome State Fault Refusal := .next (serveObj s ses .queue q 10 bs)

/-- PEAK_OCCUPANCY_CLEAR (R427): a write to a queue's peak occupancy. -/
def execPeakOccupancyClear (ses q : Nat) (bs : Bytes) (s : State) : Host.Outcome State Fault Refusal :=
  .next (serveObj s ses .queue q 3 bs)

/-- OPEN_SET (R432): a write to object 0x1300:01. -/
def execOpenSet (ses : Nat) (bs : Bytes) (s : State) : Host.Outcome State Fault Refusal := .next (serveObj s ses .fence 0 1 bs)

/-- COMMIT_AT_TICK (R433): a write to object 0x1300:02. -/
def execCommitAtTick (ses : Nat) (bs : Bytes) (s : State) : Host.Outcome State Fault Refusal :=
  .next (serveObj s ses .fence 0 2 bs)

/-- ABANDON (R436): a write to object 0x1300:03. -/
def execAbandon (ses : Nat) (bs : Bytes) (s : State) : Host.Outcome State Fault Refusal := .next (serveObj s ses .fence 0 3 bs)

/-- DMA_START (R443): command 1 of a channel. -/
def execDmaStart (ses c : Nat) (s : State) : Host.Outcome State Fault Refusal := .next (serveNum s ses .dmaCtl c 6 1)

/-- DMA_ABORT (R444): command 2 of a channel. -/
def execDmaAbort (ses c : Nat) (s : State) : Host.Outcome State Fault Refusal := .next (serveNum s ses .dmaCtl c 6 2)

/-- CLEAR_FAULT (R468): command 3 of a channel. -/
def execClearFault (ses c : Nat) (s : State) : Host.Outcome State Fault Refusal := .next (serveNum s ses .dmaCtl c 6 3)

/-- PROGRAM_PAGE_WRITE (R470): a write of a program SRAM page. -/
def execProgramPageWrite (ses page : Nat) (bs : Bytes) (s : State) : Host.Outcome State Fault Refusal :=
  .next (serveObj s ses .sram 0 (page + 1) bs)

/-- LEARN_COMMAND (R487): a write to the learn command. -/
def execLearnCommand (ses : Nat) (bs : Bytes) (s : State) : Host.Outcome State Fault Refusal :=
  .next (serveObj s ses .zone 0 1 bs)

/-- STORE_COMMAND (R519): a write to the store command. -/
def execStoreCommand (ses : Nat) (bs : Bytes) (s : State) : Host.Outcome State Fault Refusal :=
  .next (serveObj s ses .store 0 1 bs)

/-- FACTORY_RESTORE_ARM (R525): command 1. -/
def execFactoryRestoreArm (ses : Nat) (s : State) : Host.Outcome State Fault Refusal :=
  .next (serveNum s ses .factoryRestore 0 1 1)

/-- FACTORY_RESTORE_DISARM (R525): command 2. -/
def execFactoryRestoreDisarm (ses : Nat) (s : State) : Host.Outcome State Fault Refusal :=
  .next (serveNum s ses .factoryRestore 0 1 2)

/-- DESCRIPTION_QUERY (R529): a write of the description's query. -/
def execDescriptionQuery (ses : Nat) (bs : Bytes) (s : State) : Host.Outcome State Fault Refusal :=
  .next (serveObj s ses .describe 0 1 bs)

/-- TAKE_NOW (R534): a write to a snapshot set's take-now entry. -/
def execTakeNow (ses k : Nat) (bs : Bytes) (s : State) : Host.Outcome State Fault Refusal :=
  .next (serveObj s ses .snapSet k 3 bs)

/-- CLEAR_FAULT_LATCHES (R547): a write to object 0x1680:02. -/
def execClearFaultLatches (ses : Nat) (bs : Bytes) (s : State) : Host.Outcome State Fault Refusal :=
  .next (serveObj s ses .router 0 2 bs)

/-- RAISE_SOFTWARE_EVENT (R547): a write to object 0x1680:04. -/
def execRaiseSoftwareEvent (ses : Nat) (bs : Bytes) (s : State) : Host.Outcome State Fault Refusal :=
  .next (serveObj s ses .router 0 4 bs)

/-- STICKY_FLAGS_CLEAR (R549): a write to a channel's sticky flags. -/
def execStickyFlagsClear (ses ch : Nat) (bs : Bytes) (s : State) : Host.Outcome State Fault Refusal :=
  .next (serveObj s ses .chStatus ch 5 bs)

/-- CONSUMED_OFFSET_WRITE (R574): a write of the hand-off ring's consumed offset. -/
def execConsumedOffsetWrite (ses : Nat) (bs : Bytes) (s : State) : Host.Outcome State Fault Refusal :=
  .next (serveObj s ses .handoff 0 4 bs)

/-- RELEASE_COMMAND (R578): a write to a legacy output's release command. -/
def execReleaseCommand (ses i : Nat) (bs : Bytes) (s : State) : Host.Outcome State Fault Refusal :=
  .next (serveObj s ses .lgo i 10 bs)

/-- HALT (R621): debug command 1 of a channel. -/
def execHalt (ses c : Nat) (s : State) : Host.Outcome State Fault Refusal := .next (serveNum s ses .debugCh c 6 1)

/-- RELEASE (R621): debug command 2 of a channel. -/
def execDebugRelease (ses c : Nat) (s : State) : Host.Outcome State Fault Refusal := .next (serveNum s ses .debugCh c 6 2)

/-- SINGLE_STEP (R621): debug command 3 of a channel. -/
def execSingleStep (ses c : Nat) (s : State) : Host.Outcome State Fault Refusal := .next (serveNum s ses .debugCh c 6 3)

end Sys2Proof.Machine
end

