-- ==== Sys2Proof/Machine/Dispatch.lean ====
section
/-! DEFINITION. One arm for each command: a direct call of its meaning, or a rejection by name. -/

namespace Sys2Proof.Machine

open Sys2Proof

/-- The effect of a command on everything but the queue of waiting commands. -/
def exec (i : Instr) (s : State) : Host.Outcome State Fault Refusal :=
  match i with
  | .ptpSyncReceived port domain sender origin corr => Sys2Proof.Machine.execPtpSyncReceived port domain sender origin corr s
  | .announceReceived port domain a => Sys2Proof.Machine.execAnnounceReceived port domain a s
  | .delayRespReceived port receipt corr => Sys2Proof.Machine.execDelayRespReceived port receipt corr s
  | .powerOn => Sys2Proof.Machine.execPowerOn s
  | .undervoltageLockout => Sys2Proof.Machine.execUndervoltageLockout s
  | .resetRelease straps => Sys2Proof.Machine.execResetRelease straps s
  | .resetBall => Sys2Proof.Machine.execResetBall s
  | .watchdogExpiry => Sys2Proof.Machine.execWatchdogExpiry s
  | .trialTimeout => Sys2Proof.Machine.execTrialTimeout s
  | .bootEnd okA okB => Sys2Proof.Machine.execBootEnd okA okB s
  | .restore => Sys2Proof.Machine.execRestore s
  | .streamStart => Sys2Proof.Machine.execStreamStart s
  | .powerMonitorSample vin current excMv excMw rails => Sys2Proof.Machine.execPowerMonitorSample vin current excMv excMw rails s
  | .temperatureSample readings => Sys2Proof.Machine.execTemperatureSample readings s
  | .resetNow ses => Sys2Proof.Machine.execResetNow ses s
  | .resetWhenIdle ses => Sys2Proof.Machine.execResetWhenIdle ses s
  | .preferImageA ses => Sys2Proof.Machine.execPreferImageA ses s
  | .preferImageB ses => Sys2Proof.Machine.execPreferImageB ses s
  | .updateBegin ses => Sys2Proof.Machine.execUpdateBegin ses s
  | .updateEraseComplete => Sys2Proof.Machine.execUpdateEraseComplete s
  | .updateSegment ses bs => Sys2Proof.Machine.execUpdateSegment ses bs s
  | .updateFinish ses => Sys2Proof.Machine.execUpdateFinish ses s
  | .updateVerifyComplete ok version => Sys2Proof.Machine.execUpdateVerifyComplete ok version s
  | .updateAbort ses => Sys2Proof.Machine.execUpdateAbort ses s
  | .dictionaryWrite ses idx sub bs => Sys2Proof.Machine.execDictionaryWrite ses idx sub bs s
  | .stagedWriteTakesEffect ses idx sub => Sys2Proof.Machine.execStagedWriteTakesEffect ses idx sub s
  | .routingWrite ses idx sub bs => Sys2Proof.Machine.execRoutingWrite ses idx sub bs s
  | .excitationWrite ses idx sub bs => Sys2Proof.Machine.execExcitationWrite ses idx sub bs s
  | .switchClose cell => Sys2Proof.Machine.execSwitchClose cell s
  | .clampOnset term => Sys2Proof.Machine.execClampOnset term s
  | .clampRelease term tick => Sys2Proof.Machine.execClampRelease term tick s
  | .clampLatchedClear ses cell bs => Sys2Proof.Machine.execClampLatchedClear ses cell bs s
  | .excitationOutOfRegulation unit tick conditions => Sys2Proof.Machine.execExcitationOutOfRegulation unit tick conditions s
  | .excitationRegulationLeave unit tick => Sys2Proof.Machine.execExcitationRegulationLeave unit tick s
  | .overloadOnset ch => Sys2Proof.Machine.execOverloadOnset ch s
  | .overloadResetEnd ch => Sys2Proof.Machine.execOverloadResetEnd ch s
  | .overloadRelease ch => Sys2Proof.Machine.execOverloadRelease ch s
  | .spareResetEnd cell => Sys2Proof.Machine.execSpareResetEnd cell s
  | .referenceReady cell => Sys2Proof.Machine.execReferenceReady cell s
  | .powerModeSwitch cell => Sys2Proof.Machine.execPowerModeSwitch cell s
  | .pullPhaseEnd cell microvolts => Sys2Proof.Machine.execPullPhaseEnd cell microvolts s
  | .openWireDetected ch => Sys2Proof.Machine.execOpenWireDetected ch s
  | .openWirePullRelease ch => Sys2Proof.Machine.execOpenWirePullRelease ch s
  | .railStickOnset ch run => Sys2Proof.Machine.execRailStickOnset ch run s
  | .railStickRelease ch run => Sys2Proof.Machine.execRailStickRelease ch run s
  | .auxScanStart => Sys2Proof.Machine.execAuxScanStart s
  | .auxEntryComplete values => Sys2Proof.Machine.execAuxEntryComplete values s
  | .injectedRequest ses bs => Sys2Proof.Machine.execInjectedRequest ses bs s
  | .injectedFlush ses bs => Sys2Proof.Machine.execInjectedFlush ses bs s
  | .injectedRequestStart => Sys2Proof.Machine.execInjectedRequestStart s
  | .auxReferenceReady => Sys2Proof.Machine.execAuxReferenceReady s
  | .auxPowerModeSwitch => Sys2Proof.Machine.execAuxPowerModeSwitch s
  | .calibrationClaim => Sys2Proof.Machine.execCalibrationClaim s
  | .calibrationStepEnd => Sys2Proof.Machine.execCalibrationStepEnd s
  | .sampleEmitted ch => Sys2Proof.Machine.execSampleEmitted ch s
  | .thresholdCrossing ch cmp => Sys2Proof.Machine.execThresholdCrossing ch cmp s
  | .decimationSwitch ch => Sys2Proof.Machine.execDecimationSwitch ch s
  | .crossFadeEnd ch => Sys2Proof.Machine.execCrossFadeEnd ch s
  | .slateRequest ses bs => Sys2Proof.Machine.execSlateRequest ses bs s
  | .slateBallEdge edge => Sys2Proof.Machine.execSlateBallEdge edge s
  | .zoneSlate ses bs => Sys2Proof.Machine.execZoneSlate ses bs s
  | .slateConfirm pos answer => Sys2Proof.Machine.execSlateConfirm pos answer s
  | .slatePerformed => Sys2Proof.Machine.execSlatePerformed s
  | .ptpForward out => Sys2Proof.Machine.execPtpForward out s
  | .delayReqSend => Sys2Proof.Machine.execDelayReqSend s
  | .pdelayMeasurement port ask => Sys2Proof.Machine.execPdelayMeasurement port ask s
  | .grandmasterSyncSend => Sys2Proof.Machine.execGrandmasterSyncSend s
  | .syncTimeout => Sys2Proof.Machine.execSyncTimeout s
  | .announceReceiptTimeout => Sys2Proof.Machine.execAnnounceReceiptTimeout s
  | .clockStep ses bs => Sys2Proof.Machine.execClockStep ses bs s
  | .incrementWrite ses bs => Sys2Proof.Machine.execIncrementWrite ses bs s
  | .rateAdjustmentWrite ses bs => Sys2Proof.Machine.execRateAdjustmentWrite ses bs s
  | .correctionModeWrite ses bs => Sys2Proof.Machine.execCorrectionModeWrite ses bs s
  | .servoOwnerWrite ses bs => Sys2Proof.Machine.execServoOwnerWrite ses bs s
  | .gridEvaluation => Sys2Proof.Machine.execGridEvaluation s
  | .holdoverGraceExpiry => Sys2Proof.Machine.execHoldoverGraceExpiry s
  | .freeRunTimeout => Sys2Proof.Machine.execFreeRunTimeout s
  | .gridAnchor => Sys2Proof.Machine.execGridAnchor s
  | .reanchorCommand ses bs => Sys2Proof.Machine.execReanchorCommand ses bs s
  | .reanchorStart => Sys2Proof.Machine.execReanchorStart s
  | .tpoLeadingEdge p => Sys2Proof.Machine.execTpoLeadingEdge p s
  | .tpoTrailingEdge p => Sys2Proof.Machine.execTpoTrailingEdge p s
  | .calibrationStart ses allg stst skew defer_ => Sys2Proof.Machine.execCalibrationStart ses allg stst skew defer_ s
  | .calibrationAbort ses => Sys2Proof.Machine.execCalibrationAbort ses s
  | .endHoldOff ses => Sys2Proof.Machine.execEndHoldOff ses s
  | .holdOffExpiry => Sys2Proof.Machine.execHoldOffExpiry s
  | .calresStepStart => Sys2Proof.Machine.execCalresStepStart s
  | .calresStepEnd milliohms => Sys2Proof.Machine.execCalresStepEnd milliohms s
  | .cellInterruptionStart => Sys2Proof.Machine.execCellInterruptionStart s
  | .cellInterruptionEnd cell measured => Sys2Proof.Machine.execCellInterruptionEnd cell measured s
  | .takeGuardExpiry cell => Sys2Proof.Machine.execTakeGuardExpiry cell s
  | .estimationWindowEnd cell m est => Sys2Proof.Machine.execEstimationWindowEnd cell m est s
  | .elementSwitch cell m => Sys2Proof.Machine.execElementSwitch cell m s
  | .modulatorCannotBeMatched cell m => Sys2Proof.Machine.execModulatorCannotBeMatched cell m s
  | .calibrationImageRead ses => Sys2Proof.Machine.execCalibrationImageRead ses s
  | .calibrationImageWrite ses bs => Sys2Proof.Machine.execCalibrationImageWrite ses bs s
  | .dinFilterAccept n ball edge run => Sys2Proof.Machine.execDinFilterAccept n ball edge run s
  | .dinEdgeProcessed n => Sys2Proof.Machine.execDinEdgeProcessed n s
  | .digitalInputStuck n => Sys2Proof.Machine.execDigitalInputStuck n s
  | .dinSettingWrite ses idx sub bs => Sys2Proof.Machine.execDinSettingWrite ses idx sub bs s
  | .takeTriggerOccurrence t => Sys2Proof.Machine.execTakeTriggerOccurrence t s
  | .timeSourceInstance t => Sys2Proof.Machine.execTimeSourceInstance t s
  | .networkTrigger ses t bs => Sys2Proof.Machine.execNetworkTrigger ses t bs s
  | .armCommand ses t bs => Sys2Proof.Machine.execArmCommand ses t bs s
  | .takeStopOccurrence t => Sys2Proof.Machine.execTakeStopOccurrence t s
  | .takeCopy => Sys2Proof.Machine.execTakeCopy s
  | .takeFillEnd t => Sys2Proof.Machine.execTakeFillEnd t s
  | .takeRecordCommit t => Sys2Proof.Machine.execTakeRecordCommit t s
  | .takeRearm t => Sys2Proof.Machine.execTakeRearm t s
  | .releaseOffsetWrite ses bs => Sys2Proof.Machine.execReleaseOffsetWrite ses bs s
  | .largestSlackClear ses t bs => Sys2Proof.Machine.execLargestSlackClear ses t bs s
  | .windowStart w => Sys2Proof.Machine.execWindowStart w s
  | .windowRecordFormed w => Sys2Proof.Machine.execWindowRecordFormed w s
  | .crossHubContribution => Sys2Proof.Machine.execCrossHubContribution s
  | .crossHubDeadline x => Sys2Proof.Machine.execCrossHubDeadline x s
  | .blockFormed failA failB => Sys2Proof.Machine.execBlockFormed failA failB s
  | .replayDecoderWrite ses bs => Sys2Proof.Machine.execReplayDecoderWrite ses bs s
  | .packingHoldExpiry => Sys2Proof.Machine.execPackingHoldExpiry s
  | .ksfDataSend => Sys2Proof.Machine.execKsfDataSend s
  | .ksfDataReceived => Sys2Proof.Machine.execKsfDataReceived s
  | .ackInterval => Sys2Proof.Machine.execAckInterval s
  | .keepaliveAck => Sys2Proof.Machine.execKeepaliveAck s
  | .nackHoldoffExpiry => Sys2Proof.Machine.execNackHoldoffExpiry s
  | .retransmitInterval => Sys2Proof.Machine.execRetransmitInterval s
  | .ack => Sys2Proof.Machine.execAck s
  | .nack bad => Sys2Proof.Machine.execNack bad s
  | .resendTimeout bad => Sys2Proof.Machine.execResendTimeout bad s
  | .reachabilityTimeout => Sys2Proof.Machine.execReachabilityTimeout s
  | .signatureArrival core ord flip => Sys2Proof.Machine.execSignatureArrival core ord flip s
  | .compareTimeout => Sys2Proof.Machine.execCompareTimeout s
  | .coreFaultSignal core => Sys2Proof.Machine.execCoreFaultSignal core s
  | .provingPeriodEnd => Sys2Proof.Machine.execProvingPeriodEnd s
  | .hiddenFaultAtTakeover part => Sys2Proof.Machine.execHiddenFaultAtTakeover part s
  | .coreSelfTestEnd core pass => Sys2Proof.Machine.execCoreSelfTestEnd core pass s
  | .resyncJoin => Sys2Proof.Machine.execResyncJoin s
  | .resyncSnapshot => Sys2Proof.Machine.execResyncSnapshot s
  | .snapshotCopyComplete => Sys2Proof.Machine.execSnapshotCopyComplete s
  | .coreResynchronised => Sys2Proof.Machine.execCoreResynchronised s
  | .coreResynchronisationFailed => Sys2Proof.Machine.execCoreResynchronisationFailed s
  | .resyncRetry => Sys2Proof.Machine.execResyncRetry s
  | .handback => Sys2Proof.Machine.execHandback s
  | .plannedHandover ses => Sys2Proof.Machine.execPlannedHandover ses s
  | .restoreCoreA ses => Sys2Proof.Machine.execRestoreCoreA ses s
  | .restoreCoreB ses => Sys2Proof.Machine.execRestoreCoreB ses s
  | .queuePush q data eoi => Sys2Proof.Machine.execQueuePush q data eoi s
  | .queuePop q ecc => Sys2Proof.Machine.execQueuePop q ecc s
  | .cellItemAbandon q => Sys2Proof.Machine.execCellItemAbandon q s
  | .flush ses q bs => Sys2Proof.Machine.execFlush ses q bs s
  | .flushComplete q => Sys2Proof.Machine.execFlushComplete q s
  | .peakOccupancyClear ses q bs => Sys2Proof.Machine.execPeakOccupancyClear ses q bs s
  | .openSet ses bs => Sys2Proof.Machine.execOpenSet ses bs s
  | .commitAtTick ses bs => Sys2Proof.Machine.execCommitAtTick ses bs s
  | .abandon ses bs => Sys2Proof.Machine.execAbandon ses bs s
  | .setTimeout ses => Sys2Proof.Machine.execSetTimeout ses s
  | .commitFenceEffect ses => Sys2Proof.Machine.execCommitFenceEffect ses s
  | .dmaStart ses c => Sys2Proof.Machine.execDmaStart ses c s
  | .dmaEventStart c => Sys2Proof.Machine.execDmaEventStart c s
  | .dmaAbort ses c => Sys2Proof.Machine.execDmaAbort ses c s
  | .clearFault ses c => Sys2Proof.Machine.execClearFault ses c s
  | .dmaBeat ecc host => Sys2Proof.Machine.execDmaBeat ecc host s
  | .dmaEnd => Sys2Proof.Machine.execDmaEnd s
  | .dmaMove => Sys2Proof.Machine.execDmaMove s
  | .dmaLoop => Sys2Proof.Machine.execDmaLoop s
  | .dmaEndloop => Sys2Proof.Machine.execDmaEndloop s
  | .dmaWait => Sys2Proof.Machine.execDmaWait s
  | .waitComplete c => Sys2Proof.Machine.execWaitComplete c s
  | .waitTimeout c => Sys2Proof.Machine.execWaitTimeout c s
  | .dmaSignal => Sys2Proof.Machine.execDmaSignal s
  | .dmaFence => Sys2Proof.Machine.execDmaFence s
  | .dmaSeta => Sys2Proof.Machine.execDmaSeta s
  | .dmaAdda => Sys2Proof.Machine.execDmaAdda s
  | .illegalInstruction => Sys2Proof.Machine.execIllegalInstruction s
  | .writeConfirmed c ok => Sys2Proof.Machine.execWriteConfirmed c ok s
  | .dictionaryAnswer c => Sys2Proof.Machine.execDictionaryAnswer c s
  | .targetTimeout c => Sys2Proof.Machine.execTargetTimeout c s
  | .dictionaryAnswerTimeout c => Sys2Proof.Machine.execDictionaryAnswerTimeout c s
  | .copyPortBeat => Sys2Proof.Machine.execCopyPortBeat s
  | .copyTimeout => Sys2Proof.Machine.execCopyTimeout s
  | .programPageWrite ses page bs => Sys2Proof.Machine.execProgramPageWrite ses page bs s
  | .linkUp port speed => Sys2Proof.Machine.execLinkUp port speed s
  | .linkDown port => Sys2Proof.Machine.execLinkDown port s
  | .linkCheckSend => Sys2Proof.Machine.execLinkCheckSend s
  | .linkCheck => Sys2Proof.Machine.execLinkCheck s
  | .restoreHoldExpiry port => Sys2Proof.Machine.execRestoreHoldExpiry port s
  | .ringTimeout port => Sys2Proof.Machine.execRingTimeout port s
  | .helloSend => Sys2Proof.Machine.execHelloSend s
  | .hello => Sys2Proof.Machine.execHello s
  | .hopCountExpiry port => Sys2Proof.Machine.execHopCountExpiry port s
  | .revertHoldExpiry => Sys2Proof.Machine.execRevertHoldExpiry s
  | .frameReceived port f => Sys2Proof.Machine.execFrameReceived port f s
  | .egressTransmit out => Sys2Proof.Machine.execEgressTransmit out s
  | .joinSend => Sys2Proof.Machine.execJoinSend s
  | .join => Sys2Proof.Machine.execJoin s
  | .workerReachabilityTimeout => Sys2Proof.Machine.execWorkerReachabilityTimeout s
  | .learnCommand ses bs => Sys2Proof.Machine.execLearnCommand ses bs s
  | .moduleInsertion ident => Sys2Proof.Machine.execModuleInsertion ident s
  | .kmpRead => Sys2Proof.Machine.execKmpRead s
  | .kmpWrite => Sys2Proof.Machine.execKmpWrite s
  | .readBlock => Sys2Proof.Machine.execReadBlock s
  | .writeBlock => Sys2Proof.Machine.execWriteBlock s
  | .openSession => Sys2Proof.Machine.execOpenSession s
  | .closeSession => Sys2Proof.Machine.execCloseSession s
  | .keepalive => Sys2Proof.Machine.execKeepalive s
  | .sessionExpiry => Sys2Proof.Machine.execSessionExpiry s
  | .kmpFenceOpenSet => Sys2Proof.Machine.execKmpFenceOpenSet s
  | .kmpFenceCommit => Sys2Proof.Machine.execKmpFenceCommit s
  | .kmpFenceAbandon => Sys2Proof.Machine.execKmpFenceAbandon s
  | .slateCommand => Sys2Proof.Machine.execSlateCommand s
  | .takeTrigger => Sys2Proof.Machine.execTakeTrigger s
  | .notify => Sys2Proof.Machine.execNotify s
  | .bridgeForward => Sys2Proof.Machine.execBridgeForward s
  | .bridgeAnswer => Sys2Proof.Machine.execBridgeAnswer s
  | .bridgeTimeout => Sys2Proof.Machine.execBridgeTimeout s
  | .arpRequest => Sys2Proof.Machine.execArpRequest s
  | .icmpEcho => Sys2Proof.Machine.execIcmpEcho s
  | .storeCommand ses bs => Sys2Proof.Machine.execStoreCommand ses bs s
  | .autosave => Sys2Proof.Machine.execAutosave s
  | .snapshotTickStore => Sys2Proof.Machine.execSnapshotTickStore s
  | .storeComplete ok => Sys2Proof.Machine.execStoreComplete ok s
  | .factoryRestoreArm ses => Sys2Proof.Machine.execFactoryRestoreArm ses s
  | .factoryRestoreDisarm ses => Sys2Proof.Machine.execFactoryRestoreDisarm ses s
  | .descriptionQuery ses bs => Sys2Proof.Machine.execDescriptionQuery ses bs s
  | .takeNow ses k bs => Sys2Proof.Machine.execTakeNow ses k bs s
  | .snapshotSetTick k => Sys2Proof.Machine.execSnapshotSetTick k s
  | .snapshotComplete k => Sys2Proof.Machine.execSnapshotComplete k s
  | .eventRouted island ecc => Sys2Proof.Machine.execEventRouted island ecc s
  | .routeLineDelivery line => Sys2Proof.Machine.execRouteLineDelivery line s
  | .recordComplete seq mainOk emergencyOk => Sys2Proof.Machine.execRecordComplete seq mainOk emergencyOk s
  | .recordSnapshotTimeout seq missing => Sys2Proof.Machine.execRecordSnapshotTimeout seq missing s
  | .recorderSlotRead bank slot ecc => Sys2Proof.Machine.execRecorderSlotRead bank slot ecc s
  | .clearFaultLatches ses bs => Sys2Proof.Machine.execClearFaultLatches ses bs s
  | .raiseSoftwareEvent ses bs => Sys2Proof.Machine.execRaiseSoftwareEvent ses bs s
  | .stickyFlagsClear ses ch bs => Sys2Proof.Machine.execStickyFlagsClear ses ch bs s
  | .perst => Sys2Proof.Machine.execPerst s
  | .functionLevelReset => Sys2Proof.Machine.execFunctionLevelReset s
  | .hostLinkUp speed width => Sys2Proof.Machine.execHostLinkUp speed width s
  | .hostLinkDown => Sys2Proof.Machine.execHostLinkDown s
  | .slotDoorbell w vec => Sys2Proof.Machine.execSlotDoorbell w vec s
  | .slotAnswer head len tag value => Sys2Proof.Machine.execSlotAnswer head len tag value s
  | .eventDoorbell w => Sys2Proof.Machine.execEventDoorbell w s
  | .bar2Write offset bs => Sys2Proof.Machine.execBar2Write offset bs s
  | .msixUnmask v => Sys2Proof.Machine.execMsixUnmask v s
  | .consumedOffsetWrite ses bs => Sys2Proof.Machine.execConsumedOffsetWrite ses bs s
  | .lgoUpdateTick n => Sys2Proof.Machine.execLgoUpdateTick n s
  | .lgoStaleExpiry n => Sys2Proof.Machine.execLgoStaleExpiry n s
  | .lgoFaultHoldExpiry n => Sys2Proof.Machine.execLgoFaultHoldExpiry n s
  | .releaseCommand ses n bs => Sys2Proof.Machine.execReleaseCommand ses n bs s
  | .tapReset => Sys2Proof.Machine.execTapReset s
  | .tapExtest => Sys2Proof.Machine.execTapExtest s
  | .samplePreload balls => Sys2Proof.Machine.execSamplePreload balls s
  | .tapIdcode => Sys2Proof.Machine.execTapIdcode s
  | .tapClamp => Sys2Proof.Machine.execTapClamp s
  | .tapHighz => Sys2Proof.Machine.execTapHighz s
  | .tapBypass => Sys2Proof.Machine.execTapBypass s
  | .dbgdataCapture => Sys2Proof.Machine.execDbgdataCapture s
  | .dbgdataUpdate w => Sys2Proof.Machine.execDbgdataUpdate w s
  | .debugNoOperation w => Sys2Proof.Machine.execDebugNoOperation w s
  | .debugObjectRead w => Sys2Proof.Machine.execDebugObjectRead w s
  | .debugObjectWrite w => Sys2Proof.Machine.execDebugObjectWrite w s
  | .debugMemoryRead w bad => Sys2Proof.Machine.execDebugMemoryRead w bad s
  | .debugMemoryWrite w => Sys2Proof.Machine.execDebugMemoryWrite w s
  | .debugReset w => Sys2Proof.Machine.execDebugReset w s
  | .debugCommandDone => Sys2Proof.Machine.execDebugCommandDone s
  | .breakpointHit c => Sys2Proof.Machine.execBreakpointHit c s
  | .halt ses c => Sys2Proof.Machine.execHalt ses c s
  | .debugRelease ses c => Sys2Proof.Machine.execDebugRelease ses c s
  | .singleStep ses c => Sys2Proof.Machine.execSingleStep ses c s
  | .ownHelloTimeout => Sys2Proof.Machine.execOwnHelloTimeout s
  | .resetNRelease straps => Sys2Proof.Machine.execResetNRelease straps s
  | .vinRisesThrough10V => Sys2Proof.Machine.execVinRisesThrough10V s
  | .vinFallsBelow10V => Sys2Proof.Machine.execVinFallsBelow10V s
  | .moduleRemoval => Sys2Proof.Machine.execModuleRemoval s
  | .badRequestReceived => Sys2Proof.Machine.execBadRequestReceived s

end Sys2Proof.Machine
end

