-- ==== Sys2Proof/Machine/Tick.lean ====
section
/-! DEFINITION. What one cycle of the grid clock does without any command: the grid count, the local clock and the phase of the
legacy outputs advance (R13, R203, R580). -/

namespace Sys2Proof.Machine

open Sys2Proof

/-- One grid clock cycle passes. While a reset is asserted nothing counts (R590). -/
def gridTick (s : State) : State :=
  if s.power.inReset then s
  else
    let s := lgoTick s
    { s with now := s.now + 1, clk := { s.clk with local_ := s.clk.local_ + localStep s } }

end Sys2Proof.Machine
end

