-- ==== Sys2Proof/Safety.lean ====
section
/-! DEFINITION. What the claims call a sound state, a run without a stop, a session that may write, a frame over the entries, and an
occurrence on an island's events queue. -/

namespace Sys2Proof.Machine

open Sys2Proof

/-- Memory in its canonical form: addresses rise strictly and no listed byte is 0, which an unlisted address reads as (log 7). -/
def Memory.wf (m : List Host.Cell) : Bool := Sparse.rising m && m.all (fun c => c.2 != 0)

/-- The memories of the hub that it addresses by offset, the capture region (R281, R290) and the DMA buffer (R446), stand in their
canonical form. -/
def State.memOk (s : State) : Bool := Memory.wf s.takeMem.bytes && Memory.wf s.dmaBuf

/-- A step that does not stop the hub. -/
def Stepped (s t : State) : Prop := step s = .next t

/-- Session `ses` may write (R429, R491) and the dictionary is served (R524). -/
abbrev State.serves (s : State) (ses : Nat) : Prop := sessionOpen s ses = true ∧ 3 ≤ phase s

/-- An island's events queue takes its next occurrence at once and owes no report of lost ones (R412, R548). -/
abbrev State.canRaise (s : State) (island : Nat) : Prop :=
  (s.queue (162 + island)).pushing = none ∧ (s.queue (162 + island)).words.length < queueDepth (162 + island) ∧
    Sparse.get s.ev.lost island 0 = 0 ∧ s.ev.lineLost = [0, 0, 0, 0]

/-- The events queue of an island holds one more item in `t` than in `s`: the occurrence `e` (R537). -/
abbrev Raised (s t : State) (island : Nat) (e : EvItem) : Prop :=
  (t.queue (162 + island)).words = (s.queue (162 + island)).words ++ [⟨0, true, some e⟩]

/-- A count of the dictionary has gone up by n, in its type. -/
abbrev Counted (s t : State) (o : Obj) (u sub n : Nat) : Prop := t.num o u sub = (entryTy o u sub).narrow (s.num o u sub + n)

/-- Every number of the dictionary whose key is not one of `p` is what it was. -/
def KeepsRegs (p : Nat → Prop) (s t : State) : Prop := ∀ k, ¬ p k → Sparse.find t.regs k = Sparse.find s.regs k

/-- The keys that raising an event may write: the peak occupancies of the queues (object 0x1910 + q:03). -/
def PeakKey (k : Nat) : Prop := ∃ q, k = entryKey .queue q 3

/-- The keys that a dictionary answer writes: the counts of object 0x6030 (R535). -/
def AnswerKey (k : Nat) : Prop := ∃ sub, k = entryKey .answers 0 sub

/-- The engine has fetched word `w` with opcode `op` for channel c, which neither steps nor has a halt pending (R440, R621). -/
abbrev DmaHas (s : State) (c w op : Nat) : Prop :=
  s.dma.cur = some (c, w) ∧ c < 16 ∧ bits w 63 60 = op ∧ (s.dmaCh c).stepping = false ∧ s.nat .debugCh c 8 ≠ 1

/-- An instruction of channel c has ended: the channel runs on with record `k`, and object 0x1A40 + c:02 shows its address. -/
abbrev DmaOn (s t : State) (c : Nat) (k : DmaCh) : Prop :=
  dmaState t c = 1 ∧ t.dmaCh c = { k with wait := none, stepping := false, at_ := s.now } ∧
    t.num .dmaStat c 2 = (entryTy .dmaStat c 2).narrow k.pc

/-- Channel c has faulted with a cause (R468): it holds nothing, and both counts have gone up. -/
abbrev DmaFaulted (s t : State) (c cause : Nat) : Prop :=
  dmaState t c = 3 ∧ t.num .dmaStat c 3 = cause ∧ (t.dmaCh c).move = none ∧ (t.dmaCh c).hold = [] ∧
    Counted s t .dmaStat c 10 1 ∧ Counted s t .dmaEngine 0 8 1

/-- The oldest request that waits and meets `p` is message `m` of the open session record `k`, which has not answered its
transaction before (R491, R495). -/
abbrev KmpIn (s : State) (p : Kmp → Bool) (i : Nat) (rx : Rx) (m : Kmp) (k : Sess) : Prop :=
  inboxReq s p = some (i, rx, m) ∧ 1 ≤ m.ses ∧ m.ses ≤ 14 ∧ Sparse.find s.net.sessions m.ses = some k ∧
    k.kept.find? (fun a => a.1 == m.tid) = none

/-- The hub as it serves that request: the request taken and counted, its session's timeout begun anew at its arrival
(R494). -/
abbrev State.opened (s : State) (i : Nat) (rx : Rx) (m : Kmp) (k : Sess) : State :=
  (putSess (dropInbox s i) m.ses { k with last := max k.last rx.tick }).bump .kmp 0 2 1

/-- The request has been taken and counted, and its session keeps the answer with this status and body (R495). -/
abbrev KmpOut (s t : State) (i : Nat) (m : Kmp) (c : Code) (body : Bytes) : Prop :=
  Counted s t .kmp 0 2 1 ∧ t.net.inbox = s.net.inbox.eraseIdx i ∧
    (Sparse.find t.net.sessions m.ses).bind (fun k => k.kept.getLast?) = some (m.tid, c.num, body)

/-- The debug port takes command word `w` with operation `op` at once (R615, R616): the TAP works, DBGCMD is selected, nothing is
busy and no reset holds or is due. -/
abbrev DbgTakes (s : State) (w op : Nat) : Prop :=
  tapOn s = true ∧ bits w 63 60 = op ∧ s.dbg.ir = 0x10 ∧ s.dbg.resetDue = false ∧ s.power.inReset = false ∧
    s.dbg.busy = none

/-- The hub as it begins that command: the status captured, the read buffer emptied, the tick kept (R615, R616). -/
abbrev State.dbgBegun (s : State) : State :=
  ((captureDr s s.dbg.word).modDbg (fun d => { d with rbuf := [], state := 1, code := 0, length := 0 })).setNum .debug 0 7 s.now

end Sys2Proof.Machine
end

