-- ==== Sys2Proof/Certificates/Slice0/Obligations.lean ====
section
/-! DEFINITION. The statements about the hub, for the provers: what each command does, what it leaves, and what every step
keeps. Each docstring says which rules of spec/ its statement rests on. -/

open Sys2Proof Sys2Proof.Machine

/-- In the states named each command gives a next state with reset asserted, start-up phase 0 and no queue word, channel record
or staged write. POWER_ON without power: cause 1, power present, the firmware images as before. UNDERVOLTAGE_LOCKOUT with
power: cause 1, power gone, the images as before, every driver and bias source off. RESET_BALL with power: cause 2, held,
the images as before. WATCHDOG_EXPIRY out of reset, 2,000 ms or more after the release: cause 3, the watchdog count up by
one modulo 2^32; the images as before when the running image is not on trial; a trial image met after the release is emptied
and the other image preferred. TRIAL_TIMEOUT in phase 1 or 2, 60,000 ms or more after the release, with the image on trial:
cause 6, that image emptied and the other preferred. (Rests on parts of R586, R590, R593, R595.) -/
def Obligations.ResetsClearTheHubAndRecordTheirCause : Prop :=
  (∀ (s : State), s.power.powered = false → ∃ t, exec .powerOn s = .next t ∧ t.num .startup 0 1 = 1 ∧ phase t = 0 ∧
    t.power.powered = true ∧ t.power.inReset = true ∧ t.queues = [] ∧ t.chans = [] ∧ t.stages = [] ∧ t.flash.images =
    s.flash.images) ∧
  (∀ (s : State), s.power.powered = true → ∃ t, exec .undervoltageLockout s = .next t ∧ t.num .startup 0 1 = 1 ∧
    t.power.powered = false ∧ t.power.inReset = true ∧ phase t = 0 ∧ t.queues = [] ∧ t.chans = [] ∧ t.stages = [] ∧
    t.flash.images = s.flash.images ∧ (∀ d : Fin 96, t.num .driver d 1 = 0) ∧ (∀ b : Fin 384, t.num .bias b 1 = 0)) ∧
  (∀ (s : State), s.power.powered = true → ∃ t, exec .resetBall s = .next t ∧ t.num .startup 0 1 = 2 ∧ phase t = 0 ∧
    t.power.held = true ∧ t.power.inReset = true ∧ t.queues = [] ∧ t.chans = [] ∧ t.stages = [] ∧ t.flash.images =
    s.flash.images) ∧
  (∀ (s : State), s.power.inReset = false → s.power.released + (msTicks 2000 : Nat) ≤ (s.now : Int) → ∃ t, exec
    .watchdogExpiry s = .next t ∧ t.num .startup 0 1 = 3 ∧ phase t = 0 ∧ t.power.inReset = true ∧ t.queues = [] ∧ t.chans =
    [] ∧ t.stages = [] ∧ t.flash.watchdogs = (s.flash.watchdogs + 1) % 2 ^ 32 ∧ ((s.image (bootImage s)).state ≠ 1 →
    t.flash.images = s.flash.images) ∧ (1 ≤ phase s → (s.image (bootImage s)).state = 1 → (t.image (bootImage s)).state = 0
    ∧ t.flash.preferred = 1 - bootImage s)) ∧
  (∀ (s : State), (phase s = 1 ∨ phase s = 2) → (s.image (bootImage s)).state = 1 → s.power.released + (msTicks 60000 :
    Nat) ≤ (s.now : Int) → ∃ t, exec .trialTimeout s = .next t ∧ t.num .startup 0 1 = 6 ∧ phase t = 0 ∧ t.power.inReset =
    true ∧ t.queues = [] ∧ t.chans = [] ∧ t.stages = [] ∧ (t.image (bootImage s)).state = 0 ∧ t.flash.preferred = 1 -
    bootImage s)

/-- RESET_RELEASE, of a hub with power in reset and not held, leaves reset: phase 1, the low two bits of the straps as strap
code, manager exactly with code 2 on a variant that has the role. RESET_N_RELEASE of a held hub ends the hold and the
control of the balls by boundary scan; with power and rails 1 to 5 good it leaves reset likewise, and without it stays in
reset as it was. BOOT_END out of reset in phase 1: it runs the preferred image when that is present and its check passes;
the other one, emptying the preferred, when only the other is present and passes; when neither passes both images end empty
and the phase stays 1. RESTORE in phase 2 goes to phase 3 and starts the hold-off's time. STREAM_START at the stream start
tick goes to phase 6 and shows the tick. (Rests on parts of R24, R25, R587, R594, R597, R598, R599.) -/
def Obligations.ReleaseOfResetStartsTheBootAndSamplesTheStraps : Prop :=
  (∀ (s : State) (straps : Nat), s.power.powered = true → s.power.inReset = true → s.power.held = false → ∃ t, exec
    (.resetRelease straps) s = .next t ∧ t.power.inReset = false ∧ phase t = 1 ∧ t.num .role 0 1 = (straps % 4 : Nat) ∧
    (t.num .role 0 2 = 1 ↔ straps % 4 = 2 ∧ Config.hasManager s.variant = true)) ∧
  (∀ (s : State) (straps : Nat), s.power.powered = true → s.power.held = true → s.nat .supply 0 11 % 32 = 31 → ∃ t, exec
    (.resetNRelease straps) s = .next t ∧ t.power.inReset = false ∧ t.power.held = false ∧ phase t = 1 ∧ t.num .role 0 1 =
    (straps % 4 : Nat) ∧ (t.num .role 0 2 = 1 ↔ straps % 4 = 2 ∧ Config.hasManager s.variant = true) ∧ t.dbg.control = false) ∧
  (∀ (s : State) (straps : Nat), s.power.held = true → (s.power.powered = false ∨ s.nat .supply 0 11 % 32 ≠ 31) → ∃ t, exec
    (.resetNRelease straps) s = .next t ∧ t.power.inReset = s.power.inReset ∧ t.power.held = false ∧ phase t = phase s ∧
    t.dbg.control = false) ∧
  (∀ (s : State) (okA okB : Bool), phase s = 1 → s.power.inReset = false → s.power.bootOk = true → s.flash.preferred ≤ 1 →
    (s.image s.flash.preferred).state ≠ 0 → (if s.flash.preferred = 0 then okA else okB) = true → ∃ t, exec (.bootEnd okA
    okB) s = .next t ∧ phase t = 2 ∧ t.num .images 0 1 = s.flash.preferred ∧ t.num .identity 0 10 = s.flash.preferred) ∧
  (∀ (s : State) (okA okB : Bool) (p : Nat), phase s = 1 → s.power.inReset = false → s.power.bootOk = true →
    s.flash.preferred = p → p ≤ 1 → (s.image p).state = 0 ∨ (if p = 0 then okA else okB) = false → (s.image (1 - p)).state ≠
    0 → (if p = 0 then okB else okA) = true → ∃ t, exec (.bootEnd okA okB) s = .next t ∧ phase t = 2 ∧ t.num .images 0 1 =
    ((1 - p : Nat) : Int) ∧ t.num .identity 0 10 = ((1 - p : Nat) : Int) ∧ (t.image p).state = 0) ∧
  (∀ (s : State) (okA okB : Bool), phase s = 1 → s.power.inReset = false → s.power.bootOk = true → s.flash.preferred ≤ 1 →
    (s.image 0).state = 0 ∨ okA = false → (s.image 1).state = 0 ∨ okB = false → ∃ t, exec (.bootEnd okA okB) s = .next t ∧
    phase t = 1 ∧ t.power.bootOk = false ∧ (t.image 0).state = 0 ∧ (t.image 1).state = 0) ∧
  (∀ (s : State), phase s = 2 → ∃ t, exec .restore s = .next t ∧ phase t = 3 ∧ t.cal.holdFrom = some s.now ∧
    t.power.rejected = none ∧ t.power.fellBack = false) ∧
  (∀ (s : State), streamStartTick s = true → ∃ t, exec .streamStart s = .next t ∧ phase t = 6 ∧ t.num .startup 0 8 =
    ((s.now % 2 ^ 64 : Nat) : Int))

/-- POWER_MONITOR_SAMPLE, of a hub with power out of reset, shows the VIN, the input current, the excitation rail and its power
and the rail status that it measured; its first VIN since reset becomes the smallest and the largest, and a later one
changes the smallest to the lesser and the largest to the greater of both. TEMPERATURE_SAMPLE likewise shows the first die
temperature and its maximum. VIN_RISES_THROUGH_10_V sets, and VIN_FALLS_BELOW_10_V without power clears, the record of that
level and changes nothing else; with power the fall changes nothing. (Rests on parts of R588, R602, R603, R636.) -/
def Obligations.SupplyMonitorsAndTheTenVoltLevelAreRecorded : Prop :=
  (∀ (s : State) (vin current excMv excMw rails : Nat), s.power.powered = true → s.power.inReset = false → s.power.vinSeen
    = false → ∃ t, exec (.powerMonitorSample vin current excMv excMw rails) s = .next t ∧ t.num .supply 0 1 = ((vin % 2 ^ 32
    : Nat) : Int) ∧ t.num .supply 0 2 = ((current % 2 ^ 16 : Nat) : Int) ∧ t.num .supply 0 4 = ((vin % 2 ^ 32 : Nat) : Int)
    ∧ t.num .supply 0 5 = ((vin % 2 ^ 32 : Nat) : Int) ∧ t.num .supply 0 9 = ((excMv % 2 ^ 32 : Nat) : Int) ∧ t.num .supply
    0 10 = (entryTy .supply 0 10).narrow excMw ∧ t.num .supply 0 11 = ((rails % 64 : Nat) : Int) ∧ t.power.vinSeen = true) ∧
  (∀ (s : State) (vin current excMv excMw rails : Nat), s.power.powered = true → s.power.inReset = false → s.power.vinSeen
    = true → ∃ t, exec (.powerMonitorSample vin current excMv excMw rails) s = .next t ∧ t.num .supply 0 1 = ((vin % 2 ^ 32
    : Nat) : Int) ∧ t.num .supply 0 4 = (entryTy .supply 0 4).narrow (min vin (s.nat .supply 0 4) : Nat) ∧ t.num .supply 0 5
    = (entryTy .supply 0 5).narrow (max vin (s.nat .supply 0 5) : Nat)) ∧
  (∀ (s : State) (readings : List Int), s.power.powered = true → s.power.inReset = false → s.power.tempSeen = false → ∃ t,
    exec (.temperatureSample readings) s = .next t ∧ t.num .temps 0 1 = wrapS 16 (readings.getD 0 0) ∧ t.num .temps 0 6 =
    wrapS 16 (readings.getD 0 0) ∧ t.power.tempSeen = true) ∧
  (∀ (s : State) (readings : List Int), s.power.powered = true → s.power.inReset = false → s.power.tempSeen = true → ∃ t,
    exec (.temperatureSample readings) s = .next t ∧ t.num .temps 0 1 = wrapS 16 (readings.getD 0 0) ∧ t.num .temps 0 6 =
    (entryTy .temps 0 6).narrow (max (wrapS 16 (readings.getD 0 0)) (s.num .temps 0 6))) ∧
  (∀ (s : State), ∃ t, exec .vinRisesThrough10V s = .next t ∧ t = { s with power := { s.power with vin10 := true } }) ∧
  (∀ (s : State), s.power.powered = false → ∃ t, exec .vinFallsBelow10V s = .next t ∧ t =
    { s with power := { s.power with vin10 := false } }) ∧
  (∀ (s : State), s.power.powered = true → ∃ t, exec .vinFallsBelow10V s = .next t ∧ t = s)

/-- Through a session that may write: UPDATE_BEGIN in update state 0 or 4 gives state 1 and empties the image that does not run;
UPDATE_SEGMENT of 1 to 32,768 bytes within 20,971,520 in state 2 puts its bytes at the offset reached and moves the offset;
UPDATE_FINISH in state 2 gives state 3; UPDATE_ABORT in states 1 to 3 gives state 0 and empties the image.
UPDATE_ERASE_COMPLETE in state 1 gives state 2 and offset 0. UPDATE_VERIFY_COMPLETE in state 3: with a good check the image
is on trial, preferred, with the version of its header, and the state 0; with a bad one the image is empty and the state 4.
That holds with no restart waiting; where a restart waits and no store is in progress, the end of an update and an abort
reset the hub with cause 4. Through a session that may write: RESET_NOW resets the hub with cause 4, phase 0 and empty
queues. RESET_WHEN_IDLE does likewise when no store is in progress and the update state is 0 or 4; otherwise it is answered
with success and waits, and the phase stays. PREFER_IMAGE_A and PREFER_IMAGE_B, with update state 0 and their image present,
make it the preferred one; with it empty or an update in progress they are answered 'in use' and the preference stays.
(Rests on parts of R596, R605, R606.) -/
def Obligations.ImageUpdateAndRestartCommandsAct : Prop :=
  (∀ (s : State) (ses : Nat), s.serves ses → (updateState s = 0 ∨ updateState s = 4) → ∃ t, exec (.updateBegin ses) s =
    .next t ∧ t.ans = .success ∧ updateState t = 1 ∧ (t.image (updateTarget s)).state = 0) ∧
  (∀ (s : State), updateState s = 1 → ∃ t, exec .updateEraseComplete s = .next t ∧ updateState t = 2 ∧ t.num .images 0 8 =
    0) ∧
  (∀ (s : State) (ses : Nat) (bs : Bytes), s.serves ses → updateState s = 2 → 1 ≤ bs.length → bs.length ≤ 32768 → s.nat
    .images 0 8 + bs.length ≤ 20971520 → updateTarget s < s.flash.images.length → ∃ t, exec (.updateSegment ses bs) s =
    .next t ∧ t.ans = .success ∧ t.num .images 0 8 = (s.nat .images 0 8 + bs.length : Nat) ∧ (t.image (updateTarget s)).data
    = putBytes (s.image (updateTarget s)).data (s.nat .images 0 8) bs) ∧
  (∀ (s : State) (ses : Nat), s.serves ses → updateState s = 2 → ∃ t, exec (.updateFinish ses) s = .next t ∧ t.ans =
    .success ∧ updateState t = 3) ∧
  (∀ (s : State) (version : Nat), updateState s = 3 → s.power.resetWait = false → updateTarget s < s.flash.images.length →
    ∃ t, exec (.updateVerifyComplete true version) s = .next t ∧ updateState t = 0 ∧ (t.image (updateTarget s)).state = 1 ∧
    t.flash.preferred = updateTarget s ∧ (t.image (updateTarget s)).version = version % 2 ^ 32) ∧
  (∀ (s : State) (version : Nat), updateState s = 3 → s.power.resetWait = false → ∃ t, exec (.updateVerifyComplete false
    version) s = .next t ∧ updateState t = 4 ∧ (t.image (updateTarget s)).state = 0 ∧ t.flash.preferred = s.flash.preferred) ∧
  (∀ (s : State) (ses : Nat), s.serves ses → (updateState s = 1 ∨ updateState s = 2 ∨ updateState s = 3) →
    s.power.resetWait = false → ∃ t, exec (.updateAbort ses) s = .next t ∧ t.ans = .success ∧ updateState t = 0 ∧ (t.image
    (updateTarget s)).state = 0) ∧
  (∀ (s : State) (ok : Bool) (version : Nat), updateState s = 3 → s.power.resetWait = true → s.store.run = none → ∃ t, exec
    (.updateVerifyComplete ok version) s = .next t ∧ t.num .startup 0 1 = 4 ∧ t.power.inReset = true ∧ phase t = 0) ∧
  (∀ (s : State) (ses : Nat), s.serves ses → (updateState s = 1 ∨ updateState s = 2 ∨ updateState s = 3) →
    s.power.resetWait = true → s.store.run = none → ∃ t, exec (.updateAbort ses) s = .next t ∧ t.num .startup 0 1 = 4 ∧
    t.power.inReset = true ∧ phase t = 0) ∧
  (∀ (s : State) (ses : Nat), s.serves ses → ∃ t, exec (.resetNow ses) s = .next t ∧ t.num .startup 0 1 = 4 ∧
    t.power.inReset = true ∧ phase t = 0 ∧ t.queues = []) ∧
  (∀ (s : State) (ses : Nat), s.serves ses → s.store.run = none → (updateState s = 0 ∨ updateState s = 4) → ∃ t, exec
    (.resetWhenIdle ses) s = .next t ∧ t.num .startup 0 1 = 4 ∧ t.queues = [] ∧ t.power.inReset = true ∧ phase t = 0) ∧
  (∀ (s : State) (ses : Nat), s.serves ses → (s.store.run.isSome = true ∨ (updateState s ≠ 0 ∧ updateState s ≠ 4)) →
    s.power.inReset = false → ∃ t, exec (.resetWhenIdle ses) s = .next t ∧ t.ans = .success ∧ t.power.resetWait = true ∧
    phase t = phase s) ∧
  (∀ (s : State) (ses : Nat), s.serves ses → (s.image 0).state ≠ 0 → updateState s = 0 → s.power.inReset = false → ∃ t,
    exec (.preferImageA ses) s = .next t ∧ t.ans = .success ∧ t.flash.preferred = 0) ∧
  (∀ (s : State) (ses : Nat), s.serves ses → (s.image 0).state = 0 ∨ updateState s ≠ 0 → s.power.inReset = false → ∃ t,
    exec (.preferImageA ses) s = .next t ∧ t.ans = .inUse ∧ t.flash = s.flash) ∧
  (∀ (s : State) (ses : Nat), s.serves ses → (s.image 1).state ≠ 0 → updateState s = 0 → s.power.inReset = false → ∃ t,
    exec (.preferImageB ses) s = .next t ∧ t.ans = .success ∧ t.flash.preferred = 1) ∧
  (∀ (s : State) (ses : Nat), s.serves ses → (s.image 1).state = 0 ∨ updateState s ≠ 0 → s.power.inReset = false → ∃ t,
    exec (.preferImageB ses) s = .next t ∧ t.ans = .inUse ∧ t.flash = s.flash)

/-- STORE_COMMAND, through a session that may write and outside store state 2, begins a store or leaves the one in progress.
AUTOSAVE begins one, of the next generation, exactly when its conditions hold; otherwise it changes nothing.
SNAPSHOT_TICK_STORE, at the first whole millisecond after the start with no image write in progress, empties the slot of the
generation and records the values. STORE_COMPLETE after a snapshot with a good read-back, with no restart waiting, ends the
store: the slot holds the valid snapshot, and the last result is 1, with the snapshot's tick, the count up by one and the
changes since as the change count. (Rests on parts of R516, R517, R519.) -/
def Obligations.TheRetainedStoreBeginsSnapsAndCompletes : Prop :=
  (∀ (s : State) (ses : Nat), s.serves ses → storeState s ≠ 2 → s.power.inReset = false → ∃ t, exec (.storeCommand ses [1])
    s = .next t ∧ t.ans = .success ∧ t.store.run.isSome = true) ∧
  (∀ (s : State), autosaveDue s = true → ∃ t, exec .autosave s = .next t ∧ t.store.run = some ⟨nextGen s, none, 0⟩ ∧
    t.store.began = some s.now) ∧
  (∀ (s : State), autosaveDue s = false → ∃ t, exec .autosave s = .next t ∧ t = s) ∧
  (∀ (s : State) (r : StoreRun) (b : Nat), s.store.run = some r → s.store.began = some b → r.taken = none → imageWriting s
    = false → s.now % 24576 = 0 → b < s.now → ∃ t, exec .snapshotTickStore s = .next t ∧ t.store.run = some
    { r with taken := some (s.now, takeSnap s r.gen), later := 0 } ∧ t.flash.slots = s.flash.slots.set (slotOf r.gen) none) ∧
  (∀ (s : State) (gen tick later : Nat) (x : Snap), s.store.run = some ⟨gen, some (tick, x), later⟩ → s.power.resetWait =
    false → ∃ t, exec (.storeComplete true) s = .next t ∧ t.store.run = none ∧ t.flash.slots = s.flash.slots.set (slotOf
    gen) (some { x with valid := true }) ∧ t.num .store 0 6 = 1 ∧ t.num .store 0 8 = (entryTy .store 0 8).narrow tick ∧
    Counted s t .store 0 9 1 ∧ t.num .store 0 15 = ((later % 2 ^ 32 : Nat) : Int))

/-- Through a session that may write: FACTORY_RESTORE_ARM writes the marker with the scope, FACTORY_RESTORE_DISARM removes it,
DESCRIPTION_QUERY keeps a query word whose low byte is 0 for its session, and TAKE_NOW of value 1 asks for a snapshot at the
first whole millisecond at least 1 ms later. SNAPSHOT_SET_TICK from phase 3 on, at a multiple of a set's period that is not
0 and with no snapshot in progress, begins one at that tick; SNAPSHOT_COMPLETE ends it, shows its tick, counts it and makes
it, behind the new count, the last snapshot. (Rests on parts of R525, R529, R533, R534.) -/
def Obligations.FactoryRestoreDescriptionAndSnapshotSets : Prop :=
  (∀ (s : State) (ses : Nat), s.serves ses → s.power.inReset = false → ∃ t, exec (.factoryRestoreArm ses) s = .next t ∧
    t.ans = .success ∧ t.flash.marker = some (s.nat .factoryRestore 0 3)) ∧
  (∀ (s : State) (ses : Nat), s.serves ses → s.power.inReset = false → ∃ t, exec (.factoryRestoreDisarm ses) s = .next t ∧
    t.ans = .success ∧ t.flash.marker = none) ∧
  (∀ (s : State) (ses : Nat) (bs : Bytes), s.serves ses → s.power.inReset = false → bs.length = 4 → leNat bs % 256 = 0 → ∃
    t, exec (.descriptionQuery ses bs) s = .next t ∧ t.ans = .success ∧ Sparse.find t.queries ses = some (leNat bs)) ∧
  (∀ (s : State) (ses k : Nat), s.serves ses → s.power.inReset = false → k < 8 → ∃ t, exec (.takeNow ses k [1]) s = .next t
    ∧ t.ans = .success ∧ (t.snapSt k).nows = (s.snapSt k).nows ++ [ceilTo 24576 (s.now + 24576)]) ∧
  (∀ (s : State) (k : Nat), k < 8 → 3 ≤ phase s → s.nat .snapSet k 2 ≠ 0 → s.now % s.nat .snapSet k 2 = 0 → (s.snapSt
    k).looked ≠ some s.now → (s.snapSt k).run = none → ∃ t, exec (.snapshotSetTick k) s = .next t ∧ (t.snapSt k).run.isSome
    = true ∧ (t.snapSt k).looked = some s.now) ∧
  (∀ (s : State) (k tick : Nat) (b : Bytes), k < 8 → (s.snapSt k).run = some (tick, b) → ∃ t, exec (.snapshotComplete k) s
    = .next t ∧ (t.snapSt k).run = none ∧ t.num .snapSet k 4 = ((tick % 2 ^ 64 : Nat) : Int) ∧ Counted s t .snapLast k 2 1 ∧
    t.bytes .snapLast k 1 = leBytes 4 (t.nat .snapLast k 2) ++ b)

/-- DICTIONARY_WRITE of 4 bytes to the location code, object 0x1000:0D, through a session that may write, keeps the value,
answers success and counts the answer. To an index that no object has, it answers 'object does not exist'; through a session
that is not open, 'no session'; and to the read-only entry 0x1020:01, the access status. In these three cases nothing
changes but the answer and the answer counts. (Rests on parts of R506, R508, R510, R511, R535, R491, R499.) -/
def Obligations.DictionaryWritesKeepTheirValueOrAnswerWhy : Prop :=
  (∀ (s : State) (ses : Nat) (bs : Bytes), s.serves ses → s.power.inReset = false → bs.length = 4 → ∃ t, exec
    (.dictionaryWrite ses 0x1000 13 bs) s = .next t ∧ t.ans = .success ∧ t.num .identity 0 13 = (leNat bs : Int) ∧ Counted s
    t .answers 0 1 1) ∧
  (∀ (s : State) (ses idx sub : Nat) (bs : Bytes), s.serves ses → s.power.inReset = false → locate idx = none → ∃ t, exec
    (.dictionaryWrite ses idx sub bs) s = .next t ∧ t.ans = .noObject ∧ KeepsRegs AnswerKey s t ∧
    { t with ans := s.ans, regs := s.regs } = s) ∧
  (∀ (s : State) (ses idx sub : Nat) (bs : Bytes), sessionOpen s ses = false → s.power.inReset = false → ∃ t, exec
    (.dictionaryWrite ses idx sub bs) s = .next t ∧ t.ans = .noSession ∧ KeepsRegs AnswerKey s t ∧
    { t with ans := s.ans, regs := s.regs } = s) ∧
  (∀ (s : State) (ses : Nat) (bs : Bytes), s.serves ses → s.power.inReset = false → ∃ t, exec (.dictionaryWrite ses 0x1020
    1 bs) s = .next t ∧ t.ans = .access ∧ KeepsRegs AnswerKey s t ∧ { t with ans := s.ans, regs := s.regs } = s)

/-- Through a session that may write, not in held mode and with room in its staging: ROUTING_WRITE of a route word legal for its
cell, EXCITATION_WRITE of a driver voltage of 1,000 to 10,000 within the budget, and ARM_COMMAND of value 1 are answered
with success and appended to the session's immediate writes with the tick and the order of acceptance; the effective route
word stays. An excitation write above the budget is refused with its status and counted, and nothing is staged.
STAGED_WRITE_TAKES_EFFECT of a driver's entry, when it is the session's only staged write, no pending set comes before it
and its check passes, takes it out of the staging and sets the entry to its value. (Rests on parts of R430, R431, R55, R56,
R72, R295.) -/
def Obligations.StagedWritesWaitAndTakeEffect : Prop :=
  (∀ (s : State) (ses cell sub : Nat) (bs : Bytes), s.serves ses → s.power.inReset = false → cell < Config.cells s.variant
    → 1 ≤ sub → sub ≤ 32 → bs.length = 4 → cellLegal ((sessionView s ses).withWrites [⟨.termRoute, cell, sub, leNat bs,
    []⟩]) cell true = true → (s.stage ses).held = false → (s.stage ses).count + (s.takeWaiting ses).length < 4096 → ∃ t,
    exec (.routingWrite ses (Obj.index .termRoute cell) sub bs) s = .next t ∧ t.ans = .success ∧ (t.stage ses).imm =
    (s.stage ses).imm ++ [⟨⟨.termRoute, cell, sub, leNat bs, []⟩, s.now, s.order⟩] ∧ t.order = s.order + 1 ∧ t.num
    .termRoute cell sub = s.num .termRoute cell sub) ∧
  (∀ (s : State) (ses d : Nat) (bs : Bytes), s.serves ses → s.power.inReset = false → d / 4 < Config.cells s.variant →
    bs.length = 2 → 1000 ≤ leNat bs → leNat bs ≤ 10000 → overBudget s ses ⟨.driver, d, 2, leNat bs, []⟩ = false → (s.stage
    ses).held = false → (s.stage ses).count + (s.takeWaiting ses).length < 4096 → ∃ t, exec (.excitationWrite ses (Obj.index
    .driver d) 2 bs) s = .next t ∧ t.ans = .success ∧ (t.stage ses).imm = (s.stage ses).imm ++ [⟨⟨.driver, d, 2, leNat bs,
    []⟩, s.now, s.order⟩]) ∧
  (∀ (s : State) (ses d : Nat) (bs : Bytes), s.serves ses → s.power.inReset = false → d / 4 < Config.cells s.variant →
    bs.length = 2 → 1000 ≤ leNat bs → leNat bs ≤ 10000 → overBudget s ses ⟨.driver, d, 2, leNat bs, []⟩ = true → ∃ t, exec
    (.excitationWrite ses (Obj.index .driver d) 2 bs) s = .next t ∧ t.ans = .excBudget ∧ Counted s t .budget 0 4 1 ∧
    t.stages = s.stages) ∧
  (∀ (s : State) (ses k : Nat), s.serves ses → s.power.inReset = false → k < 16 → (s.stage ses).held = false → (s.stage
    ses).count + (s.takeWaiting ses).length < 4096 → ∃ t, exec (.armCommand ses k [1]) s = .next t ∧ t.ans = .success ∧
    (t.stage ses).imm = (s.stage ses).imm ++ [⟨⟨.takeStat, k, 3, 1, []⟩, s.now, s.order⟩]) ∧
  (∀ (s : State) (ses d sub : Nat) (x : Imm), ses < 16 → d < 96 → 1 ≤ sub → sub ≤ 4 → (s.stage ses).imm = [x] → x.w.obj =
    .driver → x.w.u = d → x.w.sub = sub → (s.stage ses).pend = [] → setsUpTo s s.now x.order = [] → effectCheck (s.putStage
    ses { s.stage ses with imm := [] }) ses [x.w] x.w = none → ∃ t, exec (.stagedWriteTakesEffect ses (Obj.index .driver d)
    sub) s = .next t ∧ (t.stage ses).imm = [] ∧ t.num .driver d sub = (entryTy .driver d sub).narrow x.w.num)

/-- Through a session that may write: OPEN_SET of value 1 outside held mode opens an empty set at the present tick;
COMMIT_AT_TICK of a tick between the present plus the commit lead and a day later makes the held set a pending set of that
tick, behind those pending; ABANDON of value 1 in held mode drops the set. SET_TIMEOUT drops a set open for its timeout. A
drop gives fence result 4 and is counted. COMMIT_FENCE_EFFECT of a due set that is the session's only staged work, when no
other set comes before it: result 2 and counted as performed when none of its writes fails; result 3, with the status of the
first failure, and counted as not performed when one fails; the set is gone either way. (Rests on parts of R432, R433, R434,
R436, R437.) -/
def Obligations.HeldSetsOpenCommitPerformAndLapse : Prop :=
  (∀ (s : State) (ses : Nat), s.serves ses → s.power.inReset = false → (s.stage ses).held = false → ∃ t, exec (.openSet ses
    [1]) s = .next t ∧ t.ans = .success ∧ (t.stage ses).held = true ∧ (t.stage ses).set = [] ∧ (t.stage ses).opened = s.now) ∧
  (∀ (s : State) (ses : Nat) (bs : Bytes), s.serves ses → s.power.inReset = false → bs.length = 8 → (s.stage ses).held =
    true → leNat bs ≠ 0 → s.now + s.nat .fence 0 4 ≤ leNat bs → leNat bs ≤ s.now + 24576000 * 86400 → ∃ t, exec
    (.commitAtTick ses bs) s = .next t ∧ t.ans = .success ∧ (t.stage ses).held = false ∧ (t.stage ses).pend = (s.stage
    ses).pend ++ [⟨leNat bs, s.order, (s.stage ses).set⟩] ∧ t.order = s.order + 1) ∧
  (∀ (s : State) (ses : Nat), s.serves ses → s.power.inReset = false → (s.stage ses).held = true → ∃ t, exec (.abandon ses
    [1]) s = .next t ∧ t.ans = .success ∧ (t.stage ses).held = false ∧ (t.stage ses).set = [] ∧ t.num .session ses 5 = 4 ∧
    Counted s t .session ses 10 1) ∧
  (∀ (s : State) (ses : Nat), ses < 16 → (s.stage ses).held = true → (s.stage ses).opened + s.nat .fence 0 5 * 24576000 ≤
    s.now → ∃ t, exec (.setTimeout ses) s = .next t ∧ (t.stage ses).held = false ∧ (t.stage ses).set = [] ∧ t.num .session
    ses 5 = 4 ∧ Counted s t .session ses 10 1) ∧
  (∀ (s : State) (ses : Nat) (p : PendSet), ses < 16 → (s.stage ses).pend = [p] → (s.stage ses).imm = [] → p.tick ≤ s.now →
    setsUpTo s p.tick p.order = [(ses, p)] → setFailures (s.putStage ses { s.stage ses with pend := [] }) ses p.writes = []
    → ∃ t, exec (.commitFenceEffect ses) s = .next t ∧ (t.stage ses).pend = [] ∧ t.num .session ses 5 = 2 ∧ Counted s t
    .session ses 9 1) ∧
  (∀ (s : State) (ses : Nat) (p : PendSet) (w : Wr) (d : Deny) (rest : List (Wr × Deny)), ses < 16 → (s.stage ses).pend =
    [p] → (s.stage ses).imm = [] → p.tick ≤ s.now → setsUpTo s p.tick p.order = [(ses, p)] → setFailures (s.putStage ses
    { s.stage ses with pend := [] }) ses p.writes = (w, d) :: rest → ∃ t, exec (.commitFenceEffect ses) s = .next t ∧
    (t.stage ses).pend = [] ∧ t.num .session ses 5 = 3 ∧ t.num .session ses 7 = (entryTy .session ses 7).narrow d.1.num ∧
    Counted s t .session ses 10 1)

/-- In a cell of the variant: SWITCH_CLOSE takes out of the cell's list of waiting switches those whose tick has come, and
changes nothing else. CLAMP_ONSET of a terminal whose active bit is clear sets its active and its latched bit, counts the
onset in the cell and, when the cell's events queue can take it, puts EV44 with cause 1, the cell and the terminal there.
CLAMP_RELEASE of an active terminal, 15 modulator periods or more after the tick that it names, clears the active bit,
leaves the latched mask and puts nothing in any queue. CLAMP_LATCHED_CLEAR through a session that may write clears the
latched bits that are written as 1. EXCITATION_OUT_OF_REGULATION of a driver or bias source that exists, is on and is not
out of regulation, from a tick not before the end of its settling interval and 7 modulator periods or more ago, with a
condition of its mode or, for a driver in voltage mode, a clamp active for the 8 periods: bit 0 of its regulation state is 1
and bits 3 to 1 are the conditions of its mode; a driver's count goes up. EXCITATION_REGULATION_LEAVE of a unit out of
regulation, from a tick 63 periods or more ago, with no clamp of its terminals active in the 64 periods: the regulation
state is 0, the tick of the leave is kept, and nothing enters a queue. (Rests on parts of R59, R60, R75, R76, R79, R80,
R81.) -/
def Obligations.ClampsSwitchesAndExcitationAct : Prop :=
  (∀ (s : State) (cell : Nat), cell < Config.cells s.variant → ∃ t, exec (.switchClose cell) s = .next t ∧ (t.cell
    cell).closing = (s.cell cell).closing.filter (fun p => decide (s.now < p.1)) ∧ { t with cells := s.cells } = s) ∧
  (∀ (s : State) (term : Nat), term / 32 < Config.cells s.variant → bit (s.nat .routeStatus (term / 32) 1) (term % 32) =
    false → s.canRaise (term / 32) → ∃ t, exec (.clampOnset term) s = .next t ∧ bit (t.nat .routeStatus (term / 32) 1) (term
    % 32) = true ∧ bit (t.nat .routeStatus (term / 32) 2) (term % 32) = true ∧ Counted s t .routeStatus (term / 32) 3 1 ∧
    Raised s t (term / 32) ⟨44, 1, term / 32 * 256 + term % 32, s.now⟩) ∧
  (∀ (s : State) (term tick : Nat), term / 32 < Config.cells s.variant → bit (s.nat .routeStatus (term / 32) 1) (term % 32)
    = true → tick + 15 * s.modPeriod (term / 32) ≤ s.now → ∃ t, exec (.clampRelease term tick) s = .next t ∧ bit (t.nat
    .routeStatus (term / 32) 1) (term % 32) = false ∧ t.num .routeStatus (term / 32) 2 = s.num .routeStatus (term / 32) 2 ∧
    t.queues = s.queues) ∧
  (∀ (s : State) (ses cell : Nat) (bs : Bytes), s.serves ses → s.power.inReset = false → cell < Config.cells s.variant →
    bs.length = 4 → s.nat .routeStatus cell 2 < 2 ^ 32 → ∃ t, exec (.clampLatchedClear ses cell bs) s = .next t ∧ t.ans =
    .success ∧ t.nat .routeStatus cell 2 = s.nat .routeStatus cell 2 - (s.nat .routeStatus cell 2 &&& leNat bs)) ∧
  (∀ (s : State) (unit : ExcUnit) (tick conditions : Nat), s.hasExc unit = true → s.nat (excObj unit).1 (excObj unit).2 1 ≠
    0 → bit (s.nat (excObj unit).1 (excObj unit).2 (excStateSub unit)) 0 = false → Sparse.get s.excSettle (excId unit) 0 ≤
    tick → tick + 7 * s.modPeriod (excPlace unit).1 ≤ s.now → (conditions &&& excBits s unit ≠ 0 ∨ excClamped s unit tick
    (tick + 8 * s.modPeriod (excPlace unit).1) true = true) → ∃ t, exec (.excitationOutOfRegulation unit tick conditions) s
    = .next t ∧ t.num (excObj unit).1 (excObj unit).2 (excStateSub unit) = (1 + (conditions &&& excBits s unit) : Nat) ∧
    ((excObj unit).1 = .driver → Counted s t .driver (excObj unit).2 8 1)) ∧
  (∀ (s : State) (unit : ExcUnit) (tick : Nat), s.hasExc unit = true → bit (s.nat (excObj unit).1 (excObj unit).2
    (excStateSub unit)) 0 = true → tick + 63 * s.modPeriod (excPlace unit).1 ≤ s.now → excClamped s unit tick (tick + 64 *
    s.modPeriod (excPlace unit).1) false = false → ∃ t, exec (.excitationRegulationLeave unit tick) s = .next t ∧ t.num
    (excObj unit).1 (excObj unit).2 (excStateSub unit) = 0 ∧ Sparse.find t.excLeft (excId unit) = some tick ∧ t.queues =
    s.queues)

/-- When the oldest detection that waits on a channel is of the command's kind, the command takes it out. OVERLOAD_ONSET then
counts the onset and opens OVR with its sign; OVERLOAD_RESET_END changes nothing else; OVERLOAD_RELEASE leaves no OVR
interval of an overload open and changes no entry of the dictionary. SPARE_RESET_END at or after its tick ends the wait of
the cell's spare and changes nothing else. PULL_PHASE_END of a cell with pull currents, at an odd multiple of half a phase
with no power-mode switch inside the phase, keeps the voltages measured and the tick. OPEN_WIRE_DETECTED with a declaration
waiting takes it, opens pull-based OWD and counts it. OPEN_WIRE_PULL_RELEASE of a declared channel whose release waits takes
it, closes pull-based OWD and changes no entry. RAIL_STICK_ONSET, with a selected comparator active in each of 64 periods of
which the last has begun, opens rail-stick OWD and counts it; RAIL_STICK_RELEASE, with none active in each of them, closes
it and changes no entry. (Rests on parts of R96, R97, R98, R100, R101, R104, R118, R119, R120, R124.) -/
def Obligations.OverloadAndOpenWireDetectorsAct : Prop :=
  (∀ (s : State) (ch start : Nat) (neg : Bool) (ds : List OvlDue), ch < 384 → (s.chan ch).ovl.due = .onset start neg :: ds
    → ∃ t, exec (.overloadOnset ch) s = .next t ∧ (t.chan ch).ovl.due = ds ∧ hasOpen t ch fOVR (.overload neg) = true ∧
    Counted s t .chFront ch 11 1) ∧
  (∀ (s : State) (ch tick : Nat) (ds : List OvlDue), (s.chan ch).ovl.due = .resetEnd tick :: ds → ∃ t, exec
    (.overloadResetEnd ch) s = .next t ∧ (t.chan ch).ovl.due = ds ∧ { t with chans := s.chans } = s) ∧
  (∀ (s : State) (ch tick : Nat) (ds : List OvlDue), (s.chan ch).ovl.due = .release tick :: ds → ∃ t, exec
    (.overloadRelease ch) s = .next t ∧ (t.chan ch).ovl.due = ds ∧ hasOpen t ch fOVR (.overload true) = false ∧ hasOpen t ch
    fOVR (.overload false) = false ∧ t.regs = s.regs) ∧
  (∀ (s : State) (cell due : Nat), (s.cell cell).spareDue = some due → due ≤ s.now → ∃ t, exec (.spareResetEnd cell) s =
    .next t ∧ (t.cell cell).spareDue = none ∧ { t with cells := s.cells } = s) ∧
  (∀ (s : State) (cell : Nat) (microvolts : List Int), Config.hasPull s.variant = true → cell < Config.cells s.variant →
    s.now % pullLen s cell s.now = pullLen s cell s.now / 2 → pullLen s cell s.now ≤ s.now → lastSwitch s cell s.now ≤ s.now
    - pullLen s cell s.now → ∃ t, exec (.pullPhaseEnd cell microvolts) s = .next t ∧ (t.cell cell).pullVolts = microvolts ∧
    (t.cell cell).pullAt = some s.now) ∧
  (∀ (s : State) (ch start due : Nat), ch < 384 → (s.chan ch).pull.declareDue = some (start, due) → ∃ t, exec
    (.openWireDetected ch) s = .next t ∧ (t.chan ch).pull.declareDue = none ∧ (t.chan ch).pull.on = true ∧ hasOpen t ch fOWD
    .pull = true ∧ Counted s t .chFront ch 12 1) ∧
  (∀ (s : State) (ch due : Nat), (s.chan ch).pull.on = true → (s.chan ch).pull.releaseDue = some due → ∃ t, exec
    (.openWirePullRelease ch) s = .next t ∧ (t.chan ch).pull.on = false ∧ (t.chan ch).pull.releaseDue = none ∧ hasOpen t ch
    fOWD .pull = false ∧ t.regs = s.regs) ∧
  (∀ (s : State) (ch : Nat) (run : RailRun), ch < Config.channels s.variant → railRun s ch run true = true → (s.chan
    ch).rail = false → run.tick + 63 * s.modPeriod (cellOfCh ch) ≤ s.now → ∃ t, exec (.railStickOnset ch run) s = .next t ∧
    (t.chan ch).rail = true ∧ hasOpen t ch fOWD .rail = true ∧ Counted s t .chFront ch 12 1) ∧
  (∀ (s : State) (ch : Nat) (run : RailRun), ch < Config.channels s.variant → railRun s ch run false = true → (s.chan
    ch).rail = true → run.tick + 63 * s.modPeriod (cellOfCh ch) ≤ s.now → ∃ t, exec (.railStickRelease ch run) s = .next t ∧
    (t.chan ch).rail = false ∧ hasOpen t ch fOWD .rail = false ∧ t.regs = s.regs)

/-- REFERENCE_READY at or after its tick sets bit 1 of the reference state, shows that tick, ends the wait and puts nothing in
any queue. POWER_MODE_SWITCH at or after its tick shows a modulator clock of 3,072 kHz for mode 1 and of 6,144 kHz for mode
0, and ends the wait. AUX_REFERENCE_READY at or after its tick shows state 3 and that tick, and ends the wait.
AUX_POWER_MODE_SWITCH at or after its tick ends the wait and puts the new mode in use; where the mode differs the switch is
listed with the old mode, and with the reference on the reference is ready again 2 ms later. CALIBRATION_CLAIM of a
converter not claimed, when a claim is due that stands: with no request queued or running the claim's step begins, otherwise
the claim waits for those queued; no entry changes. CALIBRATION_STEP_END within the step's time, of the last claim, frees
the converter and notes the driver that it trimmed. (Rests on parts of R109, R110, R112, R114, R135, R136, R153, R242.) -/
def Obligations.ReferencesPowerModesAndClaimsTakeEffect : Prop :=
  (∀ (s : State) (cell due : Nat), cell < 24 → (s.cell cell).readyDue = some due → due ≤ s.now → ∃ t, exec (.referenceReady
    cell) s = .next t ∧ bit (t.nat .refPower cell 3) 1 = true ∧ t.num .refPower cell 5 = ((due % 2 ^ 64 : Nat) : Int) ∧
    (t.cell cell).readyDue = none ∧ t.queues = s.queues) ∧
  (∀ (s : State) (cell due mode : Nat), cell < 24 → (s.cell cell).modeDue = some (due, mode) → due ≤ s.now → ∃ t, exec
    (.powerModeSwitch cell) s = .next t ∧ t.num .refPower cell 4 = (if mode = 1 then 3072 else 6144) ∧ (t.cell cell).modeDue
    = none) ∧
  (∀ (s : State) (due : Nat), s.aux.readyDue = some due → due ≤ s.now → ∃ t, exec .auxReferenceReady s = .next t ∧ t.num
    .aux 0 3 = 3 ∧ t.num .aux 0 10 = ((due % 2 ^ 64 : Nat) : Int) ∧ t.aux.readyDue = none ∧ t.queues = s.queues) ∧
  (∀ (s : State) (due : Nat) (m : Bool), s.aux.modeDue = some (due, m) → due ≤ s.now → ∃ t, exec .auxPowerModeSwitch s =
    .next t ∧ t.aux.modeDue = none ∧ t.aux.lowPower = m ∧ (m ≠ s.aux.lowPower → t.aux.sws.head? = some (due,
    s.aux.lowPower)) ∧ (m ≠ s.aux.lowPower → s.nat .aux 0 1 = 1 → t.aux.readyDue = some (due + 2 * Config.ticksPerMs))) ∧
  (∀ (s : State), calWants (dropClaims s) = true → s.aux.claim = 0 → s.aux.inj = [] → s.aux.injRun = none → ∃ t, exec
    .calibrationClaim s = .next t ∧ t.aux.claim = 2 ∧ t.regs = s.regs) ∧
  (∀ (s : State), calWants (dropClaims s) = true → s.aux.claim = 0 → (s.aux.inj ≠ [] ∨ s.aux.injRun ≠ none) → ∃ t, exec
    .calibrationClaim s = .next t ∧ t.aux.claim = 1 ∧ t.aux.ahead = s.aux.inj.length ∧ t.aux.inj = s.aux.inj ∧ t.regs =
    s.regs) ∧
  (∀ (s : State) (c : Nat × Option Nat), s.aux.claim = 2 → s.aux.stepStart ≤ s.now → s.now ≤ s.aux.stepStart + calStep →
    s.aux.claims = [c] → ∃ t, exec .calibrationStepEnd s = .next t ∧ t.aux.claim = 0 ∧ t.aux.claims = [] ∧ t.aux.trimmed =
    s.aux.trimmed ++ c.2.toList ∧ t.regs = s.regs)

/-- AUX_SCAN_START, with a sequence, at a scan start tick not looked at yet: with no claim and no scan it begins a scan at entry
1 under the sequence in effect and changes only the converter; with a scan in progress it counts an overrun, with a claim a
suppressed start, and the scan stays. AUX_ENTRY_COMPLETE with the values of a whole entry whose last conversion has ended
writes the entry's result word, and goes on to the next entry or ends and counts the scan; for a request it ends and counts
it. INJECTED_REQUEST through a session that may write queues a legal word; with 8 queued it is refused as full and counted.
INJECTED_FLUSH empties the queue. INJECTED_REQUEST_START starts the oldest at its slot, when calibration lets it. (Rests on
parts of R141, R142, R144, R145, R146, R147, R148, R150.) -/
def Obligations.AuxiliaryConverterRunsScansAndRequests : Prop :=
  (∀ (s : State), s.nat .aux 0 5 ≠ 0 → s.now % scanPeriod s s.now = 0 → s.aux.looked ≠ some s.now → s.aux.claim = 0 →
    s.aux.scan = none → ∃ t, exec .auxScanStart s = .next t ∧ t.aux.scan = some s.now ∧ t.aux.entry = 1 ∧ t.aux.seq =
    s.auxSeqOf ∧ { t with aux := s.aux } = s) ∧
  (∀ (s : State), s.nat .aux 0 5 ≠ 0 → s.now % scanPeriod s s.now = 0 → s.aux.looked ≠ some s.now → s.aux.claim = 0 →
    s.aux.scan.isSome = true → ∃ t, exec .auxScanStart s = .next t ∧ t.aux.scan = s.aux.scan ∧ Counted s t .aux 0 8 1) ∧
  (∀ (s : State), s.nat .aux 0 5 ≠ 0 → s.now % scanPeriod s s.now = 0 → s.aux.looked ≠ some s.now → s.aux.claim ≠ 0 → ∃ t,
    exec .auxScanStart s = .next t ∧ t.aux.scan = s.aux.scan ∧ Counted s t .aux 0 9 1) ∧
  (∀ (s : State) (values : List Int) (start b : Nat), s.aux.scan = some start → s.aux.entryStart = some b → 1 ≤ s.aux.entry
    → s.aux.entry ≤ 64 → values.length = 2 ^ aAvg (s.aux.seq.getD (s.aux.entry - 1) 0) → entryEnd s (s.aux.seq.getD
    (s.aux.entry - 1) 0) b ≤ s.now → ∃ t, exec (.auxEntryComplete values) s = .next t ∧ t.num .auxRes 0 s.aux.entry =
    (entryTy .auxRes 0 s.aux.entry).narrow (auxResult s (s.aux.seq.getD (s.aux.entry - 1) 0) b s.aux.entry values false
    false : Nat) ∧ (s.aux.seq.length ≤ s.aux.entry → t.aux.scan = none ∧ Counted s t .aux 0 6 1) ∧ (s.aux.entry <
    s.aux.seq.length → t.aux.entry = s.aux.entry + 1)) ∧
  (∀ (s : State) (values : List Int) (w b : Nat), s.aux.scan = none → s.aux.injRun = some (w, b) → values.length = 2 ^ aAvg
    w → entryEnd s w b ≤ s.now → ∃ t, exec (.auxEntryComplete values) s = .next t ∧ t.aux.injRun = none ∧ Counted s t
    .injected 0 4 1) ∧
  (∀ (s : State) (ses : Nat) (bs : Bytes), s.serves ses → s.power.inReset = false → bs.length = 4 → auxWord s.variant
    (leNat bs) true = none → s.aux.inj.length < 8 → ∃ t, exec (.injectedRequest ses bs) s = .next t ∧ t.ans = .success ∧
    t.aux.inj = s.aux.inj ++ [(leNat bs, s.now)] ∧ t.num .injected 0 2 = ((s.aux.inj.length + 1 : Nat) : Int)) ∧
  (∀ (s : State) (ses : Nat) (bs : Bytes), s.serves ses → s.power.inReset = false → bs.length = 4 → auxWord s.variant
    (leNat bs) true = none → 8 ≤ s.aux.inj.length → ∃ t, exec (.injectedRequest ses bs) s = .next t ∧ t.ans = .queueFull ∧
    t.aux = s.aux ∧ Counted s t .injected 0 3 1) ∧
  (∀ (s : State) (ses : Nat) (bs : Bytes), s.serves ses → s.power.inReset = false → bs.length = 1 → ∃ t, exec
    (.injectedFlush ses bs) s = .next t ∧ t.ans = .success ∧ t.aux.inj = [] ∧ t.num .injected 0 2 = 0) ∧
  (∀ (s : State) (w acc : Nat) (rest : List (Nat × Nat)), s.aux.inj = (w, acc) :: rest → s.aux.injRun = none → injStart s
    acc ≤ s.now → claimLets s.aux = true → rest.length < 256 → ∃ t, exec .injectedRequestStart s = .next t ∧ t.aux.inj =
    rest ∧ t.aux.injRun = some (w, injStart s acc) ∧ t.num .injected 0 2 = rest.length)

/-- SAMPLE_EMITTED of a channel whose cell has lost no period, when its next sample can be computed, shows that sample's index.
THRESHOLD_CROSSING takes the oldest crossing of the channel when it is the comparator's, shows whether the comparator is
active and counts it. SLATE_PERFORMED, with one SLATE accepted and its tick come, takes it off the list, shows its tick,
counts it, and lists the tick on every channel of the hub. (Rests on parts of R158, R187, R192, R225, R549.) -/
def Obligations.SampleEmissionAndCrossings : Prop :=
  (∀ (s : State) (ch k g : Nat), ch < Config.channels s.variant → (s.cell (cellOfCh ch)).lost = [] → nextSample (settleChan
    s ch) ch = some (k, g) → ∃ t, exec (.sampleEmitted ch) s = .next t ∧ t.num .chStatus ch 3 = ((k % 2 ^ 64 : Nat) : Int)) ∧
  (∀ (s : State) (ch cmp : Nat) (x : Crossing) (xs : List Crossing), ch < 384 → cmp < 2 → (s.chan ch).crossings = x :: xs →
    x.cmp = cmp → ∃ t, exec (.thresholdCrossing ch cmp) s = .next t ∧ (t.chan ch).crossings = xs ∧ t.num .chThresh ch (7 *
    cmp + 6) = (b2n x.active : Nat) ∧ Counted s t .chThresh ch (7 * cmp + 7) 1) ∧
  (∀ (s : State) (tick : Nat), s.clk.slates = [tick] → tick ≤ s.now → ∃ t, exec .slatePerformed s = .next t ∧ t.clk.slates
    = [] ∧ t.num .slate 0 6 = ((tick % 2 ^ 64 : Nat) : Int) ∧ Counted s t .slate 0 7 1 ∧ (∀ ch ∈ s.allChans, tick ∈ (t.chan
    ch).slates))

/-- Through a session that may write, with the user as the servo owner: INCREMENT_WRITE in mode 0 sets the increment;
RATE_ADJUSTMENT_WRITE of -100,000,000 to 100,000,000 in mode 1 sets the rate and the increment that follows from it; STEP in
mode 1, with no step since the mode was entered, adds the step to the local clock, notes that the step is done and counts
it. In the other mode, or with the servo as the owner, each is answered 'out of range' and changes no unit of the clock.
CORRECTION_MODE_WRITE and SERVO_OWNER_WRITE of 0 or 1 set the mode and the owner; the owner's change counts as a retained
change. (Rests on parts of R203, R204, R205, R207.) -/
def Obligations.LocalClockWritesFollowTheCorrectionMode : Prop :=
  (∀ (s : State) (ses : Nat) (bs : Bytes), s.serves ses → s.power.inReset = false → bs.length = 8 → s.nat .localClock 0 3 =
    1 → s.nat .localClock 0 4 = 0 → ∃ t, exec (.incrementWrite ses bs) s = .next t ∧ t.ans = .success ∧ t.num .localClock 0
    2 = (leNat bs : Int)) ∧
  (∀ (s : State) (ses : Nat) (bs : Bytes), s.serves ses → s.power.inReset = false → bs.length = 8 → (s.nat .localClock 0 3
    ≠ 1 ∨ s.nat .localClock 0 4 ≠ 0) → ∃ t, exec (.incrementWrite ses bs) s = .next t ∧ t.ans = .outOfRange ∧ t.clk = s.clk
    ∧ t.num .localClock 0 2 = s.num .localClock 0 2) ∧
  (∀ (s : State) (ses : Nat) (bs : Bytes), s.serves ses → s.power.inReset = false → bs.length = 4 → (s.nat .localClock 0 3
    ≠ 1 ∨ s.nat .localClock 0 4 ≠ 1) → ∃ t, exec (.rateAdjustmentWrite ses bs) s = .next t ∧ t.ans = .outOfRange ∧ t.clk =
    s.clk ∧ t.num .localClock 0 2 = s.num .localClock 0 2) ∧
  (∀ (s : State) (ses : Nat) (bs : Bytes), s.serves ses → s.power.inReset = false → bs.length = 8 → (s.nat .localClock 0 3
    ≠ 1 ∨ s.nat .localClock 0 4 ≠ 1 ∨ s.clk.stepDone = true) → ∃ t, exec (.clockStep ses bs) s = .next t ∧ t.ans =
    .outOfRange ∧ t.clk = s.clk) ∧
  (∀ (s : State) (ses : Nat) (bs : Bytes), s.serves ses → s.power.inReset = false → bs.length = 4 → -100000000 ≤ Ty.decode
    .i32 bs → Ty.decode .i32 bs ≤ 100000000 → s.nat .localClock 0 3 = 1 → s.nat .localClock 0 4 = 1 → ∃ t, exec
    (.rateAdjustmentWrite ses bs) s = .next t ∧ t.ans = .success ∧ t.num .localClock 0 6 = Ty.decode .i32 bs ∧ t.num
    .localClock 0 2 = rateIncrement (Ty.decode .i32 bs)) ∧
  (∀ (s : State) (ses : Nat) (bs : Bytes), s.serves ses → s.power.inReset = false → bs.length = 8 → s.nat .localClock 0 3 =
    1 → s.nat .localClock 0 4 = 1 → s.clk.stepDone = false → ∃ t, exec (.clockStep ses bs) s = .next t ∧ t.ans = .success ∧
    t.clk.local_ = s.clk.local_ + ((Ty.decode .i64 bs : Int) : Rat) ∧ t.clk.stepDone = true ∧ Counted s t .localClock 0 10 1) ∧
  (∀ (s : State) (ses m : Nat), s.serves ses → s.power.inReset = false → m ≤ 1 → ∃ t, exec (.correctionModeWrite ses
    (leBytes 1 m)) s = .next t ∧ t.ans = .success ∧ t.num .localClock 0 4 = m) ∧
  (∀ (s : State) (ses m : Nat), s.serves ses → s.power.inReset = false → m ≤ 1 → ∃ t, exec (.servoOwnerWrite ses (leBytes 1
    m)) s = .next t ∧ t.ans = .success ∧ t.num .localClock 0 3 = m ∧ Counted s t .store 0 15 1)

/-- Under the end-to-end profile PTP_SYNC_RECEIVED takes the waiting Sync or Follow_Up that its operands name out of the inbox,
where it comes from the master at the upstream port: a one-step Sync is counted and kept with its receipt, corrected by the
port's asymmetry, and with a known path delay gives the offset; a two-step Sync is counted and waits for its Follow_Up,
which completes it. ANNOUNCE_RECEIVED from the upstream port lists the Announce and shows that port. DELAY_REQ_SEND,
enabled, ready, with a Sync and at its interval, numbers a new request. DELAY_RESP_RECEIVED of the answer to it gives the
mean path delay. Under the peer-to-peer profile PDELAY_MEASUREMENT on an enabled port with link numbers a request at its
interval, when told to ask, and otherwise takes a one-step response to it, the first Pdelay message that waits there, as the
mean link delay. GRANDMASTER_SYNC_SEND of a ring grandmaster, when both intervals have passed, numbers a Sync and an
Announce. (Rests on parts of R196, R199, R200, R201, R206, R207, R215, R216.) -/
def Obligations.ClockMessagesGiveOffsetDelayAndMaster : Prop :=
  (∀ (s : State) (i : Nat) (rx : Rx) (m : PtpMsg), inboxPtp s rx.port (syncNamed m.domain m.sender m.time m.corr) = some
    (i, rx, m) → rx.port = ptpUpstream s → (ptpMaster s).map (·.sender) = some m.sender → m.kind = .sync → m.twoStep = false
    → s.nat .clock 0 2 = 0 → ∃ t, exec (.ptpSyncReceived rx.port m.domain m.sender m.time m.corr) s = .next t ∧ Counted s t
    .ptpPort rx.port 7 1 ∧ t.clk.lastSync = s.now ∧ t.clk.syncT = some (m.time + (m.corr + asymmetry s rx.port rx.port
    .sync) / 65536, ingressNs s rx.port rx.tick rx.frame.sub) ∧ (s.clk.pathOk = true → t.num .localClock 0 7 = wrapS 64
    (ingressNs s rx.port rx.tick rx.frame.sub - (m.time + (m.corr + asymmetry s rx.port rx.port .sync) / 65536) - s.num
    .localClock 0 8)) ∧ t.net.inbox = s.net.inbox.eraseIdx i) ∧
  (∀ (s : State) (i : Nat) (rx : Rx) (m : PtpMsg), inboxPtp s rx.port (syncNamed m.domain m.sender m.time m.corr) = some
    (i, rx, m) → rx.port = ptpUpstream s → (ptpMaster s).map (·.sender) = some m.sender → m.kind = .sync → m.twoStep = true
    → s.nat .clock 0 2 = 0 → ∃ t, exec (.ptpSyncReceived rx.port m.domain m.sender m.time m.corr) s = .next t ∧ Counted s t
    .ptpPort rx.port 7 1 ∧ t.clk.twoStep = some (m.seq, ingressNs s rx.port rx.tick rx.frame.sub, m.corr + asymmetry s
    rx.port rx.port .sync) ∧ t.clk.syncT = s.clk.syncT ∧ t.net.inbox = s.net.inbox.eraseIdx i) ∧
  (∀ (s : State) (i : Nat) (rx : Rx) (m : PtpMsg) (t2 corr : Int), inboxPtp s rx.port (syncNamed m.domain m.sender m.time
    m.corr) = some (i, rx, m) → rx.port = ptpUpstream s → (ptpMaster s).map (·.sender) = some m.sender → m.kind = .followUp
    → s.clk.twoStep = some (m.seq, t2, corr) → s.nat .clock 0 2 = 0 → ∃ t, exec (.ptpSyncReceived rx.port m.domain m.sender
    m.time m.corr) s = .next t ∧ t.clk.twoStep = none ∧ t.clk.lastSync = s.now ∧ t.clk.syncT = some (m.time + (corr +
    m.corr) / 65536, t2) ∧ t.net.inbox = s.net.inbox.eraseIdx i) ∧
  (∀ (s : State) (i : Nat) (rx : Rx) (m : PtpMsg) (a : PtpAnnounce), inboxPtp s rx.port (announceNamed m.domain a) = some
    (i, rx, m) → rx.port = ptpUpstream s → ∃ t, exec (.announceReceived rx.port m.domain a) s = .next t ∧ (a, s.now) ∈
    t.clk.masters ∧ t.clk.lastAnnounce = s.now ∧ t.num .localClock 0 11 = (entryTy .localClock 0 11).narrow rx.port ∧
    t.net.inbox = s.net.inbox.eraseIdx i) ∧
  (∀ (s : State), s.nat .clock 0 2 = 0 → s.has .ptpPort (ptpUpstream s) = true → s.nat .ptpPort (ptpUpstream s) 1 = 1 →
    portReady s (ptpUpstream s) = true → s.clk.syncT.isSome = true → s.clk.lastReq + logTicks (s.num .clock 0 9) ≤ s.now → ∃
    t, exec .delayReqSend s = .next t ∧ t.clk.lastReq = s.now ∧ t.clk.reqSeq = (s.clk.reqSeq + 1) % 65536 ∧ t.clk.reqT =
    none) ∧
  (∀ (s : State) (i : Nat) (rx : Rx) (m : PtpMsg) (t1 t2 t3 : Int), inboxPtp s rx.port (delayRespNamed m.time m.corr) =
    some (i, rx, m) → s.clk.syncT = some (t1, t2) → s.clk.reqT = some t3 → s.nat .clock 0 2 = 0 → rx.port = ptpUpstream s →
    m.asker = s.nat .clock 0 6 → m.seq = s.clk.reqSeq → ∃ t, exec (.delayRespReceived rx.port m.time m.corr) s = .next t ∧
    t.num .localClock 0 8 = wrapS 64 (roundHalfAway ((t2 - t1) + (m.time - t3 - m.corr / 65536)) 2) ∧ t.clk.pathOk = true ∧
    t.clk.reqT = none ∧ t.net.inbox = s.net.inbox.eraseIdx i) ∧
  (∀ (s : State) (port : Nat), s.nat .clock 0 2 = 1 → s.has .ptpPort port = true → s.nat .ptpPort port 1 = 1 → (s.nat .link
    port 3 = 1 ∨ s.nat .link port 3 = 2) → s.clk.pdelay.length = 3 → port < 3 → (s.clk.pdelay.getD port ⟨0, 0, none,
    none⟩).last + logTicks (s.num .clock 0 10) ≤ s.now → ∃ t, exec (.pdelayMeasurement port true) s = .next t ∧
    t.clk.pdelay.getD port ⟨0, 0, none, none⟩ = ⟨((s.clk.pdelay.getD port ⟨0, 0, none, none⟩).seq + 1) % 65536, s.now, none,
    none⟩ ∧ t.net.inbox = s.net.inbox) ∧
  (∀ (s : State) (port i : Nat) (rx : Rx) (m : PtpMsg) (t1 : Int), s.nat .clock 0 2 = 1 → s.has .ptpPort port = true →
    s.nat .ptpPort port 1 = 1 → (s.nat .link port 3 = 1 ∨ s.nat .link port 3 = 2) → inboxPdelay s port = some (i, rx, m) →
    m.kind = .pdelayResp → m.twoStep = false → (s.clk.pdelay.getD port ⟨0, 0, none, none⟩).t1 = some t1 → m.asker = s.nat
    .clock 0 6 → m.seq = (s.clk.pdelay.getD port ⟨0, 0, none, none⟩).seq → s.clk.linkOk.length = 3 → port < 3 → ∃ t, exec
    (.pdelayMeasurement port false) s = .next t ∧ t.num .ptpPort port 3 = (entryTy .ptpPort port 3).narrow (roundHalfAway
    ((ingressNs s port rx.tick rx.frame.sub - t1) * 65536 - (m.corr + asymmetry s port port .pdelayResp)) 2) ∧
    t.clk.linkOk.getD port false = true ∧ (port = ptpUpstream s → t.clk.pathOk = true) ∧ t.net.inbox = s.net.inbox.eraseIdx
    i) ∧
  (∀ (s : State), s.isManager = true → s.nat .clock 0 3 = 1 → s.clk.lastGmSync + logTicks (s.num .clock 0 7) ≤ s.now →
    s.clk.lastGmAnnounce + logTicks (s.num .clock 0 8) ≤ s.now → ∃ t, exec .grandmasterSyncSend s = .next t ∧
    t.clk.lastGmSync = s.now ∧ t.clk.lastGmAnnounce = s.now ∧ t.clk.syncSeq = (s.clk.syncSeq + 1) % 65536 ∧ t.clk.annSeq =
    (s.clk.annSeq + 1) % 65536)

/-- With a master, SYNC_TIMEOUT 3 sync intervals after the last Sync and ANNOUNCE_RECEIPT_TIMEOUT its timeout after the last
Announce put the servo in holdover (state 4) and leave the clock's time; the first leaves the increment too, the second
empties the list of masters and shows no port. GRID_EVALUATION at a multiple of 24,576 not yet evaluated shows the grid
error and leaves the count and the clock. HOLDOVER_GRACE_EXPIRY at a later multiple, after the grace in HOLDOVER without a
tracking servo, makes the grid DRIFTING. FREE_RUN_TIMEOUT, unanchored without a master after the timeout, makes an anchor to
the local clock due and changes nothing else. GRID_ANCHOR of kind 0 or 1 in the cycle in which the local clock passes an
integer second loads the count with it, leaves the clock and an anchored state, and ends the wait. (Rests on parts of R206,
R208, R209, R210.) -/
def Obligations.TimeoutsOfTheClockLeadToHoldover : Prop :=
  (∀ (s : State), s.clk.lastSync + 3 * logTicks (s.num .clock 0 7) ≤ s.now → hasMaster s = true → ∃ t, exec .syncTimeout s
    = .next t ∧ t.num .localClock 0 14 = 4 ∧ t.clk.local_ = s.clk.local_ ∧ t.num .localClock 0 2 = s.num .localClock 0 2) ∧
  (∀ (s : State), s.clk.lastAnnounce + s.nat .clock 0 11 * logTicks (s.num .clock 0 8) ≤ s.now → hasMaster s = true → ∃ t,
    exec .announceReceiptTimeout s = .next t ∧ t.num .localClock 0 14 = 4 ∧ t.clk.masters = [] ∧ t.clk.local_ = s.clk.local_) ∧
  (∀ (s : State), s.now % 24576 = 0 → s.clk.evalAt ≠ some s.now → ∃ t, exec .gridEvaluation s = .next t ∧ t.num .grid 0 3 =
    wrapS 64 (gridError s) ∧ t.clk.evalAt = some s.now ∧ t.now = s.now ∧ t.clk.local_ = s.clk.local_) ∧
  (∀ (s : State), s.nat .grid 0 2 = 3 → s.now % 24576 = 0 → s.clk.graceFrom < s.now → s.clk.moved ≠ some s.now → s.nat
    .localClock 0 14 ≠ 3 → s.clk.graceFrom + msTicks (s.nat .grid 0 6) ≤ s.now → ∃ t, exec .holdoverGraceExpiry s = .next t
    ∧ t.num .grid 0 2 = 4 ∧ t.clk.moved = some s.now) ∧
  (∀ (s : State), s.nat .grid 0 2 = 0 → s.nat .grid 0 7 ≠ 0 → hasMaster s = false → s.clk.anchorDue = none →
    s.clk.aloneFrom + msTicks (s.nat .grid 0 7) ≤ s.now → ∃ t, exec .freeRunTimeout s = .next t ∧ t.clk.anchorDue = some 1 ∧
    { t with clk := s.clk } = s) ∧
  (∀ (s : State) (kind sec : Nat), s.clk.anchorDue = some kind → kind ≤ 1 → passedSecond s = some sec → ∃ t, exec
    .gridAnchor s = .next t ∧ t.now = sec * 24576000 ∧ t.clk.anchorDue = none ∧ t.num .grid 0 2 ≠ 0 ∧ t.clk.local_ =
    s.clk.local_)

/-- REANCHOR_COMMAND of value 1 through a session that may write keeps its tick in grid states 1, 4 and 5 and is 'out of range'
in the others. REANCHOR_START at the first multiple of 24,576 after it makes a load due and leaves the count. SLATE_REQUEST
on an anchored grid of a tick that keeps the lead time is listed; one that does not, or without an anchor, is too late,
counted, and the list stays. SLATE_BALL_EDGE 25 ticks after the edge, with the ball as an input and an anchored grid, lists
the first multiple of the alignment at least the lead time after the edge. ZONE_SLATE on a manager lists a tick likewise,
shows it with mask 1 and begins its own mask. SLATE_CONFIRM of an acceptance from position 1 to 62 sets that bit in the mask
of the SLATE it names, and in the shown mask when that is the last; nothing else changes. (Rests on parts of R213, R225,
R226, R227, R228.) -/
def Obligations.ReanchorAndSlateCommands : Prop :=
  (∀ (s : State) (ses : Nat), s.serves ses → s.power.inReset = false → (s.nat .grid 0 2 = 1 ∨ s.nat .grid 0 2 = 4 ∨ s.nat
    .grid 0 2 = 5) → ∃ t, exec (.reanchorCommand ses [1]) s = .next t ∧ t.ans = .success ∧ t.clk.reanchorCmd = some s.now) ∧
  (∀ (s : State) (ses : Nat), s.serves ses → s.power.inReset = false → (s.nat .grid 0 2 = 0 ∨ s.nat .grid 0 2 = 2 ∨ s.nat
    .grid 0 2 = 3) → ∃ t, exec (.reanchorCommand ses [1]) s = .next t ∧ t.ans = .outOfRange ∧ t.clk = s.clk) ∧
  (∀ (s : State) (r : Nat), s.clk.reanchorCmd = some r → s.now % 24576 = 0 → r < s.now → ∃ t, exec .reanchorStart s = .next
    t ∧ t.clk.reanchorCmd = none ∧ t.clk.anchorDue = some 2 ∧ t.now = s.now) ∧
  (∀ (s : State) (ses : Nat) (bs : Bytes), s.serves ses → s.power.inReset = false → bs.length = 8 → anchored s = true →
    s.now + s.nat .slate 0 4 ≤ leNat bs → ∃ t, exec (.slateRequest ses bs) s = .next t ∧ t.ans = .success ∧ leNat bs ∈
    t.clk.slates ∧ t.num .slate 0 8 = s.num .slate 0 8) ∧
  (∀ (s : State) (ses : Nat) (bs : Bytes), s.serves ses → s.power.inReset = false → bs.length = 8 → (anchored s = false ∨
    leNat bs < s.now + s.nat .slate 0 4) → ∃ t, exec (.slateRequest ses bs) s = .next t ∧ t.ans = .tooLate ∧ t.clk.slates =
    s.clk.slates ∧ Counted s t .slate 0 8 1) ∧
  (∀ (s : State) (edge : Moment), s.nat .slate 0 2 = 1 → edge.tick + 25 ≤ s.now → anchored s = true → ∃ t, exec
    (.slateBallEdge edge) s = .next t ∧ ceilTo (s.nat .slate 0 3) (edge.tick + b2n (edge.sub % 65536 != 0) + s.nat .slate 0
    4) ∈ t.clk.slates) ∧
  (∀ (s : State) (ses : Nat) (bs : Bytes), s.serves ses → s.power.inReset = false → s.isManager = true → bs.length = 8 →
    anchored s = true → s.now + s.nat .slate 0 4 ≤ leNat bs → ∃ t, exec (.zoneSlate ses bs) s = .next t ∧ t.ans = .success ∧
    leNat bs ∈ t.clk.slates ∧ t.num .zoneSlate 0 2 = 1 ∧ t.num .zoneSlate 0 3 = (leNat bs : Int) ∧ (leNat bs, 1) ∈
    t.clk.zones) ∧
  (∀ (s : State) (pos tick : Nat), s.isManager = true → 1 ≤ pos → pos ≤ 62 → ∃ t, exec (.slateConfirm pos ⟨tick, true⟩) s =
    .next t ∧ t.clk = { s.clk with zones := s.clk.zones.map (fun z => if z.1 = tick then (z.1, setBit z.2 pos) else z) } ∧
    (tick = s.nat .zoneSlate 0 3 → bit (t.nat .zoneSlate 0 2) pos = true) ∧ (tick ≠ s.nat .zoneSlate 0 3 → t.regs = s.regs)
    ∧ { t with regs := s.regs, clk := s.clk } = s)

/-- TPO_LEADING_EDGE of an output with no pulse, whose next edge falls in this cycle, counts and starts the pulse with its
trailing edge, timebase and polarity; with the lock gate in grid state 1, 4 or 5 it counts a late instance instead and
starts nothing. TPO_TRAILING_EDGE in the cycle of the trailing edge, in PTP time 100 ns or more after the leading one, ends
the pulse; with no write waiting for it nothing else changes. CROSS_FADE_END of a fade with no sample left and no
active-bank change waiting ends it, with the references that waited, and changes only the channel. DECIMATION_SWITCH of a
channel whose one waiting change is a due decimation word brings that word into use and shows both comparators inactive.
PTP_FORWARD on ports with PTP enabled under the end-to-end profile sends a message of a corrected kind with its residence
time added and counts it; of a two-step Sync it keeps the residence time for the Follow_Up. (Rests on parts of R197, R217,
R218, R219, R220, R169, R190.) -/
def Obligations.TimePulsesFadesAndDecimationSwitches : Prop :=
  (∀ (s : State) (p i : Nat), p < 8 → (s.tpo p).next = some i → tpoPlace s (s.nat .tpo p 2) (tpoEdge s p i) < 1 → (s.tpo
    p).pulse = none → (s.nat .tpo p 11 ≠ 1 ∨ (s.nat .grid 0 2 ≠ 1 ∧ s.nat .grid 0 2 ≠ 4 ∧ s.nat .grid 0 2 ≠ 5)) → ∃ t, exec
    (.tpoLeadingEdge p) s = .next t ∧ Counted s t .tpo p 12 1 ∧ (t.tpo p).pulse = some (((tpoEdge s p i + (tpoPlan s p).2.2
    : Nat) : Int), s.nat .tpo p 2, s.nat .tpo p 3) ∧ (t.tpo p).fired = (s.tpo p).fired + 1) ∧
  (∀ (s : State) (p i : Nat), p < 8 → (s.tpo p).next = some i → tpoPlace s (s.nat .tpo p 2) (tpoEdge s p i) < 1 → (s.tpo
    p).pulse = none → s.nat .tpo p 11 = 1 → (s.nat .grid 0 2 = 1 ∨ s.nat .grid 0 2 = 4 ∨ s.nat .grid 0 2 = 5) → ∃ t, exec
    (.tpoLeadingEdge p) s = .next t ∧ Counted s t .tpo p 13 1 ∧ t.num .tpo p 12 = s.num .tpo p 12 ∧ (t.tpo p).pulse = none ∧
    t.queues = s.queues) ∧
  (∀ (s : State) (p tb pol : Nat) (e : Int), (s.tpo p).pulse = some (e, tb, pol) → tpoPlace s tb e < 1 → (tb = 0 ∨ (s.tpo
    p).lead + 100 / localStep s < (s.now : Rat) + 1) → (s.tpo p).rearm = false → ∃ t, exec (.tpoTrailingEdge p) s = .next t
    ∧ (t.tpo p).pulse = none ∧ { t with tpos := s.tpos } = s) ∧
  (∀ (s : State) (p tb pol : Nat) (e : Int), (s.tpo p).pulse = some (e, tb, pol) → tpoPlace s tb e < 1 → (tb = 0 ∨ (s.tpo
    p).lead + 100 / localStep s < (s.now : Rat) + 1) → (s.tpo p).rearm = true → ∃ t, exec (.tpoTrailingEdge p) s = .next t ∧
    (t.tpo p).pulse = none ∧ (t.tpo p).rearm = false) ∧
  (∀ (s : State) (ch : Nat) (f : Fade), ch < Config.channels s.variant → (s.chan ch).fade = some f → f.left = 0 → (s.chan
    ch).fadeWait = [] → ∃ t, exec (.crossFadeEnd ch) s = .next t ∧ (t.chan ch).fade = none ∧ (t.chan ch).refWait = [] ∧
    { t with chans := s.chans } = s) ∧
  (∀ (s : State) (ch tick w : Nat), ch < Config.channels s.variant → (s.chan ch).sched = [⟨tick, .dec, w, true⟩] → tick ≤
    s.now → tick < 4 * (decW (s.chan ch).use.dw).D * (s.chan ch).nextK → ∃ t, exec (.decimationSwitch ch) s = .next t ∧
    (t.chan ch).use.dw = w ∧ (t.chan ch).sched = [] ∧ t.num .chThresh ch 6 = 0 ∧ t.num .chThresh ch 13 = 0) ∧
  (∀ (s : State) (port sub c : Nat) (o : OutFrame) (r : List OutFrame) (m : PtpMsg), s.net.ports.length = 3 → port < 3 →
    nextFrame (s.port port) = some (c, o, r) → o.frame.content = .ptp m → o.own = false → s.nat .ptpPort port 1 = 1 → s.nat
    .ptpPort o.inPort 1 = 1 → correctedKind s m.kind = true → s.nat .clock 0 2 = 0 → (m.kind ≠ .sync ∨ m.twoStep = false) →
    ∃ t, exec (.ptpForward ⟨port, sub⟩) s = .next t ∧ Counted s t .ptpPort port 8 1 ∧ (t.port port).sent = some
    { o.frame with content := .ptp { m with corr := m.corr + residence s o port sub m.kind } }) ∧
  (∀ (s : State) (port sub c : Nat) (o : OutFrame) (r : List OutFrame) (m : PtpMsg), s.net.ports.length = 3 → port < 3 →
    nextFrame (s.port port) = some (c, o, r) → o.frame.content = .ptp m → o.own = false → s.nat .ptpPort port 1 = 1 → s.nat
    .ptpPort o.inPort 1 = 1 → s.nat .clock 0 2 = 0 → m.kind = .sync → m.twoStep = true → ∃ t, exec (.ptpForward ⟨port, sub⟩)
    s = .next t ∧ t.clk.resid = lastN 64 (s.clk.resid ++ [⟨m.sender, m.domain, m.seq, port, residence s o port sub m.kind⟩])
    ∧ (t.port port).sent = some o.frame)

/-- QUEUE_PUSH on a queue that is neither an events queue nor a cell's, with no push waiting, nothing being dropped and no
reader waiting: with room it appends the word with its end mark, in a full queue the word waits. On a cell's queue it
appends, likewise, the word that the cell forms; where the cell forms none yet, nothing changes. QUEUE_POP of a queue that
is no events queue: of a good head word that ends no cell's item it takes the head, and ends and counts an item at an end
mark or adds the word to the item; of an empty queue the reader waits. CELL_ITEM_ABANDON takes the waiting push of a cell's
queue away and counts it. FLUSH of value 1 through a session that may write, outside a flush, of an empty queue or of one of
cell status: it starts the flush state, counts the items discarded and leaves the queue empty. FLUSH_COMPLETE ends the flush
state, with nothing cut or waiting. PEAK_OCCUPANCY_CLEAR sets the peak to 0. (Rests on parts of R411, R412, R413, R415,
R416, R420, R421, R427.) -/
def Obligations.QueuesPassWordsInOrder : Prop :=
  (∀ (s : State) (q data : Nat) (eoi : Bool), hasQueue s q = true → 96 ≤ q → (q < 162 ∨ 193 ≤ q) → (s.queue q).pushing =
    none → (s.queue q).dropIn = false → (s.queue q).popWaiting = false → (s.queue q).words.length < queueDepth q → ∃ t, exec
    (.queuePush q data eoi) s = .next t ∧ (t.queue q).words = (s.queue q).words ++ [⟨data % 2 ^ 64, eoi, none⟩] ∧ (t.queue
    q).pushing = none ∧ (t.queue q).midItem = !eoi) ∧
  (∀ (s : State) (q data : Nat) (eoi : Bool), hasQueue s q = true → 96 ≤ q → (q < 162 ∨ 193 ≤ q) → (s.queue q).pushing =
    none → (s.queue q).dropIn = false → (s.queue q).popWaiting = false → queueDepth q ≤ (s.queue q).words.length → ∃ t, exec
    (.queuePush q data eoi) s = .next t ∧ (t.queue q).words = (s.queue q).words ∧ (t.queue q).pushing = some ⟨data % 2 ^ 64,
    eoi, none⟩ ∧ t.regs = s.regs) ∧
  (∀ (s : State) (q data cell core : Nat) (eoi : Bool) (u : State) (w : QWord), hasQueue s q = true → (s.queue q).pushing =
    none → cellQueue q = some (cell, core) → cellWord s cell (2 * (q / 48) + core) data = some (u, w) → (u.queue q).dropIn =
    false → (u.queue q).pushing = none → (u.queue q).popWaiting = false → (u.queue q).words.length < queueDepth q → ∃ t,
    exec (.queuePush q data eoi) s = .next t ∧ (t.queue q).words = (u.queue q).words ++ [w] ∧ (t.queue q).pushing = none ∧
    t.cells = u.cells) ∧
  (∀ (s : State) (q data cell core : Nat) (eoi : Bool), cellQueue q = some (cell, core) → cellWord s cell (2 * (q / 48) +
    core) data = none → ∃ t, exec (.queuePush q data eoi) s = .next t ∧ t = s) ∧
  (∀ (s : State) (q : Nat) (w : QWord) (ws : List QWord), hasQueue s q = true → q < 195 → (q < 162 ∨ 193 ≤ q) → (96 ≤ q ∨
    w.eoi = false) → (s.queue q).popWaiting = false → (s.queue q).pushing = none → (s.queue q).dropToMark = false → flushing
    s q = false → (s.queue q).words = w :: ws → ∃ t, exec (.queuePop q .good) s = .next t ∧ (t.queue q).words = ws ∧ (w.eoi
    = true → Counted s t .queue q 4 1 ∧ (t.queue q).item = []) ∧ (w.eoi = false → (t.queue q).item = (s.queue q).item ++
    [w])) ∧
  (∀ (s : State) (q : Nat) (ecc : Ecc), hasQueue s q = true → (q < 162 ∨ 193 ≤ q) → (s.queue q).popWaiting = false →
    (s.queue q).words = [] → ∃ t, exec (.queuePop q ecc) s = .next t ∧ (t.queue q).popWaiting = true ∧ (t.queue q).words =
    [] ∧ t.regs = s.regs) ∧
  (∀ (s : State) (q : Nat) (w : QWord), q < 96 → hasQueue s q = true → (s.queue q).pushing = some w → ∃ t, exec
    (.cellItemAbandon q) s = .next t ∧ (t.queue q).pushing = none ∧ (t.queue q).dropIn = !w.eoi ∧ Counted s t .queue q 9 1 ∧
    Counted s t .queues 0 5 1) ∧
  (∀ (s : State) (ses q : Nat), s.serves ses → s.power.inReset = false → s.has .queue q = true → flushing s q = false →
    (s.queue q).item = [] → (s.queue q).words = [] → (s.queue q).pushing = none → ∃ t, exec (.flush ses q [1]) s = .next t ∧
    t.ans = .success ∧ t.num .queue q 11 = 1 ∧ Counted s t .queue q 7 0) ∧
  (∀ (s : State) (ses q : Nat), s.serves ses → s.power.inReset = false → s.has .queue q = true → 48 ≤ q → q < 96 → flushing
    s q = false → ∃ t, exec (.flush ses q [1]) s = .next t ∧ t.ans = .success ∧ (t.queue q).words = [] ∧ (t.queue q).item =
    [] ∧ t.num .queue q 11 = 1 ∧ Counted s t .queue q 7 (itemCount ((s.queue q).item ++ (s.queue q).words ++ (s.queue
    q).pushing.toList))) ∧
  (∀ (s : State) (q : Nat), q < 195 → flushing s q = true → (s.queue q).dropIn = false → (s.queue q).popWaiting = false → ∃
    t, exec (.flushComplete q) s = .next t ∧ t.num .queue q 11 = 0 ∧ t.queues = s.queues) ∧
  (∀ (s : State) (ses q : Nat) (bs : Bytes), s.serves ses → s.power.inReset = false → s.has .queue q = true → bs.length = 1
    → ∃ t, exec (.peakOccupancyClear ses q bs) s = .next t ∧ t.ans = .success ∧ t.num .queue q 3 = 0 ∧ t.queues = s.queues)

/-- EVENT_ROUTED with a whole good item at the head of an island's events queue, no flush and no push waiting, takes its word
and counts the item. ROUTE_LINE_DELIVERY takes the oldest occurrence of its line. Through a session that may write:
CLEAR_FAULT_LATCHES of value 1 empties the latches and puts nothing in a queue; RAISE_SOFTWARE_EVENT of n below 8 puts event
88 + n, with the session as its detail, on the management island's events queue when that can take it; STICKY_FLAGS_CLEAR
clears a channel's sticky bits that are written as 1. (Rests on parts of R537, R540, R544, R547, R549.) -/
def Obligations.EventsAreRoutedAndDelivered : Prop :=
  (∀ (s : State) (island : Nat) (w : QWord) (ws : List QWord) (e : EvItem), island < 31 → hasQueue s (162 + island) = true
    → flushing s (162 + island) = false → (s.queue (162 + island)).words = w :: ws → w.eoi = true → (s.queue (162 +
    island)).item = [] → (s.queue (162 + island)).pushing = none → (s.queue (162 + island)).dropToMark = false → w.ev = some
    e → ∃ t, exec (.eventRouted island .good) s = .next t ∧ (t.queue (162 + island)).words = ws ∧ Counted s t .router 0 5 1) ∧
  (∀ (s : State) (line : RouteLine) (o : RouteOcc) (rest : List RouteOcc), s.ev.lines.getD (lineIdx line) [] = o :: rest →
    ∃ t, exec (.routeLineDelivery line) s = .next t ∧ t.ev.lines.getD (lineIdx line) [] = rest) ∧
  (∀ (s : State) (ses : Nat), s.serves ses → s.power.inReset = false → ∃ t, exec (.clearFaultLatches ses [1]) s = .next t ∧
    t.ans = .success ∧ t.ev.latches = [] ∧ t.queues = s.queues) ∧
  (∀ (s : State) (ses n : Nat), s.serves ses → s.power.inReset = false → n < 8 → s.canRaise 29 → ∃ t, exec
    (.raiseSoftwareEvent ses (leBytes 1 n)) s = .next t ∧ t.ans = .success ∧ Raised s t 29 ⟨88 + n, 1, ses, s.now⟩) ∧
  (∀ (s : State) (ses ch : Nat) (bs : Bytes), s.serves ses → s.power.inReset = false → ch < Config.channels s.variant →
    bs.length = 1 → s.nat .chStatus ch 5 < 256 → ∃ t, exec (.stickyFlagsClear ses ch bs) s = .next t ∧ t.ans = .success ∧
    t.nat .chStatus ch 5 = s.nat .chStatus ch 5 - (s.nat .chStatus ch 5 &&& leNat bs))

/-- RECORD_COMPLETE of a waiting record with a main slot that has not failed and a good read-back writes its bytes there, takes
it from the waiting records and counts it; with the main slot failed, a good emergency slot and a good read-back it writes
them to that slot instead and counts both. RECORD_SNAPSHOT_TIMEOUT 1 ms after the only waiting record began, with entries
missing, sets its bit 1 and counts them. RECORDER_SLOT_READ with a corrected error answers the bytes of a main slot and
counts the error; an uncorrectable one is answered with the internal error and no bytes, and fails an emergency slot without
touching the sticky bit. (Rests on parts of R551, R552, R557, R558, R559.) -/
def Obligations.TheRecorderStoresAndReadsRecords : Prop :=
  (∀ (s : State) (seq : Nat) (emergencyOk : Bool) (r : PendRec), s.ev.recs.find? (fun r => r.seq == seq) = some r →
    s.ev.failMain.contains (seq % 2048) = false → ∃ t, exec (.recordComplete seq true emergencyOk) s = .next t ∧ t.bytes
    .recSlots (seq % 2048 / 128) (seq % 2048 % 128 + 1) = recordBytes r false ∧ (∀ x ∈ t.ev.recs, x.seq ≠ seq) ∧ Counted s t
    .recorder 0 5 1) ∧
  (∀ (s : State) (seq e : Nat) (mainOk : Bool) (r : PendRec), s.ev.recs.find? (fun r => r.seq == seq) = some r →
    s.ev.failMain.contains (seq % 2048) = true → nextEmergency s = some e → e < 32 → ∃ t, exec (.recordComplete seq mainOk
    true) s = .next t ∧ t.bytes .recEmergency 0 (e + 1) = recordBytes r true ∧ (∀ x ∈ t.ev.recs, x.seq ≠ seq) ∧ Counted s t
    .recorder 0 5 1 ∧ Counted s t .recorder 0 12 1) ∧
  (∀ (s : State) (seq : Nat) (missing : List Nat) (r : PendRec), s.ev.recs = [r] → r.seq = seq → r.tick + 24576 ≤ s.now →
    (List.range r.words.length).filter (missing.contains ·) ≠ [] → ∃ t, exec (.recordSnapshotTimeout seq missing) s = .next
    t ∧ (∀ x ∈ t.ev.recs, bit x.flags 1 = true) ∧ Counted s t .recorder 0 8 ((List.range r.words.length).filter
    (missing.contains ·)).length) ∧
  (∀ (s : State) (slot : Nat), slot < 2048 → ∃ t, exec (.recorderSlotRead 0 slot .corrected) s = .next t ∧ t.ans = .success
    ∧ t.ansBody = mainSlot s slot ∧ Counted s t .recorder 0 9 1 ∧ t.ev = s.ev) ∧
  (∀ (s : State) (slot : Nat), slot < 32 → s.ev.failEmer.contains slot = false → ∃ t, exec (.recorderSlotRead 1 slot
    .uncorrectable) s = .next t ∧ t.ans = .internal ∧ t.ansBody = [] ∧ slot ∈ t.ev.failEmer ∧ t.ev.sticky = s.ev.sticky)

/-- DIN_FILTER_ACCEPT of a running input, of a level that differs from the filtered one and was kept for the filter length, adds
the change with its acceptance tick, its edge and its level to those of the edge processor. DIN_EDGE_PROCESSED of an input
with nothing processed before takes its first change and counts the edge. DIGITAL_INPUT_STUCK after the maximum active time
of a level 1 sets the stuck bit, counts it and shows the tick. DIN_SETTING_WRITE through a session that may write of a new
filter length of 25 to 24,576 sets it and restarts the filter. (Rests on parts of R262, R263, R264, R265, R648.) -/
def Obligations.DigitalInputsFilterProcessAndStick : Prop :=
  (∀ (s : State) (i : Nat) (edge : Moment) (run : Nat) (ball : Bool) (d : DinSt), i < 16 → Sparse.find s.dins i = some d →
    d.fresh = false → s.nat .din i 2 ≤ edge.tick + run - max edge.tick d.from_ → max edge.tick d.from_ + s.nat .din i 2 ≤
    s.now → (ball != (s.nat .din i 1 == 1)) ≠ bit (s.nat .din i 4) 0 → ∃ t, exec (.dinFilterAccept i ball edge run) s =
    .next t ∧ (Sparse.find t.dins i).map (·.changes) = some (d.changes ++ [⟨max edge.tick d.from_ + s.nat .din i 2,
    edge.tick, edge.sub, ball != (s.nat .din i 1 == 1)⟩])) ∧
  (∀ (s : State) (i : Nat) (d : DinSt) (c : DinChange) (rest : List DinChange), i < 16 → Sparse.find s.dins i = some d →
    d.changes = c :: rest → d.proc = none → c.accepted ≤ s.now → ∃ t, exec (.dinEdgeProcessed i) s = .next t ∧ (Sparse.find
    t.dins i).map (fun d => (d.changes, d.proc, d.procLevel)) = some (rest, some c.accepted, c.level) ∧ Counted s t .din i 5
    1) ∧
  (∀ (s : State) (i r : Nat) (d : DinSt), i < 16 → Sparse.find s.dins i = some d → d.runFrom = some r → s.nat .din i 3 ≠ 0
    → isStuck d = false → r + msTicks (s.nat .din i 3) ≤ s.now → ∃ t, exec (.digitalInputStuck i) s = .next t ∧ bit (t.nat
    .din i 4) 1 = true ∧ Counted s t .din i 8 1 ∧ t.num .din i 9 = ((s.now % 2 ^ 64 : Nat) : Int)) ∧
  (∀ (s : State) (ses i : Nat) (bs : Bytes) (d : DinSt), s.serves ses → s.power.inReset = false → i < 16 → bs.length = 2 →
    25 ≤ leNat bs → leNat bs ≤ 24576 → s.num .din i 2 ≠ leNat bs → Sparse.find s.dins i = some d → ∃ t, exec
    (.dinSettingWrite ses (Obj.index .din i) 2 bs) s = .next t ∧ t.ans = .success ∧ t.num .din i 2 = (leNat bs : Int) ∧
    (Sparse.find t.dins i).map (fun d => (d.fresh, d.from_)) = some (true, s.now))

/-- NETWORK_TRIGGER through a session that may write, of a take whose first start source is the network, gives it an occurrence
at the tick written, or now when that has passed. TIME_SOURCE_INSTANCE at its tick moves on to the next instance, or to none
without a period, and changes only takes. TAKE_TRIGGER_OCCURRENCE takes the only occurrence, when its tick has come and is
new, and lists the tick; in the states 1 to 4 at that tick with the gate not met it counts a gated occurrence, keeps the
state and raises nothing; in 2 to 4 with the gate met it counts a missed trigger. TAKE_STOP_OCCURRENCE behind the trigger
point fixes the stop point and its tick and changes only takes. RELEASE_OFFSET_WRITE of a multiple of 64 between the release
and the write offset, the first not behind the second, moves the release offset. LARGEST_SLACK_CLEAR sets the largest slack
to 0. (Rests on parts of R271, R272, R274, R275, R283, R285, R290, R295.) -/
def Obligations.TriggersReachTheTakeEngine : Prop :=
  (∀ (s : State) (ses k : Nat) (bs : Bytes), s.serves ses → s.power.inReset = false → k < 16 → bs.length = 8 → s.nat .take
    k 5 / 4096 = 4 → ∃ t, exec (.networkTrigger ses k bs) s = .next t ∧ t.ans = .success ∧ (∃ o ∈ (t.take k).starts, o.tick
    = max (leNat bs) s.now)) ∧
  (∀ (s : State) (k i : Nat), k < 16 → (s.take k).timeNext = some i → s.nat .take k 11 + i * s.nat .take k 12 ≤ s.now → ∃
    t, exec (.timeSourceInstance k) s = .next t ∧ (t.take k).timeNext = (if s.nat .take k 12 = 0 then none else some (i +
    1)) ∧ { t with takes := s.takes } = s) ∧
  (∀ (s : State) (k : Nat) (o : Occ), (s.take k).starts = [o] → o.tick ≤ s.now → o.tick ∉ (s.take k).seen → ∃ t, exec
    (.takeTriggerOccurrence k) s = .next t ∧ (t.take k).starts = [] ∧ (t.take k).seen = (o.tick :: (s.take k).seen).take 64) ∧
  (∀ (s : State) (k : Nat) (o : Occ), k < 16 → (s.take k).starts = [o] → o.tick ≤ s.now → o.tick ∉ (s.take k).seen → 1 ≤
    histAt (s.take k).hist o.tick 0 → histAt (s.take k).hist o.tick 0 ≤ 4 → gateMet s k o.tick = false → ∃ t, exec
    (.takeTriggerOccurrence k) s = .next t ∧ Counted s t .takeStat k 8 1 ∧ takeState t k = takeState s k ∧ t.queues =
    s.queues) ∧
  (∀ (s : State) (k : Nat) (o : Occ), k < 16 → (s.take k).starts = [o] → o.tick ≤ s.now → o.tick ∉ (s.take k).seen → 2 ≤
    histAt (s.take k).hist o.tick 0 → histAt (s.take k).hist o.tick 0 ≤ 4 → gateMet s k o.tick = true → ∃ t, exec
    (.takeTriggerOccurrence k) s = .next t ∧ Counted s t .takeStat k 7 1 ∧ (t.take k).starts = []) ∧
  (∀ (s : State) (k : Nat) (o : Occ) (f : Fill), (s.take k).stops = [o] → o.tick ≤ s.now → (s.take k).fill = some f →
    f.fillEnd = none → f.stop = none → f.pIn < trigPoint s f.d o.tick o.kind → ∃ t, exec (.takeStopOccurrence k) s = .next t
    ∧ (t.take k).fill = some { f with stop := some (trigPoint s f.d o.tick o.kind), stopAt := o.tick } ∧ (t.take k).stops =
    [] ∧ { t with takes := s.takes } = s) ∧
  (∀ (s : State) (ses : Nat) (bs : Bytes), s.serves ses → s.power.inReset = false → bs.length = 8 → leNat bs % 64 = 0 →
    s.nat .takeMem 0 6 ≤ leNat bs → leNat bs ≤ s.nat .takeMem 0 5 → ∃ t, exec (.releaseOffsetWrite ses bs) s = .next t ∧
    t.ans = .success ∧ t.num .takeMem 0 6 = (leNat bs : Int) ∧ t.takeMem = s.takeMem) ∧
  (∀ (s : State) (ses k : Nat) (bs : Bytes), s.serves ses → s.power.inReset = false → k < 16 → bs.length = 8 → ∃ t, exec
    (.largestSlackClear ses k bs) s = .next t ∧ t.ans = .success ∧ t.num .takeStat k 12 = 0)

/-- TAKE_COPY of the only fill, with no tideline, when the next slot lies within its reserved slots and its end, every ring
holds it and the share allows it, copies that slot and changes no entry and no byte of the region. TAKE_FILL_END of a fill
that has not ended, when every ring holds its samples up to its last slot, gives it an end and its number of post-trigger
slots, and the take state 3. TAKE_RECORD_COMMIT of a whole record that is first in the region, on a hub that does not
compare and whose ports are sound, ends the fill and counts the take. TAKE_REARM at or after the re-arm tick, with no write
waiting, makes the take ARMED. (Rests on parts of R282, R285, R286, R288, R290.) -/
def Obligations.AFillCopiesEndsCommitsAndRearms : Prop :=
  (∀ (s : State) (k : Nat) (f : Fill) (ws : List Samp), fillOrder s = [k] → (s.take k).fill = some f → f.tide = none →
    f.nextSlot < f.nPre + fillPost s f → f.nextSlot < f.slots → slotWords s f f.nextSlot = some (some ws) → 4 * ws.length ≤
    shareLeft s → ∃ t, exec .takeCopy s = .next t ∧ (t.take k).fill = some
    { f with copied := (f.copied.zip ws).map (fun p => p.1 ++ [p.2]) } ∧ t.regs = s.regs ∧ t.takeMem.bytes = s.takeMem.bytes) ∧
  (∀ (s : State) (k : Nat) (f : Fill), k < 16 → (s.take k).fill = some f → f.fillEnd = none → f.nPre + fillPost s f ≤
    f.heldEnd s → ∃ t, exec (.takeFillEnd k) s = .next t ∧ takeState t k = 3 ∧ (t.take k).fill.any (fun g =>
    g.fillEnd.isSome && g.post == fillPost s f) = true ∧ t.queues = s.queues) ∧
  (∀ (s : State) (k : Nat) (f : Fill) (p : Place), k < 16 → (s.take k).fill = some f → s.takeMem.places.head? = some p →
    p.take = k → fillDone f = true → recordFormed s k = false → s.cust.units = [] → s.cust.broken = none → comparing s =
    false → ∃ t, exec (.takeRecordCommit k) s = .next t ∧ (t.take k).fill = none ∧ Counted s t .takeStat k 4 1) ∧
  (∀ (s : State) (k r : Nat), k < 16 → (s.take k).armAt = some r → r ≤ s.now → (s.take k).waits = [] → ∃ t, exec
    (.takeRearm k) s = .next t ∧ takeState t k = 1 ∧ (t.take k).armAt = none ∧ t.queues = s.queues)

/-- While the cores are compared, of the one unit that waits: SIGNATURE_ARRIVAL of core A, before B's, keeps the signature and
changes only the custody record; after an equal one of B it releases and counts the unit and the holder stays; after a
different one of B, where no loss shared by the cores exempts the unit, custody passes to the other core (state 1, the
former holder 3), the mismatch is recorded as kind 1, counted, and the unit released; where one exempts it the unit is
released and counted as not compared. COMPARE_TIMEOUT, T_c after one core's signature: with the holder silent custody
passes, kind 2; with the standby silent that goes to self-test (state 4) and the unit is released. CORE_FAULT_SIGNAL of the
holder with a standby moves custody, kind 4; of a standby it sends that core to self-test and releases the units. (Rests on
parts of R391, R393, R395, R407.) -/
def Obligations.SignaturesReleaseUnitsOrMoveCustody : Prop :=
  (∀ (s : State) (ord flip : Nat) (u : CUnit), comparing s = true → ord = s.cust.base → s.cust.units = [u] → u.sigA = none
    → u.sigB = none → ∃ t, exec (.signatureArrival 0 ord flip) s = .next t ∧ t.cust.units =
    [{ u with sigA := some (crc32c u.bytesA ^^^ flip, s.now) }] ∧ { t with cust := s.cust } = s) ∧
  (∀ (s : State) (ord at_ : Nat) (u : CUnit), comparing s = true → ord = s.cust.base → s.cust.units = [u] → u.sigA = none →
    u.sigB = some (crc32c u.bytesA, at_) → u.exempt s = false → s.cust.handover = false → ∃ t, exec (.signatureArrival 0 ord
    0) s = .next t ∧ t.cust.units = [] ∧ t.cust.base = s.cust.base + 1 ∧ Counted s t .custody 0 8 1 ∧ t.holder = s.holder) ∧
  (∀ (s : State) (ord flip : Nat) (b : Nat × Nat) (u : CUnit), comparing s = true → s.holder ≤ 1 → ord = s.cust.base →
    s.cust.units = [u] → u.sigA = none → u.sigB = some b → crc32c u.bytesA ^^^ flip ≠ b.1 → u.exempt s = false → ∃ t, exec
    (.signatureArrival 0 ord flip) s = .next t ∧ t.holder = otherCore s.holder ∧ t.core (otherCore s.holder) = 1 ∧ t.core
    s.holder = 3 ∧ Counted s t .custody 0 11 1 ∧ t.num .mismatch 0 2 = 1 ∧ t.cust.units = []) ∧
  (∀ (s : State) (ord flip : Nat) (b : Nat × Nat) (u : CUnit), comparing s = true → ord = s.cust.base → s.cust.units = [u]
    → u.sigA = none → u.sigB = some b → u.exempt s = true → s.cust.handover = false → ∃ t, exec (.signatureArrival 0 ord
    flip) s = .next t ∧ t.cust.units = [] ∧ Counted s t .custody 0 9 1 ∧ t.holder = s.holder) ∧
  (∀ (s : State) (b : Nat × Nat) (u : CUnit), comparing s = true → s.holder ≤ 1 → s.cust.units = [u] → u.sig s.holder =
    none → u.sig (otherCore s.holder) = some b → b.2 + usTicks (s.nat .custody 0 4) ≤ s.now → ∃ t, exec .compareTimeout s =
    .next t ∧ t.holder = otherCore s.holder ∧ t.num .mismatch 0 2 = 2 ∧ Counted s t .custody 0 11 1) ∧
  (∀ (s : State) (a : Nat × Nat) (u : CUnit), comparing s = true → s.holder ≤ 1 → s.cust.units = [u] → u.sig s.holder =
    some a → u.sig (otherCore s.holder) = none → a.2 + usTicks (s.nat .custody 0 4) ≤ s.now → ∃ t, exec .compareTimeout s =
    .next t ∧ t.holder = s.holder ∧ t.core (otherCore s.holder) = 4 ∧ t.cust.units = []) ∧
  (∀ (s : State) (core : Nat), Config.hasCoreB s.variant = true → core ≤ 1 → core = s.holder → s.core (otherCore core) = 2
    → ∃ t, exec (.coreFaultSignal core) s = .next t ∧ t.holder = otherCore s.holder ∧ t.num .mismatch 0 2 = 4 ∧ Counted s t
    .custody 0 11 1) ∧
  (∀ (s : State) (core : Nat), Config.hasCoreB s.variant = true → core ≤ 1 → core ≠ s.holder → s.holder ≤ 1 → s.core core =
    2 → ∃ t, exec (.coreFaultSignal core) s = .next t ∧ t.holder = s.holder ∧ t.core core = 4 ∧ t.cust.units = [])

/-- PROVING_PERIOD_END at or after its tick sends the former holder to self-test. HIDDEN_FAULT_AT_TAKEOVER of part 1 to 5 on a
hub with core B is counted: with no proving period custody stays, with a duty to return it; during one custody goes back to
the former holder and the present one to self-test. CORE_SELF_TEST_END 65 ms after the start of the only test, after a
mismatch, is counted: a core that fails is FAILED with the verdict on it; one that passes, with the automatic return on,
goes to resynchronisation. HANDBACK, with the handback on, a suspect standby and 64 equal ordinals, moves custody and begins
a proving period. Through a session that may write on a hub with core B: PLANNED_HANDOVER with a standby asks for a move and
the holder stays; RESTORE_CORE_A and RESTORE_CORE_B send their FAILED core to self-test. (Rests on parts of R392, R395,
R397, R399, R400, R401, R402, R405, R406.) -/
def Obligations.SelfTestsVerdictsAndCustodyCommands : Prop :=
  (∀ (s : State) (x due : Nat) (why : TestWhy), s.cust.proving = some (x, why, due) → due ≤ s.now → x ≤ 1 → ∃ t, exec
    .provingPeriodEnd s = .next t ∧ t.cust.proving = none ∧ t.core x = 4 ∧ t.cust.tests.any (fun k => k.1 == x) = true) ∧
  (∀ (s : State) (part : Nat), Config.hasCoreB s.variant = true → 1 ≤ part → part ≤ 5 → s.cust.proving = none → ∃ t, exec
    (.hiddenFaultAtTakeover part) s = .next t ∧ t.cust.mustReturn = true ∧ Counted s t .custody 0 12 1 ∧ t.holder = s.holder) ∧
  (∀ (s : State) (part x due : Nat) (why : TestWhy), Config.hasCoreB s.variant = true → 1 ≤ part → part ≤ 5 →
    s.cust.proving = some (x, why, due) → s.holder ≤ 1 → x = otherCore s.holder → ∃ t, exec (.hiddenFaultAtTakeover part) s
    = .next t ∧ t.holder = x ∧ t.core x = 1 ∧ t.core s.holder = 4 ∧ t.cust.proving = none ∧ Counted s t .custody 0 12 1) ∧
  (∀ (s : State) (core start : Nat), core ≤ 1 → s.cust.tests = [(core, .mismatch, start)] → start + 65 * 24576 ≤ s.now → ∃
    t, exec (.coreSelfTestEnd core false) s = .next t ∧ t.core core = 6 ∧ t.num .mismatch 0 5 = ((core + 1 : Nat) : Int) ∧
    t.cust.tests = [] ∧ Counted s t .custody 0 13 1) ∧
  (∀ (s : State) (core start : Nat), core ≤ 1 → s.cust.tests = [(core, .mismatch, start)] → start + 65 * 24576 ≤ s.now →
    s.nat .custody 0 6 = 1 → ∃ t, exec (.coreSelfTestEnd core true) s = .next t ∧ t.core core = 5 ∧ t.cust.resync.isSome =
    true ∧ t.cust.tests = [] ∧ Counted s t .custody 0 13 1) ∧
  (∀ (s : State), comparing s = true → s.holder ≤ 1 → s.nat .custody 0 5 = 1 → s.cust.suspect = some (otherCore s.holder) →
    64 ≤ s.cust.equal → ∃ t, exec .handback s = .next t ∧ t.holder = otherCore s.holder ∧ t.cust.proving.isSome = true ∧
    Counted s t .custody 0 11 1) ∧
  (∀ (s : State) (ses : Nat), s.serves ses → s.power.inReset = false → Config.hasCoreB s.variant = true → s.core (otherCore
    s.holder) = 2 → ∃ t, exec (.plannedHandover ses) s = .next t ∧ t.ans = .success ∧ t.cust.handover = true ∧ t.holder =
    s.holder) ∧
  (∀ (s : State) (ses : Nat), s.serves ses → s.power.inReset = false → Config.hasCoreB s.variant = true → s.core 0 = 6 → ∃
    t, exec (.restoreCoreA ses) s = .next t ∧ t.ans = .success ∧ t.core 0 = 4 ∧ t.cust.tests.any (fun k => k.1 == 0) = true) ∧
  (∀ (s : State) (ses : Nat), s.serves ses → s.power.inReset = false → Config.hasCoreB s.variant = true → s.core 1 = 6 → ∃
    t, exec (.restoreCoreB ses) s = .next t ∧ t.ans = .success ∧ t.core 1 = 4 ∧ t.cust.tests.any (fun k => k.1 == 1) = true)

/-- At or after the due tick, before the join, RESYNC_JOIN of a first attempt and RESYNC_RETRY of a later one note the join at
that tick and count the attempt. RESYNC_SNAPSHOT at or after the first whole millisecond four largest spans behind the join
keeps and shows that tick. SNAPSHOT_COPY_COMPLETE after it, with nothing that spoils the copy, marks the copy and changes
only the custody record. CORE_RESYNCHRONISED after the copy, with no duty to return custody, makes the core STANDBY and ends
the resynchronisation. CORE_RESYNCHRONISATION_FAILED between the snapshot and the copy counts the failure, and begins again
at the first whole millisecond a second later, or at the limit of retries leaves the core FAILED. (Rests on parts of R402,
R404.) -/
def Obligations.AReturningCoreIsResynchronised : Prop :=
  (∀ (s : State) (r : Resync), s.cust.resync = some r → r.fails = 0 → r.tj = none → r.due ≤ s.now → ∃ t, exec .resyncJoin s
    = .next t ∧ t.cust.resync = some { r with tj := some r.due, ts := none, copied := false, spoiled := false } ∧ Counted s
    t .resync 0 5 1) ∧
  (∀ (s : State) (r : Resync), s.cust.resync = some r → r.fails ≠ 0 → r.tj = none → r.due ≤ s.now → ∃ t, exec .resyncRetry
    s = .next t ∧ t.cust.resync = some { r with tj := some r.due, ts := none, copied := false, spoiled := false } ∧ Counted
    s t .resync 0 5 1) ∧
  (∀ (s : State) (r : Resync) (tj : Nat), s.cust.resync = some r → r.tj = some tj → r.ts = none → ceilTo 24576 (tj + 4 *
    largestSpan s) ≤ s.now → ∃ t, exec .resyncSnapshot s = .next t ∧ t.cust.resync = some
    { r with ts := some (ceilTo 24576 (tj + 4 * largestSpan s)) } ∧ t.num .resync 0 3 = ((ceilTo 24576 (tj + 4 * largestSpan
    s) % 2 ^ 64 : Nat) : Int)) ∧
  (∀ (s : State) (r : Resync), s.cust.resync = some r → r.ts.isSome = true → r.copied = false → r.spoiled = false → ∃ t,
    exec .snapshotCopyComplete s = .next t ∧ t.cust.resync = some { r with copied := true } ∧ { t with cust := s.cust } = s) ∧
  (∀ (s : State) (r : Resync), s.cust.resync = some r → r.core ≤ 1 → r.copied = true → s.cust.mustReturn = false → ∃ t,
    exec .coreResynchronised s = .next t ∧ t.core r.core = 2 ∧ t.cust.resync = none ∧ t.cust.equal = 0) ∧
  (∀ (s : State) (r : Resync), s.cust.resync = some r → r.ts.isSome = true → r.copied = false → r.fails + 1 < s.nat .resync
    0 7 → ∃ t, exec .coreResynchronisationFailed s = .next t ∧ t.cust.resync = some
    { r with due := ceilTo 24576 (s.now + 24576000), tj := none, ts := none, spoiled := false, fails := r.fails + 1 } ∧
    Counted s t .resync 0 6 1) ∧
  (∀ (s : State) (r : Resync), s.cust.resync = some r → r.core ≤ 1 → r.ts.isSome = true → r.copied = false → s.nat .resync
    0 7 ≤ r.fails + 1 → ∃ t, exec .coreResynchronisationFailed s = .next t ∧ t.cust.resync = none ∧ t.core r.core = 6 ∧
    Counted s t .resync 0 6 1)

/-- With no compare unit waiting: BLOCK_FORMED takes the earliest block that has ended and counts the mismatch that core A's
verifier finds in a coded block; WINDOW_RECORD_FORMED takes the oldest take-bound record that its window owes, or, with
none, the record of a window whose members' last samples have come; neither changes the grid count. COPY_PORT_BEAT while a
copy is ready is counted and changes nothing else. COPY_TIMEOUT 100 us after the request of the first copy that is ready, of
a fill without a tideline and with no takeover to blame, ends that fill with its tideline behind the last slot copied and
counts it. (Rests on parts of R328, R344, R346, R303, R317, R460.) -/
def Obligations.RecordsBlocksAndCopiesBecomeCompareUnits : Prop :=
  (∀ (s : State) (failA failB : Bool) (r : BlkReady) (rs : List BlkReady), s.strm.ready = r :: rs → r.tick ≤ s.now →
    s.cust.units = [] → ∃ t, exec (.blockFormed failA failB) s = .next t ∧ t.strm.ready = rs ∧ (failA = true → r.blk.isCoded
    = true → Counted s t .codec 0 9 1) ∧ t.now = s.now) ∧
  (∀ (s : State) (w k seq : Nat) (d : WinDef) (f : Fill) (rest : List (Nat × Nat × WinDef × Fill)), (s.win w).bound = (k,
    seq, d, f) :: rest → s.cust.units = [] → ∃ t, exec (.windowRecordFormed w) s = .next t ∧ (t.win w).bound = rest ∧ t.now
    = s.now) ∧
  (∀ (s : State) (w : Nat) (r : WinRun) (rest : List WinRun), (s.win w).bound = [] → (s.win w).runs = r :: rest → runDone s
    r = true → s.cust.units = [] → ∃ t, exec (.windowRecordFormed w) s = .next t ∧ (t.win w).runs = rest ∧ t.now = s.now) ∧
  (∀ (s : State), copyBusy s = true → ∃ t, exec .copyPortBeat s = .next t ∧ Counted s t .dmaEngine 0 7 1 ∧
    { t with regs := s.regs } = s) ∧
  (∀ (s : State) (k : Nat) (f : Fill), k < 16 → (fillOrder s).find? (copyReady s) = some k → s.cust.copyNew = false →
    (s.take k).fill = some f → f.tide = none → max (copySince s) f.since + copyTicks ≤ s.now → ∃ t, exec .copyTimeout s =
    .next t ∧ (t.take k).fill.any (fun g => g.tide == some ((f.nextSlot : Int) - 1)) = true ∧ Counted s t .takeStat k 5 1)

/-- Through a session that may write, outside reset: CALIBRATION_START in run state 0 is answered with success, keeps the run's
options and sets its CALRES step for the first whole millisecond at least 49,152 ticks later; CALIBRATION_ABORT in run state
2 or above sets state 4, drops the waiting cells, leaves the interrupted ones and sets the abort for the next whole
millisecond, in state 0 or 1 it is answered in use and changes no calibration state; END_HOLD_OFF in state 1 sets state 0,
result code 5 after a user's write and 6 otherwise, and start-up phase 5. HOLD_OFF_EXPIRY in state 1, 2,000 ms after the
hold-off began, begins the start-up run's CALRES step at that tick and start-up phase 4. CALRES_STEP_START in state 0 at its
tick begins the CALRES step, state 2, and shows the tick. CALRES_STEP_END 16 ms later, without an abort, reports the
resistance; within 9,950,000 to 10,050,000 milliohms, for a run that selects a cell, it goes on to the run's cells in state
3; outside it ends the run with state 0 and result code 4. (Rests on parts of R232, R233, R234, R235, R241, R259.) -/
def Obligations.CalibrationRunsBeginAbortAndEnd : Prop :=
  (∀ (s : State) (ses : Nat) (allg stst skew defer_ : Bool), s.serves ses → s.power.inReset = false → calState s = 0 → ∃ t,
    exec (.calibrationStart ses allg stst skew defer_) s = .next t ∧ t.ans = .success ∧ t.cal.run = some ⟨allg, stst, skew,
    defer_, false⟩ ∧ t.cal.startAt = some (ceilTo 24576 (s.now + 49152))) ∧
  (∀ (s : State) (ses : Nat), s.serves ses → s.power.inReset = false → 2 ≤ calState s → ∃ t, exec (.calibrationAbort ses) s
    = .next t ∧ t.ans = .success ∧ t.num .cal 0 5 = 4 ∧ t.cal.abortAt = some (nextMs s) ∧ t.cal.waiting = [] ∧ t.cal.running
    = s.cal.running) ∧
  (∀ (s : State) (ses : Nat), s.serves ses → s.power.inReset = false → calState s ≤ 1 → ∃ t, exec (.calibrationAbort ses) s
    = .next t ∧ t.ans = .inUse ∧ t.cal = s.cal) ∧
  (∀ (s : State) (ses : Nat), s.serves ses → s.power.inReset = false → calState s = 1 → ∃ t, exec (.endHoldOff ses) s =
    .next t ∧ t.ans = .success ∧ t.num .cal 0 5 = 0 ∧ t.num .cal 0 6 = (if s.cal.wrote then 5 else 6) ∧ t.num .startup 0 3 =
    5) ∧
  (∀ (s : State) (x : Nat), s.cal.holdFrom = some x → calState s = 1 → x + msTicks 2000 ≤ s.now → ∃ t, exec .holdOffExpiry
    s = .next t ∧ t.cal.run = some ⟨false, true, true, false, true⟩ ∧ t.cal.calres = some (x + msTicks 2000) ∧
    t.cal.holdFrom = none ∧ t.num .cal 0 5 = 2 ∧ t.num .startup 0 3 = 4) ∧
  (∀ (s : State) (x : Nat), s.cal.startAt = some x → x ≤ s.now → calState s = 0 → ∃ t, exec .calresStepStart s = .next t ∧
    t.cal.calres = some x ∧ t.cal.startAt = none ∧ t.num .cal 0 5 = 2 ∧ t.num .cal 0 8 = (entryTy .cal 0 8).narrow x) ∧
  (∀ (s : State) (milliohms x : Nat) (r : CalRun), s.cal.run = some r → s.cal.calres = some x → s.cal.abortAt = none → x +
    msTicks 16 ≤ s.now → 9950000 ≤ milliohms → milliohms ≤ 10050000 → calCells s r ≠ [] → ∃ t, exec (.calresStepEnd
    milliohms) s = .next t ∧ t.num .cal 0 13 = milliohms ∧ t.num .cal 0 5 = 3 ∧ t.cal.calres = none ∧ t.cal.waiting =
    calCells s r) ∧
  (∀ (s : State) (milliohms x : Nat) (r : CalRun), s.cal.run = some r → s.cal.calres = some x → s.cal.abortAt = none → x +
    msTicks 16 ≤ s.now → (milliohms < 9950000 ∨ 10050000 < milliohms) → ∃ t, exec (.calresStepEnd milliohms) s = .next t ∧
    t.num .cal 0 13 = (entryTy .cal 0 13).narrow milliohms ∧ t.num .cal 0 5 = 0 ∧ t.num .cal 0 6 = 4 ∧ t.cal.run = none)

/-- In run state 3 at a whole millisecond with fewer cells interrupted than the run allows at once, CELL_INTERRUPTION_START
takes the first waiting cell: with a ready reference and no take of it filling it is interrupted from that tick, which is
shown as t_a; with a reference that is not ready it is skipped, the next cell waits on and no channel changes.
TAKE_GUARD_EXPIRY, the guard after a cell's first deferral, interrupts it if its reference is ready. CELL_INTERRUPTION_END
of the only interrupted cell, without an abort, after the length of the run's parts, ends the interruption, shows t_b, and
ends the run, state 0, when no cell waits, but goes on with it otherwise. CALIBRATION_IMAGE_READ from phase 3 on, with no
write staged, answers the image of the present values. CALIBRATION_IMAGE_WRITE of at most 65,535 bytes through a session
that may write: in the hold-off, of an image that R258 accepts, sets run state 0, result code 5 and start-up phase 5 and
ends the hold-off; outside it, it is answered in use and changes no calibration state. ESTIMATION_WINDOW_END with selection
on, of a modulator of a cell that is not interrupted and whose reference is ready, with 15 estimates, when its window is
over, begins the next window at its end and changes only the calibration record. ELEMENT_SWITCH of a switch that is due puts
the element that comes in the place of the one that goes in the modulator's mask, counts the switch, shows its tick and
takes it from the switches. MODULATOR_CANNOT_BE_MATCHED at or after its tick marks the modulator failed. (Rests on parts of
R235, R236, R240, R241, R244, R248, R250, R251, R257, R258, R259.) -/
def Obligations.CellsAreInterruptedAndElementsSwitched : Prop :=
  (∀ (s : State) (r : CalRun) (c : Nat) (rest : List Nat), s.cal.run = some r → calState s = 3 → s.now % 24576 = 0 →
    s.cal.running.length < calConcurrency s r → s.cal.waiting = c :: rest → c < Config.cells s.variant → bit (s.nat
    .refPower c 3) 1 = true → (cellFilling s c = false ∨ (r.defer = false ∧ s.cal.deferred = [])) → ∃ t, exec
    .cellInterruptionStart s = .next t ∧ t.cal.running = s.cal.running ++ [(c, s.now)] ∧ t.cal.waiting = rest ∧ t.num
    .cellCal c 31 = (entryTy .cellCal c 31).narrow s.now) ∧
  (∀ (s : State) (r : CalRun) (c d : Nat) (rest : List Nat), s.cal.run = some r → calState s = 3 → s.now % 24576 = 0 →
    s.cal.running.length < calConcurrency s r → s.cal.waiting = c :: d :: rest → bit (s.nat .refPower c 3) 1 = false →
    cellFilling s c = false → ∃ t, exec .cellInterruptionStart s = .next t ∧ t.cal.running = s.cal.running ∧ t.cal.waiting =
    d :: rest ∧ t.chans = s.chans) ∧
  (∀ (s : State) (cell : Nat) (r : CalRun) (d : Nat × Nat), s.cal.run = some r → s.cal.deferred.find? (fun p => p.1 ==
    cell) = some d → calState s = 3 → s.now % 24576 = 0 → d.2 + msTicks (s.nat .cal 0 4) ≤ s.now → s.cal.running.length <
    calConcurrency s r → bit (s.nat .refPower cell 3) 1 = true → ∃ t, exec (.takeGuardExpiry cell) s = .next t ∧
    t.cal.running = s.cal.running ++ [(cell, s.now)] ∧ t.cal.deferred = s.cal.deferred.filter (fun p => p.1 != cell)) ∧
  (∀ (s : State) (cell a : Nat) (r : CalRun) (measured : CalResult), cell < Config.cells s.variant → s.cal.run = some r →
    s.cal.running = [(cell, a)] → s.cal.abortAt = none → a + msTicks r.length ≤ s.now → ∃ t, exec (.cellInterruptionEnd cell
    measured) s = .next t ∧ t.cal.running = [] ∧ t.num .cellCal cell 32 = (entryTy .cellCal cell 32).narrow ((a + msTicks
    r.length : Nat) : Int) ∧ (s.cal.waiting = [] → t.cal.run = none ∧ t.num .cal 0 5 = 0) ∧ (s.cal.waiting ≠ [] → t.cal.run
    = some r)) ∧
  (∀ (s : State) (ses : Nat), 3 ≤ phase s → stagedView s ses .calImage 0 1 = none → ∃ t, exec (.calibrationImageRead ses) s
    = .next t ∧ t.ans = .success ∧ t.ansBody = calImage s ∧ t.cal = s.cal) ∧
  (∀ (s : State) (ses : Nat) (bs : Bytes), s.serves ses → s.power.inReset = false → calState s = 1 → bs.length ≤ 65535 →
    imageOk s bs = true → ∃ t, exec (.calibrationImageWrite ses bs) s = .next t ∧ t.ans = .success ∧ t.num .cal 0 5 = 0 ∧
    t.num .cal 0 6 = 5 ∧ t.num .startup 0 3 = 5 ∧ t.cal.holdFrom = none) ∧
  (∀ (s : State) (ses : Nat) (bs : Bytes), s.serves ses → s.power.inReset = false → bs.length ≤ 65535 → calState s ≠ 1 → ∃
    t, exec (.calibrationImageWrite ses bs) s = .next t ∧ t.ans = .inUse ∧ t.cal = s.cal) ∧
  (∀ (s : State) (cell m : Nat) (est : List Int), cell < Config.cells s.variant → m < 17 → s.nat .cal 0 10 = 1 →
    interrupted s cell = false → bit (s.nat .refPower cell 3) 1 = true → est.length = 15 → Sparse.get s.cal.winFrom (17 *
    cell + m) 0 + 2 ^ s.nat .cal 0 11 * s.modPeriod cell ≤ s.now → ∃ t, exec (.estimationWindowEnd cell m est) s = .next t ∧
    Sparse.find t.cal.winFrom (17 * cell + m) = some (Sparse.get s.cal.winFrom (17 * cell + m) 0 + 2 ^ s.nat .cal 0 11 *
    s.modPeriod cell) ∧ t.cal.running = s.cal.running ∧ { t with cal := s.cal } = s) ∧
  (∀ (s : State) (cell m : Nat) (x : ElemSwitch), cell < Config.cells s.variant → m < 17 → s.cal.switches.find? (fun y =>
    y.cell == cell && y.m == m) = some x → x.tick ≤ s.now → ∃ t, exec (.elementSwitch cell m) s = .next t ∧ t.num .elements
    cell (m + 1) = (entryTy .elements cell (m + 1)).narrow ((setBit (clearBit (s.nat .elements cell (m + 1)) x.out) x.into :
    Nat) : Int) ∧ Counted s t .cellCal cell 28 1 ∧ t.num .cellCal cell 29 = (entryTy .cellCal cell 29).narrow x.tick ∧
    t.cal.switches = s.cal.switches.erase x) ∧
  (∀ (s : State) (cell m : Nat) (x : Nat × Nat × Nat), cell < Config.cells s.variant → m < 17 → s.cal.unmatched.find? (fun
    y => y.1 == cell && y.2.1 == m) = some x → x.2.2 ≤ s.now → ∃ t, exec (.modulatorCannotBeMatched cell m) s = .next t ∧
    bit (t.nat .spare cell 2) m = true ∧ t.cal.unmatched = s.cal.unmatched.erase x)

/-- WINDOW_START at or after the next window start x, by the definition that holds at x: in mode 1 with its phase not after x it
opens the window of x's index and moves the next start to that window's end; with its phase after x it moves the next start
there; in another mode it opens none, and the next start is that of a later change to mode 1, if any. It changes only the
windows. CROSS_HUB_CONTRIBUTION on a manager takes the oldest accepted record away; with no definition on it changes nothing
else. CROSS_HUB_DEADLINE on a manager, of a definition that is on, when the deadline of its lowest index not issued has
come, counts the combined record of what it received and shows it, counts an incomplete one, and issues the index.
REPLAY_DECODER_WRITE through a session that may write of 32 to 1,052 bytes sets the decoder's result and words and counts
it; of fewer bytes the result is 1 with no words. (Rests on parts of R302, R321, R322, R324, R351.) -/
def Obligations.WindowsStartAndCombinedRecordsAreIssued : Prop :=
  (∀ (s : State) (w x : Nat) (d : WinDef), w < 32 → (s.win w).next = some x → x ≤ s.now → d = (s.win w).defAt x (winDef s
    w) → d.mode = 1 → d.phase ≤ x → ∃ t, exec (.windowStart w) s = .next t ∧ (t.win w).next = some (d.phase + ((x - d.phase)
    / d.w + 1) * d.w) ∧ (t.win w).runs.map (·.i) = (s.win w).runs.map (·.i) ++ [(x - d.phase) / d.w] ∧
    { t with wins := s.wins } = s) ∧
  (∀ (s : State) (w x : Nat) (d : WinDef), w < 32 → (s.win w).next = some x → x ≤ s.now → d = (s.win w).defAt x (winDef s
    w) → d.mode = 1 → x < d.phase → ∃ t, exec (.windowStart w) s = .next t ∧ (t.win w).next = some d.phase ∧ (t.win w).runs
    = (s.win w).runs ∧ { t with wins := s.wins } = s) ∧
  (∀ (s : State) (w x : Nat), w < 32 → (s.win w).next = some x → x ≤ s.now → ((s.win w).defAt x (winDef s w)).mode ≠ 1 → ∃
    t, exec (.windowStart w) s = .next t ∧ (t.win w).next = (s.win w).again x ∧ (t.win w).runs = (s.win w).runs ∧
    { t with wins := s.wins } = s) ∧
  (∀ (s : State) (e : Nat × Bytes) (rest : List (Nat × Bytes)), s.isManager = true → s.crossIn = e :: rest → ∃ t, exec
    .crossHubContribution s = .next t ∧ t.crossIn = rest ∧ t.wins = s.wins ∧ t.now = s.now) ∧
  (∀ (s : State) (e : Nat × Bytes) (rest : List (Nat × Bytes)), s.isManager = true → s.crossIn = e :: rest → (∀ x : Fin 64,
    s.nat .crossHub x 1 ≠ 1) → ∃ t, exec .crossHubContribution s = .next t ∧ t.crossIn = rest ∧
    { t with crossIn := s.crossIn } = s) ∧
  (∀ (s : State) (x : Nat) (c : CrossIdx), s.isManager = true → x < 64 → s.nat .crossHub x 1 = 1 → crossLowest s x = some c
    → gridNs (s.nat .crossHub x 5 + (c.i + 1) * s.nat .crossHub x 4) + s.nat .crossHub x 8 * 1000000 ≤ s.localNs → ∃ t, exec
    (.crossHubDeadline x) s = .next t ∧ Counted s t .crossHub x 9 1 ∧ t.bytes .crossLast x 1 = combinedRecord s x c ∧ (c.got
    ≠ crossExpected s x → Counted s t .crossHub x 10 1) ∧ (t.crossSt x).isIssued c.i = true ∧ (t.crossSt x).pend =
    (s.crossSt x).pend.filter (fun p => p.i != c.i)) ∧
  (∀ (s : State) (ses : Nat) (bs : Bytes), s.serves ses → s.power.inReset = false → s.has .replay 0 = true → 32 ≤ bs.length
    → bs.length ≤ 1052 → ∃ t, exec (.replayDecoderWrite ses bs) s = .next t ∧ t.ans = .success ∧ t.num .replay 0 2 =
    (entryTy .replay 0 2).narrow (decodeBlock bs).1 ∧ t.bytes .replay 0 3 = (decodeBlock bs).2.flatMap (leBytes 4) ∧ Counted
    s t .replay 0 4 1) ∧
  (∀ (s : State) (ses : Nat) (bs : Bytes), s.serves ses → s.power.inReset = false → s.has .replay 0 = true → bs.length < 32
    → ∃ t, exec (.replayDecoderWrite ses bs) s = .next t ∧ t.ans = .success ∧ t.num .replay 0 2 = 1 ∧ t.bytes .replay 0 3 =
    [] ∧ Counted s t .replay 0 4 1)

/-- On a worker that can send and holds one space: KSF_DATA_SEND of items that fill a frame sends its first item now and counts
the frame's items; PACKING_HOLD_EXPIRY sends the first unsent item once it has waited the packing hold; RESEND_TIMEOUT of
one overdue item whose bytes are good, while the manager is reachable, sends it or queues it to be sent. On a worker: ACK of
a live instance in state 0 or 1, with no stream halted or fallen back and nothing owed, frees the items that it covers, but
no announcement, and keeps its tick; NACK of an instance that is held is counted, and, with the manager reachable and every
item good, each item held that it lists is sent or queued to be sent. REACHABILITY_TIMEOUT ends the reachability of a stream
whose last ACK is older than the timeout, and what was queued of it is queued no more. (Rests on parts of R359, R364, R366,
R368.) -/
def Obligations.AWorkerSendsItsItemsAndHoldsThemUntilAcked : Prop :=
  (∀ (s : State) (p : Space) (i : Item) (f : List Item), canSend s = true → s.strm.spaces = [p] → fullFrame s p = some (i
    :: f) → ∃ t, exec .ksfDataSend s = .next t ∧ (t.strm.spaces.flatMap (·.items)).any (fun x => x.seq == i.seq && x.sent ==
    some s.now) = true ∧ (p.stream < 16 → Counted s t .stream p.stream 10 (f.length + 1)) ∧ t.net.inbox = s.net.inbox) ∧
  (∀ (s : State) (p : Space) (i : Item) (r : List Item), canSend s = true → s.strm.spaces = [p] → p.unsent = i :: r →
    i.formed + holdOf s p ≤ s.now → ∃ t, exec .packingHoldExpiry s = .next t ∧ (t.strm.spaces.flatMap (·.items)).any (fun x
    => x.seq == i.seq && x.sent == some s.now) = true ∧ t.net.inbox = s.net.inbox) ∧
  (∀ (s : State) (k : Nat) (r : Rx) (b : Bytes) (p : Space), s.isManager = false → inboxKsf s (· == 3) = some (k, r, b) →
    leAt b 4 8 = s.ident → s.strm.spaces = [p] → p.stream = leAt b 13 1 → p.num = leAt b 16 4 → p.stream < 16 → p.live =
    true → s.strm.owed = [] → (∀ n : Fin 16, s.streamState n = 0 ∨ s.streamState n = 1) → ∃ t, exec .ack s = .next t ∧
    t.strm.spaces =
    [{ p with items := p.items.filter (fun x => x.isAnn || !ackCovers (leAt b 20 4) (leAt b 40 8) x.seq), acked0 := p.acked0 || ackCovers (leAt b 20 4) (leAt b 40 8) 0 }]
    ∧ (t.stream p.stream).ackAt = some s.now ∧ t.net.inbox = s.net.inbox.eraseIdx k) ∧
  (∀ (s : State) (bad : List Nat) (k : Nat) (r : Rx) (b : Bytes) (p : Space), s.isManager = false → inboxKsf s (· == 4) =
    some (k, r, b) → leAt b 4 8 = s.ident → s.space (leAt b 13 1) (leAt b 16 4) = some p → ∃ t, exec (.nack bad) s = .next t
    ∧ Counted s t .transmit 0 4 1 ∧ t.net.inbox = s.net.inbox.eraseIdx k) ∧
  (∀ (s : State) (k : Nat) (r : Rx) (b : Bytes) (p : Space) (x : Item), s.isManager = false → inboxKsf s (· == 4) = some
    (k, r, b) → leAt b 4 8 = s.ident → s.space (leAt b 13 1) (leAt b 16 4) = some p → reachable s p.stream = true → x ∈
    p.items → (nackNumbers b).contains x.seq = true → ∃ t, exec (.nack []) s = .next t ∧ (t.strm.spaces.flatMap
    (·.items)).any (fun y => y.seq == x.seq && (y.again || y.sent == some s.now)) = true) ∧
  (∀ (s : State) (bad : List Nat) (p : Space) (i : Item), s.isManager = false → canSend s = true → s.strm.spaces = [p] →
    reachable s p.stream = true → overdue s p = [i] → bad.contains i.seq = false → ∃ t, exec (.resendTimeout bad) s = .next
    t ∧ (t.strm.spaces.flatMap (·.items)).any (fun x => x.seq == i.seq && (x.again || x.sent == some s.now)) = true) ∧
  (∀ (s : State) (n a : Nat) (k : StreamSt), s.strm.streams = [(n, k)] → k.ackAt = some a → a + msTicks (s.nat .transmit 0
    2) < s.now → ∃ t, exec .reachabilityTimeout s = .next t ∧ (t.stream n).ackAt = none ∧ (∀ q ∈ t.strm.spaces, q.stream = n
    → ∀ x ∈ q.items, x.again = false))

/-- On a manager: KSF_DATA_RECEIVED counts a frame that R362 discards and changes no stream state, and counts the one item of a
frame, of an instance that can still run, that it has accepted before, accepting none. With one instance held, whose worker
has not restarted since: ACK_INTERVAL at a boundary not looked at sends an ACK when A or the bitmap has changed, and keeps
what it said; KEEPALIVE_ACK sends one of an instance that is kept alive and has had none, and does not count as the
interval's; NACK_HOLDOFF_EXPIRY asks for the only hole once it has lasted the holdoff, RETRANSMIT_INTERVAL again the
retransmit interval after it was asked for while frames still arrive, each counted, with the tick kept. (Rests on parts of
R362, R365, R366, R367, R369, R371.) -/
def Obligations.AManagerAcknowledgesWhatItTakes : Prop :=
  (∀ (s : State) (k : Nat) (b : Bytes), s.isManager = true → inboxData s = some (k, b, false) → ∃ t, exec .ksfDataReceived
    s = .next t ∧ Counted s t .mgrAck 0 8 1 ∧ t.net.inbox = s.net.inbox.eraseIdx k ∧ t.strm = s.strm) ∧
  (∀ (s : State) (i : Nat) (b : Bytes) (k : AckSt), s.isManager = true → inboxData s = some (i, b, true) → atPosition s
    (leAt b 12 1) (leAt b 4 8) = true → leAt b 1 1 = 1 → leAt b 13 1 ≤ 15 → leAt b 32 2 = 1 → s.ackOf (leAt b 4 8) (leAt b
    13 1) (leAt b 16 4) = some k → k.has (leAt b 20 4) = true → k.current s = true → (frameContent b).all (fun x =>
    !x.isAnn) = true → ∃ t, exec .ksfDataReceived s = .next t ∧ Counted s t .mgrAck 0 7 1 ∧ t.num .mgrAck 0 6 = s.num
    .mgrAck 0 6 ∧ t.net.inbox = s.net.inbox.eraseIdx i ∧ t.crossIn = s.crossIn) ∧
  (∀ (s : State) (k : AckSt), s.isManager = true → s.strm.acks = [k] → s.strm.ackLook ≠ some (ackBoundary s) → k.current s
    = true → (k.a ≠ k.lastA ∨ ackBits k.a k.acc ≠ ackBits k.lastA k.lastAcc) → ∃ t, exec .ackInterval s = .next t ∧
    t.strm.acks = [{ k with lastA := k.a, lastAcc := k.acc, ackAt := some s.now }] ∧ t.strm.ackLook = some (ackBoundary s)) ∧
  (∀ (s : State) (k : AckSt), s.isManager = true → s.strm.acks = [k] → k.keeps = true → k.current s = true → k.ackAt = none
    → ∃ t, exec .keepaliveAck s = .next t ∧ t.strm.acks = [{ k with lastA := k.a, lastAcc := k.acc, ackAt := some s.now }] ∧
    t.strm.ackLook = s.strm.ackLook) ∧
  (∀ (s : State) (k : AckSt) (n a : Nat), s.isManager = true → s.strm.acks = [k] → k.current s = true → n < 4294967296 →
    k.holes = [(n, a, none)] → a + usTicks (s.nat .mgrAck 0 2) ≤ s.now → ∃ t, exec .nackHoldoffExpiry s = .next t ∧
    t.strm.acks = [{ k with holes := [(n, a, some s.now)] }] ∧ Counted s t .mgrAck 0 9 1) ∧
  (∀ (s : State) (k : AckSt) (n a u : Nat), s.isManager = true → s.strm.acks = [k] → k.current s = true → n < 4294967296 →
    k.holes = [(n, a, some u)] → u + msTicks (s.nat .mgrAck 0 3) ≤ s.now → s.now ≤ k.heard + msTicks (s.nat .mgrAck 0 5) → ∃
    t, exec .retransmitInterval s = .next t ∧ t.strm.acks = [{ k with holes := [(n, a, some s.now)] }] ∧ Counted s t .mgrAck
    0 9 1)

/-- Through a session that may write, outside reset: DMA_START of an idle channel in manual mode begins its run at the start
address with a new count, or with halt on start leaves it HALTED with event 84, counted in both cases; of a channel that is
not idle or not in manual mode it is answered in use. DMA_ABORT in RUN, WAIT or HALTED makes the channel IDLE with nothing
held, and raises event 73 when the queue can take it. CLEAR_FAULT in FAULT makes it IDLE with cause 0. HALT in RUN, with no
instruction fetched, halts it; RELEASE and SINGLE_STEP of a HALTED channel set it to RUN past its breakpoint, SINGLE_STEP
for one instruction. DMA_EVENT_START of an idle channel, without halt on start, begins the run that a start pulse or the
latched one asks for, and counts it; of a channel that is not idle it changes nothing. BREAKPOINT_HIT of a running channel
at a breakpoint, with no instruction fetched, halts it there, counted. (Rests on parts of R441, R442, R443, R444, R468,
R621.) -/
def Obligations.DmaRunsStartStopAndHalt : Prop :=
  (∀ (s : State) (ses c : Nat), s.serves ses → s.power.inReset = false → c < 16 → dmaState s c = 0 → s.nat .dmaCtl c 3 = 0
    → s.nat .debugCh c 5 ≠ 1 → ∃ t, exec (.dmaStart ses c) s = .next t ∧ t.ans = .success ∧ dmaState t c = 1 ∧ (t.dmaCh
    c).pc = s.nat .dmaCtl c 1 ∧ (t.dmaCh c).count = 0 ∧ Counted s t .dmaStat c 8 1) ∧
  (∀ (s : State) (ses c : Nat), s.serves ses → s.power.inReset = false → c < 16 → dmaState s c = 0 → s.nat .dmaCtl c 3 = 0
    → s.nat .debugCh c 5 = 1 → ∃ t, exec (.dmaStart ses c) s = .next t ∧ t.ans = .success ∧ dmaState t c = 4 ∧ Counted s t
    .dmaStat c 8 1 ∧ (s.canRaise 29 → Raised s t 29 ⟨84, 2, c, s.now⟩)) ∧
  (∀ (s : State) (ses c : Nat), s.serves ses → s.power.inReset = false → c < 16 → (dmaState s c ≠ 0 ∨ s.nat .dmaCtl c 3 ≠
    0) → ∃ t, exec (.dmaStart ses c) s = .next t ∧ t.ans = .inUse ∧ t.dma = s.dma) ∧
  (∀ (s : State) (c : Nat), c < 16 → dmaState s c = 0 → (s.dmaCh c).pulses ≠ 0 → s.nat .debugCh c 5 ≠ 1 → ∃ t, exec
    (.dmaEventStart c) s = .next t ∧ dmaState t c = 1 ∧ (t.dmaCh c).pc = s.nat .dmaCtl c 1 ∧ (t.dmaCh c).pulses = 0 ∧
    (t.dmaCh c).latched = (s.dmaCh c).latched ∧ Counted s t .dmaStat c 8 1) ∧
  (∀ (s : State) (c : Nat), c < 16 → dmaState s c = 0 → (s.dmaCh c).pulses = 0 → (s.dmaCh c).latched = true → s.nat
    .debugCh c 5 ≠ 1 → ∃ t, exec (.dmaEventStart c) s = .next t ∧ dmaState t c = 1 ∧ (t.dmaCh c).pc = s.nat .dmaCtl c 1 ∧
    (t.dmaCh c).latched = false ∧ Counted s t .dmaStat c 8 1) ∧
  (∀ (s : State) (c : Nat), dmaState s c ≠ 0 → ∃ t, exec (.dmaEventStart c) s = .next t ∧ t = s) ∧
  (∀ (s : State) (ses c : Nat), s.serves ses → s.power.inReset = false → c < 16 → (dmaState s c = 1 ∨ dmaState s c = 2 ∨
    dmaState s c = 4) → ∃ t, exec (.dmaAbort ses c) s = .next t ∧ t.ans = .success ∧ dmaState t c = 0 ∧ (t.dmaCh c).move =
    none ∧ (t.dmaCh c).reqs = [] ∧ (t.dmaCh c).wait = none ∧ (s.canRaise 30 → Raised s t 30 ⟨73, 2, c, s.now⟩)) ∧
  (∀ (s : State) (ses c : Nat), s.serves ses → s.power.inReset = false → c < 16 → dmaState s c = 3 → ∃ t, exec (.clearFault
    ses c) s = .next t ∧ t.ans = .success ∧ dmaState t c = 0 ∧ t.num .dmaStat c 3 = 0 ∧ t.dma = s.dma) ∧
  (∀ (s : State) (ses c : Nat), s.serves ses → s.power.inReset = false → c < 16 → dmaState s c = 1 → s.dma.cur.map (·.1) ≠
    some c → ∃ t, exec (.halt ses c) s = .next t ∧ t.ans = .success ∧ dmaState t c = 4 ∧ t.dma = s.dma) ∧
  (∀ (s : State) (ses c : Nat), s.serves ses → s.power.inReset = false → c < 16 → dmaState s c = 4 → ∃ t, exec
    (.debugRelease ses c) s = .next t ∧ t.ans = .success ∧ dmaState t c = 1 ∧ t.dmaCh c =
    { s.dmaCh c with skip := true, at_ := s.now }) ∧
  (∀ (s : State) (ses c : Nat), s.serves ses → s.power.inReset = false → c < 16 → dmaState s c = 4 → ∃ t, exec (.singleStep
    ses c) s = .next t ∧ t.ans = .success ∧ dmaState t c = 1 ∧ t.dmaCh c =
    { s.dmaCh c with skip := true, stepping := true, at_ := s.now }) ∧
  (∀ (s : State) (c b : Nat), c < 16 → dmaState s c = 1 → s.dma.cur.map (·.1) ≠ some c → atBreak s c = some b → ∃ t, exec
    (.breakpointHit c) s = .next t ∧ dmaState t c = 4 ∧ Counted s t .debugCh c 7 1 ∧ (t.dmaCh c).pc = (s.dmaCh c).pc)

/-- Of the word fetched for a channel that neither steps nor has a halt pending, with reserved fields 0 where nothing else is
said: MOVE with an immediate count other than 0, widths up to 32 and a plain, zero- or sign-extending mode, between
registers that are neither dictionary nor constant targets, begins the transfer; a constant destination faults with cause 5.
LOOP with an immediate count other than 0 opens a frame, a fifth faults with cause 13. ENDLOOP goes back with one pass less,
or on past the last; without a frame it faults with cause 14. WAIT for an event below 96 takes it when it is pending, or
else waits with its limit. SIGNAL and FENCE with no write open go on, SIGNAL with event 1; FENCE with one open waits. SETA
of an immediate value for targets 0, 2, 3 and 4 sets the register, ADDA of an immediate adds to it. An opcode of 9 or more
faults with cause 1. (Rests on parts of R445, R451, R453, R454, R455, R462, R467.) -/
def Obligations.DmaInstructionsHaveTheirEffects : Prop :=
  (∀ (s : State) (c w : Nat), DmaHas s c w 1 → bits w 43 32 = 0 → bits w 53 51 < 6 → bits w 50 48 < 6 → bits w 45 44 < 3 →
    bits w 31 0 ≠ 0 → (bits w 45 44 = 0 → bits w 31 0 % max (2 ^ bits w 53 51) (2 ^ bits w 50 48) = 0) → ((s.dmaCh c).reg
    (bits w 59 57)).target ≠ 2 → ((s.dmaCh c).reg (bits w 59 57)).target ≠ 4 → ((s.dmaCh c).reg (bits w 56 54)).target ≠ 2 →
    ((s.dmaCh c).reg (bits w 56 54)).target ≠ 4 → ∃ t, exec .dmaMove s = .next t ∧ t.dmaCh c =
    { s.dmaCh c with move := some { src := bits w 59 57, dst := bits w 56 54, ws := 2 ^ bits w 53 51, wd := 2 ^ bits w 50 48, sinc := bit w 47, dinc := bit w 46, mode := bits w 45 44, toRead := bits w 31 0, toWrite := bits w 31 0, data := none, acc := [] } }
    ∧ t.regs = s.regs ∧ t.dma.cur = none) ∧
  (∀ (s : State) (c w : Nat), DmaHas s c w 1 → bits w 43 32 = 0 → bits w 53 51 = 0 → bits w 50 48 = 0 → bits w 47 44 = 1 →
    bits w 31 0 ≠ 0 → ((s.dmaCh c).reg (bits w 59 57)).target = 0 → ((s.dmaCh c).reg (bits w 56 54)).target = 4 → ∃ t, exec
    .dmaMove s = .next t ∧ DmaFaulted s t c 5) ∧
  (∀ (s : State) (c w : Nat), DmaHas s c w 2 → bits w 59 32 = 0 → bits w 31 0 ≠ 0 → (s.dmaCh c).frames.length < 4 → ∃ t,
    exec .dmaLoop s = .next t ∧ DmaOn s t c
    { s.dmaCh c with pc := (s.dmaCh c).pc + 8, frames := ((s.dmaCh c).pc + 8, bits w 31 0) :: (s.dmaCh c).frames }) ∧
  (∀ (s : State) (c w : Nat), DmaHas s c w 2 → bits w 59 32 = 0 → bits w 31 0 ≠ 0 → 4 ≤ (s.dmaCh c).frames.length → ∃ t,
    exec .dmaLoop s = .next t ∧ DmaFaulted s t c 13) ∧
  (∀ (s : State) (c w a n : Nat) (fs : List (Nat × Nat)), DmaHas s c w 3 → bits w 59 0 = 0 → (s.dmaCh c).frames = (a, n) ::
    fs → n ≠ 1 → ∃ t, exec .dmaEndloop s = .next t ∧ DmaOn s t c { s.dmaCh c with pc := a, frames := (a, n - 1) :: fs }) ∧
  (∀ (s : State) (c w a : Nat) (fs : List (Nat × Nat)), DmaHas s c w 3 → bits w 59 0 = 0 → (s.dmaCh c).frames = (a, 1) ::
    fs → ∃ t, exec .dmaEndloop s = .next t ∧ DmaOn s t c { s.dmaCh c with pc := (s.dmaCh c).pc + 8, frames := fs }) ∧
  (∀ (s : State) (c w : Nat), DmaHas s c w 3 → bits w 59 0 = 0 → (s.dmaCh c).frames = [] → ∃ t, exec .dmaEndloop s = .next
    t ∧ DmaFaulted s t c 14) ∧
  (∀ (s : State) (c w : Nat), DmaHas s c w 4 → bits w 59 48 = 0 → bits w 31 7 = 0 → bits w 6 0 < 96 → bit (s.dmaCh c).mask
    (bits w 6 0) = true → ∃ t, exec .dmaWait s = .next t ∧ DmaOn s t c
    { s.dmaCh c with pc := (s.dmaCh c).pc + 8, mask := clearBit (s.dmaCh c).mask (bits w 6 0) }) ∧
  (∀ (s : State) (c w : Nat), DmaHas s c w 4 → bits w 59 48 = 0 → bits w 31 7 = 0 → bits w 6 0 < 96 → bit (s.dmaCh c).mask
    (bits w 6 0) = false → ∃ t, exec .dmaWait s = .next t ∧ dmaState t c = 2 ∧ (t.dmaCh c).wait = some ⟨.event (bits w 6 0),
    usTicks (bits w 47 32), s.now⟩ ∧ (t.dmaCh c).pc = (s.dmaCh c).pc) ∧
  (∀ (s : State) (c w : Nat), DmaHas s c w 5 → bits w 59 0 = 0 → (s.dmaCh c).open_ = false → ∃ t, exec .dmaSignal s = .next
    t ∧ DmaOn s t c { s.dmaCh c with pc := (s.dmaCh c).pc + 8 } ∧ (s.canRaise 30 → Raised s t 30 ⟨c, 1, (s.dmaCh c).pc,
    s.now⟩)) ∧
  (∀ (s : State) (c w : Nat), DmaHas s c w 6 → bits w 59 0 = 0 → (s.dmaCh c).open_ = false → ∃ t, exec .dmaFence s = .next
    t ∧ DmaOn s t c { s.dmaCh c with pc := (s.dmaCh c).pc + 8 } ∧ t.queues = s.queues) ∧
  (∀ (s : State) (c w : Nat), DmaHas s c w 6 → bits w 59 0 = 0 → (s.dmaCh c).open_ = true → ∃ t, exec .dmaFence s = .next t
    ∧ dmaState t c = 2 ∧ (t.dmaCh c).wait = some ⟨.fence, 0, s.now⟩) ∧
  (∀ (s : State) (c w : Nat), DmaHas s c w 7 → (bits w 56 53 = 0 ∨ bits w 56 53 = 2 ∨ bits w 56 53 = 3 ∨ bits w 56 53 = 4)
    → bits w 52 48 = 0 → ∃ t, exec .dmaSeta s = .next t ∧ DmaOn s t c
    { s.dmaCh c with pc := (s.dmaCh c).pc + 8, regs := (s.dmaCh c).regs.set (bits w 59 57) ⟨bits w 47 0, bits w 56 53, false, false⟩ }) ∧
  (∀ (s : State) (c w : Nat), DmaHas s c w 8 → bits w 56 48 = 0 → ∃ t, exec .dmaAdda s = .next t ∧ DmaOn s t c
    { (s.dmaCh c).advance (bits w 59 57) (toSigned 48 (bits w 47 0) % 2 ^ 64).toNat with pc := (s.dmaCh c).pc + 8 }) ∧
  (∀ (s : State) (c w op : Nat), DmaHas s c w op → 9 ≤ op → ∃ t, exec .illegalInstruction s = .next t ∧ DmaFaulted s t c 1)

/-- DMA_BEAT with nothing fetched and no copy in the way: for the channel it picks without a transfer it fetches the word at its
address and counts it within the budget, and faults it with cause 16 when the budget is spent; for one whose next beat
writes unconverted elements to the DMA buffer at an aligned rising address it stores the beat's bytes there. WAIT_COMPLETE,
of a channel that neither steps nor has a halt pending, goes on past the WAIT once its event is pending, which it takes, or
its tick has come. WAIT_TIMEOUT after the limit faults with cause 15. WRITE_CONFIRMED of a FENCE with nothing written to
host memory goes on. DICTIONARY_ANSWER of a read that succeeds and fits gives the transfer its value; of a write to an
object of the channel's own it faults with cause 7 and code 4. TARGET_TIMEOUT in WAIT with a write open, 8 us after it,
faults with cause 6 and its address; DICTIONARY_ANSWER_TIMEOUT with cause 9. PROGRAM_PAGE_WRITE of 1,024 bytes through a
session that may write sets the page. (Rests on parts of R448, R452, R454, R458, R463, R465, R466, R467, R470.) -/
def Obligations.DmaBeatsWaitsAndAnswers : Prop :=
  (∀ (s : State) (host : Option Bytes) (c : Nat), s.dma.cur = none → copyBusy s = false → pickChannel s = some c → (s.dmaCh
    c).move = none → (s.dmaCh c).count < s.nat .dmaCtl c 5 → (s.dmaCh c).pc < 65536 → ∃ t, exec (.dmaBeat .good host) s =
    .next t ∧ t.dma.cur = some (c, sramWord s (s.dmaCh c).pc) ∧ (t.dmaCh c).count = (s.dmaCh c).count + 1 ∧ (t.dmaCh c).pc =
    (s.dmaCh c).pc) ∧
  (∀ (s : State) (host : Option Bytes) (c : Nat), s.dma.cur = none → copyBusy s = false → pickChannel s = some c → (s.dmaCh
    c).move = none → s.nat .dmaCtl c 5 ≤ (s.dmaCh c).count → ∃ t, exec (.dmaBeat .good host) s = .next t ∧ DmaFaulted s t c
    16 ∧ t.dma.cur = none) ∧
  (∀ (s : State) (host : Option Bytes) (c a : Nat) (m : DmaMove), s.dma.cur = none → copyBusy s = false → pickChannel s =
    some c → (s.dmaCh c).move = some m → (s.dmaCh c).nextBeat m = some true → (s.dmaCh c).reg m.dst = ⟨a, 0, false, false⟩ →
    m.mode = 0 → m.dinc = true → a % m.wd = 0 → within dmaBase dmaBufSize a (min 32 (min (s.dmaCh c).hold.length m.toWrite)
    / m.wd * m.wd) = true → 0 < m.wd → ∃ t, exec (.dmaBeat .good host) s = .next t ∧ t.dmaBuf = regionStore s.dmaBuf (a -
    dmaBase) ((s.dmaCh c).hold.take (min 32 (min (s.dmaCh c).hold.length m.toWrite) / m.wd * m.wd)) ∧ t.takeMem = s.takeMem) ∧
  (∀ (s : State) (c src l a : Nat), c < 16 → dmaState s c = 2 → (s.dmaCh c).wait = some ⟨.event src, l, a⟩ → bit (s.dmaCh
    c).mask src = true → (s.dmaCh c).stepping = false → s.nat .debugCh c 8 ≠ 1 → ∃ t, exec (.waitComplete c) s = .next t ∧
    DmaOn s t c { s.dmaCh c with pc := (s.dmaCh c).pc + 8, mask := clearBit (s.dmaCh c).mask src }) ∧
  (∀ (s : State) (c x l a : Nat), c < 16 → dmaState s c = 2 → (s.dmaCh c).wait = some ⟨.tick x, l, a⟩ → x ≤ s.now →
    (s.dmaCh c).stepping = false → s.nat .debugCh c 8 ≠ 1 → ∃ t, exec (.waitComplete c) s = .next t ∧ DmaOn s t c
    { s.dmaCh c with pc := (s.dmaCh c).pc + 8 }) ∧
  (∀ (s : State) (c : Nat) (w : DmaWait), c < 16 → dmaState s c = 2 → (s.dmaCh c).wait = some w → w.limit ≠ 0 → w.since +
    w.limit ≤ s.now → ∃ t, exec (.waitTimeout c) s = .next t ∧ DmaFaulted s t c 15) ∧
  (∀ (s : State) (c l a : Nat) (good : Bool), c < 16 → dmaState s c = 2 → (s.dmaCh c).wait = some ⟨.fence, l, a⟩ → (s.dmaCh
    c).reqs = [] → (s.dmaCh c).outs.find? (fun o => o.target == 1) = none → (s.dmaCh c).stepping = false → s.nat .debugCh c
    8 ≠ 1 → ∃ t, exec (.writeConfirmed c good) s = .next t ∧ DmaOn s t c
    { s.dmaCh c with pc := (s.dmaCh c).pc + 8, outs := [] }) ∧
  (∀ (s : State) (c : Nat) (r : DmaReq) (rest : List DmaReq) (m : DmaMove) (u : State) (v : Bytes), s.dma.orphans.find?
    (fun p => p.1 == c) = none → (s.dmaCh c).reqs = r :: rest → r.write = false → (s.dmaCh c).move = some m → serveRead
    (s.modCh c (fun k => { k with reqs := rest })) 15 r.idx r.sub = (u, .success, v) → v.length ≤ r.count → ∃ t, exec
    (.dictionaryAnswer c) s = .next t ∧ (t.dmaCh c).move = some { m with data := some v } ∧ (t.dmaCh c).reqs = rest ∧ t.regs
    = u.regs) ∧
  (∀ (s : State) (c : Nat) (r : DmaReq) (rest : List DmaReq), c < 16 → dmaState s c = 1 → s.dma.orphans.find? (fun p => p.1
    == c) = none → (s.dmaCh c).reqs = r :: rest → r.write = true → ownObject c r.idx = true → s.power.inReset = false → ∃ t,
    exec (.dictionaryAnswer c) s = .next t ∧ DmaFaulted s t c 7 ∧ t.num .dmaStat c 7 = 4 ∧ t.ans = .inUse) ∧
  (∀ (s : State) (c : Nat) (o : DmaOut) (os : List DmaOut), c < 16 → dmaState s c = 2 → (s.dmaCh c).outs = o :: os →
    (s.dmaCh c).at_ + accessTicks ≤ s.now → ∃ t, exec (.targetTimeout c) s = .next t ∧ DmaFaulted s t c 6 ∧ t.num .dmaStat c
    6 = (entryTy .dmaStat c 6).narrow o.addr) ∧
  (∀ (s : State) (c : Nat) (r : DmaReq) (rest : List DmaReq), c < 16 → (dmaState s c = 1 ∨ dmaState s c = 2) → (s.dmaCh
    c).reqs = r :: rest → r.at_ + msTicks (s.nat .dmaCtl c 7) ≤ s.now → ∃ t, exec (.dictionaryAnswerTimeout c) s = .next t ∧
    DmaFaulted s t c 9) ∧
  (∀ (s : State) (ses page : Nat) (bs : Bytes), s.serves ses → s.power.inReset = false → page < 64 → bs.length = 1024 → ∃
    t, exec (.programPageWrite ses page bs) s = .next t ∧ t.ans = .success ∧ t.bytes .sram 0 (page + 1) = bs ∧ t.dma = s.dma)

/-- Of a port that is present and not held down: LINK_UP of a link that is down, at a speed that the port's setting allows,
shows the speed and lets a ring port count link checks (state 1, nothing queued), or makes port C ready (state 2, the tick
kept, nothing else of the network changed); LINK_DOWN takes state and speed back to 0. LINK_CHECK_SEND of the first link
check, or the hello interval after the last, keeps its tick. LINK_CHECK of a ring port whose link is up keeps the
neighbour's identity and the tick of arrival. RESTORE_HOLD_EXPIRY of a ring port in state 1, with link checks through the
restore hold and none missing at its end, makes it ready and keeps the tick. RING_TIMEOUT of a ready ring port without a
link check for the ring timeout takes it back to state 1, and a worker's hop count of it to 255. MODULE_INSERTION sets
module present and keeps the identification; MODULE_REMOVAL clears module present and changes no other part of the hub than
the dictionary. (Rests on parts of R476, R477, R479.) -/
def Obligations.LinksBecomeReadyAndGoDown : Prop :=
  (∀ (s : State) (port speed : Nat), port ≤ 1 → s.has .link port = true → heldDown s port = false → (s.nat .link port 3 = 0
    ∨ s.nat .link port 3 = 3) → speed ∈ linkSpeeds s port → ∃ t, exec (.linkUp port speed) s = .next t ∧ t.num .link port 3
    = 1 ∧ t.num .link port 4 = (entryTy .link port 4).narrow speed ∧ t.queues = s.queues) ∧
  (∀ (s : State) (speed : Nat), s.has .link 2 = true → heldDown s 2 = false → (s.nat .link 2 3 = 0 ∨ s.nat .link 2 3 = 3) →
    speed ∈ linkSpeeds s 2 → ∃ t, exec (.linkUp 2 speed) s = .next t ∧ t.num .link 2 3 = 2 ∧ t.num .link 2 4 = (entryTy
    .link 2 4).narrow speed ∧ t.num .link 2 12 = (entryTy .link 2 12).narrow s.now ∧ t.net = s.net) ∧
  (∀ (s : State) (port : Nat), port ≤ 2 → s.has .link port = true → heldDown s port = false → ∃ t, exec (.linkDown port) s
    = .next t ∧ t.num .link port 3 = 0 ∧ t.num .link port 4 = 0) ∧
  (∀ (s : State), s.net.lastCheck.all (fun x => decide (x + helloTicks s ≤ s.now)) = true → ∃ t, exec .linkCheckSend s =
    .next t ∧ t.net.lastCheck = some s.now ∧ t.net.inbox = s.net.inbox) ∧
  (∀ (s : State) (i : Nat) (rx : Rx) (m : Kmp), s.net.ports.length = 3 → inboxKmp s (fun m => m.ty == 0x11) = some (i, rx,
    m) → rx.port ≤ 1 → (s.nat .link rx.port 3 = 1 ∨ s.nat .link rx.port 3 = 2) → ∃ t, exec .linkCheck s = .next t ∧ t.num
    .link rx.port 11 = (entryTy .link rx.port 11).narrow m.ident ∧ (t.port rx.port).lcLast = some rx.tick ∧ t.net.inbox =
    s.net.inbox.eraseIdx i) ∧
  (∀ (s : State) (port f l : Nat), port ≤ 1 → (s.port port).lcFirst = some f → (s.port port).lcLast = some l → s.nat .link
    port 3 = 1 → f + msTicks (s.nat .ring 0 9) ≤ s.now → s.now ≤ l + ringTicks s → ∃ t, exec (.restoreHoldExpiry port) s =
    .next t ∧ t.num .link port 3 = 2 ∧ t.num .link port 12 = (entryTy .link port 12).narrow s.now) ∧
  (∀ (s : State) (port l : Nat), port ≤ 1 → (s.port port).lcLast = some l → s.nat .link port 3 = 2 → l + ringTicks s ≤
    s.now → ∃ t, exec (.ringTimeout port) s = .next t ∧ t.num .link port 3 = 1 ∧ (s.isManager = false → t.num .ring 0 (4 +
    port) = 255)) ∧
  (∀ (s : State) (ident : Bytes), s.has .link 2 = true → ∃ t, exec (.moduleInsertion ident) s = .next t ∧ bit (t.nat .link
    2 13) 0 = true ∧ t.bytes .link 2 14 = padTo 256 ident ∧ t.net = s.net) ∧
  (∀ (s : State), s.has .link 2 = true → ∃ t, exec .moduleRemoval s = .next t ∧ bit (t.nat .link 2 13) 0 = false ∧
    { t with regs := s.regs } = s)

/-- On a manager: HELLO_SEND of the first hello, or the hello interval after the last, keeps its tick and numbers it;
OWN_HELLO_TIMEOUT of a closed ring that its own hellos no longer show closed sets the ring state that they show, and no
count of workers; JOIN on a ring port keeps the worker with what its join says and its tick; WORKER_REACHABILITY_TIMEOUT
with no join within the timeout sets the masks and the count to 0 and changes only the dictionary; LEARN_COMMAND of value 1
through a session that may write, with the ring closed and one worker reachable within 62 hops, lists that worker alone, by
its hop count, and counts. On a worker: HELLO on a ready ring port, with fewer than 62 hops, gives that port its hop count
and the manager's address; HOP_COUNT_EXPIRY, the ring timeout after the last hello, sets 255; REVERT_HOLD_EXPIRY, the revert
hold after the other port became the nearer one, makes it the upstream port, counted, with a join due; JOIN_SEND with an
upstream port, when a join is due, keeps its tick. A hello that has come past 62 workers stops a worker: more workers than a
ring has are outside the ratings (R15, R478). (Rests on parts of R480, R481, R484, R485, R486, R487, R478, R15.) -/
def Obligations.HellosAndJoinsFormTheRing : Prop :=
  (∀ (s : State), s.isManager = true → s.net.lastHello.all (fun x => decide (x + helloTicks s ≤ s.now)) = true → ∃ t, exec
    .helloSend s = .next t ∧ t.net.lastHello = some s.now ∧ t.net.helloSeq = (s.net.helloSeq + 1) % 2 ^ 32 ∧ t.net.inbox =
    s.net.inbox) ∧
  (∀ (s : State) (i : Nat) (rx : Rx) (m : Kmp), s.isManager = false → inboxKmp s (fun m => m.ty == 0x10) = some (i, rx, m)
    → rx.port ≤ 1 → portReady s rx.port = true → 524 ≤ m.body.length → leAt m.body 1 1 < 62 → ∃ t, exec .hello s = .next t ∧
    t.num .ring 0 (4 + rx.port) = ((leAt m.body 1 1 : Nat) : Int) ∧ t.net.inbox = s.net.inbox.eraseIdx i ∧ t.net.mgrMac =
    leAt m.body 20 8 % 2 ^ 48) ∧
  (∀ (s : State) (port a : Nat), s.isManager = false → port ≤ 1 → (s.port port).helloAt = some a → a + ringTicks s ≤ s.now
    → ∃ t, exec (.hopCountExpiry port) s = .next t ∧ t.num .ring 0 (4 + port) = 255) ∧
  (∀ (s : State) (f : Nat), s.isManager = false → s.net.revertFrom = some f → s.nat .ring 0 10 ≠ 0 → f + msTicks (s.nat
    .ring 0 10) ≤ s.now → s.nat .ring 0 2 ≤ 1 → ∃ t, exec .revertHoldExpiry s = .next t ∧ t.num .ring 0 2 = ((otherPort
    (s.nat .ring 0 2) : Nat) : Int) ∧ Counted s t .ring 0 11 1 ∧ t.net.joinDue = true) ∧
  (∀ (s : State), s.isManager = true → s.nat .ring 0 1 = 2 → managerRing s ≠ 2 → ∃ t, exec .ownHelloTimeout s = .next t ∧
    t.num .ring 0 1 = ((managerRing s : Nat) : Int) ∧ t.num .zone 0 4 = 255 ∧ t.net = s.net) ∧
  (∀ (s : State), s.isManager = false → s.nat .ring 0 2 ≠ 255 → (s.net.joinDue = true ∨ s.net.lastJoin.all (fun x => decide
    (x + msTicks 100 ≤ s.now)) = true) → ∃ t, exec .joinSend s = .next t ∧ t.net.lastJoin = some s.now ∧ t.net.joinDue =
    false) ∧
  (∀ (s : State) (i : Nat) (rx : Rx) (m : Kmp), s.isManager = true → inboxKmp s (fun m => m.ty == 0x12) = some (i, rx, m) →
    8 ≤ m.body.length → rx.port ≤ 1 → ∃ t, exec .join s = .next t ∧ t.net.joins.getLast? = some
    { ident := m.ident, mac := rx.frame.src, port := rx.port, pos := leAt m.body 0 1, hopA := leAt m.body 2 1, hopB := leAt m.body 3 1, boot := leAt m.body 4 4, tick := rx.tick }
    ∧ t.net.inbox = s.net.inbox.eraseIdx i) ∧
  (∀ (s : State), s.isManager = true → freshJoins s = [] → ∃ t, exec .workerReachabilityTimeout s = .next t ∧ t.num .zone 0
    2 = 0 ∧ t.num .zone 0 3 = 0 ∧ t.num .zone 0 5 = 0 ∧ { t with regs := s.regs } = s) ∧
  (∀ (s : State) (ses : Nat) (j : JoinRec), s.serves ses → s.power.inReset = false → s.isManager = true → s.has .zone 0 =
    true → s.nat .ring 0 1 = 2 → freshJoins s = [j] → j.hopA < 62 → ∃ t, exec (.learnCommand ses [1]) s = .next t ∧ t.ans =
    .success ∧ Counted s t .zone 0 7 1 ∧ t.num .workers 0 (j.hopA + 1) = (entryTy .workers 0 (j.hopA + 1)).narrow j.ident ∧
    (∀ n : Fin 62, (n : Nat) ≠ j.hopA → t.num .workers 0 (n + 1) = 0)) ∧
  (∀ (s : State) (i : Nat) (rx : Rx) (m : Kmp), inboxKmp s (fun m => m.ty == 0x10) = some (i, rx, m) → portReady s rx.port
    = true → 524 ≤ m.body.length → s.isManager = false → 62 ≤ leAt m.body 1 1 → exec .hello s = .fault .ringBeyondRating)

/-- Of a port whose link is up: FRAME_RECEIVED with a wrong FCS counts the frame and the error, one that the port does not
accept counts it as dropped, and neither changes the network; on a worker, an untagged KSF frame of at most 1,518 bytes to
the hub's own address is counted and waits to be acted on. EGRESS_TRANSMIT of a port whose next frame is the hub's own, or
of no PTP class, counts it, puts it on the wire, with the egress time where it is a PTP event message, and takes it from its
class. On a manager: ARP_REQUEST and ICMP_ECHO as the only frame waiting, with port C ready and nothing to send there, queue
the answer to their sender on port C; NOTIFY with a sink set is counted and taken. (Rests on parts of R474, R475, R482,
R483, R498, R501.) -/
def Obligations.FramesAreTakenCountedAndSent : Prop :=
  (∀ (s : State) (port : Nat) (f : Frame), port < 3 → s.has .link port = true → (s.nat .link port 3 = 1 ∨ s.nat .link port
    3 = 2) → f.fcsGood = false → ∃ t, exec (.frameReceived port f) s = .next t ∧ Counted s t .link port 5 1 ∧ Counted s t
    .link port 7 1 ∧ t.net = s.net) ∧
  (∀ (s : State) (port : Nat) (f : Frame), port < 3 → s.has .link port = true → (s.nat .link port 3 = 1 ∨ s.nat .link port
    3 = 2) → f.fcsGood = true → accepts s port f = false → ∃ t, exec (.frameReceived port f) s = .next t ∧ Counted s t .link
    port 5 1 ∧ Counted s t .link port 8 1 ∧ t.net = s.net) ∧
  (∀ (s : State) (port : Nat) (f : Frame) (b : Bytes), s.isManager = false → port ≤ 1 → s.has .link port = true → (s.nat
    .link port 3 = 1 ∨ s.nat .link port 3 = 2) → f.fcsGood = true → f.content = .ksf b → f.vlan = none → f.len ≤ 1518 →
    f.dst = s.mac → ∃ t, exec (.frameReceived port f) s = .next t ∧ Counted s t .link port 5 1 ∧ t.net.inbox = s.net.inbox
    ++ [⟨port, s.now, f⟩] ∧ t.num .link port 8 = s.num .link port 8) ∧
  (∀ (s : State) (port sub c : Nat) (o : OutFrame) (r : List OutFrame), s.net.ports.length = 3 → port < 3 → nextFrame
    (s.port port) = some (c, o, r) → (c ≠ 0 ∨ o.own = true) → ∃ t, exec (.egressTransmit ⟨port, sub⟩) s = .next t ∧ Counted
    s t .link port 6 1 ∧ (t.port port).sent = some (stampOwn s port sub o).2 ∧ (t.port port).egress = (s.port
    port).egress.set c r) ∧
  (∀ (s : State) (rx : Rx) (sip tip : Nat), s.isManager = true → s.net.ports.length = 3 → s.has .link 2 = true → portReady
    s 2 = true → (s.port 2).egress = [[], [], [], []] → s.net.inbox = [rx] → rx.frame.content = .arp false sip tip → ∃ t,
    exec .arpRequest s = .next t ∧ t.net.inbox = [] ∧ (t.port 2).egress = [[], [], [⟨⟨true, ownTag s 2, rx.frame.src, s.mac,
    64, .arp true tip sip, 0⟩, true, 2, 0⟩], []] ∧ t.regs = s.regs) ∧
  (∀ (s : State) (rx : Rx) (sip dip : Nat) (b : Bytes), s.isManager = true → s.net.ports.length = 3 → s.has .link 2 = true
    → portReady s 2 = true → (s.port 2).egress = [[], [], [], []] → s.net.inbox = [rx] → rx.frame.content = .icmpEcho false
    sip dip b → b.length ≤ 1472 → ∃ t, exec .icmpEcho s = .next t ∧ t.net.inbox = [] ∧ (t.port 2).egress = [[], [], [⟨⟨true,
    ownTag s 2, rx.frame.src, s.mac, frameLen (b.length + 28), .icmpEcho true dip sip b, 0⟩, true, 2, 0⟩], []] ∧ t.regs =
    s.regs) ∧
  (∀ (s : State) (i : Nat) (rx : Rx) (m : Kmp), s.isManager = true → (inboxMsgs s).find? (fun (_, _, m) => m.ty == 0x0B &&
    !(bit m.flags 0)) = some (i, rx, m) → s.nat .kmp 0 5 ≠ 0 → ∃ t, exec .notify s = .next t ∧ Counted s t .kmp 0 8 1 ∧
    t.net.inbox = s.net.inbox.eraseIdx i)

/-- Of the oldest waiting request of its type, of an open session that has not answered its transaction before: KMP_READ with
entries that fit its body answers success with the values read one after the other, and with a body that does not fit,
malformed; the session's time is that of the request's arrival if later. KMP_WRITE of one entry, the query of object
0x1030:01 with subindex byte 0, answers success, sets the session's query and counts the answer; with no entries or more
than 32 it answers malformed and sets no object of bytes. READ_BLOCK of 1 to 1,424 bytes of the capture region that stand
between the release and the write offset answers them. WRITE_BLOCK of a first segment, not the last, answers success and
keeps it. CLOSE_SESSION ends the session with its query and held set. KEEPALIVE answers success and changes nothing of the
session but its time. Each is taken and counted, and all but CLOSE_SESSION keep the answer. (Rests on parts of R491, R492,
R493, R494, R495.) -/
def Obligations.RequestsOfASessionAreServedAndAnswered : Prop :=
  (∀ (s : State) (i : Nat) (rx : Rx) (m : Kmp) (k : Sess) (es : List (Nat × Nat)), KmpIn s (fun m => m.ty == 0x01) i rx m k
    → readEntries m.body = some es → ∃ t, exec .kmpRead s = .next t ∧ KmpOut s t i m .success (readAll (s.opened i rx m k)
    m.ses (answerRoom rx m - 24) es).2 ∧ (Sparse.find t.net.sessions m.ses).map (·.last) = some (max k.last rx.tick)) ∧
  (∀ (s : State) (i : Nat) (rx : Rx) (m : Kmp) (k : Sess), KmpIn s (fun m => m.ty == 0x01) i rx m k → readEntries m.body =
    none → ∃ t, exec .kmpRead s = .next t ∧ KmpOut s t i m .malformed []) ∧
  (∀ (s : State) (i : Nat) (rx : Rx) (m : Kmp) (k : Sess) (v : Bytes), KmpIn s (fun m => m.ty == 0x02) i rx m k → 3 ≤ phase
    s → s.power.inReset = false → leAt m.body 0 4 = 1 → writeEntries 1 (m.body.drop 4) = some [(0x1030, 1, v)] → v.length =
    4 → leNat v % 256 = 0 → ∃ t, exec .kmpWrite s = .next t ∧ KmpOut s t i m .success (padTo 4 (leBytes 2 0)) ∧ Sparse.find
    t.queries m.ses = some (leNat v) ∧ Counted s t .answers 0 1 1) ∧
  (∀ (s : State) (i : Nat) (rx : Rx) (m : Kmp) (k : Sess), KmpIn s (fun m => m.ty == 0x02) i rx m k → (leAt m.body 0 1 = 0
    ∨ 32 < leAt m.body 0 1) → ∃ t, exec .kmpWrite s = .next t ∧ KmpOut s t i m .malformed [] ∧ t.blobs = s.blobs) ∧
  (∀ (s : State) (i : Nat) (rx : Rx) (m : Kmp) (k : Sess) (off len : Nat), KmpIn s (fun m => m.ty == 0x03) i rx m k →
    m.body.length = 20 → leAt m.body 0 8 = 1 → off = leAt m.body 8 8 → len = leAt m.body 16 2 → leAt m.body 18 2 = 0 → 1 ≤
    len → len ≤ 1424 → regionHeld s off len = true → ∃ t, exec .readBlock s = .next t ∧ KmpOut s t i m .success (blockBody
    (regionSize s) off ((List.range len).map (fun j => regionLoad s (off + j)))) ∧ t.takeMem = s.takeMem) ∧
  (∀ (s : State) (i : Nat) (rx : Rx) (m : Kmp) (k : Sess) (total len : Nat), KmpIn s (fun m => m.ty == 0x04) i rx m k →
    total = leAt m.body 4 4 → leAt m.body 8 4 = 0 → len = leAt m.body 12 2 → leAt m.body 3 1 = 0 → leAt m.body 14 2 = 0 →
    m.body.length = 16 + ceilTo 4 len → 1 ≤ len → len ≤ 1440 → len < total → total ≤ 65535 → ∃ t, exec .writeBlock s = .next
    t ∧ KmpOut s t i m .success [] ∧ (Sparse.find t.net.sessions m.ses).bind (·.asm) = some (leAt m.body 0 2, leAt m.body 2
    1, total, slice m.body 16 len)) ∧
  (∀ (s : State) (i : Nat) (rx : Rx) (m : Kmp) (k : Sess), KmpIn s (fun m => m.ty == 0x06) i rx m k → m.body = [] → ∃ t,
    exec .closeSession s = .next t ∧ Counted s t .kmp 0 2 1 ∧ t.net.inbox = s.net.inbox.eraseIdx i ∧ Sparse.find
    t.net.sessions m.ses = none ∧ Sparse.find t.queries m.ses = none ∧ (t.stage m.ses).held = false) ∧
  (∀ (s : State) (i : Nat) (rx : Rx) (m : Kmp) (k : Sess), KmpIn s (fun m => m.ty == 0x07) i rx m k → m.body = [] → ∃ t,
    exec .keepalive s = .next t ∧ KmpOut s t i m .success [] ∧ (Sparse.find t.net.sessions m.ses).map (fun x => (x.last,
    x.timeout)) = some (max k.last rx.tick, k.timeout))

/-- OPEN_SESSION with a timeout of 1 to 3,600 s, when a session is free, opens one of the free sessions, which one being a free
value, with its timeout, tag and time; with none free it opens none; both are counted. SESSION_EXPIRY closes the first
session that no request has named for its timeout, with its held set, counted. Of an open session that has not answered the
transaction before, from phase 3 on: KMP_FENCE_OPEN_SET without a held set opens one that is empty; KMP_FENCE_COMMIT of a
held set, for tick 0, keeps it for the first whole millisecond at or after now plus the commit lead, shows and answers that
tick; KMP_FENCE_ABANDON drops the held set and counts it. SLATE_COMMAND from its manager, on an anchored worker, for a tick
at least the lead ahead, accepts the SLATE. TAKE_TRIGGER without a session, on a worker, of a take whose start source is the
network, gives it an occurrence at the tick written, or now when that has passed. (Rests on parts of R494, R496, R497, R432,
R433, R436.) -/
def Obligations.FenceRequestsAndSessionsOfKmp : Prop :=
  (∀ (s : State) (i : Nat) (rx : Rx) (m : Kmp), inboxReq s (fun m => m.ty == 0x05) = some (i, rx, m) → m.body.length = 12 →
    leAt m.body 2 2 = 0 → 1 ≤ leAt m.body 0 2 → leAt m.body 0 2 ≤ 3600 → freeSessions s ≠ [] → ∃ t, exec .openSession s =
    .next t ∧ (freeSessions s).any (fun n => Sparse.find t.net.sessions n == some
    { timeout := leAt m.body 0 2, tag := leAt m.body 4 8, last := s.now, kept := [], asm := none }) = true ∧ Counted s t
    .kmp 0 2 1 ∧ t.net.inbox = s.net.inbox.eraseIdx i ∧ t.free = s.free + 1) ∧
  (∀ (s : State) (i : Nat) (rx : Rx) (m : Kmp), inboxReq s (fun m => m.ty == 0x05) = some (i, rx, m) → m.body.length = 12 →
    leAt m.body 2 2 = 0 → 1 ≤ leAt m.body 0 2 → leAt m.body 0 2 ≤ 3600 → freeSessions s = [] → ∃ t, exec .openSession s =
    .next t ∧ t.net.sessions = s.net.sessions ∧ Counted s t .kmp 0 2 1 ∧ t.free = s.free) ∧
  (∀ (s : State) (n : Nat) (k : Sess), s.net.sessions.find? (fun p => decide (p.2.last + p.2.timeout * 24576000 ≤ s.now)) =
    some (n, k) → ∃ t, exec .sessionExpiry s = .next t ∧ Sparse.find t.net.sessions n = none ∧ Counted s t .kmp 0 4 1 ∧
    (t.stage n).held = false) ∧
  (∀ (s : State) (i : Nat) (rx : Rx) (m : Kmp) (k : Sess), KmpIn s (fun m => m.ty == 0x08 && leAt m.body 0 1 != 2 && leAt
    m.body 0 1 != 3) i rx m k → m.body.length = 12 → leAt m.body 0 4 = 1 → 3 ≤ phase s → (s.stage m.ses).held = false → ∃ t,
    exec .kmpFenceOpenSet s = .next t ∧ KmpOut s t i m .success (leBytes 8 0) ∧ (t.stage m.ses).held = true ∧ (t.stage
    m.ses).set = []) ∧
  (∀ (s : State) (i : Nat) (rx : Rx) (m : Kmp) (k : Sess), KmpIn s (fun m => m.ty == 0x08 && leAt m.body 0 1 == 2) i rx m k
    → m.body.length = 12 → leAt m.body 0 4 = 2 → leAt m.body 4 8 = 0 → 3 ≤ phase s → (s.stage m.ses).held = true → ∃ t, exec
    .kmpFenceCommit s = .next t ∧ KmpOut s t i m .success (leBytes 8 (t.nat .session m.ses 4)) ∧ t.num .session m.ses 4 =
    (entryTy .session m.ses 4).narrow (ceilTo 24576 (s.now + s.nat .fence 0 4) : Nat) ∧ (t.stage m.ses).held = false ∧
    (t.stage m.ses).pend = (s.stage m.ses).pend ++ [⟨ceilTo 24576 (s.now + s.nat .fence 0 4), s.order, (s.stage m.ses).set⟩]) ∧
  (∀ (s : State) (i : Nat) (rx : Rx) (m : Kmp) (k : Sess), KmpIn s (fun m => m.ty == 0x08 && leAt m.body 0 1 == 3) i rx m k
    → m.body.length = 12 → leAt m.body 0 4 = 3 → 3 ≤ phase s → (s.stage m.ses).held = true → ∃ t, exec .kmpFenceAbandon s =
    .next t ∧ KmpOut s t i m .success (leBytes 8 0) ∧ (t.stage m.ses).held = false ∧ (t.stage m.ses).set = [] ∧ Counted s t
    .session m.ses 10 1) ∧
  (∀ (s : State) (i : Nat) (rx : Rx) (m : Kmp), s.isManager = false → inboxReq s (fun m => m.ty == 0x09) = some (i, rx, m)
    → m.body.length = 8 → rx.frame.src = s.net.mgrMac → anchored s = true → s.now + s.nat .slate 0 4 ≤ leNat m.body → ∃ t,
    exec .slateCommand s = .next t ∧ leNat m.body ∈ t.clk.slates ∧ Counted s t .kmp 0 2 1 ∧ t.net.inbox =
    s.net.inbox.eraseIdx i) ∧
  (∀ (s : State) (i : Nat) (rx : Rx) (m : Kmp), s.isManager = false → inboxReq s (fun m => m.ty == 0x0A) = some (i, rx, m)
    → m.ses = 0 → m.body.length = 16 → leAt m.body 0 8 < 16 → s.nat .take (leAt m.body 0 8) 5 / 4096 = 4 → ∃ t, exec
    .takeTrigger s = .next t ∧ (∃ o ∈ (t.take (leAt m.body 0 8)).starts, o.tick = max (leAt m.body 8 8) s.now) ∧ Counted s t
    .kmp 0 2 1 ∧ t.net.inbox = s.net.inbox.eraseIdx i)

/-- BRIDGE_FORWARD of the oldest request from port C for another hub, in a session, with none outstanding: to a listed worker
that is reachable it is counted and kept with its client; to one that is not reachable it is counted as such and nothing is
kept. BRIDGE_ANSWER with a matching request takes that request away; with no request outstanding it is discarded and counted
in the model's own count, and the dictionary does not change. BRIDGE_TIMEOUT takes the first request away that has had no
answer for the bridge timeout, and counts it. What is acted on is taken. (Rests on parts of R503.) -/
def Obligations.TheBridgeForwardsAnswersAndGivesUp : Prop :=
  (∀ (s : State) (i : Nat) (rx : Rx) (m : Kmp) (j : JoinRec), (inboxMsgs s).find? (fun (_, r, m) => !(bit m.flags 0) &&
    forBridge s r.port m && !servesLocal s r m) = some (i, rx, m) → m.ident ≠ allHubs → m.ses ≠ 0 → s.net.bridged = [] →
    (listedWorkers s).any (fun p => s.nat .workers 0 p == m.ident) = true → (freshJoins s).find? (fun j => j.ident ==
    m.ident) = some j → ∃ t, exec .bridgeForward s = .next t ∧ Counted s t .bridge 0 5 1 ∧ t.net.bridged = [⟨rx.frame,
    m.ident, m.ses, m.tid, s.now⟩] ∧ t.net.inbox = s.net.inbox.eraseIdx i) ∧
  (∀ (s : State) (i : Nat) (rx : Rx) (m : Kmp), (inboxMsgs s).find? (fun (_, r, m) => !(bit m.flags 0) && forBridge s
    r.port m && !servesLocal s r m) = some (i, rx, m) → m.ident ≠ allHubs → (freshJoins s).find? (fun j => j.ident ==
    m.ident) = none → ∃ t, exec .bridgeForward s = .next t ∧ Counted s t .bridge 0 7 1 ∧ t.net.bridged = s.net.bridged ∧
    t.net.inbox = s.net.inbox.eraseIdx i) ∧
  (∀ (s : State) (i : Nat) (rx : Rx) (m : Kmp) (b : Bridged), (inboxMsgs s).find? (fun (_, _, m) => bit m.flags 0 && bit
    m.flags 1) = some (i, rx, m) → s.net.bridged.find? (fun b => b.target == m.ident && b.tid == m.tid && (b.ses == m.ses ||
    b.ses == 0)) = some b → ∃ t, exec .bridgeAnswer s = .next t ∧ t.net.bridged = s.net.bridged.erase b ∧ t.net.inbox =
    s.net.inbox.eraseIdx i ∧ t.net.lateAnswers = s.net.lateAnswers) ∧
  (∀ (s : State) (i : Nat) (rx : Rx) (m : Kmp), (inboxMsgs s).find? (fun (_, _, m) => bit m.flags 0 && bit m.flags 1) =
    some (i, rx, m) → s.net.bridged = [] → ∃ t, exec .bridgeAnswer s = .next t ∧ t.net.lateAnswers = s.net.lateAnswers + 1 ∧
    t.net.inbox = s.net.inbox.eraseIdx i ∧ t.regs = s.regs) ∧
  (∀ (s : State) (b : Bridged), s.net.bridged.find? (fun b => decide (b.tick + msTicks (s.nat .bridge 0 4) ≤ s.now)) = some
    b → ∃ t, exec .bridgeTimeout s = .next t ∧ t.net.bridged = s.net.bridged.erase b ∧ Counted s t .bridge 0 6 1 ∧
    t.net.inbox = s.net.inbox)

/-- With the endpoint running: PERST and FUNCTION_LEVEL_RESET with the link up take it down, counted, clear the slots, the
waiting answers and MSI-X, note a slot that is being served, and drop the held set and the query of session 0; HOST_LINK_UP
shows a speed and width of R563. With the link up: HOST_LINK_DOWN is counted and clears nothing of the slots; SLOT_DOORBELL
of a slot that does not wait marks it, keeps the answer vector and changes only the host port's record, of one that waits it
is counted; EVENT_DOORBELL raises software event w modulo 8 on the management island's events queue when that can take it;
BAR2_WRITE within the DMA buffer stores its bytes there and changes nothing else, outside it is counted and stores nothing;
MSIX_UNMASK unmasks its vector, and sends and counts the message that is pending; BAD_REQUEST_RECEIVED is counted.
SLOT_ANSWER of a read, with no slot cut by a reset, answers the slot whose doorbell came first with status, length and
value, and counts it. CONSUMED_OFFSET_WRITE through a session that may write, of a multiple of 16 between the consumed and
the write offset, moves the consumed offset and ends the hand-off of what lies before it. (Rests on parts of R563, R564,
R566, R567, R569, R570, R574, R575, R576.) -/
def Obligations.TheHostPortResetsLinksAndServesSlots : Prop :=
  (∀ (s : State), hostOn s = true → s.nat .endpoint 0 1 = 1 → ∃ t, exec .perst s = .next t ∧ t.num .endpoint 0 1 = 0 ∧
    Counted s t .endpoint 0 8 1 ∧ t.host =
    { slots := [], busy := [], ansVec := 0, unmasked := [], pendingV := [], lastMsg := none, cut := (s.host.cut || !s.host.busy.isEmpty) }
    ∧ (t.stage 0).held = false ∧ Sparse.find t.queries 0 = none) ∧
  (∀ (s : State), hostOn s = true → s.nat .endpoint 0 1 = 1 → ∃ t, exec .functionLevelReset s = .next t ∧ t.num .endpoint 0
    1 = 0 ∧ Counted s t .endpoint 0 8 1 ∧ t.host =
    { slots := [], busy := [], ansVec := 0, unmasked := [], pendingV := [], lastMsg := none, cut := (s.host.cut || !s.host.busy.isEmpty) }
    ∧ (t.stage 0).held = false ∧ Sparse.find t.queries 0 = none) ∧
  (∀ (s : State) (speed width : Nat), hostOn s = true → s.nat .endpoint 0 1 = 0 → (speed = 25 ∨ speed = 50 ∨ speed = 80) →
    (width = 1 ∨ width = 2) → ∃ t, exec (.hostLinkUp speed width) s = .next t ∧ t.num .endpoint 0 1 = 1 ∧ t.num .endpoint 0
    2 = speed ∧ t.num .endpoint 0 3 = width) ∧
  (∀ (s : State), hostUp s = true → ∃ t, exec .hostLinkDown s = .next t ∧ t.num .endpoint 0 1 = 0 ∧ t.num .endpoint 0 2 = 0
    ∧ t.num .endpoint 0 3 = 0 ∧ Counted s t .endpoint 0 8 1 ∧ t.host = s.host) ∧
  (∀ (s : State) (w vec : Nat), hostUp s = true → w < 16 → s.host.busy.contains w = false → ∃ t, exec (.slotDoorbell w vec)
    s = .next t ∧ t.host.busy = s.host.busy ++ [w] ∧ t.host.ansVec = vec ∧ (t.slot w).status = (s.slot w).status % 2 ^ 31 ∧
    { t with host := s.host } = s) ∧
  (∀ (s : State) (w vec : Nat), hostUp s = true → w < 16 → s.host.busy.contains w = true → ∃ t, exec (.slotDoorbell w vec)
    s = .next t ∧ Counted s t .endpoint 0 7 1 ∧ t.host.busy = s.host.busy) ∧
  (∀ (s : State) (head len tag k : Nat) (value v : Bytes) (rest : List Nat) (u : State) (c : Code), s.host.cut = false →
    s.host.busy = k :: rest → s.power.inReset = false → bits head 31 28 = 1 → bits head 27 24 = 0 → serveRead s 0 (bits head
    23 8) (bits head 7 0) = (u, c, v) → v.length ≤ 65535 → ∃ t, exec (.slotAnswer head len tag value) s = .next t ∧ t.slot k
    = { head := head, len := v.length, status := 2 ^ 31 + c.num, tag := tag, value := v } ∧ t.host.busy = rest ∧ Counted s t
    .endpoint 0 6 1) ∧
  (∀ (s : State) (w : Nat), hostUp s = true → 3 ≤ phase s → ∃ t, exec (.eventDoorbell w) s = .next t ∧ t.ans = .success ∧
    (s.canRaise 29 → Raised s t 29 ⟨88 + w % 8, 1, 0, s.now⟩)) ∧
  (∀ (s : State) (offset : Nat) (bs : Bytes), hostUp s = true → offset + bs.length ≤ 67108864 → within dmaBase dmaBufSize
    (s.nat .endpoint 0 10 * 1048576 + offset) bs.length = true → ∃ t, exec (.bar2Write offset bs) s = .next t ∧ t.dmaBuf =
    regionStore s.dmaBuf (s.nat .endpoint 0 10 * 1048576 + offset - dmaBase) bs ∧ { t with dmaBuf := s.dmaBuf } = s) ∧
  (∀ (s : State) (offset : Nat) (bs : Bytes), hostUp s = true → offset + bs.length ≤ 67108864 → within dmaBase dmaBufSize
    (s.nat .endpoint 0 10 * 1048576 + offset) bs.length = false → ∃ t, exec (.bar2Write offset bs) s = .next t ∧ Counted s t
    .endpoint 0 11 1 ∧ t.dmaBuf = s.dmaBuf) ∧
  (∀ (s : State) (v : Nat), hostUp s = true → v < 32 → s.host.pendingV.contains v = false → ∃ t, exec (.msixUnmask v) s =
    .next t ∧ t.host.unmasked.contains v = true ∧ { t with host := s.host } = s) ∧
  (∀ (s : State) (v : Nat), hostUp s = true → v < 32 → s.host.pendingV.contains v = true → ∃ t, exec (.msixUnmask v) s =
    .next t ∧ t.host.unmasked.contains v = true ∧ t.host.pendingV.contains v = false ∧ t.host.lastMsg = some v ∧ Counted s t
    .endpoint 0 12 1) ∧
  (∀ (s : State), hostUp s = true → ∃ t, exec .badRequestReceived s = .next t ∧ Counted s t .endpoint 0 9 1 ∧ (s.canRaise
    30 → Raised s t 30 ⟨79, 4, 0, s.now⟩)) ∧
  (∀ (s : State) (ses : Nat) (bs : Bytes), s.serves ses → s.power.inReset = false → s.has .handoff 0 = true → bs.length = 8
    → leNat bs % 16 = 0 → s.nat .handoff 0 4 ≤ leNat bs → leNat bs ≤ s.nat .handoff 0 3 → ∃ t, exec (.consumedOffsetWrite
    ses bs) s = .next t ∧ t.ans = .success ∧ t.num .handoff 0 4 = (leNat bs : Int) ∧ t.strm.hand = s.strm.hand.filter (fun h
    => decide (leNat bs < h.stop)))

/-- LGO_UPDATE_TICK in phase 6, at an update tick not looked at, of an output that runs in its set mode and is not in fault:
with no request, not stale, it takes the value that its channel's source has, shows it and state 1, and keeps the tick; with
a request received by that tick it enters fault, counted, and shows state 2; in mode 0 it shows state and setting 0 and
queues nothing. LGO_STALE_EXPIRY of an output that is on, the stale limit after its last value, and LGO_FAULT_HOLD_EXPIRY of
one in fault, the fault hold after its last request, note that and change nothing else. RELEASE_COMMAND of value 1 through a
session that may write notes that the output is to leave fault. (Rests on parts of R578, R579, R581.) -/
def Obligations.LegacyOutputsTakeValuesAndFault : Prop :=
  (∀ (s : State) (i u ch : Nat) (v : Int) (r : Option Nat), i < 16 → s.nat .startup 0 3 = 6 → u = s.now / (s.lgoOut
    i).period * (s.lgoOut i).period → (s.lgoOut i).looked ≠ some u → (s.lgoOut i).mode = s.nat .lgo i 1 → (s.lgoOut i).fault
    = false → (s.lgoOut i).mode ≠ 0 → (s.lgoOut i).asked = false → (s.lgoOut i).stale = false → lgoChan s i = some ch →
    lgoFind s (s.lgoOut i) ch u = .value v r → ∃ t, exec (.lgoUpdateTick i) s = .next t ∧ t.num .chLegacy ch 9 = (entryTy
    .chLegacy ch 9).narrow v ∧ (t.lgoOut i).lastTaken = u ∧ t.num .lgo i 11 = 1) ∧
  (∀ (s : State) (i u : Nat), i < 16 → s.nat .startup 0 3 = 6 → u = s.now / (s.lgoOut i).period * (s.lgoOut i).period →
    (s.lgoOut i).looked ≠ some u → (s.lgoOut i).mode = s.nat .lgo i 1 → (s.lgoOut i).fault = false → (s.lgoOut i).mode ≠ 0 →
    (s.lgoOut i).asked = true → (s.lgoOut i).request.getD 0 ≤ u → ∃ t, exec (.lgoUpdateTick i) s = .next t ∧ (t.lgoOut
    i).fault = true ∧ Counted s t .lgo i 13 1 ∧ t.num .lgo i 11 = 2) ∧
  (∀ (s : State) (i u : Nat), i < 16 → s.nat .startup 0 3 = 6 → u = s.now / (s.lgoOut i).period * (s.lgoOut i).period →
    (s.lgoOut i).looked ≠ some u → (s.lgoOut i).mode = s.nat .lgo i 1 → (s.lgoOut i).fault = false → (s.lgoOut i).mode = 0 →
    ∃ t, exec (.lgoUpdateTick i) s = .next t ∧ t.num .lgo i 11 = 0 ∧ t.num .lgo i 12 = 0 ∧ (t.lgoOut i).looked = some u ∧
    t.queues = s.queues) ∧
  (∀ (s : State) (i : Nat), i < 16 → (s.lgoOut i).mode ≠ 0 → (s.lgoOut i).staleMs ≠ 0 → (s.lgoOut i).lastTaken + msTicks
    (s.lgoOut i).staleMs ≤ s.now → ∃ t, exec (.lgoStaleExpiry i) s = .next t ∧ (t.lgoOut i).stale = true ∧
    { t with lgo := s.lgo } = s) ∧
  (∀ (s : State) (i : Nat), i < 16 → (s.lgoOut i).fault = true → (s.lgoOut i).holdMs ≠ 0 → (s.lgoOut i).request.getD 0 +
    msTicks (s.lgoOut i).holdMs ≤ s.now → ∃ t, exec (.lgoFaultHoldExpiry i) s = .next t ∧ (t.lgoOut i).held = true ∧
    { t with lgo := s.lgo } = s) ∧
  (∀ (s : State) (ses i : Nat), s.serves ses → s.power.inReset = false → i < 16 → ∃ t, exec (.releaseCommand ses i [1]) s =
    .next t ∧ t.ans = .success ∧ (t.lgoOut i).release = true ∧ t.lgo.samps = s.lgo.samps)

/-- With rails 1 to 5 good: TAP_RESET selects IDCODE and gives the balls back. With no debug reset due: EXTEST, CLAMP and HIGHZ
select themselves and take the balls while RESET_N is held low; outside every reset they select BYPASS, captured as 0, take
no balls, and are counted; SAMPLE_PRELOAD selects itself, captures the levels of the balls of the chain and preloads them;
IDCODE captures the identification and BYPASS 0. With DBGDATA selected: DBGDATA_CAPTURE takes the first word of the read
buffer, with bit 64 set, or captures 0 of an empty one; DBGDATA_UPDATE outside reset of a word with bit 64 set appends it to
the write buffer, or counts it when 8,192 words stand there. All but SAMPLE_PRELOAD and the counted cases change only the
debug port's record. (Rests on parts of R609, R610, R611, R613, R614.) -/
def Obligations.TheTapSelectsAndCaptures : Prop :=
  (∀ (s : State), tapOn s = true → ∃ t, exec .tapReset s = .next t ∧ t.dbg.ir = 0x02 ∧ t.dbg.control = false ∧
    { t with dbg := s.dbg } = s) ∧
  (∀ (s : State), tapOn s = true → s.dbg.resetDue = false → s.power.held = true → ∃ t, exec .tapExtest s = .next t ∧
    t.dbg.ir = 0x00 ∧ t.dbg.control = true ∧ { t with dbg := s.dbg } = s) ∧
  (∀ (s : State), tapOn s = true → s.dbg.resetDue = false → s.power.held = false → s.power.inReset = false → ∃ t, exec
    .tapExtest s = .next t ∧ t.dbg.ir = 0x3F ∧ t.dbg.dr = 0 ∧ t.dbg.control = (s.dbg.control && s.dbg.ir == 0x3F) ∧ Counted
    s t .debug 0 5 1) ∧
  (∀ (s : State), tapOn s = true → s.dbg.resetDue = false → s.power.held = true → ∃ t, exec .tapClamp s = .next t ∧
    t.dbg.ir = 0x03 ∧ t.dbg.control = true ∧ { t with dbg := s.dbg } = s) ∧
  (∀ (s : State), tapOn s = true → s.dbg.resetDue = false → s.power.held = false → s.power.inReset = false → ∃ t, exec
    .tapClamp s = .next t ∧ t.dbg.ir = 0x3F ∧ t.dbg.dr = 0 ∧ t.dbg.control = (s.dbg.control && s.dbg.ir == 0x3F) ∧ Counted s
    t .debug 0 5 1) ∧
  (∀ (s : State), tapOn s = true → s.dbg.resetDue = false → s.power.held = true → ∃ t, exec .tapHighz s = .next t ∧
    t.dbg.ir = 0x04 ∧ t.dbg.control = true ∧ { t with dbg := s.dbg } = s) ∧
  (∀ (s : State), tapOn s = true → s.dbg.resetDue = false → s.power.held = false → s.power.inReset = false → ∃ t, exec
    .tapHighz s = .next t ∧ t.dbg.ir = 0x3F ∧ t.dbg.dr = 0 ∧ t.dbg.control = (s.dbg.control && s.dbg.ir == 0x3F) ∧ Counted s
    t .debug 0 5 1) ∧
  (∀ (s : State) (balls : Nat), tapOn s = true → s.dbg.resetDue = false → ∃ t, exec (.samplePreload balls) s = .next t ∧
    t.dbg.dr = balls % 2 ^ s.nat .debug 0 8 ∧ t.dbg.chain = balls % 2 ^ s.nat .debug 0 8 ∧ t.dbg.ir = 0x01) ∧
  (∀ (s : State), tapOn s = true → s.dbg.resetDue = false → ∃ t, exec .tapIdcode s = .next t ∧ t.dbg.ir = 0x02 ∧ t.dbg.dr =
    idcode s ∧ { t with dbg := s.dbg } = s) ∧
  (∀ (s : State), tapOn s = true → s.dbg.resetDue = false → ∃ t, exec .tapBypass s = .next t ∧ t.dbg.ir = 0x3F ∧ t.dbg.dr =
    0 ∧ { t with dbg := s.dbg } = s) ∧
  (∀ (s : State) (w : Nat) (rest : List Nat), tapOn s = true → s.dbg.ir = 0x11 → s.dbg.rbuf = w :: rest → ∃ t, exec
    .dbgdataCapture s = .next t ∧ t.dbg.dr = 2 ^ 64 + w ∧ t.dbg.rbuf = rest ∧ { t with dbg := s.dbg } = s) ∧
  (∀ (s : State), tapOn s = true → s.dbg.ir = 0x11 → s.dbg.rbuf = [] → ∃ t, exec .dbgdataCapture s = .next t ∧ t.dbg.dr = 0
    ∧ t.dbg.rbuf = [] ∧ { t with dbg := s.dbg } = s) ∧
  (∀ (s : State) (w : Nat), tapOn s = true → s.dbg.ir = 0x11 → s.power.inReset = false → bit w 64 = true →
    s.dbg.wbuf.length < 8192 → ∃ t, exec (.dbgdataUpdate w) s = .next t ∧ t.dbg.wbuf = s.dbg.wbuf ++ [w % 2 ^ 64] ∧
    { t with dbg := s.dbg } = s) ∧
  (∀ (s : State) (w : Nat), tapOn s = true → s.dbg.ir = 0x11 → s.power.inReset = false → bit w 64 = true → 8192 ≤
    s.dbg.wbuf.length → ∃ t, exec (.dbgdataUpdate w) s = .next t ∧ t.dbg = s.dbg ∧ Counted s t .debug 0 4 1)

/-- With DBGCMD selected and no debug reset due: DEBUG_NO_OPERATION of code 0 captures the status and changes only the debug
port's record. With nothing busy, outside reset: DEBUG_OBJECT_READ from phase 3 on reads its object outside every session,
keeps its tick and is busy; DEBUG_OBJECT_WRITE of the 4 bytes of object 0x1000:0D, with no held set of session 15, sets it
and is busy; DEBUG_MEMORY_READ of words of the program SRAM from phase 2 on, without an error, brings them;
DEBUG_MEMORY_WRITE of words that stand in the write buffer sets them there, and no other memory, where every page is 1,024
bytes long. DEBUG_COMMAND_DONE of a command that succeeded shows done with the length, fills the read buffer and counts; of
one that did not it shows refused with the code, counted. (Rests on parts of R615, R616, R617, R618.) -/
def Obligations.DebugCommandsRunAndEnd : Prop :=
  (∀ (s : State) (w : Nat), tapOn s = true → bits w 63 60 = 0 → s.dbg.ir = 0x10 → s.dbg.resetDue = false → ∃ t, exec
    (.debugNoOperation w) s = .next t ∧ t.dbg.dr = s.dbg.word ∧ { t with dbg := s.dbg } = s) ∧
  (∀ (s : State) (w : Nat), DbgTakes s w 1 → bits w 59 32 = 0 → bits w 7 0 = 0 → 3 ≤ phase s → ∃ t, exec (.debugObjectRead
    w) s = .next t ∧ t.dbg.busy = some (1, (serveRead s.dbgBegun noRequester (bits w 31 16) (bits w 15 8)).2) ∧ t.dbg.state
    = 1 ∧ t.num .debug 0 7 = (entryTy .debug 0 7).narrow s.now) ∧
  (∀ (s : State) (w : Nat), DbgTakes s w 2 → bits w 59 0 = 4 * 2 ^ 40 + 0x10000D00 → 4 ≤ s.dbg.wbytes.length → 3 ≤ phase s
    → (s.stage 15).held = false → ∃ t, exec (.debugObjectWrite w) s = .next t ∧ t.dbg.busy = some (2, .success, []) ∧ t.num
    .identity 0 13 = ((leNat (s.dbg.wbytes.take 4) : Nat) : Int) ∧ t.dbg.wbuf = s.dbg.wbuf) ∧
  (∀ (s : State) (w : Nat), DbgTakes s w 3 → bits w 59 56 = 1 → bits w 47 0 % 8 = 0 → bits w 47 0 + 8 * (bits w 55 48 + 1)
    ≤ 65536 → 2 ≤ phase s → ∃ t, exec (.debugMemoryRead w none) s = .next t ∧ t.dbg.busy = some (3, .success, (List.range
    (bits w 55 48 + 1)).flatMap (fun i => sramLoad s (bits w 47 0 + 8 * i) 8)) ∧ t.blobs = s.blobs) ∧
  (∀ (s : State) (w : Nat), DbgTakes s w 4 → bits w 59 56 = 1 → bits w 47 0 % 8 = 0 → bits w 47 0 + 8 * (bits w 55 48 + 1)
    ≤ 65536 → 8 * (bits w 55 48 + 1) ≤ s.dbg.wbytes.length → 2 ≤ phase s → (∀ p : Fin 64, (s.bytes .sram 0 (p + 1)).length =
    1024) → ∃ t, exec (.debugMemoryWrite w) s = .next t ∧ t.dbg.busy = some (4, .success, []) ∧ sramLoad t (bits w 47 0) (8
    * (bits w 55 48 + 1)) = s.dbg.wbytes.take (8 * (bits w 55 48 + 1)) ∧ t.dmaBuf = s.dmaBuf ∧ t.takeMem = s.takeMem) ∧
  (∀ (s : State) (op : Nat) (b : Bytes), s.dbg.busy = some (op, .success, b) → ∃ t, exec .debugCommandDone s = .next t ∧
    t.dbg.busy = none ∧ t.dbg.state = 2 ∧ t.dbg.code = 0 ∧ t.dbg.length = b.length ∧ t.dbg.rbuf = (chunks 8 b).map leNat ∧
    Counted s t .debug 0 3 1) ∧
  (∀ (s : State) (op : Nat) (c : Code) (b : Bytes), s.dbg.busy = some (op, c, b) → c ≠ .success → ∃ t, exec
    .debugCommandDone s = .next t ∧ t.dbg.busy = none ∧ t.dbg.state = 3 ∧ t.dbg.code = c.num ∧ Counted s t .debug 0 4 1)

/-- STORE_COMPLETE of a store whose slot could not be erased, written or verified, with no restart waiting, ends the store,
shows the last store result as failed and counts no store. Every slot but the slot of the store is as it was, and that slot
is not valid. Where the events queue of the management island takes an occurrence at once, the event "retained store failed"
stands in it with the generation as its detail. Where the store had the next generation and nothing valid stood in its slot,
the next store has the same generation, and so the same slot. (R518.) -/
def Obligations.AStoreThatFailsLeavesTheOtherSlots : Prop :=
  (∀ (s : State) (gen tick later : Nat) (x : Snap), s.store.run = some ⟨gen, some (tick, x), later⟩ → s.power.resetWait =
    false → ∃ t, exec (.storeComplete false) s = .next t ∧ t.store.run = none ∧ t.num .store 0 6 = 2 ∧ t.num .store 0 9 =
    s.num .store 0 9 ∧ (∀ j : Fin 8, (j : Nat) ≠ slotOf gen → t.flash.slots[(j : Nat)]? = s.flash.slots[(j : Nat)]?) ∧ (∀ y
    ∈ (t.flash.slots[slotOf gen]?).join, y.valid = false) ∧ (s.canRaise 29 → Raised s t 29 ⟨77, 1, gen, s.now⟩) ∧ (nextGen s
    = gen → (∀ y ∈ (s.flash.slots[slotOf gen]?).join, y.valid = false) → nextGen t = gen))

/-- Of the word of an END fetched for a channel: END has one field, bit 0 SIG; a word with another bit set faults with cause 2.
With a write of the run not confirmed, END waits and raises nothing. With every write confirmed the channel enters IDLE, at
once, or when WRITE_CONFIRMED brings the last confirmation: while a dictionary write is not answered WRITE_CONFIRMED changes
nothing, and writes to host memory are confirmed by a good answer on a link that is up. With SIG set the event source of the
channel is pulsed, on the DMA island's events queue when that can take it; with SIG clear no queue changes. (R456.) -/
def Obligations.EndWaitsForItsWritesAndThenEndsTheRun : Prop :=
  (∀ (s : State) (c w : Nat), s.dma.cur = some (c, w) → c < 16 → bits w 63 60 = 0 → bits w 59 1 = 0 → (s.dmaCh c).open_ =
    false → ∃ t, exec .dmaEnd s = .next t ∧ dmaState t c = 0 ∧ (t.dmaCh c).frames = [] ∧ (bit w 0 = true → s.canRaise 30 →
    Raised s t 30 ⟨c, 2, (s.dmaCh c).pc, s.now⟩) ∧ (bit w 0 = false → t.queues = s.queues)) ∧
  (∀ (s : State) (c w : Nat), s.dma.cur = some (c, w) → c < 16 → bits w 63 60 = 0 → bits w 59 1 = 0 → (s.dmaCh c).open_ =
    true → ∃ t, exec .dmaEnd s = .next t ∧ dmaState t c = 2 ∧ (t.dmaCh c).wait = some ⟨.finish (bit w 0), 0, s.now⟩ ∧
    t.queues = s.queues) ∧
  (∀ (s : State) (c w : Nat), s.dma.cur = some (c, w) → c < 16 → bits w 63 60 = 0 → bits w 59 1 ≠ 0 → ∃ t, exec .dmaEnd s =
    .next t ∧ DmaFaulted s t c 2) ∧
  (∀ (s : State) (c : Nat) (good : Bool), (s.dmaCh c).reqs.any (·.write) = true → ∃ t, exec (.writeConfirmed c good) s =
    .next t ∧ t = s) ∧
  (∀ (s : State) (c l a : Nat) (good : Bool), c < 16 → dmaState s c = 2 → (s.dmaCh c).wait = some ⟨.finish true, l, a⟩ →
    (s.dmaCh c).reqs.any (·.write) = false → (s.dmaCh c).outs.find? (fun o => o.target == 1) = none ∨ (s.nat .endpoint 0 1 ≠
    0 ∧ good = true) → ∃ t, exec (.writeConfirmed c good) s = .next t ∧ dmaState t c = 0 ∧ (t.dmaCh c).outs = [] ∧ (t.dmaCh
    c).frames = [] ∧ (s.canRaise 30 → Raised s t 30 ⟨c, 2, (s.dmaCh c).pc, s.now⟩)) ∧
  (∀ (s : State) (c l a : Nat) (good : Bool), c < 16 → dmaState s c = 2 → (s.dmaCh c).wait = some ⟨.finish false, l, a⟩ →
    (s.dmaCh c).reqs.any (·.write) = false → (s.dmaCh c).outs.find? (fun o => o.target == 1) = none ∨ (s.nat .endpoint 0 1 ≠
    0 ∧ good = true) → ∃ t, exec (.writeConfirmed c good) s = .next t ∧ dmaState t c = 0 ∧ (t.dmaCh c).outs = [] ∧ (t.dmaCh
    c).frames = [] ∧ t.queues = s.queues)

/-- DEBUG_RESET, taken with DBGCMD selected and nothing busy outside reset, with no other field set, makes a reset due and is
busy. With a reset due and rails 1 to 5 good: a scan of DBGCMD that captures another status than done leaves it due; one
that captures done, with whatever command it carries, resets the hub with cause 5, and so does every selection of an
instruction before that: of DBGCMD, DBGDATA, IDCODE, BYPASS, SAMPLE_PRELOAD, and, with RESET_N high, of EXTEST, CLAMP and
HIGHZ. The TAP is not reset: the instruction selected and the status captured stand. (R619.) -/
def Obligations.ADebugResetWaitsForItsStatusOrAnUpdate : Prop :=
  (∀ (s : State) (w : Nat), DbgTakes s w 8 → bits w 59 0 = 0 → ∃ t, exec (.debugReset w) s = .next t ∧ t.dbg.resetDue =
    true ∧ t.dbg.busy = some (8, .success, []) ∧ t.now = s.now) ∧
  (∀ (s : State) (w : Nat), tapOn s = true → s.dbg.resetDue = true → bits w 63 60 = 0 → s.dbg.ir = 0x10 → s.dbg.state = 2 →
    ∃ t, exec (.debugNoOperation w) s = .next t ∧ t.num .startup 0 1 = 5 ∧ t.power.inReset = true ∧ phase t = 0 ∧
    t.dbg.resetDue = false ∧ t.dbg.ir = 0x10 ∧ t.dbg.dr = s.dbg.word) ∧
  (∀ (s : State) (w : Nat), tapOn s = true → s.dbg.resetDue = true → bits w 63 60 = 0 → s.dbg.ir = 0x10 → s.dbg.state ≠ 2 →
    ∃ t, exec (.debugNoOperation w) s = .next t ∧ { t with dbg := s.dbg } = s ∧ t.dbg.resetDue = true ∧ t.dbg.dr =
    s.dbg.word) ∧
  (∀ (s : State), tapOn s = true → s.dbg.resetDue = true → ∃ t, exec .tapIdcode s = .next t ∧ t.num .startup 0 1 = 5 ∧
    phase t = 0 ∧ t.dbg.resetDue = false ∧ t.dbg.ir = 0x02) ∧
  (∀ (s : State), tapOn s = true → s.dbg.resetDue = true → ∃ t, exec .tapBypass s = .next t ∧ t.num .startup 0 1 = 5 ∧
    phase t = 0 ∧ t.dbg.resetDue = false ∧ t.dbg.ir = 0x3F) ∧
  (∀ (s : State) (balls : Nat), tapOn s = true → s.dbg.resetDue = true → ∃ t, exec (.samplePreload balls) s = .next t ∧
    t.num .startup 0 1 = 5 ∧ phase t = 0 ∧ t.dbg.resetDue = false ∧ t.dbg.ir = 0x01) ∧
  (∀ (s : State), tapOn s = true → s.dbg.resetDue = true → s.power.held = false → ∃ t, exec .tapExtest s = .next t ∧ t.num
    .startup 0 1 = 5 ∧ phase t = 0 ∧ t.dbg.resetDue = false ∧ t.dbg.ir = 0x3F) ∧
  (∀ (s : State), tapOn s = true → s.dbg.resetDue = true → s.power.held = false → ∃ t, exec .tapClamp s = .next t ∧ t.num
    .startup 0 1 = 5 ∧ phase t = 0 ∧ t.dbg.resetDue = false ∧ t.dbg.ir = 0x3F) ∧
  (∀ (s : State), tapOn s = true → s.dbg.resetDue = true → s.power.held = false → ∃ t, exec .tapHighz s = .next t ∧ t.num
    .startup 0 1 = 5 ∧ phase t = 0 ∧ t.dbg.resetDue = false ∧ t.dbg.ir = 0x3F) ∧
  (∀ (s : State), tapOn s = true → s.dbg.resetDue = true → s.dbg.ir ≠ 0x11 → ∃ t, exec .dbgdataCapture s = .next t ∧ t.num
    .startup 0 1 = 5 ∧ phase t = 0 ∧ t.dbg.resetDue = false ∧ t.dbg.ir = 0x11) ∧
  (∀ (s : State) (w : Nat), tapOn s = true → s.dbg.resetDue = true → s.dbg.ir ≠ 0x11 → ∃ t, exec (.dbgdataUpdate w) s =
    .next t ∧ t.num .startup 0 1 = 5 ∧ phase t = 0 ∧ t.dbg.resetDue = false ∧ t.dbg.ir = 0x11) ∧
  (∀ (s : State) (w : Nat), tapOn s = true → s.dbg.resetDue = true → bits w 63 60 = 0 → s.dbg.ir ≠ 0x10 → ∃ t, exec
    (.debugNoOperation w) s = .next t ∧ t.num .startup 0 1 = 5 ∧ phase t = 0 ∧ t.dbg.resetDue = false ∧ t.dbg.ir = 0x10) ∧
  (∀ (s : State) (w : Nat), tapOn s = true → s.dbg.resetDue = true → bits w 63 60 = 1 → s.dbg.ir = 0x10 → s.dbg.state = 2 →
    ∃ t, exec (.debugObjectRead w) s = .next t ∧ t.num .startup 0 1 = 5 ∧ t.power.inReset = true ∧ phase t = 0 ∧
    t.dbg.resetDue = false ∧ t.dbg.ir = 0x10 ∧ t.dbg.dr = s.dbg.word) ∧
  (∀ (s : State) (w : Nat), tapOn s = true → s.dbg.resetDue = true → bits w 63 60 = 2 → s.dbg.ir = 0x10 → s.dbg.state = 2 →
    ∃ t, exec (.debugObjectWrite w) s = .next t ∧ t.num .startup 0 1 = 5 ∧ t.power.inReset = true ∧ phase t = 0 ∧
    t.dbg.resetDue = false ∧ t.dbg.ir = 0x10 ∧ t.dbg.dr = s.dbg.word) ∧
  (∀ (s : State) (w : Nat), tapOn s = true → s.dbg.resetDue = true → bits w 63 60 = 3 → s.dbg.ir = 0x10 → s.dbg.state = 2 →
    ∃ t, exec (.debugMemoryRead w none) s = .next t ∧ t.num .startup 0 1 = 5 ∧ t.power.inReset = true ∧ phase t = 0 ∧
    t.dbg.resetDue = false ∧ t.dbg.ir = 0x10 ∧ t.dbg.dr = s.dbg.word) ∧
  (∀ (s : State) (w : Nat), tapOn s = true → s.dbg.resetDue = true → bits w 63 60 = 4 → s.dbg.ir = 0x10 → s.dbg.state = 2 →
    ∃ t, exec (.debugMemoryWrite w) s = .next t ∧ t.num .startup 0 1 = 5 ∧ t.power.inReset = true ∧ phase t = 0 ∧
    t.dbg.resetDue = false ∧ t.dbg.ir = 0x10 ∧ t.dbg.dr = s.dbg.word) ∧
  (∀ (s : State) (w : Nat), tapOn s = true → s.dbg.resetDue = true → bits w 63 60 = 8 → s.dbg.ir = 0x10 → s.dbg.state = 2 →
    ∃ t, exec (.debugReset w) s = .next t ∧ t.num .startup 0 1 = 5 ∧ t.power.inReset = true ∧ phase t = 0 ∧ t.dbg.resetDue =
    false ∧ t.dbg.ir = 0x10 ∧ t.dbg.dr = s.dbg.word)

/-- For every command c and state s whose queue has c in front, the step of s is exec of c on s with the rest of the queue. On
an empty queue the step always answers a next state: while reset is asserted the state itself, and else one with the grid
count one higher, the local clock one cycle further and every register as it was. What an empty queue does is the model's
choice (log 2). (Spec/06_sample_grid_and_time.md; spec/01_architecture.md.) -/
def Obligations.AStepTakesTheFrontCommand : Prop :=
  (∀ (c : Instr) (s : State), step { s with pending := c :: s.pending } = exec c s) ∧
  (∀ (s : State) (c : Instr) (rest : List Instr), s.pending = c :: rest → step s = exec c { s with pending := rest }) ∧
  (∀ s : State, s.pending = [] → s.power.inReset = true → step s = .next s) ∧
  (∀ s : State, s.pending = [] → s.power.inReset = false →
    ∃ t, step s = .next t ∧ t.now = s.now + 1 ∧ t.clk.local_ = s.clk.local_ + localStep s ∧ t.regs = s.regs ∧
      t.blobs = s.blobs ∧ t.queues = s.queues ∧ t.pending = [])

/-- In the state right after reset every number of the object dictionary and every byte string stands at the default of its
entry, of the variant and of the factory; reset is asserted, the start-up phase is 0, and no queue, channel, take, stream or
session holds anything. The variant and the factory values are the model's choice (log 6). (Spec/16_object_dictionary.md;
spec/19_power_reset_startup.md.) -/
def Obligations.ResetLeavesEveryEntryAtItsDefault : Prop :=
  (∀ (o : Obj) (u sub : Nat) (e : Entry), o.entry u sub = some e →
    State.reset.num o u sub = e.dfltNum State.reset.variant State.reset.fac o u sub ∧
    State.reset.bytes o u sub = e.dfltBytes State.reset.variant State.reset.fac o u sub) ∧
  (∀ q, State.reset.queue q = Queue.empty) ∧ (∀ n, State.reset.stage n = Stage.empty) ∧ phase State.reset = 0 ∧
  State.reset.power.inReset = true ∧ State.reset.chans = [] ∧ State.reset.takes = [] ∧ State.reset.strm.spaces = [] ∧
  State.reset.net.sessions = [] ∧ State.reset.pending = []

/-- In the state right after reset the capture region and the DMA buffer stand in their canonical form, and every byte of them
reads 0, which is the model's choice (log 7). (Spec/08_takes_and_triggers.md; spec/14_channel_programs.md.) -/
def Obligations.ResetMemoriesAreCanonical : Prop :=
  State.reset.memOk = true ∧ (∀ a, regionLoad State.reset a = 0) ∧ (∀ a, Sparse.get State.reset.dmaBuf a 0 = (0 : Byte))

/-- Whenever the capture region and the DMA buffer of a state stand in their canonical form (addresses rise strictly and no
listed byte is 0) and a step answers a next state, they stand in it there too. That a byte nothing has written reads 0 is
the model's choice (log 7). (Spec/08_takes_and_triggers.md; spec/14_channel_programs.md;
spec/18_host_port_and_legacy_outputs.md.) -/
def Obligations.EveryStepKeepsTheMemoriesCanonical : Prop :=
  ∀ s t : State, s.memOk = true → Stepped s t → t.memOk = true

/-- After bytes are stored from an offset on, the byte at an offset among them is the one stored, and the byte at every other
offset reads as before. This holds of the capture region and of the DMA buffer alike. (Spec/08_takes_and_triggers.md;
spec/14_channel_programs.md.) -/
def Obligations.AStoreToAMemoryReadsBackAndLeavesTheRest : Prop :=
  (∀ (m : List Host.Cell) (off : Nat) (bs : Bytes) (a : Nat), (a < off ∨ off + bs.length ≤ a) →
    Sparse.get (regionStore m off bs) a 0 = Sparse.get m a 0) ∧
  (∀ (m : List Host.Cell) (off : Nat) (bs : Bytes) (i : Nat), i < bs.length →
    Sparse.get (regionStore m off bs) (off + i) 0 = bs.getD i 0)

/-- For every block that the rules of the codec allow (1 to 256 sample words of 32 bits, a maximum order of at most 3, header
fields within their widths), coded or raw, the decoder accepts the bytes that the encoder emits, and yields the words. A raw
block marked as emitted again after a verification mismatch decodes likewise. (R343.) -/
def Obligations.DecodingAnEmittedBlockYieldsItsWords : Prop :=
  ∀ k : BlkDef, 1 ≤ k.words.length → k.words.length ≤ 256 → (∀ w ∈ k.words, w < 2 ^ 32) → k.maxOrder ≤ 3 → k.ch < 2 ^ 16 →
    k.first < 2 ^ 64 → k.d < 2 ^ 32 →
    decodeBlock k.encode = (0, k.words) ∧ (∀ v, decodeBlock (k.raw v) = (0, k.words)) ∧
      (k.isCoded = true → decodeBlock k.coded = (0, k.words))

/-- SWITCH_CLOSE, SPARE_RESET_END, OVERLOAD_RESET_END, OPEN_WIRE_PULL_RELEASE, RAIL_STICK_RELEASE, CROSS_FADE_END, WINDOW_START,
ESTIMATION_WINDOW_END, the stop and time occurrences of a take, the expiries of a legacy output, CALIBRATION_CLAIM,
FREE_RUN_TIMEOUT, AUTOSAVE, the ticks of the stores and of a snapshot set, SNAPSHOT_COPY_COMPLETE, the two supply crossings
and TAP_RESET each complete in every state, and change only the record of the unit they act on: every entry of the
dictionary, every memory and every other unit stands as before. TPO_TRAILING_EDGE completes likewise and changes only its
output when no write came during the pulse; after one it changes besides only the count of late instances and what raising
their event changes (the events queues and the queue peaks). (Spec/02_terminals_and_crosspoint.md;
spec/03_modulators_and_references.md; spec/05_filter_chain.md; spec/06_sample_grid_and_time.md; spec/07_calibration.md;
spec/08_takes_and_triggers.md; spec/09_reduction_engine.md; spec/16_object_dictionary.md;
spec/18_host_port_and_legacy_outputs.md; spec/12_redundant_stream_cores.md; spec/19_power_reset_startup.md;
spec/20_debug_port.md.) -/
def Obligations.CommandsOfOneUnitLeaveTheOthers : Prop :=
  (∀ (s : State) (cell : Nat), ∃ t, exec (.switchClose cell) s = .next t ∧ { t with cells := s.cells } = s) ∧
  (∀ (s : State) (cell : Nat), ∃ t, exec (.spareResetEnd cell) s = .next t ∧ { t with cells := s.cells } = s) ∧
  (∀ (s : State) (ch : Nat), ∃ t, exec (.overloadResetEnd ch) s = .next t ∧ { t with chans := s.chans } = s) ∧
  (∀ (s : State) (ch : Nat), ∃ t, exec (.openWirePullRelease ch) s = .next t ∧ { t with chans := s.chans } = s) ∧
  (∀ (s : State) (ch : Nat) (run : RailRun), ∃ t, exec (.railStickRelease ch run) s = .next t ∧ { t with chans := s.chans }
    = s) ∧
  (∀ (s : State) (ch : Nat), ∃ t, exec (.crossFadeEnd ch) s = .next t ∧ { t with chans := s.chans } = s) ∧
  (∀ (s : State) (w : Nat), ∃ t, exec (.windowStart w) s = .next t ∧ { t with wins := s.wins } = s) ∧
  (∀ (s : State) (cell m : Nat) (est : List Int), ∃ t, exec (.estimationWindowEnd cell m est) s = .next t ∧
    { t with cal := s.cal } = s) ∧
  (∀ (s : State) (k : Nat), ∃ t, exec (.takeStopOccurrence k) s = .next t ∧ { t with takes := s.takes } = s) ∧
  (∀ (s : State) (k : Nat), ∃ t, exec (.timeSourceInstance k) s = .next t ∧ { t with takes := s.takes } = s) ∧
  (∀ (s : State) (i : Nat), ∃ t, exec (.lgoStaleExpiry i) s = .next t ∧ { t with lgo := s.lgo } = s) ∧
  (∀ (s : State) (i : Nat), ∃ t, exec (.lgoFaultHoldExpiry i) s = .next t ∧ { t with lgo := s.lgo } = s) ∧
  (∀ (s : State), ∃ t, exec .calibrationClaim s = .next t ∧ { t with aux := s.aux } = s) ∧
  (∀ (s : State), ∃ t, exec .freeRunTimeout s = .next t ∧ { t with clk := s.clk } = s) ∧
  (∀ (s : State), ∃ t, exec .autosave s = .next t ∧ { t with store := s.store } = s) ∧
  (∀ (s : State), ∃ t, exec .snapshotTickStore s = .next t ∧ { t with flash := s.flash, store := s.store } = s) ∧
  (∀ (s : State) (k : Nat), ∃ t, exec (.snapshotSetTick k) s = .next t ∧ { t with snaps := s.snaps } = s) ∧
  (∀ (s : State), ∃ t, exec .snapshotCopyComplete s = .next t ∧ { t with cust := s.cust } = s) ∧
  (∀ (s : State), ∃ t, exec .vinRisesThrough10V s = .next t ∧ { t with power := s.power } = s) ∧
  (∀ (s : State), ∃ t, exec .vinFallsBelow10V s = .next t ∧ { t with power := s.power } = s) ∧
  (∀ (s : State), ∃ t, exec .tapReset s = .next t ∧ { t with dbg := s.dbg } = s) ∧
  (∀ (s : State) (p : Nat), (s.tpo p).rearm = false → ∃ t, exec (.tpoTrailingEdge p) s = .next t ∧
    { t with tpos := s.tpos } = s) ∧
  (∀ (s : State) (p : Nat), ∃ t, exec (.tpoTrailingEdge p) s = .next t ∧
    { t with tpos := s.tpos, queues := s.queues, ev := s.ev, regs := s.regs } = s ∧ KeepsRegs (fun k => PeakKey k ∨ k =
    entryKey .tpo p 13) s t)

/-- The sending of a hello, a join, a link check, an ARP or ICMP answer, a bridged answer, a delay request, the grandmaster's
messages and the acknowledgements completes in every state. It changes the ports, the record of its sender, and of the
entries only the counts of frames that found no room (objects 0x1201 + p:09). (Spec/06_sample_grid_and_time.md;
spec/11_streams_and_spill.md; spec/15_ports_and_kmp.md.) -/
def Obligations.SendingCommandsLeaveTheOtherUnits : Prop :=
  (∀ (s : State), ∃ t, exec .helloSend s = .next t ∧ { t with net := s.net, regs := s.regs } = s ∧ KeepsRegs (fun k => ∃ p,
    k = entryKey .link p 9) s t) ∧
  (∀ (s : State), ∃ t, exec .joinSend s = .next t ∧ { t with net := s.net, regs := s.regs } = s ∧ KeepsRegs (fun k => ∃ p,
    k = entryKey .link p 9) s t) ∧
  (∀ (s : State), ∃ t, exec .linkCheckSend s = .next t ∧ { t with net := s.net, regs := s.regs } = s ∧ KeepsRegs (fun k =>
    ∃ p, k = entryKey .link p 9) s t) ∧
  (∀ (s : State), ∃ t, exec .arpRequest s = .next t ∧ { t with net := s.net, regs := s.regs } = s ∧ KeepsRegs (fun k => ∃
    p, k = entryKey .link p 9) s t) ∧
  (∀ (s : State), ∃ t, exec .icmpEcho s = .next t ∧ { t with net := s.net, regs := s.regs } = s ∧ KeepsRegs (fun k => ∃ p,
    k = entryKey .link p 9) s t) ∧
  (∀ (s : State), ∃ t, exec .bridgeAnswer s = .next t ∧ { t with net := s.net, regs := s.regs } = s ∧ KeepsRegs (fun k => ∃
    p, k = entryKey .link p 9) s t) ∧
  (∀ (s : State), ∃ t, exec .delayReqSend s = .next t ∧ { t with net := s.net, clk := s.clk, regs := s.regs } = s ∧
    KeepsRegs (fun k => ∃ p, k = entryKey .link p 9) s t) ∧
  (∀ (s : State), ∃ t, exec .grandmasterSyncSend s = .next t ∧ { t with net := s.net, clk := s.clk, regs := s.regs } = s ∧
    KeepsRegs (fun k => ∃ p, k = entryKey .link p 9) s t) ∧
  (∀ (s : State), ∃ t, exec .ackInterval s = .next t ∧ { t with net := s.net, strm := s.strm, regs := s.regs } = s ∧
    KeepsRegs (fun k => ∃ p, k = entryKey .link p 9) s t) ∧
  (∀ (s : State), ∃ t, exec .keepaliveAck s = .next t ∧ { t with net := s.net, strm := s.strm, regs := s.regs } = s ∧
    KeepsRegs (fun k => ∃ p, k = entryKey .link p 9) s t)

/-- LOOP, ENDLOOP, WAIT, SETA, ADDA, FENCE, END, an illegal instruction, and the end or the timeout of a wait complete in every
state. They change the engine's record, the status entries of a channel, its debug control and the halted mask, and, through
the event that a fault, a halt or an end raises, the events queues and their peaks: every other entry, every memory and
every other unit stands as before. (Spec/14_channel_programs.md; spec/13_queues_and_ordering.md; spec/20_debug_port.md.) -/
def Obligations.DmaInstructionsLeaveTheOtherUnits : Prop :=
  (∀ (s : State), ∃ t, exec .dmaLoop s = .next t ∧ { t with dma := s.dma, queues := s.queues, ev := s.ev, regs := s.regs }
    = s ∧ KeepsRegs (fun k => PeakKey k ∨ k = entryKey .dmaEngine 0 8 ∨ k = entryKey .debug 0 6 ∨ ∃ c sub, k = entryKey
    .dmaStat c sub ∨ k = entryKey .debugCh c 8) s t) ∧
  (∀ (s : State), ∃ t, exec .dmaEndloop s = .next t ∧
    { t with dma := s.dma, queues := s.queues, ev := s.ev, regs := s.regs } = s ∧ KeepsRegs (fun k => PeakKey k ∨ k =
    entryKey .dmaEngine 0 8 ∨ k = entryKey .debug 0 6 ∨ ∃ c sub, k = entryKey .dmaStat c sub ∨ k = entryKey .debugCh c 8) s
    t) ∧
  (∀ (s : State), ∃ t, exec .dmaWait s = .next t ∧ { t with dma := s.dma, queues := s.queues, ev := s.ev, regs := s.regs }
    = s ∧ KeepsRegs (fun k => PeakKey k ∨ k = entryKey .dmaEngine 0 8 ∨ k = entryKey .debug 0 6 ∨ ∃ c sub, k = entryKey
    .dmaStat c sub ∨ k = entryKey .debugCh c 8) s t) ∧
  (∀ (s : State), ∃ t, exec .dmaSeta s = .next t ∧ { t with dma := s.dma, queues := s.queues, ev := s.ev, regs := s.regs }
    = s ∧ KeepsRegs (fun k => PeakKey k ∨ k = entryKey .dmaEngine 0 8 ∨ k = entryKey .debug 0 6 ∨ ∃ c sub, k = entryKey
    .dmaStat c sub ∨ k = entryKey .debugCh c 8) s t) ∧
  (∀ (s : State), ∃ t, exec .dmaAdda s = .next t ∧ { t with dma := s.dma, queues := s.queues, ev := s.ev, regs := s.regs }
    = s ∧ KeepsRegs (fun k => PeakKey k ∨ k = entryKey .dmaEngine 0 8 ∨ k = entryKey .debug 0 6 ∨ ∃ c sub, k = entryKey
    .dmaStat c sub ∨ k = entryKey .debugCh c 8) s t) ∧
  (∀ (s : State), ∃ t, exec .dmaFence s = .next t ∧ { t with dma := s.dma, queues := s.queues, ev := s.ev, regs := s.regs }
    = s ∧ KeepsRegs (fun k => PeakKey k ∨ k = entryKey .dmaEngine 0 8 ∨ k = entryKey .debug 0 6 ∨ ∃ c sub, k = entryKey
    .dmaStat c sub ∨ k = entryKey .debugCh c 8) s t) ∧
  (∀ (s : State), ∃ t, exec .dmaEnd s = .next t ∧ { t with dma := s.dma, queues := s.queues, ev := s.ev, regs := s.regs } =
    s ∧ KeepsRegs (fun k => PeakKey k ∨ k = entryKey .dmaEngine 0 8 ∨ k = entryKey .debug 0 6 ∨ ∃ c sub, k = entryKey
    .dmaStat c sub ∨ k = entryKey .debugCh c 8) s t) ∧
  (∀ (s : State), ∃ t, exec .illegalInstruction s = .next t ∧
    { t with dma := s.dma, queues := s.queues, ev := s.ev, regs := s.regs } = s ∧ KeepsRegs (fun k => PeakKey k ∨ k =
    entryKey .dmaEngine 0 8 ∨ k = entryKey .debug 0 6 ∨ ∃ c sub, k = entryKey .dmaStat c sub ∨ k = entryKey .debugCh c 8) s
    t) ∧
  (∀ (s : State) (c : Nat), ∃ t, exec (.waitComplete c) s = .next t ∧
    { t with dma := s.dma, queues := s.queues, ev := s.ev, regs := s.regs } = s ∧ KeepsRegs (fun k => PeakKey k ∨ k =
    entryKey .dmaEngine 0 8 ∨ k = entryKey .debug 0 6 ∨ ∃ c sub, k = entryKey .dmaStat c sub ∨ k = entryKey .debugCh c 8) s
    t) ∧
  (∀ (s : State) (c : Nat), ∃ t, exec (.waitTimeout c) s = .next t ∧
    { t with dma := s.dma, queues := s.queues, ev := s.ev, regs := s.regs } = s ∧ KeepsRegs (fun k => PeakKey k ∨ k =
    entryKey .dmaEngine 0 8 ∨ k = entryKey .debug 0 6 ∨ ∃ c sub, k = entryKey .dmaStat c sub ∨ k = entryKey .debugCh c 8) s
    t)

/-- A write through BAR2, a slot's doorbell, an unmasked vector, the host link's rise and fall, a DBGDATA update (with no debug
reset due, or DBGDATA selected), the end of a debug command, the start of an injected request and a link's rise complete in
every state. Each changes its unit's record, the entries named in its clause, and the events queues where it raises an
event: every other entry, memory and unit stands as before. (Spec/18_host_port_and_legacy_outputs.md; spec/20_debug_port.md;
spec/04_auxiliary_converter.md; spec/15_ports_and_kmp.md.) -/
def Obligations.HostAndDebugCommandsLeaveTheOtherUnits : Prop :=
  (∀ (s : State) (offset : Nat) (bs : Bytes), ∃ t, exec (.bar2Write offset bs) s = .next t ∧
    { t with dmaBuf := s.dmaBuf, queues := s.queues, ev := s.ev, regs := s.regs } = s ∧ KeepsRegs (fun k => PeakKey k ∨ k =
    entryKey .endpoint 0 11) s t) ∧
  (∀ (s : State) (w vec : Nat), ∃ t, exec (.slotDoorbell w vec) s = .next t ∧
    { t with host := s.host, queues := s.queues, ev := s.ev, regs := s.regs } = s ∧ KeepsRegs (fun k => PeakKey k ∨ k =
    entryKey .endpoint 0 7) s t) ∧
  (∀ (s : State) (v : Nat), ∃ t, exec (.msixUnmask v) s = .next t ∧ { t with host := s.host, regs := s.regs } = s ∧
    KeepsRegs (fun k => k = entryKey .endpoint 0 12) s t) ∧
  (∀ (s : State), ∃ t, exec .hostLinkDown s = .next t ∧ { t with queues := s.queues, ev := s.ev, regs := s.regs } = s ∧
    KeepsRegs (fun k => PeakKey k ∨ k = entryKey .endpoint 0 1 ∨ k = entryKey .endpoint 0 2 ∨ k = entryKey .endpoint 0 3 ∨ k
    = entryKey .endpoint 0 8) s t) ∧
  (∀ (s : State) (speed width : Nat), ∃ t, exec (.hostLinkUp speed width) s = .next t ∧
    { t with queues := s.queues, ev := s.ev, regs := s.regs } = s ∧ KeepsRegs (fun k => PeakKey k ∨ k = entryKey .endpoint 0
    1 ∨ k = entryKey .endpoint 0 2 ∨ k = entryKey .endpoint 0 3) s t) ∧
  (∀ (s : State), ∃ t, exec .debugCommandDone s = .next t ∧ { t with dbg := s.dbg, regs := s.regs } = s ∧ KeepsRegs (fun k
    => k = entryKey .debug 0 3 ∨ k = entryKey .debug 0 4) s t) ∧
  (∀ (s : State), ∃ t, exec .injectedRequestStart s = .next t ∧ { t with aux := s.aux, regs := s.regs } = s ∧ KeepsRegs
    (fun k => k = entryKey .injected 0 2) s t) ∧
  (∀ (s : State) (port speed : Nat), ∃ t, exec (.linkUp port speed) s = .next t ∧ { t with net := s.net, regs := s.regs } =
    s ∧ KeepsRegs (fun k => k = entryKey .link port 3 ∨ k = entryKey .link port 4 ∨ k = entryKey .link 2 12) s t) ∧
  (∀ (s : State) (w : Nat), s.dbg.ir = 0x11 ∨ s.dbg.resetDue = false → ∃ t, exec (.dbgdataUpdate w) s = .next t ∧
    { t with dbg := s.dbg, regs := s.regs } = s ∧ KeepsRegs (fun k => k = entryKey .debug 0 4) s t)
end

