-- ==== Sys2Proof/Laws/Bytes.lean ====
section
/-! SUPPORT. Byte strings: reading a number from an appended string, the round trip of little-endian numbers, and what the CRC-32C
that `withCrc` appends reads as. -/

namespace Sys2Proof.Machine

open Sys2Proof

@[simp] theorem leBytes_length (n v : Nat) : (leBytes n v).length = n := by
  induction n generalizing v with
  | zero => rfl
  | succ n ih => simp [leBytes, ih]

/-- The bytes of a number give it back, modulo their width. -/
@[simp] theorem leNat_leBytes (n v : Nat) : leNat (leBytes n v) = v % 256 ^ n := by
  induction n generalizing v with
  | zero => simp [leBytes, leNat, Nat.mod_one]
  | succ n ih =>
    simp only [leBytes, leNat, ih]
    rw [Nat.pow_succ, Nat.mul_comm (256 ^ n), Nat.mod_mul]
    simp

theorem leAt_append (a b : Bytes) (o n : Nat) : leAt (a ++ b) (a.length + o) n = leAt b o n := by
  simp only [leAt, slice, List.drop_append, List.drop_of_length_le (show a.length ≤ a.length + o by omega), List.nil_append,
    Nat.add_sub_cancel_left]

theorem leAt_prefix (a b : Bytes) {o n : Nat} (h : o + n ≤ a.length) : leAt (a ++ b) o n = leAt a o n := by
  simp only [leAt, slice]
  rw [List.drop_append_of_le_length (by omega), List.take_append_of_le_length (by simp; omega)]

theorem slice_middle (a b c : Bytes) : slice (a ++ (b ++ c)) a.length b.length = b := by
  simp [slice]

/-- A number of one of equal blocks. -/
theorem leAt_blocks (k : Nat) (blk rest : Bytes) {p o n : Nat} (hp : p < k) (ho : o + n ≤ blk.length) :
    leAt ((List.replicate k blk).flatten ++ rest) (blk.length * p + o) n = leAt blk o n := by
  induction k generalizing p with
  | zero => omega
  | succ k ih =>
    rw [List.replicate_succ, List.flatten_cons, List.append_assoc]
    cases p with
    | zero => rw [Nat.mul_zero, Nat.zero_add, leAt_prefix _ _ ho]
    | succ p =>
      rw [Nat.mul_succ, show blk.length * p + blk.length + o = blk.length + (blk.length * p + o) by omega, leAt_append]
      exact ih (by omega)

theorem crcBit_lt {c : Nat} (h : c < 2 ^ 32) : crcBit c < 2 ^ 32 := by
  unfold crcBit
  split
  · exact Nat.xor_lt_two_pow (by omega) (by decide)
  · omega

theorem crcByte_lt {c : Nat} (h : c < 2 ^ 32) (b : Byte) : crcByte c b < 2 ^ 32 := by
  have hb : b.toNat < 2 ^ 32 := Nat.lt_of_lt_of_le b.isLt (by decide)
  exact crcBit_lt (crcBit_lt (crcBit_lt (crcBit_lt (crcBit_lt (crcBit_lt (crcBit_lt (crcBit_lt (Nat.xor_lt_two_pow h hb))))))))

theorem crcFold_lt (bs : Bytes) {c : Nat} (h : c < 2 ^ 32) : bs.foldl crcByte c < 2 ^ 32 := by
  induction bs generalizing c with
  | nil => exact h
  | cons b bs ih => exact ih (crcByte_lt h b)

theorem crc32c_lt (bs : Bytes) : crc32c bs < 2 ^ 32 := Nat.xor_lt_two_pow (crcFold_lt bs (by decide)) (by decide)

/-- The last four bytes of a sealed string read as the CRC-32C of the others. -/
theorem withCrc_sealed (b : Bytes) : leAt (withCrc b) b.length 4 = crc32c b ∧ (withCrc b).take b.length = b := by
  constructor
  · have h := leAt_append b (leBytes 4 (crc32c b)) 0 4
    rw [Nat.add_zero] at h
    rw [withCrc, h, leAt, slice, List.drop_zero, List.take_of_length_le (by simp), leNat_leBytes]
    exact Nat.mod_eq_of_lt (crc32c_lt b)
  · simp [withCrc]

@[simp] theorem withCrc_length (b : Bytes) : (withCrc b).length = b.length + 4 := by simp [withCrc]

end Sys2Proof.Machine
end

