-- ==== Sys2Proof/Laws/Sparse.lean ====
section
/-! SUPPORT. Laws of the sparse tables: a read after a write, and the canonical form. The laws of `find` and `get` hold of every
list, canonical or not. -/

namespace Sys2Proof.Machine

open Sys2Proof

variable {α : Type}

@[simp] theorem Sparse.find_nil (i : Nat) : Sparse.find ([] : Sparse α) i = none := rfl

@[simp] theorem Sparse.find_put_same (m : Sparse α) (i : Nat) (v : α) : Sparse.find (Sparse.put m i v) i = some v := by
  induction m with
  | nil => simp [Sparse.put, Sparse.find]
  | cons p m ih =>
    obtain ⟨k, w⟩ := p
    simp only [Sparse.put]
    split
    · simp [Sparse.find]
    · split
      · simp [Sparse.find]
      · have h : k ≠ i := by omega
        simp [Sparse.find, h, ih]

theorem Sparse.find_put_ne (m : Sparse α) {i j : Nat} (h : j ≠ i) (v : α) :
    Sparse.find (Sparse.put m i v) j = Sparse.find m j := by
  induction m with
  | nil => simp [Sparse.put, Sparse.find, h.symm]
  | cons p m ih =>
    obtain ⟨k, w⟩ := p
    simp only [Sparse.put]
    split
    · simp [Sparse.find, h.symm]
    · split
      · rename_i hk
        subst hk
        simp [Sparse.find, h.symm]
      · simp [Sparse.find, ih]

@[simp] theorem Sparse.find_del_same (m : Sparse α) (i : Nat) : Sparse.find (Sparse.del m i) i = none := by
  induction m with
  | nil => rfl
  | cons p m ih =>
    obtain ⟨k, w⟩ := p
    by_cases h : k = i
    · subst h; simpa [Sparse.del] using ih
    · have hd : Sparse.del ((k, w) :: m) i = (k, w) :: Sparse.del m i := by simp [Sparse.del, h]
      rw [hd, Sparse.find, if_neg h, ih]

theorem Sparse.find_del_ne (m : Sparse α) {i j : Nat} (h : j ≠ i) : Sparse.find (Sparse.del m i) j = Sparse.find m j := by
  induction m with
  | nil => rfl
  | cons p m ih =>
    obtain ⟨k, w⟩ := p
    by_cases hk : k = i
    · subst hk
      have hd : Sparse.del ((k, w) :: m) k = Sparse.del m k := by simp [Sparse.del]
      rw [hd, ih, Sparse.find, if_neg h.symm]
    · have hd : Sparse.del ((k, w) :: m) i = (k, w) :: Sparse.del m i := by simp [Sparse.del, hk]
      rw [hd, Sparse.find, Sparse.find, ih]

/-- A table after `store`: the value stored at its key, unlisted when it is the default. -/
theorem Sparse.find_store_same [DecidableEq α] (m : Sparse α) (i : Nat) (v d : α) :
    Sparse.find (Sparse.store m i v d) i = if v = d then none else some v := by
  unfold Sparse.store; split <;> simp

theorem Sparse.find_store_ne [DecidableEq α] (m : Sparse α) {i j : Nat} (h : j ≠ i) (v d : α) :
    Sparse.find (Sparse.store m i v d) j = Sparse.find m j := by
  unfold Sparse.store; split
  · exact Sparse.find_del_ne m h
  · exact Sparse.find_put_ne m h v

/-- A read after a write to the same key. -/
@[simp] theorem Sparse.get_store_same [DecidableEq α] (m : Sparse α) (i : Nat) (v d : α) :
    Sparse.get (Sparse.store m i v d) i d = v := by
  unfold Sparse.get; rw [Sparse.find_store_same]; split <;> simp_all

/-- A read after a write to another key. -/
theorem Sparse.get_store_ne [DecidableEq α] (m : Sparse α) {i j : Nat} (h : j ≠ i) (v d e : α) :
    Sparse.get (Sparse.store m i v d) j e = Sparse.get m j e := by
  unfold Sparse.get; rw [Sparse.find_store_ne m h]

/-- The canonical order, as the standard library says it. -/
theorem Sparse.rising_iff (m : Sparse α) : Sparse.rising m = true ↔ m.Pairwise (fun p q => p.1 < q.1) := by
  induction m with
  | nil => simp [Sparse.rising]
  | cons p m ih =>
    cases m with
    | nil => simp [Sparse.rising]
    | cons q m =>
      obtain ⟨a, v⟩ := p
      obtain ⟨b, w⟩ := q
      simp only [Sparse.rising, Bool.and_eq_true, decide_eq_true_eq, ih, List.pairwise_cons]
      constructor
      · rintro ⟨hab, hq, hm⟩
        refine ⟨?_, hq, hm⟩
        intro x hx
        rcases List.mem_cons.1 hx with rfl | hx
        · exact hab
        · exact Nat.lt_trans hab (hq x hx)
      · rintro ⟨hp, hq, hm⟩
        exact ⟨hp _ (List.mem_cons_self ..), hq, hm⟩

theorem Sparse.mem_put {m : Sparse α} {i : Nat} {v : α} {p : Nat × α} (h : p ∈ Sparse.put m i v) : p = (i, v) ∨ p ∈ m := by
  induction m with
  | nil => simpa [Sparse.put] using h
  | cons q m ih =>
    obtain ⟨k, w⟩ := q
    simp only [Sparse.put] at h
    split at h
    · simpa using h
    · split at h
      · rcases List.mem_cons.1 h with h | h
        · exact .inl h
        · exact .inr (List.mem_cons_of_mem _ h)
      · rcases List.mem_cons.1 h with h | h
        · exact .inr (by simp [h])
        · rcases ih h with h | h
          · exact .inl h
          · exact .inr (List.mem_cons_of_mem _ h)

theorem Sparse.rising_put {m : Sparse α} (h : Sparse.rising m = true) (i : Nat) (v : α) :
    Sparse.rising (Sparse.put m i v) = true := by
  rw [Sparse.rising_iff] at *
  induction m with
  | nil => simp [Sparse.put]
  | cons p m ih =>
    obtain ⟨k, w⟩ := p
    obtain ⟨hk, hm⟩ := List.pairwise_cons.1 h
    simp only [Sparse.put]
    split
    · rename_i hik
      refine List.pairwise_cons.2 ⟨?_, h⟩
      intro x hx
      rcases List.mem_cons.1 hx with rfl | hx
      · exact hik
      · exact Nat.lt_trans hik (hk x hx)
    · split
      · rename_i hik
        subst hik
        exact List.pairwise_cons.2 ⟨hk, hm⟩
      · refine List.pairwise_cons.2 ⟨?_, ih hm⟩
        intro x hx
        rcases Sparse.mem_put hx with rfl | hx
        · dsimp only; omega
        · exact hk x hx

theorem Sparse.rising_del {m : Sparse α} (h : Sparse.rising m = true) (i : Nat) : Sparse.rising (Sparse.del m i) = true := by
  rw [Sparse.rising_iff] at *
  exact h.filter _

/-- `store` keeps the canonical order. -/
theorem Sparse.rising_store [DecidableEq α] {m : Sparse α} (h : Sparse.rising m = true) (i : Nat) (v d : α) :
    Sparse.rising (Sparse.store m i v d) = true := by
  unfold Sparse.store; split
  · exact Sparse.rising_del h i
  · exact Sparse.rising_put h i v

/-- `store` lists no default where none was listed. -/
theorem Sparse.all_store [DecidableEq α] {m : Sparse α} {d : α} (h : ∀ p ∈ m, p.2 ≠ d) (i : Nat) (v : α) :
    ∀ p ∈ Sparse.store m i v d, p.2 ≠ d := by
  intro p hp
  unfold Sparse.store at hp
  split at hp
  · exact h p (List.mem_of_mem_filter hp)
  · rcases Sparse.mem_put hp with rfl | hp
    · assumption
    · exact h p hp

end Sys2Proof.Machine
end

