-- ==== Sys2Proof/Laws/Entries.lean ====
section
/-! SUPPORT. Laws of the dictionary as a register file: what a read gives after a write of the same entry and of another one, and
that the keys of different entries differ. -/

namespace Sys2Proof.Machine

open Sys2Proof

/-- The number of units of a family. -/
abbrev Obj.size (o : Obj) : Nat := o.count * o.inner

/-- The first index past a family. -/
def Obj.stop (o : Obj) : Nat := o.base + o.stride * (o.count - 1) + o.inner

/-- Two families that share no index: one ends before the other begins, or they step alike and lie in different lanes. -/
def Obj.apart (o p : Obj) : Bool :=
  decide (o.stop ≤ p.base) || decide (p.stop ≤ o.base) ||
    (decide (o.stride = p.stride) && decide (o.base % o.stride + o.inner ≤ o.stride) &&
      decide (p.base % p.stride + p.inner ≤ p.stride) &&
      (decide (o.base % o.stride + o.inner ≤ p.base % p.stride) || decide (p.base % p.stride + p.inner ≤ o.base % o.stride)))

theorem Obj.mem_all (o : Obj) : o ∈ Obj.all := by cases o <;> decide

theorem Obj.all_apart : Obj.all.all (fun o => Obj.all.all (fun p => o == p || o.apart p)) = true := by decide +kernel

theorem Obj.apart_of_ne {o p : Obj} (h : o ≠ p) : o.apart p = true := by
  have h1 := List.all_eq_true.1 Obj.all_apart o (Obj.mem_all o)
  have h2 := List.all_eq_true.1 h1 p (Obj.mem_all p)
  simpa [h] using h2

theorem Obj.inner_pos (o : Obj) : 0 < o.inner := by cases o <;> decide

theorem Obj.inner_le (o : Obj) : o.count = 1 ∨ o.inner ≤ o.stride := by cases o <;> decide

theorem Obj.stride_pos (o : Obj) : 0 < o.stride := by cases o <;> decide

theorem Obj.base_le_index (o : Obj) (u : Nat) : o.base ≤ o.index u := by unfold Obj.index; omega

theorem Obj.index_lt {o : Obj} {u : Nat} (h : u < o.size) : o.index u < o.stop := by
  have h1 : u / o.inner < o.count := Nat.div_lt_of_lt_mul (by rw [Nat.mul_comm]; exact h)
  have h2 : u % o.inner < o.inner := Nat.mod_lt _ o.inner_pos
  have h3 : o.stride * (u / o.inner) ≤ o.stride * (o.count - 1) := Nat.mul_le_mul_left _ (by omega)
  unfold Obj.index Obj.stop; omega

theorem Obj.index_mod {o : Obj} (u : Nat) (h : o.base % o.stride + o.inner ≤ o.stride) :
    o.index u % o.stride = o.base % o.stride + u % o.inner := by
  have h2 : u % o.inner < o.inner := Nat.mod_lt _ o.inner_pos
  have h3 : o.index u = (o.base % o.stride + u % o.inner) + o.stride * (o.base / o.stride + u / o.inner) := by
    unfold Obj.index
    have := Nat.div_add_mod o.base o.stride
    rw [Nat.mul_add]; omega
  rw [h3, Nat.add_mul_mod_self_left, Nat.mod_eq_of_lt (by omega)]

/-- Two present units share no index. -/
theorem Obj.index_inj {o p : Obj} {u w : Nat} (hu : u < o.size) (hw : w < p.size) (h : o.index u = p.index w) :
    o = p ∧ u = w := by
  by_cases hop : o = p
  · refine ⟨hop, ?_⟩
    subst hop
    unfold Obj.index at h
    have h1 := Nat.mod_lt u o.inner_pos
    have h2 := Nat.mod_lt w o.inner_pos
    have hd1 : u / o.inner < o.count := Nat.div_lt_of_lt_mul (by rw [Nat.mul_comm]; exact hu)
    have hd2 : w / o.inner < o.count := Nat.div_lt_of_lt_mul (by rw [Nat.mul_comm]; exact hw)
    have e1 := Nat.div_add_mod u o.inner
    have e2 := Nat.div_add_mod w o.inner
    have hq : u / o.inner = w / o.inner := by
      rcases o.inner_le with hc | hi
      · rw [hc] at hd1 hd2
        rw [Nat.lt_one_iff.1 hd1, Nat.lt_one_iff.1 hd2]
      · rcases Nat.lt_trichotomy (u / o.inner) (w / o.inner) with hlt | heq | hgt
        · have := Nat.mul_le_mul_left o.stride hlt; rw [Nat.mul_succ] at this; omega
        · exact heq
        · have := Nat.mul_le_mul_left o.stride hgt; rw [Nat.mul_succ] at this; omega
    have hr : u % o.inner = w % o.inner := by rw [hq] at h; omega
    rw [← e1, ← e2, hq, hr]
  · exfalso
    have ha := Obj.apart_of_ne hop
    have h1 := Obj.index_lt hu
    have h2 := Obj.index_lt hw
    have h3 := o.base_le_index u
    have h4 := p.base_le_index w
    simp only [Obj.apart, Bool.or_eq_true, Bool.and_eq_true, decide_eq_true_eq] at ha
    rcases ha with (ha | ha) | ⟨⟨⟨hs, ho⟩, hp⟩, ha⟩
    · omega
    · omega
    · have m1 := Obj.index_mod u ho
      have m2 := Obj.index_mod w hp
      have i1 := Nat.mod_lt u o.inner_pos
      have i2 := Nat.mod_lt w p.inner_pos
      rw [h, hs, m2] at m1
      rw [hs] at ho ha
      omega

/-- Different entries have different keys. -/
theorem entryKey_inj {o p : Obj} {u w a b : Nat} (hu : u < o.size) (hw : w < p.size) (ha : a < 256) (hb : b < 256)
    (h : entryKey o u a = entryKey p w b) : o = p ∧ u = w ∧ a = b := by
  unfold entryKey at h
  have hi : o.index u = p.index w := by omega
  obtain ⟨h1, h2⟩ := Obj.index_inj hu hw hi
  exact ⟨h1, h2, by omega⟩

/-- Entries of one unit differ by their subindex, of whatever unit. -/
theorem entryKey_sub_ne (o : Obj) (u : Nat) {a b : Nat} (h : a ≠ b) : entryKey o u a ≠ entryKey o u b := by
  unfold entryKey; omega

@[simp] theorem dfltNum_setNum (s : State) (o : Obj) (u sub : Nat) (v : Int) : (s.setNum o u sub v).dfltNum = s.dfltNum := rfl
@[simp] theorem dfltBytes_setNum (s : State) (o : Obj) (u sub : Nat) (v : Int) :
    (s.setNum o u sub v).dfltBytes = s.dfltBytes := rfl
@[simp] theorem dfltNum_setBytes (s : State) (o : Obj) (u sub : Nat) (v : Bytes) :
    (s.setBytes o u sub v).dfltNum = s.dfltNum := rfl
@[simp] theorem dfltBytes_setBytes (s : State) (o : Obj) (u sub : Nat) (v : Bytes) :
    (s.setBytes o u sub v).dfltBytes = s.dfltBytes := rfl

/-- The effective number depends on the register file, the variant and the factory values alone. -/
theorem num_congr {s t : State} (hr : t.regs = s.regs) (hv : t.variant = s.variant) (hf : t.fac = s.fac) (o : Obj) (u sub : Nat) :
    t.num o u sub = s.num o u sub := by
  unfold State.num State.dfltNum; rw [hr, hv, hf]

/-- The effective byte string depends on the strings, the variant and the factory values alone. -/
theorem bytes_congr {s t : State} (hb : t.blobs = s.blobs) (hv : t.variant = s.variant) (hf : t.fac = s.fac) (o : Obj)
    (u sub : Nat) : t.bytes o u sub = s.bytes o u sub := by
  unfold State.bytes State.dfltBytes; rw [hb, hv, hf]

/-- A read of the entry written gives the number, narrowed to its type. -/
@[simp] theorem num_setNum_same (s : State) (o : Obj) (u sub : Nat) (v : Int) :
    (s.setNum o u sub v).num o u sub = (entryTy o u sub).narrow v := by
  unfold State.num
  rw [dfltNum_setNum]
  simp only [State.setNum, Sparse.find_store_same]
  split <;> rename_i h <;> simp_all

/-- A read of another entry gives what it held. -/
theorem num_setNum_ne (s : State) {o p : Obj} {u w a b : Nat} (h : entryKey p w b ≠ entryKey o u a) (v : Int) :
    (s.setNum o u a v).num p w b = s.num p w b := by
  unfold State.num
  rw [dfltNum_setNum]
  simp only [State.setNum, Sparse.find_store_ne _ h]

/-- A read of another entry of the same unit. -/
theorem num_setNum_sub (s : State) (o : Obj) (u : Nat) {a b : Nat} (h : b ≠ a) (v : Int) :
    (s.setNum o u a v).num o u b = s.num o u b := num_setNum_ne s (entryKey_sub_ne o u h) v

/-- A read of an entry of another family. -/
theorem num_setNum_obj (s : State) {o p : Obj} {u w a b : Nat} (h : p ≠ o) (hu : u < o.size) (hw : w < p.size) (ha : a < 256)
    (hb : b < 256) (v : Int) : (s.setNum o u a v).num p w b = s.num p w b :=
  num_setNum_ne s (fun e => h (entryKey_inj hw hu hb ha e).1) v

/-- A read of an entry of another unit. -/
theorem num_setNum_unit (s : State) {o : Obj} {u w a b : Nat} (h : w ≠ u) (hu : u < o.size) (hw : w < o.size) (ha : a < 256)
    (hb : b < 256) (v : Int) : (s.setNum o u a v).num o w b = s.num o w b :=
  num_setNum_ne s (fun e => h (entryKey_inj hw hu hb ha e).2.1) v

@[simp] theorem num_bump_same (s : State) (o : Obj) (u sub n : Nat) :
    (s.bump o u sub n).num o u sub = (entryTy o u sub).narrow (s.num o u sub + n) := num_setNum_same ..

theorem num_bump_ne (s : State) {o p : Obj} {u w a b : Nat} (h : entryKey p w b ≠ entryKey o u a) (n : Nat) :
    (s.bump o u a n).num p w b = s.num p w b := num_setNum_ne s h _

@[simp] theorem bytes_setNum (s : State) (o p : Obj) (u w a b : Nat) (v : Int) :
    (s.setNum o u a v).bytes p w b = s.bytes p w b := rfl

@[simp] theorem num_setBytes (s : State) (o p : Obj) (u w a b : Nat) (v : Bytes) :
    (s.setBytes o u a v).num p w b = s.num p w b := rfl

@[simp] theorem bytes_setBytes_same (s : State) (o : Obj) (u sub : Nat) (v : Bytes) :
    (s.setBytes o u sub v).bytes o u sub = v := by
  unfold State.bytes
  rw [dfltBytes_setBytes]
  simp only [State.setBytes, Sparse.find_store_same]
  split <;> rename_i h <;> simp_all

theorem bytes_setBytes_ne (s : State) {o p : Obj} {u w a b : Nat} (h : entryKey p w b ≠ entryKey o u a) (v : Bytes) :
    (s.setBytes o u a v).bytes p w b = s.bytes p w b := by
  unfold State.bytes
  rw [dfltBytes_setBytes]
  simp only [State.setBytes, Sparse.find_store_ne _ h]

/-- A number within an unsigned type is kept by it. -/
theorem narrowU_of_lt {v : Int} {w : Nat} (h0 : 0 ≤ v) (h : v < 2 ^ w) : v % 2 ^ w = v := Int.emod_eq_of_lt h0 h

end Sys2Proof.Machine
end

