-- ==== Sys2Proof/Laws/Memory.lean ====
section
/-! SUPPORT. Every operation on the two memories, the capture region and the DMA buffer, keeps their canonical form. `regionStore`
is the only operation that writes bytes into them; a reset empties them. -/

namespace Sys2Proof.Machine

open Sys2Proof

theorem Memory.wf_iff (m : List Host.Cell) :
    Memory.wf m = true ↔ Sparse.rising m = true ∧ ∀ p ∈ m, p.2 ≠ (0 : Byte) := by
  simp [Memory.wf, List.all_eq_true]

@[simp] theorem Memory.wf_nil : Memory.wf [] = true := rfl

/-- One byte stored keeps the form. -/
theorem Memory.wf_byte {m : List Host.Cell} (h : Memory.wf m = true) (a : Nat) (b : Byte) :
    Memory.wf (Sparse.store m a b 0) = true := by
  rw [Memory.wf_iff] at *
  exact ⟨Sparse.rising_store h.1 a b 0, Sparse.all_store h.2 a b⟩

theorem reset_regionLoad (a : Nat) : regionLoad State.reset a = 0 := rfl

/-- The memories of a state, in one place. -/
abbrev State.memory (s : State) : List Host.Cell × List Host.Cell := (s.takeMem.bytes, s.dmaBuf)

/-- A state with the same memories is as sound. -/
theorem State.memOk_of_eq {s t : State} (hd : t.dmaBuf = s.dmaBuf) (hb : t.takeMem.bytes = s.takeMem.bytes)
    (h : s.memOk = true) : t.memOk = true := by
  simpa [State.memOk, hd, hb] using h

end Sys2Proof.Machine
end

