-- ==== Sys2Proof/Laws/MemoryFrame.lean ====
section
/-! SUPPORT. Which operations of the machine leave both memories, the capture region and the DMA buffer, exactly as they are: one lemma for
each function of Machine/ that writes neither, in the order of their use. Machine commands that do write are in Laws/MemoryKept.lean. -/

namespace Sys2Proof.Machine

open Sys2Proof

/-- A fold whose every step leaves the memories leaves them. -/
theorem foldl_memory {β : Type} (f : State → β → State)
    (h : ∀ s b, (f s b).dmaBuf = s.dmaBuf ∧ (f s b).takeMem.bytes = s.takeMem.bytes) (l : List β) (s : State) :
    (l.foldl f s).dmaBuf = s.dmaBuf ∧ (l.foldl f s).takeMem.bytes = s.takeMem.bytes := by
  induction l generalizing s with
  | nil => exact ⟨rfl, rfl⟩
  | cons b l ih => rw [List.foldl_cons]; exact ⟨(ih _).1.trans (h s b).1, (ih _).2.trans (h s b).2⟩

@[simp] theorem foldl_memory1 {β : Type} (f : State → β → State)
    (h : ∀ s b, (f s b).dmaBuf = s.dmaBuf ∧ (f s b).takeMem.bytes = s.takeMem.bytes) (l : List β) (s : State) :
    (l.foldl f s).dmaBuf = s.dmaBuf := (foldl_memory f h l s).1

@[simp] theorem foldl_memory2 {β : Type} (f : State → β → State)
    (h : ∀ s b, (f s b).dmaBuf = s.dmaBuf ∧ (f s b).takeMem.bytes = s.takeMem.bytes) (l : List β) (s : State) :
    (l.foldl f s).takeMem.bytes = s.takeMem.bytes := (foldl_memory f h l s).2

@[simp] theorem onChans_memory1 (s : State) (chs : List Nat) (f : State → Nat → State)
    (h : ∀ s b, (f s b).dmaBuf = s.dmaBuf ∧ (f s b).takeMem.bytes = s.takeMem.bytes) :
    (onChans s chs f).dmaBuf = s.dmaBuf := (foldl_memory f h chs s).1

@[simp] theorem onChans_memory2 (s : State) (chs : List Nat) (f : State → Nat → State)
    (h : ∀ s b, (f s b).dmaBuf = s.dmaBuf ∧ (f s b).takeMem.bytes = s.takeMem.bytes) :
    (onChans s chs f).takeMem.bytes = s.takeMem.bytes := (foldl_memory f h chs s).2

@[simp] theorem ite_dmaBuf (c : Prop) [Decidable c] (a b : State) :
    (if c then a else b).dmaBuf = if c then a.dmaBuf else b.dmaBuf := apply_ite ..

@[simp] theorem ite_takeMem (c : Prop) [Decidable c] (a b : State) :
    (if c then a else b).takeMem = if c then a.takeMem else b.takeMem := apply_ite ..

@[simp] theorem ite_takeMem_bytes (c : Prop) [Decidable c] (a b : TakeMem) :
    (if c then a else b).bytes = if c then a.bytes else b.bytes := apply_ite ..

@[simp] theorem ite_fst {α β : Type} (c : Prop) [Decidable c] (a b : α × β) :
    (if c then a else b).1 = if c then a.1 else b.1 := apply_ite ..

@[simp] theorem modMem_dmaBuf (s : State) (f : TakeMem → TakeMem) : (s.modMem f).dmaBuf = s.dmaBuf := rfl

@[simp] theorem modMem_takeMem (s : State) (f : TakeMem → TakeMem) : (s.modMem f).takeMem = f s.takeMem := rfl

@[simp] theorem State_setNum_memory (s : State) (o : Obj) (u : Nat) (sub : Nat) (v : Int) :
    (State.setNum s o u sub v).dmaBuf = s.dmaBuf ∧ (State.setNum s o u sub v).takeMem.bytes = s.takeMem.bytes := by
  simp [State.setNum]

@[simp] theorem State_bump_memory (s : State) (o : Obj) (u : Nat) (sub : Nat) (n : Nat) :
    (State.bump s o u sub n).dmaBuf = s.dmaBuf ∧ (State.bump s o u sub n).takeMem.bytes = s.takeMem.bytes := by
  simp [State.bump]

@[simp] theorem State_modDbg_memory (s : State) (f : DebugSt → DebugSt) :
    (State.modDbg s f).dmaBuf = s.dmaBuf ∧ (State.modDbg s f).takeMem.bytes = s.takeMem.bytes := by
  simp [State.modDbg]

@[simp] theorem captureDr_memory (s : State) (v : Nat) :
    (captureDr s v).dmaBuf = s.dmaBuf ∧ (captureDr s v).takeMem.bytes = s.takeMem.bytes := by
  simp [captureDr]

@[simp] theorem State_dbgBegun_memory (s : State) :
    (State.dbgBegun s).dmaBuf = s.dmaBuf ∧ (State.dbgBegun s).takeMem.bytes = s.takeMem.bytes := by
  simp [State.dbgBegun]

@[simp] theorem State_draw_memory (s : State) :
    (State.draw s).dmaBuf = s.dmaBuf ∧ (State.draw s).takeMem.bytes = s.takeMem.bytes := by
  simp [State.draw]

@[simp] theorem State_modStrm_memory (s : State) (f : StrmSt → StrmSt) :
    (State.modStrm s f).dmaBuf = s.dmaBuf ∧ (State.modStrm s f).takeMem.bytes = s.takeMem.bytes := by
  simp [State.modStrm]

@[simp] theorem State_modAck_memory (s : State) (ident : Nat) (stream : Nat) (num : Nat) (f : AckSt → AckSt) :
    (State.modAck s ident stream num f).dmaBuf = s.dmaBuf ∧
        (State.modAck s ident stream num f).takeMem.bytes = s.takeMem.bytes := by
  simp [State.modAck]

@[simp] theorem State_modAux_memory (s : State) (f : AuxSt → AuxSt) :
    (State.modAux s f).dmaBuf = s.dmaBuf ∧ (State.modAux s f).takeMem.bytes = s.takeMem.bytes := by
  simp [State.modAux]

@[simp] theorem State_modCal_memory (s : State) (f : CalSt → CalSt) :
    (State.modCal s f).dmaBuf = s.dmaBuf ∧ (State.modCal s f).takeMem.bytes = s.takeMem.bytes := by
  simp [State.modCal]

@[simp] theorem State_modCell_memory (s : State) (c : Nat) (f : CellSt → CellSt) :
    (State.modCell s c f).dmaBuf = s.dmaBuf ∧ (State.modCell s c f).takeMem.bytes = s.takeMem.bytes := by
  simp [State.modCell]

@[simp] theorem State_modDma_memory (s : State) (f : DmaSt → DmaSt) :
    (State.modDma s f).dmaBuf = s.dmaBuf ∧ (State.modDma s f).takeMem.bytes = s.takeMem.bytes := by
  simp [State.modDma]

@[simp] theorem State_modCh_memory (s : State) (c : Nat) (f : DmaCh → DmaCh) :
    (State.modCh s c f).dmaBuf = s.dmaBuf ∧ (State.modCh s c f).takeMem.bytes = s.takeMem.bytes := by
  simp [State.modCh]

@[simp] theorem State_putChan_memory (s : State) (ch : Nat) (c : Chan) :
    (State.putChan s ch c).dmaBuf = s.dmaBuf ∧ (State.putChan s ch c).takeMem.bytes = s.takeMem.bytes := by
  simp [State.putChan]

@[simp] theorem State_modChan_memory (s : State) (ch : Nat) (f : Chan → Chan) :
    (State.modChan s ch f).dmaBuf = s.dmaBuf ∧ (State.modChan s ch f).takeMem.bytes = s.takeMem.bytes := by
  simp [State.modChan]

@[simp] theorem State_modClk_memory (s : State) (f : ClkSt → ClkSt) :
    (State.modClk s f).dmaBuf = s.dmaBuf ∧ (State.modClk s f).takeMem.bytes = s.takeMem.bytes := by
  simp [State.modClk]

@[simp] theorem State_modCross_memory (s : State) (x : Nat) (f : CrossSt → CrossSt) :
    (State.modCross s x f).dmaBuf = s.dmaBuf ∧ (State.modCross s x f).takeMem.bytes = s.takeMem.bytes := by
  simp [State.modCross]

@[simp] theorem State_modCust_memory (s : State) (f : CustSt → CustSt) :
    (State.modCust s f).dmaBuf = s.dmaBuf ∧ (State.modCust s f).takeMem.bytes = s.takeMem.bytes := by
  simp [State.modCust]

@[simp] theorem State_modDin_memory (s : State) (i : Nat) (f : DinSt → DinSt) :
    (State.modDin s i f).dmaBuf = s.dmaBuf ∧ (State.modDin s i f).takeMem.bytes = s.takeMem.bytes := by
  unfold State.modDin; (repeat' split) <;> simp

@[simp] theorem State_modEv_memory (s : State) (f : EvSt → EvSt) :
    (State.modEv s f).dmaBuf = s.dmaBuf ∧ (State.modEv s f).takeMem.bytes = s.takeMem.bytes := by
  simp [State.modEv]

@[simp] theorem State_modFlash_memory (s : State) (f : FlashSt → FlashSt) :
    (State.modFlash s f).dmaBuf = s.dmaBuf ∧ (State.modFlash s f).takeMem.bytes = s.takeMem.bytes := by
  simp [State.modFlash]

@[simp] theorem State_modHost_memory (s : State) (f : HostSt → HostSt) :
    (State.modHost s f).dmaBuf = s.dmaBuf ∧ (State.modHost s f).takeMem.bytes = s.takeMem.bytes := by
  simp [State.modHost]

@[simp] theorem State_modLgo_memory (s : State) (i : Nat) (f : LgoSt → LgoSt) :
    (State.modLgo s i f).dmaBuf = s.dmaBuf ∧ (State.modLgo s i f).takeMem.bytes = s.takeMem.bytes := by
  simp [State.modLgo]

@[simp] theorem State_modNet_memory (s : State) (f : NetSt → NetSt) :
    (State.modNet s f).dmaBuf = s.dmaBuf ∧ (State.modNet s f).takeMem.bytes = s.takeMem.bytes := by
  simp [State.modNet]

@[simp] theorem State_modPort_memory (s : State) (p : Nat) (f : PortSt → PortSt) :
    (State.modPort s p f).dmaBuf = s.dmaBuf ∧ (State.modPort s p f).takeMem.bytes = s.takeMem.bytes := by
  simp [State.modPort]

@[simp] theorem State_modPower_memory (s : State) (f : PowerSt → PowerSt) :
    (State.modPower s f).dmaBuf = s.dmaBuf ∧ (State.modPower s f).takeMem.bytes = s.takeMem.bytes := by
  simp [State.modPower]

@[simp] theorem State_putQueue_memory (s : State) (q : Nat) (v : Queue) :
    (State.putQueue s q v).dmaBuf = s.dmaBuf ∧ (State.putQueue s q v).takeMem.bytes = s.takeMem.bytes := by
  simp [State.putQueue]

@[simp] theorem State_modQueue_memory (s : State) (q : Nat) (f : Queue → Queue) :
    (State.modQueue s q f).dmaBuf = s.dmaBuf ∧ (State.modQueue s q f).takeMem.bytes = s.takeMem.bytes := by
  simp [State.modQueue]

@[simp] theorem State_modSnap_memory (s : State) (k : Nat) (f : SnapSet → SnapSet) :
    (State.modSnap s k f).dmaBuf = s.dmaBuf ∧ (State.modSnap s k f).takeMem.bytes = s.takeMem.bytes := by
  simp [State.modSnap]

@[simp] theorem State_modSpace_memory (s : State) (stream : Nat) (num : Nat) (f : Space → Space) :
    (State.modSpace s stream num f).dmaBuf = s.dmaBuf ∧ (State.modSpace s stream num f).takeMem.bytes = s.takeMem.bytes := by
  simp [State.modSpace]

@[simp] theorem State_modStore_memory (s : State) (f : StoreSt → StoreSt) :
    (State.modStore s f).dmaBuf = s.dmaBuf ∧ (State.modStore s f).takeMem.bytes = s.takeMem.bytes := by
  simp [State.modStore]

@[simp] theorem State_modStream_memory (s : State) (n : Nat) (f : StreamSt → StreamSt) :
    (State.modStream s n f).dmaBuf = s.dmaBuf ∧ (State.modStream s n f).takeMem.bytes = s.takeMem.bytes := by
  simp [State.modStream]

@[simp] theorem State_modTake_memory (s : State) (t : Nat) (f : TakeSt → TakeSt) :
    (State.modTake s t f).dmaBuf = s.dmaBuf ∧ (State.modTake s t f).takeMem.bytes = s.takeMem.bytes := by
  simp [State.modTake]

@[simp] theorem State_modTpo_memory (s : State) (p : Nat) (f : TpoSt → TpoSt) :
    (State.modTpo s p f).dmaBuf = s.dmaBuf ∧ (State.modTpo s p f).takeMem.bytes = s.takeMem.bytes := by
  simp [State.modTpo]

@[simp] theorem State_modWin_memory (s : State) (w : Nat) (f : WinSt → WinSt) :
    (State.modWin s w f).dmaBuf = s.dmaBuf ∧ (State.modWin s w f).takeMem.bytes = s.takeMem.bytes := by
  simp [State.modWin]

@[simp] theorem putSess_memory (s : State) (n : Nat) (k : Sess) :
    (putSess s n k).dmaBuf = s.dmaBuf ∧ (putSess s n k).takeMem.bytes = s.takeMem.bytes := by
  simp [putSess]

@[simp] theorem dropInbox_memory (s : State) (i : Nat) :
    (dropInbox s i).dmaBuf = s.dmaBuf ∧ (dropInbox s i).takeMem.bytes = s.takeMem.bytes := by
  simp [dropInbox]

@[simp] theorem State_opened_memory (s : State) (i : Nat) (rx : Rx) (m : Kmp) (k : Sess) :
    (State.opened s i rx m k).dmaBuf = s.dmaBuf ∧ (State.opened s i rx m k).takeMem.bytes = s.takeMem.bytes := by
  simp [State.opened]

@[simp] theorem State_putBand_memory (s : State) (ch : Nat) (b : BandCh) :
    (State.putBand s ch b).dmaBuf = s.dmaBuf ∧ (State.putBand s ch b).takeMem.bytes = s.takeMem.bytes := by
  simp [State.putBand]

@[simp] theorem State_putEmit_memory (s : State) (c : Nat) (i : Nat) (e : Emit) :
    (State.putEmit s c i e).dmaBuf = s.dmaBuf ∧ (State.putEmit s c i e).takeMem.bytes = s.takeMem.bytes := by
  simp [State.putEmit]

@[simp] theorem State_putImage_memory (s : State) (i : Nat) (x : Image) :
    (State.putImage s i x).dmaBuf = s.dmaBuf ∧ (State.putImage s i x).takeMem.bytes = s.takeMem.bytes := by
  simp [State.putImage]

@[simp] theorem State_putStage_memory (s : State) (n : Nat) (v : Stage) :
    (State.putStage s n v).dmaBuf = s.dmaBuf ∧ (State.putStage s n v).takeMem.bytes = s.takeMem.bytes := by
  simp [State.putStage]

@[simp] theorem State_setBytes_memory (s : State) (o : Obj) (u : Nat) (sub : Nat) (v : Bytes) :
    (State.setBytes s o u sub v).dmaBuf = s.dmaBuf ∧ (State.setBytes s o u sub v).takeMem.bytes = s.takeMem.bytes := by
  simp [State.setBytes]

@[simp] theorem State_withWrites_memory (s : State) (ws : List Wr) :
    (State.withWrites s ws).dmaBuf = s.dmaBuf ∧ (State.withWrites s ws).takeMem.bytes = s.takeMem.bytes := by
  simp [State.withWrites]

@[simp] theorem notePeak_memory (s : State) (q : Nat) :
    (notePeak s q).dmaBuf = s.dmaBuf ∧ (notePeak s q).takeMem.bytes = s.takeMem.bytes := by
  simp [notePeak]

@[simp] theorem pushWord_memory (s : State) (q : Nat) (w : QWord) :
    (pushWord s q w).dmaBuf = s.dmaBuf ∧ (pushWord s q w).takeMem.bytes = s.takeMem.bytes := by
  simp [pushWord]

@[simp] theorem reportLost_memory (s : State) (island : Nat) :
    (reportLost s island).dmaBuf = s.dmaBuf ∧ (reportLost s island).takeMem.bytes = s.takeMem.bytes := by
  unfold reportLost; (repeat' split) <;> simp

@[simp] theorem pushEvent_memory (s : State) (island : Nat) (e : EvItem) :
    (pushEvent s island e).dmaBuf = s.dmaBuf ∧ (pushEvent s island e).takeMem.bytes = s.takeMem.bytes := by
  simp [pushEvent]

@[simp] theorem raiseAt_memory (s : State) (src : Nat) (cause : Nat) (detail : Nat) (tick : Nat) :
    (raiseAt s src cause detail tick).dmaBuf = s.dmaBuf ∧ (raiseAt s src cause detail tick).takeMem.bytes = s.takeMem.bytes := by
  simp [raiseAt]

@[simp] theorem raise_memory (s : State) (src : Nat) (cause : Nat) (detail : Nat) :
    (raise s src cause detail).dmaBuf = s.dmaBuf ∧ (raise s src cause detail).takeMem.bytes = s.takeMem.bytes := by
  simp [raise]

@[simp] theorem abandonSet_memory (s : State) (ses : Nat) :
    (abandonSet s ses).dmaBuf = s.dmaBuf ∧ (abandonSet s ses).takeMem.bytes = s.takeMem.bytes := by
  simp [abandonSet]

@[simp] theorem abandonHeld_memory (s : State) (ses : Nat) (v : Nat) :
    (abandonHeld s ses v).1.dmaBuf = s.dmaBuf ∧ (abandonHeld s ses v).1.takeMem.bytes = s.takeMem.bytes := by
  simp [abandonHeld]

@[simp] theorem enqueue_memory (s : State) (p : Nat) (o : OutFrame) :
    (enqueue s p o).dmaBuf = s.dmaBuf ∧ (enqueue s p o).takeMem.bytes = s.takeMem.bytes := by
  simp [enqueue]

@[simp] theorem sendOwn_memory (s : State) (p : Nat) (dst : Nat) (len : Nat) (c : Content) :
    (sendOwn s p dst len c).dmaBuf = s.dmaBuf ∧ (sendOwn s p dst len c).takeMem.bytes = s.takeMem.bytes := by
  simp [sendOwn]

@[simp] theorem sendUdp_memory (s : State) (dst : Nat) (srcIp : Nat) (srcPort : Nat) (dstIp : Nat) (dstPort : Nat)
    (b : Bytes) :
    (sendUdp s dst srcIp srcPort dstIp dstPort b).dmaBuf = s.dmaBuf ∧
        (sendUdp s dst srcIp srcPort dstIp dstPort b).takeMem.bytes = s.takeMem.bytes := by
  simp [sendUdp]

@[simp] theorem sendUplink_memory (s : State) (b : Bytes) :
    (sendUplink s b).dmaBuf = s.dmaBuf ∧ (sendUplink s b).takeMem.bytes = s.takeMem.bytes := by
  simp [sendUplink]

@[simp] theorem uplinkItems_memory (s : State) (pos : Nat) (ident : Nat) (stream : Nat) (num : Nat) (is : List Item) :
    (uplinkItems s pos ident stream num is).dmaBuf = s.dmaBuf ∧
        (uplinkItems s pos ident stream num is).takeMem.bytes = s.takeMem.bytes := by
  simp [uplinkItems]

@[simp] theorem settleItem_memory (s : State) (ident : Nat) (i : Item) (stream : Nat) (num : Nat) :
    (settleItem s ident i stream num).dmaBuf = s.dmaBuf ∧ (settleItem s ident i stream num).takeMem.bytes = s.takeMem.bytes := by
  simp [settleItem]

@[simp] theorem addClaims_memory (s : State) (cs : List (Nat × Option Nat)) :
    (addClaims s cs).dmaBuf = s.dmaBuf ∧ (addClaims s cs).takeMem.bytes = s.takeMem.bytes := by
  simp [addClaims]

@[simp] theorem addFlag_memory (s : State) (ch : Nat) (flag : Nat) (src : FSrc) (start : Nat) (stop : Nat) :
    (addFlag s ch flag src start stop).dmaBuf = s.dmaBuf ∧ (addFlag s ch flag src start stop).takeMem.bytes = s.takeMem.bytes := by
  simp [addFlag]

@[simp] theorem regionAdvance_memory (x0 : Nat) (x1 : State) :
    (regionAdvance x0 x1).dmaBuf = x1.dmaBuf ∧ (regionAdvance x0 x1).takeMem.bytes = x1.takeMem.bytes := by
  induction x0 generalizing x1 with
  | zero => exact ⟨rfl, rfl⟩
  | succ n ih =>
    unfold regionAdvance
    split
    · split
      · extract_lets s1
        exact ⟨(ih _).1.trans (by simp [s1]), (ih _).2.trans (by simp [s1])⟩
      · exact ⟨rfl, rfl⟩
    · exact ⟨rfl, rfl⟩

@[simp] theorem advance_memory (s : State) :
    (advance s).dmaBuf = s.dmaBuf ∧ (advance s).takeMem.bytes = s.takeMem.bytes := by
  simp [advance]

@[simp] theorem noteRetained_memory (s : State) (o : Obj) (u : Nat) (sub : Nat) :
    (noteRetained s o u sub).dmaBuf = s.dmaBuf ∧ (noteRetained s o u sub).takeMem.bytes = s.takeMem.bytes := by
  unfold noteRetained; (repeat' split) <;> simp

@[simp] theorem ringStart_memory (s : State) (ch : Nat) (tick : Nat) :
    (ringStart s ch tick).dmaBuf = s.dmaBuf ∧ (ringStart s ch tick).takeMem.bytes = s.takeMem.bytes := by
  simp [ringStart]

@[simp] theorem ringsUpdate_memory (s : State) (t : Nat) :
    (ringsUpdate s t).dmaBuf = s.dmaBuf ∧ (ringsUpdate s t).takeMem.bytes = s.takeMem.bytes := by
  simp [ringsUpdate]

@[simp] theorem takeTo_memory (s : State) (t : Nat) (st : Nat) (tick : Nat) :
    (takeTo s t st tick).dmaBuf = s.dmaBuf ∧ (takeTo s t st tick).takeMem.bytes = s.takeMem.bytes := by
  simp [takeTo]

@[simp] theorem takeArmed_memory (s : State) (t : Nat) (tick : Nat) :
    (takeArmed s t tick).dmaBuf = s.dmaBuf ∧ (takeArmed s t tick).takeMem.bytes = s.takeMem.bytes := by
  simp [takeArmed]

@[simp] theorem takeArm_memory (s : State) (t : Nat) (tick : Nat) :
    (takeArm s t tick).dmaBuf = s.dmaBuf ∧ (takeArm s t tick).takeMem.bytes = s.takeMem.bytes := by
  simp [takeArm]

@[simp] theorem takeChanged_memory (s : State) (t : Nat) (old : Nat) (tick : Nat) :
    (takeChanged s t old tick).dmaBuf = s.dmaBuf ∧ (takeChanged s t old tick).takeMem.bytes = s.takeMem.bytes := by
  simp [takeChanged]

@[simp] theorem takeApply_memory (s : State) (t : Nat) (ws : List Wr) (tick : Nat) :
    (takeApply s t ws tick).dmaBuf = s.dmaBuf ∧ (takeApply s t ws tick).takeMem.bytes = s.takeMem.bytes := by
  simp [takeApply]

@[simp] theorem takeLate_memory (s : State) (t : Nat) (ws : List Wr) (tick : Nat) :
    (takeLate s t ws tick).dmaBuf = s.dmaBuf ∧ (takeLate s t ws tick).takeMem.bytes = s.takeMem.bytes := by
  simp [takeLate]

@[simp] theorem takeWaited_memory (s : State) (t : Nat) (tick : Nat) :
    (takeWaited s t tick).dmaBuf = s.dmaBuf ∧ (takeWaited s t tick).takeMem.bytes = s.takeMem.bytes := by
  unfold takeWaited
  extract_lets k s1
  have h : ∀ (l : List (Nat × Bool × Wr)) (x : State),
      (l.foldl (fun s p => if p.2.1 then s.setNum .session p.1 8 tick else s) x).dmaBuf = x.dmaBuf ∧
        (l.foldl (fun s p => if p.2.1 then s.setNum .session p.1 8 tick else s) x).takeMem.bytes = x.takeMem.bytes := by
    intro l
    induction l with
    | nil => simp
    | cons p l ih =>
      intro x
      simp only [List.foldl_cons]
      split <;> simp [ih]
  simp [h, s1]

@[simp] theorem noteSlack_memory (s : State) (t : Nat) (slack : Nat) :
    (noteSlack s t slack).dmaBuf = s.dmaBuf ∧ (noteSlack s t slack).takeMem.bytes = s.takeMem.bytes := by
  simp [noteSlack]

@[simp] theorem afterCommit_memory (s : State) (t : Nat) (fillEnd : Nat) :
    (afterCommit s t fillEnd).dmaBuf = s.dmaBuf ∧ (afterCommit s t fillEnd).takeMem.bytes = s.takeMem.bytes := by
  simp [afterCommit]

@[simp] theorem discardWrites_memory (s : State) (ses : Nat) (ws : List Wr) :
    (discardWrites s ses ws).dmaBuf = s.dmaBuf ∧ (discardWrites s ses ws).takeMem.bytes = s.takeMem.bytes := by
  simp [discardWrites]

@[simp] theorem noteDeny_memory (s : State) (d : Deny) :
    (noteDeny s d).dmaBuf = s.dmaBuf ∧ (noteDeny s d).takeMem.bytes = s.takeMem.bytes := by
  unfold noteDeny; (repeat' split) <;> simp

@[simp] theorem windowRestart_memory (s : State) (cell : Nat) (m : Nat) (t : Nat) :
    (windowRestart s cell m t).dmaBuf = s.dmaBuf ∧ (windowRestart s cell m t).takeMem.bytes = s.takeMem.bytes := by
  simp [windowRestart]

@[simp] theorem setTouch_memory (s : State) (ch : Nat) (t : Nat) (us : Nat) :
    (setTouch s ch t us).dmaBuf = s.dmaBuf ∧ (setTouch s ch t us).takeMem.bytes = s.takeMem.bytes := by
  simp [setTouch]

@[simp] theorem touchAll_memory (s : State) (chs : List Nat) (t : Nat) (us : Nat) :
    (touchAll s chs t us).dmaBuf = s.dmaBuf ∧ (touchAll s chs t us).takeMem.bytes = s.takeMem.bytes := by
  simp [touchAll]

@[simp] theorem openFlag_memory (s : State) (ch : Nat) (flag : Nat) (src : FSrc) (start : Nat) :
    (openFlag s ch flag src start).dmaBuf = s.dmaBuf ∧ (openFlag s ch flag src start).takeMem.bytes = s.takeMem.bytes := by
  simp [openFlag]

@[simp] theorem assocExc_memory (s : State) (unit : ExcUnit) (n : Nat) (t : Nat) :
    (assocExc s unit n t).dmaBuf = s.dmaBuf ∧ (assocExc s unit n t).takeMem.bytes = s.takeMem.bytes := by
  unfold assocExc; (repeat' split) <;> simp

@[simp] theorem assocTouch_memory (old : State) (s : State) (c : Nat) (t : Nat) :
    (assocTouch old s c t).dmaBuf = s.dmaBuf ∧ (assocTouch old s c t).takeMem.bytes = s.takeMem.bytes := by
  simp [assocTouch]

@[simp] theorem auxTouch_memory (old : State) (s : State) (term : Nat) (t : Nat) :
    (auxTouch old s term t).dmaBuf = s.dmaBuf ∧ (auxTouch old s term t).takeMem.bytes = s.takeMem.bytes := by
  simp [auxTouch]

@[simp] theorem closeLater_memory (s : State) (cell : Nat) (t : Nat) (ks : List Nat) :
    (closeLater s cell t ks).dmaBuf = s.dmaBuf ∧ (closeLater s cell t ks).takeMem.bytes = s.takeMem.bytes := by
  simp [closeLater]

@[simp] theorem switchTouch_memory (old : State) (s : State) (cell : Nat) (t : Nat) :
    (switchTouch old s cell t).dmaBuf = s.dmaBuf ∧ (switchTouch old s cell t).takeMem.bytes = s.takeMem.bytes := by
  simp [switchTouch]

@[simp] theorem settleUnit_memory (s : State) (unit : ExcUnit) (t : Nat) (us : Nat) :
    (settleUnit s unit t us).dmaBuf = s.dmaBuf ∧ (settleUnit s unit t us).takeMem.bytes = s.takeMem.bytes := by
  simp [settleUnit]

@[simp] theorem touchUnit_memory (old : State) (s : State) (unit : ExcUnit) (t : Nat) (x4 : Option Nat) :
    (touchUnit old s unit t x4).dmaBuf = s.dmaBuf ∧ (touchUnit old s unit t x4).takeMem.bytes = s.takeMem.bytes := by
  unfold touchUnit; (repeat' split) <;> simp

@[simp] theorem frontTouch_memory (old : State) (s : State) (t : Nat) (o : Obj) (u : Nat) (sub : Nat) :
    (frontTouch old s t o u sub).dmaBuf = s.dmaBuf ∧ (frontTouch old s t o u sub).takeMem.bytes = s.takeMem.bytes := by
  unfold frontTouch; (repeat' split) <;> simp

@[simp] theorem setTail_memory (s : State) (ch : Nat) (t : Nat) :
    (setTail s ch t).dmaBuf = s.dmaBuf ∧ (setTail s ch t).takeMem.bytes = s.takeMem.bytes := by
  simp [setTail]

@[simp] theorem ovlSwitch_memory (s : State) (ch : Nat) (t : Nat) :
    (ovlSwitch s ch t).dmaBuf = s.dmaBuf ∧ (ovlSwitch s ch t).takeMem.bytes = s.takeMem.bytes := by
  simp [ovlSwitch]

@[simp] theorem windowsRestart_memory (s : State) (cell : Nat) (t : Nat) :
    (windowsRestart s cell t).dmaBuf = s.dmaBuf ∧ (windowsRestart s cell t).takeMem.bytes = s.takeMem.bytes := by
  simp [windowsRestart]

@[simp] theorem closeFlag_memory (s : State) (ch : Nat) (flag : Nat) (src : FSrc) (stop : Nat) :
    (closeFlag s ch flag src stop).dmaBuf = s.dmaBuf ∧ (closeFlag s ch flag src stop).takeMem.bytes = s.takeMem.bytes := by
  simp [closeFlag]

@[simp] theorem failedTouch_memory (s : State) (cell : Nat) (t : Nat) :
    (failedTouch s cell t).dmaBuf = s.dmaBuf ∧ (failedTouch s cell t).takeMem.bytes = s.takeMem.bytes := by
  simp [failedTouch]

@[simp] theorem spareTouch_memory (s : State) (cell : Nat) (a : Nat) (t : Nat) :
    (spareTouch s cell a t).dmaBuf = s.dmaBuf ∧ (spareTouch s cell a t).takeMem.bytes = s.takeMem.bytes := by
  simp [spareTouch]

@[simp] theorem refLost_memory (s : State) (cell : Nat) (t : Nat) :
    (refLost s cell t).dmaBuf = s.dmaBuf ∧ (refLost s cell t).takeMem.bytes = s.takeMem.bytes := by
  simp [refLost]

@[simp] theorem refTouch_memory (s : State) (cell : Nat) (t : Nat) :
    (refTouch s cell t).dmaBuf = s.dmaBuf ∧ (refTouch s cell t).takeMem.bytes = s.takeMem.bytes := by
  unfold refTouch
  extract_lets s1 s2
  split <;> simp [s1, s2]

@[simp] theorem modeSwitch_memory (s : State) (cell : Nat) (t : Nat) (mode : Nat) :
    (modeSwitch s cell t mode).dmaBuf = s.dmaBuf ∧ (modeSwitch s cell t mode).takeMem.bytes = s.takeMem.bytes := by
  simp [modeSwitch]

@[simp] theorem ovlUnswitch_memory (s : State) (ch : Nat) (t : Nat) :
    (ovlUnswitch s ch t).dmaBuf = s.dmaBuf ∧ (ovlUnswitch s ch t).takeMem.bytes = s.takeMem.bytes := by
  simp [ovlUnswitch]

@[simp] theorem modeTouch_memory (s : State) (cell : Nat) (t : Nat) :
    (modeTouch s cell t).dmaBuf = s.dmaBuf ∧ (modeTouch s cell t).takeMem.bytes = s.takeMem.bytes := by
  unfold modeTouch
  extract_lets s1 due mode s2 s3
  have h1 : s1.dmaBuf = s.dmaBuf ∧ s1.takeMem.bytes = s.takeMem.bytes := by
    dsimp only [s1]
    split
    · split <;> simp
    · exact ⟨rfl, rfl⟩
  have h3 : s3.dmaBuf = s.dmaBuf ∧ s3.takeMem.bytes = s.takeMem.bytes := by
    dsimp only [s3]
    split <;> simp [s2, h1]
  simp [h3]

@[simp] theorem auxRefTouch_memory (s : State) (t : Nat) :
    (auxRefTouch s t).dmaBuf = s.dmaBuf ∧ (auxRefTouch s t).takeMem.bytes = s.takeMem.bytes := by
  simp [auxRefTouch]

@[simp] theorem auxSwitchDue_memory (s : State) (t : Nat) :
    (auxSwitchDue s t).dmaBuf = s.dmaBuf ∧ (auxSwitchDue s t).takeMem.bytes = s.takeMem.bytes := by
  unfold auxSwitchDue; (repeat' split) <;> simp

@[simp] theorem auxModeTouch_memory (s : State) (t : Nat) :
    (auxModeTouch s t).dmaBuf = s.dmaBuf ∧ (auxModeTouch s t).takeMem.bytes = s.takeMem.bytes := by
  simp [auxModeTouch]

@[simp] theorem scanPeriodTouch_memory (s : State) (t : Nat) :
    (scanPeriodTouch s t).dmaBuf = s.dmaBuf ∧ (scanPeriodTouch s t).takeMem.bytes = s.takeMem.bytes := by
  simp [scanPeriodTouch]

@[simp] theorem auxChange_memory (s : State) (t : Nat) (sub : Nat) :
    (auxChange s t sub).dmaBuf = s.dmaBuf ∧ (auxChange s t sub).takeMem.bytes = s.takeMem.bytes := by
  unfold auxChange; (repeat' split) <;> simp

@[simp] theorem entryEffect_memory (old : State) (s : State) (t : Nat) (w : Wr) :
    (entryEffect old s t w).dmaBuf = s.dmaBuf ∧ (entryEffect old s t w).takeMem.bytes = s.takeMem.bytes := by
  unfold entryEffect; (repeat' split) <;> simp

@[simp] theorem chainTouch_memory (old : State) (s : State) (t : Nat) (ch : Nat) :
    (chainTouch old s t ch).dmaBuf = s.dmaBuf ∧ (chainTouch old s t ch).takeMem.bytes = s.takeMem.bytes := by
  unfold chainTouch; (repeat' split) <;> simp

@[simp] theorem bandTouch_memory (old : State) (s : State) (ch : Nat) (t : Nat) :
    (bandTouch old s ch t).dmaBuf = s.dmaBuf ∧ (bandTouch old s ch t).takeMem.bytes = s.takeMem.bytes := by
  simp [bandTouch]

@[simp] theorem winTouch_memory (old : State) (s : State) (w : Nat) (t : Nat) :
    (winTouch old s w t).dmaBuf = s.dmaBuf ∧ (winTouch old s w t).takeMem.bytes = s.takeMem.bytes := by
  simp [winTouch]

@[simp] theorem crossBegin_memory (s : State) (x : Nat) (t : Nat) :
    (crossBegin s x t).dmaBuf = s.dmaBuf ∧ (crossBegin s x t).takeMem.bytes = s.takeMem.bytes := by
  simp [crossBegin]

@[simp] theorem crossTouch_memory (old : State) (s : State) (x : Nat) (t : Nat) :
    (crossTouch old s x t).dmaBuf = s.dmaBuf ∧ (crossTouch old s x t).takeMem.bytes = s.takeMem.bytes := by
  simp [crossTouch]

@[simp] theorem withRec_memory (s : State) :
    (withRec s).dmaBuf = s.dmaBuf ∧ (withRec s).takeMem.bytes = s.takeMem.bytes := by
  simp [withRec]

@[simp] theorem takeGapNumber_memory (s : State) (stream : Nat) (inst : Nat) :
    (takeGapNumber s stream inst).1.dmaBuf = s.dmaBuf ∧ (takeGapNumber s stream inst).1.takeMem.bytes = s.takeMem.bytes := by
  unfold takeGapNumber
  dsimp only
  split <;> simp

@[simp] theorem showNext_memory (s : State) (stream : Nat) (num : Nat) :
    (showNext s stream num).dmaBuf = s.dmaBuf ∧ (showNext s stream num).takeMem.bytes = s.takeMem.bytes := by
  unfold showNext; (repeat' split) <;> simp

@[simp] theorem haltStream_memory (s : State) (n : Nat) :
    (haltStream s n).dmaBuf = s.dmaBuf ∧ (haltStream s n).takeMem.bytes = s.takeMem.bytes := by
  simp [haltStream]

@[simp] theorem freeEnded_memory (s : State) :
    (freeEnded s).dmaBuf = s.dmaBuf ∧ (freeEnded s).takeMem.bytes = s.takeMem.bytes := by
  simp [freeEnded]

@[simp] theorem readyAcc_memory (s : State) (n : Nat) (inst : Nat) (a : BlkAcc) :
    (readyAcc s n inst a).dmaBuf = s.dmaBuf ∧ (readyAcc s n inst a).takeMem.bytes = s.takeMem.bytes := by
  simp [readyAcc]

@[simp] theorem readyAccs_memory (s : State) (n : Nat) (inst : Nat) (as : List BlkAcc) :
    (readyAccs s n inst as).dmaBuf = s.dmaBuf ∧ (readyAccs s n inst as).takeMem.bytes = s.takeMem.bytes := by
  simp [readyAccs]

@[simp] theorem settleOld_memory (s : State) (n : Nat) :
    (settleOld s n).dmaBuf = s.dmaBuf ∧ (settleOld s n).takeMem.bytes = s.takeMem.bytes := by
  simp [settleOld]

@[simp] theorem tpoLate_memory (s : State) (p : Nat) (n : Nat) :
    (tpoLate s p n).dmaBuf = s.dmaBuf ∧ (tpoLate s p n).takeMem.bytes = s.takeMem.bytes := by
  simp [tpoLate]

@[simp] theorem tpoSchedule_memory (s : State) (p : Nat) :
    (tpoSchedule s p).dmaBuf = s.dmaBuf ∧ (tpoSchedule s p).takeMem.bytes = s.takeMem.bytes := by
  unfold tpoSchedule; (repeat' split) <;> simp

@[simp] theorem tpoArm_memory (s : State) (p : Nat) :
    (tpoArm s p).dmaBuf = s.dmaBuf ∧ (tpoArm s p).takeMem.bytes = s.takeMem.bytes := by
  unfold tpoArm; (repeat' split) <;> simp

@[simp] theorem codecTouch_memory (old : State) (s : State) (t : Nat) :
    (codecTouch old s t).dmaBuf = s.dmaBuf ∧ (codecTouch old s t).takeMem.bytes = s.takeMem.bytes := by
  simp [codecTouch]

@[simp] theorem calTouch_memory (s : State) (o : Obj) (u : Nat) (sub : Nat) :
    (calTouch s o u sub).dmaBuf = s.dmaBuf ∧ (calTouch s o u sub).takeMem.bytes = s.takeMem.bytes := by
  simp [calTouch]

@[simp] theorem takeWrites_memory (s : State) (ses : Nat) (imm : Bool) (t : Nat) (ws : List Wr) (tick : Nat) :
    (takeWrites s ses imm t ws tick).dmaBuf = s.dmaBuf ∧ (takeWrites s ses imm t ws tick).takeMem.bytes = s.takeMem.bytes := by
  simp [takeWrites]

@[simp] theorem takeArmCmd_memory (s : State) (t : Nat) (tick : Nat) :
    (takeArmCmd s t tick).dmaBuf = s.dmaBuf ∧ (takeArmCmd s t tick).takeMem.bytes = s.takeMem.bytes := by
  simp [takeArmCmd]

@[simp] theorem answer_memory (s : State) (c : Code) :
    (answer s c).dmaBuf = s.dmaBuf ∧ (answer s c).takeMem.bytes = s.takeMem.bytes := by
  simp [answer]

@[simp] theorem pushLine_memory (s : State) (l : Nat) (o : RouteOcc) :
    (pushLine s l o).dmaBuf = s.dmaBuf ∧ (pushLine s l o).takeMem.bytes = s.takeMem.bytes := by
  simp [pushLine]

@[simp] theorem askNotify_memory (s : State) (src : Nat) (cause : Nat) (detail : Nat) (seq : Nat) (rep : Nat) (time : Int) :
    (askNotify s src cause detail seq rep time).dmaBuf = s.dmaBuf ∧
        (askNotify s src cause detail seq rep time).takeMem.bytes = s.takeMem.bytes := by
  simp [askNotify]

@[simp] theorem claimTake_memory (s : State) (t : Nat) :
    (claimTake s t).dmaBuf = s.dmaBuf ∧ (claimTake s t).takeMem.bytes = s.takeMem.bytes := by
  simp [claimTake]

@[simp] theorem interrupt_memory (s : State) (t : Nat) :
    (interrupt s t).dmaBuf = s.dmaBuf ∧ (interrupt s t).takeMem.bytes = s.takeMem.bytes := by
  unfold interrupt; (repeat' split) <;> simp

@[simp] theorem auxClaim_memory (s : State) :
    (auxClaim s).dmaBuf = s.dmaBuf ∧ (auxClaim s).takeMem.bytes = s.takeMem.bytes := by
  simp [auxClaim]

@[simp] theorem resume_memory (s : State) (t : Nat) :
    (resume s t).dmaBuf = s.dmaBuf ∧ (resume s t).takeMem.bytes = s.takeMem.bytes := by
  simp [resume]

@[simp] theorem auxUnclaim_memory (s : State) (t : Nat) :
    (auxUnclaim s t).dmaBuf = s.dmaBuf ∧ (auxUnclaim s t).takeMem.bytes = s.takeMem.bytes := by
  simp [auxUnclaim]

@[simp] theorem bandClear_memory (s : State) (ch : Nat) (t : Nat) :
    (bandClear s ch t).dmaBuf = s.dmaBuf ∧ (bandClear s ch t).takeMem.bytes = s.takeMem.bytes := by
  simp [bandClear]

@[simp] theorem bandAnew_memory (s : State) (ch : Nat) (t : Nat) :
    (bandAnew s ch t).dmaBuf = s.dmaBuf ∧ (bandAnew s ch t).takeMem.bytes = s.takeMem.bytes := by
  simp [bandAnew]

@[simp] theorem bandRun_memory (s : State) (ch : Nat) (k : Nat) (g : Nat) (x : Int) (flags : Option Nat) :
    (bandRun s ch k g x flags).1.dmaBuf = s.dmaBuf ∧ (bandRun s ch k g x flags).1.takeMem.bytes = s.takeMem.bytes := by
  simp [bandRun]

@[simp] theorem sendKmp_memory (s : State) (p : Nat) (dst : Nat) (m : Kmp) :
    (sendKmp s p dst m).dmaBuf = s.dmaBuf ∧ (sendKmp s p dst m).takeMem.bytes = s.takeMem.bytes := by
  simp [sendKmp]

@[simp] theorem reply_memory (s : State) (rx : Rx) (m : Kmp) :
    (reply s rx m).dmaBuf = s.dmaBuf ∧ (reply s rx m).takeMem.bytes = s.takeMem.bytes := by
  unfold reply; (repeat' split) <;> simp

@[simp] theorem bridgeRequest_memory (s : State) (rx : Rx) (m : Kmp) :
    (bridgeRequest s rx m).dmaBuf = s.dmaBuf ∧ (bridgeRequest s rx m).takeMem.bytes = s.takeMem.bytes := by
  unfold bridgeRequest; (repeat' split) <;> simp

@[simp] theorem calAbort_memory (s : State) :
    (calAbort s).1.dmaBuf = s.dmaBuf ∧ (calAbort s).1.takeMem.bytes = s.takeMem.bytes := by
  simp [calAbort]

@[simp] theorem conditionMet_memory (s : State) :
    (conditionMet s).dmaBuf = s.dmaBuf ∧ (conditionMet s).takeMem.bytes = s.takeMem.bytes := by
  simp [conditionMet]

@[simp] theorem phaseAfterRun_memory (s : State) :
    (phaseAfterRun s).dmaBuf = s.dmaBuf ∧ (phaseAfterRun s).takeMem.bytes = s.takeMem.bytes := by
  simp [phaseAfterRun]

@[simp] theorem calEnd_memory (s : State) (code : Nat) :
    (calEnd s code).dmaBuf = s.dmaBuf ∧ (calEnd s code).takeMem.bytes = s.takeMem.bytes := by
  simp [calEnd]

@[simp] theorem calCheckEnd_memory (s : State) :
    (calCheckEnd s).dmaBuf = s.dmaBuf ∧ (calCheckEnd s).takeMem.bytes = s.takeMem.bytes := by
  simp [calCheckEnd]

@[simp] theorem calStart_memory (s : State) (allg : Bool) (stst : Bool) (skew : Bool) (defer : Bool) :
    (calStart s allg stst skew defer).1.dmaBuf = s.dmaBuf ∧
        (calStart s allg stst skew defer).1.takeMem.bytes = s.takeMem.bytes := by
  simp [calStart]

@[simp] theorem holdEnded_memory (s : State) (phase : Nat) :
    (holdEnded s phase).dmaBuf = s.dmaBuf ∧ (holdEnded s phase).takeMem.bytes = s.takeMem.bytes := by
  simp [holdEnded]

@[simp] theorem calEndHold_memory (s : State) :
    (calEndHold s).1.dmaBuf = s.dmaBuf ∧ (calEndHold s).1.takeMem.bytes = s.takeMem.bytes := by
  simp [calEndHold]

@[simp] theorem calCommand_memory (s : State) (w : Nat) :
    (calCommand s w).1.dmaBuf = s.dmaBuf ∧ (calCommand s w).1.takeMem.bytes = s.takeMem.bytes := by
  unfold calCommand; (repeat' split) <;> simp

@[simp] theorem calRefuse_memory (s : State) (cause : Nat) (detail : Nat) :
    (calRefuse s cause detail).dmaBuf = s.dmaBuf ∧ (calRefuse s cause detail).takeMem.bytes = s.takeMem.bytes := by
  simp [calRefuse]

@[simp] theorem calresBegin_memory (s : State) (t : Nat) :
    (calresBegin s t).dmaBuf = s.dmaBuf ∧ (calresBegin s t).takeMem.bytes = s.takeMem.bytes := by
  simp [calresBegin]

@[simp] theorem cancelFences_memory (s : State) (a : Nat) :
    (cancelFences s a).dmaBuf = s.dmaBuf ∧ (cancelFences s a).takeMem.bytes = s.takeMem.bytes := by
  simp [cancelFences]

@[simp] theorem cancelPulses_memory (s : State) (a : Nat) :
    (cancelPulses s a).dmaBuf = s.dmaBuf ∧ (cancelPulses s a).takeMem.bytes = s.takeMem.bytes := by
  unfold cancelPulses
  refine foldl_memory _ (fun s b => ?_) _ _
  extract_lets x
  split
  · split <;> simp
  · exact ⟨rfl, rfl⟩

@[simp] theorem cancelSlates_memory (s : State) (a : Nat) :
    (cancelSlates s a).dmaBuf = s.dmaBuf ∧ (cancelSlates s a).takeMem.bytes = s.takeMem.bytes := by
  simp [cancelSlates]

@[simp] theorem cancelNamed_memory (s : State) (a : Nat) :
    (cancelNamed s a).dmaBuf = s.dmaBuf ∧ (cancelNamed s a).takeMem.bytes = s.takeMem.bytes := by
  simp [cancelNamed]

@[simp] theorem captureAt_memory (s : State) (u : Nat) (t : Nat) (sub : Nat) (edge : Nat) :
    (captureAt s u t sub edge).dmaBuf = s.dmaBuf ∧ (captureAt s u t sub edge).takeMem.bytes = s.takeMem.bytes := by
  simp [captureAt]

@[simp] theorem captureRead_memory (s : State) (u : Nat) (sub : Nat) :
    (captureRead s u sub).dmaBuf = s.dmaBuf ∧ (captureRead s u sub).takeMem.bytes = s.takeMem.bytes := by
  simp [captureRead]

@[simp] theorem cellBegin_memory (s : State) (c : Nat) (r : CalRun) :
    (cellBegin s c r).dmaBuf = s.dmaBuf ∧ (cellBegin s c r).takeMem.bytes = s.takeMem.bytes := by
  simp [cellBegin]

@[simp] theorem setElements_memory (s : State) (c : Nat) (m : Nat) (t : Nat) (mask : Nat) :
    (setElements s c m t mask).dmaBuf = s.dmaBuf ∧ (setElements s c m t mask).takeMem.bytes = s.takeMem.bytes := by
  simp [setElements]

@[simp] theorem setSpare_memory (s : State) (cell : Nat) (b : Nat) (t : Nat) :
    (setSpare s cell b t).dmaBuf = s.dmaBuf ∧ (setSpare s cell b t).takeMem.bytes = s.takeMem.bytes := by
  simp [setSpare]

@[simp] theorem selfTest_memory (s : State) (c : Nat) (t : Nat) (r : CalResult) :
    (selfTest s c t r).dmaBuf = s.dmaBuf ∧ (selfTest s c t r).takeMem.bytes = s.takeMem.bytes := by
  simp [selfTest]

@[simp] theorem gainValue_memory (s : State) (ch : Nat) (code : Nat) (t : Nat) (span : Int) (offset : Int) :
    (gainValue s ch code t span offset).dmaBuf = s.dmaBuf ∧
        (gainValue s ch code t span offset).takeMem.bytes = s.takeMem.bytes := by
  simp [gainValue]

@[simp] theorem trimValue_memory (s : State) (c : Nat) (k : Nat) (measured : Int) :
    (trimValue s c k measured).dmaBuf = s.dmaBuf ∧ (trimValue s c k measured).takeMem.bytes = s.takeMem.bytes := by
  simp [trimValue]

@[simp] theorem noteDelay_memory (s : State) (ch : Nat) (t : Nat) (k : Nat) :
    (noteDelay s ch t k).dmaBuf = s.dmaBuf ∧ (noteDelay s ch t k).takeMem.bytes = s.takeMem.bytes := by
  simp [noteDelay]

@[simp] theorem deltaNow_memory (s : State) (ch : Nat) (delta : Nat) :
    (deltaNow s ch delta).dmaBuf = s.dmaBuf ∧ (deltaNow s ch delta).takeMem.bytes = s.takeMem.bytes := by
  simp [deltaNow]

@[simp] theorem skewValue_memory (s : State) (ch : Nat) (t : Nat) (delta : Nat) :
    (skewValue s ch t delta).dmaBuf = s.dmaBuf ∧ (skewValue s ch t delta).takeMem.bytes = s.takeMem.bytes := by
  simp [skewValue]

@[simp] theorem cellValues_memory (s : State) (c : Nat) (t : Nat) (ms : Nat) (r : CalRun) (x : CalResult) :
    (cellValues s c t ms r x).dmaBuf = s.dmaBuf ∧ (cellValues s c t ms r x).takeMem.bytes = s.takeMem.bytes := by
  simp [cellValues]

@[simp] theorem cellEnd_memory (s : State) (c : Nat) (ta : Nat) (tb : Nat) (r : CalRun) (x : CalResult) :
    (cellEnd s c ta tb r x).dmaBuf = s.dmaBuf ∧ (cellEnd s c ta tb r x).takeMem.bytes = s.takeMem.bytes := by
  simp [cellEnd]

@[simp] theorem gapHalts_memory (s : State) (n : Nat) (inst : Nat) (rs : List Range) :
    (gapHalts s n inst rs).dmaBuf = s.dmaBuf ∧ (gapHalts s n inst rs).takeMem.bytes = s.takeMem.bytes := by
  simp [gapHalts]

@[simp] theorem setCore_memory (s : State) (c : Nat) (v : Nat) :
    (setCore s c v).dmaBuf = s.dmaBuf ∧ (setCore s c v).takeMem.bytes = s.takeMem.bytes := by
  simp [setCore]

@[simp] theorem countBlock_memory (s : State) (k : BlkDef) (b : Bytes) :
    (countBlock s k b).dmaBuf = s.dmaBuf ∧ (countBlock s k b).takeMem.bytes = s.takeMem.bytes := by
  simp [countBlock]

@[simp] theorem oweBound_memory (s : State) (t : Nat) (f : Fill) :
    (oweBound s t f).dmaBuf = s.dmaBuf ∧ (oweBound s t f).takeMem.bytes = s.takeMem.bytes := by
  simp [oweBound]

@[simp] theorem noteMismatch_memory (s : State) (kind : Nat) (u : Option CUnit) :
    (noteMismatch s kind u).dmaBuf = s.dmaBuf ∧ (noteMismatch s kind u).takeMem.bytes = s.takeMem.bytes := by
  simp [noteMismatch]

@[simp] theorem writerReset_memory (s : State) (q : Nat) :
    (writerReset s q).dmaBuf = s.dmaBuf ∧ (writerReset s q).takeMem.bytes = s.takeMem.bytes := by
  simp [writerReset]

@[simp] theorem toSelfTest_memory (s : State) (c : Nat) (why : TestWhy) :
    (toSelfTest s c why).dmaBuf = s.dmaBuf ∧ (toSelfTest s c why).takeMem.bytes = s.takeMem.bytes := by
  simp [toSelfTest]

@[simp] theorem chainsStart_memory (s : State) (cell : Nat) (tick : Nat) :
    (chainsStart s cell tick).dmaBuf = s.dmaBuf ∧ (chainsStart s cell tick).takeMem.bytes = s.takeMem.bytes := by
  simp [chainsStart]

@[simp] theorem chanWord_memory (s : State) (ch : Nat) (tick : Nat) (period : Nat) (code : Nat) :
    (chanWord s ch tick period code).dmaBuf = s.dmaBuf ∧ (chanWord s ch tick period code).takeMem.bytes = s.takeMem.bytes := by
  simp [chanWord]

@[simp] theorem cellWords_memory (s : State) (cell : Nat) (x2 : Nat) (x3 : List Nat) :
    (cellWords s cell x2 x3).dmaBuf = s.dmaBuf ∧ (cellWords s cell x2 x3).takeMem.bytes = s.takeMem.bytes := by
  induction x3 generalizing s x2 with
  | nil => exact ⟨rfl, rfl⟩
  | cons w ws ih => unfold cellWords; exact ⟨(ih ..).1.trans (by simp), (ih ..).2.trans (by simp)⟩

@[simp] theorem itemTaken_memory (s : State) (cell : Nat) (status : Bool) (tick : Nat) (ws : List Nat) :
    (itemTaken s cell status tick ws).dmaBuf = s.dmaBuf ∧ (itemTaken s cell status tick ws).takeMem.bytes = s.takeMem.bytes := by
  simp [itemTaken]

@[simp] theorem cellSkip_memory (s : State) (c : Nat) :
    (cellSkip s c).dmaBuf = s.dmaBuf ∧ (cellSkip s c).takeMem.bytes = s.takeMem.bytes := by
  simp [cellSkip]

@[simp] theorem cellNext_memory (s : State) (r : CalRun) (x2 : List Nat) :
    (cellNext s r x2).dmaBuf = s.dmaBuf ∧ (cellNext s r x2).takeMem.bytes = s.takeMem.bytes := by
  induction x2 with
  | nil => exact ⟨rfl, rfl⟩
  | cons c cs ih =>
    unfold cellNext
    extract_lets late
    split
    · exact ih
    · (repeat' split) <;> simp

@[simp] theorem pullRelease_memory (s : State) (ch : Nat) :
    (pullRelease s ch).dmaBuf = s.dmaBuf ∧ (pullRelease s ch).takeMem.bytes = s.takeMem.bytes := by
  unfold pullRelease; (repeat' split) <;> simp

@[simp] theorem raiseChan_memory (s : State) (ch : Nat) (src : Nat) (cause : Nat) (tick : Nat) :
    (raiseChan s ch src cause tick).dmaBuf = s.dmaBuf ∧ (raiseChan s ch src cause tick).takeMem.bytes = s.takeMem.bytes := by
  simp [raiseChan]

@[simp] theorem owdCount_memory (s : State) (ch : Nat) (cause : Nat) (t : Nat) :
    (owdCount s ch cause t).dmaBuf = s.dmaBuf ∧ (owdCount s ch cause t).takeMem.bytes = s.takeMem.bytes := by
  simp [owdCount]

@[simp] theorem pullDeclare_memory (s : State) (ch : Nat) :
    (pullDeclare s ch).dmaBuf = s.dmaBuf ∧ (pullDeclare s ch).takeMem.bytes = s.takeMem.bytes := by
  unfold pullDeclare; (repeat' split) <;> simp

@[simp] theorem pullSettle_memory (s : State) (ch : Nat) :
    (pullSettle s ch).dmaBuf = s.dmaBuf ∧ (pullSettle s ch).takeMem.bytes = s.takeMem.bytes := by
  simp [pullSettle]

@[simp] theorem cellSettle_memory (s : State) (c : Nat) :
    (cellSettle s c).dmaBuf = s.dmaBuf ∧ (cellSettle s c).takeMem.bytes = s.takeMem.bytes := by
  simp [cellSettle]

@[simp] theorem rotate_memory (s : State) (c : Nat) (cs : List Nat) :
    (rotate s c cs).dmaBuf = s.dmaBuf ∧ (rotate s c cs).takeMem.bytes = s.takeMem.bytes := by
  simp [rotate]

@[simp] theorem sessionView_memory (s : State) (ses : Nat) :
    (sessionView s ses).dmaBuf = s.dmaBuf ∧ (sessionView s ses).takeMem.bytes = s.takeMem.bytes := by
  simp [sessionView]

@[simp] theorem stageWrite_memory (s : State) (ses : Nat) (w : Wr) :
    (stageWrite s ses w).dmaBuf = s.dmaBuf ∧ (stageWrite s ses w).takeMem.bytes = s.takeMem.bytes := by
  simp [stageWrite]

@[simp] theorem stagedWrite_memory (s : State) (ses : Nat) (w : Wr) :
    (stagedWrite s ses w).1.dmaBuf = s.dmaBuf ∧ (stagedWrite s ses w).1.takeMem.bytes = s.takeMem.bytes := by
  unfold stagedWrite
  extract_lets view
  (repeat' split) <;> simp

@[simp] theorem openHeld_memory (s : State) (ses : Nat) (v : Nat) :
    (openHeld s ses v).1.dmaBuf = s.dmaBuf ∧ (openHeld s ses v).1.takeMem.bytes = s.takeMem.bytes := by
  simp [openHeld]

@[simp] theorem commitHeld_memory (s : State) (ses : Nat) (t : Nat) :
    (commitHeld s ses t).1.dmaBuf = s.dmaBuf ∧ (commitHeld s ses t).1.takeMem.bytes = s.takeMem.bytes := by
  unfold commitHeld; (repeat' split) <;> simp

@[simp] theorem storeBegin_memory (s : State) :
    (storeBegin s).dmaBuf = s.dmaBuf ∧ (storeBegin s).takeMem.bytes = s.takeMem.bytes := by
  simp [storeBegin]

@[simp] theorem storeCommand_memory (s : State) (v : Nat) :
    (storeCommand s v).1.dmaBuf = s.dmaBuf ∧ (storeCommand s v).1.takeMem.bytes = s.takeMem.bytes := by
  simp [storeCommand]

@[simp] theorem factoryCommand_memory (s : State) (v : Nat) :
    (factoryCommand s v).1.dmaBuf = s.dmaBuf ∧ (factoryCommand s v).1.takeMem.bytes = s.takeMem.bytes := by
  unfold factoryCommand; (repeat' split) <;> simp

@[simp] theorem markClock_memory (s : State) :
    (markClock s).dmaBuf = s.dmaBuf ∧ (markClock s).takeMem.bytes = s.takeMem.bytes := by
  simp [markClock]

@[simp] theorem incrementWrite_memory (s : State) (v : Int) :
    (incrementWrite s v).1.dmaBuf = s.dmaBuf ∧ (incrementWrite s v).1.takeMem.bytes = s.takeMem.bytes := by
  simp [incrementWrite]

@[simp] theorem setMode_memory (s : State) (m : Nat) :
    (setMode s m).dmaBuf = s.dmaBuf ∧ (setMode s m).takeMem.bytes = s.takeMem.bytes := by
  simp [setMode]

@[simp] theorem stepClock_memory (s : State) (n : Int) :
    (stepClock s n).dmaBuf = s.dmaBuf ∧ (stepClock s n).takeMem.bytes = s.takeMem.bytes := by
  unfold stepClock
  dsimp only
  split
  · simp
  · refine ⟨(foldl_memory1 _ (fun s b => ?_) _ _).trans (by simp), (foldl_memory2 _ (fun s b => ?_) _ _).trans (by simp)⟩ <;>
      (repeat' split) <;> simp

@[simp] theorem stepWrite_memory (s : State) (n : Int) :
    (stepWrite s n).1.dmaBuf = s.dmaBuf ∧ (stepWrite s n).1.takeMem.bytes = s.takeMem.bytes := by
  simp [stepWrite]

@[simp] theorem setRate_memory (s : State) (r : Int) :
    (setRate s r).dmaBuf = s.dmaBuf ∧ (setRate s r).takeMem.bytes = s.takeMem.bytes := by
  simp [setRate]

@[simp] theorem rateWrite_memory (s : State) (r : Int) :
    (rateWrite s r).1.dmaBuf = s.dmaBuf ∧ (rateWrite s r).1.takeMem.bytes = s.takeMem.bytes := by
  simp [rateWrite]

@[simp] theorem reanchorWrite_memory (s : State) :
    (reanchorWrite s).1.dmaBuf = s.dmaBuf ∧ (reanchorWrite s).1.takeMem.bytes = s.takeMem.bytes := by
  simp [reanchorWrite]

@[simp] theorem slateRequest_memory (s : State) (t : Nat) :
    (slateRequest s t).1.dmaBuf = s.dmaBuf ∧ (slateRequest s t).1.takeMem.bytes = s.takeMem.bytes := by
  simp [slateRequest]

@[simp] theorem sendSlate_memory (s : State) (j : JoinRec) (t : Nat) :
    (sendSlate s j t).dmaBuf = s.dmaBuf ∧ (sendSlate s j t).takeMem.bytes = s.takeMem.bytes := by
  simp [sendSlate]

@[simp] theorem zoneIssue_memory (s : State) (t : Nat) :
    (zoneIssue s t).dmaBuf = s.dmaBuf ∧ (zoneIssue s t).takeMem.bytes = s.takeMem.bytes := by
  unfold zoneIssue; refine foldl_memory _ (fun s b => ?_) _ _; (repeat' split) <;> simp

@[simp] theorem zoneSlate_memory (s : State) (t : Nat) :
    (zoneSlate s t).1.dmaBuf = s.dmaBuf ∧ (zoneSlate s t).1.takeMem.bytes = s.takeMem.bytes := by
  simp [zoneSlate]

@[simp] theorem custodyCommand_memory (s : State) (v : Nat) :
    (custodyCommand s v).1.dmaBuf = s.dmaBuf ∧ (custodyCommand s v).1.takeMem.bytes = s.takeMem.bytes := by
  simp [custodyCommand]

@[simp] theorem dmaTo_memory (s : State) (c : Nat) (st : Nat) :
    (dmaTo s c st).dmaBuf = s.dmaBuf ∧ (dmaTo s c st).takeMem.bytes = s.takeMem.bytes := by
  simp [dmaTo]

@[simp] theorem dmaStop_memory (s : State) (c : Nat) :
    (dmaStop s c).dmaBuf = s.dmaBuf ∧ (dmaStop s c).takeMem.bytes = s.takeMem.bytes := by
  simp [dmaStop]

@[simp] theorem dmaFault_memory (s : State) (c : Nat) (cause : Nat) (target : Nat) (kind : Nat) (addr : Nat) (code : Nat) :
    (dmaFault s c cause target kind addr code).dmaBuf = s.dmaBuf ∧
        (dmaFault s c cause target kind addr code).takeMem.bytes = s.takeMem.bytes := by
  simp [dmaFault]

@[simp] theorem dmaItemLost_memory (s : State) (q : Nat) :
    (dmaItemLost s q).dmaBuf = s.dmaBuf ∧ (dmaItemLost s q).takeMem.bytes = s.takeMem.bytes := by
  unfold dmaItemLost
  dsimp only
  (repeat' split) <;> simp

@[simp] theorem dmaHalt_memory (s : State) (c : Nat) :
    (dmaHalt s c).dmaBuf = s.dmaBuf ∧ (dmaHalt s c).takeMem.bytes = s.takeMem.bytes := by
  simp [dmaHalt]

@[simp] theorem dmaBegin_memory (s : State) (c : Nat) :
    (dmaBegin s c).dmaBuf = s.dmaBuf ∧ (dmaBegin s c).takeMem.bytes = s.takeMem.bytes := by
  simp [dmaBegin]

@[simp] theorem dmaStartCmd_memory (s : State) (c : Nat) :
    (dmaStartCmd s c).1.dmaBuf = s.dmaBuf ∧ (dmaStartCmd s c).1.takeMem.bytes = s.takeMem.bytes := by
  simp [dmaStartCmd]

@[simp] theorem dmaAbortCmd_memory (s : State) (c : Nat) :
    (dmaAbortCmd s c).1.dmaBuf = s.dmaBuf ∧ (dmaAbortCmd s c).1.takeMem.bytes = s.takeMem.bytes := by
  simp [dmaAbortCmd]

@[simp] theorem dmaClearCmd_memory (s : State) (c : Nat) :
    (dmaClearCmd s c).1.dmaBuf = s.dmaBuf ∧ (dmaClearCmd s c).1.takeMem.bytes = s.takeMem.bytes := by
  simp [dmaClearCmd]

@[simp] theorem dmaCommand_memory (s : State) (c : Nat) (v : Nat) :
    (dmaCommand s c v).1.dmaBuf = s.dmaBuf ∧ (dmaCommand s c v).1.takeMem.bytes = s.takeMem.bytes := by
  unfold dmaCommand; (repeat' split) <;> simp

@[simp] theorem rejectTrial_memory (s : State) (cause : Nat) :
    (rejectTrial s cause).dmaBuf = s.dmaBuf ∧ (rejectTrial s cause).takeMem.bytes = s.takeMem.bytes := by
  simp [rejectTrial]

@[simp] theorem showFlash_memory (s : State) :
    (showFlash s).dmaBuf = s.dmaBuf ∧ (showFlash s).takeMem.bytes = s.takeMem.bytes := by
  simp [showFlash]

@[simp] theorem segmentWrite_memory (s : State) (b : Bytes) :
    (segmentWrite s b).1.dmaBuf = s.dmaBuf ∧ (segmentWrite s b).1.takeMem.bytes = s.takeMem.bytes := by
  simp [segmentWrite]

@[simp] theorem debugCommand_memory (s : State) (c : Nat) (v : Nat) :
    (debugCommand s c v).1.dmaBuf = s.dmaBuf ∧ (debugCommand s c v).1.takeMem.bytes = s.takeMem.bytes := by
  unfold debugCommand; (repeat' split) <;> simp

@[simp] theorem lgoRelease_memory (s : State) (i : Nat) :
    (lgoRelease s i).dmaBuf = s.dmaBuf ∧ (lgoRelease s i).takeMem.bytes = s.takeMem.bytes := by
  simp [lgoRelease]

@[simp] theorem clearBits_memory (s : State) (o : Obj) (u : Nat) (sub : Nat) (m : Nat) :
    (clearBits s o u sub m).dmaBuf = s.dmaBuf ∧ (clearBits s o u sub m).takeMem.bytes = s.takeMem.bytes := by
  simp [clearBits]

@[simp] theorem setOccupancy_memory (s : State) :
    (setOccupancy s).dmaBuf = s.dmaBuf ∧ (setOccupancy s).takeMem.bytes = s.takeMem.bytes := by
  simp [setOccupancy]

@[simp] theorem injRequest_memory (s : State) (w : Nat) :
    (injRequest s w).1.dmaBuf = s.dmaBuf ∧ (injRequest s w).1.takeMem.bytes = s.takeMem.bytes := by
  unfold injRequest; (repeat' split) <;> simp

@[simp] theorem injFlush_memory (s : State) :
    (injFlush s).dmaBuf = s.dmaBuf ∧ (injFlush s).takeMem.bytes = s.takeMem.bytes := by
  simp [injFlush]

@[simp] theorem selectionWrite_memory (s : State) (n : Int) :
    (selectionWrite s n).dmaBuf = s.dmaBuf ∧ (selectionWrite s n).takeMem.bytes = s.takeMem.bytes := by
  simp [selectionWrite]

@[simp] theorem imageCellApply_memory (s : State) (c : Nat) (b : Bytes) :
    (imageCellApply s c b).dmaBuf = s.dmaBuf ∧ (imageCellApply s c b).takeMem.bytes = s.takeMem.bytes := by
  simp [imageCellApply]

@[simp] theorem imageWrite_memory (s : State) (b : Bytes) :
    (imageWrite s b).1.dmaBuf = s.dmaBuf ∧ (imageWrite s b).1.takeMem.bytes = s.takeMem.bytes := by
  simp [imageWrite]

@[simp] theorem setTaps_memory (s : State) (set : Nat) (n : Nat) :
    (setTaps s set n).dmaBuf = s.dmaBuf ∧ (setTaps s set n).takeMem.bytes = s.takeMem.bytes := by
  simp [setTaps]

@[simp] theorem deliver_memory (s : State) (k : OccKind) (tick : Nat) (only : Option Nat) :
    (deliver s k tick only).dmaBuf = s.dmaBuf ∧ (deliver s k tick only).takeMem.bytes = s.takeMem.bytes := by
  unfold deliver
  refine foldl_memory _ (fun s b => ?_) _ _
  split
  · exact ⟨rfl, rfl⟩
  · extract_lets s1
    have h1 : s1.dmaBuf = s.dmaBuf ∧ s1.takeMem.bytes = s.takeMem.bytes := by
      simp only [s1]; split <;> simp
    split <;> simp [h1]

@[simp] theorem netTrigger_memory (s : State) (t : Nat) (v : Nat) :
    (netTrigger s t v).dmaBuf = s.dmaBuf ∧ (netTrigger s t v).takeMem.bytes = s.takeMem.bytes := by
  simp [netTrigger]

@[simp] theorem releaseWrite_memory (s : State) (v : Nat) :
    (releaseWrite s v).1.dmaBuf = s.dmaBuf ∧ (releaseWrite s v).1.takeMem.bytes = s.takeMem.bytes := by
  simp [releaseWrite]

@[simp] theorem replayWrite_memory (s : State) (b : Bytes) :
    (replayWrite s b).dmaBuf = s.dmaBuf ∧ (replayWrite s b).takeMem.bytes = s.takeMem.bytes := by
  simp [replayWrite]

@[simp] theorem learn_memory (s : State) :
    (learn s).1.dmaBuf = s.dmaBuf ∧ (learn s).1.takeMem.bytes = s.takeMem.bytes := by
  simp [learn]

@[simp] theorem takeNow_memory (s : State) (k : Nat) (v : Nat) :
    (takeNow s k v).1.dmaBuf = s.dmaBuf ∧ (takeNow s k v).1.takeMem.bytes = s.takeMem.bytes := by
  simp [takeNow]

@[simp] theorem markGrid_memory (s : State) (t : Nat) :
    (markGrid s t).dmaBuf = s.dmaBuf ∧ (markGrid s t).takeMem.bytes = s.takeMem.bytes := by
  simp [markGrid]

@[simp] theorem dinBit_memory (s : State) (i : Nat) (b : Nat) (v : Bool) :
    (dinBit s i b v).dmaBuf = s.dmaBuf ∧ (dinBit s i b v).takeMem.bytes = s.takeMem.bytes := by
  simp [dinBit]

@[simp] theorem unstick_memory (s : State) (i : Nat) (t : Nat) :
    (unstick s i t).dmaBuf = s.dmaBuf ∧ (unstick s i t).takeMem.bytes = s.takeMem.bytes := by
  unfold unstick; (repeat' split) <;> simp

@[simp] theorem dinSetting_memory (s : State) (i : Nat) (sub : Nat) :
    (dinSetting s i sub).dmaBuf = s.dmaBuf ∧ (dinSetting s i sub).takeMem.bytes = s.takeMem.bytes := by
  simp [dinSetting]

@[simp] theorem dropEgress_memory (s : State) (p : Nat) :
    (dropEgress s p).dmaBuf = s.dmaBuf ∧ (dropEgress s p).takeMem.bytes = s.takeMem.bytes := by
  simp [dropEgress]

@[simp] theorem ringRefresh_memory (s : State) :
    (ringRefresh s).dmaBuf = s.dmaBuf ∧ (ringRefresh s).takeMem.bytes = s.takeMem.bytes := by
  simp [ringRefresh]

@[simp] theorem servoHold_memory (s : State) :
    (servoHold s).dmaBuf = s.dmaBuf ∧ (servoHold s).takeMem.bytes = s.takeMem.bytes := by
  simp [servoHold]

@[simp] theorem clockUpstream_memory (s : State) (port : Nat) :
    (clockUpstream s port).dmaBuf = s.dmaBuf ∧ (clockUpstream s port).takeMem.bytes = s.takeMem.bytes := by
  simp [clockUpstream]

@[simp] theorem setUpstream_memory (s : State) (up : Nat) :
    (setUpstream s up).dmaBuf = s.dmaBuf ∧ (setUpstream s up).takeMem.bytes = s.takeMem.bytes := by
  simp [setUpstream]

@[simp] theorem revertWatch_memory (s : State) :
    (revertWatch s).dmaBuf = s.dmaBuf ∧ (revertWatch s).takeMem.bytes = s.takeMem.bytes := by
  simp [revertWatch]

@[simp] theorem chooseUpstream_memory (s : State) :
    (chooseUpstream s).dmaBuf = s.dmaBuf ∧ (chooseUpstream s).takeMem.bytes = s.takeMem.bytes := by
  simp [chooseUpstream]

@[simp] theorem unready_memory (s : State) (p : Nat) :
    (unready s p).dmaBuf = s.dmaBuf ∧ (unready s p).takeMem.bytes = s.takeMem.bytes := by
  simp [unready]

@[simp] theorem linkDown_memory (s : State) (p : Nat) :
    (linkDown s p).dmaBuf = s.dmaBuf ∧ (linkDown s p).takeMem.bytes = s.takeMem.bytes := by
  simp [linkDown]

@[simp] theorem linkRestart_memory (s : State) (p : Nat) :
    (linkRestart s p).dmaBuf = s.dmaBuf ∧ (linkRestart s p).takeMem.bytes = s.takeMem.bytes := by
  simp [linkRestart]

@[simp] theorem consumed_memory (s : State) (v : Nat) :
    (consumed s v).dmaBuf = s.dmaBuf ∧ (consumed s v).takeMem.bytes = s.takeMem.bytes := by
  simp [consumed]

@[simp] theorem plainWrite_memory (s : State) (o : Obj) (u : Nat) (sub : Nat) (n : Int) :
    (plainWrite s o u sub n).dmaBuf = s.dmaBuf ∧ (plainWrite s o u sub n).takeMem.bytes = s.takeMem.bytes := by
  unfold plainWrite; (repeat' split) <;> simp

@[simp] theorem clampOff_memory (s : State) (term : Nat) (t : Nat) :
    (clampOff s term t).dmaBuf = s.dmaBuf ∧ (clampOff s term t).takeMem.bytes = s.takeMem.bytes := by
  simp [clampOff]

@[simp] theorem clampOn_memory (s : State) (term : Nat) (t : Nat) :
    (clampOn s term t).dmaBuf = s.dmaBuf ∧ (clampOn s term t).takeMem.bytes = s.takeMem.bytes := by
  simp [clampOn]

@[simp] theorem closeSes_memory (s : State) (n : Nat) :
    (closeSes s n).dmaBuf = s.dmaBuf ∧ (closeSes s n).takeMem.bytes = s.takeMem.bytes := by
  simp [closeSes]

@[simp] theorem sessionHeard_memory (s : State) (ses : Nat) :
    (sessionHeard s ses).dmaBuf = s.dmaBuf ∧ (sessionHeard s ses).takeMem.bytes = s.takeMem.bytes := by
  simp [sessionHeard]

@[simp] theorem consumeKmp_memory (s : State) (rx : Rx) (b : Bytes) (d : Bool) :
    (consumeKmp s rx b d).dmaBuf = s.dmaBuf ∧ (consumeKmp s rx b d).takeMem.bytes = s.takeMem.bytes := by
  unfold consumeKmp; (repeat' split) <;> simp

@[simp] theorem consume_memory (s : State) (p : Nat) (f : Frame) :
    (consume s p f).dmaBuf = s.dmaBuf ∧ (consume s p f).takeMem.bytes = s.takeMem.bytes := by
  unfold consume
  dsimp only
  (repeat' split) <;> simp

@[simp] theorem copyNext_memory (s : State) :
    (copyNext s).dmaBuf = s.dmaBuf ∧ (copyNext s).takeMem.bytes = s.takeMem.bytes := by
  simp [copyNext]

@[simp] theorem fixTide_memory (s : State) (t : Nat) (f : Fill) (anch : Bool) (tide : Int) :
    (fixTide s t f anch tide).dmaBuf = s.dmaBuf ∧ (fixTide s t f anch tide).takeMem.bytes = s.takeMem.bytes := by
  simp [fixTide]

@[simp] theorem shareUse_memory (s : State) (n : Nat) :
    (shareUse s n).dmaBuf = s.dmaBuf ∧ (shareUse s n).takeMem.bytes = s.takeMem.bytes := by
  simp [shareUse]

@[simp] theorem copySegment_memory (s : State) (v : Bytes) (off : Nat) (len : Nat) :
    (copySegment s v off len).1.dmaBuf = s.dmaBuf ∧ (copySegment s v off len).1.takeMem.bytes = s.takeMem.bytes := by
  simp [copySegment]

@[simp] theorem correctPtp_memory (s : State) (p : Nat) (sub : Nat) (o : OutFrame) (m : PtpMsg) :
    (correctPtp s p sub o m).1.dmaBuf = s.dmaBuf ∧ (correctPtp s p sub o m).1.takeMem.bytes = s.takeMem.bytes := by
  unfold correctPtp; (repeat' split) <;> simp

@[simp] theorem crossIssue_memory (s : State) (x : Nat) (c : CrossIdx) :
    (crossIssue s x c).1.dmaBuf = s.dmaBuf ∧ (crossIssue s x c).1.takeMem.bytes = s.takeMem.bytes := by
  simp [crossIssue]

@[simp] theorem crossOne_memory (s : State) (x : Nat) (pos : Nat) (ch : Nat) (r : Bytes) (c : CrossIdx) :
    (crossOne s x pos ch r c).1.dmaBuf = s.dmaBuf ∧ (crossOne s x pos ch r c).1.takeMem.bytes = s.takeMem.bytes := by
  unfold crossOne
  dsimp only
  (repeat' split) <;> simp

@[simp] theorem crossPerform_memory (s : State) (ch : Nat) (x : Crossing) :
    (crossPerform s ch x).dmaBuf = s.dmaBuf ∧ (crossPerform s ch x).takeMem.bytes = s.takeMem.bytes := by
  simp [crossPerform]

@[simp] theorem crossSettle_memory (s : State) (ch : Nat) :
    (crossSettle s ch).dmaBuf = s.dmaBuf ∧ (crossSettle s ch).takeMem.bytes = s.takeMem.bytes := by
  simp [crossSettle]

@[simp] theorem crossTake_memory (s : State) (x : Nat) (pos : Nat) (r : Bytes) :
    (crossTake s x pos r).1.dmaBuf = s.dmaBuf ∧ (crossTake s x pos r).1.takeMem.bytes = s.takeMem.bytes := by
  unfold crossTake
  split
  · exact ⟨rfl, rfl⟩
  · extract_lets mine c
    split
    · exact ⟨rfl, rfl⟩
    · split
      · simp
      · split
        · exact ⟨rfl, rfl⟩
        · have hf : ∀ (l : List (Nat × Nat)) (p : State × CrossIdx),
              (l.foldl (fun (p : State × CrossIdx) e => crossOne p.1 x pos e.2 r p.2) p).1.dmaBuf = p.1.dmaBuf ∧
              (l.foldl (fun (p : State × CrossIdx) e => crossOne p.1 x pos e.2 r p.2) p).1.takeMem.bytes =
                p.1.takeMem.bytes := by
            intro l
            induction l with
            | nil => exact fun p => ⟨rfl, rfl⟩
            | cons e l ih =>
              intro p
              rw [List.foldl_cons]
              exact ⟨(ih _).1.trans (by simp), (ih _).2.trans (by simp)⟩
          have h1 := hf mine (s, { c with got := setBit c.got pos })
          split
          rename_i x1 s1 c1 heq
          rw [heq] at h1
          split
          · have h2 := crossIssue_memory s1 x c1
            exact ⟨h2.1.trans h1.1, h2.2.trans h1.2⟩
          · simpa using h1

@[simp] theorem spoilResync_memory (s : State) :
    (spoilResync s).dmaBuf = s.dmaBuf ∧ (spoilResync s).takeMem.bytes = s.takeMem.bytes := by
  simp [spoilResync]

@[simp] theorem decSwitch_memory (s : State) (ch : Nat) (t : Nat) (w : Nat) :
    (decSwitch s ch t w).dmaBuf = s.dmaBuf ∧ (decSwitch s ch t w).takeMem.bytes = s.takeMem.bytes := by
  simp [decSwitch]

@[simp] theorem winSample_memory (s : State) (ch : Nat) (g : Nat) (x : Samp) :
    (winSample s ch g x).dmaBuf = s.dmaBuf ∧ (winSample s ch g x).takeMem.bytes = s.takeMem.bytes := by
  simp [winSample]

@[simp] theorem winStart_memory (s : State) (w : Nat) :
    (winStart s w).dmaBuf = s.dmaBuf ∧ (winStart s w).takeMem.bytes = s.takeMem.bytes := by
  unfold winStart; (repeat' split) <;> simp

@[simp] theorem winCatchUp_memory (s : State) (g : Nat) :
    (winCatchUp s g).dmaBuf = s.dmaBuf ∧ (winCatchUp s g).takeMem.bytes = s.takeMem.bytes := by
  unfold winCatchUp; refine foldl_memory _ (fun s b => ?_) _ _; (repeat' split) <;> simp

@[simp] theorem noteCopy_memory (old : State) (s : State) :
    (noteCopy old s).dmaBuf = s.dmaBuf ∧ (noteCopy old s).takeMem.bytes = s.takeMem.bytes := by
  simp [noteCopy]

@[simp] theorem sampleGone_memory (s : State) (ch : Nat) (k : Nat) :
    (sampleGone s ch k).dmaBuf = s.dmaBuf ∧ (sampleGone s ch k).takeMem.bytes = s.takeMem.bytes := by
  unfold sampleGone; refine foldl_memory _ (fun s b => ?_) _ _; (repeat' split) <;> simp

@[simp] theorem ringPush_memory (s : State) (ch : Nat) (g : Nat) (x : Samp) :
    (ringPush s ch g x).dmaBuf = s.dmaBuf ∧ (ringPush s ch g x).takeMem.bytes = s.takeMem.bytes := by
  unfold ringPush
  split
  · split
    · simp
    · split
      · rename_i r _ _ _
        extract_lets depth s1
        have h : ∀ l : List Samp, (l.foldr (fun y s => sampleGone s ch y.k) s1).dmaBuf = s.dmaBuf ∧
            (l.foldr (fun y s => sampleGone s ch y.k) s1).takeMem.bytes = s.takeMem.bytes := by
          intro l
          induction l with
          | nil => exact ⟨rfl, rfl⟩
          | cons y l ih => simp [ih]
        exact h _
      · exact ⟨rfl, rfl⟩
  · exact ⟨rfl, rfl⟩

@[simp] theorem oldTake_memory (s : State) (n : Nat) (o : OldInst) (ch : Nat) (d : Nat) (i : Nat) (w : Nat) :
    (oldTake s n o ch d i w).dmaBuf = s.dmaBuf ∧ (oldTake s n o ch d i w).takeMem.bytes = s.takeMem.bytes := by
  simp [oldTake]

@[simp] theorem endAcc_memory (s : State) (n : Nat) (a : BlkAcc) :
    (endAcc s n a).dmaBuf = s.dmaBuf ∧ (endAcc s n a).takeMem.bytes = s.takeMem.bytes := by
  simp [endAcc]

@[simp] theorem endAccs_memory (s : State) (n : Nat) (p : BlkAcc → Bool) :
    (endAccs s n p).dmaBuf = s.dmaBuf ∧ (endAccs s n p).takeMem.bytes = s.takeMem.bytes := by
  simp [endAccs]

@[simp] theorem streamTake_memory (s : State) (n : Nat) (ch : Nat) (d : Nat) (i : Nat) (w : Nat) :
    (streamTake s n ch d i w).dmaBuf = s.dmaBuf ∧ (streamTake s n ch d i w).takeMem.bytes = s.takeMem.bytes := by
  simp [streamTake]

@[simp] theorem streamSample_memory (s : State) (n : Nat) (ch : Nat) (d : Nat) (i : Nat) (w : Nat) :
    (streamSample s n ch d i w).dmaBuf = s.dmaBuf ∧ (streamSample s n ch d i w).takeMem.bytes = s.takeMem.bytes := by
  unfold streamSample
  split <;> simp

@[simp] theorem streamsSample_memory (s : State) (ch : Nat) (d : Nat) (i : Nat) (w : Nat) :
    (streamsSample s ch d i w).dmaBuf = s.dmaBuf ∧ (streamsSample s ch d i w).takeMem.bytes = s.takeMem.bytes := by
  simp [streamsSample]

@[simp] theorem lgoSample_memory (s : State) (ch : Nat) (d : Nat) (g : Nat) (w : Nat) :
    (lgoSample s ch d g w).dmaBuf = s.dmaBuf ∧ (lgoSample s ch d g w).takeMem.bytes = s.takeMem.bytes := by
  simp [lgoSample]

@[simp] theorem noteStatus_memory (s : State) (ch : Nat) (k : Nat) (d : Nat) (w : Nat) :
    (noteStatus s ch k d w).dmaBuf = s.dmaBuf ∧ (noteStatus s ch k d w).takeMem.bytes = s.takeMem.bytes := by
  simp [noteStatus]

@[simp] theorem dinLevel_memory (s : State) (i : Nat) (t : Nat) (level : Bool) :
    (dinLevel s i t level).dmaBuf = s.dmaBuf ∧ (dinLevel s i t level).takeMem.bytes = s.takeMem.bytes := by
  simp [dinLevel]

@[simp] theorem dinAccept_memory (s : State) (i : Nat) (t : Nat) (edge : Nat) (sub : Nat) (level : Bool) :
    (dinAccept s i t edge sub level).dmaBuf = s.dmaBuf ∧ (dinAccept s i t edge sub level).takeMem.bytes = s.takeMem.bytes := by
  simp [dinAccept]

@[simp] theorem dinEdge_memory (s : State) (i : Nat) (c : DinChange) :
    (dinEdge s i c).dmaBuf = s.dmaBuf ∧ (dinEdge s i c).takeMem.bytes = s.takeMem.bytes := by
  simp [dinEdge]

@[simp] theorem dinOverrun_memory (x0 : Nat) (x1 : State) (x2 : Nat) :
    (dinOverrun x0 x1 x2).dmaBuf = x1.dmaBuf ∧ (dinOverrun x0 x1 x2).takeMem.bytes = x1.takeMem.bytes := by
  induction x0 generalizing x1 with
  | zero => exact ⟨rfl, rfl⟩
  | succ n ih => unfold dinOverrun; simp [ih]

@[simp] theorem dinSilent_memory (s : State) (i : Nat) (t : Nat) (level : Bool) :
    (dinSilent s i t level).dmaBuf = s.dmaBuf ∧ (dinSilent s i t level).takeMem.bytes = s.takeMem.bytes := by
  simp [dinSilent]

@[simp] theorem dinsStart_memory (s : State) :
    (dinsStart s).dmaBuf = s.dmaBuf ∧ (dinsStart s).takeMem.bytes = s.takeMem.bytes := by
  simp [dinsStart]

@[simp] theorem dmaAwait_memory (s : State) (c : Nat) (what : DmaFor) (limit : Nat) :
    (dmaAwait s c what limit).dmaBuf = s.dmaBuf ∧ (dmaAwait s c what limit).takeMem.bytes = s.takeMem.bytes := by
  simp [dmaAwait]

@[simp] theorem dmaBad_memory (s : State) (c : Nat) (cause : Nat) :
    (dmaBad s c cause).dmaBuf = s.dmaBuf ∧ (dmaBad s c cause).takeMem.bytes = s.takeMem.bytes := by
  simp [dmaBad]

@[simp] theorem hostRead_memory (s : State) (a : Nat) (n : Nat) (ns : Bool) :
    (hostRead s a n ns).dmaBuf = s.dmaBuf ∧ (hostRead s a n ns).takeMem.bytes = s.takeMem.bytes := by
  simp [hostRead]

@[simp] theorem readBack_memory (s : State) (c : Nat) :
    (readBack s c).dmaBuf = s.dmaBuf ∧ (readBack s c).takeMem.bytes = s.takeMem.bytes := by
  unfold readBack; (repeat' split) <;> simp

@[simp] theorem dmaNext_memory (s : State) (c : Nat) (pc : Nat) :
    (dmaNext s c pc).dmaBuf = s.dmaBuf ∧ (dmaNext s c pc).takeMem.bytes = s.takeMem.bytes := by
  simp [dmaNext]

@[simp] theorem dmaConfirmed_memory (s : State) (c : Nat) (what : DmaFor) :
    (dmaConfirmed s c what).dmaBuf = s.dmaBuf ∧ (dmaConfirmed s c what).takeMem.bytes = s.takeMem.bytes := by
  unfold dmaConfirmed; (repeat' split) <;> simp

@[simp] theorem dmaConfirm_memory (s : State) (c : Nat) (what : DmaFor) :
    (dmaConfirm s c what).dmaBuf = s.dmaBuf ∧ (dmaConfirm s c what).takeMem.bytes = s.takeMem.bytes := by
  simp [dmaConfirm]

@[simp] theorem startPulse_memory (s : State) (c : Nat) :
    (startPulse s c).dmaBuf = s.dmaBuf ∧ (startPulse s c).takeMem.bytes = s.takeMem.bytes := by
  simp [startPulse]

@[simp] theorem dmaPulse_memory (s : State) (src : Nat) :
    (dmaPulse s src).dmaBuf = s.dmaBuf ∧ (dmaPulse s src).takeMem.bytes = s.takeMem.bytes := by
  simp [dmaPulse]

@[simp] theorem dropClaims_memory (s : State) :
    (dropClaims s).dmaBuf = s.dmaBuf ∧ (dropClaims s).takeMem.bytes = s.takeMem.bytes := by
  simp [dropClaims]

@[simp] theorem elementSwitch_memory (s : State) (x : ElemSwitch) :
    (elementSwitch s x).dmaBuf = s.dmaBuf ∧ (elementSwitch s x).takeMem.bytes = s.takeMem.bytes := by
  unfold elementSwitch
  dsimp only
  split <;> simp

@[simp] theorem showCmps_memory (s : State) (ch : Nat) :
    (showCmps s ch).dmaBuf = s.dmaBuf ∧ (showCmps s ch).takeMem.bytes = s.takeMem.bytes := by
  simp [showCmps]

@[simp] theorem noteDelays_memory (s : State) (ch : Nat) (g : Nat) :
    (noteDelays s ch g).dmaBuf = s.dmaBuf ∧ (noteDelays s ch g).takeMem.bytes = s.takeMem.bytes := by
  simp [noteDelays]

@[simp] theorem showOff_memory (s : State) (ch : Nat) (c : Chan) (b : Chan) :
    (showOff s ch c b).dmaBuf = s.dmaBuf ∧ (showOff s ch c b).takeMem.bytes = s.takeMem.bytes := by
  simp only [showOff, List.foldl]
  (repeat' split) <;> simp

@[simp] theorem streamsMissing_memory (s : State) (ch : Nat) :
    (streamsMissing s ch).dmaBuf = s.dmaBuf ∧ (streamsMissing s ch).takeMem.bytes = s.takeMem.bytes := by
  simp [streamsMissing]

@[simp] theorem winMissing_memory (s : State) (ch : Nat) (g : Nat) (outs : List (Option BandOut)) :
    (winMissing s ch g outs).dmaBuf = s.dmaBuf ∧ (winMissing s ch g outs).takeMem.bytes = s.takeMem.bytes := by
  simp [winMissing]

@[simp] theorem linkLost_memory (s : State) :
    (linkLost s).dmaBuf = s.dmaBuf ∧ (linkLost s).takeMem.bytes = s.takeMem.bytes := by
  simp [linkLost]

@[simp] theorem endpointReset_memory (s : State) :
    (endpointReset s).dmaBuf = s.dmaBuf ∧ (endpointReset s).takeMem.bytes = s.takeMem.bytes := by
  simp [endpointReset]

@[simp] theorem entryDone_memory (s : State) (start : Nat) (b : Nat) (e : Nat) (vs : List Int) :
    (entryDone s start b e vs).dmaBuf = s.dmaBuf ∧ (entryDone s start b e vs).takeMem.bytes = s.takeMem.bytes := by
  simp [entryDone]

@[simp] theorem eraseSlot_memory (s : State) (i : Nat) :
    (eraseSlot s i).dmaBuf = s.dmaBuf ∧ (eraseSlot s i).takeMem.bytes = s.takeMem.bytes := by
  simp [eraseSlot]

@[simp] theorem excEnter_memory (s : State) (unit : ExcUnit) (t : Nat) (conditions : Nat) :
    (excEnter s unit t conditions).dmaBuf = s.dmaBuf ∧ (excEnter s unit t conditions).takeMem.bytes = s.takeMem.bytes := by
  unfold excEnter; (repeat' split) <;> simp

@[simp] theorem excLeave_memory (s : State) (unit : ExcUnit) (t : Nat) :
    (excLeave s unit t).dmaBuf = s.dmaBuf ∧ (excLeave s unit t).takeMem.bytes = s.takeMem.bytes := by
  simp [excLeave]

@[simp] theorem releaseReset_memory (s : State) (straps : Nat) :
    (releaseReset s straps).dmaBuf = s.dmaBuf ∧ (releaseReset s straps).takeMem.bytes = s.takeMem.bytes := by
  simp [releaseReset]

@[simp] theorem snapValue_memory (s : State) (x : Snap) (r : Obj × Nat × Nat) :
    (snapValue s x r).dmaBuf = s.dmaBuf ∧ (snapValue s x r).takeMem.bytes = s.takeMem.bytes := by
  unfold snapValue
  dsimp only
  split <;> simp

@[simp] theorem restoreResult_memory (s : State) (result : Nat) (gen : Nat) :
    (restoreResult s result gen).dmaBuf = s.dmaBuf ∧ (restoreResult s result gen).takeMem.bytes = s.takeMem.bytes := by
  simp [restoreResult]

@[simp] theorem factoryRestore_memory (s : State) (scope : Nat) :
    (factoryRestore s scope).dmaBuf = s.dmaBuf ∧ (factoryRestore s scope).takeMem.bytes = s.takeMem.bytes := by
  unfold factoryRestore; (repeat' split) <;> simp

@[simp] theorem toDefault_memory (s : State) (r : Obj × Nat × Nat) :
    (toDefault s r).dmaBuf = s.dmaBuf ∧ (toDefault s r).takeMem.bytes = s.takeMem.bytes := by
  simp [toDefault]

@[simp] theorem restoreStore_memory (s : State) :
    (restoreStore s).dmaBuf = s.dmaBuf ∧ (restoreStore s).takeMem.bytes = s.takeMem.bytes := by
  unfold restoreStore
  split
  · simp
  · extract_lets rs cfg bad cfg2 n count
    have h1 : cfg.dmaBuf = s.dmaBuf ∧ cfg.takeMem.bytes = s.takeMem.bytes := foldl_memory _ (fun k r => by simp) _ _
    have h2 : cfg2.dmaBuf = s.dmaBuf ∧ cfg2.takeMem.bytes = s.takeMem.bytes := by
      have h := foldl_memory toDefault (fun k r => by simp) bad cfg
      exact ⟨h.1.trans h1.1, h.2.trans h1.2⟩
    have hc : ∀ u : State, (count u).dmaBuf = u.dmaBuf ∧ (count u).takeMem.bytes = u.takeMem.bytes := by
      intro u
      clear_value n
      simp only [count]
      split
      · exact ⟨rfl, rfl⟩
      · exact ⟨(raise_memory _ _ _ _).1.trans (State_setNum_memory u .store 0 12 n).1,
          (raise_memory _ _ _ _).2.trans (State_setNum_memory u .store 0 12 n).2⟩
    clear_value count cfg2
    by_cases hb : restoredSetOk s cfg2 = true
    · rw [if_pos hb]
      split
      · exact ⟨(restoreResult_memory _ _ _).1.trans ((hc cfg2).1.trans h2.1), (restoreResult_memory _ _ _).2.trans
          ((hc cfg2).2.trans h2.2)⟩
      · exact ⟨(raise_memory _ _ _ _).1.trans ((restoreResult_memory _ _ _).1.trans ((hc cfg2).1.trans h2.1)),
          (raise_memory _ _ _ _).2.trans ((restoreResult_memory _ _ _).2.trans ((hc cfg2).2.trans h2.2))⟩
    · rw [if_neg hb]
      exact ⟨(raise_memory _ _ _ _).1.trans ((restoreResult_memory _ _ _).1.trans (hc s).1),
        (raise_memory _ _ _ _).2.trans ((restoreResult_memory _ _ _).2.trans (hc s).2)⟩

@[simp] theorem lgoRestored_memory (s : State) :
    (lgoRestored s).dmaBuf = s.dmaBuf ∧ (lgoRestored s).takeMem.bytes = s.takeMem.bytes := by
  simp [lgoRestored]

@[simp] theorem startCores_memory (s : State) :
    (startCores s).dmaBuf = s.dmaBuf ∧ (startCores s).takeMem.bytes = s.takeMem.bytes := by
  simp [startCores]

@[simp] theorem startFrontEnd_memory (old : State) (s : State) :
    (startFrontEnd old s).dmaBuf = s.dmaBuf ∧ (startFrontEnd old s).takeMem.bytes = s.takeMem.bytes := by
  simp [startFrontEnd]

@[simp] theorem usePartitions_memory (s : State) :
    (usePartitions s).dmaBuf = s.dmaBuf ∧ (usePartitions s).takeMem.bytes = s.takeMem.bytes := by
  simp [usePartitions]

@[simp] theorem startEvents_memory (s : State) :
    (startEvents s).dmaBuf = s.dmaBuf ∧ (startEvents s).takeMem.bytes = s.takeMem.bytes := by
  unfold startEvents
  extract_lets i x s1 s2 s3 s4 s5 s6
  have h1 : s1.dmaBuf = s.dmaBuf ∧ s1.takeMem.bytes = s.takeMem.bytes := by simp [s1]
  have h3 : s3.dmaBuf = s.dmaBuf ∧ s3.takeMem.bytes = s.takeMem.bytes := by simp [s3, s2, h1]
  have h4 : s4.dmaBuf = s.dmaBuf ∧ s4.takeMem.bytes = s.takeMem.bytes := by
    simp only [s4]; split <;> simp [h3]
  simp [s6, s5, h4]

@[simp] theorem startUp_memory (old : State) (s : State) :
    (startUp old s).dmaBuf = s.dmaBuf ∧ (startUp old s).takeMem.bytes = s.takeMem.bytes := by
  unfold startUp
  extract_lets s1 s2 s3 s4
  have h1 : s1.dmaBuf = s.dmaBuf ∧ s1.takeMem.bytes = s.takeMem.bytes := by
    simp only [s1]; exact foldl_memory _ (fun s p => by simp) _ _
  have h2 : s2.dmaBuf = s.dmaBuf ∧ s2.takeMem.bytes = s.takeMem.bytes := by simp [s2, h1]
  have h3 : s3.dmaBuf = s.dmaBuf ∧ s3.takeMem.bytes = s.takeMem.bytes := by simp [s3, h2]
  have h4 : s4.dmaBuf = s.dmaBuf ∧ s4.takeMem.bytes = s.takeMem.bytes := by
    clear_value s3
    simp only [s4]
    refine ⟨(foldl_memory1 _ (fun s p => ?_) _ _).trans ?_, (foldl_memory2 _ (fun s p => ?_) _ _).trans ?_⟩ <;> simp [h3]
  clear_value s4
  simp [h4]

@[simp] theorem takesStart_memory (s : State) (tick : Nat) :
    (takesStart s tick).dmaBuf = s.dmaBuf ∧ (takesStart s tick).takeMem.bytes = s.takeMem.bytes := by
  simp [takesStart]

@[simp] theorem winsStart_memory (s : State) (t : Nat) :
    (winsStart s t).dmaBuf = s.dmaBuf ∧ (winsStart s t).takeMem.bytes = s.takeMem.bytes := by
  simp [winsStart]

@[simp] theorem ovlPerform_memory (s : State) (ch : Nat) (x2 : OvlDue) :
    (ovlPerform s ch x2).dmaBuf = s.dmaBuf ∧ (ovlPerform s ch x2).takeMem.bytes = s.takeMem.bytes := by
  unfold ovlPerform; (repeat' split) <;> simp

@[simp] theorem ovlStep_memory (s : State) (ch : Nat) (p : OvlDue → Bool) :
    (ovlStep s ch p).dmaBuf = s.dmaBuf ∧ (ovlStep s ch p).takeMem.bytes = s.takeMem.bytes := by
  unfold ovlStep; (repeat' split) <;> simp

@[simp] theorem injDone_memory (s : State) (w : Nat) (b : Nat) (e : Nat) (vs : List Int) :
    (injDone s w b e vs).dmaBuf = s.dmaBuf ∧ (injDone s w b e vs).takeMem.bytes = s.takeMem.bytes := by
  simp [injDone]

@[simp] theorem ovlSettle_memory (s : State) (ch : Nat) :
    (ovlSettle s ch).dmaBuf = s.dmaBuf ∧ (ovlSettle s ch).takeMem.bytes = s.takeMem.bytes := by
  simp [ovlSettle]

@[simp] theorem fadeDone_memory (s : State) (ch : Nat) :
    (fadeDone s ch).dmaBuf = s.dmaBuf ∧ (fadeDone s ch).takeMem.bytes = s.takeMem.bytes := by
  simp [fadeDone]

@[simp] theorem winSwitch_memory (s : State) (ch : Nat) (t : Nat) :
    (winSwitch s ch t).dmaBuf = s.dmaBuf ∧ (winSwitch s ch t).takeMem.bytes = s.takeMem.bytes := by
  simp [winSwitch]

@[simp] theorem streamsSwitch_memory (s : State) (ch : Nat) (d : Nat) (d' : Nat) (t : Nat) :
    (streamsSwitch s ch d d' t).dmaBuf = s.dmaBuf ∧ (streamsSwitch s ch d d' t).takeMem.bytes = s.takeMem.bytes := by
  simp [streamsSwitch]

@[simp] theorem putOnWire_memory (s : State) (p : Nat) (c : Nat) (o : OutFrame) (rest : List OutFrame) (f : Frame) :
    (putOnWire s p c o rest f).dmaBuf = s.dmaBuf ∧ (putOnWire s p c o rest f).takeMem.bytes = s.takeMem.bytes := by
  simp [putOnWire]

@[simp] theorem servoStep_memory (s : State) (offset : Int) :
    (servoStep s offset).dmaBuf = s.dmaBuf ∧ (servoStep s offset).takeMem.bytes = s.takeMem.bytes := by
  simp [servoStep]

@[simp] theorem servoSync_memory (s : State) (offset : Int) :
    (servoSync s offset).dmaBuf = s.dmaBuf ∧ (servoSync s offset).takeMem.bytes = s.takeMem.bytes := by
  simp [servoSync]

@[simp] theorem syncTake_memory (s : State) (port : Nat) (t2 : Int) (origin : Int) (corr : Int) :
    (syncTake s port t2 origin corr).dmaBuf = s.dmaBuf ∧ (syncTake s port t2 origin corr).takeMem.bytes = s.takeMem.bytes := by
  simp [syncTake]

@[simp] theorem sendPtp_memory (s : State) (p : Nat) (rx : Int) (m : PtpMsg) :
    (sendPtp s p rx m).dmaBuf = s.dmaBuf ∧ (sendPtp s p rx m).takeMem.bytes = s.takeMem.bytes := by
  simp [sendPtp]

@[simp] theorem modPdelay_memory (s : State) (p : Nat) (f : Pdelay → Pdelay) :
    (modPdelay s p f).dmaBuf = s.dmaBuf ∧ (modPdelay s p f).takeMem.bytes = s.takeMem.bytes := by
  simp [modPdelay]

@[simp] theorem linkMeasured_memory (s : State) (p : Nat) (delay : Int) :
    (linkMeasured s p delay).dmaBuf = s.dmaBuf ∧ (linkMeasured s p delay).takeMem.bytes = s.takeMem.bytes := by
  simp [linkMeasured]

@[simp] theorem pdelayTake_memory (s : State) (p : Nat) (rx : Rx) (m : PtpMsg) :
    (pdelayTake s p rx m).dmaBuf = s.dmaBuf ∧ (pdelayTake s p rx m).takeMem.bytes = s.takeMem.bytes := by
  unfold pdelayTake
  extract_lets ts d mine
  split
  · simp
  · (repeat' split) <;> simp
  · split <;> simp
  · exact ⟨rfl, rfl⟩

@[simp] theorem gridTo_memory (s : State) (st : Nat) (t : Nat) :
    (gridTo s st t).dmaBuf = s.dmaBuf ∧ (gridTo s st t).takeMem.bytes = s.takeMem.bytes := by
  simp [gridTo]

@[simp] theorem snapsPassed_memory (s : State) (t : Nat) :
    (snapsPassed s t).dmaBuf = s.dmaBuf ∧ (snapsPassed s t).takeMem.bytes = s.takeMem.bytes := by
  simp [snapsPassed]

@[simp] theorem moveTicks_memory (s : State) (d : Int) :
    (moveTicks s d).dmaBuf = s.dmaBuf ∧ (moveTicks s d).takeMem.bytes = s.takeMem.bytes := by
  simp [moveTicks]

@[simp] theorem takeLoad_memory (s : State) (t : Nat) (tick : Nat) :
    (takeLoad s t tick).dmaBuf = s.dmaBuf ∧ (takeLoad s t tick).takeMem.bytes = s.takeMem.bytes := by
  simp [takeLoad]

@[simp] theorem winsReanchor_memory (s : State) (a : Nat) :
    (winsReanchor s a).dmaBuf = s.dmaBuf ∧ (winsReanchor s a).takeMem.bytes = s.takeMem.bytes := by
  simp [winsReanchor]

@[simp] theorem takesReanchor_memory (s : State) :
    (takesReanchor s).dmaBuf = s.dmaBuf ∧ (takesReanchor s).takeMem.bytes = s.takeMem.bytes := by
  unfold takesReanchor
  dsimp only
  refine foldl_memory _ (fun s b => ?_) _ _
  (repeat' split) <;> simp

@[simp] theorem tpoAfter_memory (s : State) (p : Nat) (i : Nat) :
    (tpoAfter s p i).dmaBuf = s.dmaBuf ∧ (tpoAfter s p i).takeMem.bytes = s.takeMem.bytes := by
  simp [tpoAfter]

@[simp] theorem windowEnd_memory (s : State) (c : Nat) (m : Nat) (t : Nat) (est : List Int) :
    (windowEnd s c m t est).dmaBuf = s.dmaBuf ∧ (windowEnd s c m t est).takeMem.bytes = s.takeMem.bytes := by
  simp [windowEnd]

@[simp] theorem readAnswer_memory (r : State × Code × Bytes) :
    (readAnswer r).dmaBuf = r.1.dmaBuf ∧ (readAnswer r).takeMem.bytes = r.1.takeMem.bytes := by
  unfold readAnswer
  simp

@[simp] theorem readEffect_memory (s : State) (o : Obj) (u : Nat) (sub : Nat) :
    (readEffect s o u sub).dmaBuf = s.dmaBuf ∧ (readEffect s o u sub).takeMem.bytes = s.takeMem.bytes := by
  unfold readEffect; (repeat' split) <;> simp

@[simp] theorem serveRead_memory (s : State) (who : Nat) (idx : Nat) (sub : Nat) :
    (serveRead s who idx sub).1.dmaBuf = s.dmaBuf ∧ (serveRead s who idx sub).1.takeMem.bytes = s.takeMem.bytes := by
  unfold serveRead; (repeat' split) <;> simp

@[simp] theorem takeJoin_memory (s : State) (t : Nat) (o : Occ) :
    (takeJoin s t o).dmaBuf = s.dmaBuf ∧ (takeJoin s t o).takeMem.bytes = s.takeMem.bytes := by
  unfold takeJoin; (repeat' split) <;> simp

@[simp] theorem lgoRecord_memory (s : State) (w : Nat) (b : Bytes) :
    (lgoRecord s w b).dmaBuf = s.dmaBuf ∧ (lgoRecord s w b).takeMem.bytes = s.takeMem.bytes := by
  simp [lgoRecord]

@[simp] theorem winIssue_memory (s : State) (w : Nat) (index : Nat) (dest : Nat) (miss : Bool) (bs : Bytes) :
    (winIssue s w index dest miss bs).dmaBuf = s.dmaBuf ∧ (winIssue s w index dest miss bs).takeMem.bytes = s.takeMem.bytes := by
  simp [winIssue]

@[simp] theorem sendItems_memory (s : State) (p : Space) (is : List Item) (again : Bool) :
    (sendItems s p is again).dmaBuf = s.dmaBuf ∧ (sendItems s p is again).takeMem.bytes = s.takeMem.bytes := by
  unfold sendItems; (repeat' split) <;> simp

@[simp] theorem useResend_memory (s : State) (n : Nat) :
    (useResend s n).dmaBuf = s.dmaBuf ∧ (useResend s n).takeMem.bytes = s.takeMem.bytes := by
  simp [useResend]

@[simp] theorem sendAgain_memory (x0 : Nat) (x1 : State) (x2 : Nat) (x3 : Nat) :
    (sendAgain x0 x1 x2 x3).dmaBuf = x1.dmaBuf ∧ (sendAgain x0 x1 x2 x3).takeMem.bytes = x1.takeMem.bytes := by
  induction x0 generalizing x1 with
  | zero => exact ⟨rfl, rfl⟩
  | succ n ih =>
    unfold sendAgain
    split
    · exact ⟨rfl, rfl⟩
    · extract_lets is len
      split
      · exact ⟨rfl, rfl⟩
      · exact ⟨(ih _).1.trans (by simp), (ih _).2.trans (by simp)⟩

@[simp] theorem sendAgainAll_memory (s : State) :
    (sendAgainAll s).dmaBuf = s.dmaBuf ∧ (sendAgainAll s).takeMem.bytes = s.takeMem.bytes := by
  unfold sendAgainAll
  exact foldl_memory _ (fun s p => by simp) _ _

@[simp] theorem sendWorker_memory (s : State) (ident : Nat) (b : Bytes) :
    (sendWorker s ident b).dmaBuf = s.dmaBuf ∧ (sendWorker s ident b).takeMem.bytes = s.takeMem.bytes := by
  unfold sendWorker; (repeat' split) <;> simp

@[simp] theorem sendNack_memory (s : State) (k : AckSt) (rs : List (Nat × Nat)) :
    (sendNack s k rs).dmaBuf = s.dmaBuf ∧ (sendNack s k rs).takeMem.bytes = s.takeMem.bytes := by
  simp [sendNack]

@[simp] theorem sendAck_memory (s : State) (k : AckSt) :
    (sendAck s k).dmaBuf = s.dmaBuf ∧ (sendAck s k).takeMem.bytes = s.takeMem.bytes := by
  simp [sendAck]

@[simp] theorem nackHoles_memory (s : State) (k : AckSt) (due : Nat × Nat × Option Nat → Bool) :
    (nackHoles s k due).dmaBuf = s.dmaBuf ∧ (nackHoles s k due).takeMem.bytes = s.takeMem.bytes := by
  unfold nackHoles
  extract_lets at_ ns rs
  split <;> simp

@[simp] theorem recover_memory (s : State) :
    (recover s).dmaBuf = s.dmaBuf ∧ (recover s).takeMem.bytes = s.takeMem.bytes := by
  simp [recover]

@[simp] theorem uplinkResend_memory (s : State) (all : Bool) (nums : List Nat) :
    (uplinkResend s all nums).dmaBuf = s.dmaBuf ∧ (uplinkResend s all nums).takeMem.bytes = s.takeMem.bytes := by
  simp [uplinkResend]

@[simp] theorem sendFull_memory (x0 : Nat) (x1 : State) :
    (sendFull x0 x1).dmaBuf = x1.dmaBuf ∧ (sendFull x0 x1).takeMem.bytes = x1.takeMem.bytes := by
  induction x0 generalizing x1 with
  | zero => exact ⟨rfl, rfl⟩
  | succ n ih =>
    unfold sendFull
    split
    · split
      · exact ⟨(ih _).1.trans (by simp), (ih _).2.trans (by simp)⟩
      · exact ⟨rfl, rfl⟩
    · exact ⟨rfl, rfl⟩

@[simp] theorem hiddenFault_memory (s : State) (part : Nat) :
    (hiddenFault s part).dmaBuf = s.dmaBuf ∧ (hiddenFault s part).takeMem.bytes = s.takeMem.bytes := by
  unfold hiddenFault
  extract_lets s1 s2 y s3
  have h1 : s1.dmaBuf = s.dmaBuf ∧ s1.takeMem.bytes = s.takeMem.bytes := by simp [s1]
  have h2 : s2.dmaBuf = s.dmaBuf ∧ s2.takeMem.bytes = s.takeMem.bytes := by simp [s2, h1]
  have h3 : s3.dmaBuf = s.dmaBuf ∧ s3.takeMem.bytes = s.takeMem.bytes := by simp [s3, h2]
  clear_value s3
  split
  · simp [h2]
  · split
    · refine ⟨(foldl_memory1 _ (fun s b => ?_) _ _).trans h3.1, (foldl_memory2 _ (fun s b => ?_) _ _).trans h3.2⟩ <;>
        (repeat' split) <;> simp
    · exact h3

@[simp] theorem startTestEnd_memory (s : State) (c : Nat) (pass : Bool) :
    (startTestEnd s c pass).dmaBuf = s.dmaBuf ∧ (startTestEnd s c pass).takeMem.bytes = s.takeMem.bytes := by
  simp [startTestEnd]

@[simp] theorem returnCore_memory (s : State) (c : Nat) :
    (returnCore s c).dmaBuf = s.dmaBuf ∧ (returnCore s c).takeMem.bytes = s.takeMem.bytes := by
  simp [returnCore]

@[simp] theorem giveVerdict_memory (s : State) (v : Nat) (stop : Nat) :
    (giveVerdict s v stop).dmaBuf = s.dmaBuf ∧ (giveVerdict s v stop).takeMem.bytes = s.takeMem.bytes := by
  simp [giveVerdict]

@[simp] theorem joinCore_memory (s : State) (r : Resync) :
    (joinCore s r).dmaBuf = s.dmaBuf ∧ (joinCore s r).takeMem.bytes = s.takeMem.bytes := by
  simp [joinCore]

@[simp] theorem noteCorrected_memory (s : State) (q : Nat) :
    (noteCorrected s q).dmaBuf = s.dmaBuf ∧ (noteCorrected s q).takeMem.bytes = s.takeMem.bytes := by
  simp [noteCorrected]

@[simp] theorem settlePush_memory (s : State) (q : Nat) :
    (settlePush s q).dmaBuf = s.dmaBuf ∧ (settlePush s q).takeMem.bytes = s.takeMem.bytes := by
  unfold settlePush
  dsimp only
  (repeat' split) <;> simp

@[simp] theorem putMain_memory (s : State) (k : Nat) (b : Bytes) :
    (putMain s k b).dmaBuf = s.dmaBuf ∧ (putMain s k b).takeMem.bytes = s.takeMem.bytes := by
  simp [putMain]

@[simp] theorem mergeRecord_memory (s : State) (seq : Nat) :
    (mergeRecord s seq).1.dmaBuf = s.dmaBuf ∧ (mergeRecord s seq).1.takeMem.bytes = s.takeMem.bytes := by
  unfold mergeRecord; (repeat' split) <;> simp

@[simp] theorem showComplete_memory (s : State) :
    (showComplete s).dmaBuf = s.dmaBuf ∧ (showComplete s).takeMem.bytes = s.takeMem.bytes := by
  simp [showComplete]

@[simp] theorem recordEvent_memory (s : State) (e : EvItem) (kmp : Bool) :
    (recordEvent s e kmp).dmaBuf = s.dmaBuf ∧ (recordEvent s e kmp).takeMem.bytes = s.takeMem.bytes := by
  unfold recordEvent
  dsimp only
  split
  · split <;> simp
  · simp

@[simp] theorem routeEvent_memory (s : State) (e : EvItem) :
    (routeEvent s e).dmaBuf = s.dmaBuf ∧ (routeEvent s e).takeMem.bytes = s.takeMem.bytes := by
  simp [routeEvent]

@[simp] theorem routeItem_memory (s : State) (e : EvItem) :
    (routeItem s e).dmaBuf = s.dmaBuf ∧ (routeItem s e).takeMem.bytes = s.takeMem.bytes := by
  simp [routeItem]

@[simp] theorem fetchInstr_memory (s : State) (c : Nat) (ecc : Ecc) :
    (fetchInstr s c ecc).dmaBuf = s.dmaBuf ∧ (fetchInstr s c ecc).takeMem.bytes = s.takeMem.bytes := by
  unfold fetchInstr; (repeat' split) <;> simp

@[simp] theorem readBeat_memory (s : State) (c : Nat) (m : DmaMove) (host : Option Bytes) :
    (readBeat s c m host).dmaBuf = s.dmaBuf ∧ (readBeat s c m host).takeMem.bytes = s.takeMem.bytes := by
  unfold readBeat
  dsimp only
  split <;> simp

@[simp] theorem moveBegin_memory (s : State) (c : Nat) (w : Nat) :
    (moveBegin s c w).dmaBuf = s.dmaBuf ∧ (moveBegin s c w).takeMem.bytes = s.takeMem.bytes := by
  simp [moveBegin]

@[simp] theorem requestFault_memory (s : State) (c : Nat) (cause : Nat) (r : DmaReq) (code : Nat) :
    (requestFault s c cause r code).dmaBuf = s.dmaBuf ∧ (requestFault s c cause r code).takeMem.bytes = s.takeMem.bytes := by
  simp [requestFault]

@[simp] theorem readAnswered_memory (s : State) (c : Nat) (r : DmaReq) :
    (readAnswered s c r).dmaBuf = s.dmaBuf ∧ (readAnswered s c r).takeMem.bytes = s.takeMem.bytes := by
  simp [readAnswered]

@[simp] theorem takeLinkCheck_memory (s : State) (p : Nat) (ident : Nat) (t : Nat) :
    (takeLinkCheck s p ident t).dmaBuf = s.dmaBuf ∧ (takeLinkCheck s p ident t).takeMem.bytes = s.takeMem.bytes := by
  simp [takeLinkCheck]

@[simp] theorem managerHello_memory (s : State) (p : Nat) (t : Nat) (m : Kmp) :
    (managerHello s p t m).dmaBuf = s.dmaBuf ∧ (managerHello s p t m).takeMem.bytes = s.takeMem.bytes := by
  simp [managerHello]

@[simp] theorem workerHello_memory (s : State) (p : Nat) (t : Nat) (m : Kmp) :
    (workerHello s p t m).dmaBuf = s.dmaBuf ∧ (workerHello s p t m).takeMem.bytes = s.takeMem.bytes := by
  simp [workerHello]

@[simp] theorem forward_memory (s : State) (p : Nat) (out : Nat) (f : Frame) :
    (forward s p out f).dmaBuf = s.dmaBuf ∧ (forward s p out f).takeMem.bytes = s.takeMem.bytes := by
  simp [forward]

@[simp] theorem gmAnswer_memory (s : State) (p : Nat) (f : Frame) (m : PtpMsg) :
    (gmAnswer s p f m).dmaBuf = s.dmaBuf ∧ (gmAnswer s p f m).takeMem.bytes = s.takeMem.bytes := by
  simp [gmAnswer]

@[simp] theorem managerFrame_memory (s : State) (p : Nat) (f : Frame) :
    (managerFrame s p f).dmaBuf = s.dmaBuf ∧ (managerFrame s p f).takeMem.bytes = s.takeMem.bytes := by
  unfold managerFrame; (repeat' split) <;> simp

@[simp] theorem takeAndForward_memory (s : State) (p : Nat) (out : Nat) (f : Frame) :
    (takeAndForward s p out f).dmaBuf = s.dmaBuf ∧ (takeAndForward s p out f).takeMem.bytes = s.takeMem.bytes := by
  simp [takeAndForward]

@[simp] theorem workerFrame_memory (s : State) (p : Nat) (f : Frame) :
    (workerFrame s p f).dmaBuf = s.dmaBuf ∧ (workerFrame s p f).takeMem.bytes = s.takeMem.bytes := by
  unfold workerFrame; (repeat' split) <;> simp

@[simp] theorem stampOwn_memory (s : State) (p : Nat) (sub : Nat) (o : OutFrame) :
    (stampOwn s p sub o).1.dmaBuf = s.dmaBuf ∧ (stampOwn s p sub o).1.takeMem.bytes = s.takeMem.bytes := by
  unfold stampOwn; (repeat' split) <;> simp

@[simp] theorem reachRefresh_memory (s : State) :
    (reachRefresh s).dmaBuf = s.dmaBuf ∧ (reachRefresh s).takeMem.bytes = s.takeMem.bytes := by
  simp [reachRefresh]

@[simp] theorem sendAnswer_memory (r : Served) (rx : Rx) (m : Kmp) (ses : Nat) :
    (sendAnswer r rx m ses).dmaBuf = r.1.dmaBuf ∧ (sendAnswer r rx m ses).takeMem.bytes = r.1.takeMem.bytes := by
  unfold sendAnswer
  (repeat' split) <;> simp

@[simp] theorem keepAnswer_memory (s : State) (ses : Nat) (tid : Nat) (c : Code) (body : Bytes) :
    (keepAnswer s ses tid c body).dmaBuf = s.dmaBuf ∧ (keepAnswer s ses tid c body).takeMem.bytes = s.takeMem.bytes := by
  unfold keepAnswer; (repeat' split) <;> simp

@[simp] theorem readOne_memory (who : Nat) (room : Nat) (a : State × Bytes) (e : (Nat × Nat) × Nat) (later : Nat) :
    (readOne who room a e later).1.dmaBuf = a.1.dmaBuf ∧ (readOne who room a e later).1.takeMem.bytes = a.1.takeMem.bytes := by
  unfold readOne
  dsimp only
  split <;> simp

@[simp] theorem readAll_memory (s : State) (who : Nat) (room : Nat) (es : List (Nat × Nat)) :
    (readAll s who room es).1.dmaBuf = s.dmaBuf ∧ (readAll s who room es).1.takeMem.bytes = s.takeMem.bytes := by
  unfold readAll
  generalize es.zipIdx = l
  suffices h : ∀ (l : List ((Nat × Nat) × Nat)) (a : State × Bytes),
      (l.foldl (fun a e => readOne who room a e (es.length - 1 - e.2)) a).1.dmaBuf = a.1.dmaBuf ∧
      (l.foldl (fun a e => readOne who room a e (es.length - 1 - e.2)) a).1.takeMem.bytes = a.1.takeMem.bytes from h l (s, [])
  intro l
  induction l with
  | nil => exact fun a => ⟨rfl, rfl⟩
  | cons e l ih =>
    intro a
    have h1 : (readOne who room a e (es.length - 1 - e.2)).1.dmaBuf = a.1.dmaBuf ∧
        (readOne who room a e (es.length - 1 - e.2)).1.takeMem.bytes = a.1.takeMem.bytes := by
      unfold readOne; dsimp only; split <;> simp
    rw [List.foldl_cons]
    exact ⟨(ih _).1.trans h1.1, (ih _).2.trans h1.2⟩

@[simp] theorem putCopy_memory (s : State) (ses : Nat) (mac : Nat) (k : Option BlockCopy) :
    (putCopy s ses mac k).dmaBuf = s.dmaBuf ∧ (putCopy s ses mac k).takeMem.bytes = s.takeMem.bytes := by
  simp [putCopy]

@[simp] theorem readObjectBlock_memory (s : State) (rx : Rx) (m : Kmp) (idx : Nat) (sub : Nat) (off : Nat) (len : Nat) :
    (readObjectBlock s rx m idx sub off len).1.dmaBuf = s.dmaBuf ∧
        (readObjectBlock s rx m idx sub off len).1.takeMem.bytes = s.takeMem.bytes := by
  unfold readObjectBlock
  dsimp only
  split
  · split <;> simp
  · (repeat' split) <;> simp

@[simp] theorem putAsm_memory (s : State) (ses : Nat) (a : Option (Nat × Nat × Nat × Bytes)) :
    (putAsm s ses a).dmaBuf = s.dmaBuf ∧ (putAsm s ses a).takeMem.bytes = s.takeMem.bytes := by
  unfold putAsm; (repeat' split) <;> simp

@[simp] theorem openSession_memory (s : State) (rx : Rx) (m : Kmp) :
    (openSession s rx m).dmaBuf = s.dmaBuf ∧ (openSession s rx m).takeMem.bytes = s.takeMem.bytes := by
  unfold openSession
  extract_lets t l n s1
  have h1 : s1.dmaBuf = s.dmaBuf ∧ s1.takeMem.bytes = s.takeMem.bytes := by simp [s1]
  (repeat' split)
  · simp
  · simp
  · simp
  · simp [h1]

@[simp] theorem sendNotify_memory (s : State) (m : Kmp) :
    (sendNotify s m).dmaBuf = s.dmaBuf ∧ (sendNotify s m).takeMem.bytes = s.takeMem.bytes := by
  simp [sendNotify]

@[simp] theorem msixSend_memory (s : State) (v : Nat) :
    (msixSend s v).dmaBuf = s.dmaBuf ∧ (msixSend s v).takeMem.bytes = s.takeMem.bytes := by
  simp [msixSend]

@[simp] theorem lgoRequest_memory (s : State) (mask : Nat) (tick : Nat) :
    (lgoRequest s mask tick).dmaBuf = s.dmaBuf ∧ (lgoRequest s mask tick).takeMem.bytes = s.takeMem.bytes := by
  simp [lgoRequest]

@[simp] theorem lineAct_memory (s : State) (line : RouteLine) (o : RouteOcc) :
    (lineAct s line o).dmaBuf = s.dmaBuf ∧ (lineAct s line o).takeMem.bytes = s.takeMem.bytes := by
  unfold lineAct; (repeat' split) <;> simp

@[simp] theorem notStored_memory (s : State) (r : PendRec) :
    (notStored s r).dmaBuf = s.dmaBuf ∧ (notStored s r).takeMem.bytes = s.takeMem.bytes := by
  simp [notStored]

@[simp] theorem noteWritten_memory (s : State) (r : PendRec) :
    (noteWritten s r).dmaBuf = s.dmaBuf ∧ (noteWritten s r).takeMem.bytes = s.takeMem.bytes := by
  simp [noteWritten]

@[simp] theorem failEmergency_memory (s : State) (e : Nat) :
    (failEmergency s e).dmaBuf = s.dmaBuf ∧ (failEmergency s e).takeMem.bytes = s.takeMem.bytes := by
  simp [failEmergency]

@[simp] theorem waitRecord_memory (s : State) (r : PendRec) :
    (waitRecord s r).dmaBuf = s.dmaBuf ∧ (waitRecord s r).takeMem.bytes = s.takeMem.bytes := by
  simp [waitRecord]

@[simp] theorem writeEmergency_memory (s : State) (r : PendRec) (ok : Bool) :
    (writeEmergency s r ok).dmaBuf = s.dmaBuf ∧ (writeEmergency s r ok).takeMem.bytes = s.takeMem.bytes := by
  unfold writeEmergency; (repeat' split) <;> simp

@[simp] theorem failMainSlot_memory (s : State) (k : Nat) :
    (failMainSlot s k).dmaBuf = s.dmaBuf ∧ (failMainSlot s k).takeMem.bytes = s.takeMem.bytes := by
  simp [failMainSlot]

@[simp] theorem putSlot_memory (s : State) (k : Nat) (x : HostSlot) :
    (putSlot s k x).dmaBuf = s.dmaBuf ∧ (putSlot s k x).takeMem.bytes = s.takeMem.bytes := by
  simp [putSlot]

@[simp] theorem signalAnswer_memory (s : State) :
    (signalAnswer s).dmaBuf = s.dmaBuf ∧ (signalAnswer s).takeMem.bytes = s.takeMem.bytes := by
  simp [signalAnswer]

@[simp] theorem lgoSettings_memory (s : State) (i : Nat) (u : Nat) :
    (lgoSettings s i u).dmaBuf = s.dmaBuf ∧ (lgoSettings s i u).takeMem.bytes = s.takeMem.bytes := by
  simp [lgoSettings]

@[simp] theorem lgoFaultIn_memory (s : State) (i : Nat) (u : Nat) :
    (lgoFaultIn s i u).dmaBuf = s.dmaBuf ∧ (lgoFaultIn s i u).takeMem.bytes = s.takeMem.bytes := by
  simp [lgoFaultIn]

@[simp] theorem lgoApply_memory (s : State) (i : Nat) (u : Nat) (setting : Nat) :
    (lgoApply s i u setting).dmaBuf = s.dmaBuf ∧ (lgoApply s i u setting).takeMem.bytes = s.takeMem.bytes := by
  simp [lgoApply]

@[simp] theorem lgoFaultWave_memory (s : State) (i : Nat) (u : Nat) :
    (lgoFaultWave s i u).dmaBuf = s.dmaBuf ∧ (lgoFaultWave s i u).takeMem.bytes = s.takeMem.bytes := by
  simp [lgoFaultWave]

@[simp] theorem lgoTake_memory (s : State) (i : Nat) (ch : Nat) (u : Nat) (v : Int) (record : Option Nat) :
    (lgoTake s i ch u v record).dmaBuf = s.dmaBuf ∧ (lgoTake s i ch u v record).takeMem.bytes = s.takeMem.bytes := by
  simp [lgoTake]

@[simp] theorem lgoShow_memory (s : State) (i : Nat) :
    (lgoShow s i).dmaBuf = s.dmaBuf ∧ (lgoShow s i).takeMem.bytes = s.takeMem.bytes := by
  simp [lgoShow]

@[simp] theorem objectRefused_memory (s : State) (c : Code) :
    (objectRefused s c).1.dmaBuf = s.dmaBuf ∧ (objectRefused s c).1.takeMem.bytes = s.takeMem.bytes := by
  simp [objectRefused]

@[simp] theorem sramStore_memory (s : State) (x1 : Nat) (x2 : Bytes) :
    (sramStore s x1 x2).dmaBuf = s.dmaBuf ∧ (sramStore s x1 x2).takeMem.bytes = s.takeMem.bytes := by
  induction x2 generalizing s x1 with
  | nil => exact ⟨rfl, rfl⟩
  | cons b bs ih => unfold sramStore; simp [ih]

@[simp] theorem recoverImage_memory (s : State) (a : Nat) (b : Bytes) :
    (recoverImage s a b).dmaBuf = s.dmaBuf ∧ (recoverImage s a b).takeMem.bytes = s.takeMem.bytes := by
  simp [recoverImage]

@[simp] theorem lgoTick_memory (s : State) :
    (lgoTick s).dmaBuf = s.dmaBuf ∧ (lgoTick s).takeMem.bytes = s.takeMem.bytes := by
  simp [lgoTick]

@[simp] theorem gridTick_memory (s : State) :
    (gridTick s).dmaBuf = s.dmaBuf ∧ (gridTick s).takeMem.bytes = s.takeMem.bytes := by
  simp [gridTick]

end Sys2Proof.Machine
end

