-- ==== Sys2Proof/Laws/MemoryKept.lean ====
section
/-! SUPPORT. Every operation of the machine that may write a memory, and every function that calls one, keeps both memories in their
canonical form. -/

namespace Sys2Proof.Machine

open Sys2Proof

/-- Any bytes stored keep the form. -/
@[simp] theorem regionStore_wf (bs : Bytes) (m : List Host.Cell) (a : Nat) (h : Memory.wf m = true) :
    Memory.wf (regionStore m a bs) = true := by
  induction bs generalizing m a with
  | nil => exact h
  | cons b bs ih => exact ih _ _ (Memory.wf_byte h a b)

@[simp] theorem ite_wf (c : Prop) [Decidable c] (a b : List Host.Cell) :
    Memory.wf (if c then a else b) = if c then Memory.wf a else Memory.wf b := apply_ite ..

/-- A fold whose every step keeps the form keeps it. -/
theorem foldl_wf {β : Type} (f : State → β → State)
    (h : ∀ s b, Memory.wf s.dmaBuf = true → Memory.wf s.takeMem.bytes = true →
      Memory.wf (f s b).dmaBuf = true ∧ Memory.wf (f s b).takeMem.bytes = true)
    (l : List β) (s : State) (hd : Memory.wf s.dmaBuf = true) (hb : Memory.wf s.takeMem.bytes = true) :
    Memory.wf (l.foldl f s).dmaBuf = true ∧ Memory.wf (l.foldl f s).takeMem.bytes = true := by
  induction l generalizing s with
  | nil => exact ⟨hd, hb⟩
  | cons b l ih => rw [List.foldl_cons]; exact ih _ (h s b hd hb).1 (h s b hd hb).2

@[simp] theorem foldl_wf1 {β : Type} (f : State → β → State)
    (h : ∀ s b, Memory.wf s.dmaBuf = true → Memory.wf s.takeMem.bytes = true →
      Memory.wf (f s b).dmaBuf = true ∧ Memory.wf (f s b).takeMem.bytes = true)
    (l : List β) (s : State) (hd : Memory.wf s.dmaBuf = true) (hb : Memory.wf s.takeMem.bytes = true) :
    Memory.wf (l.foldl f s).dmaBuf = true := (foldl_wf f h l s hd hb).1

@[simp] theorem foldl_wf2 {β : Type} (f : State → β → State)
    (h : ∀ s b, Memory.wf s.dmaBuf = true → Memory.wf s.takeMem.bytes = true →
      Memory.wf (f s b).dmaBuf = true ∧ Memory.wf (f s b).takeMem.bytes = true)
    (l : List β) (s : State) (hd : Memory.wf s.dmaBuf = true) (hb : Memory.wf s.takeMem.bytes = true) :
    Memory.wf (l.foldl f s).takeMem.bytes = true := (foldl_wf f h l s hd hb).2

/-- The state of a pair, when the pair is known. -/
theorem pair_wf {α : Type} {r : State × α} {u : State} {x : α} (h : r = (u, x))
    (hr : Memory.wf r.1.dmaBuf = true ∧ Memory.wf r.1.takeMem.bytes = true) :
    Memory.wf u.dmaBuf = true ∧ Memory.wf u.takeMem.bytes = true := by rw [h] at hr; exact hr

@[simp] theorem handPut_wf (s : State) (pos : Nat) (ident : Nat) (stream : Nat) (num : Nat) (i : Item)
    (hd : Memory.wf s.dmaBuf = true) (hb : Memory.wf s.takeMem.bytes = true) :
    Memory.wf (handPut s pos ident stream num i).dmaBuf = true ∧
        Memory.wf (handPut s pos ident stream num i).takeMem.bytes = true := by
  simp [handPut, hd, hb]

@[simp] theorem passOn_wf (s : State) (pos : Nat) (ident : Nat) (stream : Nat) (num : Nat) (i : Item)
    (hd : Memory.wf s.dmaBuf = true) (hb : Memory.wf s.takeMem.bytes = true) :
    Memory.wf (passOn s pos ident stream num i).dmaBuf = true ∧
        Memory.wf (passOn s pos ident stream num i).takeMem.bytes = true := by
  simp [passOn, hd, hb]

@[simp] theorem acceptItem_wf (s : State) (k : AckSt) (i : Item) (hd : Memory.wf s.dmaBuf = true)
    (hb : Memory.wf s.takeMem.bytes = true) :
    Memory.wf (acceptItem s k i).dmaBuf = true ∧ Memory.wf (acceptItem s k i).takeMem.bytes = true := by
  simp [acceptItem, hd, hb]

@[simp] theorem ownItem_wf (s : State) (stream : Nat) (num : Nat) (i : Item) (hd : Memory.wf s.dmaBuf = true)
    (hb : Memory.wf s.takeMem.bytes = true) :
    Memory.wf (ownItem s stream num i).dmaBuf = true ∧ Memory.wf (ownItem s stream num i).takeMem.bytes = true := by
  simp [ownItem, hd, hb]

@[simp] theorem putItem_wf (s : State) (stream : Nat) (num : Nat) (i : Item) (hd : Memory.wf s.dmaBuf = true)
    (hb : Memory.wf s.takeMem.bytes = true) :
    Memory.wf (putItem s stream num i).dmaBuf = true ∧ Memory.wf (putItem s stream num i).takeMem.bytes = true := by
  unfold putItem; (repeat' split) <;> simp [hd, hb]

@[simp] theorem writeGap_wf (s : State) (h : GapHead) (rs : List Range) (hd : Memory.wf s.dmaBuf = true)
    (hb : Memory.wf s.takeMem.bytes = true) :
    Memory.wf (writeGap s h rs).1.dmaBuf = true ∧ Memory.wf (writeGap s h rs).1.takeMem.bytes = true := by
  simp [writeGap, hd, hb]

@[simp] theorem fallBack_wf (s : State) (n : Nat) (hd : Memory.wf s.dmaBuf = true) (hb : Memory.wf s.takeMem.bytes = true) :
    Memory.wf (fallBack s n).dmaBuf = true ∧ Memory.wf (fallBack s n).takeMem.bytes = true := by
  simp [fallBack, hd, hb]

@[simp] theorem beginInst_wf (s : State) (n : Nat) (t : Nat) (hd : Memory.wf s.dmaBuf = true)
    (hb : Memory.wf s.takeMem.bytes = true) :
    Memory.wf (beginInst s n t).dmaBuf = true ∧ Memory.wf (beginInst s n t).takeMem.bytes = true := by
  simp [beginInst, hd, hb]

@[simp] theorem endInst_wf (s : State) (n : Nat) (t : Nat) (hd : Memory.wf s.dmaBuf = true)
    (hb : Memory.wf s.takeMem.bytes = true) :
    Memory.wf (endInst s n t).dmaBuf = true ∧ Memory.wf (endInst s n t).takeMem.bytes = true := by
  unfold endInst
  extract_lets inst rs s1 s2
  split
  · exact ⟨hd, hb⟩
  · have h1 : Memory.wf s1.dmaBuf = true ∧ Memory.wf s1.takeMem.bytes = true := by
      simp only [s1]
      (repeat' split) <;> simp [hd, hb]
    simp [s2, h1]

@[simp] theorem streamTouch_wf (old : State) (s : State) (n : Nat) (t : Nat) (hd : Memory.wf s.dmaBuf = true)
    (hb : Memory.wf s.takeMem.bytes = true) :
    Memory.wf (streamTouch old s n t).dmaBuf = true ∧ Memory.wf (streamTouch old s n t).takeMem.bytes = true := by
  simp [streamTouch, hd, hb]

@[simp] theorem groupEffect_wf (old : State) (s : State) (ws : List Wr) (t : Nat) (hd : Memory.wf s.dmaBuf = true)
    (hb : Memory.wf s.takeMem.bytes = true) :
    Memory.wf (groupEffect old s ws t).dmaBuf = true ∧ Memory.wf (groupEffect old s ws t).takeMem.bytes = true := by
  unfold groupEffect
  simp_all

@[simp] theorem applyPlain_wf (s : State) (ws : List Wr) (t : Nat) (hd : Memory.wf s.dmaBuf = true)
    (hb : Memory.wf s.takeMem.bytes = true) :
    Memory.wf (applyPlain s ws t).dmaBuf = true ∧ Memory.wf (applyPlain s ws t).takeMem.bytes = true := by
  simp [applyPlain, hd, hb]

@[simp] theorem applySet_wf (s : State) (ses : Nat) (imm : Bool) (ws : List Wr) (t : Nat) (hd : Memory.wf s.dmaBuf = true)
    (hb : Memory.wf s.takeMem.bytes = true) :
    Memory.wf (applySet s ses imm ws t).dmaBuf = true ∧ Memory.wf (applySet s ses imm ws t).takeMem.bytes = true := by
  simp [applySet, hd, hb]

@[simp] theorem immEffect_wf (s : State) (ses : Nat) (x : Imm) (t : Nat) (hd : Memory.wf s.dmaBuf = true)
    (hb : Memory.wf s.takeMem.bytes = true) :
    Memory.wf (immEffect s ses x t).dmaBuf = true ∧ Memory.wf (immEffect s ses x t).takeMem.bytes = true := by
  unfold immEffect
  extract_lets g s1
  have h1 : s1.dmaBuf = s.dmaBuf ∧ s1.takeMem.bytes = s.takeMem.bytes := by simp [s1]
  have h2 := applySet_wf s1 ses true [x.w] t (by simp [h1, hd]) (by simp [h1, hb])
  split
  · simp [h1, hd, hb]
  · split
    · exact h2
    · simp; exact h2

@[simp] theorem afterSet_wf (s : State) (ses : Nat) (p : PendSet) (hd : Memory.wf s.dmaBuf = true)
    (hb : Memory.wf s.takeMem.bytes = true) :
    Memory.wf (afterSet s ses p).dmaBuf = true ∧ Memory.wf (afterSet s ses p).takeMem.bytes = true := by
  unfold afterSet
  simp_all

@[simp] theorem ownGap_wf (s : State) (stream : Nat) (inst : Nat) (cause : Nat) (seq : Nat) (count : Nat) (rs : List Range)
    (hd : Memory.wf s.dmaBuf = true) (hb : Memory.wf s.takeMem.bytes = true) :
    Memory.wf (ownGap s stream inst cause seq count rs).1.dmaBuf = true ∧
        Memory.wf (ownGap s stream inst cause seq count rs).1.takeMem.bytes = true := by
  simp [ownGap, hd, hb]

@[simp] theorem nameLost_wf (s : State) (n : Nat) (cause : Nat) (rs : List Range) (hd : Memory.wf s.dmaBuf = true)
    (hb : Memory.wf s.takeMem.bytes = true) :
    Memory.wf (nameLost s n cause rs).dmaBuf = true ∧ Memory.wf (nameLost s n cause rs).takeMem.bytes = true := by
  simp [nameLost, hd, hb]

@[simp] theorem nameGone_wf (s : State) (n : Nat) (inst : Nat) (cause : Nat) (rs : List Range)
    (hd : Memory.wf s.dmaBuf = true) (hb : Memory.wf s.takeMem.bytes = true) :
    Memory.wf (nameGone s n inst cause rs).dmaBuf = true ∧ Memory.wf (nameGone s n inst cause rs).takeMem.bytes = true := by
  simp [nameGone, hd, hb]

@[simp] theorem oldLost_wf (s : State) (n : Nat) (cause : Nat) (rs : List Range) (hd : Memory.wf s.dmaBuf = true)
    (hb : Memory.wf s.takeMem.bytes = true) :
    Memory.wf (oldLost s n cause rs).dmaBuf = true ∧ Memory.wf (oldLost s n cause rs).takeMem.bytes = true := by
  unfold oldLost
  simp_all

@[simp] theorem streamsLost_wf (s : State) (cause : Nat) (rs : List Range) (hd : Memory.wf s.dmaBuf = true)
    (hb : Memory.wf s.takeMem.bytes = true) :
    Memory.wf (streamsLost s cause rs).dmaBuf = true ∧ Memory.wf (streamsLost s cause rs).takeMem.bytes = true := by
  unfold streamsLost
  refine foldl_wf _ (fun s n hd hb => ?_) _ _ hd hb
  have h := oldLost_wf s n cause
    (rs.filter (fun r => (streamsOf s r.ch).contains n && decide (r.first ≤ r.last.getD r.first))) hd hb
  exact nameLost_wf _ _ _ _ h.1 h.2

@[simp] theorem loseperiods_wf (s : State) (cell : Nat) (cause : Nat) (a : Nat) (b : Nat) (hd : Memory.wf s.dmaBuf = true)
    (hb : Memory.wf s.takeMem.bytes = true) :
    Memory.wf (loseperiods s cell cause a b).dmaBuf = true ∧ Memory.wf (loseperiods s cell cause a b).takeMem.bytes = true := by
  simp [loseperiods, hd, hb]

@[simp] theorem storeBlock_wf (s : State) (n : Nat) (inst : Nat) (ord : Nat) (k : BlkDef) (b : Bytes)
    (hd : Memory.wf s.dmaBuf = true) (hb : Memory.wf s.takeMem.bytes = true) :
    Memory.wf (storeBlock s n inst ord k b).dmaBuf = true ∧ Memory.wf (storeBlock s n inst ord k b).takeMem.bytes = true := by
  simp [storeBlock, hd, hb]

@[simp] theorem recordLost_wf (s : State) (cause : Nat) (w : Nat) (ty : Nat) (index : Nat) (hd : Memory.wf s.dmaBuf = true)
    (hb : Memory.wf s.takeMem.bytes = true) :
    Memory.wf (recordLost s cause w ty index).dmaBuf = true ∧ Memory.wf (recordLost s cause w ty index).takeMem.bytes = true := by
  simp [recordLost, hd, hb]

@[simp] theorem storeRecord_wf (s : State) (w : Nat) (index : Nat) (ord : Nat) (b : Bytes) (hd : Memory.wf s.dmaBuf = true)
    (hb : Memory.wf s.takeMem.bytes = true) :
    Memory.wf (storeRecord s w index ord b).dmaBuf = true ∧ Memory.wf (storeRecord s w index ord b).takeMem.bytes = true := by
  unfold storeRecord
  extract_lets ty s1 item storeFit
  have hs : ∀ s : State, Memory.wf s.dmaBuf = true → Memory.wf s.takeMem.bytes = true →
      Memory.wf (storeFit s).dmaBuf = true ∧ Memory.wf (storeFit s).takeMem.bytes = true := by
    intro s hd hb
    dsimp only [storeFit]
    split <;> simp [hd, hb]
  have h1 : Memory.wf s1.dmaBuf = true ∧ Memory.wf s1.takeMem.bytes = true := by simp [s1, hd, hb]
  split
  · split
    rename_i u ok heq
    have hg := pair_wf heq (ownGap_wf s1 _ _ _ _ _ _ h1.1 h1.2)
    split
    · exact hs _ (by simpa using hg.1) (by simpa using hg.2)
    · exact hg
  · exact hs _ h1.1 h1.2

@[simp] theorem takeStore_wf (s : State) (t : Nat) (f : Fill) (hd : Memory.wf s.dmaBuf = true)
    (hb : Memory.wf s.takeMem.bytes = true) :
    Memory.wf (takeStore s t f).dmaBuf = true ∧ Memory.wf (takeStore s t f).takeMem.bytes = true := by
  simp [takeStore, hd, hb]

@[simp] theorem takeCommit_wf (s : State) (t : Nat) (f : Fill) (hd : Memory.wf s.dmaBuf = true)
    (hb : Memory.wf s.takeMem.bytes = true) :
    Memory.wf (takeCommit s t f).dmaBuf = true ∧ Memory.wf (takeCommit s t f).takeMem.bytes = true := by
  simp [takeCommit, hd, hb]

@[simp] theorem commitTake_wf (s : State) (t : Nat) (hd : Memory.wf s.dmaBuf = true) (hb : Memory.wf s.takeMem.bytes = true) :
    Memory.wf (commitTake s t).dmaBuf = true ∧ Memory.wf (commitTake s t).takeMem.bytes = true := by
  unfold commitTake; (repeat' split) <;> simp [hd, hb]

@[simp] theorem emit_wf (s : State) (ord : Nat) (u : CUnit) (hd : Memory.wf s.dmaBuf = true)
    (hb : Memory.wf s.takeMem.bytes = true) :
    Memory.wf (emit s ord u).dmaBuf = true ∧ Memory.wf (emit s ord u).takeMem.bytes = true := by
  unfold emit; (repeat' split) <;> simp [hd, hb]

@[simp] theorem releaseFirst_wf (s : State) (hd : Memory.wf s.dmaBuf = true) (hb : Memory.wf s.takeMem.bytes = true) :
    Memory.wf (releaseFirst s).dmaBuf = true ∧ Memory.wf (releaseFirst s).takeMem.bytes = true := by
  unfold releaseFirst; (repeat' split) <;> simp [hd, hb]

@[simp] theorem releaseN_wf (x0 : Nat) (x1 : State) (hd : Memory.wf x1.dmaBuf = true)
    (hb : Memory.wf x1.takeMem.bytes = true) :
    Memory.wf (releaseN x0 x1).dmaBuf = true ∧ Memory.wf (releaseN x0 x1).takeMem.bytes = true := by
  induction x0 generalizing x1 with
  | zero => exact ⟨hd, hb⟩
  | succ n ih => unfold releaseN; exact ih _ (releaseFirst_wf _ hd hb).1 (releaseFirst_wf _ hd hb).2

@[simp] theorem releaseAll_wf (s : State) (hd : Memory.wf s.dmaBuf = true) (hb : Memory.wf s.takeMem.bytes = true) :
    Memory.wf (releaseAll s).dmaBuf = true ∧ Memory.wf (releaseAll s).takeMem.bytes = true := by
  unfold releaseAll; exact releaseN_wf _ _ hd hb

@[simp] theorem takeover_wf (s : State) (kind : Nat) (why : TestWhy) (hd : Memory.wf s.dmaBuf = true)
    (hb : Memory.wf s.takeMem.bytes = true) :
    Memory.wf (takeover s kind why).dmaBuf = true ∧ Memory.wf (takeover s kind why).takeMem.bytes = true := by
  simp [takeover, hd, hb]

@[simp] theorem standbyOut_wf (s : State) (why : TestWhy) (hd : Memory.wf s.dmaBuf = true)
    (hb : Memory.wf s.takeMem.bytes = true) :
    Memory.wf (standbyOut s why).dmaBuf = true ∧ Memory.wf (standbyOut s why).takeMem.bytes = true := by
  simp [standbyOut, hd, hb]

@[simp] theorem coreFault_wf (s : State) (c : Nat) (hd : Memory.wf s.dmaBuf = true) (hb : Memory.wf s.takeMem.bytes = true) :
    Memory.wf (coreFault s c).dmaBuf = true ∧ Memory.wf (coreFault s c).takeMem.bytes = true := by
  simp [coreFault, hd, hb]

@[simp] theorem judgeLosses_wf (s : State) (cell : Nat) (cause : Nat) (hd : Memory.wf s.dmaBuf = true)
    (hb : Memory.wf s.takeMem.bytes = true) :
    Memory.wf (judgeLosses s cell cause).dmaBuf = true ∧ Memory.wf (judgeLosses s cell cause).takeMem.bytes = true := by
  unfold judgeLosses
  refine foldl_wf _ (fun s m hd hb => ?_) _ _ hd hb
  obtain ⟨core, status, a, b⟩ := m
  dsimp only
  split
  · exact ⟨hd, hb⟩
  · split
    · simp [hd, hb]
    · split
      · exact ⟨hd, hb⟩
      · split
        · exact loseperiods_wf _ _ _ _ _ (by simp [hd]) (by simp [hb])
        · simp [hd, hb]

@[simp] theorem periodsGone_wf (s : State) (cell : Nat) (cause : Nat) (status : Bool) (a : Nat) (b : Nat)
    (hd : Memory.wf s.dmaBuf = true) (hb : Memory.wf s.takeMem.bytes = true) :
    Memory.wf (periodsGone s cell cause status a b).dmaBuf = true ∧
        Memory.wf (periodsGone s cell cause status a b).takeMem.bytes = true := by
  simp [periodsGone, hd, hb]

@[simp] theorem takeEarly_wf (cell : Nat) (cause : Nat) (status : Bool) (x3 : Nat) (x4 : State)
    (hd : Memory.wf x4.dmaBuf = true) (hb : Memory.wf x4.takeMem.bytes = true) :
    Memory.wf (takeEarly cell cause status x3 x4).dmaBuf = true ∧
        Memory.wf (takeEarly cell cause status x3 x4).takeMem.bytes = true := by
  induction x3 generalizing x4 with
  | zero => exact ⟨hd, hb⟩
  | succ n ih =>
    unfold takeEarly
    extract_lets its
    split
    · extract_lets rest
      have hr : ∀ s : State, (rest s).dmaBuf = s.dmaBuf ∧ (rest s).takeMem.bytes = s.takeMem.bytes := fun s => by simp [rest]
      split
      · exact ih _ (by simp [hr, hd]) (by simp [hr, hb])
      · split
        · exact ih _ (by simp [hr, hd]) (by simp [hr, hb])
        · split
          · exact ih _ (by simp [hr, hd, hb]) (by simp [hr, hd, hb])
          · exact ⟨hd, hb⟩
    · exact ⟨hd, hb⟩

@[simp] theorem cellItem_wf (s : State) (cell : Nat) (core : Nat) (cause : Nat) (status : Bool) (ws : List Nat)
    (hd : Memory.wf s.dmaBuf = true) (hb : Memory.wf s.takeMem.bytes = true) :
    Memory.wf (cellItem s cell core cause status ws).dmaBuf = true ∧
        Memory.wf (cellItem s cell core cause status ws).takeMem.bytes = true := by
  unfold cellItem; (repeat' split) <;> simp [hd, hb]

@[simp] theorem loseUnit_wf (s : State) (cause : Nat) (ord : Nat) (hd : Memory.wf s.dmaBuf = true)
    (hb : Memory.wf s.takeMem.bytes = true) :
    Memory.wf (loseUnit s cause ord).dmaBuf = true ∧ Memory.wf (loseUnit s cause ord).takeMem.bytes = true := by
  unfold loseUnit
  refine foldl_wf _ (fun s p hd hb => ?_) _ _ hd hb
  split
  · split
    · exact ⟨hd, hb⟩
    · simp [hd, hb]
  · exact ⟨hd, hb⟩

@[simp] theorem itemsLost_wf (s : State) (q : Nat) (cause : Nat) (n : Nat) (header : Option Nat)
    (hd : Memory.wf s.dmaBuf = true) (hb : Memory.wf s.takeMem.bytes = true) :
    Memory.wf (itemsLost s q cause n header).dmaBuf = true ∧ Memory.wf (itemsLost s q cause n header).takeMem.bytes = true := by
  unfold itemsLost; (repeat' split) <;> simp [hd, hb]

@[simp] theorem flushQueue_wf (s : State) (q : Nat) (hd : Memory.wf s.dmaBuf = true) (hb : Memory.wf s.takeMem.bytes = true) :
    Memory.wf (flushQueue s q).dmaBuf = true ∧ Memory.wf (flushQueue s q).takeMem.bytes = true := by
  simp [flushQueue, hd, hb]

@[simp] theorem flushCommand_wf (s : State) (q : Nat) (v : Nat) (hd : Memory.wf s.dmaBuf = true)
    (hb : Memory.wf s.takeMem.bytes = true) :
    Memory.wf (flushCommand s q v).1.dmaBuf = true ∧ Memory.wf (flushCommand s q v).1.takeMem.bytes = true := by
  simp [flushCommand, hd, hb]

@[simp] theorem flushAny_wf (s : State) (q : Nat) (v : Nat) (hd : Memory.wf s.dmaBuf = true)
    (hb : Memory.wf s.takeMem.bytes = true) :
    Memory.wf (flushAny s q v).1.dmaBuf = true ∧ Memory.wf (flushAny s q v).1.takeMem.bytes = true := by
  simp [flushAny, hd, hb]

@[simp] theorem hubReset_wf (s : State) (cause : Nat) (_hd : Memory.wf s.dmaBuf = true)
    (_hb : Memory.wf s.takeMem.bytes = true) :
    Memory.wf (hubReset s cause).dmaBuf = true ∧ Memory.wf (hubReset s cause).takeMem.bytes = true := by
  unfold hubReset
  simp [State.reset]

@[simp] theorem idleReset_wf (s : State) (hd : Memory.wf s.dmaBuf = true) (hb : Memory.wf s.takeMem.bytes = true) :
    Memory.wf (idleReset s).dmaBuf = true ∧ Memory.wf (idleReset s).takeMem.bytes = true := by
  simp [idleReset, hd, hb]

@[simp] theorem restartCmd_wf (s : State) (v : Nat) (hd : Memory.wf s.dmaBuf = true) (hb : Memory.wf s.takeMem.bytes = true) :
    Memory.wf (restartCmd s v).1.dmaBuf = true ∧ Memory.wf (restartCmd s v).1.takeMem.bytes = true := by
  unfold restartCmd; (repeat' split) <;> simp [hd, hb]

@[simp] theorem imageCmd_wf (s : State) (v : Nat) (hd : Memory.wf s.dmaBuf = true) (hb : Memory.wf s.takeMem.bytes = true) :
    Memory.wf (imageCmd s v).1.dmaBuf = true ∧ Memory.wf (imageCmd s v).1.takeMem.bytes = true := by
  unfold imageCmd; (repeat' split) <;> simp [hd, hb]

@[simp] theorem writeAction_wf (s : State) (ses : Nat) (o : Obj) (u : Nat) (sub : Nat) (n : Int) (b : Bytes)
    (hd : Memory.wf s.dmaBuf = true) (hb : Memory.wf s.takeMem.bytes = true) :
    Memory.wf (writeAction s ses o u sub n b).1.dmaBuf = true ∧
        Memory.wf (writeAction s ses o u sub n b).1.takeMem.bytes = true := by
  unfold writeAction; (repeat' split) <;> simp [hd, hb]

@[simp] theorem writeEntry_wf (s : State) (ses : Nat) (o : Obj) (u : Nat) (sub : Nat) (e : Entry) (b : Bytes)
    (hd : Memory.wf s.dmaBuf = true) (hb : Memory.wf s.takeMem.bytes = true) :
    Memory.wf (writeEntry s ses o u sub e b).1.dmaBuf = true ∧ Memory.wf (writeEntry s ses o u sub e b).1.takeMem.bytes = true := by
  unfold writeEntry
  extract_lets n r
  split
  · simp [hd, hb]
  · split
    · exact ⟨hd, hb⟩
    · split
      · exact ⟨hd, hb⟩
      · split
        · split <;> simp [hd, hb]
        · have h := writeAction_wf s ses o u sub n b hd hb
          split <;> simp [r, h]

@[simp] theorem tryWrite_wf (s : State) (ses : Nat) (idx : Nat) (sub : Nat) (b : Bytes) (hd : Memory.wf s.dmaBuf = true)
    (hb : Memory.wf s.takeMem.bytes = true) :
    Memory.wf (tryWrite s ses idx sub b).1.dmaBuf = true ∧ Memory.wf (tryWrite s ses idx sub b).1.takeMem.bytes = true := by
  unfold tryWrite; (repeat' split) <;> simp [hd, hb]

@[simp] theorem serveWrite_wf (s : State) (ses : Nat) (idx : Nat) (sub : Nat) (b : Bytes) (hd : Memory.wf s.dmaBuf = true)
    (hb : Memory.wf s.takeMem.bytes = true) :
    Memory.wf (serveWrite s ses idx sub b).1.dmaBuf = true ∧ Memory.wf (serveWrite s ses idx sub b).1.takeMem.bytes = true := by
  simp [serveWrite, hd, hb]

@[simp] theorem channelWrite_wf (s : State) (c : Nat) (r : DmaReq) (hd : Memory.wf s.dmaBuf = true)
    (hb : Memory.wf s.takeMem.bytes = true) :
    Memory.wf (channelWrite s c r).1.dmaBuf = true ∧ Memory.wf (channelWrite s c r).1.takeMem.bytes = true := by
  simp [channelWrite, hd, hb]

@[simp] theorem formUnit_wf (s : State) (u : CUnit) (hd : Memory.wf s.dmaBuf = true) (hb : Memory.wf s.takeMem.bytes = true) :
    Memory.wf (formUnit s u).dmaBuf = true ∧ Memory.wf (formUnit s u).takeMem.bytes = true := by
  simp [formUnit, hd, hb]

@[simp] theorem formSpan_wf (s : State) (ch : Nat) (a : SpanAcc) (hd : Memory.wf s.dmaBuf = true)
    (hb : Memory.wf s.takeMem.bytes = true) :
    Memory.wf (formSpan s ch a).dmaBuf = true ∧ Memory.wf (formSpan s ch a).takeMem.bytes = true := by
  simp [formSpan, hd, hb]

@[simp] theorem cutSpan_wf (s : State) (ch : Nat) (hd : Memory.wf s.dmaBuf = true) (hb : Memory.wf s.takeMem.bytes = true) :
    Memory.wf (cutSpan s ch).dmaBuf = true ∧ Memory.wf (cutSpan s ch).takeMem.bytes = true := by
  unfold cutSpan; (repeat' split) <;> simp [hd, hb]

@[simp] theorem debugResetNow_wf (s : State) (hd : Memory.wf s.dmaBuf = true) (hb : Memory.wf s.takeMem.bytes = true) :
    Memory.wf (debugResetNow s).dmaBuf = true ∧ Memory.wf (debugResetNow s).takeMem.bytes = true := by
  simp [debugResetNow, hd, hb]

@[simp] theorem spanSample_wf (s : State) (ch : Nat) (d : Nat) (i : Nat) (w : Nat) (xs : List Crossing)
    (hd : Memory.wf s.dmaBuf = true) (hb : Memory.wf s.takeMem.bytes = true) :
    Memory.wf (spanSample s ch d i w xs).dmaBuf = true ∧ Memory.wf (spanSample s ch d i w xs).takeMem.bytes = true := by
  unfold spanSample; (repeat' split) <;> simp [hd, hb]

@[simp] theorem deliverSample_wf (s : State) (ch : Nat) (k : Nat) (d : Nat) (g : Nat) (w : Nat) (v : Int) (flags : Nat)
    (xs : List Crossing) (hd : Memory.wf s.dmaBuf = true) (hb : Memory.wf s.takeMem.bytes = true) :
    Memory.wf (deliverSample s ch k d g w v flags xs).dmaBuf = true ∧
        Memory.wf (deliverSample s ch k d g w v flags xs).takeMem.bytes = true := by
  simp [deliverSample, hd, hb]

@[simp] theorem discardWord_wf (s : State) (q : Nat) (w : QWord) (hd : Memory.wf s.dmaBuf = true)
    (hb : Memory.wf s.takeMem.bytes = true) :
    Memory.wf (discardWord s q w).dmaBuf = true ∧ Memory.wf (discardWord s q w).takeMem.bytes = true := by
  simp [discardWord, hd, hb]

@[simp] theorem drainCell_wf (s : State) (q : Nat) (hd : Memory.wf s.dmaBuf = true) (hb : Memory.wf s.takeMem.bytes = true) :
    Memory.wf (drainCell s q).dmaBuf = true ∧ Memory.wf (drainCell s q).takeMem.bytes = true := by
  unfold drainCell; (repeat' split) <;> simp_all

@[simp] theorem emitSample_wf (s : State) (ch : Nat) (k : Nat) (g : Nat) (hd : Memory.wf s.dmaBuf = true)
    (hb : Memory.wf s.takeMem.bytes = true) :
    Memory.wf (emitSample s ch k g).dmaBuf = true ∧ Memory.wf (emitSample s ch k g).takeMem.bytes = true := by
  simp [emitSample, hd, hb]

@[simp] theorem streamsBegin_wf (s : State) (t : Nat) (hd : Memory.wf s.dmaBuf = true)
    (hb : Memory.wf s.takeMem.bytes = true) :
    Memory.wf (streamsBegin s t).dmaBuf = true ∧ Memory.wf (streamsBegin s t).takeMem.bytes = true := by
  unfold streamsBegin
  simp_all

@[simp] theorem serveObj_wf (s : State) (ses : Nat) (o : Obj) (u : Nat) (sub : Nat) (b : Bytes)
    (hd : Memory.wf s.dmaBuf = true) (hb : Memory.wf s.takeMem.bytes = true) :
    Memory.wf (serveObj s ses o u sub b).dmaBuf = true ∧ Memory.wf (serveObj s ses o u sub b).takeMem.bytes = true := by
  simp [serveObj, hd, hb]

@[simp] theorem serveNum_wf (s : State) (ses : Nat) (o : Obj) (u : Nat) (sub : Nat) (n : Int)
    (hd : Memory.wf s.dmaBuf = true) (hb : Memory.wf s.takeMem.bytes = true) :
    Memory.wf (serveNum s ses o u sub n).dmaBuf = true ∧ Memory.wf (serveNum s ses o u sub n).takeMem.bytes = true := by
  simp [serveNum, hd, hb]

@[simp] theorem fenceEffect_wf (s : State) (ses : Nat) (p : PendSet) (hd : Memory.wf s.dmaBuf = true)
    (hb : Memory.wf s.takeMem.bytes = true) :
    Memory.wf (fenceEffect s ses p).dmaBuf = true ∧ Memory.wf (fenceEffect s ses p).takeMem.bytes = true := by
  unfold fenceEffect; (repeat' split) <;> simp [hd, hb]

@[simp] theorem performSet_wf (s : State) (ses : Nat) (p : PendSet) (hd : Memory.wf s.dmaBuf = true)
    (hb : Memory.wf s.takeMem.bytes = true) :
    Memory.wf (performSet s ses p).dmaBuf = true ∧ Memory.wf (performSet s ses p).takeMem.bytes = true := by
  simp [performSet, hd, hb]

@[simp] theorem performUpTo_wf (s : State) (t : Nat) (o : Nat) (hd : Memory.wf s.dmaBuf = true)
    (hb : Memory.wf s.takeMem.bytes = true) :
    Memory.wf (performUpTo s t o).dmaBuf = true ∧ Memory.wf (performUpTo s t o).takeMem.bytes = true := by
  unfold performUpTo
  simp_all

@[simp] theorem performSwitch_wf (s : State) (ch : Nat) (hd : Memory.wf s.dmaBuf = true)
    (hb : Memory.wf s.takeMem.bytes = true) :
    Memory.wf (performSwitch s ch).dmaBuf = true ∧ Memory.wf (performSwitch s ch).takeMem.bytes = true := by
  unfold performSwitch; (repeat' split) <;> simp [hd, hb]

@[simp] theorem settleChan_wf (s : State) (ch : Nat) (hd : Memory.wf s.dmaBuf = true)
    (hb : Memory.wf s.takeMem.bytes = true) :
    Memory.wf (settleChan s ch).dmaBuf = true ∧ Memory.wf (settleChan s ch).takeMem.bytes = true := by
  unfold settleChan
  extract_lets s1 s2
  have h1 : s1.dmaBuf = s.dmaBuf ∧ s1.takeMem.bytes = s.takeMem.bytes := by simp [s1]
  have h2 : s2.dmaBuf = s.dmaBuf ∧ s2.takeMem.bytes = s.takeMem.bytes := by
    simp only [s2]; (repeat' split) <;> simp [h1]
  exact performSwitch_wf _ _ (by simp [h2, hd]) (by simp [h2, hb])

@[simp] theorem loadCount_wf (s : State) (t : Nat) (hd : Memory.wf s.dmaBuf = true) (hb : Memory.wf s.takeMem.bytes = true) :
    Memory.wf (loadCount s t).dmaBuf = true ∧ Memory.wf (loadCount s t).takeMem.bytes = true := by
  unfold loadCount
  extract_lets s1 s2 s3 s4
  have h1 : Memory.wf s1.dmaBuf = true ∧ Memory.wf s1.takeMem.bytes = true := by
    have hw := foldl_wf (fun s c => drainCell s c) (fun s c hd hb => drainCell_wf s c hd hb) (List.range 96) s hd hb
    have hc := foldl_wf cutSpan (fun s c hd hb => by simp [hd, hb]) s.allChans _ hw.1 hw.2
    refine foldl_wf _ (fun s ch hd hb => ?_) _ _ hc.1 hc.2
    extract_lets s4
    split
    · split
      split <;> simp [s4, hd, hb]
    · simp [s4, hd, hb]
  have h2 : s2.dmaBuf = s1.dmaBuf ∧ s2.takeMem.bytes = s1.takeMem.bytes := by
    dsimp only [s2]
    exact snapsPassed_memory s1 t
  clear_value s1 s2
  have h3 : s3.dmaBuf = s2.dmaBuf ∧ s3.takeMem.bytes = s2.takeMem.bytes := by
    dsimp only [s3]
    exact moveTicks_memory s2 _
  clear_value s3
  simp [s4, h3, h2, h1]

@[simp] theorem oldDrop_wf (s : State) (n : Nat) (hd : Memory.wf s.dmaBuf = true) (hb : Memory.wf s.takeMem.bytes = true) :
    Memory.wf (oldDrop s n).dmaBuf = true ∧ Memory.wf (oldDrop s n).takeMem.bytes = true := by
  unfold oldDrop
  extract_lets os s1
  have h1 : Memory.wf s1.dmaBuf = true ∧ Memory.wf s1.takeMem.bytes = true := by
    refine foldl_wf _ (fun s o hd hb => ?_) _ _ hd hb
    extract_lets rs s2
    have h2 : Memory.wf s2.dmaBuf = true ∧ Memory.wf s2.takeMem.bytes = true := by simp [s2, hd, hb]
    split
    · exact h2
    · exact nameGone_wf _ _ _ _ _ h2.1 h2.2
  simp [h1]

@[simp] theorem oldsDrop_wf (s : State) (hd : Memory.wf s.dmaBuf = true) (hb : Memory.wf s.takeMem.bytes = true) :
    Memory.wf (oldsDrop s).dmaBuf = true ∧ Memory.wf (oldsDrop s).takeMem.bytes = true := by
  unfold oldsDrop
  refine foldl_wf _ (fun s n hd hb => ?_) _ _ hd hb
  exact oldDrop_wf s n hd hb

@[simp] theorem takesLoad_wf (s : State) (tick : Nat) (hd : Memory.wf s.dmaBuf = true)
    (hb : Memory.wf s.takeMem.bytes = true) :
    Memory.wf (takesLoad s tick).dmaBuf = true ∧ Memory.wf (takesLoad s tick).takeMem.bytes = true := by
  unfold takesLoad
  extract_lets s0
  refine foldl_wf _ (fun s t hd hb => ?_) _ _ hd hb
  extract_lets s1
  have h1 : Memory.wf s1.dmaBuf = true ∧ Memory.wf s1.takeMem.bytes = true := by
    dsimp only [s1]
    split
    · rename_i f _
      have ho := oweBound_memory s t
      refine takeStore_wf _ _ _ ?_ ?_
      · rw [(ho _).1]; exact hd
      · rw [(ho _).2]; exact hb
    · exact ⟨hd, hb⟩
  have hl := takeLoad_memory s1 t tick
  exact ⟨by rw [hl.1]; exact h1.1, by rw [hl.2]; exact h1.2⟩

@[simp] theorem streamsEnd_wf (s : State) (t : Nat) (hd : Memory.wf s.dmaBuf = true) (hb : Memory.wf s.takeMem.bytes = true) :
    Memory.wf (streamsEnd s t).dmaBuf = true ∧ Memory.wf (streamsEnd s t).takeMem.bytes = true := by
  unfold streamsEnd
  simp_all

@[simp] theorem regionReserve_wf (s : State) (at_ : Nat) (pad : Nat) (occ : Nat) (take : Nat)
    (hd : Memory.wf s.dmaBuf = true) (hb : Memory.wf s.takeMem.bytes = true) :
    Memory.wf (regionReserve s at_ pad occ take).dmaBuf = true ∧
        Memory.wf (regionReserve s at_ pad occ take).takeMem.bytes = true := by
  simp [regionReserve, hd, hb]

@[simp] theorem takeMiss_wf (s : State) (t : Nat) (cause : Nat) (o : Occ) (p : Int) (hd : Memory.wf s.dmaBuf = true)
    (hb : Memory.wf s.takeMem.bytes = true) :
    Memory.wf (takeMiss s t cause o p).dmaBuf = true ∧ Memory.wf (takeMiss s t cause o p).takeMem.bytes = true := by
  unfold takeMiss
  extract_lets s1 s2
  have h2 : Memory.wf s2.dmaBuf = true ∧ Memory.wf s2.takeMem.bytes = true := by simp [s1, s2, hd, hb]
  split
  · rename_i a pad _
    extract_lets s3 s4
    have h3 := regionReserve_wf s2 a pad 64 16 h2.1 h2.2
    simp [s4, s3, h3]
  · simp [h2]

@[simp] theorem takeFill_wf (s : State) (t : Nat) (o : Occ) (p : Int) (kts : List Int) (ph : Nat) (sr : Nat) (at_ : Nat)
    (pad : Nat) (hd : Memory.wf s.dmaBuf = true) (hb : Memory.wf s.takeMem.bytes = true) :
    Memory.wf (takeFill s t o p kts ph sr at_ pad).dmaBuf = true ∧
        Memory.wf (takeFill s t o p kts ph sr at_ pad).takeMem.bytes = true := by
  simp [takeFill, hd, hb]

@[simp] theorem takeConsider_wf (s : State) (t : Nat) (o : Occ) (hd : Memory.wf s.dmaBuf = true)
    (hb : Memory.wf s.takeMem.bytes = true) :
    Memory.wf (takeConsider s t o).dmaBuf = true ∧ Memory.wf (takeConsider s t o).takeMem.bytes = true := by
  have hj := takeJoin_memory s t o
  unfold takeConsider
  extract_lets k st left d p s1 hs nPre ph m sr
  split
  · simp [hd, hb]
  · have h1 : Memory.wf s1.dmaBuf = true ∧ Memory.wf s1.takeMem.bytes = true := by simp [s1, hd, hb]
    (repeat' split) <;> simp [h1]

@[simp] theorem sendCombined_wf (s : State) (x : Nat) (index : Nat) (b : Bytes) (hd : Memory.wf s.dmaBuf = true)
    (hb : Memory.wf s.takeMem.bytes = true) :
    Memory.wf (sendCombined s x index b).dmaBuf = true ∧ Memory.wf (sendCombined s x index b).takeMem.bytes = true := by
  unfold sendCombined
  extract_lets s1 n
  have h1 : s1.dmaBuf = s.dmaBuf ∧ s1.takeMem.bytes = s.takeMem.bytes := by simp [s1]
  have w1 : Memory.wf s1.dmaBuf = true := by simp [h1, hd]
  have w2 : Memory.wf s1.takeMem.bytes = true := by simp [h1, hb]
  split
  · exact ⟨w1, w2⟩
  · split
    · simp [w1, w2]
    · exact ownGap_wf _ _ _ _ _ _ _ w1 w2

@[simp] theorem managerGap_wf (s : State) (k : AckSt) (cause : Nat) (rs : List Range) (hd : Memory.wf s.dmaBuf = true)
    (hb : Memory.wf s.takeMem.bytes = true) :
    Memory.wf (managerGap s k cause rs).dmaBuf = true ∧ Memory.wf (managerGap s k cause rs).takeMem.bytes = true := by
  simp [managerGap, hd, hb]

@[simp] theorem takeAnnouncement_wf (s : State) (pos : Nat) (ident : Nat) (stream : Nat) (i : Item)
    (hd : Memory.wf s.dmaBuf = true) (hb : Memory.wf s.takeMem.bytes = true) :
    Memory.wf (takeAnnouncement s pos ident stream i).dmaBuf = true ∧
        Memory.wf (takeAnnouncement s pos ident stream i).takeMem.bytes = true := by
  unfold takeAnnouncement
  extract_lets k num s1 keep acks s2
  have h1 : Memory.wf s1.dmaBuf = true ∧ Memory.wf s1.takeMem.bytes = true :=
    foldl_wf _ (fun s g hd hb => managerGap_wf s _ _ _ hd hb) _ _ hd hb
  exact passOn_wf _ _ _ _ _ _ (by simp [s2, h1]) (by simp [s2, h1])

@[simp] theorem malformed_wf (s : State) (k : AckSt) (i : Item) (hd : Memory.wf s.dmaBuf = true)
    (hb : Memory.wf s.takeMem.bytes = true) :
    Memory.wf (malformed s k i).dmaBuf = true ∧ Memory.wf (malformed s k i).takeMem.bytes = true := by
  simp [malformed, hd, hb]

@[simp] theorem takeBlock_wf (s : State) (k : AckSt) (i : Item) (hd : Memory.wf s.dmaBuf = true)
    (hb : Memory.wf s.takeMem.bytes = true) :
    Memory.wf (takeBlock s k i).dmaBuf = true ∧ Memory.wf (takeBlock s k i).takeMem.bytes = true := by
  simp [takeBlock, hd, hb]

@[simp] theorem takeItem_wf (s : State) (pos : Nat) (ident : Nat) (stream : Nat) (num : Nat) (i : Item)
    (hd : Memory.wf s.dmaBuf = true) (hb : Memory.wf s.takeMem.bytes = true) :
    Memory.wf (takeItem s pos ident stream num i).dmaBuf = true ∧
        Memory.wf (takeItem s pos ident stream num i).takeMem.bytes = true := by
  unfold takeItem
  dsimp only
  split
  · split
    · exact takeAnnouncement_wf _ _ _ _ _ hd hb
    · exact ⟨hd, hb⟩
  · (repeat' split) <;> first | exact acceptItem_wf _ _ _ hd hb | exact takeBlock_wf _ _ _ hd hb | simp [hd, hb]

@[simp] theorem takeFrame_wf (s : State) (b : Bytes) (hd : Memory.wf s.dmaBuf = true)
    (hb : Memory.wf s.takeMem.bytes = true) :
    Memory.wf (takeFrame s b).dmaBuf = true ∧ Memory.wf (takeFrame s b).takeMem.bytes = true := by
  unfold takeFrame
  extract_lets ident pos stream num s1 s2 is s3
  have h2 : s2.dmaBuf = s.dmaBuf ∧ s2.takeMem.bytes = s.takeMem.bytes := by
    dsimp only [s2]
    split <;> simp [s1]
  have h3 : Memory.wf s3.dmaBuf = true ∧ Memory.wf s3.takeMem.bytes = true :=
    foldl_wf _ (fun s i hd hb => takeItem_wf s _ _ _ _ i hd hb) _ _ (by simp [h2, hd]) (by simp [h2, hb])
  split
  · exact ⟨hd, hb⟩
  · split <;> simp [h3]

@[simp] theorem storeAnn_wf (s : State) (n : Nat) (p : Space) (hd : Memory.wf s.dmaBuf = true)
    (hb : Memory.wf s.takeMem.bytes = true) :
    Memory.wf (storeAnn s n p).dmaBuf = true ∧ Memory.wf (storeAnn s n p).takeMem.bytes = true := by
  simp [storeAnn, hd, hb]

@[simp] theorem resumeStream_wf (s : State) (n : Nat) (t : Nat) (hd : Memory.wf s.dmaBuf = true)
    (hb : Memory.wf s.takeMem.bytes = true) :
    Memory.wf (resumeStream s n t).dmaBuf = true ∧ Memory.wf (resumeStream s n t).takeMem.bytes = true := by
  unfold resumeStream
  extract_lets inst
  split
  · rename_i p g _ _
    extract_lets need s1
    have h1 : Memory.wf s1.dmaBuf = true ∧ Memory.wf s1.takeMem.bytes = true := storeAnn_wf s n p hd hb
    split
    · exact ⟨hd, hb⟩
    · split
      · exact ⟨hd, hb⟩
      · split
        split
        rename_i u ok heq
        have hg := pair_wf heq (writeGap_wf s1 _ _ h1.1 h1.2)
        split <;> simp [hg]
  · exact ⟨hd, hb⟩

@[simp] theorem resumeHalted_wf (s : State) (t : Nat) (hd : Memory.wf s.dmaBuf = true)
    (hb : Memory.wf s.takeMem.bytes = true) :
    Memory.wf (resumeHalted s t).dmaBuf = true ∧ Memory.wf (resumeHalted s t).takeMem.bytes = true := by
  unfold resumeHalted
  extract_lets s1
  have h1 : Memory.wf s1.dmaBuf = true ∧ Memory.wf s1.takeMem.bytes = true := by
    refine foldl_wf _ (fun s o hd hb => ?_) _ _ hd hb
    split
    rename_i u ok heq
    have hg := pair_wf heq (ownGap_wf s _ _ _ _ _ _ hd hb)
    split <;> simp [hg]
  refine foldl_wf _ (fun s n hd hb => ?_) _ _ h1.1 h1.2
  split
  · exact ⟨hd, hb⟩
  · extract_lets inst
    split
    · split
      rename_i named want _
      split
      · exact ⟨hd, hb⟩
      · split
        rename_i p _ _ _ _ _ u ok heq
        have ha := storeAnn_wf s n p hd hb
        have hg := pair_wf heq (ownGap_wf _ _ _ _ _ _ _ ha.1 ha.2)
        split <;> simp [hg]
    · exact ⟨hd, hb⟩

@[simp] theorem takeUpAck_wf (s : State) (a : Nat) (bitmap : Nat) (hd : Memory.wf s.dmaBuf = true)
    (hb : Memory.wf s.takeMem.bytes = true) :
    Memory.wf (takeUpAck s a bitmap).dmaBuf = true ∧ Memory.wf (takeUpAck s a bitmap).takeMem.bytes = true := by
  unfold takeUpAck
  extract_lets one fs s1 s2
  have h1 : s1.dmaBuf = s.dmaBuf ∧ s1.takeMem.bytes = s.takeMem.bytes := by simp [s1]
  have h2 : Memory.wf s2.dmaBuf = true ∧ Memory.wf s2.takeMem.bytes = true := by
    simp only [s2]
    exact foldl_wf _ (fun s n hd hb => resumeStream_wf s n s.now hd hb) _ _ (by simp [h1, hd]) (by simp [h1, hb])
  have h3 := resumeHalted_wf s2 s2.now h2.1 h2.2
  simp [h3]

@[simp] theorem takeAck_wf (s : State) (stream : Nat) (num : Nat) (a : Nat) (bitmap : Nat) (hd : Memory.wf s.dmaBuf = true)
    (hb : Memory.wf s.takeMem.bytes = true) :
    Memory.wf (takeAck s stream num a bitmap).dmaBuf = true ∧ Memory.wf (takeAck s stream num a bitmap).takeMem.bytes = true := by
  unfold takeAck; (repeat' split) <;> simp [hd, hb]

@[simp] theorem spillFailed_wf (s : State) (p : Space) (i : Item) (hd : Memory.wf s.dmaBuf = true)
    (hb : Memory.wf s.takeMem.bytes = true) :
    Memory.wf (spillFailed s p i).dmaBuf = true ∧ Memory.wf (spillFailed s p i).takeMem.bytes = true := by
  simp [spillFailed, hd, hb]

@[simp] theorem resend_wf (s : State) (p : Space) (is : List Item) (bad : List Nat) (hd : Memory.wf s.dmaBuf = true)
    (hb : Memory.wf s.takeMem.bytes = true) :
    Memory.wf (resend s p is bad).dmaBuf = true ∧ Memory.wf (resend s p is bad).takeMem.bytes = true := by
  unfold resend; (repeat' split) <;> simp_all

@[simp] theorem plannedMove_wf (s : State) (hd : Memory.wf s.dmaBuf = true) (hb : Memory.wf s.takeMem.bytes = true) :
    Memory.wf (plannedMove s).dmaBuf = true ∧ Memory.wf (plannedMove s).takeMem.bytes = true := by
  simp [plannedMove, hd, hb]

@[simp] theorem releaseEqual_wf (x0 : Nat) (x1 : State) (hd : Memory.wf x1.dmaBuf = true)
    (hb : Memory.wf x1.takeMem.bytes = true) :
    Memory.wf (releaseEqual x0 x1).dmaBuf = true ∧ Memory.wf (releaseEqual x0 x1).takeMem.bytes = true := by
  induction x0 generalizing x1 with
  | zero => exact ⟨hd, hb⟩
  | succ n ih =>
    unfold releaseEqual
    split
    · exact ⟨hd, hb⟩
    · split
      · extract_lets free s1 s2
        split
        · have h2 : Memory.wf s2.dmaBuf = true ∧ Memory.wf s2.takeMem.bytes = true :=
            emit_wf _ _ _ (by simp [s1, hd]) (by simp [s1, hb])
          split
          · exact plannedMove_wf _ h2.1 h2.2
          · exact ih _ h2.1 h2.2
        · exact ⟨hd, hb⟩
      · exact ⟨hd, hb⟩

@[simp] theorem noteUncorrectable_wf (s : State) (q : Nat) (w : QWord) (item : List QWord) (hd : Memory.wf s.dmaBuf = true)
    (hb : Memory.wf s.takeMem.bytes = true) :
    Memory.wf (noteUncorrectable s q w item).dmaBuf = true ∧ Memory.wf (noteUncorrectable s q w item).takeMem.bytes = true := by
  simp [noteUncorrectable, hd, hb]

@[simp] theorem popWord_wf (s : State) (q : Nat) (w : QWord) (ecc : Ecc) (hd : Memory.wf s.dmaBuf = true)
    (hb : Memory.wf s.takeMem.bytes = true) :
    Memory.wf (popWord s q w ecc).1.dmaBuf = true ∧ Memory.wf (popWord s q w ecc).1.takeMem.bytes = true := by
  simp [popWord, hd, hb]

@[simp] theorem popHead_wf (s : State) (q : Nat) (ecc : Ecc) (hd : Memory.wf s.dmaBuf = true)
    (hb : Memory.wf s.takeMem.bytes = true) :
    Memory.wf (popHead s q ecc).1.dmaBuf = true ∧ Memory.wf (popHead s q ecc).1.takeMem.bytes = true := by
  unfold popHead; (repeat' split) <;> simp [hd, hb]

@[simp] theorem itemDelivered_wf (s : State) (q : Nat) (ws : List Nat) (hd : Memory.wf s.dmaBuf = true)
    (hb : Memory.wf s.takeMem.bytes = true) :
    Memory.wf (itemDelivered s q ws).dmaBuf = true ∧ Memory.wf (itemDelivered s q ws).takeMem.bytes = true := by
  unfold itemDelivered; (repeat' split) <;> simp [hd, hb]

@[simp] theorem popPending_wf (s : State) (q : Nat) (hd : Memory.wf s.dmaBuf = true) (hb : Memory.wf s.takeMem.bytes = true) :
    Memory.wf (popPending s q).dmaBuf = true ∧ Memory.wf (popPending s q).takeMem.bytes = true := by
  unfold popPending
  split
  · have h := popHead_wf s q .good hd hb
    split <;> rename_i heq <;> rw [heq] at h
    · exact itemDelivered_wf _ _ _ h.1 h.2
    · exact h
  · exact ⟨hd, hb⟩

@[simp] theorem present_wf (s : State) (q : Nat) (w : QWord) (hd : Memory.wf s.dmaBuf = true)
    (hb : Memory.wf s.takeMem.bytes = true) :
    Memory.wf (present s q w).dmaBuf = true ∧ Memory.wf (present s q w).takeMem.bytes = true := by
  simp [present, hd, hb]

@[simp] theorem popEvent_wf (s : State) (island : Nat) (ecc : Ecc) (hd : Memory.wf s.dmaBuf = true)
    (hb : Memory.wf s.takeMem.bytes = true) :
    Memory.wf (popEvent s island ecc).dmaBuf = true ∧ Memory.wf (popEvent s island ecc).takeMem.bytes = true := by
  unfold popEvent
  have h := popHead_wf s (162 + island) ecc hd hb
  split <;> rename_i heq <;> rw [heq] at h
  · (repeat' split) <;> simp [h]
  · exact h

@[simp] theorem writeBeat_wf (s : State) (c : Nat) (m : DmaMove) (hd : Memory.wf s.dmaBuf = true)
    (hb : Memory.wf s.takeMem.bytes = true) :
    Memory.wf (writeBeat s c m).dmaBuf = true ∧ Memory.wf (writeBeat s c m).takeMem.bytes = true := by
  unfold writeBeat
  extract_lets k r e take src out res
  have hs : ∀ (u : State) (a : Nat) (b : Bytes) (v : State), Memory.wf u.dmaBuf = true → Memory.wf u.takeMem.bytes = true →
      dmaStore u r a b = .ok v → Memory.wf v.dmaBuf = true ∧ Memory.wf v.takeMem.bytes = true := by
    intro u a b v h1 h2 h
    unfold dmaStore at h
    (repeat' split at h) <;> (cases h; try simp [h1, h2])
  have hr : ∀ v, res = .ok v → Memory.wf v.dmaBuf = true ∧ Memory.wf v.takeMem.bytes = true := by
    intro v h
    simp only [res] at h
    split at h
    · simp at h
    · split at h
      · exact hs _ _ _ _ hd hb h
      · have hf : ∀ (l : List Bytes) (a : Except Nat State),
            (∀ v, a = .ok v → Memory.wf v.dmaBuf = true ∧ Memory.wf v.takeMem.bytes = true) →
            ∀ v, l.foldl (fun (a : Except Nat State) b => match a with
              | .ok s => dmaStore s r r.addr b
              | .error x => .error x) a = .ok v → Memory.wf v.dmaBuf = true ∧ Memory.wf v.takeMem.bytes = true := by
          intro l
          induction l with
          | nil => exact fun a ha v hv => ha v hv
          | cons b l ih =>
            intro a ha v hv
            rw [List.foldl_cons] at hv
            refine ih _ ?_ v hv
            intro w hw
            cases a with
            | ok u => exact hs _ _ _ _ (ha u rfl).1 (ha u rfl).2 hw
            | error x => simp at hw
        exact hf _ _ (fun v hv => by cases hv; exact ⟨hd, hb⟩) v h
  clear_value res
  by_cases ht : r.target = 2
  · rw [if_pos ht]; simp [hd, hb]
  · rw [if_neg ht]
    cases res with
    | error x => simp [hd, hb]
    | ok v =>
      have h := hr v rfl
      dsimp only
      split <;> simp [h]

@[simp] theorem writeAnswered_wf (s : State) (c : Nat) (r : DmaReq) (hd : Memory.wf s.dmaBuf = true)
    (hb : Memory.wf s.takeMem.bytes = true) :
    Memory.wf (writeAnswered s c r).dmaBuf = true ∧ Memory.wf (writeAnswered s c r).takeMem.bytes = true := by
  simp [writeAnswered, hd, hb]

@[simp] theorem writeAll_wf (s : State) (ses : Nat) (es : List (Nat × Nat × Bytes)) (hd : Memory.wf s.dmaBuf = true)
    (hb : Memory.wf s.takeMem.bytes = true) :
    Memory.wf (writeAll s ses es).1.dmaBuf = true ∧ Memory.wf (writeAll s ses es).1.takeMem.bytes = true := by
  unfold writeAll
  suffices hf : ∀ (l : List (Nat × Nat × Bytes)) (a : State × List Code), Memory.wf a.1.dmaBuf = true →
      Memory.wf a.1.takeMem.bytes = true →
      Memory.wf (l.foldl (fun a e =>
          ((serveWrite a.1 ses e.1 e.2.1 e.2.2).1, a.2 ++ [(serveWrite a.1 ses e.1 e.2.1 e.2.2).2]))
        a).1.dmaBuf = true ∧
      Memory.wf (l.foldl (fun a e =>
          ((serveWrite a.1 ses e.1 e.2.1 e.2.2).1, a.2 ++ [(serveWrite a.1 ses e.1 e.2.1 e.2.2).2]))
        a).1.takeMem.bytes = true from hf es (s, []) hd hb
  intro l
  induction l with
  | nil => exact fun a hd hb => ⟨hd, hb⟩
  | cons e l ih =>
    intro a hd hb
    rw [List.foldl_cons]
    have h := serveWrite_wf a.1 ses e.1 e.2.1 e.2.2 hd hb
    exact ih _ h.1 h.2

@[simp] theorem fenceRequest_wf (s : State) (m : Kmp) (hd : Memory.wf s.dmaBuf = true)
    (hb : Memory.wf s.takeMem.bytes = true) :
    Memory.wf (fenceRequest s m).1.dmaBuf = true ∧ Memory.wf (fenceRequest s m).1.takeMem.bytes = true := by
  simp [fenceRequest, hd, hb]

@[simp] theorem slotAccess_wf (s : State) (head : Nat) (len : Nat) (value : Bytes) (hd : Memory.wf s.dmaBuf = true)
    (hb : Memory.wf s.takeMem.bytes = true) :
    Memory.wf (slotAccess s head len value).1.dmaBuf = true ∧ Memory.wf (slotAccess s head len value).1.takeMem.bytes = true := by
  unfold slotAccess; (repeat' split) <;> simp [hd, hb]

@[simp] theorem updateIr_wf (s : State) (code : Nat) (hd : Memory.wf s.dmaBuf = true)
    (hb : Memory.wf s.takeMem.bytes = true) :
    Memory.wf (updateIr s code).dmaBuf = true ∧ Memory.wf (updateIr s code).takeMem.bytes = true := by
  simp [updateIr, hd, hb]

@[simp] theorem takeBalls_wf (s : State) (code : Nat) (hd : Memory.wf s.dmaBuf = true)
    (hb : Memory.wf s.takeMem.bytes = true) :
    Memory.wf (takeBalls s code).dmaBuf = true ∧ Memory.wf (takeBalls s code).takeMem.bytes = true := by
  simp [takeBalls, hd, hb]

@[simp] theorem selectIr_wf (s : State) (code : Nat) (hd : Memory.wf s.dmaBuf = true)
    (hb : Memory.wf s.takeMem.bytes = true) :
    Memory.wf (selectIr s code).dmaBuf = true ∧ Memory.wf (selectIr s code).takeMem.bytes = true := by
  simp [selectIr, hd, hb]

@[simp] theorem scanCmd_wf (s : State) (hd : Memory.wf s.dmaBuf = true) (hb : Memory.wf s.takeMem.bytes = true) :
    Memory.wf (scanCmd s).dmaBuf = true ∧ Memory.wf (scanCmd s).takeMem.bytes = true := by
  simp [scanCmd, hd, hb]

theorem takeInstr_ok (s : State) (ops : Nat → Bool) (f : State → Nat → Nat → State)
    (h : ∀ s c w, Memory.wf s.dmaBuf = true → Memory.wf s.takeMem.bytes = true →
      Memory.wf (f s c w).dmaBuf = true ∧ Memory.wf (f s c w).takeMem.bytes = true)
    (hd : Memory.wf s.dmaBuf = true) (hb : Memory.wf s.takeMem.bytes = true) :
    Memory.wf (takeInstr s ops f).dmaBuf = true ∧ Memory.wf (takeInstr s ops f).takeMem.bytes = true := by
  unfold takeInstr
  split
  · split
    · exact h _ _ _ (by simp [hd]) (by simp [hb])
    · exact ⟨hd, hb⟩
  · exact ⟨hd, hb⟩

theorem takeCmd_ok (s : State) (w op : Nat) (run : State → Served3)
    (h : ∀ s, Memory.wf s.dmaBuf = true → Memory.wf s.takeMem.bytes = true →
      Memory.wf (run s).1.dmaBuf = true ∧ Memory.wf (run s).1.takeMem.bytes = true)
    (hd : Memory.wf s.dmaBuf = true) (hb : Memory.wf s.takeMem.bytes = true) :
    Memory.wf (takeCmd s w op run).dmaBuf = true ∧ Memory.wf (takeCmd s w op run).takeMem.bytes = true := by
  unfold takeCmd
  split
  · exact ⟨hd, hb⟩
  · extract_lets s1 s2 r
    have h1 : Memory.wf s1.dmaBuf = true ∧ Memory.wf s1.takeMem.bytes = true := scanCmd_wf _ hd hb
    clear_value s1
    have h2 : Memory.wf s2.dmaBuf = true ∧ Memory.wf s2.takeMem.bytes = true := by simp [s2, h1]
    have hr : Memory.wf r.1.dmaBuf = true ∧ Memory.wf r.1.takeMem.bytes = true := h _ h2.1 h2.2
    clear_value r
    split
    · exact h1
    · split
      · simp [h1]
      · split
        · exact hr
        · simp [hr]

theorem serveRequest_ok (s : State) (p : Kmp → Bool) (use : SesUse) (run : State → Rx → Kmp → Served)
    (h : ∀ s rx m, Memory.wf s.dmaBuf = true → Memory.wf s.takeMem.bytes = true →
      Memory.wf (run s rx m).1.dmaBuf = true ∧ Memory.wf (run s rx m).1.takeMem.bytes = true)
    (hd : Memory.wf s.dmaBuf = true) (hb : Memory.wf s.takeMem.bytes = true) :
    Memory.wf (serveRequest s p use run).dmaBuf = true ∧ Memory.wf (serveRequest s p use run).takeMem.bytes = true := by
  unfold serveRequest
  split
  · exact ⟨hd, hb⟩
  · rename_i i rx m _
    extract_lets s1 served
    have h1 : s1.dmaBuf = s.dmaBuf ∧ s1.takeMem.bytes = s.takeMem.bytes := by simp [s1]
    have w1 : Memory.wf s1.dmaBuf = true := by rw [h1.1]; exact hd
    have w2 : Memory.wf s1.takeMem.bytes = true := by rw [h1.2]; exact hb
    have hs : Memory.wf served.dmaBuf = true ∧ Memory.wf served.takeMem.bytes = true := by simp [served, w1, w2]
    have hr := h served rx m hs.1 hs.2
    clear_value s1 served
    split
    · simp [hr]
    · split
      · split
        · simp [w1, w2]
        · simp [hr]
      · split
        · simp [w1, w2]
        · rename_i k _
          extract_lets s2 r
          have h2 : Memory.wf s2.dmaBuf = true ∧ Memory.wf s2.takeMem.bytes = true := by simp [s2, w1, w2]
          have hq : Memory.wf r.1.dmaBuf = true ∧ Memory.wf r.1.takeMem.bytes = true :=
            h _ rx m (by simp [h2]) (by simp [h2])
          clear_value s2 r
          split
          · simp [h2]
          · split
            · simp [hq]
            · exact hq

end Sys2Proof.Machine
end

