-- ==== Sys2Proof/Laws/State.lean ====
section
/-! SUPPORT. What each update of the state leaves: one lemma for each field and each update, true by unfolding, so that no later
proof unfolds a record update. After them, what a read of an updated record gives. -/

namespace Sys2Proof.Machine

open Sys2Proof

section
variable (s : State) (o : Obj) (u sub : Nat) (v : Int)
@[simp] theorem State.setNum_pending : (s.setNum o u sub v).pending = s.pending := rfl
@[simp] theorem State.setNum_variant : (s.setNum o u sub v).variant = s.variant := rfl
@[simp] theorem State.setNum_now : (s.setNum o u sub v).now = s.now := rfl
@[simp] theorem State.setNum_blobs : (s.setNum o u sub v).blobs = s.blobs := rfl
@[simp] theorem State.setNum_fac : (s.setNum o u sub v).fac = s.fac := rfl
@[simp] theorem State.setNum_ans : (s.setNum o u sub v).ans = s.ans := rfl
@[simp] theorem State.setNum_ansBody : (s.setNum o u sub v).ansBody = s.ansBody := rfl
@[simp] theorem State.setNum_queues : (s.setNum o u sub v).queues = s.queues := rfl
@[simp] theorem State.setNum_chans : (s.setNum o u sub v).chans = s.chans := rfl
@[simp] theorem State.setNum_cells : (s.setNum o u sub v).cells = s.cells := rfl
@[simp] theorem State.setNum_excSettle : (s.setNum o u sub v).excSettle = s.excSettle := rfl
@[simp] theorem State.setNum_excLeft : (s.setNum o u sub v).excLeft = s.excLeft := rfl
@[simp] theorem State.setNum_aux : (s.setNum o u sub v).aux = s.aux := rfl
@[simp] theorem State.setNum_auxSettle : (s.setNum o u sub v).auxSettle = s.auxSettle := rfl
@[simp] theorem State.setNum_stages : (s.setNum o u sub v).stages = s.stages := rfl
@[simp] theorem State.setNum_order : (s.setNum o u sub v).order = s.order := rfl
@[simp] theorem State.setNum_ev : (s.setNum o u sub v).ev = s.ev := rfl
@[simp] theorem State.setNum_clk : (s.setNum o u sub v).clk = s.clk := rfl
@[simp] theorem State.setNum_tpos : (s.setNum o u sub v).tpos = s.tpos := rfl
@[simp] theorem State.setNum_caps : (s.setNum o u sub v).caps = s.caps := rfl
@[simp] theorem State.setNum_net : (s.setNum o u sub v).net = s.net := rfl
@[simp] theorem State.setNum_dins : (s.setNum o u sub v).dins = s.dins := rfl
@[simp] theorem State.setNum_takes : (s.setNum o u sub v).takes = s.takes := rfl
@[simp] theorem State.setNum_takeMem : (s.setNum o u sub v).takeMem = s.takeMem := rfl
@[simp] theorem State.setNum_rings : (s.setNum o u sub v).rings = s.rings := rfl
@[simp] theorem State.setNum_cal : (s.setNum o u sub v).cal = s.cal := rfl
@[simp] theorem State.setNum_bands : (s.setNum o u sub v).bands = s.bands := rfl
@[simp] theorem State.setNum_wins : (s.setNum o u sub v).wins = s.wins := rfl
@[simp] theorem State.setNum_cross : (s.setNum o u sub v).cross = s.cross := rfl
@[simp] theorem State.setNum_crossIn : (s.setNum o u sub v).crossIn = s.crossIn := rfl
@[simp] theorem State.setNum_strm : (s.setNum o u sub v).strm = s.strm := rfl
@[simp] theorem State.setNum_cust : (s.setNum o u sub v).cust = s.cust := rfl
@[simp] theorem State.setNum_dmaBuf : (s.setNum o u sub v).dmaBuf = s.dmaBuf := rfl
@[simp] theorem State.setNum_lgo : (s.setNum o u sub v).lgo = s.lgo := rfl
@[simp] theorem State.setNum_dma : (s.setNum o u sub v).dma = s.dma := rfl
@[simp] theorem State.setNum_host : (s.setNum o u sub v).host = s.host := rfl
@[simp] theorem State.setNum_flash : (s.setNum o u sub v).flash = s.flash := rfl
@[simp] theorem State.setNum_power : (s.setNum o u sub v).power = s.power := rfl
@[simp] theorem State.setNum_store : (s.setNum o u sub v).store = s.store := rfl
@[simp] theorem State.setNum_snaps : (s.setNum o u sub v).snaps = s.snaps := rfl
@[simp] theorem State.setNum_queries : (s.setNum o u sub v).queries = s.queries := rfl
@[simp] theorem State.setNum_dbg : (s.setNum o u sub v).dbg = s.dbg := rfl
@[simp] theorem State.setNum_free : (s.setNum o u sub v).free = s.free := rfl
end

section
variable (s : State) (o : Obj) (u sub n : Nat)
@[simp] theorem State.bump_pending : (s.bump o u sub n).pending = s.pending := rfl
@[simp] theorem State.bump_variant : (s.bump o u sub n).variant = s.variant := rfl
@[simp] theorem State.bump_now : (s.bump o u sub n).now = s.now := rfl
@[simp] theorem State.bump_blobs : (s.bump o u sub n).blobs = s.blobs := rfl
@[simp] theorem State.bump_fac : (s.bump o u sub n).fac = s.fac := rfl
@[simp] theorem State.bump_ans : (s.bump o u sub n).ans = s.ans := rfl
@[simp] theorem State.bump_ansBody : (s.bump o u sub n).ansBody = s.ansBody := rfl
@[simp] theorem State.bump_queues : (s.bump o u sub n).queues = s.queues := rfl
@[simp] theorem State.bump_chans : (s.bump o u sub n).chans = s.chans := rfl
@[simp] theorem State.bump_cells : (s.bump o u sub n).cells = s.cells := rfl
@[simp] theorem State.bump_excSettle : (s.bump o u sub n).excSettle = s.excSettle := rfl
@[simp] theorem State.bump_excLeft : (s.bump o u sub n).excLeft = s.excLeft := rfl
@[simp] theorem State.bump_aux : (s.bump o u sub n).aux = s.aux := rfl
@[simp] theorem State.bump_auxSettle : (s.bump o u sub n).auxSettle = s.auxSettle := rfl
@[simp] theorem State.bump_stages : (s.bump o u sub n).stages = s.stages := rfl
@[simp] theorem State.bump_order : (s.bump o u sub n).order = s.order := rfl
@[simp] theorem State.bump_ev : (s.bump o u sub n).ev = s.ev := rfl
@[simp] theorem State.bump_clk : (s.bump o u sub n).clk = s.clk := rfl
@[simp] theorem State.bump_tpos : (s.bump o u sub n).tpos = s.tpos := rfl
@[simp] theorem State.bump_caps : (s.bump o u sub n).caps = s.caps := rfl
@[simp] theorem State.bump_net : (s.bump o u sub n).net = s.net := rfl
@[simp] theorem State.bump_dins : (s.bump o u sub n).dins = s.dins := rfl
@[simp] theorem State.bump_takes : (s.bump o u sub n).takes = s.takes := rfl
@[simp] theorem State.bump_takeMem : (s.bump o u sub n).takeMem = s.takeMem := rfl
@[simp] theorem State.bump_rings : (s.bump o u sub n).rings = s.rings := rfl
@[simp] theorem State.bump_cal : (s.bump o u sub n).cal = s.cal := rfl
@[simp] theorem State.bump_bands : (s.bump o u sub n).bands = s.bands := rfl
@[simp] theorem State.bump_wins : (s.bump o u sub n).wins = s.wins := rfl
@[simp] theorem State.bump_cross : (s.bump o u sub n).cross = s.cross := rfl
@[simp] theorem State.bump_crossIn : (s.bump o u sub n).crossIn = s.crossIn := rfl
@[simp] theorem State.bump_strm : (s.bump o u sub n).strm = s.strm := rfl
@[simp] theorem State.bump_cust : (s.bump o u sub n).cust = s.cust := rfl
@[simp] theorem State.bump_dmaBuf : (s.bump o u sub n).dmaBuf = s.dmaBuf := rfl
@[simp] theorem State.bump_lgo : (s.bump o u sub n).lgo = s.lgo := rfl
@[simp] theorem State.bump_dma : (s.bump o u sub n).dma = s.dma := rfl
@[simp] theorem State.bump_host : (s.bump o u sub n).host = s.host := rfl
@[simp] theorem State.bump_flash : (s.bump o u sub n).flash = s.flash := rfl
@[simp] theorem State.bump_power : (s.bump o u sub n).power = s.power := rfl
@[simp] theorem State.bump_store : (s.bump o u sub n).store = s.store := rfl
@[simp] theorem State.bump_snaps : (s.bump o u sub n).snaps = s.snaps := rfl
@[simp] theorem State.bump_queries : (s.bump o u sub n).queries = s.queries := rfl
@[simp] theorem State.bump_dbg : (s.bump o u sub n).dbg = s.dbg := rfl
@[simp] theorem State.bump_free : (s.bump o u sub n).free = s.free := rfl
end

section
variable (s : State) (o : Obj) (u sub : Nat) (v : Bytes)
@[simp] theorem State.setBytes_pending : (s.setBytes o u sub v).pending = s.pending := rfl
@[simp] theorem State.setBytes_variant : (s.setBytes o u sub v).variant = s.variant := rfl
@[simp] theorem State.setBytes_now : (s.setBytes o u sub v).now = s.now := rfl
@[simp] theorem State.setBytes_regs : (s.setBytes o u sub v).regs = s.regs := rfl
@[simp] theorem State.setBytes_fac : (s.setBytes o u sub v).fac = s.fac := rfl
@[simp] theorem State.setBytes_ans : (s.setBytes o u sub v).ans = s.ans := rfl
@[simp] theorem State.setBytes_ansBody : (s.setBytes o u sub v).ansBody = s.ansBody := rfl
@[simp] theorem State.setBytes_queues : (s.setBytes o u sub v).queues = s.queues := rfl
@[simp] theorem State.setBytes_chans : (s.setBytes o u sub v).chans = s.chans := rfl
@[simp] theorem State.setBytes_cells : (s.setBytes o u sub v).cells = s.cells := rfl
@[simp] theorem State.setBytes_excSettle : (s.setBytes o u sub v).excSettle = s.excSettle := rfl
@[simp] theorem State.setBytes_excLeft : (s.setBytes o u sub v).excLeft = s.excLeft := rfl
@[simp] theorem State.setBytes_aux : (s.setBytes o u sub v).aux = s.aux := rfl
@[simp] theorem State.setBytes_auxSettle : (s.setBytes o u sub v).auxSettle = s.auxSettle := rfl
@[simp] theorem State.setBytes_stages : (s.setBytes o u sub v).stages = s.stages := rfl
@[simp] theorem State.setBytes_order : (s.setBytes o u sub v).order = s.order := rfl
@[simp] theorem State.setBytes_ev : (s.setBytes o u sub v).ev = s.ev := rfl
@[simp] theorem State.setBytes_clk : (s.setBytes o u sub v).clk = s.clk := rfl
@[simp] theorem State.setBytes_tpos : (s.setBytes o u sub v).tpos = s.tpos := rfl
@[simp] theorem State.setBytes_caps : (s.setBytes o u sub v).caps = s.caps := rfl
@[simp] theorem State.setBytes_net : (s.setBytes o u sub v).net = s.net := rfl
@[simp] theorem State.setBytes_dins : (s.setBytes o u sub v).dins = s.dins := rfl
@[simp] theorem State.setBytes_takes : (s.setBytes o u sub v).takes = s.takes := rfl
@[simp] theorem State.setBytes_takeMem : (s.setBytes o u sub v).takeMem = s.takeMem := rfl
@[simp] theorem State.setBytes_rings : (s.setBytes o u sub v).rings = s.rings := rfl
@[simp] theorem State.setBytes_cal : (s.setBytes o u sub v).cal = s.cal := rfl
@[simp] theorem State.setBytes_bands : (s.setBytes o u sub v).bands = s.bands := rfl
@[simp] theorem State.setBytes_wins : (s.setBytes o u sub v).wins = s.wins := rfl
@[simp] theorem State.setBytes_cross : (s.setBytes o u sub v).cross = s.cross := rfl
@[simp] theorem State.setBytes_crossIn : (s.setBytes o u sub v).crossIn = s.crossIn := rfl
@[simp] theorem State.setBytes_strm : (s.setBytes o u sub v).strm = s.strm := rfl
@[simp] theorem State.setBytes_cust : (s.setBytes o u sub v).cust = s.cust := rfl
@[simp] theorem State.setBytes_dmaBuf : (s.setBytes o u sub v).dmaBuf = s.dmaBuf := rfl
@[simp] theorem State.setBytes_lgo : (s.setBytes o u sub v).lgo = s.lgo := rfl
@[simp] theorem State.setBytes_dma : (s.setBytes o u sub v).dma = s.dma := rfl
@[simp] theorem State.setBytes_host : (s.setBytes o u sub v).host = s.host := rfl
@[simp] theorem State.setBytes_flash : (s.setBytes o u sub v).flash = s.flash := rfl
@[simp] theorem State.setBytes_power : (s.setBytes o u sub v).power = s.power := rfl
@[simp] theorem State.setBytes_store : (s.setBytes o u sub v).store = s.store := rfl
@[simp] theorem State.setBytes_snaps : (s.setBytes o u sub v).snaps = s.snaps := rfl
@[simp] theorem State.setBytes_queries : (s.setBytes o u sub v).queries = s.queries := rfl
@[simp] theorem State.setBytes_dbg : (s.setBytes o u sub v).dbg = s.dbg := rfl
@[simp] theorem State.setBytes_free : (s.setBytes o u sub v).free = s.free := rfl
@[simp] theorem State.setBytes_num (p : Obj) (w b : Nat) : (s.setBytes o u sub v).num p w b = s.num p w b := rfl
@[simp] theorem State.setBytes_nat (p : Obj) (w b : Nat) : (s.setBytes o u sub v).nat p w b = s.nat p w b := rfl
end

section
variable (s : State)
@[simp] theorem State.draw_free : (s.draw).free = s.free + 1 := rfl
@[simp] theorem State.draw_pending : (s.draw).pending = s.pending := rfl
@[simp] theorem State.draw_variant : (s.draw).variant = s.variant := rfl
@[simp] theorem State.draw_now : (s.draw).now = s.now := rfl
@[simp] theorem State.draw_regs : (s.draw).regs = s.regs := rfl
@[simp] theorem State.draw_blobs : (s.draw).blobs = s.blobs := rfl
@[simp] theorem State.draw_fac : (s.draw).fac = s.fac := rfl
@[simp] theorem State.draw_ans : (s.draw).ans = s.ans := rfl
@[simp] theorem State.draw_ansBody : (s.draw).ansBody = s.ansBody := rfl
@[simp] theorem State.draw_queues : (s.draw).queues = s.queues := rfl
@[simp] theorem State.draw_chans : (s.draw).chans = s.chans := rfl
@[simp] theorem State.draw_cells : (s.draw).cells = s.cells := rfl
@[simp] theorem State.draw_excSettle : (s.draw).excSettle = s.excSettle := rfl
@[simp] theorem State.draw_excLeft : (s.draw).excLeft = s.excLeft := rfl
@[simp] theorem State.draw_aux : (s.draw).aux = s.aux := rfl
@[simp] theorem State.draw_auxSettle : (s.draw).auxSettle = s.auxSettle := rfl
@[simp] theorem State.draw_stages : (s.draw).stages = s.stages := rfl
@[simp] theorem State.draw_order : (s.draw).order = s.order := rfl
@[simp] theorem State.draw_ev : (s.draw).ev = s.ev := rfl
@[simp] theorem State.draw_clk : (s.draw).clk = s.clk := rfl
@[simp] theorem State.draw_tpos : (s.draw).tpos = s.tpos := rfl
@[simp] theorem State.draw_caps : (s.draw).caps = s.caps := rfl
@[simp] theorem State.draw_net : (s.draw).net = s.net := rfl
@[simp] theorem State.draw_dins : (s.draw).dins = s.dins := rfl
@[simp] theorem State.draw_takes : (s.draw).takes = s.takes := rfl
@[simp] theorem State.draw_takeMem : (s.draw).takeMem = s.takeMem := rfl
@[simp] theorem State.draw_rings : (s.draw).rings = s.rings := rfl
@[simp] theorem State.draw_cal : (s.draw).cal = s.cal := rfl
@[simp] theorem State.draw_bands : (s.draw).bands = s.bands := rfl
@[simp] theorem State.draw_wins : (s.draw).wins = s.wins := rfl
@[simp] theorem State.draw_cross : (s.draw).cross = s.cross := rfl
@[simp] theorem State.draw_crossIn : (s.draw).crossIn = s.crossIn := rfl
@[simp] theorem State.draw_strm : (s.draw).strm = s.strm := rfl
@[simp] theorem State.draw_cust : (s.draw).cust = s.cust := rfl
@[simp] theorem State.draw_dmaBuf : (s.draw).dmaBuf = s.dmaBuf := rfl
@[simp] theorem State.draw_lgo : (s.draw).lgo = s.lgo := rfl
@[simp] theorem State.draw_dma : (s.draw).dma = s.dma := rfl
@[simp] theorem State.draw_host : (s.draw).host = s.host := rfl
@[simp] theorem State.draw_flash : (s.draw).flash = s.flash := rfl
@[simp] theorem State.draw_power : (s.draw).power = s.power := rfl
@[simp] theorem State.draw_store : (s.draw).store = s.store := rfl
@[simp] theorem State.draw_snaps : (s.draw).snaps = s.snaps := rfl
@[simp] theorem State.draw_queries : (s.draw).queries = s.queries := rfl
@[simp] theorem State.draw_dbg : (s.draw).dbg = s.dbg := rfl
@[simp] theorem State.draw_num (p : Obj) (w b : Nat) : (s.draw).num p w b = s.num p w b := rfl
@[simp] theorem State.draw_nat (p : Obj) (w b : Nat) : (s.draw).nat p w b = s.nat p w b := rfl
@[simp] theorem State.draw_bytes (p : Obj) (w b : Nat) : (s.draw).bytes p w b = s.bytes p w b := rfl
end

section
variable (s : State) (f : AuxSt → AuxSt)
@[simp] theorem State.modAux_aux : (s.modAux f).aux = f s.aux := rfl
@[simp] theorem State.modAux_pending : (s.modAux f).pending = s.pending := rfl
@[simp] theorem State.modAux_variant : (s.modAux f).variant = s.variant := rfl
@[simp] theorem State.modAux_now : (s.modAux f).now = s.now := rfl
@[simp] theorem State.modAux_regs : (s.modAux f).regs = s.regs := rfl
@[simp] theorem State.modAux_blobs : (s.modAux f).blobs = s.blobs := rfl
@[simp] theorem State.modAux_fac : (s.modAux f).fac = s.fac := rfl
@[simp] theorem State.modAux_ans : (s.modAux f).ans = s.ans := rfl
@[simp] theorem State.modAux_ansBody : (s.modAux f).ansBody = s.ansBody := rfl
@[simp] theorem State.modAux_queues : (s.modAux f).queues = s.queues := rfl
@[simp] theorem State.modAux_chans : (s.modAux f).chans = s.chans := rfl
@[simp] theorem State.modAux_cells : (s.modAux f).cells = s.cells := rfl
@[simp] theorem State.modAux_excSettle : (s.modAux f).excSettle = s.excSettle := rfl
@[simp] theorem State.modAux_excLeft : (s.modAux f).excLeft = s.excLeft := rfl
@[simp] theorem State.modAux_auxSettle : (s.modAux f).auxSettle = s.auxSettle := rfl
@[simp] theorem State.modAux_stages : (s.modAux f).stages = s.stages := rfl
@[simp] theorem State.modAux_order : (s.modAux f).order = s.order := rfl
@[simp] theorem State.modAux_ev : (s.modAux f).ev = s.ev := rfl
@[simp] theorem State.modAux_clk : (s.modAux f).clk = s.clk := rfl
@[simp] theorem State.modAux_tpos : (s.modAux f).tpos = s.tpos := rfl
@[simp] theorem State.modAux_caps : (s.modAux f).caps = s.caps := rfl
@[simp] theorem State.modAux_net : (s.modAux f).net = s.net := rfl
@[simp] theorem State.modAux_dins : (s.modAux f).dins = s.dins := rfl
@[simp] theorem State.modAux_takes : (s.modAux f).takes = s.takes := rfl
@[simp] theorem State.modAux_takeMem : (s.modAux f).takeMem = s.takeMem := rfl
@[simp] theorem State.modAux_rings : (s.modAux f).rings = s.rings := rfl
@[simp] theorem State.modAux_cal : (s.modAux f).cal = s.cal := rfl
@[simp] theorem State.modAux_bands : (s.modAux f).bands = s.bands := rfl
@[simp] theorem State.modAux_wins : (s.modAux f).wins = s.wins := rfl
@[simp] theorem State.modAux_cross : (s.modAux f).cross = s.cross := rfl
@[simp] theorem State.modAux_crossIn : (s.modAux f).crossIn = s.crossIn := rfl
@[simp] theorem State.modAux_strm : (s.modAux f).strm = s.strm := rfl
@[simp] theorem State.modAux_cust : (s.modAux f).cust = s.cust := rfl
@[simp] theorem State.modAux_dmaBuf : (s.modAux f).dmaBuf = s.dmaBuf := rfl
@[simp] theorem State.modAux_lgo : (s.modAux f).lgo = s.lgo := rfl
@[simp] theorem State.modAux_dma : (s.modAux f).dma = s.dma := rfl
@[simp] theorem State.modAux_host : (s.modAux f).host = s.host := rfl
@[simp] theorem State.modAux_flash : (s.modAux f).flash = s.flash := rfl
@[simp] theorem State.modAux_power : (s.modAux f).power = s.power := rfl
@[simp] theorem State.modAux_store : (s.modAux f).store = s.store := rfl
@[simp] theorem State.modAux_snaps : (s.modAux f).snaps = s.snaps := rfl
@[simp] theorem State.modAux_queries : (s.modAux f).queries = s.queries := rfl
@[simp] theorem State.modAux_dbg : (s.modAux f).dbg = s.dbg := rfl
@[simp] theorem State.modAux_free : (s.modAux f).free = s.free := rfl
@[simp] theorem State.modAux_num (p : Obj) (w b : Nat) : (s.modAux f).num p w b = s.num p w b := rfl
@[simp] theorem State.modAux_nat (p : Obj) (w b : Nat) : (s.modAux f).nat p w b = s.nat p w b := rfl
@[simp] theorem State.modAux_bytes (p : Obj) (w b : Nat) : (s.modAux f).bytes p w b = s.bytes p w b := rfl
end

section
variable (s : State) (f : CalSt → CalSt)
@[simp] theorem State.modCal_cal : (s.modCal f).cal = f s.cal := rfl
@[simp] theorem State.modCal_pending : (s.modCal f).pending = s.pending := rfl
@[simp] theorem State.modCal_variant : (s.modCal f).variant = s.variant := rfl
@[simp] theorem State.modCal_now : (s.modCal f).now = s.now := rfl
@[simp] theorem State.modCal_regs : (s.modCal f).regs = s.regs := rfl
@[simp] theorem State.modCal_blobs : (s.modCal f).blobs = s.blobs := rfl
@[simp] theorem State.modCal_fac : (s.modCal f).fac = s.fac := rfl
@[simp] theorem State.modCal_ans : (s.modCal f).ans = s.ans := rfl
@[simp] theorem State.modCal_ansBody : (s.modCal f).ansBody = s.ansBody := rfl
@[simp] theorem State.modCal_queues : (s.modCal f).queues = s.queues := rfl
@[simp] theorem State.modCal_chans : (s.modCal f).chans = s.chans := rfl
@[simp] theorem State.modCal_cells : (s.modCal f).cells = s.cells := rfl
@[simp] theorem State.modCal_excSettle : (s.modCal f).excSettle = s.excSettle := rfl
@[simp] theorem State.modCal_excLeft : (s.modCal f).excLeft = s.excLeft := rfl
@[simp] theorem State.modCal_aux : (s.modCal f).aux = s.aux := rfl
@[simp] theorem State.modCal_auxSettle : (s.modCal f).auxSettle = s.auxSettle := rfl
@[simp] theorem State.modCal_stages : (s.modCal f).stages = s.stages := rfl
@[simp] theorem State.modCal_order : (s.modCal f).order = s.order := rfl
@[simp] theorem State.modCal_ev : (s.modCal f).ev = s.ev := rfl
@[simp] theorem State.modCal_clk : (s.modCal f).clk = s.clk := rfl
@[simp] theorem State.modCal_tpos : (s.modCal f).tpos = s.tpos := rfl
@[simp] theorem State.modCal_caps : (s.modCal f).caps = s.caps := rfl
@[simp] theorem State.modCal_net : (s.modCal f).net = s.net := rfl
@[simp] theorem State.modCal_dins : (s.modCal f).dins = s.dins := rfl
@[simp] theorem State.modCal_takes : (s.modCal f).takes = s.takes := rfl
@[simp] theorem State.modCal_takeMem : (s.modCal f).takeMem = s.takeMem := rfl
@[simp] theorem State.modCal_rings : (s.modCal f).rings = s.rings := rfl
@[simp] theorem State.modCal_bands : (s.modCal f).bands = s.bands := rfl
@[simp] theorem State.modCal_wins : (s.modCal f).wins = s.wins := rfl
@[simp] theorem State.modCal_cross : (s.modCal f).cross = s.cross := rfl
@[simp] theorem State.modCal_crossIn : (s.modCal f).crossIn = s.crossIn := rfl
@[simp] theorem State.modCal_strm : (s.modCal f).strm = s.strm := rfl
@[simp] theorem State.modCal_cust : (s.modCal f).cust = s.cust := rfl
@[simp] theorem State.modCal_dmaBuf : (s.modCal f).dmaBuf = s.dmaBuf := rfl
@[simp] theorem State.modCal_lgo : (s.modCal f).lgo = s.lgo := rfl
@[simp] theorem State.modCal_dma : (s.modCal f).dma = s.dma := rfl
@[simp] theorem State.modCal_host : (s.modCal f).host = s.host := rfl
@[simp] theorem State.modCal_flash : (s.modCal f).flash = s.flash := rfl
@[simp] theorem State.modCal_power : (s.modCal f).power = s.power := rfl
@[simp] theorem State.modCal_store : (s.modCal f).store = s.store := rfl
@[simp] theorem State.modCal_snaps : (s.modCal f).snaps = s.snaps := rfl
@[simp] theorem State.modCal_queries : (s.modCal f).queries = s.queries := rfl
@[simp] theorem State.modCal_dbg : (s.modCal f).dbg = s.dbg := rfl
@[simp] theorem State.modCal_free : (s.modCal f).free = s.free := rfl
@[simp] theorem State.modCal_num (p : Obj) (w b : Nat) : (s.modCal f).num p w b = s.num p w b := rfl
@[simp] theorem State.modCal_nat (p : Obj) (w b : Nat) : (s.modCal f).nat p w b = s.nat p w b := rfl
@[simp] theorem State.modCal_bytes (p : Obj) (w b : Nat) : (s.modCal f).bytes p w b = s.bytes p w b := rfl
end

section
variable (s : State) (f : ClkSt → ClkSt)
@[simp] theorem State.modClk_clk : (s.modClk f).clk = f s.clk := rfl
@[simp] theorem State.modClk_pending : (s.modClk f).pending = s.pending := rfl
@[simp] theorem State.modClk_variant : (s.modClk f).variant = s.variant := rfl
@[simp] theorem State.modClk_now : (s.modClk f).now = s.now := rfl
@[simp] theorem State.modClk_regs : (s.modClk f).regs = s.regs := rfl
@[simp] theorem State.modClk_blobs : (s.modClk f).blobs = s.blobs := rfl
@[simp] theorem State.modClk_fac : (s.modClk f).fac = s.fac := rfl
@[simp] theorem State.modClk_ans : (s.modClk f).ans = s.ans := rfl
@[simp] theorem State.modClk_ansBody : (s.modClk f).ansBody = s.ansBody := rfl
@[simp] theorem State.modClk_queues : (s.modClk f).queues = s.queues := rfl
@[simp] theorem State.modClk_chans : (s.modClk f).chans = s.chans := rfl
@[simp] theorem State.modClk_cells : (s.modClk f).cells = s.cells := rfl
@[simp] theorem State.modClk_excSettle : (s.modClk f).excSettle = s.excSettle := rfl
@[simp] theorem State.modClk_excLeft : (s.modClk f).excLeft = s.excLeft := rfl
@[simp] theorem State.modClk_aux : (s.modClk f).aux = s.aux := rfl
@[simp] theorem State.modClk_auxSettle : (s.modClk f).auxSettle = s.auxSettle := rfl
@[simp] theorem State.modClk_stages : (s.modClk f).stages = s.stages := rfl
@[simp] theorem State.modClk_order : (s.modClk f).order = s.order := rfl
@[simp] theorem State.modClk_ev : (s.modClk f).ev = s.ev := rfl
@[simp] theorem State.modClk_tpos : (s.modClk f).tpos = s.tpos := rfl
@[simp] theorem State.modClk_caps : (s.modClk f).caps = s.caps := rfl
@[simp] theorem State.modClk_net : (s.modClk f).net = s.net := rfl
@[simp] theorem State.modClk_dins : (s.modClk f).dins = s.dins := rfl
@[simp] theorem State.modClk_takes : (s.modClk f).takes = s.takes := rfl
@[simp] theorem State.modClk_takeMem : (s.modClk f).takeMem = s.takeMem := rfl
@[simp] theorem State.modClk_rings : (s.modClk f).rings = s.rings := rfl
@[simp] theorem State.modClk_cal : (s.modClk f).cal = s.cal := rfl
@[simp] theorem State.modClk_bands : (s.modClk f).bands = s.bands := rfl
@[simp] theorem State.modClk_wins : (s.modClk f).wins = s.wins := rfl
@[simp] theorem State.modClk_cross : (s.modClk f).cross = s.cross := rfl
@[simp] theorem State.modClk_crossIn : (s.modClk f).crossIn = s.crossIn := rfl
@[simp] theorem State.modClk_strm : (s.modClk f).strm = s.strm := rfl
@[simp] theorem State.modClk_cust : (s.modClk f).cust = s.cust := rfl
@[simp] theorem State.modClk_dmaBuf : (s.modClk f).dmaBuf = s.dmaBuf := rfl
@[simp] theorem State.modClk_lgo : (s.modClk f).lgo = s.lgo := rfl
@[simp] theorem State.modClk_dma : (s.modClk f).dma = s.dma := rfl
@[simp] theorem State.modClk_host : (s.modClk f).host = s.host := rfl
@[simp] theorem State.modClk_flash : (s.modClk f).flash = s.flash := rfl
@[simp] theorem State.modClk_power : (s.modClk f).power = s.power := rfl
@[simp] theorem State.modClk_store : (s.modClk f).store = s.store := rfl
@[simp] theorem State.modClk_snaps : (s.modClk f).snaps = s.snaps := rfl
@[simp] theorem State.modClk_queries : (s.modClk f).queries = s.queries := rfl
@[simp] theorem State.modClk_dbg : (s.modClk f).dbg = s.dbg := rfl
@[simp] theorem State.modClk_free : (s.modClk f).free = s.free := rfl
@[simp] theorem State.modClk_num (p : Obj) (w b : Nat) : (s.modClk f).num p w b = s.num p w b := rfl
@[simp] theorem State.modClk_nat (p : Obj) (w b : Nat) : (s.modClk f).nat p w b = s.nat p w b := rfl
@[simp] theorem State.modClk_bytes (p : Obj) (w b : Nat) : (s.modClk f).bytes p w b = s.bytes p w b := rfl
end

section
variable (s : State) (f : CustSt → CustSt)
@[simp] theorem State.modCust_cust : (s.modCust f).cust = f s.cust := rfl
@[simp] theorem State.modCust_pending : (s.modCust f).pending = s.pending := rfl
@[simp] theorem State.modCust_variant : (s.modCust f).variant = s.variant := rfl
@[simp] theorem State.modCust_now : (s.modCust f).now = s.now := rfl
@[simp] theorem State.modCust_regs : (s.modCust f).regs = s.regs := rfl
@[simp] theorem State.modCust_blobs : (s.modCust f).blobs = s.blobs := rfl
@[simp] theorem State.modCust_fac : (s.modCust f).fac = s.fac := rfl
@[simp] theorem State.modCust_ans : (s.modCust f).ans = s.ans := rfl
@[simp] theorem State.modCust_ansBody : (s.modCust f).ansBody = s.ansBody := rfl
@[simp] theorem State.modCust_queues : (s.modCust f).queues = s.queues := rfl
@[simp] theorem State.modCust_chans : (s.modCust f).chans = s.chans := rfl
@[simp] theorem State.modCust_cells : (s.modCust f).cells = s.cells := rfl
@[simp] theorem State.modCust_excSettle : (s.modCust f).excSettle = s.excSettle := rfl
@[simp] theorem State.modCust_excLeft : (s.modCust f).excLeft = s.excLeft := rfl
@[simp] theorem State.modCust_aux : (s.modCust f).aux = s.aux := rfl
@[simp] theorem State.modCust_auxSettle : (s.modCust f).auxSettle = s.auxSettle := rfl
@[simp] theorem State.modCust_stages : (s.modCust f).stages = s.stages := rfl
@[simp] theorem State.modCust_order : (s.modCust f).order = s.order := rfl
@[simp] theorem State.modCust_ev : (s.modCust f).ev = s.ev := rfl
@[simp] theorem State.modCust_clk : (s.modCust f).clk = s.clk := rfl
@[simp] theorem State.modCust_tpos : (s.modCust f).tpos = s.tpos := rfl
@[simp] theorem State.modCust_caps : (s.modCust f).caps = s.caps := rfl
@[simp] theorem State.modCust_net : (s.modCust f).net = s.net := rfl
@[simp] theorem State.modCust_dins : (s.modCust f).dins = s.dins := rfl
@[simp] theorem State.modCust_takes : (s.modCust f).takes = s.takes := rfl
@[simp] theorem State.modCust_takeMem : (s.modCust f).takeMem = s.takeMem := rfl
@[simp] theorem State.modCust_rings : (s.modCust f).rings = s.rings := rfl
@[simp] theorem State.modCust_cal : (s.modCust f).cal = s.cal := rfl
@[simp] theorem State.modCust_bands : (s.modCust f).bands = s.bands := rfl
@[simp] theorem State.modCust_wins : (s.modCust f).wins = s.wins := rfl
@[simp] theorem State.modCust_cross : (s.modCust f).cross = s.cross := rfl
@[simp] theorem State.modCust_crossIn : (s.modCust f).crossIn = s.crossIn := rfl
@[simp] theorem State.modCust_strm : (s.modCust f).strm = s.strm := rfl
@[simp] theorem State.modCust_dmaBuf : (s.modCust f).dmaBuf = s.dmaBuf := rfl
@[simp] theorem State.modCust_lgo : (s.modCust f).lgo = s.lgo := rfl
@[simp] theorem State.modCust_dma : (s.modCust f).dma = s.dma := rfl
@[simp] theorem State.modCust_host : (s.modCust f).host = s.host := rfl
@[simp] theorem State.modCust_flash : (s.modCust f).flash = s.flash := rfl
@[simp] theorem State.modCust_power : (s.modCust f).power = s.power := rfl
@[simp] theorem State.modCust_store : (s.modCust f).store = s.store := rfl
@[simp] theorem State.modCust_snaps : (s.modCust f).snaps = s.snaps := rfl
@[simp] theorem State.modCust_queries : (s.modCust f).queries = s.queries := rfl
@[simp] theorem State.modCust_dbg : (s.modCust f).dbg = s.dbg := rfl
@[simp] theorem State.modCust_free : (s.modCust f).free = s.free := rfl
@[simp] theorem State.modCust_num (p : Obj) (w b : Nat) : (s.modCust f).num p w b = s.num p w b := rfl
@[simp] theorem State.modCust_nat (p : Obj) (w b : Nat) : (s.modCust f).nat p w b = s.nat p w b := rfl
@[simp] theorem State.modCust_bytes (p : Obj) (w b : Nat) : (s.modCust f).bytes p w b = s.bytes p w b := rfl
end

section
variable (s : State) (f : DebugSt → DebugSt)
@[simp] theorem State.modDbg_dbg : (s.modDbg f).dbg = f s.dbg := rfl
@[simp] theorem State.modDbg_pending : (s.modDbg f).pending = s.pending := rfl
@[simp] theorem State.modDbg_variant : (s.modDbg f).variant = s.variant := rfl
@[simp] theorem State.modDbg_now : (s.modDbg f).now = s.now := rfl
@[simp] theorem State.modDbg_regs : (s.modDbg f).regs = s.regs := rfl
@[simp] theorem State.modDbg_blobs : (s.modDbg f).blobs = s.blobs := rfl
@[simp] theorem State.modDbg_fac : (s.modDbg f).fac = s.fac := rfl
@[simp] theorem State.modDbg_ans : (s.modDbg f).ans = s.ans := rfl
@[simp] theorem State.modDbg_ansBody : (s.modDbg f).ansBody = s.ansBody := rfl
@[simp] theorem State.modDbg_queues : (s.modDbg f).queues = s.queues := rfl
@[simp] theorem State.modDbg_chans : (s.modDbg f).chans = s.chans := rfl
@[simp] theorem State.modDbg_cells : (s.modDbg f).cells = s.cells := rfl
@[simp] theorem State.modDbg_excSettle : (s.modDbg f).excSettle = s.excSettle := rfl
@[simp] theorem State.modDbg_excLeft : (s.modDbg f).excLeft = s.excLeft := rfl
@[simp] theorem State.modDbg_aux : (s.modDbg f).aux = s.aux := rfl
@[simp] theorem State.modDbg_auxSettle : (s.modDbg f).auxSettle = s.auxSettle := rfl
@[simp] theorem State.modDbg_stages : (s.modDbg f).stages = s.stages := rfl
@[simp] theorem State.modDbg_order : (s.modDbg f).order = s.order := rfl
@[simp] theorem State.modDbg_ev : (s.modDbg f).ev = s.ev := rfl
@[simp] theorem State.modDbg_clk : (s.modDbg f).clk = s.clk := rfl
@[simp] theorem State.modDbg_tpos : (s.modDbg f).tpos = s.tpos := rfl
@[simp] theorem State.modDbg_caps : (s.modDbg f).caps = s.caps := rfl
@[simp] theorem State.modDbg_net : (s.modDbg f).net = s.net := rfl
@[simp] theorem State.modDbg_dins : (s.modDbg f).dins = s.dins := rfl
@[simp] theorem State.modDbg_takes : (s.modDbg f).takes = s.takes := rfl
@[simp] theorem State.modDbg_takeMem : (s.modDbg f).takeMem = s.takeMem := rfl
@[simp] theorem State.modDbg_rings : (s.modDbg f).rings = s.rings := rfl
@[simp] theorem State.modDbg_cal : (s.modDbg f).cal = s.cal := rfl
@[simp] theorem State.modDbg_bands : (s.modDbg f).bands = s.bands := rfl
@[simp] theorem State.modDbg_wins : (s.modDbg f).wins = s.wins := rfl
@[simp] theorem State.modDbg_cross : (s.modDbg f).cross = s.cross := rfl
@[simp] theorem State.modDbg_crossIn : (s.modDbg f).crossIn = s.crossIn := rfl
@[simp] theorem State.modDbg_strm : (s.modDbg f).strm = s.strm := rfl
@[simp] theorem State.modDbg_cust : (s.modDbg f).cust = s.cust := rfl
@[simp] theorem State.modDbg_dmaBuf : (s.modDbg f).dmaBuf = s.dmaBuf := rfl
@[simp] theorem State.modDbg_lgo : (s.modDbg f).lgo = s.lgo := rfl
@[simp] theorem State.modDbg_dma : (s.modDbg f).dma = s.dma := rfl
@[simp] theorem State.modDbg_host : (s.modDbg f).host = s.host := rfl
@[simp] theorem State.modDbg_flash : (s.modDbg f).flash = s.flash := rfl
@[simp] theorem State.modDbg_power : (s.modDbg f).power = s.power := rfl
@[simp] theorem State.modDbg_store : (s.modDbg f).store = s.store := rfl
@[simp] theorem State.modDbg_snaps : (s.modDbg f).snaps = s.snaps := rfl
@[simp] theorem State.modDbg_queries : (s.modDbg f).queries = s.queries := rfl
@[simp] theorem State.modDbg_free : (s.modDbg f).free = s.free := rfl
@[simp] theorem State.modDbg_num (p : Obj) (w b : Nat) : (s.modDbg f).num p w b = s.num p w b := rfl
@[simp] theorem State.modDbg_nat (p : Obj) (w b : Nat) : (s.modDbg f).nat p w b = s.nat p w b := rfl
@[simp] theorem State.modDbg_bytes (p : Obj) (w b : Nat) : (s.modDbg f).bytes p w b = s.bytes p w b := rfl
end

section
variable (s : State) (f : DmaSt → DmaSt)
@[simp] theorem State.modDma_dma : (s.modDma f).dma = f s.dma := rfl
@[simp] theorem State.modDma_pending : (s.modDma f).pending = s.pending := rfl
@[simp] theorem State.modDma_variant : (s.modDma f).variant = s.variant := rfl
@[simp] theorem State.modDma_now : (s.modDma f).now = s.now := rfl
@[simp] theorem State.modDma_regs : (s.modDma f).regs = s.regs := rfl
@[simp] theorem State.modDma_blobs : (s.modDma f).blobs = s.blobs := rfl
@[simp] theorem State.modDma_fac : (s.modDma f).fac = s.fac := rfl
@[simp] theorem State.modDma_ans : (s.modDma f).ans = s.ans := rfl
@[simp] theorem State.modDma_ansBody : (s.modDma f).ansBody = s.ansBody := rfl
@[simp] theorem State.modDma_queues : (s.modDma f).queues = s.queues := rfl
@[simp] theorem State.modDma_chans : (s.modDma f).chans = s.chans := rfl
@[simp] theorem State.modDma_cells : (s.modDma f).cells = s.cells := rfl
@[simp] theorem State.modDma_excSettle : (s.modDma f).excSettle = s.excSettle := rfl
@[simp] theorem State.modDma_excLeft : (s.modDma f).excLeft = s.excLeft := rfl
@[simp] theorem State.modDma_aux : (s.modDma f).aux = s.aux := rfl
@[simp] theorem State.modDma_auxSettle : (s.modDma f).auxSettle = s.auxSettle := rfl
@[simp] theorem State.modDma_stages : (s.modDma f).stages = s.stages := rfl
@[simp] theorem State.modDma_order : (s.modDma f).order = s.order := rfl
@[simp] theorem State.modDma_ev : (s.modDma f).ev = s.ev := rfl
@[simp] theorem State.modDma_clk : (s.modDma f).clk = s.clk := rfl
@[simp] theorem State.modDma_tpos : (s.modDma f).tpos = s.tpos := rfl
@[simp] theorem State.modDma_caps : (s.modDma f).caps = s.caps := rfl
@[simp] theorem State.modDma_net : (s.modDma f).net = s.net := rfl
@[simp] theorem State.modDma_dins : (s.modDma f).dins = s.dins := rfl
@[simp] theorem State.modDma_takes : (s.modDma f).takes = s.takes := rfl
@[simp] theorem State.modDma_takeMem : (s.modDma f).takeMem = s.takeMem := rfl
@[simp] theorem State.modDma_rings : (s.modDma f).rings = s.rings := rfl
@[simp] theorem State.modDma_cal : (s.modDma f).cal = s.cal := rfl
@[simp] theorem State.modDma_bands : (s.modDma f).bands = s.bands := rfl
@[simp] theorem State.modDma_wins : (s.modDma f).wins = s.wins := rfl
@[simp] theorem State.modDma_cross : (s.modDma f).cross = s.cross := rfl
@[simp] theorem State.modDma_crossIn : (s.modDma f).crossIn = s.crossIn := rfl
@[simp] theorem State.modDma_strm : (s.modDma f).strm = s.strm := rfl
@[simp] theorem State.modDma_cust : (s.modDma f).cust = s.cust := rfl
@[simp] theorem State.modDma_dmaBuf : (s.modDma f).dmaBuf = s.dmaBuf := rfl
@[simp] theorem State.modDma_lgo : (s.modDma f).lgo = s.lgo := rfl
@[simp] theorem State.modDma_host : (s.modDma f).host = s.host := rfl
@[simp] theorem State.modDma_flash : (s.modDma f).flash = s.flash := rfl
@[simp] theorem State.modDma_power : (s.modDma f).power = s.power := rfl
@[simp] theorem State.modDma_store : (s.modDma f).store = s.store := rfl
@[simp] theorem State.modDma_snaps : (s.modDma f).snaps = s.snaps := rfl
@[simp] theorem State.modDma_queries : (s.modDma f).queries = s.queries := rfl
@[simp] theorem State.modDma_dbg : (s.modDma f).dbg = s.dbg := rfl
@[simp] theorem State.modDma_free : (s.modDma f).free = s.free := rfl
@[simp] theorem State.modDma_num (p : Obj) (w b : Nat) : (s.modDma f).num p w b = s.num p w b := rfl
@[simp] theorem State.modDma_nat (p : Obj) (w b : Nat) : (s.modDma f).nat p w b = s.nat p w b := rfl
@[simp] theorem State.modDma_bytes (p : Obj) (w b : Nat) : (s.modDma f).bytes p w b = s.bytes p w b := rfl
end

section
variable (s : State) (f : EvSt → EvSt)
@[simp] theorem State.modEv_ev : (s.modEv f).ev = f s.ev := rfl
@[simp] theorem State.modEv_pending : (s.modEv f).pending = s.pending := rfl
@[simp] theorem State.modEv_variant : (s.modEv f).variant = s.variant := rfl
@[simp] theorem State.modEv_now : (s.modEv f).now = s.now := rfl
@[simp] theorem State.modEv_regs : (s.modEv f).regs = s.regs := rfl
@[simp] theorem State.modEv_blobs : (s.modEv f).blobs = s.blobs := rfl
@[simp] theorem State.modEv_fac : (s.modEv f).fac = s.fac := rfl
@[simp] theorem State.modEv_ans : (s.modEv f).ans = s.ans := rfl
@[simp] theorem State.modEv_ansBody : (s.modEv f).ansBody = s.ansBody := rfl
@[simp] theorem State.modEv_queues : (s.modEv f).queues = s.queues := rfl
@[simp] theorem State.modEv_chans : (s.modEv f).chans = s.chans := rfl
@[simp] theorem State.modEv_cells : (s.modEv f).cells = s.cells := rfl
@[simp] theorem State.modEv_excSettle : (s.modEv f).excSettle = s.excSettle := rfl
@[simp] theorem State.modEv_excLeft : (s.modEv f).excLeft = s.excLeft := rfl
@[simp] theorem State.modEv_aux : (s.modEv f).aux = s.aux := rfl
@[simp] theorem State.modEv_auxSettle : (s.modEv f).auxSettle = s.auxSettle := rfl
@[simp] theorem State.modEv_stages : (s.modEv f).stages = s.stages := rfl
@[simp] theorem State.modEv_order : (s.modEv f).order = s.order := rfl
@[simp] theorem State.modEv_clk : (s.modEv f).clk = s.clk := rfl
@[simp] theorem State.modEv_tpos : (s.modEv f).tpos = s.tpos := rfl
@[simp] theorem State.modEv_caps : (s.modEv f).caps = s.caps := rfl
@[simp] theorem State.modEv_net : (s.modEv f).net = s.net := rfl
@[simp] theorem State.modEv_dins : (s.modEv f).dins = s.dins := rfl
@[simp] theorem State.modEv_takes : (s.modEv f).takes = s.takes := rfl
@[simp] theorem State.modEv_takeMem : (s.modEv f).takeMem = s.takeMem := rfl
@[simp] theorem State.modEv_rings : (s.modEv f).rings = s.rings := rfl
@[simp] theorem State.modEv_cal : (s.modEv f).cal = s.cal := rfl
@[simp] theorem State.modEv_bands : (s.modEv f).bands = s.bands := rfl
@[simp] theorem State.modEv_wins : (s.modEv f).wins = s.wins := rfl
@[simp] theorem State.modEv_cross : (s.modEv f).cross = s.cross := rfl
@[simp] theorem State.modEv_crossIn : (s.modEv f).crossIn = s.crossIn := rfl
@[simp] theorem State.modEv_strm : (s.modEv f).strm = s.strm := rfl
@[simp] theorem State.modEv_cust : (s.modEv f).cust = s.cust := rfl
@[simp] theorem State.modEv_dmaBuf : (s.modEv f).dmaBuf = s.dmaBuf := rfl
@[simp] theorem State.modEv_lgo : (s.modEv f).lgo = s.lgo := rfl
@[simp] theorem State.modEv_dma : (s.modEv f).dma = s.dma := rfl
@[simp] theorem State.modEv_host : (s.modEv f).host = s.host := rfl
@[simp] theorem State.modEv_flash : (s.modEv f).flash = s.flash := rfl
@[simp] theorem State.modEv_power : (s.modEv f).power = s.power := rfl
@[simp] theorem State.modEv_store : (s.modEv f).store = s.store := rfl
@[simp] theorem State.modEv_snaps : (s.modEv f).snaps = s.snaps := rfl
@[simp] theorem State.modEv_queries : (s.modEv f).queries = s.queries := rfl
@[simp] theorem State.modEv_dbg : (s.modEv f).dbg = s.dbg := rfl
@[simp] theorem State.modEv_free : (s.modEv f).free = s.free := rfl
@[simp] theorem State.modEv_num (p : Obj) (w b : Nat) : (s.modEv f).num p w b = s.num p w b := rfl
@[simp] theorem State.modEv_nat (p : Obj) (w b : Nat) : (s.modEv f).nat p w b = s.nat p w b := rfl
@[simp] theorem State.modEv_bytes (p : Obj) (w b : Nat) : (s.modEv f).bytes p w b = s.bytes p w b := rfl
end

section
variable (s : State) (f : HostSt → HostSt)
@[simp] theorem State.modHost_host : (s.modHost f).host = f s.host := rfl
@[simp] theorem State.modHost_pending : (s.modHost f).pending = s.pending := rfl
@[simp] theorem State.modHost_variant : (s.modHost f).variant = s.variant := rfl
@[simp] theorem State.modHost_now : (s.modHost f).now = s.now := rfl
@[simp] theorem State.modHost_regs : (s.modHost f).regs = s.regs := rfl
@[simp] theorem State.modHost_blobs : (s.modHost f).blobs = s.blobs := rfl
@[simp] theorem State.modHost_fac : (s.modHost f).fac = s.fac := rfl
@[simp] theorem State.modHost_ans : (s.modHost f).ans = s.ans := rfl
@[simp] theorem State.modHost_ansBody : (s.modHost f).ansBody = s.ansBody := rfl
@[simp] theorem State.modHost_queues : (s.modHost f).queues = s.queues := rfl
@[simp] theorem State.modHost_chans : (s.modHost f).chans = s.chans := rfl
@[simp] theorem State.modHost_cells : (s.modHost f).cells = s.cells := rfl
@[simp] theorem State.modHost_excSettle : (s.modHost f).excSettle = s.excSettle := rfl
@[simp] theorem State.modHost_excLeft : (s.modHost f).excLeft = s.excLeft := rfl
@[simp] theorem State.modHost_aux : (s.modHost f).aux = s.aux := rfl
@[simp] theorem State.modHost_auxSettle : (s.modHost f).auxSettle = s.auxSettle := rfl
@[simp] theorem State.modHost_stages : (s.modHost f).stages = s.stages := rfl
@[simp] theorem State.modHost_order : (s.modHost f).order = s.order := rfl
@[simp] theorem State.modHost_ev : (s.modHost f).ev = s.ev := rfl
@[simp] theorem State.modHost_clk : (s.modHost f).clk = s.clk := rfl
@[simp] theorem State.modHost_tpos : (s.modHost f).tpos = s.tpos := rfl
@[simp] theorem State.modHost_caps : (s.modHost f).caps = s.caps := rfl
@[simp] theorem State.modHost_net : (s.modHost f).net = s.net := rfl
@[simp] theorem State.modHost_dins : (s.modHost f).dins = s.dins := rfl
@[simp] theorem State.modHost_takes : (s.modHost f).takes = s.takes := rfl
@[simp] theorem State.modHost_takeMem : (s.modHost f).takeMem = s.takeMem := rfl
@[simp] theorem State.modHost_rings : (s.modHost f).rings = s.rings := rfl
@[simp] theorem State.modHost_cal : (s.modHost f).cal = s.cal := rfl
@[simp] theorem State.modHost_bands : (s.modHost f).bands = s.bands := rfl
@[simp] theorem State.modHost_wins : (s.modHost f).wins = s.wins := rfl
@[simp] theorem State.modHost_cross : (s.modHost f).cross = s.cross := rfl
@[simp] theorem State.modHost_crossIn : (s.modHost f).crossIn = s.crossIn := rfl
@[simp] theorem State.modHost_strm : (s.modHost f).strm = s.strm := rfl
@[simp] theorem State.modHost_cust : (s.modHost f).cust = s.cust := rfl
@[simp] theorem State.modHost_dmaBuf : (s.modHost f).dmaBuf = s.dmaBuf := rfl
@[simp] theorem State.modHost_lgo : (s.modHost f).lgo = s.lgo := rfl
@[simp] theorem State.modHost_dma : (s.modHost f).dma = s.dma := rfl
@[simp] theorem State.modHost_flash : (s.modHost f).flash = s.flash := rfl
@[simp] theorem State.modHost_power : (s.modHost f).power = s.power := rfl
@[simp] theorem State.modHost_store : (s.modHost f).store = s.store := rfl
@[simp] theorem State.modHost_snaps : (s.modHost f).snaps = s.snaps := rfl
@[simp] theorem State.modHost_queries : (s.modHost f).queries = s.queries := rfl
@[simp] theorem State.modHost_dbg : (s.modHost f).dbg = s.dbg := rfl
@[simp] theorem State.modHost_free : (s.modHost f).free = s.free := rfl
@[simp] theorem State.modHost_num (p : Obj) (w b : Nat) : (s.modHost f).num p w b = s.num p w b := rfl
@[simp] theorem State.modHost_nat (p : Obj) (w b : Nat) : (s.modHost f).nat p w b = s.nat p w b := rfl
@[simp] theorem State.modHost_bytes (p : Obj) (w b : Nat) : (s.modHost f).bytes p w b = s.bytes p w b := rfl
end

section
variable (s : State) (f : NetSt → NetSt)
@[simp] theorem State.modNet_net : (s.modNet f).net = f s.net := rfl
@[simp] theorem State.modNet_pending : (s.modNet f).pending = s.pending := rfl
@[simp] theorem State.modNet_variant : (s.modNet f).variant = s.variant := rfl
@[simp] theorem State.modNet_now : (s.modNet f).now = s.now := rfl
@[simp] theorem State.modNet_regs : (s.modNet f).regs = s.regs := rfl
@[simp] theorem State.modNet_blobs : (s.modNet f).blobs = s.blobs := rfl
@[simp] theorem State.modNet_fac : (s.modNet f).fac = s.fac := rfl
@[simp] theorem State.modNet_ans : (s.modNet f).ans = s.ans := rfl
@[simp] theorem State.modNet_ansBody : (s.modNet f).ansBody = s.ansBody := rfl
@[simp] theorem State.modNet_queues : (s.modNet f).queues = s.queues := rfl
@[simp] theorem State.modNet_chans : (s.modNet f).chans = s.chans := rfl
@[simp] theorem State.modNet_cells : (s.modNet f).cells = s.cells := rfl
@[simp] theorem State.modNet_excSettle : (s.modNet f).excSettle = s.excSettle := rfl
@[simp] theorem State.modNet_excLeft : (s.modNet f).excLeft = s.excLeft := rfl
@[simp] theorem State.modNet_aux : (s.modNet f).aux = s.aux := rfl
@[simp] theorem State.modNet_auxSettle : (s.modNet f).auxSettle = s.auxSettle := rfl
@[simp] theorem State.modNet_stages : (s.modNet f).stages = s.stages := rfl
@[simp] theorem State.modNet_order : (s.modNet f).order = s.order := rfl
@[simp] theorem State.modNet_ev : (s.modNet f).ev = s.ev := rfl
@[simp] theorem State.modNet_clk : (s.modNet f).clk = s.clk := rfl
@[simp] theorem State.modNet_tpos : (s.modNet f).tpos = s.tpos := rfl
@[simp] theorem State.modNet_caps : (s.modNet f).caps = s.caps := rfl
@[simp] theorem State.modNet_dins : (s.modNet f).dins = s.dins := rfl
@[simp] theorem State.modNet_takes : (s.modNet f).takes = s.takes := rfl
@[simp] theorem State.modNet_takeMem : (s.modNet f).takeMem = s.takeMem := rfl
@[simp] theorem State.modNet_rings : (s.modNet f).rings = s.rings := rfl
@[simp] theorem State.modNet_cal : (s.modNet f).cal = s.cal := rfl
@[simp] theorem State.modNet_bands : (s.modNet f).bands = s.bands := rfl
@[simp] theorem State.modNet_wins : (s.modNet f).wins = s.wins := rfl
@[simp] theorem State.modNet_cross : (s.modNet f).cross = s.cross := rfl
@[simp] theorem State.modNet_crossIn : (s.modNet f).crossIn = s.crossIn := rfl
@[simp] theorem State.modNet_strm : (s.modNet f).strm = s.strm := rfl
@[simp] theorem State.modNet_cust : (s.modNet f).cust = s.cust := rfl
@[simp] theorem State.modNet_dmaBuf : (s.modNet f).dmaBuf = s.dmaBuf := rfl
@[simp] theorem State.modNet_lgo : (s.modNet f).lgo = s.lgo := rfl
@[simp] theorem State.modNet_dma : (s.modNet f).dma = s.dma := rfl
@[simp] theorem State.modNet_host : (s.modNet f).host = s.host := rfl
@[simp] theorem State.modNet_flash : (s.modNet f).flash = s.flash := rfl
@[simp] theorem State.modNet_power : (s.modNet f).power = s.power := rfl
@[simp] theorem State.modNet_store : (s.modNet f).store = s.store := rfl
@[simp] theorem State.modNet_snaps : (s.modNet f).snaps = s.snaps := rfl
@[simp] theorem State.modNet_queries : (s.modNet f).queries = s.queries := rfl
@[simp] theorem State.modNet_dbg : (s.modNet f).dbg = s.dbg := rfl
@[simp] theorem State.modNet_free : (s.modNet f).free = s.free := rfl
@[simp] theorem State.modNet_num (p : Obj) (w b : Nat) : (s.modNet f).num p w b = s.num p w b := rfl
@[simp] theorem State.modNet_nat (p : Obj) (w b : Nat) : (s.modNet f).nat p w b = s.nat p w b := rfl
@[simp] theorem State.modNet_bytes (p : Obj) (w b : Nat) : (s.modNet f).bytes p w b = s.bytes p w b := rfl
end

section
variable (s : State) (f : PowerSt → PowerSt)
@[simp] theorem State.modPower_power : (s.modPower f).power = f s.power := rfl
@[simp] theorem State.modPower_pending : (s.modPower f).pending = s.pending := rfl
@[simp] theorem State.modPower_variant : (s.modPower f).variant = s.variant := rfl
@[simp] theorem State.modPower_now : (s.modPower f).now = s.now := rfl
@[simp] theorem State.modPower_regs : (s.modPower f).regs = s.regs := rfl
@[simp] theorem State.modPower_blobs : (s.modPower f).blobs = s.blobs := rfl
@[simp] theorem State.modPower_fac : (s.modPower f).fac = s.fac := rfl
@[simp] theorem State.modPower_ans : (s.modPower f).ans = s.ans := rfl
@[simp] theorem State.modPower_ansBody : (s.modPower f).ansBody = s.ansBody := rfl
@[simp] theorem State.modPower_queues : (s.modPower f).queues = s.queues := rfl
@[simp] theorem State.modPower_chans : (s.modPower f).chans = s.chans := rfl
@[simp] theorem State.modPower_cells : (s.modPower f).cells = s.cells := rfl
@[simp] theorem State.modPower_excSettle : (s.modPower f).excSettle = s.excSettle := rfl
@[simp] theorem State.modPower_excLeft : (s.modPower f).excLeft = s.excLeft := rfl
@[simp] theorem State.modPower_aux : (s.modPower f).aux = s.aux := rfl
@[simp] theorem State.modPower_auxSettle : (s.modPower f).auxSettle = s.auxSettle := rfl
@[simp] theorem State.modPower_stages : (s.modPower f).stages = s.stages := rfl
@[simp] theorem State.modPower_order : (s.modPower f).order = s.order := rfl
@[simp] theorem State.modPower_ev : (s.modPower f).ev = s.ev := rfl
@[simp] theorem State.modPower_clk : (s.modPower f).clk = s.clk := rfl
@[simp] theorem State.modPower_tpos : (s.modPower f).tpos = s.tpos := rfl
@[simp] theorem State.modPower_caps : (s.modPower f).caps = s.caps := rfl
@[simp] theorem State.modPower_net : (s.modPower f).net = s.net := rfl
@[simp] theorem State.modPower_dins : (s.modPower f).dins = s.dins := rfl
@[simp] theorem State.modPower_takes : (s.modPower f).takes = s.takes := rfl
@[simp] theorem State.modPower_takeMem : (s.modPower f).takeMem = s.takeMem := rfl
@[simp] theorem State.modPower_rings : (s.modPower f).rings = s.rings := rfl
@[simp] theorem State.modPower_cal : (s.modPower f).cal = s.cal := rfl
@[simp] theorem State.modPower_bands : (s.modPower f).bands = s.bands := rfl
@[simp] theorem State.modPower_wins : (s.modPower f).wins = s.wins := rfl
@[simp] theorem State.modPower_cross : (s.modPower f).cross = s.cross := rfl
@[simp] theorem State.modPower_crossIn : (s.modPower f).crossIn = s.crossIn := rfl
@[simp] theorem State.modPower_strm : (s.modPower f).strm = s.strm := rfl
@[simp] theorem State.modPower_cust : (s.modPower f).cust = s.cust := rfl
@[simp] theorem State.modPower_dmaBuf : (s.modPower f).dmaBuf = s.dmaBuf := rfl
@[simp] theorem State.modPower_lgo : (s.modPower f).lgo = s.lgo := rfl
@[simp] theorem State.modPower_dma : (s.modPower f).dma = s.dma := rfl
@[simp] theorem State.modPower_host : (s.modPower f).host = s.host := rfl
@[simp] theorem State.modPower_flash : (s.modPower f).flash = s.flash := rfl
@[simp] theorem State.modPower_store : (s.modPower f).store = s.store := rfl
@[simp] theorem State.modPower_snaps : (s.modPower f).snaps = s.snaps := rfl
@[simp] theorem State.modPower_queries : (s.modPower f).queries = s.queries := rfl
@[simp] theorem State.modPower_dbg : (s.modPower f).dbg = s.dbg := rfl
@[simp] theorem State.modPower_free : (s.modPower f).free = s.free := rfl
@[simp] theorem State.modPower_num (p : Obj) (w b : Nat) : (s.modPower f).num p w b = s.num p w b := rfl
@[simp] theorem State.modPower_nat (p : Obj) (w b : Nat) : (s.modPower f).nat p w b = s.nat p w b := rfl
@[simp] theorem State.modPower_bytes (p : Obj) (w b : Nat) : (s.modPower f).bytes p w b = s.bytes p w b := rfl
end

section
variable (s : State) (f : FlashSt → FlashSt)
@[simp] theorem State.modFlash_flash : (s.modFlash f).flash = f s.flash := rfl
@[simp] theorem State.modFlash_pending : (s.modFlash f).pending = s.pending := rfl
@[simp] theorem State.modFlash_variant : (s.modFlash f).variant = s.variant := rfl
@[simp] theorem State.modFlash_now : (s.modFlash f).now = s.now := rfl
@[simp] theorem State.modFlash_regs : (s.modFlash f).regs = s.regs := rfl
@[simp] theorem State.modFlash_blobs : (s.modFlash f).blobs = s.blobs := rfl
@[simp] theorem State.modFlash_fac : (s.modFlash f).fac = s.fac := rfl
@[simp] theorem State.modFlash_ans : (s.modFlash f).ans = s.ans := rfl
@[simp] theorem State.modFlash_ansBody : (s.modFlash f).ansBody = s.ansBody := rfl
@[simp] theorem State.modFlash_queues : (s.modFlash f).queues = s.queues := rfl
@[simp] theorem State.modFlash_chans : (s.modFlash f).chans = s.chans := rfl
@[simp] theorem State.modFlash_cells : (s.modFlash f).cells = s.cells := rfl
@[simp] theorem State.modFlash_excSettle : (s.modFlash f).excSettle = s.excSettle := rfl
@[simp] theorem State.modFlash_excLeft : (s.modFlash f).excLeft = s.excLeft := rfl
@[simp] theorem State.modFlash_aux : (s.modFlash f).aux = s.aux := rfl
@[simp] theorem State.modFlash_auxSettle : (s.modFlash f).auxSettle = s.auxSettle := rfl
@[simp] theorem State.modFlash_stages : (s.modFlash f).stages = s.stages := rfl
@[simp] theorem State.modFlash_order : (s.modFlash f).order = s.order := rfl
@[simp] theorem State.modFlash_ev : (s.modFlash f).ev = s.ev := rfl
@[simp] theorem State.modFlash_clk : (s.modFlash f).clk = s.clk := rfl
@[simp] theorem State.modFlash_tpos : (s.modFlash f).tpos = s.tpos := rfl
@[simp] theorem State.modFlash_caps : (s.modFlash f).caps = s.caps := rfl
@[simp] theorem State.modFlash_net : (s.modFlash f).net = s.net := rfl
@[simp] theorem State.modFlash_dins : (s.modFlash f).dins = s.dins := rfl
@[simp] theorem State.modFlash_takes : (s.modFlash f).takes = s.takes := rfl
@[simp] theorem State.modFlash_takeMem : (s.modFlash f).takeMem = s.takeMem := rfl
@[simp] theorem State.modFlash_rings : (s.modFlash f).rings = s.rings := rfl
@[simp] theorem State.modFlash_cal : (s.modFlash f).cal = s.cal := rfl
@[simp] theorem State.modFlash_bands : (s.modFlash f).bands = s.bands := rfl
@[simp] theorem State.modFlash_wins : (s.modFlash f).wins = s.wins := rfl
@[simp] theorem State.modFlash_cross : (s.modFlash f).cross = s.cross := rfl
@[simp] theorem State.modFlash_crossIn : (s.modFlash f).crossIn = s.crossIn := rfl
@[simp] theorem State.modFlash_strm : (s.modFlash f).strm = s.strm := rfl
@[simp] theorem State.modFlash_cust : (s.modFlash f).cust = s.cust := rfl
@[simp] theorem State.modFlash_dmaBuf : (s.modFlash f).dmaBuf = s.dmaBuf := rfl
@[simp] theorem State.modFlash_lgo : (s.modFlash f).lgo = s.lgo := rfl
@[simp] theorem State.modFlash_dma : (s.modFlash f).dma = s.dma := rfl
@[simp] theorem State.modFlash_host : (s.modFlash f).host = s.host := rfl
@[simp] theorem State.modFlash_power : (s.modFlash f).power = s.power := rfl
@[simp] theorem State.modFlash_store : (s.modFlash f).store = s.store := rfl
@[simp] theorem State.modFlash_snaps : (s.modFlash f).snaps = s.snaps := rfl
@[simp] theorem State.modFlash_queries : (s.modFlash f).queries = s.queries := rfl
@[simp] theorem State.modFlash_dbg : (s.modFlash f).dbg = s.dbg := rfl
@[simp] theorem State.modFlash_free : (s.modFlash f).free = s.free := rfl
@[simp] theorem State.modFlash_num (p : Obj) (w b : Nat) : (s.modFlash f).num p w b = s.num p w b := rfl
@[simp] theorem State.modFlash_nat (p : Obj) (w b : Nat) : (s.modFlash f).nat p w b = s.nat p w b := rfl
@[simp] theorem State.modFlash_bytes (p : Obj) (w b : Nat) : (s.modFlash f).bytes p w b = s.bytes p w b := rfl
end

section
variable (s : State) (f : StoreSt → StoreSt)
@[simp] theorem State.modStore_store : (s.modStore f).store = f s.store := rfl
@[simp] theorem State.modStore_pending : (s.modStore f).pending = s.pending := rfl
@[simp] theorem State.modStore_variant : (s.modStore f).variant = s.variant := rfl
@[simp] theorem State.modStore_now : (s.modStore f).now = s.now := rfl
@[simp] theorem State.modStore_regs : (s.modStore f).regs = s.regs := rfl
@[simp] theorem State.modStore_blobs : (s.modStore f).blobs = s.blobs := rfl
@[simp] theorem State.modStore_fac : (s.modStore f).fac = s.fac := rfl
@[simp] theorem State.modStore_ans : (s.modStore f).ans = s.ans := rfl
@[simp] theorem State.modStore_ansBody : (s.modStore f).ansBody = s.ansBody := rfl
@[simp] theorem State.modStore_queues : (s.modStore f).queues = s.queues := rfl
@[simp] theorem State.modStore_chans : (s.modStore f).chans = s.chans := rfl
@[simp] theorem State.modStore_cells : (s.modStore f).cells = s.cells := rfl
@[simp] theorem State.modStore_excSettle : (s.modStore f).excSettle = s.excSettle := rfl
@[simp] theorem State.modStore_excLeft : (s.modStore f).excLeft = s.excLeft := rfl
@[simp] theorem State.modStore_aux : (s.modStore f).aux = s.aux := rfl
@[simp] theorem State.modStore_auxSettle : (s.modStore f).auxSettle = s.auxSettle := rfl
@[simp] theorem State.modStore_stages : (s.modStore f).stages = s.stages := rfl
@[simp] theorem State.modStore_order : (s.modStore f).order = s.order := rfl
@[simp] theorem State.modStore_ev : (s.modStore f).ev = s.ev := rfl
@[simp] theorem State.modStore_clk : (s.modStore f).clk = s.clk := rfl
@[simp] theorem State.modStore_tpos : (s.modStore f).tpos = s.tpos := rfl
@[simp] theorem State.modStore_caps : (s.modStore f).caps = s.caps := rfl
@[simp] theorem State.modStore_net : (s.modStore f).net = s.net := rfl
@[simp] theorem State.modStore_dins : (s.modStore f).dins = s.dins := rfl
@[simp] theorem State.modStore_takes : (s.modStore f).takes = s.takes := rfl
@[simp] theorem State.modStore_takeMem : (s.modStore f).takeMem = s.takeMem := rfl
@[simp] theorem State.modStore_rings : (s.modStore f).rings = s.rings := rfl
@[simp] theorem State.modStore_cal : (s.modStore f).cal = s.cal := rfl
@[simp] theorem State.modStore_bands : (s.modStore f).bands = s.bands := rfl
@[simp] theorem State.modStore_wins : (s.modStore f).wins = s.wins := rfl
@[simp] theorem State.modStore_cross : (s.modStore f).cross = s.cross := rfl
@[simp] theorem State.modStore_crossIn : (s.modStore f).crossIn = s.crossIn := rfl
@[simp] theorem State.modStore_strm : (s.modStore f).strm = s.strm := rfl
@[simp] theorem State.modStore_cust : (s.modStore f).cust = s.cust := rfl
@[simp] theorem State.modStore_dmaBuf : (s.modStore f).dmaBuf = s.dmaBuf := rfl
@[simp] theorem State.modStore_lgo : (s.modStore f).lgo = s.lgo := rfl
@[simp] theorem State.modStore_dma : (s.modStore f).dma = s.dma := rfl
@[simp] theorem State.modStore_host : (s.modStore f).host = s.host := rfl
@[simp] theorem State.modStore_flash : (s.modStore f).flash = s.flash := rfl
@[simp] theorem State.modStore_power : (s.modStore f).power = s.power := rfl
@[simp] theorem State.modStore_snaps : (s.modStore f).snaps = s.snaps := rfl
@[simp] theorem State.modStore_queries : (s.modStore f).queries = s.queries := rfl
@[simp] theorem State.modStore_dbg : (s.modStore f).dbg = s.dbg := rfl
@[simp] theorem State.modStore_free : (s.modStore f).free = s.free := rfl
@[simp] theorem State.modStore_num (p : Obj) (w b : Nat) : (s.modStore f).num p w b = s.num p w b := rfl
@[simp] theorem State.modStore_nat (p : Obj) (w b : Nat) : (s.modStore f).nat p w b = s.nat p w b := rfl
@[simp] theorem State.modStore_bytes (p : Obj) (w b : Nat) : (s.modStore f).bytes p w b = s.bytes p w b := rfl
end

section
variable (s : State) (f : StrmSt → StrmSt)
@[simp] theorem State.modStrm_strm : (s.modStrm f).strm = f s.strm := rfl
@[simp] theorem State.modStrm_pending : (s.modStrm f).pending = s.pending := rfl
@[simp] theorem State.modStrm_variant : (s.modStrm f).variant = s.variant := rfl
@[simp] theorem State.modStrm_now : (s.modStrm f).now = s.now := rfl
@[simp] theorem State.modStrm_regs : (s.modStrm f).regs = s.regs := rfl
@[simp] theorem State.modStrm_blobs : (s.modStrm f).blobs = s.blobs := rfl
@[simp] theorem State.modStrm_fac : (s.modStrm f).fac = s.fac := rfl
@[simp] theorem State.modStrm_ans : (s.modStrm f).ans = s.ans := rfl
@[simp] theorem State.modStrm_ansBody : (s.modStrm f).ansBody = s.ansBody := rfl
@[simp] theorem State.modStrm_queues : (s.modStrm f).queues = s.queues := rfl
@[simp] theorem State.modStrm_chans : (s.modStrm f).chans = s.chans := rfl
@[simp] theorem State.modStrm_cells : (s.modStrm f).cells = s.cells := rfl
@[simp] theorem State.modStrm_excSettle : (s.modStrm f).excSettle = s.excSettle := rfl
@[simp] theorem State.modStrm_excLeft : (s.modStrm f).excLeft = s.excLeft := rfl
@[simp] theorem State.modStrm_aux : (s.modStrm f).aux = s.aux := rfl
@[simp] theorem State.modStrm_auxSettle : (s.modStrm f).auxSettle = s.auxSettle := rfl
@[simp] theorem State.modStrm_stages : (s.modStrm f).stages = s.stages := rfl
@[simp] theorem State.modStrm_order : (s.modStrm f).order = s.order := rfl
@[simp] theorem State.modStrm_ev : (s.modStrm f).ev = s.ev := rfl
@[simp] theorem State.modStrm_clk : (s.modStrm f).clk = s.clk := rfl
@[simp] theorem State.modStrm_tpos : (s.modStrm f).tpos = s.tpos := rfl
@[simp] theorem State.modStrm_caps : (s.modStrm f).caps = s.caps := rfl
@[simp] theorem State.modStrm_net : (s.modStrm f).net = s.net := rfl
@[simp] theorem State.modStrm_dins : (s.modStrm f).dins = s.dins := rfl
@[simp] theorem State.modStrm_takes : (s.modStrm f).takes = s.takes := rfl
@[simp] theorem State.modStrm_takeMem : (s.modStrm f).takeMem = s.takeMem := rfl
@[simp] theorem State.modStrm_rings : (s.modStrm f).rings = s.rings := rfl
@[simp] theorem State.modStrm_cal : (s.modStrm f).cal = s.cal := rfl
@[simp] theorem State.modStrm_bands : (s.modStrm f).bands = s.bands := rfl
@[simp] theorem State.modStrm_wins : (s.modStrm f).wins = s.wins := rfl
@[simp] theorem State.modStrm_cross : (s.modStrm f).cross = s.cross := rfl
@[simp] theorem State.modStrm_crossIn : (s.modStrm f).crossIn = s.crossIn := rfl
@[simp] theorem State.modStrm_cust : (s.modStrm f).cust = s.cust := rfl
@[simp] theorem State.modStrm_dmaBuf : (s.modStrm f).dmaBuf = s.dmaBuf := rfl
@[simp] theorem State.modStrm_lgo : (s.modStrm f).lgo = s.lgo := rfl
@[simp] theorem State.modStrm_dma : (s.modStrm f).dma = s.dma := rfl
@[simp] theorem State.modStrm_host : (s.modStrm f).host = s.host := rfl
@[simp] theorem State.modStrm_flash : (s.modStrm f).flash = s.flash := rfl
@[simp] theorem State.modStrm_power : (s.modStrm f).power = s.power := rfl
@[simp] theorem State.modStrm_store : (s.modStrm f).store = s.store := rfl
@[simp] theorem State.modStrm_snaps : (s.modStrm f).snaps = s.snaps := rfl
@[simp] theorem State.modStrm_queries : (s.modStrm f).queries = s.queries := rfl
@[simp] theorem State.modStrm_dbg : (s.modStrm f).dbg = s.dbg := rfl
@[simp] theorem State.modStrm_free : (s.modStrm f).free = s.free := rfl
@[simp] theorem State.modStrm_num (p : Obj) (w b : Nat) : (s.modStrm f).num p w b = s.num p w b := rfl
@[simp] theorem State.modStrm_nat (p : Obj) (w b : Nat) : (s.modStrm f).nat p w b = s.nat p w b := rfl
@[simp] theorem State.modStrm_bytes (p : Obj) (w b : Nat) : (s.modStrm f).bytes p w b = s.bytes p w b := rfl
end

section
variable (s : State) (f : TakeMem → TakeMem)
@[simp] theorem State.modMem_takeMem : (s.modMem f).takeMem = f s.takeMem := rfl
@[simp] theorem State.modMem_pending : (s.modMem f).pending = s.pending := rfl
@[simp] theorem State.modMem_variant : (s.modMem f).variant = s.variant := rfl
@[simp] theorem State.modMem_now : (s.modMem f).now = s.now := rfl
@[simp] theorem State.modMem_regs : (s.modMem f).regs = s.regs := rfl
@[simp] theorem State.modMem_blobs : (s.modMem f).blobs = s.blobs := rfl
@[simp] theorem State.modMem_fac : (s.modMem f).fac = s.fac := rfl
@[simp] theorem State.modMem_ans : (s.modMem f).ans = s.ans := rfl
@[simp] theorem State.modMem_ansBody : (s.modMem f).ansBody = s.ansBody := rfl
@[simp] theorem State.modMem_queues : (s.modMem f).queues = s.queues := rfl
@[simp] theorem State.modMem_chans : (s.modMem f).chans = s.chans := rfl
@[simp] theorem State.modMem_cells : (s.modMem f).cells = s.cells := rfl
@[simp] theorem State.modMem_excSettle : (s.modMem f).excSettle = s.excSettle := rfl
@[simp] theorem State.modMem_excLeft : (s.modMem f).excLeft = s.excLeft := rfl
@[simp] theorem State.modMem_aux : (s.modMem f).aux = s.aux := rfl
@[simp] theorem State.modMem_auxSettle : (s.modMem f).auxSettle = s.auxSettle := rfl
@[simp] theorem State.modMem_stages : (s.modMem f).stages = s.stages := rfl
@[simp] theorem State.modMem_order : (s.modMem f).order = s.order := rfl
@[simp] theorem State.modMem_ev : (s.modMem f).ev = s.ev := rfl
@[simp] theorem State.modMem_clk : (s.modMem f).clk = s.clk := rfl
@[simp] theorem State.modMem_tpos : (s.modMem f).tpos = s.tpos := rfl
@[simp] theorem State.modMem_caps : (s.modMem f).caps = s.caps := rfl
@[simp] theorem State.modMem_net : (s.modMem f).net = s.net := rfl
@[simp] theorem State.modMem_dins : (s.modMem f).dins = s.dins := rfl
@[simp] theorem State.modMem_takes : (s.modMem f).takes = s.takes := rfl
@[simp] theorem State.modMem_rings : (s.modMem f).rings = s.rings := rfl
@[simp] theorem State.modMem_cal : (s.modMem f).cal = s.cal := rfl
@[simp] theorem State.modMem_bands : (s.modMem f).bands = s.bands := rfl
@[simp] theorem State.modMem_wins : (s.modMem f).wins = s.wins := rfl
@[simp] theorem State.modMem_cross : (s.modMem f).cross = s.cross := rfl
@[simp] theorem State.modMem_crossIn : (s.modMem f).crossIn = s.crossIn := rfl
@[simp] theorem State.modMem_strm : (s.modMem f).strm = s.strm := rfl
@[simp] theorem State.modMem_cust : (s.modMem f).cust = s.cust := rfl
@[simp] theorem State.modMem_dmaBuf : (s.modMem f).dmaBuf = s.dmaBuf := rfl
@[simp] theorem State.modMem_lgo : (s.modMem f).lgo = s.lgo := rfl
@[simp] theorem State.modMem_dma : (s.modMem f).dma = s.dma := rfl
@[simp] theorem State.modMem_host : (s.modMem f).host = s.host := rfl
@[simp] theorem State.modMem_flash : (s.modMem f).flash = s.flash := rfl
@[simp] theorem State.modMem_power : (s.modMem f).power = s.power := rfl
@[simp] theorem State.modMem_store : (s.modMem f).store = s.store := rfl
@[simp] theorem State.modMem_snaps : (s.modMem f).snaps = s.snaps := rfl
@[simp] theorem State.modMem_queries : (s.modMem f).queries = s.queries := rfl
@[simp] theorem State.modMem_dbg : (s.modMem f).dbg = s.dbg := rfl
@[simp] theorem State.modMem_free : (s.modMem f).free = s.free := rfl
@[simp] theorem State.modMem_num (p : Obj) (w b : Nat) : (s.modMem f).num p w b = s.num p w b := rfl
@[simp] theorem State.modMem_nat (p : Obj) (w b : Nat) : (s.modMem f).nat p w b = s.nat p w b := rfl
@[simp] theorem State.modMem_bytes (p : Obj) (w b : Nat) : (s.modMem f).bytes p w b = s.bytes p w b := rfl
end

section
variable (s : State) (i : Nat) (f : CellSt → CellSt)
@[simp] theorem State.modCell_pending : (s.modCell i f).pending = s.pending := rfl
@[simp] theorem State.modCell_variant : (s.modCell i f).variant = s.variant := rfl
@[simp] theorem State.modCell_now : (s.modCell i f).now = s.now := rfl
@[simp] theorem State.modCell_regs : (s.modCell i f).regs = s.regs := rfl
@[simp] theorem State.modCell_blobs : (s.modCell i f).blobs = s.blobs := rfl
@[simp] theorem State.modCell_fac : (s.modCell i f).fac = s.fac := rfl
@[simp] theorem State.modCell_ans : (s.modCell i f).ans = s.ans := rfl
@[simp] theorem State.modCell_ansBody : (s.modCell i f).ansBody = s.ansBody := rfl
@[simp] theorem State.modCell_queues : (s.modCell i f).queues = s.queues := rfl
@[simp] theorem State.modCell_chans : (s.modCell i f).chans = s.chans := rfl
@[simp] theorem State.modCell_excSettle : (s.modCell i f).excSettle = s.excSettle := rfl
@[simp] theorem State.modCell_excLeft : (s.modCell i f).excLeft = s.excLeft := rfl
@[simp] theorem State.modCell_aux : (s.modCell i f).aux = s.aux := rfl
@[simp] theorem State.modCell_auxSettle : (s.modCell i f).auxSettle = s.auxSettle := rfl
@[simp] theorem State.modCell_stages : (s.modCell i f).stages = s.stages := rfl
@[simp] theorem State.modCell_order : (s.modCell i f).order = s.order := rfl
@[simp] theorem State.modCell_ev : (s.modCell i f).ev = s.ev := rfl
@[simp] theorem State.modCell_clk : (s.modCell i f).clk = s.clk := rfl
@[simp] theorem State.modCell_tpos : (s.modCell i f).tpos = s.tpos := rfl
@[simp] theorem State.modCell_caps : (s.modCell i f).caps = s.caps := rfl
@[simp] theorem State.modCell_net : (s.modCell i f).net = s.net := rfl
@[simp] theorem State.modCell_dins : (s.modCell i f).dins = s.dins := rfl
@[simp] theorem State.modCell_takes : (s.modCell i f).takes = s.takes := rfl
@[simp] theorem State.modCell_takeMem : (s.modCell i f).takeMem = s.takeMem := rfl
@[simp] theorem State.modCell_rings : (s.modCell i f).rings = s.rings := rfl
@[simp] theorem State.modCell_cal : (s.modCell i f).cal = s.cal := rfl
@[simp] theorem State.modCell_bands : (s.modCell i f).bands = s.bands := rfl
@[simp] theorem State.modCell_wins : (s.modCell i f).wins = s.wins := rfl
@[simp] theorem State.modCell_cross : (s.modCell i f).cross = s.cross := rfl
@[simp] theorem State.modCell_crossIn : (s.modCell i f).crossIn = s.crossIn := rfl
@[simp] theorem State.modCell_strm : (s.modCell i f).strm = s.strm := rfl
@[simp] theorem State.modCell_cust : (s.modCell i f).cust = s.cust := rfl
@[simp] theorem State.modCell_dmaBuf : (s.modCell i f).dmaBuf = s.dmaBuf := rfl
@[simp] theorem State.modCell_lgo : (s.modCell i f).lgo = s.lgo := rfl
@[simp] theorem State.modCell_dma : (s.modCell i f).dma = s.dma := rfl
@[simp] theorem State.modCell_host : (s.modCell i f).host = s.host := rfl
@[simp] theorem State.modCell_flash : (s.modCell i f).flash = s.flash := rfl
@[simp] theorem State.modCell_power : (s.modCell i f).power = s.power := rfl
@[simp] theorem State.modCell_store : (s.modCell i f).store = s.store := rfl
@[simp] theorem State.modCell_snaps : (s.modCell i f).snaps = s.snaps := rfl
@[simp] theorem State.modCell_queries : (s.modCell i f).queries = s.queries := rfl
@[simp] theorem State.modCell_dbg : (s.modCell i f).dbg = s.dbg := rfl
@[simp] theorem State.modCell_free : (s.modCell i f).free = s.free := rfl
@[simp] theorem State.modCell_num (p : Obj) (w b : Nat) : (s.modCell i f).num p w b = s.num p w b := rfl
@[simp] theorem State.modCell_nat (p : Obj) (w b : Nat) : (s.modCell i f).nat p w b = s.nat p w b := rfl
@[simp] theorem State.modCell_bytes (p : Obj) (w b : Nat) : (s.modCell i f).bytes p w b = s.bytes p w b := rfl
end

section
variable (s : State) (i : Nat) (f : TakeSt → TakeSt)
@[simp] theorem State.modTake_pending : (s.modTake i f).pending = s.pending := rfl
@[simp] theorem State.modTake_variant : (s.modTake i f).variant = s.variant := rfl
@[simp] theorem State.modTake_now : (s.modTake i f).now = s.now := rfl
@[simp] theorem State.modTake_regs : (s.modTake i f).regs = s.regs := rfl
@[simp] theorem State.modTake_blobs : (s.modTake i f).blobs = s.blobs := rfl
@[simp] theorem State.modTake_fac : (s.modTake i f).fac = s.fac := rfl
@[simp] theorem State.modTake_ans : (s.modTake i f).ans = s.ans := rfl
@[simp] theorem State.modTake_ansBody : (s.modTake i f).ansBody = s.ansBody := rfl
@[simp] theorem State.modTake_queues : (s.modTake i f).queues = s.queues := rfl
@[simp] theorem State.modTake_chans : (s.modTake i f).chans = s.chans := rfl
@[simp] theorem State.modTake_cells : (s.modTake i f).cells = s.cells := rfl
@[simp] theorem State.modTake_excSettle : (s.modTake i f).excSettle = s.excSettle := rfl
@[simp] theorem State.modTake_excLeft : (s.modTake i f).excLeft = s.excLeft := rfl
@[simp] theorem State.modTake_aux : (s.modTake i f).aux = s.aux := rfl
@[simp] theorem State.modTake_auxSettle : (s.modTake i f).auxSettle = s.auxSettle := rfl
@[simp] theorem State.modTake_stages : (s.modTake i f).stages = s.stages := rfl
@[simp] theorem State.modTake_order : (s.modTake i f).order = s.order := rfl
@[simp] theorem State.modTake_ev : (s.modTake i f).ev = s.ev := rfl
@[simp] theorem State.modTake_clk : (s.modTake i f).clk = s.clk := rfl
@[simp] theorem State.modTake_tpos : (s.modTake i f).tpos = s.tpos := rfl
@[simp] theorem State.modTake_caps : (s.modTake i f).caps = s.caps := rfl
@[simp] theorem State.modTake_net : (s.modTake i f).net = s.net := rfl
@[simp] theorem State.modTake_dins : (s.modTake i f).dins = s.dins := rfl
@[simp] theorem State.modTake_takeMem : (s.modTake i f).takeMem = s.takeMem := rfl
@[simp] theorem State.modTake_rings : (s.modTake i f).rings = s.rings := rfl
@[simp] theorem State.modTake_cal : (s.modTake i f).cal = s.cal := rfl
@[simp] theorem State.modTake_bands : (s.modTake i f).bands = s.bands := rfl
@[simp] theorem State.modTake_wins : (s.modTake i f).wins = s.wins := rfl
@[simp] theorem State.modTake_cross : (s.modTake i f).cross = s.cross := rfl
@[simp] theorem State.modTake_crossIn : (s.modTake i f).crossIn = s.crossIn := rfl
@[simp] theorem State.modTake_strm : (s.modTake i f).strm = s.strm := rfl
@[simp] theorem State.modTake_cust : (s.modTake i f).cust = s.cust := rfl
@[simp] theorem State.modTake_dmaBuf : (s.modTake i f).dmaBuf = s.dmaBuf := rfl
@[simp] theorem State.modTake_lgo : (s.modTake i f).lgo = s.lgo := rfl
@[simp] theorem State.modTake_dma : (s.modTake i f).dma = s.dma := rfl
@[simp] theorem State.modTake_host : (s.modTake i f).host = s.host := rfl
@[simp] theorem State.modTake_flash : (s.modTake i f).flash = s.flash := rfl
@[simp] theorem State.modTake_power : (s.modTake i f).power = s.power := rfl
@[simp] theorem State.modTake_store : (s.modTake i f).store = s.store := rfl
@[simp] theorem State.modTake_snaps : (s.modTake i f).snaps = s.snaps := rfl
@[simp] theorem State.modTake_queries : (s.modTake i f).queries = s.queries := rfl
@[simp] theorem State.modTake_dbg : (s.modTake i f).dbg = s.dbg := rfl
@[simp] theorem State.modTake_free : (s.modTake i f).free = s.free := rfl
@[simp] theorem State.modTake_num (p : Obj) (w b : Nat) : (s.modTake i f).num p w b = s.num p w b := rfl
@[simp] theorem State.modTake_nat (p : Obj) (w b : Nat) : (s.modTake i f).nat p w b = s.nat p w b := rfl
@[simp] theorem State.modTake_bytes (p : Obj) (w b : Nat) : (s.modTake i f).bytes p w b = s.bytes p w b := rfl
end

section
variable (s : State) (i : Nat) (f : TpoSt → TpoSt)
@[simp] theorem State.modTpo_pending : (s.modTpo i f).pending = s.pending := rfl
@[simp] theorem State.modTpo_variant : (s.modTpo i f).variant = s.variant := rfl
@[simp] theorem State.modTpo_now : (s.modTpo i f).now = s.now := rfl
@[simp] theorem State.modTpo_regs : (s.modTpo i f).regs = s.regs := rfl
@[simp] theorem State.modTpo_blobs : (s.modTpo i f).blobs = s.blobs := rfl
@[simp] theorem State.modTpo_fac : (s.modTpo i f).fac = s.fac := rfl
@[simp] theorem State.modTpo_ans : (s.modTpo i f).ans = s.ans := rfl
@[simp] theorem State.modTpo_ansBody : (s.modTpo i f).ansBody = s.ansBody := rfl
@[simp] theorem State.modTpo_queues : (s.modTpo i f).queues = s.queues := rfl
@[simp] theorem State.modTpo_chans : (s.modTpo i f).chans = s.chans := rfl
@[simp] theorem State.modTpo_cells : (s.modTpo i f).cells = s.cells := rfl
@[simp] theorem State.modTpo_excSettle : (s.modTpo i f).excSettle = s.excSettle := rfl
@[simp] theorem State.modTpo_excLeft : (s.modTpo i f).excLeft = s.excLeft := rfl
@[simp] theorem State.modTpo_aux : (s.modTpo i f).aux = s.aux := rfl
@[simp] theorem State.modTpo_auxSettle : (s.modTpo i f).auxSettle = s.auxSettle := rfl
@[simp] theorem State.modTpo_stages : (s.modTpo i f).stages = s.stages := rfl
@[simp] theorem State.modTpo_order : (s.modTpo i f).order = s.order := rfl
@[simp] theorem State.modTpo_ev : (s.modTpo i f).ev = s.ev := rfl
@[simp] theorem State.modTpo_clk : (s.modTpo i f).clk = s.clk := rfl
@[simp] theorem State.modTpo_caps : (s.modTpo i f).caps = s.caps := rfl
@[simp] theorem State.modTpo_net : (s.modTpo i f).net = s.net := rfl
@[simp] theorem State.modTpo_dins : (s.modTpo i f).dins = s.dins := rfl
@[simp] theorem State.modTpo_takes : (s.modTpo i f).takes = s.takes := rfl
@[simp] theorem State.modTpo_takeMem : (s.modTpo i f).takeMem = s.takeMem := rfl
@[simp] theorem State.modTpo_rings : (s.modTpo i f).rings = s.rings := rfl
@[simp] theorem State.modTpo_cal : (s.modTpo i f).cal = s.cal := rfl
@[simp] theorem State.modTpo_bands : (s.modTpo i f).bands = s.bands := rfl
@[simp] theorem State.modTpo_wins : (s.modTpo i f).wins = s.wins := rfl
@[simp] theorem State.modTpo_cross : (s.modTpo i f).cross = s.cross := rfl
@[simp] theorem State.modTpo_crossIn : (s.modTpo i f).crossIn = s.crossIn := rfl
@[simp] theorem State.modTpo_strm : (s.modTpo i f).strm = s.strm := rfl
@[simp] theorem State.modTpo_cust : (s.modTpo i f).cust = s.cust := rfl
@[simp] theorem State.modTpo_dmaBuf : (s.modTpo i f).dmaBuf = s.dmaBuf := rfl
@[simp] theorem State.modTpo_lgo : (s.modTpo i f).lgo = s.lgo := rfl
@[simp] theorem State.modTpo_dma : (s.modTpo i f).dma = s.dma := rfl
@[simp] theorem State.modTpo_host : (s.modTpo i f).host = s.host := rfl
@[simp] theorem State.modTpo_flash : (s.modTpo i f).flash = s.flash := rfl
@[simp] theorem State.modTpo_power : (s.modTpo i f).power = s.power := rfl
@[simp] theorem State.modTpo_store : (s.modTpo i f).store = s.store := rfl
@[simp] theorem State.modTpo_snaps : (s.modTpo i f).snaps = s.snaps := rfl
@[simp] theorem State.modTpo_queries : (s.modTpo i f).queries = s.queries := rfl
@[simp] theorem State.modTpo_dbg : (s.modTpo i f).dbg = s.dbg := rfl
@[simp] theorem State.modTpo_free : (s.modTpo i f).free = s.free := rfl
@[simp] theorem State.modTpo_num (p : Obj) (w b : Nat) : (s.modTpo i f).num p w b = s.num p w b := rfl
@[simp] theorem State.modTpo_nat (p : Obj) (w b : Nat) : (s.modTpo i f).nat p w b = s.nat p w b := rfl
@[simp] theorem State.modTpo_bytes (p : Obj) (w b : Nat) : (s.modTpo i f).bytes p w b = s.bytes p w b := rfl
end

section
variable (s : State) (i : Nat) (f : WinSt → WinSt)
@[simp] theorem State.modWin_pending : (s.modWin i f).pending = s.pending := rfl
@[simp] theorem State.modWin_variant : (s.modWin i f).variant = s.variant := rfl
@[simp] theorem State.modWin_now : (s.modWin i f).now = s.now := rfl
@[simp] theorem State.modWin_regs : (s.modWin i f).regs = s.regs := rfl
@[simp] theorem State.modWin_blobs : (s.modWin i f).blobs = s.blobs := rfl
@[simp] theorem State.modWin_fac : (s.modWin i f).fac = s.fac := rfl
@[simp] theorem State.modWin_ans : (s.modWin i f).ans = s.ans := rfl
@[simp] theorem State.modWin_ansBody : (s.modWin i f).ansBody = s.ansBody := rfl
@[simp] theorem State.modWin_queues : (s.modWin i f).queues = s.queues := rfl
@[simp] theorem State.modWin_chans : (s.modWin i f).chans = s.chans := rfl
@[simp] theorem State.modWin_cells : (s.modWin i f).cells = s.cells := rfl
@[simp] theorem State.modWin_excSettle : (s.modWin i f).excSettle = s.excSettle := rfl
@[simp] theorem State.modWin_excLeft : (s.modWin i f).excLeft = s.excLeft := rfl
@[simp] theorem State.modWin_aux : (s.modWin i f).aux = s.aux := rfl
@[simp] theorem State.modWin_auxSettle : (s.modWin i f).auxSettle = s.auxSettle := rfl
@[simp] theorem State.modWin_stages : (s.modWin i f).stages = s.stages := rfl
@[simp] theorem State.modWin_order : (s.modWin i f).order = s.order := rfl
@[simp] theorem State.modWin_ev : (s.modWin i f).ev = s.ev := rfl
@[simp] theorem State.modWin_clk : (s.modWin i f).clk = s.clk := rfl
@[simp] theorem State.modWin_tpos : (s.modWin i f).tpos = s.tpos := rfl
@[simp] theorem State.modWin_caps : (s.modWin i f).caps = s.caps := rfl
@[simp] theorem State.modWin_net : (s.modWin i f).net = s.net := rfl
@[simp] theorem State.modWin_dins : (s.modWin i f).dins = s.dins := rfl
@[simp] theorem State.modWin_takes : (s.modWin i f).takes = s.takes := rfl
@[simp] theorem State.modWin_takeMem : (s.modWin i f).takeMem = s.takeMem := rfl
@[simp] theorem State.modWin_rings : (s.modWin i f).rings = s.rings := rfl
@[simp] theorem State.modWin_cal : (s.modWin i f).cal = s.cal := rfl
@[simp] theorem State.modWin_bands : (s.modWin i f).bands = s.bands := rfl
@[simp] theorem State.modWin_cross : (s.modWin i f).cross = s.cross := rfl
@[simp] theorem State.modWin_crossIn : (s.modWin i f).crossIn = s.crossIn := rfl
@[simp] theorem State.modWin_strm : (s.modWin i f).strm = s.strm := rfl
@[simp] theorem State.modWin_cust : (s.modWin i f).cust = s.cust := rfl
@[simp] theorem State.modWin_dmaBuf : (s.modWin i f).dmaBuf = s.dmaBuf := rfl
@[simp] theorem State.modWin_lgo : (s.modWin i f).lgo = s.lgo := rfl
@[simp] theorem State.modWin_dma : (s.modWin i f).dma = s.dma := rfl
@[simp] theorem State.modWin_host : (s.modWin i f).host = s.host := rfl
@[simp] theorem State.modWin_flash : (s.modWin i f).flash = s.flash := rfl
@[simp] theorem State.modWin_power : (s.modWin i f).power = s.power := rfl
@[simp] theorem State.modWin_store : (s.modWin i f).store = s.store := rfl
@[simp] theorem State.modWin_snaps : (s.modWin i f).snaps = s.snaps := rfl
@[simp] theorem State.modWin_queries : (s.modWin i f).queries = s.queries := rfl
@[simp] theorem State.modWin_dbg : (s.modWin i f).dbg = s.dbg := rfl
@[simp] theorem State.modWin_free : (s.modWin i f).free = s.free := rfl
@[simp] theorem State.modWin_num (p : Obj) (w b : Nat) : (s.modWin i f).num p w b = s.num p w b := rfl
@[simp] theorem State.modWin_nat (p : Obj) (w b : Nat) : (s.modWin i f).nat p w b = s.nat p w b := rfl
@[simp] theorem State.modWin_bytes (p : Obj) (w b : Nat) : (s.modWin i f).bytes p w b = s.bytes p w b := rfl
end

section
variable (s : State) (i : Nat) (f : CrossSt → CrossSt)
@[simp] theorem State.modCross_pending : (s.modCross i f).pending = s.pending := rfl
@[simp] theorem State.modCross_variant : (s.modCross i f).variant = s.variant := rfl
@[simp] theorem State.modCross_now : (s.modCross i f).now = s.now := rfl
@[simp] theorem State.modCross_regs : (s.modCross i f).regs = s.regs := rfl
@[simp] theorem State.modCross_blobs : (s.modCross i f).blobs = s.blobs := rfl
@[simp] theorem State.modCross_fac : (s.modCross i f).fac = s.fac := rfl
@[simp] theorem State.modCross_ans : (s.modCross i f).ans = s.ans := rfl
@[simp] theorem State.modCross_ansBody : (s.modCross i f).ansBody = s.ansBody := rfl
@[simp] theorem State.modCross_queues : (s.modCross i f).queues = s.queues := rfl
@[simp] theorem State.modCross_chans : (s.modCross i f).chans = s.chans := rfl
@[simp] theorem State.modCross_cells : (s.modCross i f).cells = s.cells := rfl
@[simp] theorem State.modCross_excSettle : (s.modCross i f).excSettle = s.excSettle := rfl
@[simp] theorem State.modCross_excLeft : (s.modCross i f).excLeft = s.excLeft := rfl
@[simp] theorem State.modCross_aux : (s.modCross i f).aux = s.aux := rfl
@[simp] theorem State.modCross_auxSettle : (s.modCross i f).auxSettle = s.auxSettle := rfl
@[simp] theorem State.modCross_stages : (s.modCross i f).stages = s.stages := rfl
@[simp] theorem State.modCross_order : (s.modCross i f).order = s.order := rfl
@[simp] theorem State.modCross_ev : (s.modCross i f).ev = s.ev := rfl
@[simp] theorem State.modCross_clk : (s.modCross i f).clk = s.clk := rfl
@[simp] theorem State.modCross_tpos : (s.modCross i f).tpos = s.tpos := rfl
@[simp] theorem State.modCross_caps : (s.modCross i f).caps = s.caps := rfl
@[simp] theorem State.modCross_net : (s.modCross i f).net = s.net := rfl
@[simp] theorem State.modCross_dins : (s.modCross i f).dins = s.dins := rfl
@[simp] theorem State.modCross_takes : (s.modCross i f).takes = s.takes := rfl
@[simp] theorem State.modCross_takeMem : (s.modCross i f).takeMem = s.takeMem := rfl
@[simp] theorem State.modCross_rings : (s.modCross i f).rings = s.rings := rfl
@[simp] theorem State.modCross_cal : (s.modCross i f).cal = s.cal := rfl
@[simp] theorem State.modCross_bands : (s.modCross i f).bands = s.bands := rfl
@[simp] theorem State.modCross_wins : (s.modCross i f).wins = s.wins := rfl
@[simp] theorem State.modCross_crossIn : (s.modCross i f).crossIn = s.crossIn := rfl
@[simp] theorem State.modCross_strm : (s.modCross i f).strm = s.strm := rfl
@[simp] theorem State.modCross_cust : (s.modCross i f).cust = s.cust := rfl
@[simp] theorem State.modCross_dmaBuf : (s.modCross i f).dmaBuf = s.dmaBuf := rfl
@[simp] theorem State.modCross_lgo : (s.modCross i f).lgo = s.lgo := rfl
@[simp] theorem State.modCross_dma : (s.modCross i f).dma = s.dma := rfl
@[simp] theorem State.modCross_host : (s.modCross i f).host = s.host := rfl
@[simp] theorem State.modCross_flash : (s.modCross i f).flash = s.flash := rfl
@[simp] theorem State.modCross_power : (s.modCross i f).power = s.power := rfl
@[simp] theorem State.modCross_store : (s.modCross i f).store = s.store := rfl
@[simp] theorem State.modCross_snaps : (s.modCross i f).snaps = s.snaps := rfl
@[simp] theorem State.modCross_queries : (s.modCross i f).queries = s.queries := rfl
@[simp] theorem State.modCross_dbg : (s.modCross i f).dbg = s.dbg := rfl
@[simp] theorem State.modCross_free : (s.modCross i f).free = s.free := rfl
@[simp] theorem State.modCross_num (p : Obj) (w b : Nat) : (s.modCross i f).num p w b = s.num p w b := rfl
@[simp] theorem State.modCross_nat (p : Obj) (w b : Nat) : (s.modCross i f).nat p w b = s.nat p w b := rfl
@[simp] theorem State.modCross_bytes (p : Obj) (w b : Nat) : (s.modCross i f).bytes p w b = s.bytes p w b := rfl
end

section
variable (s : State) (i : Nat) (f : SnapSet → SnapSet)
@[simp] theorem State.modSnap_pending : (s.modSnap i f).pending = s.pending := rfl
@[simp] theorem State.modSnap_variant : (s.modSnap i f).variant = s.variant := rfl
@[simp] theorem State.modSnap_now : (s.modSnap i f).now = s.now := rfl
@[simp] theorem State.modSnap_regs : (s.modSnap i f).regs = s.regs := rfl
@[simp] theorem State.modSnap_blobs : (s.modSnap i f).blobs = s.blobs := rfl
@[simp] theorem State.modSnap_fac : (s.modSnap i f).fac = s.fac := rfl
@[simp] theorem State.modSnap_ans : (s.modSnap i f).ans = s.ans := rfl
@[simp] theorem State.modSnap_ansBody : (s.modSnap i f).ansBody = s.ansBody := rfl
@[simp] theorem State.modSnap_queues : (s.modSnap i f).queues = s.queues := rfl
@[simp] theorem State.modSnap_chans : (s.modSnap i f).chans = s.chans := rfl
@[simp] theorem State.modSnap_cells : (s.modSnap i f).cells = s.cells := rfl
@[simp] theorem State.modSnap_excSettle : (s.modSnap i f).excSettle = s.excSettle := rfl
@[simp] theorem State.modSnap_excLeft : (s.modSnap i f).excLeft = s.excLeft := rfl
@[simp] theorem State.modSnap_aux : (s.modSnap i f).aux = s.aux := rfl
@[simp] theorem State.modSnap_auxSettle : (s.modSnap i f).auxSettle = s.auxSettle := rfl
@[simp] theorem State.modSnap_stages : (s.modSnap i f).stages = s.stages := rfl
@[simp] theorem State.modSnap_order : (s.modSnap i f).order = s.order := rfl
@[simp] theorem State.modSnap_ev : (s.modSnap i f).ev = s.ev := rfl
@[simp] theorem State.modSnap_clk : (s.modSnap i f).clk = s.clk := rfl
@[simp] theorem State.modSnap_tpos : (s.modSnap i f).tpos = s.tpos := rfl
@[simp] theorem State.modSnap_caps : (s.modSnap i f).caps = s.caps := rfl
@[simp] theorem State.modSnap_net : (s.modSnap i f).net = s.net := rfl
@[simp] theorem State.modSnap_dins : (s.modSnap i f).dins = s.dins := rfl
@[simp] theorem State.modSnap_takes : (s.modSnap i f).takes = s.takes := rfl
@[simp] theorem State.modSnap_takeMem : (s.modSnap i f).takeMem = s.takeMem := rfl
@[simp] theorem State.modSnap_rings : (s.modSnap i f).rings = s.rings := rfl
@[simp] theorem State.modSnap_cal : (s.modSnap i f).cal = s.cal := rfl
@[simp] theorem State.modSnap_bands : (s.modSnap i f).bands = s.bands := rfl
@[simp] theorem State.modSnap_wins : (s.modSnap i f).wins = s.wins := rfl
@[simp] theorem State.modSnap_cross : (s.modSnap i f).cross = s.cross := rfl
@[simp] theorem State.modSnap_crossIn : (s.modSnap i f).crossIn = s.crossIn := rfl
@[simp] theorem State.modSnap_strm : (s.modSnap i f).strm = s.strm := rfl
@[simp] theorem State.modSnap_cust : (s.modSnap i f).cust = s.cust := rfl
@[simp] theorem State.modSnap_dmaBuf : (s.modSnap i f).dmaBuf = s.dmaBuf := rfl
@[simp] theorem State.modSnap_lgo : (s.modSnap i f).lgo = s.lgo := rfl
@[simp] theorem State.modSnap_dma : (s.modSnap i f).dma = s.dma := rfl
@[simp] theorem State.modSnap_host : (s.modSnap i f).host = s.host := rfl
@[simp] theorem State.modSnap_flash : (s.modSnap i f).flash = s.flash := rfl
@[simp] theorem State.modSnap_power : (s.modSnap i f).power = s.power := rfl
@[simp] theorem State.modSnap_store : (s.modSnap i f).store = s.store := rfl
@[simp] theorem State.modSnap_queries : (s.modSnap i f).queries = s.queries := rfl
@[simp] theorem State.modSnap_dbg : (s.modSnap i f).dbg = s.dbg := rfl
@[simp] theorem State.modSnap_free : (s.modSnap i f).free = s.free := rfl
@[simp] theorem State.modSnap_num (p : Obj) (w b : Nat) : (s.modSnap i f).num p w b = s.num p w b := rfl
@[simp] theorem State.modSnap_nat (p : Obj) (w b : Nat) : (s.modSnap i f).nat p w b = s.nat p w b := rfl
@[simp] theorem State.modSnap_bytes (p : Obj) (w b : Nat) : (s.modSnap i f).bytes p w b = s.bytes p w b := rfl
end

section
variable (s : State) (i : Nat) (f : LgoSt → LgoSt)
@[simp] theorem State.modLgo_pending : (s.modLgo i f).pending = s.pending := rfl
@[simp] theorem State.modLgo_variant : (s.modLgo i f).variant = s.variant := rfl
@[simp] theorem State.modLgo_now : (s.modLgo i f).now = s.now := rfl
@[simp] theorem State.modLgo_regs : (s.modLgo i f).regs = s.regs := rfl
@[simp] theorem State.modLgo_blobs : (s.modLgo i f).blobs = s.blobs := rfl
@[simp] theorem State.modLgo_fac : (s.modLgo i f).fac = s.fac := rfl
@[simp] theorem State.modLgo_ans : (s.modLgo i f).ans = s.ans := rfl
@[simp] theorem State.modLgo_ansBody : (s.modLgo i f).ansBody = s.ansBody := rfl
@[simp] theorem State.modLgo_queues : (s.modLgo i f).queues = s.queues := rfl
@[simp] theorem State.modLgo_chans : (s.modLgo i f).chans = s.chans := rfl
@[simp] theorem State.modLgo_cells : (s.modLgo i f).cells = s.cells := rfl
@[simp] theorem State.modLgo_excSettle : (s.modLgo i f).excSettle = s.excSettle := rfl
@[simp] theorem State.modLgo_excLeft : (s.modLgo i f).excLeft = s.excLeft := rfl
@[simp] theorem State.modLgo_aux : (s.modLgo i f).aux = s.aux := rfl
@[simp] theorem State.modLgo_auxSettle : (s.modLgo i f).auxSettle = s.auxSettle := rfl
@[simp] theorem State.modLgo_stages : (s.modLgo i f).stages = s.stages := rfl
@[simp] theorem State.modLgo_order : (s.modLgo i f).order = s.order := rfl
@[simp] theorem State.modLgo_ev : (s.modLgo i f).ev = s.ev := rfl
@[simp] theorem State.modLgo_clk : (s.modLgo i f).clk = s.clk := rfl
@[simp] theorem State.modLgo_tpos : (s.modLgo i f).tpos = s.tpos := rfl
@[simp] theorem State.modLgo_caps : (s.modLgo i f).caps = s.caps := rfl
@[simp] theorem State.modLgo_net : (s.modLgo i f).net = s.net := rfl
@[simp] theorem State.modLgo_dins : (s.modLgo i f).dins = s.dins := rfl
@[simp] theorem State.modLgo_takes : (s.modLgo i f).takes = s.takes := rfl
@[simp] theorem State.modLgo_takeMem : (s.modLgo i f).takeMem = s.takeMem := rfl
@[simp] theorem State.modLgo_rings : (s.modLgo i f).rings = s.rings := rfl
@[simp] theorem State.modLgo_cal : (s.modLgo i f).cal = s.cal := rfl
@[simp] theorem State.modLgo_bands : (s.modLgo i f).bands = s.bands := rfl
@[simp] theorem State.modLgo_wins : (s.modLgo i f).wins = s.wins := rfl
@[simp] theorem State.modLgo_cross : (s.modLgo i f).cross = s.cross := rfl
@[simp] theorem State.modLgo_crossIn : (s.modLgo i f).crossIn = s.crossIn := rfl
@[simp] theorem State.modLgo_strm : (s.modLgo i f).strm = s.strm := rfl
@[simp] theorem State.modLgo_cust : (s.modLgo i f).cust = s.cust := rfl
@[simp] theorem State.modLgo_dmaBuf : (s.modLgo i f).dmaBuf = s.dmaBuf := rfl
@[simp] theorem State.modLgo_dma : (s.modLgo i f).dma = s.dma := rfl
@[simp] theorem State.modLgo_host : (s.modLgo i f).host = s.host := rfl
@[simp] theorem State.modLgo_flash : (s.modLgo i f).flash = s.flash := rfl
@[simp] theorem State.modLgo_power : (s.modLgo i f).power = s.power := rfl
@[simp] theorem State.modLgo_store : (s.modLgo i f).store = s.store := rfl
@[simp] theorem State.modLgo_snaps : (s.modLgo i f).snaps = s.snaps := rfl
@[simp] theorem State.modLgo_queries : (s.modLgo i f).queries = s.queries := rfl
@[simp] theorem State.modLgo_dbg : (s.modLgo i f).dbg = s.dbg := rfl
@[simp] theorem State.modLgo_free : (s.modLgo i f).free = s.free := rfl
@[simp] theorem State.modLgo_num (p : Obj) (w b : Nat) : (s.modLgo i f).num p w b = s.num p w b := rfl
@[simp] theorem State.modLgo_nat (p : Obj) (w b : Nat) : (s.modLgo i f).nat p w b = s.nat p w b := rfl
@[simp] theorem State.modLgo_bytes (p : Obj) (w b : Nat) : (s.modLgo i f).bytes p w b = s.bytes p w b := rfl
end

section
variable (s : State) (i : Nat) (f : DmaCh → DmaCh)
@[simp] theorem State.modCh_pending : (s.modCh i f).pending = s.pending := rfl
@[simp] theorem State.modCh_variant : (s.modCh i f).variant = s.variant := rfl
@[simp] theorem State.modCh_now : (s.modCh i f).now = s.now := rfl
@[simp] theorem State.modCh_regs : (s.modCh i f).regs = s.regs := rfl
@[simp] theorem State.modCh_blobs : (s.modCh i f).blobs = s.blobs := rfl
@[simp] theorem State.modCh_fac : (s.modCh i f).fac = s.fac := rfl
@[simp] theorem State.modCh_ans : (s.modCh i f).ans = s.ans := rfl
@[simp] theorem State.modCh_ansBody : (s.modCh i f).ansBody = s.ansBody := rfl
@[simp] theorem State.modCh_queues : (s.modCh i f).queues = s.queues := rfl
@[simp] theorem State.modCh_chans : (s.modCh i f).chans = s.chans := rfl
@[simp] theorem State.modCh_cells : (s.modCh i f).cells = s.cells := rfl
@[simp] theorem State.modCh_excSettle : (s.modCh i f).excSettle = s.excSettle := rfl
@[simp] theorem State.modCh_excLeft : (s.modCh i f).excLeft = s.excLeft := rfl
@[simp] theorem State.modCh_aux : (s.modCh i f).aux = s.aux := rfl
@[simp] theorem State.modCh_auxSettle : (s.modCh i f).auxSettle = s.auxSettle := rfl
@[simp] theorem State.modCh_stages : (s.modCh i f).stages = s.stages := rfl
@[simp] theorem State.modCh_order : (s.modCh i f).order = s.order := rfl
@[simp] theorem State.modCh_ev : (s.modCh i f).ev = s.ev := rfl
@[simp] theorem State.modCh_clk : (s.modCh i f).clk = s.clk := rfl
@[simp] theorem State.modCh_tpos : (s.modCh i f).tpos = s.tpos := rfl
@[simp] theorem State.modCh_caps : (s.modCh i f).caps = s.caps := rfl
@[simp] theorem State.modCh_net : (s.modCh i f).net = s.net := rfl
@[simp] theorem State.modCh_dins : (s.modCh i f).dins = s.dins := rfl
@[simp] theorem State.modCh_takes : (s.modCh i f).takes = s.takes := rfl
@[simp] theorem State.modCh_takeMem : (s.modCh i f).takeMem = s.takeMem := rfl
@[simp] theorem State.modCh_rings : (s.modCh i f).rings = s.rings := rfl
@[simp] theorem State.modCh_cal : (s.modCh i f).cal = s.cal := rfl
@[simp] theorem State.modCh_bands : (s.modCh i f).bands = s.bands := rfl
@[simp] theorem State.modCh_wins : (s.modCh i f).wins = s.wins := rfl
@[simp] theorem State.modCh_cross : (s.modCh i f).cross = s.cross := rfl
@[simp] theorem State.modCh_crossIn : (s.modCh i f).crossIn = s.crossIn := rfl
@[simp] theorem State.modCh_strm : (s.modCh i f).strm = s.strm := rfl
@[simp] theorem State.modCh_cust : (s.modCh i f).cust = s.cust := rfl
@[simp] theorem State.modCh_dmaBuf : (s.modCh i f).dmaBuf = s.dmaBuf := rfl
@[simp] theorem State.modCh_lgo : (s.modCh i f).lgo = s.lgo := rfl
@[simp] theorem State.modCh_host : (s.modCh i f).host = s.host := rfl
@[simp] theorem State.modCh_flash : (s.modCh i f).flash = s.flash := rfl
@[simp] theorem State.modCh_power : (s.modCh i f).power = s.power := rfl
@[simp] theorem State.modCh_store : (s.modCh i f).store = s.store := rfl
@[simp] theorem State.modCh_snaps : (s.modCh i f).snaps = s.snaps := rfl
@[simp] theorem State.modCh_queries : (s.modCh i f).queries = s.queries := rfl
@[simp] theorem State.modCh_dbg : (s.modCh i f).dbg = s.dbg := rfl
@[simp] theorem State.modCh_free : (s.modCh i f).free = s.free := rfl
@[simp] theorem State.modCh_num (p : Obj) (w b : Nat) : (s.modCh i f).num p w b = s.num p w b := rfl
@[simp] theorem State.modCh_nat (p : Obj) (w b : Nat) : (s.modCh i f).nat p w b = s.nat p w b := rfl
@[simp] theorem State.modCh_bytes (p : Obj) (w b : Nat) : (s.modCh i f).bytes p w b = s.bytes p w b := rfl
end

section
variable (s : State) (i : Nat) (f : StreamSt → StreamSt)
@[simp] theorem State.modStream_pending : (s.modStream i f).pending = s.pending := rfl
@[simp] theorem State.modStream_variant : (s.modStream i f).variant = s.variant := rfl
@[simp] theorem State.modStream_now : (s.modStream i f).now = s.now := rfl
@[simp] theorem State.modStream_regs : (s.modStream i f).regs = s.regs := rfl
@[simp] theorem State.modStream_blobs : (s.modStream i f).blobs = s.blobs := rfl
@[simp] theorem State.modStream_fac : (s.modStream i f).fac = s.fac := rfl
@[simp] theorem State.modStream_ans : (s.modStream i f).ans = s.ans := rfl
@[simp] theorem State.modStream_ansBody : (s.modStream i f).ansBody = s.ansBody := rfl
@[simp] theorem State.modStream_queues : (s.modStream i f).queues = s.queues := rfl
@[simp] theorem State.modStream_chans : (s.modStream i f).chans = s.chans := rfl
@[simp] theorem State.modStream_cells : (s.modStream i f).cells = s.cells := rfl
@[simp] theorem State.modStream_excSettle : (s.modStream i f).excSettle = s.excSettle := rfl
@[simp] theorem State.modStream_excLeft : (s.modStream i f).excLeft = s.excLeft := rfl
@[simp] theorem State.modStream_aux : (s.modStream i f).aux = s.aux := rfl
@[simp] theorem State.modStream_auxSettle : (s.modStream i f).auxSettle = s.auxSettle := rfl
@[simp] theorem State.modStream_stages : (s.modStream i f).stages = s.stages := rfl
@[simp] theorem State.modStream_order : (s.modStream i f).order = s.order := rfl
@[simp] theorem State.modStream_ev : (s.modStream i f).ev = s.ev := rfl
@[simp] theorem State.modStream_clk : (s.modStream i f).clk = s.clk := rfl
@[simp] theorem State.modStream_tpos : (s.modStream i f).tpos = s.tpos := rfl
@[simp] theorem State.modStream_caps : (s.modStream i f).caps = s.caps := rfl
@[simp] theorem State.modStream_net : (s.modStream i f).net = s.net := rfl
@[simp] theorem State.modStream_dins : (s.modStream i f).dins = s.dins := rfl
@[simp] theorem State.modStream_takes : (s.modStream i f).takes = s.takes := rfl
@[simp] theorem State.modStream_takeMem : (s.modStream i f).takeMem = s.takeMem := rfl
@[simp] theorem State.modStream_rings : (s.modStream i f).rings = s.rings := rfl
@[simp] theorem State.modStream_cal : (s.modStream i f).cal = s.cal := rfl
@[simp] theorem State.modStream_bands : (s.modStream i f).bands = s.bands := rfl
@[simp] theorem State.modStream_wins : (s.modStream i f).wins = s.wins := rfl
@[simp] theorem State.modStream_cross : (s.modStream i f).cross = s.cross := rfl
@[simp] theorem State.modStream_crossIn : (s.modStream i f).crossIn = s.crossIn := rfl
@[simp] theorem State.modStream_cust : (s.modStream i f).cust = s.cust := rfl
@[simp] theorem State.modStream_dmaBuf : (s.modStream i f).dmaBuf = s.dmaBuf := rfl
@[simp] theorem State.modStream_lgo : (s.modStream i f).lgo = s.lgo := rfl
@[simp] theorem State.modStream_dma : (s.modStream i f).dma = s.dma := rfl
@[simp] theorem State.modStream_host : (s.modStream i f).host = s.host := rfl
@[simp] theorem State.modStream_flash : (s.modStream i f).flash = s.flash := rfl
@[simp] theorem State.modStream_power : (s.modStream i f).power = s.power := rfl
@[simp] theorem State.modStream_store : (s.modStream i f).store = s.store := rfl
@[simp] theorem State.modStream_snaps : (s.modStream i f).snaps = s.snaps := rfl
@[simp] theorem State.modStream_queries : (s.modStream i f).queries = s.queries := rfl
@[simp] theorem State.modStream_dbg : (s.modStream i f).dbg = s.dbg := rfl
@[simp] theorem State.modStream_free : (s.modStream i f).free = s.free := rfl
@[simp] theorem State.modStream_num (p : Obj) (w b : Nat) : (s.modStream i f).num p w b = s.num p w b := rfl
@[simp] theorem State.modStream_nat (p : Obj) (w b : Nat) : (s.modStream i f).nat p w b = s.nat p w b := rfl
@[simp] theorem State.modStream_bytes (p : Obj) (w b : Nat) : (s.modStream i f).bytes p w b = s.bytes p w b := rfl
end

section
variable (s : State) (i : Nat) (f : Chan → Chan)
@[simp] theorem State.modChan_pending : (s.modChan i f).pending = s.pending := rfl
@[simp] theorem State.modChan_variant : (s.modChan i f).variant = s.variant := rfl
@[simp] theorem State.modChan_now : (s.modChan i f).now = s.now := rfl
@[simp] theorem State.modChan_regs : (s.modChan i f).regs = s.regs := rfl
@[simp] theorem State.modChan_blobs : (s.modChan i f).blobs = s.blobs := rfl
@[simp] theorem State.modChan_fac : (s.modChan i f).fac = s.fac := rfl
@[simp] theorem State.modChan_ans : (s.modChan i f).ans = s.ans := rfl
@[simp] theorem State.modChan_ansBody : (s.modChan i f).ansBody = s.ansBody := rfl
@[simp] theorem State.modChan_queues : (s.modChan i f).queues = s.queues := rfl
@[simp] theorem State.modChan_cells : (s.modChan i f).cells = s.cells := rfl
@[simp] theorem State.modChan_excSettle : (s.modChan i f).excSettle = s.excSettle := rfl
@[simp] theorem State.modChan_excLeft : (s.modChan i f).excLeft = s.excLeft := rfl
@[simp] theorem State.modChan_aux : (s.modChan i f).aux = s.aux := rfl
@[simp] theorem State.modChan_auxSettle : (s.modChan i f).auxSettle = s.auxSettle := rfl
@[simp] theorem State.modChan_stages : (s.modChan i f).stages = s.stages := rfl
@[simp] theorem State.modChan_order : (s.modChan i f).order = s.order := rfl
@[simp] theorem State.modChan_ev : (s.modChan i f).ev = s.ev := rfl
@[simp] theorem State.modChan_clk : (s.modChan i f).clk = s.clk := rfl
@[simp] theorem State.modChan_tpos : (s.modChan i f).tpos = s.tpos := rfl
@[simp] theorem State.modChan_caps : (s.modChan i f).caps = s.caps := rfl
@[simp] theorem State.modChan_net : (s.modChan i f).net = s.net := rfl
@[simp] theorem State.modChan_dins : (s.modChan i f).dins = s.dins := rfl
@[simp] theorem State.modChan_takes : (s.modChan i f).takes = s.takes := rfl
@[simp] theorem State.modChan_takeMem : (s.modChan i f).takeMem = s.takeMem := rfl
@[simp] theorem State.modChan_rings : (s.modChan i f).rings = s.rings := rfl
@[simp] theorem State.modChan_cal : (s.modChan i f).cal = s.cal := rfl
@[simp] theorem State.modChan_bands : (s.modChan i f).bands = s.bands := rfl
@[simp] theorem State.modChan_wins : (s.modChan i f).wins = s.wins := rfl
@[simp] theorem State.modChan_cross : (s.modChan i f).cross = s.cross := rfl
@[simp] theorem State.modChan_crossIn : (s.modChan i f).crossIn = s.crossIn := rfl
@[simp] theorem State.modChan_strm : (s.modChan i f).strm = s.strm := rfl
@[simp] theorem State.modChan_cust : (s.modChan i f).cust = s.cust := rfl
@[simp] theorem State.modChan_dmaBuf : (s.modChan i f).dmaBuf = s.dmaBuf := rfl
@[simp] theorem State.modChan_lgo : (s.modChan i f).lgo = s.lgo := rfl
@[simp] theorem State.modChan_dma : (s.modChan i f).dma = s.dma := rfl
@[simp] theorem State.modChan_host : (s.modChan i f).host = s.host := rfl
@[simp] theorem State.modChan_flash : (s.modChan i f).flash = s.flash := rfl
@[simp] theorem State.modChan_power : (s.modChan i f).power = s.power := rfl
@[simp] theorem State.modChan_store : (s.modChan i f).store = s.store := rfl
@[simp] theorem State.modChan_snaps : (s.modChan i f).snaps = s.snaps := rfl
@[simp] theorem State.modChan_queries : (s.modChan i f).queries = s.queries := rfl
@[simp] theorem State.modChan_dbg : (s.modChan i f).dbg = s.dbg := rfl
@[simp] theorem State.modChan_free : (s.modChan i f).free = s.free := rfl
@[simp] theorem State.modChan_num (p : Obj) (w b : Nat) : (s.modChan i f).num p w b = s.num p w b := rfl
@[simp] theorem State.modChan_nat (p : Obj) (w b : Nat) : (s.modChan i f).nat p w b = s.nat p w b := rfl
@[simp] theorem State.modChan_bytes (p : Obj) (w b : Nat) : (s.modChan i f).bytes p w b = s.bytes p w b := rfl
end

section
variable (s : State) (i : Nat) (f : Queue → Queue)
@[simp] theorem State.modQueue_pending : (s.modQueue i f).pending = s.pending := rfl
@[simp] theorem State.modQueue_variant : (s.modQueue i f).variant = s.variant := rfl
@[simp] theorem State.modQueue_now : (s.modQueue i f).now = s.now := rfl
@[simp] theorem State.modQueue_regs : (s.modQueue i f).regs = s.regs := rfl
@[simp] theorem State.modQueue_blobs : (s.modQueue i f).blobs = s.blobs := rfl
@[simp] theorem State.modQueue_fac : (s.modQueue i f).fac = s.fac := rfl
@[simp] theorem State.modQueue_ans : (s.modQueue i f).ans = s.ans := rfl
@[simp] theorem State.modQueue_ansBody : (s.modQueue i f).ansBody = s.ansBody := rfl
@[simp] theorem State.modQueue_chans : (s.modQueue i f).chans = s.chans := rfl
@[simp] theorem State.modQueue_cells : (s.modQueue i f).cells = s.cells := rfl
@[simp] theorem State.modQueue_excSettle : (s.modQueue i f).excSettle = s.excSettle := rfl
@[simp] theorem State.modQueue_excLeft : (s.modQueue i f).excLeft = s.excLeft := rfl
@[simp] theorem State.modQueue_aux : (s.modQueue i f).aux = s.aux := rfl
@[simp] theorem State.modQueue_auxSettle : (s.modQueue i f).auxSettle = s.auxSettle := rfl
@[simp] theorem State.modQueue_stages : (s.modQueue i f).stages = s.stages := rfl
@[simp] theorem State.modQueue_order : (s.modQueue i f).order = s.order := rfl
@[simp] theorem State.modQueue_ev : (s.modQueue i f).ev = s.ev := rfl
@[simp] theorem State.modQueue_clk : (s.modQueue i f).clk = s.clk := rfl
@[simp] theorem State.modQueue_tpos : (s.modQueue i f).tpos = s.tpos := rfl
@[simp] theorem State.modQueue_caps : (s.modQueue i f).caps = s.caps := rfl
@[simp] theorem State.modQueue_net : (s.modQueue i f).net = s.net := rfl
@[simp] theorem State.modQueue_dins : (s.modQueue i f).dins = s.dins := rfl
@[simp] theorem State.modQueue_takes : (s.modQueue i f).takes = s.takes := rfl
@[simp] theorem State.modQueue_takeMem : (s.modQueue i f).takeMem = s.takeMem := rfl
@[simp] theorem State.modQueue_rings : (s.modQueue i f).rings = s.rings := rfl
@[simp] theorem State.modQueue_cal : (s.modQueue i f).cal = s.cal := rfl
@[simp] theorem State.modQueue_bands : (s.modQueue i f).bands = s.bands := rfl
@[simp] theorem State.modQueue_wins : (s.modQueue i f).wins = s.wins := rfl
@[simp] theorem State.modQueue_cross : (s.modQueue i f).cross = s.cross := rfl
@[simp] theorem State.modQueue_crossIn : (s.modQueue i f).crossIn = s.crossIn := rfl
@[simp] theorem State.modQueue_strm : (s.modQueue i f).strm = s.strm := rfl
@[simp] theorem State.modQueue_cust : (s.modQueue i f).cust = s.cust := rfl
@[simp] theorem State.modQueue_dmaBuf : (s.modQueue i f).dmaBuf = s.dmaBuf := rfl
@[simp] theorem State.modQueue_lgo : (s.modQueue i f).lgo = s.lgo := rfl
@[simp] theorem State.modQueue_dma : (s.modQueue i f).dma = s.dma := rfl
@[simp] theorem State.modQueue_host : (s.modQueue i f).host = s.host := rfl
@[simp] theorem State.modQueue_flash : (s.modQueue i f).flash = s.flash := rfl
@[simp] theorem State.modQueue_power : (s.modQueue i f).power = s.power := rfl
@[simp] theorem State.modQueue_store : (s.modQueue i f).store = s.store := rfl
@[simp] theorem State.modQueue_snaps : (s.modQueue i f).snaps = s.snaps := rfl
@[simp] theorem State.modQueue_queries : (s.modQueue i f).queries = s.queries := rfl
@[simp] theorem State.modQueue_dbg : (s.modQueue i f).dbg = s.dbg := rfl
@[simp] theorem State.modQueue_free : (s.modQueue i f).free = s.free := rfl
@[simp] theorem State.modQueue_num (p : Obj) (w b : Nat) : (s.modQueue i f).num p w b = s.num p w b := rfl
@[simp] theorem State.modQueue_nat (p : Obj) (w b : Nat) : (s.modQueue i f).nat p w b = s.nat p w b := rfl
@[simp] theorem State.modQueue_bytes (p : Obj) (w b : Nat) : (s.modQueue i f).bytes p w b = s.bytes p w b := rfl
end

section
variable (s : State) (i : Nat) (v : Queue)
@[simp] theorem State.putQueue_pending : (s.putQueue i v).pending = s.pending := rfl
@[simp] theorem State.putQueue_variant : (s.putQueue i v).variant = s.variant := rfl
@[simp] theorem State.putQueue_now : (s.putQueue i v).now = s.now := rfl
@[simp] theorem State.putQueue_regs : (s.putQueue i v).regs = s.regs := rfl
@[simp] theorem State.putQueue_blobs : (s.putQueue i v).blobs = s.blobs := rfl
@[simp] theorem State.putQueue_fac : (s.putQueue i v).fac = s.fac := rfl
@[simp] theorem State.putQueue_ans : (s.putQueue i v).ans = s.ans := rfl
@[simp] theorem State.putQueue_ansBody : (s.putQueue i v).ansBody = s.ansBody := rfl
@[simp] theorem State.putQueue_chans : (s.putQueue i v).chans = s.chans := rfl
@[simp] theorem State.putQueue_cells : (s.putQueue i v).cells = s.cells := rfl
@[simp] theorem State.putQueue_excSettle : (s.putQueue i v).excSettle = s.excSettle := rfl
@[simp] theorem State.putQueue_excLeft : (s.putQueue i v).excLeft = s.excLeft := rfl
@[simp] theorem State.putQueue_aux : (s.putQueue i v).aux = s.aux := rfl
@[simp] theorem State.putQueue_auxSettle : (s.putQueue i v).auxSettle = s.auxSettle := rfl
@[simp] theorem State.putQueue_stages : (s.putQueue i v).stages = s.stages := rfl
@[simp] theorem State.putQueue_order : (s.putQueue i v).order = s.order := rfl
@[simp] theorem State.putQueue_ev : (s.putQueue i v).ev = s.ev := rfl
@[simp] theorem State.putQueue_clk : (s.putQueue i v).clk = s.clk := rfl
@[simp] theorem State.putQueue_tpos : (s.putQueue i v).tpos = s.tpos := rfl
@[simp] theorem State.putQueue_caps : (s.putQueue i v).caps = s.caps := rfl
@[simp] theorem State.putQueue_net : (s.putQueue i v).net = s.net := rfl
@[simp] theorem State.putQueue_dins : (s.putQueue i v).dins = s.dins := rfl
@[simp] theorem State.putQueue_takes : (s.putQueue i v).takes = s.takes := rfl
@[simp] theorem State.putQueue_takeMem : (s.putQueue i v).takeMem = s.takeMem := rfl
@[simp] theorem State.putQueue_rings : (s.putQueue i v).rings = s.rings := rfl
@[simp] theorem State.putQueue_cal : (s.putQueue i v).cal = s.cal := rfl
@[simp] theorem State.putQueue_bands : (s.putQueue i v).bands = s.bands := rfl
@[simp] theorem State.putQueue_wins : (s.putQueue i v).wins = s.wins := rfl
@[simp] theorem State.putQueue_cross : (s.putQueue i v).cross = s.cross := rfl
@[simp] theorem State.putQueue_crossIn : (s.putQueue i v).crossIn = s.crossIn := rfl
@[simp] theorem State.putQueue_strm : (s.putQueue i v).strm = s.strm := rfl
@[simp] theorem State.putQueue_cust : (s.putQueue i v).cust = s.cust := rfl
@[simp] theorem State.putQueue_dmaBuf : (s.putQueue i v).dmaBuf = s.dmaBuf := rfl
@[simp] theorem State.putQueue_lgo : (s.putQueue i v).lgo = s.lgo := rfl
@[simp] theorem State.putQueue_dma : (s.putQueue i v).dma = s.dma := rfl
@[simp] theorem State.putQueue_host : (s.putQueue i v).host = s.host := rfl
@[simp] theorem State.putQueue_flash : (s.putQueue i v).flash = s.flash := rfl
@[simp] theorem State.putQueue_power : (s.putQueue i v).power = s.power := rfl
@[simp] theorem State.putQueue_store : (s.putQueue i v).store = s.store := rfl
@[simp] theorem State.putQueue_snaps : (s.putQueue i v).snaps = s.snaps := rfl
@[simp] theorem State.putQueue_queries : (s.putQueue i v).queries = s.queries := rfl
@[simp] theorem State.putQueue_dbg : (s.putQueue i v).dbg = s.dbg := rfl
@[simp] theorem State.putQueue_free : (s.putQueue i v).free = s.free := rfl
@[simp] theorem State.putQueue_num (p : Obj) (w b : Nat) : (s.putQueue i v).num p w b = s.num p w b := rfl
@[simp] theorem State.putQueue_nat (p : Obj) (w b : Nat) : (s.putQueue i v).nat p w b = s.nat p w b := rfl
@[simp] theorem State.putQueue_bytes (p : Obj) (w b : Nat) : (s.putQueue i v).bytes p w b = s.bytes p w b := rfl
end

section
variable (s : State) (i : Nat) (v : Stage)
@[simp] theorem State.putStage_pending : (s.putStage i v).pending = s.pending := rfl
@[simp] theorem State.putStage_variant : (s.putStage i v).variant = s.variant := rfl
@[simp] theorem State.putStage_now : (s.putStage i v).now = s.now := rfl
@[simp] theorem State.putStage_regs : (s.putStage i v).regs = s.regs := rfl
@[simp] theorem State.putStage_blobs : (s.putStage i v).blobs = s.blobs := rfl
@[simp] theorem State.putStage_fac : (s.putStage i v).fac = s.fac := rfl
@[simp] theorem State.putStage_ans : (s.putStage i v).ans = s.ans := rfl
@[simp] theorem State.putStage_ansBody : (s.putStage i v).ansBody = s.ansBody := rfl
@[simp] theorem State.putStage_queues : (s.putStage i v).queues = s.queues := rfl
@[simp] theorem State.putStage_chans : (s.putStage i v).chans = s.chans := rfl
@[simp] theorem State.putStage_cells : (s.putStage i v).cells = s.cells := rfl
@[simp] theorem State.putStage_excSettle : (s.putStage i v).excSettle = s.excSettle := rfl
@[simp] theorem State.putStage_excLeft : (s.putStage i v).excLeft = s.excLeft := rfl
@[simp] theorem State.putStage_aux : (s.putStage i v).aux = s.aux := rfl
@[simp] theorem State.putStage_auxSettle : (s.putStage i v).auxSettle = s.auxSettle := rfl
@[simp] theorem State.putStage_order : (s.putStage i v).order = s.order := rfl
@[simp] theorem State.putStage_ev : (s.putStage i v).ev = s.ev := rfl
@[simp] theorem State.putStage_clk : (s.putStage i v).clk = s.clk := rfl
@[simp] theorem State.putStage_tpos : (s.putStage i v).tpos = s.tpos := rfl
@[simp] theorem State.putStage_caps : (s.putStage i v).caps = s.caps := rfl
@[simp] theorem State.putStage_net : (s.putStage i v).net = s.net := rfl
@[simp] theorem State.putStage_dins : (s.putStage i v).dins = s.dins := rfl
@[simp] theorem State.putStage_takes : (s.putStage i v).takes = s.takes := rfl
@[simp] theorem State.putStage_takeMem : (s.putStage i v).takeMem = s.takeMem := rfl
@[simp] theorem State.putStage_rings : (s.putStage i v).rings = s.rings := rfl
@[simp] theorem State.putStage_cal : (s.putStage i v).cal = s.cal := rfl
@[simp] theorem State.putStage_bands : (s.putStage i v).bands = s.bands := rfl
@[simp] theorem State.putStage_wins : (s.putStage i v).wins = s.wins := rfl
@[simp] theorem State.putStage_cross : (s.putStage i v).cross = s.cross := rfl
@[simp] theorem State.putStage_crossIn : (s.putStage i v).crossIn = s.crossIn := rfl
@[simp] theorem State.putStage_strm : (s.putStage i v).strm = s.strm := rfl
@[simp] theorem State.putStage_cust : (s.putStage i v).cust = s.cust := rfl
@[simp] theorem State.putStage_dmaBuf : (s.putStage i v).dmaBuf = s.dmaBuf := rfl
@[simp] theorem State.putStage_lgo : (s.putStage i v).lgo = s.lgo := rfl
@[simp] theorem State.putStage_dma : (s.putStage i v).dma = s.dma := rfl
@[simp] theorem State.putStage_host : (s.putStage i v).host = s.host := rfl
@[simp] theorem State.putStage_flash : (s.putStage i v).flash = s.flash := rfl
@[simp] theorem State.putStage_power : (s.putStage i v).power = s.power := rfl
@[simp] theorem State.putStage_store : (s.putStage i v).store = s.store := rfl
@[simp] theorem State.putStage_snaps : (s.putStage i v).snaps = s.snaps := rfl
@[simp] theorem State.putStage_queries : (s.putStage i v).queries = s.queries := rfl
@[simp] theorem State.putStage_dbg : (s.putStage i v).dbg = s.dbg := rfl
@[simp] theorem State.putStage_free : (s.putStage i v).free = s.free := rfl
@[simp] theorem State.putStage_num (p : Obj) (w b : Nat) : (s.putStage i v).num p w b = s.num p w b := rfl
@[simp] theorem State.putStage_nat (p : Obj) (w b : Nat) : (s.putStage i v).nat p w b = s.nat p w b := rfl
@[simp] theorem State.putStage_bytes (p : Obj) (w b : Nat) : (s.putStage i v).bytes p w b = s.bytes p w b := rfl
end

section
variable (s : State) (i : Nat) (v : Chan)
@[simp] theorem State.putChan_pending : (s.putChan i v).pending = s.pending := rfl
@[simp] theorem State.putChan_variant : (s.putChan i v).variant = s.variant := rfl
@[simp] theorem State.putChan_now : (s.putChan i v).now = s.now := rfl
@[simp] theorem State.putChan_regs : (s.putChan i v).regs = s.regs := rfl
@[simp] theorem State.putChan_blobs : (s.putChan i v).blobs = s.blobs := rfl
@[simp] theorem State.putChan_fac : (s.putChan i v).fac = s.fac := rfl
@[simp] theorem State.putChan_ans : (s.putChan i v).ans = s.ans := rfl
@[simp] theorem State.putChan_ansBody : (s.putChan i v).ansBody = s.ansBody := rfl
@[simp] theorem State.putChan_queues : (s.putChan i v).queues = s.queues := rfl
@[simp] theorem State.putChan_cells : (s.putChan i v).cells = s.cells := rfl
@[simp] theorem State.putChan_excSettle : (s.putChan i v).excSettle = s.excSettle := rfl
@[simp] theorem State.putChan_excLeft : (s.putChan i v).excLeft = s.excLeft := rfl
@[simp] theorem State.putChan_aux : (s.putChan i v).aux = s.aux := rfl
@[simp] theorem State.putChan_auxSettle : (s.putChan i v).auxSettle = s.auxSettle := rfl
@[simp] theorem State.putChan_stages : (s.putChan i v).stages = s.stages := rfl
@[simp] theorem State.putChan_order : (s.putChan i v).order = s.order := rfl
@[simp] theorem State.putChan_ev : (s.putChan i v).ev = s.ev := rfl
@[simp] theorem State.putChan_clk : (s.putChan i v).clk = s.clk := rfl
@[simp] theorem State.putChan_tpos : (s.putChan i v).tpos = s.tpos := rfl
@[simp] theorem State.putChan_caps : (s.putChan i v).caps = s.caps := rfl
@[simp] theorem State.putChan_net : (s.putChan i v).net = s.net := rfl
@[simp] theorem State.putChan_dins : (s.putChan i v).dins = s.dins := rfl
@[simp] theorem State.putChan_takes : (s.putChan i v).takes = s.takes := rfl
@[simp] theorem State.putChan_takeMem : (s.putChan i v).takeMem = s.takeMem := rfl
@[simp] theorem State.putChan_rings : (s.putChan i v).rings = s.rings := rfl
@[simp] theorem State.putChan_cal : (s.putChan i v).cal = s.cal := rfl
@[simp] theorem State.putChan_bands : (s.putChan i v).bands = s.bands := rfl
@[simp] theorem State.putChan_wins : (s.putChan i v).wins = s.wins := rfl
@[simp] theorem State.putChan_cross : (s.putChan i v).cross = s.cross := rfl
@[simp] theorem State.putChan_crossIn : (s.putChan i v).crossIn = s.crossIn := rfl
@[simp] theorem State.putChan_strm : (s.putChan i v).strm = s.strm := rfl
@[simp] theorem State.putChan_cust : (s.putChan i v).cust = s.cust := rfl
@[simp] theorem State.putChan_dmaBuf : (s.putChan i v).dmaBuf = s.dmaBuf := rfl
@[simp] theorem State.putChan_lgo : (s.putChan i v).lgo = s.lgo := rfl
@[simp] theorem State.putChan_dma : (s.putChan i v).dma = s.dma := rfl
@[simp] theorem State.putChan_host : (s.putChan i v).host = s.host := rfl
@[simp] theorem State.putChan_flash : (s.putChan i v).flash = s.flash := rfl
@[simp] theorem State.putChan_power : (s.putChan i v).power = s.power := rfl
@[simp] theorem State.putChan_store : (s.putChan i v).store = s.store := rfl
@[simp] theorem State.putChan_snaps : (s.putChan i v).snaps = s.snaps := rfl
@[simp] theorem State.putChan_queries : (s.putChan i v).queries = s.queries := rfl
@[simp] theorem State.putChan_dbg : (s.putChan i v).dbg = s.dbg := rfl
@[simp] theorem State.putChan_free : (s.putChan i v).free = s.free := rfl
@[simp] theorem State.putChan_num (p : Obj) (w b : Nat) : (s.putChan i v).num p w b = s.num p w b := rfl
@[simp] theorem State.putChan_nat (p : Obj) (w b : Nat) : (s.putChan i v).nat p w b = s.nat p w b := rfl
@[simp] theorem State.putChan_bytes (p : Obj) (w b : Nat) : (s.putChan i v).bytes p w b = s.bytes p w b := rfl
end

section
variable (s : State) (i : Nat) (v : BandCh)
@[simp] theorem State.putBand_pending : (s.putBand i v).pending = s.pending := rfl
@[simp] theorem State.putBand_variant : (s.putBand i v).variant = s.variant := rfl
@[simp] theorem State.putBand_now : (s.putBand i v).now = s.now := rfl
@[simp] theorem State.putBand_regs : (s.putBand i v).regs = s.regs := rfl
@[simp] theorem State.putBand_blobs : (s.putBand i v).blobs = s.blobs := rfl
@[simp] theorem State.putBand_fac : (s.putBand i v).fac = s.fac := rfl
@[simp] theorem State.putBand_ans : (s.putBand i v).ans = s.ans := rfl
@[simp] theorem State.putBand_ansBody : (s.putBand i v).ansBody = s.ansBody := rfl
@[simp] theorem State.putBand_queues : (s.putBand i v).queues = s.queues := rfl
@[simp] theorem State.putBand_chans : (s.putBand i v).chans = s.chans := rfl
@[simp] theorem State.putBand_cells : (s.putBand i v).cells = s.cells := rfl
@[simp] theorem State.putBand_excSettle : (s.putBand i v).excSettle = s.excSettle := rfl
@[simp] theorem State.putBand_excLeft : (s.putBand i v).excLeft = s.excLeft := rfl
@[simp] theorem State.putBand_aux : (s.putBand i v).aux = s.aux := rfl
@[simp] theorem State.putBand_auxSettle : (s.putBand i v).auxSettle = s.auxSettle := rfl
@[simp] theorem State.putBand_stages : (s.putBand i v).stages = s.stages := rfl
@[simp] theorem State.putBand_order : (s.putBand i v).order = s.order := rfl
@[simp] theorem State.putBand_ev : (s.putBand i v).ev = s.ev := rfl
@[simp] theorem State.putBand_clk : (s.putBand i v).clk = s.clk := rfl
@[simp] theorem State.putBand_tpos : (s.putBand i v).tpos = s.tpos := rfl
@[simp] theorem State.putBand_caps : (s.putBand i v).caps = s.caps := rfl
@[simp] theorem State.putBand_net : (s.putBand i v).net = s.net := rfl
@[simp] theorem State.putBand_dins : (s.putBand i v).dins = s.dins := rfl
@[simp] theorem State.putBand_takes : (s.putBand i v).takes = s.takes := rfl
@[simp] theorem State.putBand_takeMem : (s.putBand i v).takeMem = s.takeMem := rfl
@[simp] theorem State.putBand_rings : (s.putBand i v).rings = s.rings := rfl
@[simp] theorem State.putBand_cal : (s.putBand i v).cal = s.cal := rfl
@[simp] theorem State.putBand_wins : (s.putBand i v).wins = s.wins := rfl
@[simp] theorem State.putBand_cross : (s.putBand i v).cross = s.cross := rfl
@[simp] theorem State.putBand_crossIn : (s.putBand i v).crossIn = s.crossIn := rfl
@[simp] theorem State.putBand_strm : (s.putBand i v).strm = s.strm := rfl
@[simp] theorem State.putBand_cust : (s.putBand i v).cust = s.cust := rfl
@[simp] theorem State.putBand_dmaBuf : (s.putBand i v).dmaBuf = s.dmaBuf := rfl
@[simp] theorem State.putBand_lgo : (s.putBand i v).lgo = s.lgo := rfl
@[simp] theorem State.putBand_dma : (s.putBand i v).dma = s.dma := rfl
@[simp] theorem State.putBand_host : (s.putBand i v).host = s.host := rfl
@[simp] theorem State.putBand_flash : (s.putBand i v).flash = s.flash := rfl
@[simp] theorem State.putBand_power : (s.putBand i v).power = s.power := rfl
@[simp] theorem State.putBand_store : (s.putBand i v).store = s.store := rfl
@[simp] theorem State.putBand_snaps : (s.putBand i v).snaps = s.snaps := rfl
@[simp] theorem State.putBand_queries : (s.putBand i v).queries = s.queries := rfl
@[simp] theorem State.putBand_dbg : (s.putBand i v).dbg = s.dbg := rfl
@[simp] theorem State.putBand_free : (s.putBand i v).free = s.free := rfl
@[simp] theorem State.putBand_num (p : Obj) (w b : Nat) : (s.putBand i v).num p w b = s.num p w b := rfl
@[simp] theorem State.putBand_nat (p : Obj) (w b : Nat) : (s.putBand i v).nat p w b = s.nat p w b := rfl
@[simp] theorem State.putBand_bytes (p : Obj) (w b : Nat) : (s.putBand i v).bytes p w b = s.bytes p w b := rfl
end

section
variable (s : State) (i : Nat) (f : PortSt → PortSt)
@[simp] theorem State.modPort_pending : (s.modPort i f).pending = s.pending := rfl
@[simp] theorem State.modPort_variant : (s.modPort i f).variant = s.variant := rfl
@[simp] theorem State.modPort_now : (s.modPort i f).now = s.now := rfl
@[simp] theorem State.modPort_regs : (s.modPort i f).regs = s.regs := rfl
@[simp] theorem State.modPort_blobs : (s.modPort i f).blobs = s.blobs := rfl
@[simp] theorem State.modPort_fac : (s.modPort i f).fac = s.fac := rfl
@[simp] theorem State.modPort_ans : (s.modPort i f).ans = s.ans := rfl
@[simp] theorem State.modPort_ansBody : (s.modPort i f).ansBody = s.ansBody := rfl
@[simp] theorem State.modPort_queues : (s.modPort i f).queues = s.queues := rfl
@[simp] theorem State.modPort_chans : (s.modPort i f).chans = s.chans := rfl
@[simp] theorem State.modPort_cells : (s.modPort i f).cells = s.cells := rfl
@[simp] theorem State.modPort_excSettle : (s.modPort i f).excSettle = s.excSettle := rfl
@[simp] theorem State.modPort_excLeft : (s.modPort i f).excLeft = s.excLeft := rfl
@[simp] theorem State.modPort_aux : (s.modPort i f).aux = s.aux := rfl
@[simp] theorem State.modPort_auxSettle : (s.modPort i f).auxSettle = s.auxSettle := rfl
@[simp] theorem State.modPort_stages : (s.modPort i f).stages = s.stages := rfl
@[simp] theorem State.modPort_order : (s.modPort i f).order = s.order := rfl
@[simp] theorem State.modPort_ev : (s.modPort i f).ev = s.ev := rfl
@[simp] theorem State.modPort_clk : (s.modPort i f).clk = s.clk := rfl
@[simp] theorem State.modPort_tpos : (s.modPort i f).tpos = s.tpos := rfl
@[simp] theorem State.modPort_caps : (s.modPort i f).caps = s.caps := rfl
@[simp] theorem State.modPort_dins : (s.modPort i f).dins = s.dins := rfl
@[simp] theorem State.modPort_takes : (s.modPort i f).takes = s.takes := rfl
@[simp] theorem State.modPort_takeMem : (s.modPort i f).takeMem = s.takeMem := rfl
@[simp] theorem State.modPort_rings : (s.modPort i f).rings = s.rings := rfl
@[simp] theorem State.modPort_cal : (s.modPort i f).cal = s.cal := rfl
@[simp] theorem State.modPort_bands : (s.modPort i f).bands = s.bands := rfl
@[simp] theorem State.modPort_wins : (s.modPort i f).wins = s.wins := rfl
@[simp] theorem State.modPort_cross : (s.modPort i f).cross = s.cross := rfl
@[simp] theorem State.modPort_crossIn : (s.modPort i f).crossIn = s.crossIn := rfl
@[simp] theorem State.modPort_strm : (s.modPort i f).strm = s.strm := rfl
@[simp] theorem State.modPort_cust : (s.modPort i f).cust = s.cust := rfl
@[simp] theorem State.modPort_dmaBuf : (s.modPort i f).dmaBuf = s.dmaBuf := rfl
@[simp] theorem State.modPort_lgo : (s.modPort i f).lgo = s.lgo := rfl
@[simp] theorem State.modPort_dma : (s.modPort i f).dma = s.dma := rfl
@[simp] theorem State.modPort_host : (s.modPort i f).host = s.host := rfl
@[simp] theorem State.modPort_flash : (s.modPort i f).flash = s.flash := rfl
@[simp] theorem State.modPort_power : (s.modPort i f).power = s.power := rfl
@[simp] theorem State.modPort_store : (s.modPort i f).store = s.store := rfl
@[simp] theorem State.modPort_snaps : (s.modPort i f).snaps = s.snaps := rfl
@[simp] theorem State.modPort_queries : (s.modPort i f).queries = s.queries := rfl
@[simp] theorem State.modPort_dbg : (s.modPort i f).dbg = s.dbg := rfl
@[simp] theorem State.modPort_free : (s.modPort i f).free = s.free := rfl
@[simp] theorem State.modPort_num (p : Obj) (w b : Nat) : (s.modPort i f).num p w b = s.num p w b := rfl
@[simp] theorem State.modPort_nat (p : Obj) (w b : Nat) : (s.modPort i f).nat p w b = s.nat p w b := rfl
@[simp] theorem State.modPort_bytes (p : Obj) (w b : Nat) : (s.modPort i f).bytes p w b = s.bytes p w b := rfl
end

section
variable (s : State) (a b : Nat) (f : Space → Space)
@[simp] theorem State.modSpace_pending : (s.modSpace a b f).pending = s.pending := rfl
@[simp] theorem State.modSpace_variant : (s.modSpace a b f).variant = s.variant := rfl
@[simp] theorem State.modSpace_now : (s.modSpace a b f).now = s.now := rfl
@[simp] theorem State.modSpace_regs : (s.modSpace a b f).regs = s.regs := rfl
@[simp] theorem State.modSpace_blobs : (s.modSpace a b f).blobs = s.blobs := rfl
@[simp] theorem State.modSpace_fac : (s.modSpace a b f).fac = s.fac := rfl
@[simp] theorem State.modSpace_ans : (s.modSpace a b f).ans = s.ans := rfl
@[simp] theorem State.modSpace_ansBody : (s.modSpace a b f).ansBody = s.ansBody := rfl
@[simp] theorem State.modSpace_queues : (s.modSpace a b f).queues = s.queues := rfl
@[simp] theorem State.modSpace_chans : (s.modSpace a b f).chans = s.chans := rfl
@[simp] theorem State.modSpace_cells : (s.modSpace a b f).cells = s.cells := rfl
@[simp] theorem State.modSpace_excSettle : (s.modSpace a b f).excSettle = s.excSettle := rfl
@[simp] theorem State.modSpace_excLeft : (s.modSpace a b f).excLeft = s.excLeft := rfl
@[simp] theorem State.modSpace_aux : (s.modSpace a b f).aux = s.aux := rfl
@[simp] theorem State.modSpace_auxSettle : (s.modSpace a b f).auxSettle = s.auxSettle := rfl
@[simp] theorem State.modSpace_stages : (s.modSpace a b f).stages = s.stages := rfl
@[simp] theorem State.modSpace_order : (s.modSpace a b f).order = s.order := rfl
@[simp] theorem State.modSpace_ev : (s.modSpace a b f).ev = s.ev := rfl
@[simp] theorem State.modSpace_clk : (s.modSpace a b f).clk = s.clk := rfl
@[simp] theorem State.modSpace_tpos : (s.modSpace a b f).tpos = s.tpos := rfl
@[simp] theorem State.modSpace_caps : (s.modSpace a b f).caps = s.caps := rfl
@[simp] theorem State.modSpace_net : (s.modSpace a b f).net = s.net := rfl
@[simp] theorem State.modSpace_dins : (s.modSpace a b f).dins = s.dins := rfl
@[simp] theorem State.modSpace_takes : (s.modSpace a b f).takes = s.takes := rfl
@[simp] theorem State.modSpace_takeMem : (s.modSpace a b f).takeMem = s.takeMem := rfl
@[simp] theorem State.modSpace_rings : (s.modSpace a b f).rings = s.rings := rfl
@[simp] theorem State.modSpace_cal : (s.modSpace a b f).cal = s.cal := rfl
@[simp] theorem State.modSpace_bands : (s.modSpace a b f).bands = s.bands := rfl
@[simp] theorem State.modSpace_wins : (s.modSpace a b f).wins = s.wins := rfl
@[simp] theorem State.modSpace_cross : (s.modSpace a b f).cross = s.cross := rfl
@[simp] theorem State.modSpace_crossIn : (s.modSpace a b f).crossIn = s.crossIn := rfl
@[simp] theorem State.modSpace_cust : (s.modSpace a b f).cust = s.cust := rfl
@[simp] theorem State.modSpace_dmaBuf : (s.modSpace a b f).dmaBuf = s.dmaBuf := rfl
@[simp] theorem State.modSpace_lgo : (s.modSpace a b f).lgo = s.lgo := rfl
@[simp] theorem State.modSpace_dma : (s.modSpace a b f).dma = s.dma := rfl
@[simp] theorem State.modSpace_host : (s.modSpace a b f).host = s.host := rfl
@[simp] theorem State.modSpace_flash : (s.modSpace a b f).flash = s.flash := rfl
@[simp] theorem State.modSpace_power : (s.modSpace a b f).power = s.power := rfl
@[simp] theorem State.modSpace_store : (s.modSpace a b f).store = s.store := rfl
@[simp] theorem State.modSpace_snaps : (s.modSpace a b f).snaps = s.snaps := rfl
@[simp] theorem State.modSpace_queries : (s.modSpace a b f).queries = s.queries := rfl
@[simp] theorem State.modSpace_dbg : (s.modSpace a b f).dbg = s.dbg := rfl
@[simp] theorem State.modSpace_free : (s.modSpace a b f).free = s.free := rfl
@[simp] theorem State.modSpace_num (p : Obj) (w b : Nat) : (s.modSpace a b f).num p w b = s.num p w b := rfl
@[simp] theorem State.modSpace_nat (p : Obj) (w b : Nat) : (s.modSpace a b f).nat p w b = s.nat p w b := rfl
@[simp] theorem State.modSpace_bytes (p : Obj) (w b : Nat) : (s.modSpace a b f).bytes p w b = s.bytes p w b := rfl
end

section
variable (s : State) (a b c : Nat) (f : AckSt → AckSt)
@[simp] theorem State.modAck_pending : (s.modAck a b c f).pending = s.pending := rfl
@[simp] theorem State.modAck_variant : (s.modAck a b c f).variant = s.variant := rfl
@[simp] theorem State.modAck_now : (s.modAck a b c f).now = s.now := rfl
@[simp] theorem State.modAck_regs : (s.modAck a b c f).regs = s.regs := rfl
@[simp] theorem State.modAck_blobs : (s.modAck a b c f).blobs = s.blobs := rfl
@[simp] theorem State.modAck_fac : (s.modAck a b c f).fac = s.fac := rfl
@[simp] theorem State.modAck_ans : (s.modAck a b c f).ans = s.ans := rfl
@[simp] theorem State.modAck_ansBody : (s.modAck a b c f).ansBody = s.ansBody := rfl
@[simp] theorem State.modAck_queues : (s.modAck a b c f).queues = s.queues := rfl
@[simp] theorem State.modAck_chans : (s.modAck a b c f).chans = s.chans := rfl
@[simp] theorem State.modAck_cells : (s.modAck a b c f).cells = s.cells := rfl
@[simp] theorem State.modAck_excSettle : (s.modAck a b c f).excSettle = s.excSettle := rfl
@[simp] theorem State.modAck_excLeft : (s.modAck a b c f).excLeft = s.excLeft := rfl
@[simp] theorem State.modAck_aux : (s.modAck a b c f).aux = s.aux := rfl
@[simp] theorem State.modAck_auxSettle : (s.modAck a b c f).auxSettle = s.auxSettle := rfl
@[simp] theorem State.modAck_stages : (s.modAck a b c f).stages = s.stages := rfl
@[simp] theorem State.modAck_order : (s.modAck a b c f).order = s.order := rfl
@[simp] theorem State.modAck_ev : (s.modAck a b c f).ev = s.ev := rfl
@[simp] theorem State.modAck_clk : (s.modAck a b c f).clk = s.clk := rfl
@[simp] theorem State.modAck_tpos : (s.modAck a b c f).tpos = s.tpos := rfl
@[simp] theorem State.modAck_caps : (s.modAck a b c f).caps = s.caps := rfl
@[simp] theorem State.modAck_net : (s.modAck a b c f).net = s.net := rfl
@[simp] theorem State.modAck_dins : (s.modAck a b c f).dins = s.dins := rfl
@[simp] theorem State.modAck_takes : (s.modAck a b c f).takes = s.takes := rfl
@[simp] theorem State.modAck_takeMem : (s.modAck a b c f).takeMem = s.takeMem := rfl
@[simp] theorem State.modAck_rings : (s.modAck a b c f).rings = s.rings := rfl
@[simp] theorem State.modAck_cal : (s.modAck a b c f).cal = s.cal := rfl
@[simp] theorem State.modAck_bands : (s.modAck a b c f).bands = s.bands := rfl
@[simp] theorem State.modAck_wins : (s.modAck a b c f).wins = s.wins := rfl
@[simp] theorem State.modAck_cross : (s.modAck a b c f).cross = s.cross := rfl
@[simp] theorem State.modAck_crossIn : (s.modAck a b c f).crossIn = s.crossIn := rfl
@[simp] theorem State.modAck_cust : (s.modAck a b c f).cust = s.cust := rfl
@[simp] theorem State.modAck_dmaBuf : (s.modAck a b c f).dmaBuf = s.dmaBuf := rfl
@[simp] theorem State.modAck_lgo : (s.modAck a b c f).lgo = s.lgo := rfl
@[simp] theorem State.modAck_dma : (s.modAck a b c f).dma = s.dma := rfl
@[simp] theorem State.modAck_host : (s.modAck a b c f).host = s.host := rfl
@[simp] theorem State.modAck_flash : (s.modAck a b c f).flash = s.flash := rfl
@[simp] theorem State.modAck_power : (s.modAck a b c f).power = s.power := rfl
@[simp] theorem State.modAck_store : (s.modAck a b c f).store = s.store := rfl
@[simp] theorem State.modAck_snaps : (s.modAck a b c f).snaps = s.snaps := rfl
@[simp] theorem State.modAck_queries : (s.modAck a b c f).queries = s.queries := rfl
@[simp] theorem State.modAck_dbg : (s.modAck a b c f).dbg = s.dbg := rfl
@[simp] theorem State.modAck_free : (s.modAck a b c f).free = s.free := rfl
@[simp] theorem State.modAck_num (p : Obj) (w b : Nat) : (s.modAck a b c f).num p w b = s.num p w b := rfl
@[simp] theorem State.modAck_nat (p : Obj) (w b : Nat) : (s.modAck a b c f).nat p w b = s.nat p w b := rfl
@[simp] theorem State.modAck_bytes (p : Obj) (w b : Nat) : (s.modAck a b c f).bytes p w b = s.bytes p w b := rfl
end

section
variable (s : State) (c i : Nat) (e : Emit)
@[simp] theorem State.putEmit_pending : (s.putEmit c i e).pending = s.pending := rfl
@[simp] theorem State.putEmit_variant : (s.putEmit c i e).variant = s.variant := rfl
@[simp] theorem State.putEmit_now : (s.putEmit c i e).now = s.now := rfl
@[simp] theorem State.putEmit_regs : (s.putEmit c i e).regs = s.regs := rfl
@[simp] theorem State.putEmit_blobs : (s.putEmit c i e).blobs = s.blobs := rfl
@[simp] theorem State.putEmit_fac : (s.putEmit c i e).fac = s.fac := rfl
@[simp] theorem State.putEmit_ans : (s.putEmit c i e).ans = s.ans := rfl
@[simp] theorem State.putEmit_ansBody : (s.putEmit c i e).ansBody = s.ansBody := rfl
@[simp] theorem State.putEmit_queues : (s.putEmit c i e).queues = s.queues := rfl
@[simp] theorem State.putEmit_chans : (s.putEmit c i e).chans = s.chans := rfl
@[simp] theorem State.putEmit_excSettle : (s.putEmit c i e).excSettle = s.excSettle := rfl
@[simp] theorem State.putEmit_excLeft : (s.putEmit c i e).excLeft = s.excLeft := rfl
@[simp] theorem State.putEmit_aux : (s.putEmit c i e).aux = s.aux := rfl
@[simp] theorem State.putEmit_auxSettle : (s.putEmit c i e).auxSettle = s.auxSettle := rfl
@[simp] theorem State.putEmit_stages : (s.putEmit c i e).stages = s.stages := rfl
@[simp] theorem State.putEmit_order : (s.putEmit c i e).order = s.order := rfl
@[simp] theorem State.putEmit_ev : (s.putEmit c i e).ev = s.ev := rfl
@[simp] theorem State.putEmit_clk : (s.putEmit c i e).clk = s.clk := rfl
@[simp] theorem State.putEmit_tpos : (s.putEmit c i e).tpos = s.tpos := rfl
@[simp] theorem State.putEmit_caps : (s.putEmit c i e).caps = s.caps := rfl
@[simp] theorem State.putEmit_net : (s.putEmit c i e).net = s.net := rfl
@[simp] theorem State.putEmit_dins : (s.putEmit c i e).dins = s.dins := rfl
@[simp] theorem State.putEmit_takes : (s.putEmit c i e).takes = s.takes := rfl
@[simp] theorem State.putEmit_takeMem : (s.putEmit c i e).takeMem = s.takeMem := rfl
@[simp] theorem State.putEmit_rings : (s.putEmit c i e).rings = s.rings := rfl
@[simp] theorem State.putEmit_cal : (s.putEmit c i e).cal = s.cal := rfl
@[simp] theorem State.putEmit_bands : (s.putEmit c i e).bands = s.bands := rfl
@[simp] theorem State.putEmit_wins : (s.putEmit c i e).wins = s.wins := rfl
@[simp] theorem State.putEmit_cross : (s.putEmit c i e).cross = s.cross := rfl
@[simp] theorem State.putEmit_crossIn : (s.putEmit c i e).crossIn = s.crossIn := rfl
@[simp] theorem State.putEmit_strm : (s.putEmit c i e).strm = s.strm := rfl
@[simp] theorem State.putEmit_cust : (s.putEmit c i e).cust = s.cust := rfl
@[simp] theorem State.putEmit_dmaBuf : (s.putEmit c i e).dmaBuf = s.dmaBuf := rfl
@[simp] theorem State.putEmit_lgo : (s.putEmit c i e).lgo = s.lgo := rfl
@[simp] theorem State.putEmit_dma : (s.putEmit c i e).dma = s.dma := rfl
@[simp] theorem State.putEmit_host : (s.putEmit c i e).host = s.host := rfl
@[simp] theorem State.putEmit_flash : (s.putEmit c i e).flash = s.flash := rfl
@[simp] theorem State.putEmit_power : (s.putEmit c i e).power = s.power := rfl
@[simp] theorem State.putEmit_store : (s.putEmit c i e).store = s.store := rfl
@[simp] theorem State.putEmit_snaps : (s.putEmit c i e).snaps = s.snaps := rfl
@[simp] theorem State.putEmit_queries : (s.putEmit c i e).queries = s.queries := rfl
@[simp] theorem State.putEmit_dbg : (s.putEmit c i e).dbg = s.dbg := rfl
@[simp] theorem State.putEmit_free : (s.putEmit c i e).free = s.free := rfl
@[simp] theorem State.putEmit_num (p : Obj) (w b : Nat) : (s.putEmit c i e).num p w b = s.num p w b := rfl
@[simp] theorem State.putEmit_nat (p : Obj) (w b : Nat) : (s.putEmit c i e).nat p w b = s.nat p w b := rfl
@[simp] theorem State.putEmit_bytes (p : Obj) (w b : Nat) : (s.putEmit c i e).bytes p w b = s.bytes p w b := rfl
end

section
variable (s : State) (i : Nat) (x : Image)
@[simp] theorem State.putImage_pending : (s.putImage i x).pending = s.pending := rfl
@[simp] theorem State.putImage_variant : (s.putImage i x).variant = s.variant := rfl
@[simp] theorem State.putImage_now : (s.putImage i x).now = s.now := rfl
@[simp] theorem State.putImage_regs : (s.putImage i x).regs = s.regs := rfl
@[simp] theorem State.putImage_blobs : (s.putImage i x).blobs = s.blobs := rfl
@[simp] theorem State.putImage_fac : (s.putImage i x).fac = s.fac := rfl
@[simp] theorem State.putImage_ans : (s.putImage i x).ans = s.ans := rfl
@[simp] theorem State.putImage_ansBody : (s.putImage i x).ansBody = s.ansBody := rfl
@[simp] theorem State.putImage_queues : (s.putImage i x).queues = s.queues := rfl
@[simp] theorem State.putImage_chans : (s.putImage i x).chans = s.chans := rfl
@[simp] theorem State.putImage_cells : (s.putImage i x).cells = s.cells := rfl
@[simp] theorem State.putImage_excSettle : (s.putImage i x).excSettle = s.excSettle := rfl
@[simp] theorem State.putImage_excLeft : (s.putImage i x).excLeft = s.excLeft := rfl
@[simp] theorem State.putImage_aux : (s.putImage i x).aux = s.aux := rfl
@[simp] theorem State.putImage_auxSettle : (s.putImage i x).auxSettle = s.auxSettle := rfl
@[simp] theorem State.putImage_stages : (s.putImage i x).stages = s.stages := rfl
@[simp] theorem State.putImage_order : (s.putImage i x).order = s.order := rfl
@[simp] theorem State.putImage_ev : (s.putImage i x).ev = s.ev := rfl
@[simp] theorem State.putImage_clk : (s.putImage i x).clk = s.clk := rfl
@[simp] theorem State.putImage_tpos : (s.putImage i x).tpos = s.tpos := rfl
@[simp] theorem State.putImage_caps : (s.putImage i x).caps = s.caps := rfl
@[simp] theorem State.putImage_net : (s.putImage i x).net = s.net := rfl
@[simp] theorem State.putImage_dins : (s.putImage i x).dins = s.dins := rfl
@[simp] theorem State.putImage_takes : (s.putImage i x).takes = s.takes := rfl
@[simp] theorem State.putImage_takeMem : (s.putImage i x).takeMem = s.takeMem := rfl
@[simp] theorem State.putImage_rings : (s.putImage i x).rings = s.rings := rfl
@[simp] theorem State.putImage_cal : (s.putImage i x).cal = s.cal := rfl
@[simp] theorem State.putImage_bands : (s.putImage i x).bands = s.bands := rfl
@[simp] theorem State.putImage_wins : (s.putImage i x).wins = s.wins := rfl
@[simp] theorem State.putImage_cross : (s.putImage i x).cross = s.cross := rfl
@[simp] theorem State.putImage_crossIn : (s.putImage i x).crossIn = s.crossIn := rfl
@[simp] theorem State.putImage_strm : (s.putImage i x).strm = s.strm := rfl
@[simp] theorem State.putImage_cust : (s.putImage i x).cust = s.cust := rfl
@[simp] theorem State.putImage_dmaBuf : (s.putImage i x).dmaBuf = s.dmaBuf := rfl
@[simp] theorem State.putImage_lgo : (s.putImage i x).lgo = s.lgo := rfl
@[simp] theorem State.putImage_dma : (s.putImage i x).dma = s.dma := rfl
@[simp] theorem State.putImage_host : (s.putImage i x).host = s.host := rfl
@[simp] theorem State.putImage_power : (s.putImage i x).power = s.power := rfl
@[simp] theorem State.putImage_store : (s.putImage i x).store = s.store := rfl
@[simp] theorem State.putImage_snaps : (s.putImage i x).snaps = s.snaps := rfl
@[simp] theorem State.putImage_queries : (s.putImage i x).queries = s.queries := rfl
@[simp] theorem State.putImage_dbg : (s.putImage i x).dbg = s.dbg := rfl
@[simp] theorem State.putImage_free : (s.putImage i x).free = s.free := rfl
@[simp] theorem State.putImage_num (p : Obj) (w b : Nat) : (s.putImage i x).num p w b = s.num p w b := rfl
@[simp] theorem State.putImage_nat (p : Obj) (w b : Nat) : (s.putImage i x).nat p w b = s.nat p w b := rfl
@[simp] theorem State.putImage_bytes (p : Obj) (w b : Nat) : (s.putImage i x).bytes p w b = s.bytes p w b := rfl
end

@[simp] theorem State.modCell_same (s : State) (i : Nat) (f : CellSt → CellSt) : (s.modCell i f).cell i = f (s.cell i) := by
  simp [State.modCell, State.cell]
theorem State.modCell_other (s : State) {i j : Nat} (h : j ≠ i) (f : CellSt → CellSt) : (s.modCell i f).cell j = s.cell j := by
  simp [State.modCell, State.cell, Sparse.get_store_ne, h]

@[simp] theorem State.modTake_same (s : State) (i : Nat) (f : TakeSt → TakeSt) : (s.modTake i f).take i = f (s.take i) := by
  simp [State.modTake, State.take]
theorem State.modTake_other (s : State) {i j : Nat} (h : j ≠ i) (f : TakeSt → TakeSt) : (s.modTake i f).take j = s.take j := by
  simp [State.modTake, State.take, Sparse.get_store_ne, h]

@[simp] theorem State.modTpo_same (s : State) (i : Nat) (f : TpoSt → TpoSt) : (s.modTpo i f).tpo i = f (s.tpo i) := by
  simp [State.modTpo, State.tpo]
theorem State.modTpo_other (s : State) {i j : Nat} (h : j ≠ i) (f : TpoSt → TpoSt) : (s.modTpo i f).tpo j = s.tpo j := by
  simp [State.modTpo, State.tpo, Sparse.get_store_ne, h]

@[simp] theorem State.modWin_same (s : State) (i : Nat) (f : WinSt → WinSt) : (s.modWin i f).win i = f (s.win i) := by
  simp [State.modWin, State.win]
theorem State.modWin_other (s : State) {i j : Nat} (h : j ≠ i) (f : WinSt → WinSt) : (s.modWin i f).win j = s.win j := by
  simp [State.modWin, State.win, Sparse.get_store_ne, h]

@[simp] theorem State.modCross_same (s : State) (i : Nat) (f : CrossSt → CrossSt) : (s.modCross i f).crossSt i = f (s.crossSt i) := by
  simp [State.modCross, State.crossSt]
theorem State.modCross_other (s : State) {i j : Nat} (h : j ≠ i) (f : CrossSt → CrossSt) : (s.modCross i f).crossSt j = s.crossSt j := by
  simp [State.modCross, State.crossSt, Sparse.get_store_ne, h]

@[simp] theorem State.modSnap_same (s : State) (i : Nat) (f : SnapSet → SnapSet) : (s.modSnap i f).snapSt i = f (s.snapSt i) := by
  simp [State.modSnap, State.snapSt]
theorem State.modSnap_other (s : State) {i j : Nat} (h : j ≠ i) (f : SnapSet → SnapSet) : (s.modSnap i f).snapSt j = s.snapSt j := by
  simp [State.modSnap, State.snapSt, Sparse.get_store_ne, h]

@[simp] theorem State.modLgo_same (s : State) (i : Nat) (f : LgoSt → LgoSt) : (s.modLgo i f).lgoOut i = f (s.lgoOut i) := by
  simp [State.modLgo, State.lgoOut]
theorem State.modLgo_other (s : State) {i j : Nat} (h : j ≠ i) (f : LgoSt → LgoSt) : (s.modLgo i f).lgoOut j = s.lgoOut j := by
  simp [State.modLgo, State.lgoOut, Sparse.get_store_ne, h]

@[simp] theorem State.modCh_same (s : State) (i : Nat) (f : DmaCh → DmaCh) : (s.modCh i f).dmaCh i = f (s.dmaCh i) := by
  simp [State.modCh, State.dmaCh, State.modDma]
theorem State.modCh_other (s : State) {i j : Nat} (h : j ≠ i) (f : DmaCh → DmaCh) : (s.modCh i f).dmaCh j = s.dmaCh j := by
  simp [State.modCh, State.dmaCh, State.modDma, Sparse.get_store_ne, h]

@[simp] theorem State.modStream_same (s : State) (i : Nat) (f : StreamSt → StreamSt) : (s.modStream i f).stream i = f (s.stream i) := by
  simp [State.modStream, State.stream, State.modStrm]
theorem State.modStream_other (s : State) {i j : Nat} (h : j ≠ i) (f : StreamSt → StreamSt) : (s.modStream i f).stream j = s.stream j := by
  simp [State.modStream, State.stream, State.modStrm, Sparse.get_store_ne, h]

@[simp] theorem State.putQueue_same (s : State) (i : Nat) (v : Queue) : (s.putQueue i v).queue i = v := by
  simp [State.putQueue, State.queue]
theorem State.putQueue_other (s : State) {i j : Nat} (h : j ≠ i) (v : Queue) : (s.putQueue i v).queue j = s.queue j := by
  simp [State.putQueue, State.queue, Sparse.get_store_ne, h]

@[simp] theorem State.putStage_same (s : State) (i : Nat) (v : Stage) : (s.putStage i v).stage i = v := by
  simp [State.putStage, State.stage]
theorem State.putStage_other (s : State) {i j : Nat} (h : j ≠ i) (v : Stage) : (s.putStage i v).stage j = s.stage j := by
  simp [State.putStage, State.stage, Sparse.get_store_ne, h]

@[simp] theorem State.putChan_same (s : State) (i : Nat) (v : Chan) : (s.putChan i v).chan i = v := by
  simp [State.putChan, State.chan]
theorem State.putChan_other (s : State) {i j : Nat} (h : j ≠ i) (v : Chan) : (s.putChan i v).chan j = s.chan j := by
  simp only [State.putChan, State.chan, Sparse.find_put_ne _ h]; rfl

@[simp] theorem State.modChan_same (s : State) (i : Nat) (f : Chan → Chan) : (s.modChan i f).chan i = f (s.chan i) :=
  State.putChan_same s i _
theorem State.modChan_other (s : State) {i j : Nat} (h : j ≠ i) (f : Chan → Chan) : (s.modChan i f).chan j = s.chan j :=
  State.putChan_other s h _

@[simp] theorem State.modQueue_same (s : State) (q : Nat) (f : Queue → Queue) : (s.modQueue q f).queue q = f (s.queue q) :=
  State.putQueue_same s q _
theorem State.modQueue_other (s : State) {q r : Nat} (h : r ≠ q) (f : Queue → Queue) : (s.modQueue q f).queue r = s.queue r :=
  State.putQueue_other s h _

@[simp] theorem State.putBand_same (s : State) (i : Nat) (v : BandCh) : (s.putBand i v).bandCh i = v := by
  simp [State.putBand, State.bandCh]
theorem State.putBand_other (s : State) {i j : Nat} (h : j ≠ i) (v : BandCh) : (s.putBand i v).bandCh j = s.bandCh j := by
  simp only [State.putBand, State.bandCh, Sparse.find_put_ne _ h]; rfl

end Sys2Proof.Machine
end

