-- ==== Sys2Proof/Laws/Ops.lean ====
section
/-! SUPPORT. What the shared operations can do, said once: a frame over the entries, and the frames of an answer, of a push on a
queue and of raising an event; and that an events queue with room takes an occurrence at once. -/

namespace Sys2Proof.Machine

open Sys2Proof

variable {p q : Nat → Prop} {s t u : State}

theorem KeepsRegs.refl (p : Nat → Prop) (s : State) : KeepsRegs p s s := fun _ _ => rfl

theorem KeepsRegs.trans (h : KeepsRegs p s t) (g : KeepsRegs p t u) : KeepsRegs p s u :=
  fun k hk => (g k hk).trans (h k hk)

theorem KeepsRegs.mono (h : KeepsRegs p s t) (hpq : ∀ k, p k → q k) : KeepsRegs q s t :=
  fun k hk => h k (fun hp => hk (hpq k hp))

theorem KeepsRegs.of_eq (h : t.regs = s.regs) : KeepsRegs p s t := fun _ _ => by rw [h]

/-- An entry outside the keys of a frame reads as before. -/
theorem KeepsRegs.num (h : KeepsRegs p s t) (hv : t.variant = s.variant) (hf : t.fac = s.fac) (o : Obj) (w sub : Nat)
    (hk : ¬ p (entryKey o w sub)) : t.num o w sub = s.num o w sub := by
  have hd : t.dfltNum o w sub = s.dfltNum o w sub := by simp only [State.dfltNum, hv, hf]
  simp only [State.num, h _ hk, hd]

theorem KeepsRegs.setNum (s : State) {o : Obj} {w sub : Nat} (v : Int) (hp : p (entryKey o w sub)) :
    KeepsRegs p s (s.setNum o w sub v) := by
  intro k hk
  have hne : k ≠ entryKey o w sub := by intro e; exact hk (e ▸ hp)
  exact Sparse.find_store_ne s.regs hne _ _

theorem KeepsRegs.bump (s : State) {o : Obj} {w sub : Nat} (n : Nat) (hp : p (entryKey o w sub)) :
    KeepsRegs p s (s.bump o w sub n) := KeepsRegs.setNum s _ hp

/-- An answer changes the answer and the counts of answers, and nothing else. -/
theorem answer_frame (s : State) (c : Code) :
    { answer s c with ans := s.ans, regs := s.regs } = s ∧ KeepsRegs AnswerKey s (answer s c) ∧ (answer s c).ans = c :=
  ⟨rfl, KeepsRegs.bump s 1 ⟨_, rfl⟩, rfl⟩

/-- `t` is `s` but for its queues, its event record and the peaks of the queues. -/
def EventFrame (s t : State) : Prop := { t with regs := s.regs, queues := s.queues, ev := s.ev } = s ∧ KeepsRegs PeakKey s t

theorem EventFrame.refl (s : State) : EventFrame s s := ⟨rfl, KeepsRegs.refl _ _⟩

theorem EventFrame.trans (h : EventFrame s t) (g : EventFrame t u) : EventFrame s u := by
  obtain ⟨h1, h2⟩ := h
  obtain ⟨g1, g2⟩ := g
  refine ⟨?_, h2.trans g2⟩
  rw [← h1, ← g1]

theorem EventFrame.queues (s : State) (qs : Sparse Queue) : EventFrame s { s with queues := qs } := ⟨rfl, fun _ _ => rfl⟩

theorem EventFrame.ev (s : State) (e : EvSt) : EventFrame s { s with ev := e } := ⟨rfl, fun _ _ => rfl⟩

theorem notePeak_frame (s : State) (n : Nat) : EventFrame s (notePeak s n) := by
  unfold notePeak
  dsimp only
  split
  · exact ⟨rfl, KeepsRegs.setNum s _ ⟨n, rfl⟩⟩
  · exact EventFrame.refl s

theorem pushWord_frame (s : State) (n : Nat) (w : QWord) : EventFrame s (pushWord s n w) := by
  unfold pushWord
  dsimp only
  split
  · exact (EventFrame.queues s _).trans (notePeak_frame _ n)
  · split
    · exact EventFrame.queues s _
    · exact EventFrame.refl s

theorem reportLost_frame (s : State) (island : Nat) : EventFrame s (reportLost s island) := by
  have key : ∀ s1 : State, EventFrame s s1 → EventFrame s (match lineOf island with
      | none => s1
      | some l =>
        let m := s1.ev.lineLost.getD l 0
        if m = 0 ∨ (s1.queue (162 + island)).pushing ≠ none then s1
        else pushWord { s1 with ev := { s1.ev with lineLost := s1.ev.lineLost.set l 0 } } (162 + island)
          ⟨0, true, some ⟨85, 3, island * 2 ^ 24 + m % 2 ^ 24, s1.now⟩⟩) := by
    intro s1 h
    split
    · exact h
    · dsimp only
      split
      · exact h
      · exact h.trans ((EventFrame.ev s1 _).trans (pushWord_frame _ _ _))
  refine key _ ?_
  split
  · exact EventFrame.refl s
  · exact (EventFrame.ev s _).trans (pushWord_frame _ _ _)

theorem pushEvent_frame (s : State) (island : Nat) (e : EvItem) : EventFrame s (pushEvent s island e) := by
  unfold pushEvent
  dsimp only
  split
  · exact EventFrame.ev s _
  · split
    · exact (pushWord_frame _ _ _).trans (reportLost_frame _ _)
    · exact pushWord_frame _ _ _

/-- Raising an event changes the queues, the event record and the peaks of the queues, and nothing else. -/
theorem raiseAt_frame (s : State) (src cause detail tick : Nat) : EventFrame s (raiseAt s src cause detail tick) := by
  unfold raiseAt
  split
  · exact EventFrame.refl s
  · exact pushEvent_frame _ _ _

theorem raise_frame (s : State) (src cause detail : Nat) : EventFrame s (raise s src cause detail) := raiseAt_frame s _ _ _ _

/-- An entry that is no peak of a queue reads as before. -/
theorem EventFrame.num (h : EventFrame s t) (o : Obj) (w sub : Nat) (hk : ¬ PeakKey (entryKey o w sub)) :
    t.num o w sub = s.num o w sub :=
  h.2.num (by rw [← h.1]) (by rw [← h.1]) o w sub hk

theorem notePeak_queue (s : State) (n m : Nat) : (notePeak s n).queue m = s.queue m := by
  unfold notePeak; dsimp only; split <;> rfl

/-- A queue with room and no push pending takes a word at once. -/
theorem pushWord_room (s : State) (n : Nat) (w : QWord) (h : (s.queue n).words.length < queueDepth n)
    (hp : (s.queue n).pushing = none) :
    (pushWord s n w).queue n = { s.queue n with words := (s.queue n).words ++ [w] } ∧ (pushWord s n w).ev = s.ev := by
  unfold pushWord
  dsimp only
  rw [if_pos ⟨h, hp⟩, notePeak_queue]
  refine ⟨State.putQueue_same _ _ _, ?_⟩
  unfold notePeak; dsimp only; split <;> rfl

/-- With nothing lost to report, an island reports nothing. -/
theorem reportLost_none (s : State) (island : Nat) (h : Sparse.get s.ev.lost island 0 = 0) (hl : s.ev.lineLost = [0, 0, 0, 0]) :
    reportLost s island = s := by
  unfold reportLost
  simp only [h, if_true]
  split
  · rfl
  · rename_i l hl'
    have : l < 4 := by
      unfold lineOf at hl'
      repeat' split at hl'
      all_goals first | (cases hl'; omega) | cases hl'
    have hz : s.ev.lineLost.getD l 0 = 0 := by
      rw [hl]; match l, this with
      | 0, _ => rfl
      | 1, _ => rfl
      | 2, _ => rfl
      | 3, _ => rfl
    exact if_pos (Or.inl hz)

/-- An events queue that takes occurrences at once holds one more item after a push of its island. -/
theorem pushEvent_room (s : State) (island : Nat) (e : EvItem) (h : s.canRaise island) :
    Raised s (pushEvent s island e) island e := by
  obtain ⟨h1, h2, h3, h4⟩ := h
  obtain ⟨g1, g2⟩ := pushWord_room s (162 + island) ⟨0, true, some e⟩ h2 h1
  unfold pushEvent
  simp only [h1, ne_eq, not_true_eq_false, if_false, g1, if_true]
  rw [reportLost_none _ _ (by rw [g2]; exact h3) (by rw [g2]; exact h4)]
  rw [Raised, g1]

/-- An occurrence that its source may pulse stands in its island's queue. -/
theorem raiseAt_room (s : State) (src cause detail tick : Nat) (hs : silentSource s src cause = false)
    (h : s.canRaise (islandOf s src detail)) :
    Raised s (raiseAt s src cause detail tick) (islandOf s src detail) ⟨src, cause, detail, tick⟩ := by
  unfold raiseAt
  rw [hs]
  exact pushEvent_room s _ _ h

theorem raise_room (s : State) (src cause detail : Nat) (hs : silentSource s src cause = false)
    (h : s.canRaise (islandOf s src detail)) :
    Raised s (raise s src cause detail) (islandOf s src detail) ⟨src, cause, detail, s.now⟩ :=
  raiseAt_room s src cause detail s.now hs h

end Sys2Proof.Machine
end

