-- ==== Sys2Proof/Laws/Serve.lean ====
section
/-! SUPPORT. The path of a dictionary write: the index of a unit names that unit, and a write that meets the first checks is served as
its entry's. -/

namespace Sys2Proof.Machine

open Sys2Proof

theorem Obj.inner_le_stride (o : Obj) : o.inner ≤ o.stride := by cases o <;> decide

theorem Obj.unitAt_index {o : Obj} {u : Nat} (h : u < o.size) : o.unitAt (o.index u) = some u := by
  have hu : u / o.inner < o.count := Nat.div_lt_of_lt_mul (by rw [Nat.mul_comm]; exact h)
  have hr : u % o.inner < o.inner := Nat.mod_lt _ o.inner_pos
  have hl := o.inner_le_stride
  have hd : o.index u - o.base = u % o.inner + o.stride * (u / o.inner) := by unfold Obj.index; omega
  have hq : (o.index u - o.base) / o.stride = u / o.inner := by
    rw [hd, Nat.add_mul_div_left _ _ o.stride_pos, Nat.div_eq_of_lt (by omega), Nat.zero_add]
  have hm : (o.index u - o.base) % o.stride = u % o.inner := by
    rw [hd, Nat.add_mul_mod_self_left, Nat.mod_eq_of_lt (by omega)]
  unfold Obj.unitAt
  simp only [hq, hm]
  rw [if_pos ⟨o.base_le_index u, hr, hu⟩, Nat.mul_comm, Nat.div_add_mod]

theorem Obj.unitAt_some {o : Obj} {i u : Nat} (h : o.unitAt i = some u) : u < o.size ∧ o.index u = i := by
  unfold Obj.unitAt at h
  dsimp only at h
  split at h
  · rename_i hc
    obtain ⟨h1, h2, h3⟩ := hc
    cases h
    have hi := o.inner_pos
    have hq : ((i - o.base) / o.stride * o.inner + (i - o.base) % o.stride) / o.inner = (i - o.base) / o.stride := by
      rw [Nat.add_comm, Nat.add_mul_div_right _ _ hi, Nat.div_eq_of_lt h2, Nat.zero_add]
    have hm : ((i - o.base) / o.stride * o.inner + (i - o.base) % o.stride) % o.inner = (i - o.base) % o.stride := by
      rw [Nat.add_comm, Nat.add_mul_mod_self_right, Nat.mod_eq_of_lt h2]
    constructor
    · have hx := Nat.mul_le_mul_right o.inner (Nat.succ_le_of_lt h3)
      rw [Nat.succ_mul] at hx
      exact Nat.lt_of_lt_of_le (by omega) hx
    · have := Nat.div_add_mod (i - o.base) o.stride
      unfold Obj.index
      rw [hq, hm]
      omega
  · cases h

/-- An index of a present unit names that unit and no other. -/
theorem locate_index {o : Obj} {u : Nat} (h : u < o.size) : locate (o.index u) = some (o, u) := by
  unfold locate
  cases hf : Obj.all.findSome? (fun p => (p.unitAt (o.index u)).map (fun w => (p, w))) with
  | none =>
    have := List.findSome?_eq_none_iff.1 hf o (Obj.mem_all o)
    rw [Obj.unitAt_index h] at this
    cases this
  | some r =>
    obtain ⟨p, -, hp⟩ := List.exists_of_findSome?_eq_some hf
    obtain ⟨w, hw, rfl⟩ := Option.map_eq_some_iff.1 hp
    obtain ⟨h1, h2⟩ := Obj.unitAt_some hw
    obtain ⟨rfl, rfl⟩ := Obj.index_inj h1 h h2
    rfl

theorem locate_some {i : Nat} {o : Obj} {u : Nat} (h : locate i = some (o, u)) : u < o.size ∧ o.index u = i := by
  unfold locate at h
  obtain ⟨p, -, hp⟩ := List.exists_of_findSome?_eq_some h
  obtain ⟨w, hw, he⟩ := Option.map_eq_some_iff.1 hp
  cases he
  exact Obj.unitAt_some hw

/-- A session that may write meets no check on the session or the start-up phase. -/
theorem notServed_of_serves {s : State} {ses : Nat} (h : s.serves ses) (i : Nat) : notServed s i false = false := by
  have := h.2
  simp only [notServed, Bool.and_eq_false_iff, decide_eq_false_iff_not]
  omega

/-- A write that meets the first checks is served as its entry's (R511). -/
theorem tryWrite_served {s : State} {ses u sub : Nat} {o : Obj} {e : Entry} {b : Bytes} (hs : s.serves ses) (hu : u < o.size)
    (hh : s.has o u = true) (h0 : sub ≠ 0) (he : o.entry u sub = some e) (ha : e.acc ≠ .ro)
    (hl : (if e.ty.isBytes then decide (65535 < b.length) else b.length != e.ty.size) = false) (ht : typeOk e.ty b = true) :
    tryWrite s ses (o.index u) sub b = writeEntry s ses o u sub e b := by
  unfold tryWrite
  simp only [hs.1, notServed_of_serves hs, locate_index hu, hh, he, ht, hl, h0, ha, Bool.not_true, Bool.false_eq_true, if_false]

/-- The same, counted and answered (R535). -/
theorem serveObj_served {s : State} {ses u sub : Nat} {o : Obj} {e : Entry} {b : Bytes} (hs : s.serves ses) (hu : u < o.size)
    (hh : s.has o u = true) (h0 : sub ≠ 0) (he : o.entry u sub = some e) (ha : e.acc ≠ .ro)
    (hl : (if e.ty.isBytes then decide (65535 < b.length) else b.length != e.ty.size) = false) (ht : typeOk e.ty b = true) :
    serveObj s ses o u sub b = if (writeEntry s ses o u sub e b).1.power.inReset then (writeEntry s ses o u sub e b).1
      else answer (writeEntry s ses o u sub e b).1 (writeEntry s ses o u sub e b).2 := by
  unfold serveObj serveWrite
  rw [if_pos hu, tryWrite_served hs hu hh h0 he ha hl ht]

/-- A write by a session that may not write answers so and does nothing else. -/
theorem serveWrite_closed {s : State} {ses : Nat} (h : sessionOpen s ses = false) (hr : s.power.inReset = false) (i sub : Nat)
    (b : Bytes) : serveWrite s ses i sub b = (answer s .noSession, .noSession) := by
  unfold serveWrite tryWrite
  simp [h, hr]

/-- A write to an index that names no object answers so and does nothing else. -/
theorem serveWrite_nowhere {s : State} {ses i : Nat} (hs : s.serves ses) (hr : s.power.inReset = false) (h : locate i = none)
    (sub : Nat) (b : Bytes) : serveWrite s ses i sub b = (answer s .noObject, .noObject) := by
  unfold serveWrite tryWrite
  simp [hs.1, notServed_of_serves hs, h, hr]

/-- A retained write that took effect is counted (R517), and changes nothing but that count and the store's record. -/
theorem noteRetained_frame (s : State) (o : Obj) (u sub : Nat) :
    { noteRetained s o u sub with store := s.store, regs := s.regs } = s ∧
      KeepsRegs (fun k => k = entryKey .store 0 15) s (noteRetained s o u sub) := by
  unfold noteRetained
  split
  · split
    · exact ⟨rfl, KeepsRegs.bump s 1 rfl⟩
    · exact ⟨rfl, KeepsRegs.refl _ _⟩
  · exact ⟨rfl, KeepsRegs.refl _ _⟩

/-- An entry other than the change count reads the same after a retained write was counted. -/
theorem noteRetained_num (s : State) (o p : Obj) (u sub w b : Nat) (h : entryKey p w b ≠ entryKey .store 0 15) :
    (noteRetained s o u sub).num p w b = s.num p w b := by
  have hb : (s.bump .store 0 15 1).num p w b = s.num p w b := num_bump_ne s h 1
  unfold noteRetained
  split
  · split
    · exact hb
    · rfl
  · rfl

end Sys2Proof.Machine
end

