-- ==== Sys2Proof/WellFormed.lean ====
section
/-! DEFINITION. Well-formed commands: every operand within the range that its rule gives it. A command that is not well formed
names no unit of any variant, or a word that its row does not have. -/

namespace Sys2Proof

/-- A number below a limit. -/
def below (n x : Nat) : Bool := decide (x < n)

/-- A value of an entry holds 65,535 bytes at most (R509 of spec/16_object_dictionary.md). -/
def lenOk (bs : Bytes) : Bool := decide (bs.length < 65536)

/-- A driver or a bias source of some cell (R65, R68 of spec/02_terminals_and_crosspoint.md). -/
def unitOk : ExcUnit → Bool
  | .driver cell k => below 24 cell && below 4 k
  | .bias cell j => below 24 cell && below 16 j

/-- The fields of a frame fit their widths (R482 of spec/15_ports_and_kmp.md). -/
def frameOk (f : Frame) : Bool :=
  below (2 ^ 48) f.dst && below (2 ^ 48) f.src && below 65536 f.sub && (match f.vlan with | some v => below 4096 v | none => true)

/-- A DBGCMD word of an operation (R615 of spec/20_debug_port.md). -/
def opWord (op w : Nat) : Bool := w / 2 ^ 60 == op

/-- A DBGCMD word of no operation, or of an operation code that R615 does not list. -/
def noOpWord (w : Nat) : Bool := below (2 ^ 64) w && !(opWord 1 w || opWord 2 w || opWord 3 w || opWord 4 w || opWord 8 w)

/-- The command is well formed. -/
def Instr.wf : Instr → Bool
  | .resetRelease straps => below 4 straps
  | .bootEnd _ _ => true
  | .powerMonitorSample _ _ _ _ _ => true
  | .temperatureSample _ => true
  | .resetNow ses => below 16 ses
  | .resetWhenIdle ses => below 16 ses
  | .preferImageA ses => below 16 ses
  | .preferImageB ses => below 16 ses
  | .updateBegin ses => below 16 ses
  | .updateSegment ses bs => below 16 ses && lenOk bs
  | .updateFinish ses => below 16 ses
  | .updateVerifyComplete _ _ => true
  | .updateAbort ses => below 16 ses
  | .dictionaryWrite ses idx sub bs => below 16 ses && below 65536 idx && below 256 sub && lenOk bs
  | .stagedWriteTakesEffect ses idx sub => below 16 ses && below 65536 idx && below 256 sub
  | .routingWrite ses idx sub bs => below 16 ses && below 65536 idx && below 256 sub && lenOk bs
  | .excitationWrite ses idx sub bs => below 16 ses && below 65536 idx && below 256 sub && lenOk bs
  | .switchClose cell => below 24 cell
  | .clampOnset term => below 768 term
  | .clampRelease term _ => below 768 term
  | .clampLatchedClear ses cell bs => below 16 ses && below 24 cell && lenOk bs
  | .excitationOutOfRegulation unit _ _ => unitOk unit
  | .excitationRegulationLeave unit _ => unitOk unit
  | .overloadOnset ch => below 384 ch
  | .overloadResetEnd ch => below 384 ch
  | .overloadRelease ch => below 384 ch
  | .spareResetEnd cell => below 24 cell
  | .referenceReady cell => below 24 cell
  | .powerModeSwitch cell => below 24 cell
  | .pullPhaseEnd cell _ => below 24 cell
  | .openWireDetected ch => below 384 ch
  | .openWirePullRelease ch => below 384 ch
  | .railStickOnset ch _ => below 384 ch
  | .railStickRelease ch _ => below 384 ch
  | .auxEntryComplete _ => true
  | .injectedRequest ses bs => below 16 ses && lenOk bs
  | .injectedFlush ses bs => below 16 ses && lenOk bs
  | .sampleEmitted ch => below 384 ch
  | .thresholdCrossing ch cmp => below 384 ch && below 4 cmp
  | .decimationSwitch ch => below 384 ch
  | .crossFadeEnd ch => below 384 ch
  | .slateRequest ses bs => below 16 ses && lenOk bs
  | .slateBallEdge edge => below 65536 edge.sub
  | .zoneSlate ses bs => below 16 ses && lenOk bs
  | .slateConfirm pos _ => below 63 pos
  | .ptpForward out => below 3 out.port && below 65536 out.sub
  | .pdelayMeasurement port _ => below 3 port
  | .clockStep ses bs => below 16 ses && lenOk bs
  | .incrementWrite ses bs => below 16 ses && lenOk bs
  | .rateAdjustmentWrite ses bs => below 16 ses && lenOk bs
  | .correctionModeWrite ses bs => below 16 ses && lenOk bs
  | .servoOwnerWrite ses bs => below 16 ses && lenOk bs
  | .reanchorCommand ses bs => below 16 ses && lenOk bs
  | .tpoLeadingEdge p => below 8 p
  | .tpoTrailingEdge p => below 8 p
  | .calibrationStart ses _ _ _ _ => below 16 ses
  | .calibrationAbort ses => below 16 ses
  | .endHoldOff ses => below 16 ses
  | .calresStepEnd _ => true
  | .cellInterruptionEnd cell _ => below 24 cell
  | .takeGuardExpiry cell => below 24 cell
  | .estimationWindowEnd cell m _ => below 24 cell && below 17 m
  | .elementSwitch cell m => below 24 cell && below 17 m
  | .modulatorCannotBeMatched cell m => below 24 cell && below 17 m
  | .calibrationImageRead ses => below 16 ses
  | .calibrationImageWrite ses bs => below 16 ses && lenOk bs
  | .dinFilterAccept i _ edge _ => below 16 i && below 65536 edge.sub
  | .dinEdgeProcessed i => below 16 i
  | .digitalInputStuck i => below 16 i
  | .dinSettingWrite ses idx sub bs => below 16 ses && below 65536 idx && below 256 sub && lenOk bs
  | .takeTriggerOccurrence t => below 16 t
  | .timeSourceInstance t => below 16 t
  | .networkTrigger ses t bs => below 16 ses && below 16 t && lenOk bs
  | .armCommand ses t bs => below 16 ses && below 16 t && lenOk bs
  | .takeStopOccurrence t => below 16 t
  | .takeFillEnd t => below 16 t
  | .takeRecordCommit t => below 16 t
  | .takeRearm t => below 16 t
  | .releaseOffsetWrite ses bs => below 16 ses && lenOk bs
  | .largestSlackClear ses t bs => below 16 ses && below 16 t && lenOk bs
  | .windowStart w => below 32 w
  | .windowRecordFormed w => below 32 w
  | .crossHubDeadline x => below 64 x
  | .blockFormed _ _ => true
  | .replayDecoderWrite ses bs => below 16 ses && lenOk bs
  | .nack _ => true
  | .resendTimeout _ => true
  | .signatureArrival core _ _ => below 2 core
  | .coreFaultSignal core => below 2 core
  | .hiddenFaultAtTakeover part => (decide (1 ≤ part) && below 6 part)
  | .coreSelfTestEnd core _ => below 2 core
  | .plannedHandover ses => below 16 ses
  | .restoreCoreA ses => below 16 ses
  | .restoreCoreB ses => below 16 ses
  | .queuePush q data _ => below 195 q && below 18446744073709551616 data
  | .queuePop q _ => below 195 q
  | .cellItemAbandon q => below 195 q
  | .flush ses q bs => below 16 ses && below 195 q && lenOk bs
  | .flushComplete q => below 195 q
  | .peakOccupancyClear ses q bs => below 16 ses && below 195 q && lenOk bs
  | .openSet ses bs => below 16 ses && lenOk bs
  | .commitAtTick ses bs => below 16 ses && lenOk bs
  | .abandon ses bs => below 16 ses && lenOk bs
  | .setTimeout ses => below 16 ses
  | .commitFenceEffect ses => below 16 ses
  | .dmaStart ses c => below 16 ses && below 16 c
  | .dmaEventStart c => below 16 c
  | .dmaAbort ses c => below 16 ses && below 16 c
  | .clearFault ses c => below 16 ses && below 16 c
  | .dmaBeat _ _ => true
  | .waitComplete c => below 16 c
  | .waitTimeout c => below 16 c
  | .writeConfirmed c _ => below 16 c
  | .dictionaryAnswer c => below 16 c
  | .targetTimeout c => below 16 c
  | .dictionaryAnswerTimeout c => below 16 c
  | .programPageWrite ses page bs => below 16 ses && below 64 page && lenOk bs
  | .linkUp port _ => below 3 port
  | .linkDown port => below 3 port
  | .restoreHoldExpiry port => below 3 port
  | .ringTimeout port => below 3 port
  | .hopCountExpiry port => below 3 port
  | .frameReceived port f => below 3 port && frameOk f
  | .egressTransmit out => below 3 out.port && below 65536 out.sub
  | .learnCommand ses bs => below 16 ses && lenOk bs
  | .moduleInsertion ident => ident.length == 256
  | .storeCommand ses bs => below 16 ses && lenOk bs
  | .storeComplete _ => true
  | .factoryRestoreArm ses => below 16 ses
  | .factoryRestoreDisarm ses => below 16 ses
  | .descriptionQuery ses bs => below 16 ses && lenOk bs
  | .takeNow ses k bs => below 16 ses && below 8 k && lenOk bs
  | .snapshotSetTick k => below 8 k
  | .snapshotComplete k => below 8 k
  | .eventRouted island _ => below 31 island
  | .routeLineDelivery _ => true
  | .recordComplete seq _ _ => below 4294967296 seq
  | .recordSnapshotTimeout seq _ => below 4294967296 seq
  | .recorderSlotRead bank slot _ => below 2 bank && below 2048 slot
  | .clearFaultLatches ses bs => below 16 ses && lenOk bs
  | .raiseSoftwareEvent ses bs => below 16 ses && lenOk bs
  | .stickyFlagsClear ses ch bs => below 16 ses && below 384 ch && lenOk bs
  | .hostLinkUp speed width => (speed == 25 || speed == 50 || speed == 80) && (width == 1 || width == 2)
  | .slotDoorbell w vec => below 16 w && below 4294967296 vec
  | .slotAnswer head len tag value => below 4294967296 head && below 4294967296 len && below 4294967296 tag && lenOk value
  | .eventDoorbell w => below 8 w
  | .bar2Write offset bs => below 67108864 offset && lenOk bs
  | .msixUnmask v => below 32 v
  | .consumedOffsetWrite ses bs => below 16 ses && lenOk bs
  | .lgoUpdateTick i => below 16 i
  | .lgoStaleExpiry i => below 16 i
  | .lgoFaultHoldExpiry i => below 16 i
  | .releaseCommand ses i bs => below 16 ses && below 16 i && lenOk bs
  | .samplePreload _ => true
  | .dbgdataUpdate w => below 36893488147419103232 w
  | .debugNoOperation w => noOpWord w
  | .debugObjectRead w => opWord 1 w
  | .debugObjectWrite w => opWord 2 w
  | .debugMemoryRead w _ => opWord 3 w
  | .debugMemoryWrite w => opWord 4 w
  | .debugReset w => opWord 8 w
  | .breakpointHit c => below 16 c
  | .halt ses c => below 16 ses && below 16 c
  | .debugRelease ses c => below 16 ses && below 16 c
  | .singleStep ses c => below 16 ses && below 16 c
  | .resetNRelease straps => below 4 straps
  | .ptpSyncReceived port domain _ _ _ => below 3 port && below 256 domain
  | .announceReceived port domain _ => below 3 port && below 256 domain
  | .delayRespReceived port _ _ => below 3 port
  | .powerOn => true
  | .undervoltageLockout => true
  | .resetBall => true
  | .watchdogExpiry => true
  | .trialTimeout => true
  | .restore => true
  | .streamStart => true
  | .updateEraseComplete => true
  | .auxScanStart => true
  | .injectedRequestStart => true
  | .auxReferenceReady => true
  | .auxPowerModeSwitch => true
  | .calibrationClaim => true
  | .calibrationStepEnd => true
  | .slatePerformed => true
  | .delayReqSend => true
  | .grandmasterSyncSend => true
  | .syncTimeout => true
  | .announceReceiptTimeout => true
  | .gridEvaluation => true
  | .holdoverGraceExpiry => true
  | .freeRunTimeout => true
  | .gridAnchor => true
  | .reanchorStart => true
  | .holdOffExpiry => true
  | .calresStepStart => true
  | .cellInterruptionStart => true
  | .takeCopy => true
  | .crossHubContribution => true
  | .packingHoldExpiry => true
  | .ksfDataSend => true
  | .ksfDataReceived => true
  | .ackInterval => true
  | .keepaliveAck => true
  | .nackHoldoffExpiry => true
  | .retransmitInterval => true
  | .ack => true
  | .reachabilityTimeout => true
  | .compareTimeout => true
  | .provingPeriodEnd => true
  | .resyncJoin => true
  | .resyncSnapshot => true
  | .snapshotCopyComplete => true
  | .coreResynchronised => true
  | .coreResynchronisationFailed => true
  | .resyncRetry => true
  | .handback => true
  | .dmaEnd => true
  | .dmaMove => true
  | .dmaLoop => true
  | .dmaEndloop => true
  | .dmaWait => true
  | .dmaSignal => true
  | .dmaFence => true
  | .dmaSeta => true
  | .dmaAdda => true
  | .illegalInstruction => true
  | .copyPortBeat => true
  | .copyTimeout => true
  | .linkCheckSend => true
  | .linkCheck => true
  | .helloSend => true
  | .hello => true
  | .revertHoldExpiry => true
  | .joinSend => true
  | .join => true
  | .workerReachabilityTimeout => true
  | .kmpRead => true
  | .kmpWrite => true
  | .readBlock => true
  | .writeBlock => true
  | .openSession => true
  | .closeSession => true
  | .keepalive => true
  | .sessionExpiry => true
  | .kmpFenceOpenSet => true
  | .kmpFenceCommit => true
  | .kmpFenceAbandon => true
  | .slateCommand => true
  | .takeTrigger => true
  | .notify => true
  | .bridgeForward => true
  | .bridgeAnswer => true
  | .bridgeTimeout => true
  | .arpRequest => true
  | .icmpEcho => true
  | .autosave => true
  | .snapshotTickStore => true
  | .perst => true
  | .functionLevelReset => true
  | .hostLinkDown => true
  | .tapReset => true
  | .tapExtest => true
  | .tapIdcode => true
  | .tapClamp => true
  | .tapHighz => true
  | .tapBypass => true
  | .dbgdataCapture => true
  | .debugCommandDone => true
  | .ownHelloTimeout => true
  | .vinRisesThrough10V => true
  | .vinFallsBelow10V => true
  | .moduleRemoval => true
  | .badRequestReceived => true

end Sys2Proof
end

