-- ==== Sys2Proof/Tests/Slice0.lean ====
section
/-! SUPPORT. The model's own tests: examples of the spec worked by hand there, ill-formed commands that WellFormed refuses, and a
witness for every statement that has hypotheses. -/

namespace Sys2Proof.Tests

open Sys2Proof Sys2Proof.Machine

set_option linter.unusedVariables false
set_option Elab.async false

/-- A hub of variant NXH384 out of reset with its streams started, whose memories hold nothing. -/
def up : State := ({ State.reset with power := { State.reset.power with inReset := false } }).setNum .startup 0 3 6

/-- A hub at a stream start tick. -/
def startTick : State :=
  let s := (((up.setNum .startup 0 3 5).setNum .grid 0 2 2).setNum .grid 0 12 1).setNum .cal 0 5 0
  { s with now := 24576000 * 2, clk := { s.clk with stHist := [(0, 2)] } }

/-- A hub whose excitation budget is spent but for 10 W of a driver. -/
def overFull : State :=
  (List.range 24).foldl (fun s d => ((s.setNum .driver (4 * d + 1) 1 1).setNum .driver (4 * d + 1) 2 10000).setNum .driver
    (4 * d + 1) 4 50000) ((up.setNum .driver 0 1 1).setNum .driver 0 2 5000)

/-- A hub whose channel 5 has words for its next sample. -/
def sampled : State :=
  let s := up.modChan 5 (fun c => { c with nextM := some 1, nextK := 1, statTo := some 1000000, buf := List.replicate ((decW c.use.dw).D + 1) 1 })
  { s with now := 1000000 }

/-- The Announce of clock 77. -/
def master77 : PtpAnnounce := ⟨77, 128, 6, 0x21, 0, 128, 9, 0, 37⟩

/-- A worker whose upstream port is A and whose clock follows master 77 there. -/
def ptpUp : State :=
  let s := (((up.setNum .ring 0 2 0).setNum .ptpPort 0 1 1).setNum .ptpPort 1 1 1).setNum .localClock 0 11 0
  { s with clk := { s.clk with masters := [(master77, 0)] } }

/-- A PTP message of clock 77. -/
def ptpMsg (k : PtpKind) : PtpMsg :=
  { kind := k, domain := 0, sender := 77, seq := 1, corr := 0, time := 0, twoStep := false, asker := 0, announce := none, udp := false }

/-- The Ethernet frame of a PTP message. -/
def ptpFrameOf (m : PtpMsg) : Frame := ⟨true, none, 1, 2, 64, .ptp m, 0⟩

/-- A PTP message received at port A. -/
def ptpRx (m : PtpMsg) : Rx := ⟨0, 5, ptpFrameOf m⟩

/-- The worker with that message received. -/
def ptpHeard (m : PtpMsg) : State := { ptpUp with net := { ptpUp.net with inbox := [ptpRx m] } }

/-- The master's answer to the worker's Delay_Req. -/
def delayAnswer : PtpMsg := { ptpMsg .delayResp with asker := ptpUp.nat .clock 0 6, time := 13 }

/-- A neighbour's answer to the worker's Pdelay_Req. -/
def pdelayAnswer : PtpMsg := { ptpMsg .pdelayResp with asker := ptpUp.nat .clock 0 6 }

/-- A forwarded PTP message that waits at port B. -/
def ptpFrame (m : PtpMsg) : OutFrame := ⟨ptpFrameOf m, false, 0, 0⟩

/-- A hub with that frame waiting. -/
def ptpOut (m : PtpMsg) : State := ptpUp.modPort 1 (fun q => { q with egress := [[ptpFrame m], [], [], []] })

/-- A record that waits for its slot, with one snapshot entry. -/
def rec5 : PendRec :=
  { seq := 5, time := 7, src := 50, cause := 1, detail := 0, rep := 1, flags := 0, list := 0, words := [[9]], tick := 3,
    notify := false }

/-- A hub whose recorder holds that record. -/
def heldRec : State := { up with ev := { up.ev with recs := [rec5] } }

/-- A digital input that runs, with changes to process and the start of its level 1. -/
def dinOf (changes : List DinChange) (run : Option Nat) : DinSt :=
  { DinSt.start 0 with fresh := false, changes := changes, runFrom := run }

/-- A hub whose input 3 is such an input. -/
def withDin (changes : List DinChange) (run : Option Nat) : State := { up with now := 1000, dins := [(3, dinOf changes run)] }

/-- A fill of channel 5 with two slots before and two after its trigger sample 102. -/
def fill3 : Fill :=
  { tick := 400, sel := 0x4000, pIn := 100, asyn := true, d := 1, members := [5], kt := [102], nPre := 2, nPost := 2, held := 2,
    stopSel := 0x4000, slots := 4, slack := 0, missed := 0, offset := 0, stop := none, stopAt := 0, copied := [[]], since := 0, tide := none, anch := false,
    post := 0, fillEnd := none, maxLen := false }

/-- The sample of its first slot. -/
def samp0 : Samp := { k := 100, word := 0x100, outs := [], cross0 := false, cross1 := false, last := [] }

/-- A hub that copies that fill. -/
def copying : State := { up.modTake 3 (fun k => { k with fill := some fill3 }) with rings := [(5, ⟨0, [samp0]⟩)] }

/-- The fill, over with nothing left to copy. -/
def done3 : Fill := { fill3 with fillEnd := some 500, tide := some (-1) }

/-- A hub of one core that holds it, with its place in the region. -/
def committing : State :=
  let s := (up.setNum .custody 0 2 1).modTake 3 (fun k => { k with fill := some done3 })
  { s with takeMem := { s.takeMem with places := [⟨0, 128, false, 3⟩] } }

/-- A compare unit of a check span, with the signature of core B. -/
def unitOf (sigB : Option (Nat × Nat)) : CUnit :=
  { tick := 9, kind := 1, num := 255, ch := 5, body := .span, bytesA := [], bytesB := [], sigA := none, sigB := sigB }

/-- A hub whose cores are compared, with that unit waiting. -/
def pair (sigB : Option (Nat × Nat)) : State :=
  ((up.setNum .custody 0 2 1).setNum .custody 0 3 2).modCust (fun k => { k with units := [unitOf sigB] })

/-- Core B at the start of its return to service. -/
def sync1 : Resync := { core := 1, due := 0, tj := none, ts := none, copied := false, spoiled := false, fails := 0 }

/-- A hub with a resynchronisation in progress. -/
def syncing (r : Resync) : State := up.modCust (fun k => { k with resync := some r })

/-- A coded block that has ended. -/
def rdy : BlkReady := ⟨0, 2, 1, { ch := 5, first := 0, d := 64, b := 4, coding := true, maxOrder := 2, words := [256, 256, 256, 256] }⟩

/-- A hub with that block ready. -/
def ready1 : State := up.modStrm (fun k => { k with ready := [rdy] })

/-- A hub whose window 2 owes a record of take 3. -/
def owing : State := up.modWin 2 (fun k => { k with bound := [(3, 0, winDef up 2, done3)] })

/-- A run of a window without members. -/
def run0 : WinRun := { i := 0, start := 0, stop := 64, part := false, d := winDef up 2, accs := [], anch := none }

/-- A hub whose window 2 has a run that is over. -/
def running : State := up.modWin 2 (fun k => { k with runs := [run0] })

/-- A hub whose calibration run has the cells `on` interrupted and the cells `next` waiting. -/
def interrupting (on : List (Nat × Nat)) (next : List Nat) : State :=
  (((up.setNum .cal 0 5 3).setNum .cal 0 3 1).setNum .refPower 4 3 2).modCal (fun k =>
    { k with run := some ⟨false, false, false, true, false⟩, running := on, waiting := next })

/-- A hub of the smallest variant in its hold-off. -/
def smallHold : State := { up.setNum .cal 0 5 1 with variant := .nxh096 }

/-- The first bytes of the block of a cell without a spare in use. -/
def plainHead (c : Nat) : Bytes := [BitVec.ofNat 8 c, 255, 0, 0, 0, 0, 0, 0]

/-- The elements of a modulator: the first 15. -/
def plainElems : Bytes := [255, 127, 0, 0]

/-- The block of a channel with gains of 1 and offsets of 0. -/
def plainChan : Bytes := (List.replicate 8 ([0, 0, 0, 64] : Bytes)).flatten ++ List.replicate 40 0

/-- The block of such a cell. -/
def plainCell (c : Nat) : Bytes :=
  plainHead c ++ ((List.replicate 17 plainElems).flatten ++ (List.replicate 32 0 ++ ((List.replicate 16 plainChan).flatten ++ [])))

/-- The image header of a hub. -/
def plainTop (s : State) : Bytes :=
  leBytes 2 1 ++ leBytes 2 150 ++ leBytes 1 6 ++ leBytes 3 0 ++ leBytes 8 s.ident ++ leBytes 12 0 ++ leBytes 4 7596

/-- A calibration image with such cells. -/
def plainImage : Bytes :=
  withCrc (plainTop smallHold ++ (plainCell 0 ++ (plainCell 1 ++ (plainCell 2 ++ (plainCell 3 ++ (plainCell 4 ++ plainCell 5))))))

/-- A manager. -/
def mgr : State := up.setNum .role 0 2 1

/-- A hub whose window 2 is a grid window of 6,400 ticks that starts now. -/
def grid1 : State :=
  let s := ((up.setNum .window 2 1 1).setNum .window 2 3 6400).modWin 2 (fun k => { k with next := some 6400 })
  { s with now := 6400 }

/-- A manager with cross-hub definition 3 on, whose first index has received nothing. -/
def crossOn : State :=
  let s := ((mgr.setNum .crossHub 3 1 1).setNum .crossHub 3 4 6400).setBytes .crossHub 3 3 [1, 0, 5, 0]
  let s := s.modCross 3 (fun k => { k with next := some 0 })
  { s with clk := { s.clk with local_ := 100000000000000 } }

/-- A raw block of one sample. -/
def encodeWords : Bytes := BlkDef.encode { ch := 5, first := 0, d := 64, b := 4, coding := false, maxOrder := 0, words := [256] }

/-- Item 3 of a stream. -/
def item5 (sent : Option Nat) : Item :=
  { seq := 3, bytes := [1, 2, 3, 4], ch := 5, n := 1, d := 64, first := 0, formed := 0, sent := sent, again := false, range := [],
    ord := none }

/-- An item of 1,000 bytes. -/
def longItem (seq : Nat) : Item := { item5 none with seq := seq, bytes := List.replicate 1000 0 }

/-- Instance 1 of stream 2 with items. -/
def space1 (is : List Item) : Space :=
  { stream := 2, num := 1, tb := 0, members := [5], b := 32, next := 5, gaps := 0, live := true, items := is, acked0 := false }

/-- A worker with an upstream port that holds items. -/
def sender (is : List Item) : State :=
  let s := ((up.setNum .ring 0 2 0).setNum .ring 0 3 1).setNum .link 0 3 2
  { s with now := 1000000000, strm := { s.strm with spaces := [space1 is] } }

/-- An Ethernet frame of KSF. -/
def ksfFrame (b : Bytes) : Frame := ⟨true, none, 1, 2, 64, .ksf b, 0⟩

/-- An ACK of that instance with A = 4. -/
def ackBytes : Bytes :=
  ksfControl { ty := 3, ident := up.ident, pos := 1, stream := 2, flags := 0, num := 1, seq := 4, tick := 0 } (leBytes 8 0)

/-- A NACK of item 3 of that instance. -/
def nackBytes : Bytes :=
  ksfControl { ty := 4, ident := up.ident, pos := 1, stream := 2, flags := 0, num := 1, seq := 0, tick := 0 }
    (leBytes 2 1 ++ leBytes 2 0 ++ leBytes 4 3 ++ leBytes 2 1 ++ leBytes 2 0)

/-- The sender with a received frame. -/
def heard (b : Bytes) : State :=
  let s := sender [item5 (some 9)]
  { s with net := { s.net with inbox := [⟨0, 5, ksfFrame b⟩] } }

/-- The sender with the ACK received. -/
def acked : State := heard ackBytes

/-- The sender with the NACK received. -/
def nacked : State := heard nackBytes

/-- A manager's state of instance 1 of stream 2 of hub 77. -/
def ack1 (holes : List (Nat × Nat × Option Nat)) : AckSt :=
  { pos := 1, ident := 77, stream := 2, num := 1, boot := 1, tb := 0, members := [5], newest := true, a := 4, acc := [],
    taken := [], holes := holes, lastA := 1, lastAcc := [], ackAt := none, heard := 1000000000, want := [], named := [],
    gaps := 0 }

/-- A manager that holds it. -/
def holding (holes : List (Nat × Nat × Option Nat)) : State :=
  { mgr.setNum .workers 0 1 77 with now := 1000000000, strm := { mgr.strm with acks := [ack1 holes] } }

/-- A data frame of hub 77 with item 3. -/
def dataBytes : Bytes :=
  ksfData { ty := 1, ident := 77, pos := 1, stream := 2, flags := 0, num := 1, seq := 3, tick := 0 } [item5 none]

/-- Channel 3 runs, and its instruction `w` is fetched. -/
def fetched (w : Nat) (f : DmaCh → DmaCh) : State :=
  ((up.setNum .dmaStat 3 1 1).modCh 3 f).modDma (fun d => { d with cur := some (3, w) })

/-- A MOVE of 5 elements of 8 bytes from register 1 to register 2, both incrementing. -/
def moveWord (mode : Nat) : Nat :=
  1 * 2 ^ 60 + 1 * 2 ^ 57 + 2 * 2 ^ 54 + 3 * 2 ^ 51 + 3 * 2 ^ 48 + 3 * 2 ^ 46 + mode * 2 ^ 44 + 5

/-- Channel 3 waits. -/
def waiting (what : DmaFor) (f : DmaCh → DmaCh) : State :=
  { (up.setNum .dmaStat 3 1 2).modCh 3 (fun k => f { k with wait := some ⟨what, 9, 0⟩ }) with now := 1000 }

/-- A MOVE that has 8 bytes left to write. -/
def storeMove : DmaMove :=
  { src := 1, dst := 2, ws := 1, wd := 1, sinc := true, dinc := true, mode := 0, toRead := 0, toWrite := 8, data := none, acc := [] }

/-- Channel 3 holds these 8 bytes. -/
def storing : State :=
  (up.setNum .dmaStat 3 1 1).modCh 3 (fun k =>
    { k with pc := 8, move := some storeMove, hold := [1, 2, 3, 4, 5, 6, 7, 8], regs := k.regs.set 2 ⟨dmaBase, 0, false, false⟩ })

/-- A request for object 0x1000:04. -/
def askReq : DmaReq := { write := false, idx := 0x1000, sub := 4, data := [], count := 8, at_ := 0 }

/-- The MOVE that asks. -/
def askMove : DmaMove := { storeMove with toWrite := 9 }

/-- Channel 3 has asked. -/
def asking : State := (up.setNum .dmaStat 3 1 1).modCh 3 (fun k => { k with move := some askMove, reqs := [askReq] })

/-- A KMP message to the hub, transaction 9. -/
def message (ty ses : Nat) (body : Bytes) : Kmp :=
  { ty := ty, ident := up.ident, ses := ses, flags := 0, tid := 9, status := 0, body := body }

/-- The Ethernet frame that carries it. -/
def kmpFrame (m : Kmp) : Frame := ⟨true, none, up.mac, 2, 64, .kmp (kmpBytes m), 0⟩

/-- A worker with port B up and a received link check. -/
def checked : State :=
  let s := up.setNum .link 1 3 1
  { s with net := { s.net with inbox := [⟨1, 5, kmpFrame (message 0x11 0 [])⟩] } }

/-- A worker with a received hello of three hops. -/
def greeted : State :=
  let s := up.setNum .link 1 3 2
  { s with net := { s.net with inbox := [⟨1, 5, kmpFrame (message 0x10 0 (0 :: 3 :: List.replicate 522 0))⟩] } }

/-- A manager with a received join. -/
def joined : State :=
  { mgr with net := { mgr.net with inbox := [⟨1, 5, kmpFrame (message 0x12 0 [1, 0, 0, 2, 1, 0, 0, 0])⟩] } }

/-- Hub 77 on port A, two hops away. -/
def join77 : JoinRec := { ident := 77, mac := 7, port := 0, pos := 1, hopA := 2, hopB := 4, boot := 1, tick := 0 }

/-- Session 3, with a timeout of 10 s. -/
def sess3 : Sess := { timeout := 10, tag := 1, last := 0, kept := [], asm := none }

/-- A hub with session 3 open and a received message. -/
def asked (m : Kmp) : State :=
  { up with net := { up.net with sessions := [(3, sess3)], inbox := [⟨1, 5, kmpFrame m⟩] } }

/-- A hub whose 14 sessions are open, with a request for another. -/
def crowded : State :=
  let s := asked (message 0x05 0 [10, 0, 0, 0, 1, 2, 3, 4, 5, 6, 7, 8])
  { s with net := { s.net with sessions := (List.range 14).map (fun n => (n + 1, sess3)) } }

/-- A worker with a SLATE of its manager. -/
def slateAsked : State :=
  let s := (asked (message 0x09 0 [0, 0, 16, 0, 0, 0, 0, 0])).setNum .grid 0 2 2
  { s with net := { s.net with mgrMac := 2 } }

/-- A manager that reaches hub 77, with a request for it. -/
def bridging : State :=
  { mgr.setNum .workers 0 1 77 with net := { mgr.net with
      joins := [join77], inbox := [⟨2, 5, kmpFrame { message 0x07 3 [] with ident := 77 }⟩] } }

/-- That request as the bridge keeps it. -/
def forwarded : Bridged := ⟨kmpFrame { message 0x07 3 [] with ident := 77 }, 77, 3, 9, 0⟩

/-- A manager whose bridge keeps requests, with an answer of hub 77. -/
def answered (bs : List Bridged) : State :=
  { mgr with net := { mgr.net with
      bridged := bs, inbox := [⟨0, 5, kmpFrame { message 0x07 3 [] with ident := 77, flags := 3 }⟩] } }

/-- A hub whose host port's link is up. -/
def hosted : State :=
  let s := up.setNum .endpoint 0 1 1
  { s with power := { s.power with powered := true, bootOk := true } }

/-- A hub whose window base, object 0x1B00:0A, names the MB of the DMA buffer, wherever that is. -/
def windowed : State :=
  { hosted with regs := Sparse.put hosted.regs (entryKey .endpoint 0 10) ((dmaBase / 1048576 : Nat) : Int) }

/-- A hub whose legacy output 3 follows channel 5 in frequency mode. -/
def metered : State :=
  let s := ((up.setNum .lgo 3 1 1).setNum .chLegacy 5 1 3).modLgo 3 (fun k => { k with mode := 1 })
  let s := { s with now := 24576000, lgo := { s.lgo with samps := [] } }
  let lag := s.nat .chLegacy 5 7
  let p := 4 * s.decOf 5
  { s with lgo := { s.lgo with samps := [(5, [⟨(24576000 - lag) / p * p, p, 5, 77 * 256⟩])] } }

/-- A hub whose rails are good, for the TAP. -/
def probed : State := { up.setNum .supply 0 11 63 with power := { up.power with powered := true } }

/-- The same with RESET_N held low. -/
def probedHeld : State := { probed with power := { probed.power with held := true, inReset := true } }

/-- The same with a full write buffer. -/
def fullBuffer : State := probed.modDbg (fun d => { d with ir := 0x11, wbuf := List.replicate 8192 0 })

/-- The same with DBGCMD selected and a word in the write buffer. -/
def commanding : State := probed.modDbg (fun d => { d with ir := 0x10, wbuf := [0x0807060504030201] })

/-! A term for each check of WellFormed.lean that the check refuses. -/

theorem test_ill_formed_refused1 : (
    [.resetRelease 4, .resetNow 16, .resetWhenIdle 16, .preferImageA 16, .preferImageB 16, .updateBegin 16,
    .updateSegment 16 [], .updateFinish 16, .updateAbort 16, .dictionaryWrite 16 0 0 [], .dictionaryWrite 0 65536 0 [],
    .dictionaryWrite 0 0 256 [], .stagedWriteTakesEffect 16 0 0, .stagedWriteTakesEffect 0 65536 0,
    .stagedWriteTakesEffect 0 0 256, .routingWrite 16 0 0 [], .routingWrite 0 65536 0 [], .routingWrite 0 0 256 [],
    .excitationWrite 16 0 0 [], .excitationWrite 0 65536 0 [], .excitationWrite 0 0 256 [], .switchClose 24, .clampOnset 768,
    .clampRelease 768 0, .clampLatchedClear 16 0 [], .clampLatchedClear 0 24 [],
    .excitationOutOfRegulation (.driver 24 0) 0 0, .excitationOutOfRegulation (.driver 0 4) 0 0,
    .excitationOutOfRegulation (.bias 24 0) 0 0, .excitationOutOfRegulation (.bias 0 16) 0 0,
    .excitationRegulationLeave (.driver 24 0) 0, .excitationRegulationLeave (.driver 0 4) 0,
    .excitationRegulationLeave (.bias 24 0) 0, .excitationRegulationLeave (.bias 0 16) 0, .overloadOnset 384,
    .overloadResetEnd 384, .overloadRelease 384, .spareResetEnd 24, .referenceReady 24, .powerModeSwitch 24] : List Instr).all (fun i => !i.wf) = true := by decide

theorem test_ill_formed_refused2 : (
    [.pullPhaseEnd 24 [], .openWireDetected 384, .openWirePullRelease 384, .railStickOnset 384 ⟨0, []⟩,
    .railStickRelease 384 ⟨0, []⟩, .injectedRequest 16 [], .injectedFlush 16 [], .sampleEmitted 384, .thresholdCrossing 384 0,
    .thresholdCrossing 0 4, .decimationSwitch 384, .crossFadeEnd 384, .slateRequest 16 [], .slateBallEdge ⟨0, 65536⟩,
    .zoneSlate 16 [], .slateConfirm 63 ⟨0, true⟩, .ptpForward ⟨3, 0⟩, .ptpForward ⟨0, 65536⟩, .pdelayMeasurement 3 true,
    .clockStep 16 [], .incrementWrite 16 [], .rateAdjustmentWrite 16 [], .correctionModeWrite 16 [], .servoOwnerWrite 16 [],
    .reanchorCommand 16 [], .tpoLeadingEdge 8, .tpoTrailingEdge 8, .calibrationStart 16 true true true true,
    .calibrationAbort 16, .endHoldOff 16, .cellInterruptionEnd 24 ⟨[], [], []⟩, .takeGuardExpiry 24,
    .estimationWindowEnd 24 0 [], .estimationWindowEnd 0 17 [], .elementSwitch 24 0, .elementSwitch 0 17,
    .modulatorCannotBeMatched 24 0, .modulatorCannotBeMatched 0 17, .calibrationImageRead 16, .calibrationImageWrite 16 []] : List Instr).all (fun i => !i.wf) = true := by decide

theorem test_ill_formed_refused3 : (
    [.dinFilterAccept 16 true ⟨0, 0⟩ 0, .dinFilterAccept 0 true ⟨0, 65536⟩ 0, .dinEdgeProcessed 16, .digitalInputStuck 16,
    .dinSettingWrite 16 0 0 [], .dinSettingWrite 0 65536 0 [], .dinSettingWrite 0 0 256 [], .takeTriggerOccurrence 16,
    .timeSourceInstance 16, .networkTrigger 16 0 [], .networkTrigger 0 16 [], .armCommand 16 0 [], .armCommand 0 16 [],
    .takeStopOccurrence 16, .takeFillEnd 16, .takeRecordCommit 16, .takeRearm 16, .releaseOffsetWrite 16 [],
    .largestSlackClear 16 0 [], .largestSlackClear 0 16 [], .windowStart 32, .windowRecordFormed 32, .crossHubDeadline 64,
    .replayDecoderWrite 16 [], .signatureArrival 2 0 0, .coreFaultSignal 2, .hiddenFaultAtTakeover 0,
    .hiddenFaultAtTakeover 6, .coreSelfTestEnd 2 true, .plannedHandover 16, .restoreCoreA 16, .restoreCoreB 16,
    .queuePush 195 0 true, .queuePush 0 18446744073709551616 true, .queuePop 195 .good, .cellItemAbandon 195, .flush 16 0 [],
    .flush 0 195 [], .flushComplete 195, .peakOccupancyClear 16 0 []] : List Instr).all (fun i => !i.wf) = true := by decide

theorem test_ill_formed_refused4 : (
    [.peakOccupancyClear 0 195 [], .openSet 16 [], .commitAtTick 16 [], .abandon 16 [], .setTimeout 16, .commitFenceEffect 16,
    .dmaStart 16 0, .dmaStart 0 16, .dmaEventStart 16, .dmaAbort 16 0, .dmaAbort 0 16, .clearFault 16 0, .clearFault 0 16,
    .waitComplete 16, .waitTimeout 16, .writeConfirmed 16 true, .dictionaryAnswer 16, .targetTimeout 16,
    .dictionaryAnswerTimeout 16, .programPageWrite 16 0 [], .programPageWrite 0 64 [], .linkUp 3 0, .linkDown 3,
    .restoreHoldExpiry 3, .ringTimeout 3, .hopCountExpiry 3, .frameReceived 3 ⟨true, none, 0, 0, 64, .other, 0⟩,
    .frameReceived 0 ⟨true, none, 2 ^ 48, 0, 64, .other, 0⟩, .frameReceived 0 ⟨true, none, 0, 2 ^ 48, 64, .other, 0⟩,
    .frameReceived 0 ⟨true, some 4096, 0, 0, 64, .other, 0⟩, .frameReceived 0 ⟨true, none, 0, 0, 64, .other, 65536⟩,
    .egressTransmit ⟨3, 0⟩, .egressTransmit ⟨0, 65536⟩, .learnCommand 16 [], .moduleInsertion [0], .storeCommand 16 [],
    .factoryRestoreArm 16, .factoryRestoreDisarm 16, .descriptionQuery 16 [], .takeNow 16 0 []] : List Instr).all (fun i => !i.wf) = true := by decide

theorem test_ill_formed_refused5 : (
    [.takeNow 0 8 [], .snapshotSetTick 8, .snapshotComplete 8, .eventRouted 31 .good, .recordComplete 4294967296 true true,
    .recordSnapshotTimeout 4294967296 [], .recorderSlotRead 2 0 .good, .recorderSlotRead 0 2048 .good,
    .clearFaultLatches 16 [], .raiseSoftwareEvent 16 [], .stickyFlagsClear 16 0 [], .stickyFlagsClear 0 384 [],
    .hostLinkUp 26 1, .hostLinkUp 25 4, .slotDoorbell 16 0, .slotDoorbell 0 4294967296, .slotAnswer 4294967296 0 0 [],
    .slotAnswer 0 4294967296 0 [], .slotAnswer 0 0 4294967296 [], .eventDoorbell 8, .bar2Write 67108864 [], .msixUnmask 32,
    .consumedOffsetWrite 16 [], .lgoUpdateTick 16, .lgoStaleExpiry 16, .lgoFaultHoldExpiry 16, .releaseCommand 16 0 [],
    .releaseCommand 0 16 [], .dbgdataUpdate 36893488147419103232, .debugNoOperation (2 ^ 64), .debugNoOperation (2 ^ 60),
    .debugNoOperation (8 * 2 ^ 60), .debugObjectRead (0 * 2 ^ 60), .debugObjectWrite (1 * 2 ^ 60),
    .debugMemoryRead (2 * 2 ^ 60) none, .debugMemoryWrite (3 * 2 ^ 60), .debugReset (7 * 2 ^ 60), .breakpointHit 16,
    .halt 16 0, .halt 0 16] : List Instr).all (fun i => !i.wf) = true := by decide

theorem test_ill_formed_refused6 : (
    [.debugRelease 16 0, .debugRelease 0 16, .singleStep 16 0, .singleStep 0 16, .resetNRelease 4, .ptpSyncReceived 3 0 0 0 0,
    .ptpSyncReceived 0 256 0 0 0, .announceReceived 3 0 ⟨0, 0, 0, 0, 0, 0, 0, 0, 0⟩,
    .announceReceived 0 256 ⟨0, 0, 0, 0, 0, 0, 0, 0, 0⟩, .delayRespReceived 3 0 0] : List Instr).all (fun i => !i.wf) = true := by decide

theorem test_ill_formed_long1 (bs : Bytes) (h : bs.length = 65536) :
    (Instr.updateSegment 0 bs).wf = false ∧ (Instr.dictionaryWrite 0 0 0 bs).wf = false ∧
    (Instr.routingWrite 0 0 0 bs).wf = false ∧ (Instr.excitationWrite 0 0 0 bs).wf = false ∧
    (Instr.clampLatchedClear 0 0 bs).wf = false ∧ (Instr.injectedRequest 0 bs).wf = false ∧
    (Instr.injectedFlush 0 bs).wf = false ∧ (Instr.slateRequest 0 bs).wf = false ∧ (Instr.zoneSlate 0 bs).wf = false ∧
    (Instr.clockStep 0 bs).wf = false ∧ (Instr.incrementWrite 0 bs).wf = false ∧ (Instr.rateAdjustmentWrite 0 bs).wf = false ∧
    (Instr.correctionModeWrite 0 bs).wf = false ∧ (Instr.servoOwnerWrite 0 bs).wf = false ∧
    (Instr.reanchorCommand 0 bs).wf = false ∧ (Instr.calibrationImageWrite 0 bs).wf = false ∧
    (Instr.dinSettingWrite 0 0 0 bs).wf = false ∧ (Instr.networkTrigger 0 0 bs).wf = false ∧
    (Instr.armCommand 0 0 bs).wf = false ∧ (Instr.releaseOffsetWrite 0 bs).wf = false ∧
    (Instr.largestSlackClear 0 0 bs).wf = false ∧ (Instr.replayDecoderWrite 0 bs).wf = false ∧
    (Instr.flush 0 0 bs).wf = false ∧ (Instr.peakOccupancyClear 0 0 bs).wf = false := by
  simp [Instr.wf, lenOk, below, h]

theorem test_ill_formed_long2 (bs : Bytes) (h : bs.length = 65536) :
    (Instr.openSet 0 bs).wf = false ∧ (Instr.commitAtTick 0 bs).wf = false ∧ (Instr.abandon 0 bs).wf = false ∧
    (Instr.programPageWrite 0 0 bs).wf = false ∧ (Instr.learnCommand 0 bs).wf = false ∧ (Instr.storeCommand 0 bs).wf = false ∧
    (Instr.descriptionQuery 0 bs).wf = false ∧ (Instr.takeNow 0 0 bs).wf = false ∧ (Instr.clearFaultLatches 0 bs).wf = false ∧
    (Instr.raiseSoftwareEvent 0 bs).wf = false ∧ (Instr.stickyFlagsClear 0 0 bs).wf = false ∧
    (Instr.slotAnswer 0 0 0 bs).wf = false ∧ (Instr.bar2Write 0 bs).wf = false ∧ (Instr.consumedOffsetWrite 0 bs).wf = false ∧
    (Instr.releaseCommand 0 0 bs).wf = false := by
  simp [Instr.wf, lenOk, below, h]

/-! Examples that the spec works out. -/

/-- The check value of R342. -/
theorem test_crc_check : crc32c [0x31, 0x32, 0x33, 0x34, 0x35, 0x36, 0x37, 0x38, 0x39] = 0xE3069283 := by decide +kernel

/-- The block of the worked encode in spec/10_stream_codec.md. -/
def workedBlock : BlkDef :=
  { ch := 150, first := 17000001240, d := 614400, b := 8, coding := true, maxOrder := 3,
    words := [256000008, 256000776, 256001792, 256002560, 256003072, 256003840, 256004864, 256005376] }

theorem test_worked_encode : workedBlock.isCoded = true ∧ workedBlock.order = 2 ∧ workedBlock.encode.length = 40 ∧
    (workedBlock.encode.drop 24).take 12 =
      ([0x01, 0x08, 0x01, 0x00, 0x05, 0x0F, 0x42, 0x40, 0x0F, 0x22, 0xC9, 0x40] : Bytes) := by decide +kernel

theorem test_worked_decode : decodeBlock workedBlock.encode = (0, workedBlock.words) := by decide +kernel

/-- The 1 kS/s chain of spec/05_filter_chain.md: D, M, the span, L and the delay in ns. -/
theorem test_weigh_chain : (decW 0x83800006).D = 6144 ∧ multiplier (decW 0x83800006) [8, 5, 9, 23, 1, 23] (2 ^ 30) 327680 = 22222222 ∧
    span (decW 0x83800006) 96 = 36700 ∧ settleLen (decW 0x83800006) 96 0 = 6 ∧ chainDelay (decW 0x83800006) 96 0 = 2486572 := by
  decide +kernel

/-- The 25.6 kS/s chain of spec/05_filter_chain.md, with the skew taps for 25 ns and its switch to 12.8 kS/s. -/
theorem test_roller_chain : (decW 0x3F400001).D = 240 ∧ span (decW 0x3F400001) 171 = 11381 ∧
    settleLen (decW 0x3F400001) 171 0 = 48 ∧ chainDelay (decW 0x3F400001) 171 25 = 906601 ∧
    skewTaps 240 25 = [-1788, 8385921, 5370, -895] ∧ switchTick 240 480 1000010 = 1000320 ∧
    settleLen (decW 0x3F800001) 171 0 = 26 := by decide +kernel

/-- The time of a sample in spec/06_sample_grid_and_time.md. -/
theorem test_sample_time : gridNs (960 * 12345) = 482226562 ∧ gridNs (3 * 24576000 + 960 * 12345) = 3482226562 := by decide +kernel

/-- The encodings worked in spec/16_object_dictionary.md. -/
theorem test_time_bytes : Ty.encode .time (1700000123 * 1000000000 + 250000417) =
    ([0x7B, 0xF1, 0x53, 0x65, 0x00, 0x00, 0x21, 0xB4, 0xE6, 0x0E] : Bytes) := by decide +kernel

theorem test_gain_bytes : (entryTy .chCorr 0 1).encode 327680 = ([0x00, 0x00, 0x05, 0x00] : Bytes) := by decide +kernel

/-- Object 0x3600 is channel 192, which an NXH192 does not have (spec/00_scope.md). -/
theorem test_absent_channel : locate 0x3600 = some (.chFront, 192) ∧
    (serveRead { up with variant := .nxh192 } 0 0x3600 1).2.1 = .noObject := by decide +kernel

/-- An NXH192 reads its variant and its cells (spec/00_scope.md). -/
theorem test_variant_read : (serveRead { up with variant := .nxh192 } 0 0x1020 1).2.2 = ([0x92, 0x01] : Bytes) ∧
    (serveRead { up with variant := .nxh192 } 0 0x1020 8).2.2 = ([0xFF, 0x0F, 0, 0] : Bytes) := by decide +kernel

/-- The commit tick of spec/13_queues_and_ordering.md with the default lead, counted from an integer second. -/
theorem test_commit_tick : (match commitTick { up with now := 24576000 + 1000000 } 0 with | .ok t => some t | .error _ => none) =
    some (24576000 + 1056768) := by decide +kernel

/-- The start of the calibration run in spec/07_calibration.md, counted from an integer second. -/
theorem test_calibration_start : (calCommand { up.setNum .cal 0 5 0 with now := 24576000 + 3000000 } 0xC1).1.cal.startAt =
    some (24576000 + 3072000) := by decide +kernel

/-- The room of a 44-byte block, and its frame, in spec/11_streams_and_spill.md. -/
theorem test_block_room : itemRoom 44 = 64 ∧ frameLen (40 + 4 * 20 + 4 * 44) = 314 := by decide +kernel

/-- The words of the program in spec/14_channel_programs.md: SETA A7 loads, LOOP opens 56 passes, ADDA A1 steps back. -/
theorem test_seta_word : ((match exec .dmaSeta (fetched 0x7220000120000000 id) with
    | .next t => some ((t.dmaCh 3).reg 1) | _ => none)) = some ⟨0x120000000, 1, false, false⟩ := by decide +kernel

theorem test_loop_word : ((match exec .dmaLoop (fetched 0x2000000000000038 id) with
    | .next t => some (t.dmaCh 3).frames | _ => none)) = some [(8, 56)] := by decide +kernel

theorem test_adda_word : ((match exec .dmaAdda (fetched 0x8200FFFFFFE00000
      (fun k => { k with regs := k.regs.set 1 ⟨0x120200000, 1, false, false⟩ })) with
    | .next t => some ((t.dmaCh 3).reg 1).addr | _ => none)) = some 0x120000000 := by decide +kernel

/-- The debug command word of spec/20_debug_port.md names object 0x1D00:06 and reads 2 bytes. -/
theorem test_debug_word : opWord 1 0x100000001D000600 = true ∧ bits 0x100000001D000600 31 16 = 0x1D00 ∧
    bits 0x100000001D000600 15 8 = 6 := by decide +kernel

/-- No row of the table gives a word (log 1): nothing is spelled. -/
theorem test_no_word : decodeTableWord 64 0 = none ∧ State.reset.withFetchWord 64 0 = State.reset := ⟨rfl, rfl⟩


/-! A state and operands that meet the hypotheses of each clause of the statements. -/


/-! Witnesses where the address of the DMA buffer, which the spec leaves open, stands in the operands. -/

theorem within_of (a n : Nat) (h : a + n ≤ 4194304) : within dmaBase dmaBufSize (dmaBase + a) n = true := by
  simp only [within, Bool.and_eq_true, decide_eq_true_eq, dmaBufSize]
  omega

theorem windowed_up : hostUp windowed = true := by
  have h : windowed.num .endpoint 0 1 = hosted.num .endpoint 0 1 := by
    simp only [windowed, State.num, Sparse.find_put_ne _ (show entryKey .endpoint 0 1 ≠ entryKey .endpoint 0 10 by decide)]
    rfl
  have h2 : windowed.nat .endpoint 0 1 = hosted.nat .endpoint 0 1 := congrArg Int.toNat h
  have h3 : hostOn windowed = hostOn hosted := rfl
  rw [hostUp, h2, h3]
  decide +kernel

theorem windowed_base : windowed.nat .endpoint 0 10 = dmaBase / 1048576 := by
  simp only [windowed, State.nat, State.num, Sparse.find_put_same, Int.toNat_natCast]

theorem inside_witness : hostUp windowed = true ∧ dmaBase % 1048576 + ([7] : Bytes).length ≤ 67108864 ∧
    within dmaBase dmaBufSize (windowed.nat .endpoint 0 10 * 1048576 + dmaBase % 1048576) ([7] : Bytes).length = true := by
  refine ⟨windowed_up, ?_, ?_⟩
  · have := Nat.mod_lt dmaBase (show 0 < 1048576 by decide)
    simp only [List.length_singleton]
    omega
  · rw [windowed_base, Nat.mul_comm, Nat.div_add_mod]
    exact within_of 0 1 (by decide)

theorem outside_witness : hostUp (hosted.setNum .endpoint 0 10 (if dmaBase < 1048576 then 100 else 0)) = true ∧
    0 + (List.replicate 64 (7 : Byte)).length ≤ 67108864 ∧
    within dmaBase dmaBufSize ((hosted.setNum .endpoint 0 10 (if dmaBase < 1048576 then 100 else 0)).nat .endpoint 0 10 * 1048576 + 0)
      (List.replicate 64 (7 : Byte)).length = false := by
  have hn : ∀ v : Int, (hosted.setNum .endpoint 0 10 v).nat .endpoint 0 10 = ((entryTy .endpoint 0 10).narrow v).toNat :=
    fun v => congrArg Int.toNat (num_setNum_same hosted .endpoint 0 10 v)
  by_cases h : dmaBase < 1048576
  · rw [if_pos h]
    refine ⟨by decide +kernel, by decide, ?_⟩
    rw [hn 100, show ((entryTy .endpoint 0 10).narrow 100).toNat = 100 by decide +kernel]
    simp only [within, Bool.and_eq_false_iff, decide_eq_false_iff_not, dmaBufSize, List.length_replicate]
    omega
  · rw [if_neg h]
    refine ⟨by decide +kernel, by decide, ?_⟩
    rw [hn 0, show ((entryTy .endpoint 0 10).narrow 0).toNat = 0 by decide +kernel]
    simp only [within, Bool.and_eq_false_iff, decide_eq_false_iff_not, dmaBufSize, List.length_replicate]
    omega

theorem storing_witness : storing.dma.cur = none ∧ copyBusy storing = false ∧
    pickChannel storing = some 3 ∧ (storing.dmaCh 3).move = some storeMove ∧ (storing.dmaCh 3).nextBeat storeMove = some true ∧
    (storing.dmaCh 3).reg storeMove.dst = ⟨dmaBase, 0, false, false⟩ ∧ storeMove.mode = 0 ∧ storeMove.dinc = true ∧
    dmaBase % storeMove.wd = 0 ∧ within dmaBase dmaBufSize dmaBase (min 32 (min (storing.dmaCh 3).hold.length storeMove.toWrite) /
      storeMove.wd * storeMove.wd) = true ∧ 0 < storeMove.wd := by
  refine ⟨rfl, by decide +kernel, by decide +kernel, rfl, rfl, rfl, rfl, rfl, Nat.mod_one _, within_of 0 8 (by decide), by decide⟩


/-! The calibration image of `plainImage` meets the checks of R258. -/

theorem plainElems_length : plainElems.length = 4 := rfl

theorem plainChan_length : plainChan.length = 72 := by simp [plainChan]

theorem plainCell_length (c : Nat) : (plainCell c).length = 1260 := by
  simp [plainCell, plainHead, plainElems_length, plainChan_length]

theorem plainTop_length (s : State) : (plainTop s).length = 32 := by simp [plainTop]

theorem plainCell_elems (c m : Nat) (h : m < 17) : leAt (plainCell c) (8 + 4 * m) 4 = 32767 := by
  rw [plainCell, show 8 + 4 * m = (plainHead c).length + (plainElems.length * m + 0) by simp [plainHead, plainElems_length],
    leAt_append, leAt_blocks 17 plainElems _ h (by decide)]
  decide

theorem plainCell_levels (c i : Nat) (h : i < 8) : leAt (plainCell c) (76 + 4 * i) 4 = 0 := by
  rw [plainCell, show 76 + 4 * i = (plainHead c).length + (68 + 4 * i) by simp [plainHead]; omega, leAt_append,
    show 68 + 4 * i = (List.replicate 17 plainElems).flatten.length + 4 * i by simp [plainElems_length], leAt_append,
    leAt_prefix _ _ (by simp; omega)]
  revert i; decide +kernel

theorem plainCell_chan (c p o n : Nat) (hp : p < 16) (ho : o + n ≤ 72) :
    leAt (plainCell c) (108 + 72 * p + o) n = leAt plainChan o n := by
  rw [plainCell, show 108 + 72 * p + o = (plainHead c).length + (100 + 72 * p + o) by simp [plainHead]; omega, leAt_append,
    show 100 + 72 * p + o = (List.replicate 17 plainElems).flatten.length + (32 + 72 * p + o) by
      simp [plainElems_length]; omega, leAt_append,
    show 32 + 72 * p + o = (List.replicate 32 (0 : Byte)).length + (plainChan.length * p + o) by
      simp [plainChan_length]; omega, leAt_append]
  exact leAt_blocks 16 plainChan [] hp (by rw [plainChan_length]; exact ho)

theorem plainChan_values : (List.range 8).all (fun g => decide (leAt plainChan (4 * g) 4 = 2 ^ 30) &&
    decide (leAt plainChan (32 + 4 * g) 4 = 0)) = true ∧ leAt plainChan 66 2 = 0 := by decide +kernel

theorem plainCell_ok (c : Nat) (h : c < 24) : imageCellOk c (plainCell c) = true := by
  have h0 : leAt (plainCell c) 0 1 = c := by
    rw [plainCell, leAt_prefix _ _ (by simp [plainHead])]
    simp only [leAt, slice, plainHead, List.drop_zero, List.take_succ_cons, List.take_zero, leNat, BitVec.toNat_ofNat]
    omega
  have h1 : leAt (plainCell c) 1 1 = 255 := by
    rw [plainCell, leAt_prefix _ _ (by simp [plainHead])]
    simp [leAt, slice, plainHead, leNat]
  unfold imageCellOk
  simp only [h0, h1, Bool.and_eq_true, List.all_eq_true, List.mem_range]
  refine ⟨⟨⟨⟨by simp, by decide⟩, ?_⟩, ?_⟩, ?_⟩
  · intro m hm
    rw [plainCell_elems c m hm]; decide
  · intro i hi
    rw [plainCell_levels c i hi]; decide
  · intro p hp
    have hv := List.all_eq_true.1 plainChan_values.1
    refine ⟨?_, ?_⟩
    · intro g hg
      have := hv g (List.mem_range.2 hg)
      simp only [Bool.and_eq_true, decide_eq_true_eq] at this
      rw [plainCell_chan c p (4 * g) 4 hp (by omega), Nat.add_assoc, plainCell_chan c p (32 + 4 * g) 4 hp (by omega), this.1, this.2]
      decide
    · rw [plainCell_chan c p 66 2 hp (by omega), plainChan_values.2]; decide

theorem plainImage_cell (c : Nat) (h : c < 6) : slice plainImage (32 + 1260 * c) 1260 = plainCell c := by
  have key : ∀ a r : Bytes, a.length = 32 + 1260 * c → plainImage = a ++ (plainCell c ++ r) →
      slice plainImage (32 + 1260 * c) 1260 = plainCell c := by
    intro a r ha hr
    rw [hr, ← ha, ← plainCell_length c]
    exact slice_middle a (plainCell c) r
  have e : c = 0 ∨ c = 1 ∨ c = 2 ∨ c = 3 ∨ c = 4 ∨ c = 5 := by omega
  rcases e with rfl | rfl | rfl | rfl | rfl | rfl
  · exact key (plainTop smallHold) _ (by simp [plainTop_length])
      (by simp only [plainImage, withCrc, List.append_assoc]; rfl)
  · exact key (plainTop smallHold ++ (plainCell 0)) _ (by simp [plainTop_length, plainCell_length])
      (by simp only [plainImage, withCrc, List.append_assoc]; rfl)
  · exact key (plainTop smallHold ++ (plainCell 0 ++ (plainCell 1))) _ (by simp [plainTop_length, plainCell_length])
      (by simp only [plainImage, withCrc, List.append_assoc]; rfl)
  · exact key (plainTop smallHold ++ (plainCell 0 ++ (plainCell 1 ++ (plainCell 2)))) _ (by simp [plainTop_length, plainCell_length])
      (by simp only [plainImage, withCrc, List.append_assoc]; rfl)
  · exact key (plainTop smallHold ++ (plainCell 0 ++ (plainCell 1 ++ (plainCell 2 ++ (plainCell 3))))) _ (by simp [plainTop_length, plainCell_length])
      (by simp only [plainImage, withCrc, List.append_assoc]; rfl)
  · exact key (plainTop smallHold ++ (plainCell 0 ++ (plainCell 1 ++ (plainCell 2 ++ (plainCell 3 ++ (plainCell 4)))))) _ (by simp [plainTop_length, plainCell_length])
      (by simp only [plainImage, withCrc, List.append_assoc]; rfl)

theorem plainImage_length : plainImage.length = 7596 := by
  simp [plainImage, plainTop_length, plainCell_length]

theorem plainImage_top (o n : Nat) (h : o + n ≤ 32) : leAt plainImage o n = leAt (plainTop smallHold) o n := by
  rw [plainImage, withCrc, List.append_assoc, leAt_prefix _ _ (by rw [plainTop_length]; exact h)]

theorem plainTop_values : leAt (plainTop smallHold) 0 2 = 1 ∧ leAt (plainTop smallHold) 2 2 = 150 ∧
    leAt (plainTop smallHold) 4 1 = 6 ∧ leAt (plainTop smallHold) 8 8 = smallHold.ident ∧
    leAt (plainTop smallHold) 28 4 = 7596 ∧ smallHold.variant = .nxh096 ∧ variantCode smallHold.variant = 150 ∧
    Config.cells smallHold.variant = 6 := by decide +kernel

theorem plainImage_ok : imageOk smallHold plainImage = true := by
  obtain ⟨v0, v1, v2, v3, v4, -, v6, v7⟩ := plainTop_values
  have hc := withCrc_sealed (plainTop smallHold ++ (plainCell 0 ++ (plainCell 1 ++ (plainCell 2 ++ (plainCell 3 ++
    (plainCell 4 ++ plainCell 5))))))
  have hl : (plainTop smallHold ++ (plainCell 0 ++ (plainCell 1 ++ (plainCell 2 ++ (plainCell 3 ++
    (plainCell 4 ++ plainCell 5)))))).length = 7592 := by simp [plainTop_length, plainCell_length]
  rw [hl] at hc
  have hc1 : leAt plainImage 7592 4 = crc32c (plainImage.take 7592) := by
    rw [plainImage, hc.1, hc.2]
  have ha : ∀ c ∈ smallHold.allCells, imageCellOk c (slice plainImage (32 + 1260 * c) 1260) = true := by
    intro c hcm
    have h6 : c < 6 := by rw [State.allCells, v7] at hcm; exact List.mem_range.1 hcm
    rw [plainImage_cell c h6]
    exact plainCell_ok c (by omega)
  unfold imageOk
  simp only [v6, v7, plainImage_length, plainImage_top 0 2 (by decide), plainImage_top 2 2 (by decide),
    plainImage_top 4 1 (by decide), plainImage_top 8 8 (by decide), plainImage_top 28 4 (by decide), v0, v1, v2, v3, v4,
    Nat.reduceMul, Nat.reduceAdd, Nat.reduceSub, hc1, beq_self_eq_true, Bool.and_true, Bool.true_and]
  exact List.all_eq_true.2 ha

theorem image_witness : smallHold.serves 0 ∧ smallHold.power.inReset = false ∧ calState smallHold = 1 ∧
    plainImage.length ≤ 65535 ∧ imageOk smallHold plainImage = true :=
  ⟨by decide +kernel, rfl, by decide +kernel, by rw [plainImage_length]; decide, plainImage_ok⟩

theorem test_powerOn : ∃ (s : State), s.power.powered = false :=
  ⟨{ State.reset with power := { State.reset.power with powered := false } }, by decide +kernel⟩

theorem test_undervoltageLockout : ∃ (s : State), s.power.powered = true := ⟨up, by decide +kernel⟩

theorem test_resetBall : ∃ (s : State), s.power.powered = true := ⟨up, by decide +kernel⟩

theorem test_watchdogExpiry : ∃ (s : State), s.power.inReset = false ∧ s.power.released + (msTicks 2000 : Nat) ≤ (s.now :
  Int) := ⟨{ up with now := 100000000 }, by decide +kernel⟩

theorem test_trialTimeout : ∃ (s : State), (phase s = 1 ∨ phase s = 2) ∧ (s.image (bootImage s)).state = 1 ∧
  s.power.released + (msTicks 60000 : Nat) ≤ (s.now : Int) :=
  ⟨{ (up.setNum .startup 0 3 2).putImage 0 ⟨1, 7, []⟩ with now := 2000000000 }, by decide +kernel⟩

theorem test_resetRelease : ∃ (s : State) (straps : Nat), s.power.powered = true ∧ s.power.inReset = true ∧ s.power.held =
  false := ⟨State.reset, 2, by decide +kernel⟩

theorem test_resetNRelease : ∃ (s : State) (straps : Nat), s.power.powered = true ∧ s.power.held = true ∧ s.nat .supply 0
  11 % 32 = 31 := ⟨({ State.reset with power := { State.reset.power with held := true } }).setNum .supply 0 11 31, 1,
  by decide +kernel⟩

theorem test_resetNRelease2 : ∃ (s : State) (straps : Nat), s.power.held = true ∧ (s.power.powered = false ∨ s.nat .supply
  0 11 % 32 ≠ 31) := ⟨{ State.reset with power := { State.reset.power with held := true } }, 1, by decide +kernel⟩

theorem test_bootEnd : ∃ (s : State) (okA okB : Bool), phase s = 1 ∧ s.power.inReset = false ∧ s.power.bootOk = true ∧
  s.flash.preferred ≤ 1 ∧ (s.image s.flash.preferred).state ≠ 0 ∧ (if s.flash.preferred = 0 then okA else okB) = true :=
  ⟨up.setNum .startup 0 3 1, true, false, by decide +kernel⟩

theorem test_bootEnd2 : ∃ (s : State) (okA okB : Bool) (p : Nat), phase s = 1 ∧ s.power.inReset = false ∧ s.power.bootOk =
  true ∧ s.flash.preferred = p ∧ p ≤ 1 ∧ (s.image p).state = 0 ∨ (if p = 0 then okA else okB) = false ∧ (s.image (1 -
  p)).state ≠ 0 ∧ (if p = 0 then okB else okA) = true := ⟨(up.setNum .startup 0 3 1).putImage 1 ⟨2, 3, []⟩, false, true, 0,
  by decide +kernel⟩

theorem test_bootEnd3 : ∃ (s : State) (okA okB : Bool), phase s = 1 ∧ s.power.inReset = false ∧ s.power.bootOk = true ∧
  s.flash.preferred ≤ 1 ∧ (s.image 0).state = 0 ∨ okA = false ∧ (s.image 1).state = 0 ∨ okB = false := ⟨up.setNum .startup 0
  3 1, false, true, by decide +kernel⟩

theorem test_restore : ∃ (s : State), phase s = 2 := ⟨up.setNum .startup 0 3 2, by decide +kernel⟩

theorem test_streamStart : ∃ (s : State), streamStartTick s = true := ⟨startTick, by decide +kernel⟩

theorem test_powerMonitorSample : ∃ (s : State) (vin current excMv excMw rails : Nat), s.power.powered = true ∧
  s.power.inReset = false ∧ s.power.vinSeen = false := ⟨up, 48000, 2000, 24000, 9000, 63, by decide +kernel⟩

theorem test_powerMonitorSample2 : ∃ (s : State) (vin current excMv excMw rails : Nat), s.power.powered = true ∧
  s.power.inReset = false ∧ s.power.vinSeen = true :=
  ⟨{ up.setNum .supply 0 5 48000 with power := { up.power with vinSeen := true } }, 50000, 2000, 24000, 9000, 63,
  by decide +kernel⟩

theorem test_temperatureSample : ∃ (s : State) (readings : List Int), s.power.powered = true ∧ s.power.inReset = false ∧
  s.power.tempSeen = false := ⟨up, [5000, 5000, 5000, 5000, 5000], by decide +kernel⟩

theorem test_temperatureSample2 : ∃ (s : State) (readings : List Int), s.power.powered = true ∧ s.power.inReset = false ∧
  s.power.tempSeen = true := ⟨{ up.setNum .temps 0 6 6000 with power := { up.power with tempSeen := true } }, [5000],
  by decide +kernel⟩

theorem test_vinFallsBelow10V : ∃ (s : State), s.power.powered = false :=
  ⟨{ State.reset with power := { State.reset.power with powered := false } }, by decide +kernel⟩

theorem test_vinFallsBelow10V2 : ∃ (s : State), s.power.powered = true := ⟨up, by decide +kernel⟩

theorem test_updateBegin : ∃ (s : State) (ses : Nat), s.serves ses ∧ (updateState s = 0 ∨ updateState s = 4) := ⟨up, 0,
  by decide +kernel⟩

theorem test_updateEraseComplete : ∃ (s : State), updateState s = 1 := ⟨up.setNum .images 0 10 1, by decide +kernel⟩

theorem test_updateSegment : ∃ (s : State) (ses : Nat) (bs : Bytes), s.serves ses ∧ updateState s = 2 ∧ 1 ≤ bs.length ∧
  bs.length ≤ 32768 ∧ s.nat .images 0 8 + bs.length ≤ 20971520 ∧ updateTarget s < s.flash.images.length := ⟨up.setNum
  .images 0 10 2, 15, [1, 2], by decide +kernel⟩

theorem test_updateFinish : ∃ (s : State) (ses : Nat), s.serves ses ∧ updateState s = 2 := ⟨up.setNum .images 0 10 2, 0,
  by decide +kernel⟩

theorem test_updateVerifyComplete : ∃ (s : State) (version : Nat), updateState s = 3 ∧ s.power.resetWait = false ∧
  updateTarget s < s.flash.images.length := ⟨up.setNum .images 0 10 3, 9, by decide +kernel⟩

theorem test_updateVerifyComplete2 : ∃ (s : State) (version : Nat), updateState s = 3 ∧ s.power.resetWait = false :=
  ⟨up.setNum .images 0 10 3, 9, by decide +kernel⟩

theorem test_updateAbort : ∃ (s : State) (ses : Nat), s.serves ses ∧ (updateState s = 1 ∨ updateState s = 2 ∨ updateState
  s = 3) ∧ s.power.resetWait = false := ⟨up.setNum .images 0 10 1, 0, by decide +kernel⟩

theorem test_updateVerifyComplete3 : ∃ (s : State) (ok : Bool) (version : Nat), updateState s = 3 ∧ s.power.resetWait =
  true ∧ s.store.run = none := ⟨(up.setNum .images 0 10 3).modPower (fun p => { p with resetWait := true }), true, 9,
  by decide +kernel⟩

theorem test_updateAbort2 : ∃ (s : State) (ses : Nat), s.serves ses ∧ (updateState s = 1 ∨ updateState s = 2 ∨ updateState
  s = 3) ∧ s.power.resetWait = true ∧ s.store.run = none := ⟨(up.setNum .images 0 10 1).modPower (fun p =>
  { p with resetWait := true }), 0, by decide +kernel⟩

theorem test_resetNow : ∃ (s : State) (ses : Nat), s.serves ses := ⟨up, 0, by decide +kernel⟩

theorem test_resetWhenIdle : ∃ (s : State) (ses : Nat), s.serves ses ∧ s.store.run = none ∧ (updateState s = 0 ∨
  updateState s = 4) := ⟨up, 0, by decide +kernel⟩

theorem test_resetWhenIdle2 : ∃ (s : State) (ses : Nat), s.serves ses ∧ (s.store.run.isSome = true ∨ (updateState s ≠ 0 ∧
  updateState s ≠ 4)) ∧ s.power.inReset = false := ⟨{ up with store := { up.store with run := some ⟨1, none, 0⟩ } }, 0,
  by decide +kernel⟩

theorem test_preferImageA : ∃ (s : State) (ses : Nat), s.serves ses ∧ (s.image 0).state ≠ 0 ∧ updateState s = 0 ∧
  s.power.inReset = false := ⟨up, 0, by decide +kernel⟩

theorem test_preferImageA2 : ∃ (s : State) (ses : Nat), s.serves ses ∧ (s.image 0).state = 0 ∨ updateState s ≠ 0 ∧
  s.power.inReset = false := ⟨up.setNum .images 0 10 2, 0, by decide +kernel⟩

theorem test_preferImageB : ∃ (s : State) (ses : Nat), s.serves ses ∧ (s.image 1).state ≠ 0 ∧ updateState s = 0 ∧
  s.power.inReset = false := ⟨up.putImage 1 ⟨2, 3, []⟩, 0, by decide +kernel⟩

theorem test_preferImageB2 : ∃ (s : State) (ses : Nat), s.serves ses ∧ (s.image 1).state = 0 ∨ updateState s ≠ 0 ∧
  s.power.inReset = false := ⟨up, 0, by decide +kernel⟩

theorem test_storeCommand : ∃ (s : State) (ses : Nat), s.serves ses ∧ storeState s ≠ 2 ∧ s.power.inReset = false := ⟨up,
  0, by decide +kernel⟩

theorem test_autosave : ∃ (s : State), autosaveDue s = true := ⟨{ up.setNum .store 0 15 1 with now := 1000000000 },
  by decide +kernel⟩

theorem test_autosave2 : ∃ (s : State), autosaveDue s = false := ⟨up, by decide +kernel⟩

theorem test_snapshotTickStore : ∃ (s : State) (r : StoreRun) (b : Nat), s.store.run = some r ∧ s.store.began = some b ∧
  r.taken = none ∧ imageWriting s = false ∧ s.now % 24576 = 0 ∧ b < s.now :=
  ⟨{ up with now := 24576, store := { up.store with run := some ⟨1, none, 0⟩, began := some 5 } }, ⟨1, none, 0⟩, 5,
  by decide +kernel⟩

theorem test_storeComplete : ∃ (s : State) (gen tick later : Nat) (x : Snap), s.store.run = some ⟨gen, some (tick, x),
  later⟩ ∧ s.power.resetWait = false :=
  ⟨{ up with store := { up.store with run := some ⟨1, some (24576, ⟨1, true, [], []⟩), 0⟩ } }, 1, 24576, 0, ⟨1, true, [],
  []⟩, by decide +kernel⟩

theorem test_factoryRestoreArm : ∃ (s : State) (ses : Nat), s.serves ses ∧ s.power.inReset = false := ⟨up, 0,
  by decide +kernel⟩

theorem test_factoryRestoreDisarm : ∃ (s : State) (ses : Nat), s.serves ses ∧ s.power.inReset = false := ⟨up, 0,
  by decide +kernel⟩

theorem test_descriptionQuery : ∃ (s : State) (ses : Nat) (bs : Bytes), s.serves ses ∧ s.power.inReset = false ∧ bs.length
  = 4 ∧ leNat bs % 256 = 0 := ⟨up, 0, [0, 1, 0, 0x10], by decide +kernel⟩

theorem test_takeNow : ∃ (s : State) (ses k : Nat), s.serves ses ∧ s.power.inReset = false ∧ k < 8 := ⟨up, 0, 7,
  by decide +kernel⟩

theorem test_snapshotSetTick : ∃ (s : State) (k : Nat), k < 8 ∧ 3 ≤ phase s ∧ s.nat .snapSet k 2 ≠ 0 ∧ s.now % s.nat
  .snapSet k 2 = 0 ∧ (s.snapSt k).looked ≠ some s.now ∧ (s.snapSt k).run = none :=
  ⟨{ up.setNum .snapSet 3 2 24576 with now := 49152 }, 3, by decide +kernel⟩

theorem test_snapshotComplete : ∃ (s : State) (k tick : Nat) (b : Bytes), k < 8 ∧ (s.snapSt k).run = some (tick, b) :=
  ⟨up.modSnap 2 (fun x => { x with run := some (24576, [7]) }), 2, 24576, [7], by decide +kernel⟩

theorem test_dictionaryWrite : ∃ (s : State) (ses : Nat) (bs : Bytes), s.serves ses ∧ s.power.inReset = false ∧ bs.length
  = 4 := ⟨up, 15, [1, 2, 3, 4], by decide +kernel⟩

theorem test_dictionaryWrite2 : ∃ (s : State) (ses idx sub : Nat) (bs : Bytes), s.serves ses ∧ s.power.inReset = false ∧
  locate idx = none := ⟨up, 0, 0xFFFF, 1, [], by decide +kernel⟩

theorem test_dictionaryWrite3 : ∃ (s : State) (ses idx sub : Nat) (bs : Bytes), sessionOpen s ses = false ∧
  s.power.inReset = false := ⟨up, 3, 0x1000, 1, [], by decide +kernel⟩

theorem test_dictionaryWrite4 : ∃ (s : State) (ses : Nat) (bs : Bytes), s.serves ses ∧ s.power.inReset = false := ⟨up, 0,
  [1, 2], by decide +kernel⟩

theorem test_routingWrite : ∃ (s : State) (ses cell sub : Nat) (bs : Bytes), s.serves ses ∧ s.power.inReset = false ∧ cell
  < Config.cells s.variant ∧ 1 ≤ sub ∧ sub ≤ 32 ∧ bs.length = 4 ∧ cellLegal ((sessionView s ses).withWrites [⟨.termRoute,
  cell, sub, leNat bs, []⟩]) cell true = true ∧ (s.stage ses).held = false ∧ (s.stage ses).count + (s.takeWaiting
  ses).length < 4096 := ⟨up, 0, 2, 5, [0, 0, 0, 0x50], by decide +kernel⟩

theorem test_excitationWrite : ∃ (s : State) (ses d : Nat) (bs : Bytes), s.serves ses ∧ s.power.inReset = false ∧ d / 4 <
  Config.cells s.variant ∧ bs.length = 2 ∧ 1000 ≤ leNat bs ∧ leNat bs ≤ 10000 ∧ overBudget s ses ⟨.driver, d, 2, leNat bs,
  []⟩ = false ∧ (s.stage ses).held = false ∧ (s.stage ses).count + (s.takeWaiting ses).length < 4096 := ⟨up, 0, 9, [0x10,
  0x27], by decide +kernel⟩

theorem test_excitationWrite2 : ∃ (s : State) (ses d : Nat) (bs : Bytes), s.serves ses ∧ s.power.inReset = false ∧ d / 4 <
  Config.cells s.variant ∧ bs.length = 2 ∧ 1000 ≤ leNat bs ∧ leNat bs ≤ 10000 ∧ overBudget s ses ⟨.driver, d, 2, leNat bs,
  []⟩ = true := ⟨overFull, 0, 0, [0x10, 0x27], by decide +kernel⟩

theorem test_armCommand : ∃ (s : State) (ses k : Nat), s.serves ses ∧ s.power.inReset = false ∧ k < 16 ∧ (s.stage
  ses).held = false ∧ (s.stage ses).count + (s.takeWaiting ses).length < 4096 := ⟨up, 15, 4, by decide +kernel⟩

theorem test_stagedWriteTakesEffect : ∃ (s : State) (ses d sub : Nat) (x : Imm), ses < 16 ∧ d < 96 ∧ 1 ≤ sub ∧ sub ≤ 4 ∧
  (s.stage ses).imm = [x] ∧ x.w.obj = .driver ∧ x.w.u = d ∧ x.w.sub = sub ∧ (s.stage ses).pend = [] ∧ setsUpTo s s.now
  x.order = [] ∧ effectCheck (s.putStage ses { s.stage ses with imm := [] }) ses [x.w] x.w = none := ⟨up.putStage 0
  { Stage.empty with imm := [⟨⟨.driver, 5, 4, 20000, []⟩, 0, 0⟩] }, 0, 5, 4, ⟨⟨.driver, 5, 4, 20000, []⟩, 0, 0⟩,
  by decide +kernel⟩

theorem test_openSet : ∃ (s : State) (ses : Nat), s.serves ses ∧ s.power.inReset = false ∧ (s.stage ses).held = false :=
  ⟨up, 0, by decide +kernel⟩

theorem test_commitAtTick : ∃ (s : State) (ses : Nat) (bs : Bytes), s.serves ses ∧ s.power.inReset = false ∧ bs.length = 8
  ∧ (s.stage ses).held = true ∧ leNat bs ≠ 0 ∧ s.now + s.nat .fence 0 4 ≤ leNat bs ∧ leNat bs ≤ s.now + 24576000 * 86400 :=
  ⟨up.putStage 0 { Stage.empty with held := true }, 0, [0, 0, 16, 0, 0, 0, 0, 0], by decide +kernel⟩

theorem test_abandon : ∃ (s : State) (ses : Nat), s.serves ses ∧ s.power.inReset = false ∧ (s.stage ses).held = true :=
  ⟨up.putStage 0 { Stage.empty with held := true }, 0, by decide +kernel⟩

theorem test_setTimeout : ∃ (s : State) (ses : Nat), ses < 16 ∧ (s.stage ses).held = true ∧ (s.stage ses).opened + s.nat
  .fence 0 5 * 24576000 ≤ s.now := ⟨{ up.putStage 3 { Stage.empty with held := true } with now := 2000000000 }, 3,
  by decide +kernel⟩

theorem test_commitFenceEffect : ∃ (s : State) (ses : Nat) (p : PendSet), ses < 16 ∧ (s.stage ses).pend = [p] ∧ (s.stage
  ses).imm = [] ∧ p.tick ≤ s.now ∧ setsUpTo s p.tick p.order = [(ses, p)] ∧ setFailures (s.putStage ses
  { s.stage ses with pend := [] }) ses p.writes = [] :=
  ⟨{ up.putStage 1 { Stage.empty with pend := [⟨50, 0, [⟨.driver, 5, 4, 20000, []⟩]⟩] } with now := 60 }, 1, ⟨50, 0,
  [⟨.driver, 5, 4, 20000, []⟩]⟩, by decide +kernel⟩

theorem test_commitFenceEffect2 : ∃ (s : State) (ses : Nat) (p : PendSet) (w : Wr) (d : Deny) (rest : List (Wr × Deny)),
  ses < 16 ∧ (s.stage ses).pend = [p] ∧ (s.stage ses).imm = [] ∧ p.tick ≤ s.now ∧ setsUpTo s p.tick p.order = [(ses, p)] ∧
  setFailures (s.putStage ses { s.stage ses with pend := [] }) ses p.writes = (w, d) :: rest :=
  ⟨{ up.putStage 1 { Stage.empty with pend := [⟨50, 0, [⟨.chFilter, 5, 1, 0xFFFF, []⟩]⟩] } with now := 60 }, 1, ⟨50, 0,
  [⟨.chFilter, 5, 1, 0xFFFF, []⟩]⟩, ⟨.chFilter, 5, 1, 0xFFFF, []⟩, (.outOfRange, 0), [], by decide +kernel⟩

theorem test_switchClose : ∃ (s : State) (cell : Nat), cell < Config.cells s.variant := ⟨up.modCell 3 (fun c =>
  { c with closing := [(0, 7), (9, 8)] }), 3, by decide +kernel⟩

theorem test_clampOnset : ∃ (s : State) (term : Nat), term / 32 < Config.cells s.variant ∧ bit (s.nat .routeStatus (term /
  32) 1) (term % 32) = false ∧ s.canRaise (term / 32) := ⟨up, 37, by decide +kernel⟩

theorem test_clampRelease : ∃ (s : State) (term tick : Nat), term / 32 < Config.cells s.variant ∧ bit (s.nat .routeStatus
  (term / 32) 1) (term % 32) = true ∧ tick + 15 * s.modPeriod (term / 32) ≤ s.now :=
  ⟨{ up.setNum .routeStatus 1 1 32 with now := 500 }, 37, 400, by decide +kernel⟩

theorem test_clampLatchedClear : ∃ (s : State) (ses cell : Nat) (bs : Bytes), s.serves ses ∧ s.power.inReset = false ∧
  cell < Config.cells s.variant ∧ bs.length = 4 ∧ s.nat .routeStatus cell 2 < 2 ^ 32 := ⟨up.setNum .routeStatus 23 2 255, 0,
  23, [15, 0, 0, 0], by decide +kernel⟩

theorem test_excitationOutOfRegulation : ∃ (s : State) (unit : ExcUnit) (tick conditions : Nat), s.hasExc unit = true ∧
  s.nat (excObj unit).1 (excObj unit).2 1 ≠ 0 ∧ bit (s.nat (excObj unit).1 (excObj unit).2 (excStateSub unit)) 0 = false ∧
  Sparse.get s.excSettle (excId unit) 0 ≤ tick ∧ tick + 7 * s.modPeriod (excPlace unit).1 ≤ s.now ∧ (conditions &&& excBits
  s unit ≠ 0 ∨ excClamped s unit tick (tick + 8 * s.modPeriod (excPlace unit).1) true = true) :=
  ⟨{ up.setNum .driver 9 1 1 with now := 100 }, .driver 2 1, 10, 6, by decide +kernel⟩

theorem test_excitationRegulationLeave : ∃ (s : State) (unit : ExcUnit) (tick : Nat), s.hasExc unit = true ∧ bit (s.nat
  (excObj unit).1 (excObj unit).2 (excStateSub unit)) 0 = true ∧ tick + 63 * s.modPeriod (excPlace unit).1 ≤ s.now ∧
  excClamped s unit tick (tick + 64 * s.modPeriod (excPlace unit).1) false = false :=
  ⟨{ up.setNum .bias 17 4 3 with now := 1000 }, .bias 1 1, 10, by decide +kernel⟩

theorem test_overloadOnset : ∃ (s : State) (ch start : Nat) (neg : Bool) (ds : List OvlDue), ch < 384 ∧ (s.chan
  ch).ovl.due = .onset start neg :: ds := ⟨up.modChan 5 (fun c =>
  { c with ovl := { Ovl.init with due := [.onset 40 true] } }), 5, 40, true, [], by decide +kernel⟩

theorem test_overloadResetEnd : ∃ (s : State) (ch tick : Nat) (ds : List OvlDue), (s.chan ch).ovl.due = .resetEnd tick ::
  ds := ⟨up.modChan 5 (fun c => { c with ovl := { Ovl.init with due := [.resetEnd 40] } }), 5, 40, [], by decide +kernel⟩

theorem test_overloadRelease : ∃ (s : State) (ch tick : Nat) (ds : List OvlDue), (s.chan ch).ovl.due = .release tick :: ds
  := ⟨up.modChan 5 (fun c =>
  { c with ovl := { Ovl.init with due := [.release 40] }, flags := [⟨7, .overload true, 4, none⟩] }), 5, 40, [],
  by decide +kernel⟩

theorem test_spareResetEnd : ∃ (s : State) (cell due : Nat), (s.cell cell).spareDue = some due ∧ due ≤ s.now :=
  ⟨up.modCell 3 (fun c => { c with spareDue := some 0 }), 3, 0, by decide +kernel⟩

theorem test_pullPhaseEnd : ∃ (s : State) (cell : Nat) (microvolts : List Int), Config.hasPull s.variant = true ∧ cell <
  Config.cells s.variant ∧ s.now % pullLen s cell s.now = pullLen s cell s.now / 2 ∧ pullLen s cell s.now ≤ s.now ∧
  lastSwitch s cell s.now ≤ s.now - pullLen s cell s.now := ⟨{ up with now := 192 }, 3, [0, 5], by decide +kernel⟩

theorem test_openWireDetected : ∃ (s : State) (ch start due : Nat), ch < 384 ∧ (s.chan ch).pull.declareDue = some (start,
  due) := ⟨up.modChan 5 (fun c => { c with pull := { c.pull with declareDue := some (4, 8) } }), 5, 4, 8, by decide +kernel⟩

theorem test_openWirePullRelease : ∃ (s : State) (ch due : Nat), (s.chan ch).pull.on = true ∧ (s.chan ch).pull.releaseDue
  = some due := ⟨up.modChan 5 (fun c => { c with pull := { c.pull with on := true, releaseDue := some 8 } }), 5, 8,
  by decide +kernel⟩

theorem test_railStickOnset : ∃ (s : State) (ch : Nat) (run : RailRun), ch < Config.channels s.variant ∧ railRun s ch run
  true = true ∧ (s.chan ch).rail = false ∧ run.tick + 63 * s.modPeriod (cellOfCh ch) ≤ s.now :=
  ⟨{ up.setNum .chFront 5 9 3 with now := 1000 }, 5, ⟨10, List.replicate 64 2⟩, by decide +kernel⟩

theorem test_railStickRelease : ∃ (s : State) (ch : Nat) (run : RailRun), ch < Config.channels s.variant ∧ railRun s ch
  run false = true ∧ (s.chan ch).rail = true ∧ run.tick + 63 * s.modPeriod (cellOfCh ch) ≤ s.now :=
  ⟨{ up.modChan 5 (fun c => { c with rail := true }) with now := 1000 }, 5, ⟨10, List.replicate 64 4⟩, by decide +kernel⟩

theorem test_referenceReady : ∃ (s : State) (cell due : Nat), cell < 24 ∧ (s.cell cell).readyDue = some due ∧ due ≤ s.now
  := ⟨up.modCell 3 (fun c => { c with readyDue := some 0 }), 3, 0, by decide +kernel⟩

theorem test_powerModeSwitch : ∃ (s : State) (cell due mode : Nat), cell < 24 ∧ (s.cell cell).modeDue = some (due, mode) ∧
  due ≤ s.now := ⟨up.modCell 3 (fun c => { c with modeDue := some (0, 1) }), 3, 0, 1, by decide +kernel⟩

theorem test_auxReferenceReady : ∃ (s : State) (due : Nat), s.aux.readyDue = some due ∧ due ≤ s.now :=
  ⟨{ up with aux := { up.aux with readyDue := some 0 } }, 0, by decide +kernel⟩

theorem test_auxPowerModeSwitch : ∃ (s : State) (due : Nat) (m : Bool), s.aux.modeDue = some (due, m) ∧ due ≤ s.now :=
  ⟨{ up with aux := { up.aux with modeDue := some (0, true) } }, 0, true, by decide +kernel⟩

theorem test_calibrationClaim : ∃ (s : State), calWants (dropClaims s) = true ∧ s.aux.claim = 0 ∧ s.aux.inj = [] ∧
  s.aux.injRun = none := ⟨{ up with aux := { up.aux with claims := [(0, none)] } }, by decide +kernel⟩

theorem test_calibrationClaim2 : ∃ (s : State), calWants (dropClaims s) = true ∧ s.aux.claim = 0 ∧ (s.aux.inj ≠ [] ∨
  s.aux.injRun ≠ none) := ⟨{ up with aux := { up.aux with claims := [(0, none)], inj := [(256, 0)] } }, by decide +kernel⟩

theorem test_calibrationStepEnd : ∃ (s : State) (c : Nat × Option Nat), s.aux.claim = 2 ∧ s.aux.stepStart ≤ s.now ∧ s.now
  ≤ s.aux.stepStart + calStep ∧ s.aux.claims = [c] :=
  ⟨{ up with now := 24, aux := { up.aux with claim := 2, claims := [(0, some 3)] } }, (0, some 3), by decide +kernel⟩

theorem test_auxScanStart : ∃ (s : State), s.nat .aux 0 5 ≠ 0 ∧ s.now % scanPeriod s s.now = 0 ∧ s.aux.looked ≠ some s.now
  ∧ s.aux.claim = 0 ∧ s.aux.scan = none := ⟨{ up.setNum .aux 0 5 1 with now := 24576 }, by decide +kernel⟩

theorem test_auxScanStart2 : ∃ (s : State), s.nat .aux 0 5 ≠ 0 ∧ s.now % scanPeriod s s.now = 0 ∧ s.aux.looked ≠ some
  s.now ∧ s.aux.claim = 0 ∧ s.aux.scan.isSome = true :=
  ⟨{ up.setNum .aux 0 5 1 with now := 24576, aux := { up.aux with scan := some 0 } }, by decide +kernel⟩

theorem test_auxScanStart3 : ∃ (s : State), s.nat .aux 0 5 ≠ 0 ∧ s.now % scanPeriod s s.now = 0 ∧ s.aux.looked ≠ some
  s.now ∧ s.aux.claim ≠ 0 := ⟨{ up.setNum .aux 0 5 1 with now := 24576, aux := { up.aux with claim := 2 } },
  by decide +kernel⟩

theorem test_auxEntryComplete : ∃ (s : State) (values : List Int) (start b : Nat), s.aux.scan = some start ∧
  s.aux.entryStart = some b ∧ 1 ≤ s.aux.entry ∧ s.aux.entry ≤ 64 ∧ values.length = 2 ^ aAvg (s.aux.seq.getD (s.aux.entry -
  1) 0) ∧ entryEnd s (s.aux.seq.getD (s.aux.entry - 1) 0) b ≤ s.now :=
  ⟨{ up with now := 24576, aux := { up.aux with scan := some 0, entryStart := some 0, seq := [256] } }, [77], 0, 0,
  by decide +kernel⟩

theorem test_auxEntryComplete2 : ∃ (s : State) (values : List Int) (w b : Nat), s.aux.scan = none ∧ s.aux.injRun = some
  (w, b) ∧ values.length = 2 ^ aAvg w ∧ entryEnd s w b ≤ s.now :=
  ⟨{ up with now := 24576, aux := { up.aux with injRun := some (256, 24) } }, [77], 256, 24, by decide +kernel⟩

theorem test_injectedRequest : ∃ (s : State) (ses : Nat) (bs : Bytes), s.serves ses ∧ s.power.inReset = false ∧ bs.length
  = 4 ∧ auxWord s.variant (leNat bs) true = none ∧ s.aux.inj.length < 8 := ⟨up, 0, [0, 1, 0, 0], by decide +kernel⟩

theorem test_injectedRequest2 : ∃ (s : State) (ses : Nat) (bs : Bytes), s.serves ses ∧ s.power.inReset = false ∧ bs.length
  = 4 ∧ auxWord s.variant (leNat bs) true = none ∧ 8 ≤ s.aux.inj.length :=
  ⟨{ up with aux := { up.aux with inj := List.replicate 8 (256, 0) } }, 0, [0, 1, 0, 0], by decide +kernel⟩

theorem test_injectedFlush : ∃ (s : State) (ses : Nat) (bs : Bytes), s.serves ses ∧ s.power.inReset = false ∧ bs.length =
  1 := ⟨up, 0, [1], by decide +kernel⟩

theorem test_injectedRequestStart : ∃ (s : State) (w acc : Nat) (rest : List (Nat × Nat)), s.aux.inj = (w, acc) :: rest ∧
  s.aux.injRun = none ∧ injStart s acc ≤ s.now ∧ claimLets s.aux = true ∧ rest.length < 256 :=
  ⟨{ up with now := 100, aux := { up.aux with inj := [(256, 0)] } }, 256, 0, [], by decide +kernel⟩

theorem test_sampleEmitted : ∃ (s : State) (ch k g : Nat), ch < Config.channels s.variant ∧ (s.cell (cellOfCh ch)).lost =
  [] ∧ nextSample (settleChan s ch) ch = some (k, g) := ⟨sampled, 5, 1, (4 * (decW (State.dwOf up 5)).D), by decide +kernel⟩

theorem test_thresholdCrossing : ∃ (s : State) (ch cmp : Nat) (x : Crossing) (xs : List Crossing), ch < 384 ∧ cmp < 2 ∧
  (s.chan ch).crossings = x :: xs ∧ x.cmp = cmp := ⟨up.modChan 5 (fun c =>
  { c with crossings := [⟨1, true, 3, 2, 128, 64⟩] }), 5, 1, ⟨1, true, 3, 2, 128, 64⟩, [], by decide +kernel⟩

theorem test_slatePerformed : ∃ (s : State) (tick : Nat), s.clk.slates = [tick] ∧ tick ≤ s.now :=
  ⟨{ up with now := 50, clk := { up.clk with slates := [48] } }, 48, by decide +kernel⟩

theorem test_incrementWrite : ∃ (s : State) (ses : Nat) (bs : Bytes), s.serves ses ∧ s.power.inReset = false ∧ bs.length =
  8 ∧ s.nat .localClock 0 3 = 1 ∧ s.nat .localClock 0 4 = 0 := ⟨(up.setNum .localClock 0 3 1).setNum .localClock 0 4 0, 0,
  [1, 2, 3, 4, 5, 0, 0, 0], by decide +kernel⟩

theorem test_incrementWrite2 : ∃ (s : State) (ses : Nat) (bs : Bytes), s.serves ses ∧ s.power.inReset = false ∧ bs.length
  = 8 ∧ (s.nat .localClock 0 3 ≠ 1 ∨ s.nat .localClock 0 4 ≠ 0) := ⟨up, 0, [1, 2, 3, 4, 5, 0, 0, 0], by decide +kernel⟩

theorem test_rateAdjustmentWrite : ∃ (s : State) (ses : Nat) (bs : Bytes), s.serves ses ∧ s.power.inReset = false ∧
  bs.length = 4 ∧ (s.nat .localClock 0 3 ≠ 1 ∨ s.nat .localClock 0 4 ≠ 1) := ⟨up, 0, [0, 0, 0, 0], by decide +kernel⟩

theorem test_clockStep : ∃ (s : State) (ses : Nat) (bs : Bytes), s.serves ses ∧ s.power.inReset = false ∧ bs.length = 8 ∧
  (s.nat .localClock 0 3 ≠ 1 ∨ s.nat .localClock 0 4 ≠ 1 ∨ s.clk.stepDone = true) := ⟨up, 0, [0, 0, 0, 0, 0, 0, 0, 0],
  by decide +kernel⟩

theorem test_rateAdjustmentWrite2 : ∃ (s : State) (ses : Nat) (bs : Bytes), s.serves ses ∧ s.power.inReset = false ∧
  bs.length = 4 ∧ -100000000 ≤ Ty.decode .i32 bs ∧ Ty.decode .i32 bs ≤ 100000000 ∧ s.nat .localClock 0 3 = 1 ∧ s.nat
  .localClock 0 4 = 1 := ⟨up.setNum .localClock 0 3 1, 0, [0x18, 0xFC, 0xFF, 0xFF], by decide +kernel⟩

theorem test_clockStep2 : ∃ (s : State) (ses : Nat) (bs : Bytes), s.serves ses ∧ s.power.inReset = false ∧ bs.length = 8 ∧
  s.nat .localClock 0 3 = 1 ∧ s.nat .localClock 0 4 = 1 ∧ s.clk.stepDone = false := ⟨up.setNum .localClock 0 3 1, 0, [0x18,
  0xFC, 0xFF, 0xFF, 0xFF, 0xFF, 0xFF, 0xFF], by decide +kernel⟩

theorem test_correctionModeWrite : ∃ (s : State) (ses m : Nat), s.serves ses ∧ s.power.inReset = false ∧ m ≤ 1 := ⟨up, 0,
  0, by decide +kernel⟩

theorem test_servoOwnerWrite : ∃ (s : State) (ses m : Nat), s.serves ses ∧ s.power.inReset = false ∧ m ≤ 1 := ⟨up, 0, 1,
  by decide +kernel⟩

theorem test_ptpSyncReceived : ∃ (s : State) (i : Nat) (rx : Rx) (m : PtpMsg), inboxPtp s rx.port (syncNamed m.domain
  m.sender m.time m.corr) = some (i, rx, m) ∧ rx.port = ptpUpstream s ∧ (ptpMaster s).map (·.sender) = some m.sender ∧
  m.kind = .sync ∧ m.twoStep = false ∧ s.nat .clock 0 2 = 0 := ⟨ptpHeard { ptpMsg .sync with time := 1000 }, 0, ptpRx
  { ptpMsg .sync with time := 1000 }, { ptpMsg .sync with time := 1000 }, by decide +kernel⟩

theorem test_ptpSyncReceived2 : ∃ (s : State) (i : Nat) (rx : Rx) (m : PtpMsg), inboxPtp s rx.port (syncNamed m.domain
  m.sender m.time m.corr) = some (i, rx, m) ∧ rx.port = ptpUpstream s ∧ (ptpMaster s).map (·.sender) = some m.sender ∧
  m.kind = .sync ∧ m.twoStep = true ∧ s.nat .clock 0 2 = 0 := ⟨ptpHeard { ptpMsg .sync with twoStep := true }, 0, ptpRx
  { ptpMsg .sync with twoStep := true }, { ptpMsg .sync with twoStep := true }, by decide +kernel⟩

theorem test_ptpSyncReceived3 : ∃ (s : State) (i : Nat) (rx : Rx) (m : PtpMsg) (t2 corr : Int), inboxPtp s rx.port
  (syncNamed m.domain m.sender m.time m.corr) = some (i, rx, m) ∧ rx.port = ptpUpstream s ∧ (ptpMaster s).map (·.sender) =
  some m.sender ∧ m.kind = .followUp ∧ s.clk.twoStep = some (m.seq, t2, corr) ∧ s.nat .clock 0 2 = 0 :=
  ⟨{ ptpHeard (ptpMsg .followUp) with clk := { ptpUp.clk with twoStep := some (1, 5, 6) } }, 0, ptpRx (ptpMsg .followUp),
  ptpMsg .followUp, 5, 6, by decide +kernel⟩

theorem test_announceReceived : ∃ (s : State) (i : Nat) (rx : Rx) (m : PtpMsg) (a : PtpAnnounce), inboxPtp s rx.port
  (announceNamed m.domain a) = some (i, rx, m) ∧ rx.port = ptpUpstream s := ⟨ptpHeard
  { ptpMsg .announce with announce := some master77 }, 0, ptpRx { ptpMsg .announce with announce := some master77 },
  { ptpMsg .announce with announce := some master77 }, master77, by decide +kernel⟩

theorem test_delayReqSend : ∃ (s : State), s.nat .clock 0 2 = 0 ∧ s.has .ptpPort (ptpUpstream s) = true ∧ s.nat .ptpPort
  (ptpUpstream s) 1 = 1 ∧ portReady s (ptpUpstream s) = true ∧ s.clk.syncT.isSome = true ∧ s.clk.lastReq + logTicks (s.num
  .clock 0 9) ≤ s.now :=
  ⟨{ ptpUp.setNum .link 0 3 2 with now := 1000000000, clk := { ptpUp.clk with syncT := some (5, 6) } }, by decide +kernel⟩

theorem test_delayRespReceived : ∃ (s : State) (i : Nat) (rx : Rx) (m : PtpMsg) (t1 t2 t3 : Int), inboxPtp s rx.port
  (delayRespNamed m.time m.corr) = some (i, rx, m) ∧ s.clk.syncT = some (t1, t2) ∧ s.clk.reqT = some t3 ∧ s.nat .clock 0 2 =
  0 ∧ rx.port = ptpUpstream s ∧ m.asker = s.nat .clock 0 6 ∧ m.seq = s.clk.reqSeq :=
  ⟨{ ptpHeard delayAnswer with clk := { ptpUp.clk with syncT := some (5, 6), reqT := some 9, reqSeq := 1 } }, 0, ptpRx
  delayAnswer, delayAnswer, 5, 6, 9, by decide +kernel⟩

theorem test_pdelayMeasurement : ∃ (s : State) (port : Nat), s.nat .clock 0 2 = 1 ∧ s.has .ptpPort port = true ∧ s.nat
  .ptpPort port 1 = 1 ∧ (s.nat .link port 3 = 1 ∨ s.nat .link port 3 = 2) ∧ s.clk.pdelay.length = 3 ∧ port < 3 ∧
  (s.clk.pdelay.getD port ⟨0, 0, none, none⟩).last + logTicks (s.num .clock 0 10) ≤ s.now :=
  ⟨{ (ptpUp.setNum .link 0 3 2).setNum .clock 0 2 1 with now := 1000000000 }, 0, by decide +kernel⟩

theorem test_pdelayMeasurement2 : ∃ (s : State) (port i : Nat) (rx : Rx) (m : PtpMsg) (t1 : Int), s.nat .clock 0 2 = 1 ∧
  s.has .ptpPort port = true ∧ s.nat .ptpPort port 1 = 1 ∧ (s.nat .link port 3 = 1 ∨ s.nat .link port 3 = 2) ∧ inboxPdelay s
  port = some (i, rx, m) ∧ m.kind = .pdelayResp ∧ m.twoStep = false ∧ (s.clk.pdelay.getD port ⟨0, 0, none, none⟩).t1 = some
  t1 ∧ m.asker = s.nat .clock 0 6 ∧ m.seq = (s.clk.pdelay.getD port ⟨0, 0, none, none⟩).seq ∧ s.clk.linkOk.length = 3 ∧ port
  < 3 :=
  ⟨{ ((ptpHeard pdelayAnswer).setNum .link 0 3 2).setNum .clock 0 2 1 with clk := { ptpUp.clk with pdelay := [⟨1, 0, some 5, none⟩, ⟨0, 0, none, none⟩, ⟨0, 0, none, none⟩] } },
  0, 0, ptpRx pdelayAnswer, pdelayAnswer, 5, by decide +kernel⟩

theorem test_grandmasterSyncSend : ∃ (s : State), s.isManager = true ∧ s.nat .clock 0 3 = 1 ∧ s.clk.lastGmSync + logTicks
  (s.num .clock 0 7) ≤ s.now ∧ s.clk.lastGmAnnounce + logTicks (s.num .clock 0 8) ≤ s.now :=
  ⟨{ (up.setNum .role 0 2 1).setNum .clock 0 3 1 with now := 1000000000 }, by decide +kernel⟩

theorem test_syncTimeout : ∃ (s : State), s.clk.lastSync + 3 * logTicks (s.num .clock 0 7) ≤ s.now ∧ hasMaster s = true :=
  ⟨{ up.setNum .localClock 0 14 3 with now := 1000000000 }, by decide +kernel⟩

theorem test_announceReceiptTimeout : ∃ (s : State), s.clk.lastAnnounce + s.nat .clock 0 11 * logTicks (s.num .clock 0 8)
  ≤ s.now ∧ hasMaster s = true := ⟨{ up.setNum .localClock 0 14 3 with now := 1000000000 }, by decide +kernel⟩

theorem test_gridEvaluation : ∃ (s : State), s.now % 24576 = 0 ∧ s.clk.evalAt ≠ some s.now := ⟨{ up with now := 24576 },
  by decide +kernel⟩

theorem test_holdoverGraceExpiry : ∃ (s : State), s.nat .grid 0 2 = 3 ∧ s.now % 24576 = 0 ∧ s.clk.graceFrom < s.now ∧
  s.clk.moved ≠ some s.now ∧ s.nat .localClock 0 14 ≠ 3 ∧ s.clk.graceFrom + msTicks (s.nat .grid 0 6) ≤ s.now :=
  ⟨{ up.setNum .grid 0 2 3 with now := 24576 * 100000 }, by decide +kernel⟩

theorem test_freeRunTimeout : ∃ (s : State), s.nat .grid 0 2 = 0 ∧ s.nat .grid 0 7 ≠ 0 ∧ hasMaster s = false ∧
  s.clk.anchorDue = none ∧ s.clk.aloneFrom + msTicks (s.nat .grid 0 7) ≤ s.now := ⟨{ up with now := 24576 * 100000 },
  by decide +kernel⟩

theorem test_gridAnchor : ∃ (s : State) (kind sec : Nat), s.clk.anchorDue = some kind ∧ kind ≤ 1 ∧ passedSecond s = some
  sec := ⟨{ up with clk := { up.clk with anchorDue := some 1, local_ := 5000000003 } }, 1, 5, by decide +kernel⟩

theorem test_reanchorCommand : ∃ (s : State) (ses : Nat), s.serves ses ∧ s.power.inReset = false ∧ (s.nat .grid 0 2 = 1 ∨
  s.nat .grid 0 2 = 4 ∨ s.nat .grid 0 2 = 5) := ⟨up.setNum .grid 0 2 5, 0, by decide +kernel⟩

theorem test_reanchorCommand2 : ∃ (s : State) (ses : Nat), s.serves ses ∧ s.power.inReset = false ∧ (s.nat .grid 0 2 = 0 ∨
  s.nat .grid 0 2 = 2 ∨ s.nat .grid 0 2 = 3) := ⟨up, 0, by decide +kernel⟩

theorem test_reanchorStart : ∃ (s : State) (r : Nat), s.clk.reanchorCmd = some r ∧ s.now % 24576 = 0 ∧ r < s.now :=
  ⟨{ up with now := 24576, clk := { up.clk with reanchorCmd := some 3 } }, 3, by decide +kernel⟩

theorem test_slateRequest : ∃ (s : State) (ses : Nat) (bs : Bytes), s.serves ses ∧ s.power.inReset = false ∧ bs.length = 8
  ∧ anchored s = true ∧ s.now + s.nat .slate 0 4 ≤ leNat bs := ⟨up.setNum .grid 0 2 2, 0, [0, 0, 16, 0, 0, 0, 0, 0],
  by decide +kernel⟩

theorem test_slateRequest2 : ∃ (s : State) (ses : Nat) (bs : Bytes), s.serves ses ∧ s.power.inReset = false ∧ bs.length =
  8 ∧ (anchored s = false ∨ leNat bs < s.now + s.nat .slate 0 4) := ⟨up, 0, [0, 0, 1, 0, 0, 0, 0, 0], by decide +kernel⟩

theorem test_slateBallEdge : ∃ (s : State) (edge : Moment), s.nat .slate 0 2 = 1 ∧ edge.tick + 25 ≤ s.now ∧ anchored s =
  true := ⟨{ (up.setNum .grid 0 2 2).setNum .slate 0 2 1 with now := 100 }, ⟨50, 7⟩, by decide +kernel⟩

theorem test_zoneSlate : ∃ (s : State) (ses : Nat) (bs : Bytes), s.serves ses ∧ s.power.inReset = false ∧ s.isManager =
  true ∧ bs.length = 8 ∧ anchored s = true ∧ s.now + s.nat .slate 0 4 ≤ leNat bs := ⟨(up.setNum .grid 0 2 2).setNum .role 0
  2 1, 0, [0, 0, 16, 0, 0, 0, 0, 0], by decide +kernel⟩

theorem test_slateConfirm : ∃ (s : State) (pos tick : Nat), s.isManager = true ∧ 1 ≤ pos ∧ pos ≤ 62 :=
  ⟨{ (up.setNum .role 0 2 1).setNum .zoneSlate 0 3 4 with clk := { up.clk with zones := [(4, 1)] } }, 62, 4,
  by decide +kernel⟩

theorem test_tpoLeadingEdge : ∃ (s : State) (p i : Nat), p < 8 ∧ (s.tpo p).next = some i ∧ tpoPlace s (s.nat .tpo p 2)
  (tpoEdge s p i) < 1 ∧ (s.tpo p).pulse = none ∧ (s.nat .tpo p 11 ≠ 1 ∨ (s.nat .grid 0 2 ≠ 1 ∧ s.nat .grid 0 2 ≠ 4 ∧ s.nat
  .grid 0 2 ≠ 5)) := ⟨up.modTpo 3 (fun x => { x with next := some 0 }), 3, 0, by decide +kernel⟩

theorem test_tpoLeadingEdge2 : ∃ (s : State) (p i : Nat), p < 8 ∧ (s.tpo p).next = some i ∧ tpoPlace s (s.nat .tpo p 2)
  (tpoEdge s p i) < 1 ∧ (s.tpo p).pulse = none ∧ s.nat .tpo p 11 = 1 ∧ (s.nat .grid 0 2 = 1 ∨ s.nat .grid 0 2 = 4 ∨ s.nat
  .grid 0 2 = 5) := ⟨((up.setNum .tpo 3 11 1).setNum .grid 0 2 4).modTpo 3 (fun x => { x with next := some 0 }), 3, 0,
  by decide +kernel⟩

theorem test_tpoTrailingEdge : ∃ (s : State) (p tb pol : Nat) (e : Int), (s.tpo p).pulse = some (e, tb, pol) ∧ tpoPlace s
  tb e < 1 ∧ (tb = 0 ∨ (s.tpo p).lead + 100 / localStep s < (s.now : Rat) + 1) ∧ (s.tpo p).rearm = false :=
  ⟨{ up.modTpo 3 (fun x => { x with pulse := some (5, 0, 0) }) with now := 9 }, 3, 0, 0, 5, by decide +kernel⟩

theorem test_tpoTrailingEdge2 : ∃ (s : State) (p tb pol : Nat) (e : Int), (s.tpo p).pulse = some (e, tb, pol) ∧ tpoPlace s
  tb e < 1 ∧ (tb = 0 ∨ (s.tpo p).lead + 100 / localStep s < (s.now : Rat) + 1) ∧ (s.tpo p).rearm = true :=
  ⟨{ up.modTpo 3 (fun x => { x with pulse := some (5, 0, 0), rearm := true }) with now := 9 }, 3, 0, 0, 5,
  by decide +kernel⟩

theorem test_crossFadeEnd : ∃ (s : State) (ch : Nat) (f : Fade), ch < Config.channels s.variant ∧ (s.chan ch).fade = some
  f ∧ f.left = 0 ∧ (s.chan ch).fadeWait = [] := ⟨up.modChan 5 (fun c => { c with fade := some ⟨9, 9, 0, 1, 0⟩ }), 5, ⟨9, 9,
  0, 1, 0⟩, by decide +kernel⟩

theorem test_decimationSwitch : ∃ (s : State) (ch tick w : Nat), ch < Config.channels s.variant ∧ (s.chan ch).sched =
  [⟨tick, .dec, w, true⟩] ∧ tick ≤ s.now ∧ tick < 4 * (decW (s.chan ch).use.dw).D * (s.chan ch).nextK :=
  ⟨{ up.modChan 5 (fun c => { c with nextK := 1000, sched := [⟨512, .dec, 0x10, true⟩] }) with now := 600 }, 5, 512, 0x10,
  by decide +kernel⟩

theorem test_ptpForward : ∃ (s : State) (port sub c : Nat) (o : OutFrame) (r : List OutFrame) (m : PtpMsg),
  s.net.ports.length = 3 ∧ port < 3 ∧ nextFrame (s.port port) = some (c, o, r) ∧ o.frame.content = .ptp m ∧ o.own = false ∧
  s.nat .ptpPort port 1 = 1 ∧ s.nat .ptpPort o.inPort 1 = 1 ∧ correctedKind s m.kind = true ∧ s.nat .clock 0 2 = 0 ∧ (m.kind
  ≠ .sync ∨ m.twoStep = false) := ⟨ptpOut (ptpMsg .sync), 1, 7, 0, ptpFrame (ptpMsg .sync), [], ptpMsg .sync,
  by decide +kernel⟩

theorem test_ptpForward2 : ∃ (s : State) (port sub c : Nat) (o : OutFrame) (r : List OutFrame) (m : PtpMsg),
  s.net.ports.length = 3 ∧ port < 3 ∧ nextFrame (s.port port) = some (c, o, r) ∧ o.frame.content = .ptp m ∧ o.own = false ∧
  s.nat .ptpPort port 1 = 1 ∧ s.nat .ptpPort o.inPort 1 = 1 ∧ s.nat .clock 0 2 = 0 ∧ m.kind = .sync ∧ m.twoStep = true :=
  ⟨ptpOut { ptpMsg .sync with twoStep := true }, 1, 7, 0, ptpFrame { ptpMsg .sync with twoStep := true }, [],
  { ptpMsg .sync with twoStep := true }, by decide +kernel⟩

theorem test_queuePush : ∃ (s : State) (q data : Nat) (eoi : Bool), hasQueue s q = true ∧ 96 ≤ q ∧ (q < 162 ∨ 193 ≤ q) ∧
  (s.queue q).pushing = none ∧ (s.queue q).dropIn = false ∧ (s.queue q).popWaiting = false ∧ (s.queue q).words.length <
  queueDepth q := ⟨up, 100, 77, true, by decide +kernel⟩

theorem test_queuePush2 : ∃ (s : State) (q data : Nat) (eoi : Bool), hasQueue s q = true ∧ 96 ≤ q ∧ (q < 162 ∨ 193 ≤ q) ∧
  (s.queue q).pushing = none ∧ (s.queue q).dropIn = false ∧ (s.queue q).popWaiting = false ∧ queueDepth q ≤ (s.queue
  q).words.length := ⟨up.putQueue 100 { Queue.empty with words := List.replicate 16 ⟨1, true, none⟩ }, 100, 77, true,
  by decide +kernel⟩

theorem test_queuePush3 : ∃ (s : State) (q data cell core : Nat) (eoi : Bool) (u : State) (w : QWord), hasQueue s q = true
  ∧ (s.queue q).pushing = none ∧ cellQueue q = some (cell, core) ∧ cellWord s cell (2 * (q / 48) + core) data = some (u, w)
  ∧ (u.queue q).dropIn = false ∧ (u.queue q).pushing = none ∧ (u.queue q).popWaiting = false ∧ (u.queue q).words.length <
  queueDepth q := ⟨up, 3, 77, 3, 0, true, up.putEmit 3 0 { Emit.init with next := 77, left := 32 }, ⟨77, false, none⟩,
  by decide +kernel⟩

theorem test_queuePush4 : ∃ (s : State) (q data cell core : Nat) (eoi : Bool), cellQueue q = some (cell, core) ∧ cellWord
  s cell (2 * (q / 48) + core) data = none := ⟨up, 51, 77, 3, 0, true, by decide +kernel⟩

theorem test_queuePop : ∃ (s : State) (q : Nat) (w : QWord) (ws : List QWord), hasQueue s q = true ∧ q < 195 ∧ (q < 162 ∨
  193 ≤ q) ∧ (96 ≤ q ∨ w.eoi = false) ∧ (s.queue q).popWaiting = false ∧ (s.queue q).pushing = none ∧ (s.queue q).dropToMark
  = false ∧ flushing s q = false ∧ (s.queue q).words = w :: ws := ⟨up.putQueue 100
  { Queue.empty with words := [⟨1, true, none⟩] }, 100, ⟨1, true, none⟩, [], by decide +kernel⟩

theorem test_queuePop2 : ∃ (s : State) (q : Nat) (ecc : Ecc), hasQueue s q = true ∧ (q < 162 ∨ 193 ≤ q) ∧ (s.queue
  q).popWaiting = false ∧ (s.queue q).words = [] := ⟨up, 100, .good, by decide +kernel⟩

theorem test_cellItemAbandon : ∃ (s : State) (q : Nat) (w : QWord), q < 96 ∧ hasQueue s q = true ∧ (s.queue q).pushing =
  some w := ⟨up.putQueue 5 { Queue.empty with pushing := some ⟨1, false, none⟩ }, 5, ⟨1, false, none⟩, by decide +kernel⟩

theorem test_flush : ∃ (s : State) (ses q : Nat), s.serves ses ∧ s.power.inReset = false ∧ s.has .queue q = true ∧
  flushing s q = false ∧ (s.queue q).item = [] ∧ (s.queue q).words = [] ∧ (s.queue q).pushing = none := ⟨up, 0, 3,
  by decide +kernel⟩

theorem test_flush2 : ∃ (s : State) (ses q : Nat), s.serves ses ∧ s.power.inReset = false ∧ s.has .queue q = true ∧ 48 ≤ q
  ∧ q < 96 ∧ flushing s q = false := ⟨up.putQueue 50 { Queue.empty with words := [⟨1, true, none⟩] }, 0, 50,
  by decide +kernel⟩

theorem test_flushComplete : ∃ (s : State) (q : Nat), q < 195 ∧ flushing s q = true ∧ (s.queue q).dropIn = false ∧
  (s.queue q).popWaiting = false := ⟨up.setNum .queue 3 11 1, 3, by decide +kernel⟩

theorem test_peakOccupancyClear : ∃ (s : State) (ses q : Nat) (bs : Bytes), s.serves ses ∧ s.power.inReset = false ∧ s.has
  .queue q = true ∧ bs.length = 1 := ⟨up.setNum .queue 3 3 9, 0, 3, [0], by decide +kernel⟩

theorem test_eventRouted : ∃ (s : State) (island : Nat) (w : QWord) (ws : List QWord) (e : EvItem), island < 31 ∧ hasQueue
  s (162 + island) = true ∧ flushing s (162 + island) = false ∧ (s.queue (162 + island)).words = w :: ws ∧ w.eoi = true ∧
  (s.queue (162 + island)).item = [] ∧ (s.queue (162 + island)).pushing = none ∧ (s.queue (162 + island)).dropToMark = false
  ∧ w.ev = some e := ⟨up.putQueue 186 { Queue.empty with words := [⟨0, true, some ⟨50, 1, 0, 5⟩⟩] }, 24, ⟨0, true, some ⟨50,
  1, 0, 5⟩⟩, [], ⟨50, 1, 0, 5⟩, by decide +kernel⟩

theorem test_routeLineDelivery : ∃ (s : State) (line : RouteLine) (o : RouteOcc) (rest : List RouteOcc), s.ev.lines.getD
  (lineIdx line) [] = o :: rest := ⟨{ up with ev := { up.ev with lines := [[⟨50, 1, 0, .pulse⟩], [], [], []] } }, .dma, ⟨50,
  1, 0, .pulse⟩, [], by decide +kernel⟩

theorem test_clearFaultLatches : ∃ (s : State) (ses : Nat), s.serves ses ∧ s.power.inReset = false :=
  ⟨{ up with ev := { up.ev with latches := [66] } }, 0, by decide +kernel⟩

theorem test_raiseSoftwareEvent : ∃ (s : State) (ses n : Nat), s.serves ses ∧ s.power.inReset = false ∧ n < 8 ∧ s.canRaise
  29 := ⟨up, 15, 7, by decide +kernel⟩

theorem test_stickyFlagsClear : ∃ (s : State) (ses ch : Nat) (bs : Bytes), s.serves ses ∧ s.power.inReset = false ∧ ch <
  Config.channels s.variant ∧ bs.length = 1 ∧ s.nat .chStatus ch 5 < 256 := ⟨up.setNum .chStatus 383 5 255, 0, 383, [0x81],
  by decide +kernel⟩

theorem test_recordComplete : ∃ (s : State) (seq : Nat) (emergencyOk : Bool) (r : PendRec), s.ev.recs.find? (fun r =>
  r.seq == seq) = some r ∧ s.ev.failMain.contains (seq % 2048) = false := ⟨heldRec, 5, true, rec5, by decide +kernel⟩

theorem test_recordComplete2 : ∃ (s : State) (seq e : Nat) (mainOk : Bool) (r : PendRec), s.ev.recs.find? (fun r => r.seq
  == seq) = some r ∧ s.ev.failMain.contains (seq % 2048) = true ∧ nextEmergency s = some e ∧ e < 32 :=
  ⟨{ heldRec with ev := { heldRec.ev with failMain := [5] } }, 5, 0, false, rec5, by decide +kernel⟩

theorem test_recordSnapshotTimeout : ∃ (s : State) (seq : Nat) (missing : List Nat) (r : PendRec), s.ev.recs = [r] ∧ r.seq
  = seq ∧ r.tick + 24576 ≤ s.now ∧ (List.range r.words.length).filter (missing.contains ·) ≠ [] :=
  ⟨{ heldRec with now := 90000 }, 5, [0], rec5, by decide +kernel⟩

theorem test_recorderSlotRead : ∃ (s : State) (slot : Nat), slot < 2048 := ⟨up, 2047, by decide +kernel⟩

theorem test_recorderSlotRead2 : ∃ (s : State) (slot : Nat), slot < 32 ∧ s.ev.failEmer.contains slot = false := ⟨up, 31,
  by decide +kernel⟩

theorem test_dinFilterAccept : ∃ (s : State) (i : Nat) (edge : Moment) (run : Nat) (ball : Bool) (d : DinSt), i < 16 ∧
  Sparse.find s.dins i = some d ∧ d.fresh = false ∧ s.nat .din i 2 ≤ edge.tick + run - max edge.tick d.from_ ∧ max edge.tick
  d.from_ + s.nat .din i 2 ≤ s.now ∧ (ball != (s.nat .din i 1 == 1)) ≠ bit (s.nat .din i 4) 0 := ⟨withDin [] none, 3, ⟨100,
  7⟩, 30, true, (dinOf [] none), by decide +kernel⟩

theorem test_dinEdgeProcessed : ∃ (s : State) (i : Nat) (d : DinSt) (c : DinChange) (rest : List DinChange), i < 16 ∧
  Sparse.find s.dins i = some d ∧ d.changes = c :: rest ∧ d.proc = none ∧ c.accepted ≤ s.now := ⟨withDin [⟨125, 100, 7,
  true⟩] none, 3, (dinOf [⟨125, 100, 7, true⟩] none), ⟨125, 100, 7, true⟩, [], by decide +kernel⟩

theorem test_digitalInputStuck : ∃ (s : State) (i r : Nat) (d : DinSt), i < 16 ∧ Sparse.find s.dins i = some d ∧ d.runFrom
  = some r ∧ s.nat .din i 3 ≠ 0 ∧ isStuck d = false ∧ r + msTicks (s.nat .din i 3) ≤ s.now :=
  ⟨{ (withDin [] (some 5)).setNum .din 3 3 1 with now := 50000 }, 3, 5, (dinOf [] (some 5)), by decide +kernel⟩

theorem test_dinSettingWrite : ∃ (s : State) (ses i : Nat) (bs : Bytes) (d : DinSt), s.serves ses ∧ s.power.inReset =
  false ∧ i < 16 ∧ bs.length = 2 ∧ 25 ≤ leNat bs ∧ leNat bs ≤ 24576 ∧ s.num .din i 2 ≠ leNat bs ∧ Sparse.find s.dins i =
  some d := ⟨withDin [] none, 0, 3, [50, 0], (dinOf [] none), by decide +kernel⟩

theorem test_networkTrigger : ∃ (s : State) (ses k : Nat) (bs : Bytes), s.serves ses ∧ s.power.inReset = false ∧ k < 16 ∧
  bs.length = 8 ∧ s.nat .take k 5 / 4096 = 4 := ⟨up.setNum .take 3 5 0x4000, 0, 3, [9, 0, 0, 0, 0, 0, 0, 0],
  by decide +kernel⟩

theorem test_timeSourceInstance : ∃ (s : State) (k i : Nat), k < 16 ∧ (s.take k).timeNext = some i ∧ s.nat .take k 11 + i
  * s.nat .take k 12 ≤ s.now := ⟨{ up.modTake 3 (fun k => { k with timeNext := some 0 }) with now := 5 }, 3, 0,
  by decide +kernel⟩

theorem test_takeTriggerOccurrence : ∃ (s : State) (k : Nat) (o : Occ), (s.take k).starts = [o] ∧ o.tick ≤ s.now ∧ o.tick
  ∉ (s.take k).seen := ⟨up.modTake 3 (fun k => { k with starts := [⟨0, 0x4000, 0, .network⟩] }), 3, ⟨0, 0x4000, 0,
  .network⟩, by decide +kernel⟩

theorem test_takeTriggerOccurrence2 : ∃ (s : State) (k : Nat) (o : Occ), k < 16 ∧ (s.take k).starts = [o] ∧ o.tick ≤ s.now
  ∧ o.tick ∉ (s.take k).seen ∧ 1 ≤ histAt (s.take k).hist o.tick 0 ∧ histAt (s.take k).hist o.tick 0 ≤ 4 ∧ gateMet s k
  o.tick = false := ⟨(up.setNum .take 3 9 0x3000).modTake 3 (fun k =>
  { k with starts := [⟨0, 0x4000, 0, .network⟩], hist := [(0, 1)] }), 3, ⟨0, 0x4000, 0, .network⟩, by decide +kernel⟩

theorem test_takeTriggerOccurrence3 : ∃ (s : State) (k : Nat) (o : Occ), k < 16 ∧ (s.take k).starts = [o] ∧ o.tick ≤ s.now
  ∧ o.tick ∉ (s.take k).seen ∧ 2 ≤ histAt (s.take k).hist o.tick 0 ∧ histAt (s.take k).hist o.tick 0 ≤ 4 ∧ gateMet s k
  o.tick = true := ⟨up.modTake 3 (fun k => { k with starts := [⟨0, 0x4000, 0, .network⟩], hist := [(0, 2)] }), 3, ⟨0,
  0x4000, 0, .network⟩, by decide +kernel⟩

theorem test_takeStopOccurrence : ∃ (s : State) (k : Nat) (o : Occ) (f : Fill), (s.take k).stops = [o] ∧ o.tick ≤ s.now ∧
  (s.take k).fill = some f ∧ f.fillEnd = none ∧ f.stop = none ∧ f.pIn < trigPoint s f.d o.tick o.kind :=
  ⟨{ up.modTake 3 (fun k => { k with stops := [⟨0, 0x4000, 9, .network⟩], fill := some fill3 }) with now := 9 }, 3, ⟨0,
  0x4000, 9, .network⟩, fill3, by decide +kernel⟩

theorem test_releaseOffsetWrite : ∃ (s : State) (ses : Nat) (bs : Bytes), s.serves ses ∧ s.power.inReset = false ∧
  bs.length = 8 ∧ leNat bs % 64 = 0 ∧ s.nat .takeMem 0 6 ≤ leNat bs ∧ leNat bs ≤ s.nat .takeMem 0 5 := ⟨up.setNum .takeMem 0
  5 128, 0, [64, 0, 0, 0, 0, 0, 0, 0], by decide +kernel⟩

theorem test_largestSlackClear : ∃ (s : State) (ses k : Nat) (bs : Bytes), s.serves ses ∧ s.power.inReset = false ∧ k < 16
  ∧ bs.length = 8 := ⟨up.setNum .takeStat 3 12 9, 0, 3, [1, 0, 0, 0, 0, 0, 0, 0], by decide +kernel⟩

theorem test_takeCopy : ∃ (s : State) (k : Nat) (f : Fill) (ws : List Samp), fillOrder s = [k] ∧ (s.take k).fill = some f
  ∧ f.tide = none ∧ f.nextSlot < f.nPre + fillPost s f ∧ f.nextSlot < f.slots ∧ slotWords s f f.nextSlot = some (some ws) ∧
  4 * ws.length ≤ shareLeft s := ⟨copying, 3, fill3, [samp0], by decide +kernel⟩

theorem test_takeFillEnd : ∃ (s : State) (k : Nat) (f : Fill), k < 16 ∧ (s.take k).fill = some f ∧ f.fillEnd = none ∧
  f.nPre + fillPost s f ≤ f.heldEnd s :=
  ⟨{ up.modTake 3 (fun k => { k with fill := some fill3 }) with rings := [(5, ⟨0, [{ samp0 with k := 103 }, { samp0 with k := 102 }, { samp0 with k := 101 }, samp0]⟩)] },
  3, fill3, by decide +kernel⟩

theorem test_takeRecordCommit : ∃ (s : State) (k : Nat) (f : Fill) (p : Place), k < 16 ∧ (s.take k).fill = some f ∧
  s.takeMem.places.head? = some p ∧ p.take = k ∧ fillDone f = true ∧ recordFormed s k = false ∧ s.cust.units = [] ∧
  s.cust.broken = none ∧ comparing s = false := ⟨committing, 3, done3, ⟨0, 128, false, 3⟩, by decide +kernel⟩

theorem test_takeRearm : ∃ (s : State) (k r : Nat), k < 16 ∧ (s.take k).armAt = some r ∧ r ≤ s.now ∧ (s.take k).waits = []
  := ⟨{ up.modTake 3 (fun k => { k with armAt := some 4 }) with now := 9 }, 3, 4, by decide +kernel⟩

theorem test_signatureArrival : ∃ (s : State) (ord flip : Nat) (u : CUnit), comparing s = true ∧ ord = s.cust.base ∧
  s.cust.units = [u] ∧ u.sigA = none ∧ u.sigB = none := ⟨pair none, 0, 0, unitOf none, by decide +kernel⟩

theorem test_signatureArrival2 : ∃ (s : State) (ord at_ : Nat) (u : CUnit), comparing s = true ∧ ord = s.cust.base ∧
  s.cust.units = [u] ∧ u.sigA = none ∧ u.sigB = some (crc32c u.bytesA, at_) ∧ u.exempt s = false ∧ s.cust.handover = false
  := ⟨pair (some (0, 5)), 0, 5, unitOf (some (0, 5)), by decide +kernel⟩

theorem test_signatureArrival3 : ∃ (s : State) (ord flip : Nat) (b : Nat × Nat) (u : CUnit), comparing s = true ∧ s.holder
  ≤ 1 ∧ ord = s.cust.base ∧ s.cust.units = [u] ∧ u.sigA = none ∧ u.sigB = some b ∧ crc32c u.bytesA ^^^ flip ≠ b.1 ∧ u.exempt
  s = false := ⟨pair (some (77, 5)), 0, 0, (77, 5), unitOf (some (77, 5)), by decide +kernel⟩

theorem test_signatureArrival4 : ∃ (s : State) (ord flip : Nat) (b : Nat × Nat) (u : CUnit), comparing s = true ∧ ord =
  s.cust.base ∧ s.cust.units = [u] ∧ u.sigA = none ∧ u.sigB = some b ∧ u.exempt s = true ∧ s.cust.handover = false := ⟨(pair
  (some (77, 5))).modCust (fun k => { k with both := [(0, 0, 10)] }), 0, 0, (77, 5), unitOf (some (77, 5)),
  by decide +kernel⟩

theorem test_compareTimeout : ∃ (s : State) (b : Nat × Nat) (u : CUnit), comparing s = true ∧ s.holder ≤ 1 ∧ s.cust.units
  = [u] ∧ u.sig s.holder = none ∧ u.sig (otherCore s.holder) = some b ∧ b.2 + usTicks (s.nat .custody 0 4) ≤ s.now :=
  ⟨{ pair (some (77, 5)) with now := 90000 }, (77, 5), unitOf (some (77, 5)), by decide +kernel⟩

theorem test_compareTimeout2 : ∃ (s : State) (a : Nat × Nat) (u : CUnit), comparing s = true ∧ s.holder ≤ 1 ∧ s.cust.units
  = [u] ∧ u.sig s.holder = some a ∧ u.sig (otherCore s.holder) = none ∧ a.2 + usTicks (s.nat .custody 0 4) ≤ s.now :=
  ⟨{ (pair none).modCust (fun k => { k with units := [{ unitOf none with sigA := some (1, 5) }] }) with now := 90000 }, (1,
  5), { unitOf none with sigA := some (1, 5) }, by decide +kernel⟩

theorem test_coreFaultSignal : ∃ (s : State) (core : Nat), Config.hasCoreB s.variant = true ∧ core ≤ 1 ∧ core = s.holder ∧
  s.core (otherCore core) = 2 := ⟨pair none, 0, by decide +kernel⟩

theorem test_coreFaultSignal2 : ∃ (s : State) (core : Nat), Config.hasCoreB s.variant = true ∧ core ≤ 1 ∧ core ≠ s.holder
  ∧ s.holder ≤ 1 ∧ s.core core = 2 := ⟨pair none, 1, by decide +kernel⟩

theorem test_provingPeriodEnd : ∃ (s : State) (x due : Nat) (why : TestWhy), s.cust.proving = some (x, why, due) ∧ due ≤
  s.now ∧ x ≤ 1 := ⟨(pair none).modCust (fun k => { k with proving := some (1, .mismatch, 0) }), 1, 0, .mismatch,
  by decide +kernel⟩

theorem test_hiddenFaultAtTakeover : ∃ (s : State) (part : Nat), Config.hasCoreB s.variant = true ∧ 1 ≤ part ∧ part ≤ 5 ∧
  s.cust.proving = none := ⟨pair none, 4, by decide +kernel⟩

theorem test_hiddenFaultAtTakeover2 : ∃ (s : State) (part x due : Nat) (why : TestWhy), Config.hasCoreB s.variant = true ∧
  1 ≤ part ∧ part ≤ 5 ∧ s.cust.proving = some (x, why, due) ∧ s.holder ≤ 1 ∧ x = otherCore s.holder := ⟨(pair none).modCust
  (fun k => { k with proving := some (1, .mismatch, 0) }), 2, 1, 0, .mismatch, by decide +kernel⟩

theorem test_coreSelfTestEnd : ∃ (s : State) (core start : Nat), core ≤ 1 ∧ s.cust.tests = [(core, .mismatch, start)] ∧
  start + 65 * 24576 ≤ s.now :=
  ⟨{ (pair none).modCust (fun k => { k with tests := [(1, .mismatch, 0)] }) with now := 2000000 }, 1, 0, by decide +kernel⟩

theorem test_coreSelfTestEnd2 : ∃ (s : State) (core start : Nat), core ≤ 1 ∧ s.cust.tests = [(core, .mismatch, start)] ∧
  start + 65 * 24576 ≤ s.now ∧ s.nat .custody 0 6 = 1 :=
  ⟨{ (pair none).modCust (fun k => { k with tests := [(1, .mismatch, 0)] }) with now := 2000000 }, 1, 0, by decide +kernel⟩

theorem test_handback : ∃ (s : State), comparing s = true ∧ s.holder ≤ 1 ∧ s.nat .custody 0 5 = 1 ∧ s.cust.suspect = some
  (otherCore s.holder) ∧ 64 ≤ s.cust.equal := ⟨(pair none).modCust (fun k => { k with suspect := some 1, equal := 64 }),
  by decide +kernel⟩

theorem test_plannedHandover : ∃ (s : State) (ses : Nat), s.serves ses ∧ s.power.inReset = false ∧ Config.hasCoreB
  s.variant = true ∧ s.core (otherCore s.holder) = 2 := ⟨pair none, 0, by decide +kernel⟩

theorem test_restoreCoreA : ∃ (s : State) (ses : Nat), s.serves ses ∧ s.power.inReset = false ∧ Config.hasCoreB s.variant
  = true ∧ s.core 0 = 6 := ⟨up.setNum .custody 0 2 6, 0, by decide +kernel⟩

theorem test_restoreCoreB : ∃ (s : State) (ses : Nat), s.serves ses ∧ s.power.inReset = false ∧ Config.hasCoreB s.variant
  = true ∧ s.core 1 = 6 := ⟨up.setNum .custody 0 3 6, 0, by decide +kernel⟩

theorem test_resyncJoin : ∃ (s : State) (r : Resync), s.cust.resync = some r ∧ r.fails = 0 ∧ r.tj = none ∧ r.due ≤ s.now
  := ⟨syncing sync1, sync1, by decide +kernel⟩

theorem test_resyncRetry : ∃ (s : State) (r : Resync), s.cust.resync = some r ∧ r.fails ≠ 0 ∧ r.tj = none ∧ r.due ≤ s.now
  := ⟨syncing { sync1 with fails := 1 }, { sync1 with fails := 1 }, by decide +kernel⟩

theorem test_resyncSnapshot : ∃ (s : State) (r : Resync) (tj : Nat), s.cust.resync = some r ∧ r.tj = some tj ∧ r.ts = none
  ∧ ceilTo 24576 (tj + 4 * largestSpan s) ≤ s.now := ⟨{ syncing { sync1 with tj := some 0 } with now := 100000000 },
  { sync1 with tj := some 0 }, 0, by decide +kernel⟩

theorem test_snapshotCopyComplete : ∃ (s : State) (r : Resync), s.cust.resync = some r ∧ r.ts.isSome = true ∧ r.copied =
  false ∧ r.spoiled = false := ⟨syncing { sync1 with ts := some 4 }, { sync1 with ts := some 4 }, by decide +kernel⟩

theorem test_coreResynchronised : ∃ (s : State) (r : Resync), s.cust.resync = some r ∧ r.core ≤ 1 ∧ r.copied = true ∧
  s.cust.mustReturn = false := ⟨syncing { sync1 with ts := some 4, copied := true },
  { sync1 with ts := some 4, copied := true }, by decide +kernel⟩

theorem test_coreResynchronisationFailed : ∃ (s : State) (r : Resync), s.cust.resync = some r ∧ r.ts.isSome = true ∧
  r.copied = false ∧ r.fails + 1 < s.nat .resync 0 7 := ⟨syncing { sync1 with ts := some 4 }, { sync1 with ts := some 4 },
  by decide +kernel⟩

theorem test_coreResynchronisationFailed2 : ∃ (s : State) (r : Resync), s.cust.resync = some r ∧ r.core ≤ 1 ∧ r.ts.isSome
  = true ∧ r.copied = false ∧ s.nat .resync 0 7 ≤ r.fails + 1 := ⟨syncing { sync1 with ts := some 4, fails := 200 },
  { sync1 with ts := some 4, fails := 200 }, by decide +kernel⟩

theorem test_blockFormed : ∃ (s : State) (failA failB : Bool) (r : BlkReady) (rs : List BlkReady), s.strm.ready = r :: rs
  ∧ r.tick ≤ s.now ∧ s.cust.units = [] := ⟨ready1, true, false, rdy, [], by decide +kernel⟩

theorem test_windowRecordFormed : ∃ (s : State) (w k seq : Nat) (d : WinDef) (f : Fill) (rest : List (Nat × Nat × WinDef ×
  Fill)), (s.win w).bound = (k, seq, d, f) :: rest ∧ s.cust.units = [] := ⟨owing, 2, 3, 0, winDef up 2, done3, [],
  by decide +kernel⟩

theorem test_windowRecordFormed2 : ∃ (s : State) (w : Nat) (r : WinRun) (rest : List WinRun), (s.win w).bound = [] ∧
  (s.win w).runs = r :: rest ∧ runDone s r = true ∧ s.cust.units = [] := ⟨running, 2, run0, [], by decide +kernel⟩

theorem test_copyPortBeat : ∃ (s : State), copyBusy s = true := ⟨copying, by decide +kernel⟩

theorem test_copyTimeout : ∃ (s : State) (k : Nat) (f : Fill), k < 16 ∧ (fillOrder s).find? (copyReady s) = some k ∧
  s.cust.copyNew = false ∧ (s.take k).fill = some f ∧ f.tide = none ∧ max (copySince s) f.since + copyTicks ≤ s.now :=
  ⟨{ copying with now := 5000 }, 3, fill3, by decide +kernel⟩

theorem test_calibrationStart : ∃ (s : State) (ses : Nat) (allg stst skew defer_ : Bool), s.serves ses ∧ s.power.inReset =
  false ∧ calState s = 0 := ⟨up.setNum .cal 0 5 0, 0, true, false, true, false, by decide +kernel⟩

theorem test_calibrationAbort : ∃ (s : State) (ses : Nat), s.serves ses ∧ s.power.inReset = false ∧ 2 ≤ calState s :=
  ⟨up.setNum .cal 0 5 3, 0, by decide +kernel⟩

theorem test_calibrationAbort2 : ∃ (s : State) (ses : Nat), s.serves ses ∧ s.power.inReset = false ∧ calState s ≤ 1 :=
  ⟨up.setNum .cal 0 5 0, 0, by decide +kernel⟩

theorem test_endHoldOff : ∃ (s : State) (ses : Nat), s.serves ses ∧ s.power.inReset = false ∧ calState s = 1 := ⟨up.setNum
  .cal 0 5 1, 0, by decide +kernel⟩

theorem test_holdOffExpiry : ∃ (s : State) (x : Nat), s.cal.holdFrom = some x ∧ calState s = 1 ∧ x + msTicks 2000 ≤ s.now
  := ⟨{ (up.setNum .cal 0 5 1).modCal (fun k => { k with holdFrom := some 0 }) with now := 50000000 }, 0, by decide +kernel⟩

theorem test_calresStepStart : ∃ (s : State) (x : Nat), s.cal.startAt = some x ∧ x ≤ s.now ∧ calState s = 0 :=
  ⟨{ (up.setNum .cal 0 5 0).modCal (fun k => { k with startAt := some 98304 }) with now := 98304 }, 98304,
  by decide +kernel⟩

theorem test_calresStepEnd : ∃ (s : State) (milliohms x : Nat) (r : CalRun), s.cal.run = some r ∧ s.cal.calres = some x ∧
  s.cal.abortAt = none ∧ x + msTicks 16 ≤ s.now ∧ 9950000 ≤ milliohms ∧ milliohms ≤ 10050000 ∧ calCells s r ≠ [] :=
  ⟨{ ((up.setNum .cal 0 5 2).setNum .cal 0 2 7).modCal (fun k => { k with run := some ⟨false, false, false, false, false⟩, calres := some 0 }) with now := 400000 },
  10000000, 0, ⟨false, false, false, false, false⟩, by decide +kernel⟩

theorem test_calresStepEnd2 : ∃ (s : State) (milliohms x : Nat) (r : CalRun), s.cal.run = some r ∧ s.cal.calres = some x ∧
  s.cal.abortAt = none ∧ x + msTicks 16 ≤ s.now ∧ (milliohms < 9950000 ∨ 10050000 < milliohms) :=
  ⟨{ ((up.setNum .cal 0 5 2).setNum .cal 0 2 7).modCal (fun k => { k with run := some ⟨false, false, false, false, false⟩, calres := some 0 }) with now := 400000 },
  10050001, 0, ⟨false, false, false, false, false⟩, by decide +kernel⟩

theorem test_cellInterruptionStart : ∃ (s : State) (r : CalRun) (c : Nat) (rest : List Nat), s.cal.run = some r ∧ calState
  s = 3 ∧ s.now % 24576 = 0 ∧ s.cal.running.length < calConcurrency s r ∧ s.cal.waiting = c :: rest ∧ c < Config.cells
  s.variant ∧ bit (s.nat .refPower c 3) 1 = true ∧ (cellFilling s c = false ∨ (r.defer = false ∧ s.cal.deferred = [])) :=
  ⟨interrupting [] [4], ⟨false, false, false, true, false⟩, 4, [], by decide +kernel⟩

theorem test_cellInterruptionStart2 : ∃ (s : State) (r : CalRun) (c d : Nat) (rest : List Nat), s.cal.run = some r ∧
  calState s = 3 ∧ s.now % 24576 = 0 ∧ s.cal.running.length < calConcurrency s r ∧ s.cal.waiting = c :: d :: rest ∧ bit
  (s.nat .refPower c 3) 1 = false ∧ cellFilling s c = false := ⟨(interrupting [] [4, 5]).setNum .refPower 4 3 0, ⟨false,
  false, false, true, false⟩, 4, 5, [], by decide +kernel⟩

theorem test_takeGuardExpiry : ∃ (s : State) (cell : Nat) (r : CalRun) (d : Nat × Nat), s.cal.run = some r ∧
  s.cal.deferred.find? (fun p => p.1 == cell) = some d ∧ calState s = 3 ∧ s.now % 24576 = 0 ∧ d.2 + msTicks (s.nat .cal 0 4)
  ≤ s.now ∧ s.cal.running.length < calConcurrency s r ∧ bit (s.nat .refPower cell 3) 1 = true :=
  ⟨{ (interrupting [] [4]).modCal (fun k => { k with deferred := [(4, 0)] }) with now := 24576 * 100000000 }, 4, ⟨false,
  false, false, true, false⟩, (4, 0), by decide +kernel⟩

theorem test_cellInterruptionEnd : ∃ (s : State) (cell a : Nat) (r : CalRun) (measured : CalResult), cell < Config.cells
  s.variant ∧ s.cal.run = some r ∧ s.cal.running = [(cell, a)] ∧ s.cal.abortAt = none ∧ a + msTicks r.length ≤ s.now :=
  ⟨{ interrupting [(4, 0)] [] with now := 24576 * 48 }, 4, 0, ⟨false, false, false, true, false⟩, ⟨[], [], []⟩,
  by decide +kernel⟩

theorem test_calibrationImageRead : ∃ (s : State) (ses : Nat), 3 ≤ phase s ∧ stagedView s ses .calImage 0 1 = none := ⟨up,
  0, by decide +kernel⟩

theorem test_calibrationImageWrite : ∃ (s : State) (ses : Nat) (bs : Bytes), s.serves ses ∧ s.power.inReset = false ∧
  calState s = 1 ∧ bs.length ≤ 65535 ∧ imageOk s bs = true := ⟨smallHold, 0, plainImage, image_witness⟩

theorem test_calibrationImageWrite2 : ∃ (s : State) (ses : Nat) (bs : Bytes), s.serves ses ∧ s.power.inReset = false ∧
  bs.length ≤ 65535 ∧ calState s ≠ 1 := ⟨up.setNum .cal 0 5 0, 0, [1], by decide +kernel⟩

theorem test_estimationWindowEnd : ∃ (s : State) (cell m : Nat) (est : List Int), cell < Config.cells s.variant ∧ m < 17 ∧
  s.nat .cal 0 10 = 1 ∧ interrupted s cell = false ∧ bit (s.nat .refPower cell 3) 1 = true ∧ est.length = 15 ∧ Sparse.get
  s.cal.winFrom (17 * cell + m) 0 + 2 ^ s.nat .cal 0 11 * s.modPeriod cell ≤ s.now :=
  ⟨{ ((up.setNum .cal 0 10 1).setNum .refPower 4 3 2).setNum .cal 0 11 20 with now := 2 ^ 34 }, 4, 16, List.replicate 15 3,
  by decide +kernel⟩

theorem test_elementSwitch : ∃ (s : State) (cell m : Nat) (x : ElemSwitch), cell < Config.cells s.variant ∧ m < 17 ∧
  s.cal.switches.find? (fun y => y.cell == cell && y.m == m) = some x ∧ x.tick ≤ s.now :=
  ⟨{ up.modCal (fun k => { k with switches := [⟨4, 3, 9, 2, 17⟩] }) with now := 24576000 }, 4, 3, ⟨4, 3, 9, 2, 17⟩,
  by decide +kernel⟩

theorem test_modulatorCannotBeMatched : ∃ (s : State) (cell m : Nat) (x : Nat × Nat × Nat), cell < Config.cells s.variant
  ∧ m < 17 ∧ s.cal.unmatched.find? (fun y => y.1 == cell && y.2.1 == m) = some x ∧ x.2.2 ≤ s.now :=
  ⟨{ up.modCal (fun k => { k with unmatched := [(4, 16, 24576)] }) with now := 24576 }, 4, 16, (4, 16, 24576),
  by decide +kernel⟩

theorem test_windowStart : ∃ (s : State) (w x : Nat) (d : WinDef), w < 32 ∧ (s.win w).next = some x ∧ x ≤ s.now ∧ d =
  (s.win w).defAt x (winDef s w) ∧ d.mode = 1 ∧ d.phase ≤ x := ⟨grid1, 2, 6400, winDef grid1 2, by decide +kernel⟩

theorem test_windowStart2 : ∃ (s : State) (w x : Nat) (d : WinDef), w < 32 ∧ (s.win w).next = some x ∧ x ≤ s.now ∧ d =
  (s.win w).defAt x (winDef s w) ∧ d.mode = 1 ∧ x < d.phase := ⟨grid1.setNum .window 2 4 12800, 2, 6400, winDef
  (grid1.setNum .window 2 4 12800) 2, by decide +kernel⟩

theorem test_windowStart3 : ∃ (s : State) (w x : Nat), w < 32 ∧ (s.win w).next = some x ∧ x ≤ s.now ∧ ((s.win w).defAt x
  (winDef s w)).mode ≠ 1 := ⟨grid1.setNum .window 2 1 0, 2, 6400, by decide +kernel⟩

theorem test_crossHubContribution : ∃ (s : State) (e : Nat × Bytes) (rest : List (Nat × Bytes)), s.isManager = true ∧
  s.crossIn = e :: rest := ⟨{ mgr with crossIn := [(1, [1, 2])] }, (1, [1, 2]), [], by decide +kernel⟩

theorem test_crossHubContribution2 : ∃ (s : State) (e : Nat × Bytes) (rest : List (Nat × Bytes)), s.isManager = true ∧
  s.crossIn = e :: rest ∧ (∀ x : Fin 64, s.nat .crossHub x 1 ≠ 1) := ⟨{ mgr with crossIn := [(1, [1, 2])] }, (1, [1, 2]),
  [], by decide +kernel⟩

theorem test_crossHubDeadline : ∃ (s : State) (x : Nat) (c : CrossIdx), s.isManager = true ∧ x < 64 ∧ s.nat .crossHub x 1
  = 1 ∧ crossLowest s x = some c ∧ gridNs (s.nat .crossHub x 5 + (c.i + 1) * s.nat .crossHub x 4) + s.nat .crossHub x 8 *
  1000000 ≤ s.localNs := ⟨crossOn, 3, ⟨0, 0, false, []⟩, by decide +kernel⟩

theorem test_replayDecoderWrite : ∃ (s : State) (ses : Nat) (bs : Bytes), s.serves ses ∧ s.power.inReset = false ∧ s.has
  .replay 0 = true ∧ 32 ≤ bs.length ∧ bs.length ≤ 1052 := ⟨up, 0, encodeWords, by decide +kernel⟩

theorem test_replayDecoderWrite2 : ∃ (s : State) (ses : Nat) (bs : Bytes), s.serves ses ∧ s.power.inReset = false ∧ s.has
  .replay 0 = true ∧ bs.length < 32 := ⟨up, 0, [1, 2, 3], by decide +kernel⟩

theorem test_ksfDataSend : ∃ (s : State) (p : Space) (i : Item) (f : List Item), canSend s = true ∧ s.strm.spaces = [p] ∧
  fullFrame s p = some (i :: f) := ⟨sender [longItem 3, longItem 4], space1 [longItem 3, longItem 4], longItem 3, [],
  by decide +kernel⟩

theorem test_packingHoldExpiry : ∃ (s : State) (p : Space) (i : Item) (r : List Item), canSend s = true ∧ s.strm.spaces =
  [p] ∧ p.unsent = i :: r ∧ i.formed + holdOf s p ≤ s.now := ⟨sender [item5 none], space1 [item5 none], item5 none, [],
  by decide +kernel⟩

theorem test_ack : ∃ (s : State) (k : Nat) (r : Rx) (b : Bytes) (p : Space), s.isManager = false ∧ inboxKsf s (· == 3) =
  some (k, r, b) ∧ leAt b 4 8 = s.ident ∧ s.strm.spaces = [p] ∧ p.stream = leAt b 13 1 ∧ p.num = leAt b 16 4 ∧ p.stream < 16
  ∧ p.live = true ∧ s.strm.owed = [] ∧ (∀ n : Fin 16, s.streamState n = 0 ∨ s.streamState n = 1) := ⟨acked, 0, ⟨0, 5,
  ksfFrame ackBytes⟩, ackBytes, space1 [item5 (some 9)], by decide +kernel⟩

theorem test_nack : ∃ (s : State) (bad : List Nat) (k : Nat) (r : Rx) (b : Bytes) (p : Space), s.isManager = false ∧
  inboxKsf s (· == 4) = some (k, r, b) ∧ leAt b 4 8 = s.ident ∧ s.space (leAt b 13 1) (leAt b 16 4) = some p := ⟨nacked, [],
  0, ⟨0, 5, ksfFrame nackBytes⟩, nackBytes, space1 [item5 (some 9)], by decide +kernel⟩

theorem test_nack2 : ∃ (s : State) (k : Nat) (r : Rx) (b : Bytes) (p : Space) (x : Item), s.isManager = false ∧ inboxKsf s
  (· == 4) = some (k, r, b) ∧ leAt b 4 8 = s.ident ∧ s.space (leAt b 13 1) (leAt b 16 4) = some p ∧ reachable s p.stream =
  true ∧ x ∈ p.items ∧ (nackNumbers b).contains x.seq = true := ⟨nacked.modStream 2 (fun k =>
  { k with ackAt := some 1000000000 }), 0, ⟨0, 5, ksfFrame nackBytes⟩, nackBytes, space1 [item5 (some 9)], item5 (some 9),
  by decide +kernel⟩

theorem test_resendTimeout : ∃ (s : State) (bad : List Nat) (p : Space) (i : Item), s.isManager = false ∧ canSend s = true
  ∧ s.strm.spaces = [p] ∧ reachable s p.stream = true ∧ overdue s p = [i] ∧ bad.contains i.seq = false := ⟨(sender [item5
  (some 9)]).modStream 2 (fun k => { k with ackAt := some 1000000000 }), [], space1 [item5 (some 9)], item5 (some 9),
  by decide +kernel⟩

theorem test_reachabilityTimeout : ∃ (s : State) (n a : Nat) (k : StreamSt), s.strm.streams = [(n, k)] ∧ k.ackAt = some a
  ∧ a + msTicks (s.nat .transmit 0 2) < s.now := ⟨(sender [{ item5 (some 9) with again := true }]).modStream 2 (fun k =>
  { k with ackAt := some 3 }), 2, 3, { StreamSt.init with ackAt := some 3 }, by decide +kernel⟩

theorem test_ksfDataReceived : ∃ (s : State) (k : Nat) (b : Bytes), s.isManager = true ∧ inboxData s = some (k, b, false)
  := ⟨{ mgr with net := { mgr.net with inbox := [⟨0, 5, ksfFrame (List.replicate 40 1)⟩] } }, 0, List.replicate 40 1,
  by decide +kernel⟩

theorem test_ksfDataReceived2 : ∃ (s : State) (i : Nat) (b : Bytes) (k : AckSt), s.isManager = true ∧ inboxData s = some
  (i, b, true) ∧ atPosition s (leAt b 12 1) (leAt b 4 8) = true ∧ leAt b 1 1 = 1 ∧ leAt b 13 1 ≤ 15 ∧ leAt b 32 2 = 1 ∧
  s.ackOf (leAt b 4 8) (leAt b 13 1) (leAt b 16 4) = some k ∧ k.has (leAt b 20 4) = true ∧ k.current s = true ∧
  (frameContent b).all (fun x => !x.isAnn) = true :=
  ⟨{ holding [] with net := { (holding []).net with inbox := [⟨0, 5, ksfFrame dataBytes⟩] } }, 0, dataBytes, ack1 [],
  by decide +kernel⟩

theorem test_ackInterval : ∃ (s : State) (k : AckSt), s.isManager = true ∧ s.strm.acks = [k] ∧ s.strm.ackLook ≠ some
  (ackBoundary s) ∧ k.current s = true ∧ (k.a ≠ k.lastA ∨ ackBits k.a k.acc ≠ ackBits k.lastA k.lastAcc) := ⟨holding [],
  ack1 [], by decide +kernel⟩

theorem test_keepaliveAck : ∃ (s : State) (k : AckSt), s.isManager = true ∧ s.strm.acks = [k] ∧ k.keeps = true ∧ k.current
  s = true ∧ k.ackAt = none := ⟨holding [], ack1 [], by decide +kernel⟩

theorem test_nackHoldoffExpiry : ∃ (s : State) (k : AckSt) (n a : Nat), s.isManager = true ∧ s.strm.acks = [k] ∧ k.current
  s = true ∧ n < 4294967296 ∧ k.holes = [(n, a, none)] ∧ a + usTicks (s.nat .mgrAck 0 2) ≤ s.now := ⟨holding [(4, 5, none)],
  ack1 [(4, 5, none)], 4, 5, by decide +kernel⟩

theorem test_retransmitInterval : ∃ (s : State) (k : AckSt) (n a u : Nat), s.isManager = true ∧ s.strm.acks = [k] ∧
  k.current s = true ∧ n < 4294967296 ∧ k.holes = [(n, a, some u)] ∧ u + msTicks (s.nat .mgrAck 0 3) ≤ s.now ∧ s.now ≤
  k.heard + msTicks (s.nat .mgrAck 0 5) := ⟨holding [(4, 5, some 9)], ack1 [(4, 5, some 9)], 4, 5, 9, by decide +kernel⟩

theorem test_dmaStart : ∃ (s : State) (ses c : Nat), s.serves ses ∧ s.power.inReset = false ∧ c < 16 ∧ dmaState s c = 0 ∧
  s.nat .dmaCtl c 3 = 0 ∧ s.nat .debugCh c 5 ≠ 1 := ⟨up.setNum .dmaCtl 3 1 64, 0, 3, by decide +kernel⟩

theorem test_dmaStart2 : ∃ (s : State) (ses c : Nat), s.serves ses ∧ s.power.inReset = false ∧ c < 16 ∧ dmaState s c = 0 ∧
  s.nat .dmaCtl c 3 = 0 ∧ s.nat .debugCh c 5 = 1 := ⟨up.setNum .debugCh 3 5 1, 0, 3, by decide +kernel⟩

theorem test_dmaStart3 : ∃ (s : State) (ses c : Nat), s.serves ses ∧ s.power.inReset = false ∧ c < 16 ∧ (dmaState s c ≠ 0
  ∨ s.nat .dmaCtl c 3 ≠ 0) := ⟨up.setNum .dmaStat 3 1 1, 0, 3, by decide +kernel⟩

theorem test_dmaEventStart : ∃ (s : State) (c : Nat), c < 16 ∧ dmaState s c = 0 ∧ (s.dmaCh c).pulses ≠ 0 ∧ s.nat .debugCh
  c 5 ≠ 1 := ⟨up.modCh 3 (fun k => { k with pulses := 1 }), 3, by decide +kernel⟩

theorem test_dmaEventStart2 : ∃ (s : State) (c : Nat), c < 16 ∧ dmaState s c = 0 ∧ (s.dmaCh c).pulses = 0 ∧ (s.dmaCh
  c).latched = true ∧ s.nat .debugCh c 5 ≠ 1 := ⟨up.modCh 3 (fun k => { k with latched := true }), 3, by decide +kernel⟩

theorem test_dmaEventStart3 : ∃ (s : State) (c : Nat), dmaState s c ≠ 0 := ⟨(up.setNum .dmaStat 3 1 1).modCh 3 (fun k =>
  { k with latched := true }), 3, by decide +kernel⟩

theorem test_dmaAbort : ∃ (s : State) (ses c : Nat), s.serves ses ∧ s.power.inReset = false ∧ c < 16 ∧ (dmaState s c = 1 ∨
  dmaState s c = 2 ∨ dmaState s c = 4) := ⟨up.setNum .dmaStat 3 1 2, 0, 3, by decide +kernel⟩

theorem test_clearFault : ∃ (s : State) (ses c : Nat), s.serves ses ∧ s.power.inReset = false ∧ c < 16 ∧ dmaState s c = 3
  := ⟨(up.setNum .dmaStat 3 1 3).setNum .dmaStat 3 3 12, 0, 3, by decide +kernel⟩

theorem test_halt : ∃ (s : State) (ses c : Nat), s.serves ses ∧ s.power.inReset = false ∧ c < 16 ∧ dmaState s c = 1 ∧
  s.dma.cur.map (·.1) ≠ some c := ⟨up.setNum .dmaStat 3 1 1, 0, 3, by decide +kernel⟩

theorem test_debugRelease : ∃ (s : State) (ses c : Nat), s.serves ses ∧ s.power.inReset = false ∧ c < 16 ∧ dmaState s c =
  4 := ⟨up.setNum .dmaStat 3 1 4, 0, 3, by decide +kernel⟩

theorem test_singleStep : ∃ (s : State) (ses c : Nat), s.serves ses ∧ s.power.inReset = false ∧ c < 16 ∧ dmaState s c = 4
  := ⟨up.setNum .dmaStat 3 1 4, 0, 3, by decide +kernel⟩

theorem test_breakpointHit : ∃ (s : State) (c b : Nat), c < 16 ∧ dmaState s c = 1 ∧ s.dma.cur.map (·.1) ≠ some c ∧ atBreak
  s c = some b := ⟨(up.setNum .dmaStat 3 1 1).setNum .debugCh 3 2 0, 3, 1, by decide +kernel⟩

theorem test_dmaMove : ∃ (s : State) (c w : Nat), DmaHas s c w 1 ∧ bits w 43 32 = 0 ∧ bits w 53 51 < 6 ∧ bits w 50 48 < 6
  ∧ bits w 45 44 < 3 ∧ bits w 31 0 ≠ 0 ∧ (bits w 45 44 = 0 → bits w 31 0 % max (2 ^ bits w 53 51) (2 ^ bits w 50 48) = 0) ∧
  ((s.dmaCh c).reg (bits w 59 57)).target ≠ 2 ∧ ((s.dmaCh c).reg (bits w 59 57)).target ≠ 4 ∧ ((s.dmaCh c).reg (bits w 56
  54)).target ≠ 2 ∧ ((s.dmaCh c).reg (bits w 56 54)).target ≠ 4 := ⟨fetched (moveWord 1) id, 3, moveWord 1,
  by decide +kernel⟩

theorem test_dmaMove2 : ∃ (s : State) (c w : Nat), DmaHas s c w 1 ∧ bits w 43 32 = 0 ∧ bits w 53 51 = 0 ∧ bits w 50 48 = 0
  ∧ bits w 47 44 = 1 ∧ bits w 31 0 ≠ 0 ∧ ((s.dmaCh c).reg (bits w 59 57)).target = 0 ∧ ((s.dmaCh c).reg (bits w 56
  54)).target = 4 := ⟨fetched (moveWord 1 - 3 * 2 ^ 46 - 27 * 2 ^ 48) (fun k =>
  { k with regs := k.regs.set 2 ⟨0, 4, false, false⟩ }), 3, moveWord 1 - 3 * 2 ^ 46 - 27 * 2 ^ 48, by decide +kernel⟩

theorem test_dmaLoop : ∃ (s : State) (c w : Nat), DmaHas s c w 2 ∧ bits w 59 32 = 0 ∧ bits w 31 0 ≠ 0 ∧ (s.dmaCh
  c).frames.length < 4 := ⟨fetched (2 * 2 ^ 60 + 5) id, 3, 2 * 2 ^ 60 + 5, by decide +kernel⟩

theorem test_dmaLoop2 : ∃ (s : State) (c w : Nat), DmaHas s c w 2 ∧ bits w 59 32 = 0 ∧ bits w 31 0 ≠ 0 ∧ 4 ≤ (s.dmaCh
  c).frames.length := ⟨fetched (2 * 2 ^ 60 + 5) (fun k => { k with frames := List.replicate 4 (8, 2) }), 3, 2 * 2 ^ 60 + 5,
  by decide +kernel⟩

theorem test_dmaEndloop : ∃ (s : State) (c w a n : Nat) (fs : List (Nat × Nat)), DmaHas s c w 3 ∧ bits w 59 0 = 0 ∧
  (s.dmaCh c).frames = (a, n) :: fs ∧ n ≠ 1 := ⟨fetched (3 * 2 ^ 60) (fun k => { k with frames := [(8, 2)] }), 3, 3 * 2 ^
  60, 8, 2, [], by decide +kernel⟩

theorem test_dmaEndloop2 : ∃ (s : State) (c w a : Nat) (fs : List (Nat × Nat)), DmaHas s c w 3 ∧ bits w 59 0 = 0 ∧
  (s.dmaCh c).frames = (a, 1) :: fs := ⟨fetched (3 * 2 ^ 60) (fun k => { k with frames := [(8, 1)] }), 3, 3 * 2 ^ 60, 8, [],
  by decide +kernel⟩

theorem test_dmaEndloop3 : ∃ (s : State) (c w : Nat), DmaHas s c w 3 ∧ bits w 59 0 = 0 ∧ (s.dmaCh c).frames = [] :=
  ⟨fetched (3 * 2 ^ 60) id, 3, 3 * 2 ^ 60, by decide +kernel⟩

theorem test_dmaWait : ∃ (s : State) (c w : Nat), DmaHas s c w 4 ∧ bits w 59 48 = 0 ∧ bits w 31 7 = 0 ∧ bits w 6 0 < 96 ∧
  bit (s.dmaCh c).mask (bits w 6 0) = true := ⟨fetched (4 * 2 ^ 60 + 5) (fun k => { k with mask := 32 }), 3, 4 * 2 ^ 60 + 5,
  by decide +kernel⟩

theorem test_dmaWait2 : ∃ (s : State) (c w : Nat), DmaHas s c w 4 ∧ bits w 59 48 = 0 ∧ bits w 31 7 = 0 ∧ bits w 6 0 < 96 ∧
  bit (s.dmaCh c).mask (bits w 6 0) = false := ⟨fetched (4 * 2 ^ 60 + 5) id, 3, 4 * 2 ^ 60 + 5, by decide +kernel⟩

theorem test_dmaSignal : ∃ (s : State) (c w : Nat), DmaHas s c w 5 ∧ bits w 59 0 = 0 ∧ (s.dmaCh c).open_ = false :=
  ⟨fetched (5 * 2 ^ 60) id, 3, 5 * 2 ^ 60, by decide +kernel⟩

theorem test_dmaFence : ∃ (s : State) (c w : Nat), DmaHas s c w 6 ∧ bits w 59 0 = 0 ∧ (s.dmaCh c).open_ = false :=
  ⟨fetched (6 * 2 ^ 60) id, 3, 6 * 2 ^ 60, by decide +kernel⟩

theorem test_dmaFence2 : ∃ (s : State) (c w : Nat), DmaHas s c w 6 ∧ bits w 59 0 = 0 ∧ (s.dmaCh c).open_ = true :=
  ⟨fetched (6 * 2 ^ 60) (fun k => { k with outs := [⟨0, 8, 8, false, false⟩] }), 3, 6 * 2 ^ 60, by decide +kernel⟩

theorem test_dmaSeta : ∃ (s : State) (c w : Nat), DmaHas s c w 7 ∧ (bits w 56 53 = 0 ∨ bits w 56 53 = 2 ∨ bits w 56 53 = 3
  ∨ bits w 56 53 = 4) ∧ bits w 52 48 = 0 := ⟨fetched (7 * 2 ^ 60 + 2 * 2 ^ 57 + 4 * 2 ^ 53 + 77) id, 3, 7 * 2 ^ 60 + 2 * 2 ^
  57 + 4 * 2 ^ 53 + 77, by decide +kernel⟩

theorem test_dmaAdda : ∃ (s : State) (c w : Nat), DmaHas s c w 8 ∧ bits w 56 48 = 0 := ⟨fetched (8 * 2 ^ 60 + 2 * 2 ^ 57 +
  (2 ^ 48 - 8)) (fun k => { k with regs := k.regs.set 2 ⟨4, 0, false, false⟩ }), 3, 8 * 2 ^ 60 + 2 * 2 ^ 57 + (2 ^ 48 - 8),
  by decide +kernel⟩

theorem test_illegalInstruction : ∃ (s : State) (c w op : Nat), DmaHas s c w op ∧ 9 ≤ op := ⟨fetched (9 * 2 ^ 60) id, 3, 9
  * 2 ^ 60, 9, by decide +kernel⟩

theorem test_dmaBeat : ∃ (s : State) (host : Option Bytes) (c : Nat), s.dma.cur = none ∧ copyBusy s = false ∧ pickChannel
  s = some c ∧ (s.dmaCh c).move = none ∧ (s.dmaCh c).count < s.nat .dmaCtl c 5 ∧ (s.dmaCh c).pc < 65536 := ⟨(up.setNum
  .dmaStat 3 1 1).setNum .dmaCtl 3 5 9, none, 3, by decide +kernel⟩

theorem test_dmaBeat2 : ∃ (s : State) (host : Option Bytes) (c : Nat), s.dma.cur = none ∧ copyBusy s = false ∧ pickChannel
  s = some c ∧ (s.dmaCh c).move = none ∧ s.nat .dmaCtl c 5 ≤ (s.dmaCh c).count := ⟨(up.setNum .dmaStat 3 1 1).setNum .dmaCtl
  3 5 0, none, 3, by decide +kernel⟩

theorem test_dmaBeat3 : ∃ (s : State) (host : Option Bytes) (c a : Nat) (m : DmaMove), s.dma.cur = none ∧ copyBusy s =
  false ∧ pickChannel s = some c ∧ (s.dmaCh c).move = some m ∧ (s.dmaCh c).nextBeat m = some true ∧ (s.dmaCh c).reg m.dst =
  ⟨a, 0, false, false⟩ ∧ m.mode = 0 ∧ m.dinc = true ∧ a % m.wd = 0 ∧ within dmaBase dmaBufSize a (min 32 (min (s.dmaCh
  c).hold.length m.toWrite) / m.wd * m.wd) = true ∧ 0 < m.wd := ⟨storing, none, 3, dmaBase, storeMove, storing_witness⟩

theorem test_waitComplete : ∃ (s : State) (c src l a : Nat), c < 16 ∧ dmaState s c = 2 ∧ (s.dmaCh c).wait = some ⟨.event
  src, l, a⟩ ∧ bit (s.dmaCh c).mask src = true ∧ (s.dmaCh c).stepping = false ∧ s.nat .debugCh c 8 ≠ 1 := ⟨waiting (.event
  5) (fun k => { k with mask := 32 }), 3, 5, 9, 0, by decide +kernel⟩

theorem test_waitComplete2 : ∃ (s : State) (c x l a : Nat), c < 16 ∧ dmaState s c = 2 ∧ (s.dmaCh c).wait = some ⟨.tick x,
  l, a⟩ ∧ x ≤ s.now ∧ (s.dmaCh c).stepping = false ∧ s.nat .debugCh c 8 ≠ 1 := ⟨waiting (.tick 5) id, 3, 5, 9, 0,
  by decide +kernel⟩

theorem test_waitTimeout : ∃ (s : State) (c : Nat) (w : DmaWait), c < 16 ∧ dmaState s c = 2 ∧ (s.dmaCh c).wait = some w ∧
  w.limit ≠ 0 ∧ w.since + w.limit ≤ s.now := ⟨waiting (.event 5) id, 3, ⟨.event 5, 9, 0⟩, by decide +kernel⟩

theorem test_writeConfirmed : ∃ (s : State) (c l a : Nat) (good : Bool), c < 16 ∧ dmaState s c = 2 ∧ (s.dmaCh c).wait =
  some ⟨.fence, l, a⟩ ∧ (s.dmaCh c).reqs = [] ∧ (s.dmaCh c).outs.find? (fun o => o.target == 1) = none ∧ (s.dmaCh
  c).stepping = false ∧ s.nat .debugCh c 8 ≠ 1 := ⟨waiting .fence (fun k => { k with outs := [⟨0, 8, 8, false, false⟩] }),
  3, 9, 0, true, by decide +kernel⟩

theorem test_dictionaryAnswer : ∃ (s : State) (c : Nat) (r : DmaReq) (rest : List DmaReq) (m : DmaMove) (u : State) (v :
  Bytes), s.dma.orphans.find? (fun p => p.1 == c) = none ∧ (s.dmaCh c).reqs = r :: rest ∧ r.write = false ∧ (s.dmaCh c).move
  = some m ∧ serveRead (s.modCh c (fun k => { k with reqs := rest })) 15 r.idx r.sub = (u, .success, v) ∧ v.length ≤ r.count
  := ⟨asking, 3, askReq, [], askMove, (serveRead (asking.modCh 3 (fun k => { k with reqs := [] })) 15 0x1000 4).1,
  (serveRead (asking.modCh 3 (fun k => { k with reqs := [] })) 15 0x1000 4).2.2, by decide +kernel⟩

theorem test_dictionaryAnswer2 : ∃ (s : State) (c : Nat) (r : DmaReq) (rest : List DmaReq), c < 16 ∧ dmaState s c = 1 ∧
  s.dma.orphans.find? (fun p => p.1 == c) = none ∧ (s.dmaCh c).reqs = r :: rest ∧ r.write = true ∧ ownObject c r.idx = true
  ∧ s.power.inReset = false := ⟨(up.setNum .dmaStat 3 1 1).modCh 3 (fun k =>
  { k with reqs := [{ askReq with write := true, idx := 0x1A23 }] }), 3, { askReq with write := true, idx := 0x1A23 }, [],
  by decide +kernel⟩

theorem test_targetTimeout : ∃ (s : State) (c : Nat) (o : DmaOut) (os : List DmaOut), c < 16 ∧ dmaState s c = 2 ∧ (s.dmaCh
  c).outs = o :: os ∧ (s.dmaCh c).at_ + accessTicks ≤ s.now := ⟨waiting .fence (fun k =>
  { k with outs := [⟨0, 8, 8, false, false⟩] }), 3, ⟨0, 8, 8, false, false⟩, [], by decide +kernel⟩

theorem test_dictionaryAnswerTimeout : ∃ (s : State) (c : Nat) (r : DmaReq) (rest : List DmaReq), c < 16 ∧ (dmaState s c =
  1 ∨ dmaState s c = 2) ∧ (s.dmaCh c).reqs = r :: rest ∧ r.at_ + msTicks (s.nat .dmaCtl c 7) ≤ s.now :=
  ⟨{ asking with now := 2 ^ 40 }, 3, askReq, [], by decide +kernel⟩

theorem test_programPageWrite : ∃ (s : State) (ses page : Nat) (bs : Bytes), s.serves ses ∧ s.power.inReset = false ∧ page
  < 64 ∧ bs.length = 1024 := ⟨up, 0, 63, List.replicate 1024 7, by decide +kernel⟩

theorem test_linkUp : ∃ (s : State) (port speed : Nat), port ≤ 1 ∧ s.has .link port = true ∧ heldDown s port = false ∧
  (s.nat .link port 3 = 0 ∨ s.nat .link port 3 = 3) ∧ speed ∈ linkSpeeds s port := ⟨up.setNum .link 1 3 0, 1, 1000,
  by decide +kernel⟩

theorem test_linkUp2 : ∃ (s : State) (speed : Nat), s.has .link 2 = true ∧ heldDown s 2 = false ∧ (s.nat .link 2 3 = 0 ∨
  s.nat .link 2 3 = 3) ∧ speed ∈ linkSpeeds s 2 := ⟨(mgr.setNum .link 2 3 0).setNum .link 2 2 2, 10000, by decide +kernel⟩

theorem test_linkDown : ∃ (s : State) (port : Nat), port ≤ 2 ∧ s.has .link port = true ∧ heldDown s port = false :=
  ⟨up.setNum .link 1 3 2, 1, by decide +kernel⟩

theorem test_linkCheckSend : ∃ (s : State), s.net.lastCheck.all (fun x => decide (x + helloTicks s ≤ s.now)) = true :=
  ⟨up, by decide +kernel⟩

theorem test_linkCheck : ∃ (s : State) (i : Nat) (rx : Rx) (m : Kmp), s.net.ports.length = 3 ∧ inboxKmp s (fun m => m.ty
  == 0x11) = some (i, rx, m) ∧ rx.port ≤ 1 ∧ (s.nat .link rx.port 3 = 1 ∨ s.nat .link rx.port 3 = 2) := ⟨checked, 0, ⟨1, 5,
  kmpFrame (message 0x11 0 [])⟩, message 0x11 0 [], by decide +kernel⟩

theorem test_restoreHoldExpiry : ∃ (s : State) (port f l : Nat), port ≤ 1 ∧ (s.port port).lcFirst = some f ∧ (s.port
  port).lcLast = some l ∧ s.nat .link port 3 = 1 ∧ f + msTicks (s.nat .ring 0 9) ≤ s.now ∧ s.now ≤ l + ringTicks s :=
  ⟨{ checked.modPort 1 (fun q => { q with lcFirst := some 0, lcLast := some (2 ^ 40) }) with now := 2 ^ 40 }, 1, 0, 2 ^ 40,
  by decide +kernel⟩

theorem test_ringTimeout : ∃ (s : State) (port l : Nat), port ≤ 1 ∧ (s.port port).lcLast = some l ∧ s.nat .link port 3 = 2
  ∧ l + ringTicks s ≤ s.now :=
  ⟨{ (up.setNum .link 1 3 2).modPort 1 (fun q => { q with lcLast := some 5 }) with now := 2 ^ 40 }, 1, 5, by decide +kernel⟩

theorem test_moduleInsertion : ∃ (s : State) (ident : Bytes), s.has .link 2 = true := ⟨mgr, [3, 4], by decide +kernel⟩

theorem test_moduleRemoval : ∃ (s : State), s.has .link 2 = true := ⟨mgr, by decide +kernel⟩

theorem test_helloSend : ∃ (s : State), s.isManager = true ∧ s.net.lastHello.all (fun x => decide (x + helloTicks s ≤
  s.now)) = true := ⟨mgr, by decide +kernel⟩

set_option maxRecDepth 1000000 in
theorem test_hello : ∃ (s : State) (i : Nat) (rx : Rx) (m : Kmp), s.isManager = false ∧ inboxKmp s (fun m => m.ty == 0x10)
  = some (i, rx, m) ∧ rx.port ≤ 1 ∧ portReady s rx.port = true ∧ 524 ≤ m.body.length ∧ leAt m.body 1 1 < 62 := ⟨greeted, 0,
  ⟨1, 5, kmpFrame (message 0x10 0 (0 :: 3 :: List.replicate 522 0))⟩, message 0x10 0 (0 :: 3 :: List.replicate 522 0),
  by decide +kernel⟩

theorem test_hopCountExpiry : ∃ (s : State) (port a : Nat), s.isManager = false ∧ port ≤ 1 ∧ (s.port port).helloAt = some
  a ∧ a + ringTicks s ≤ s.now :=
  ⟨{ (up.setNum .ring 0 5 4).modPort 1 (fun q => { q with helloAt := some 5 }) with now := 2 ^ 40 }, 1, 5,
  by decide +kernel⟩

theorem test_revertHoldExpiry : ∃ (s : State) (f : Nat), s.isManager = false ∧ s.net.revertFrom = some f ∧ s.nat .ring 0
  10 ≠ 0 ∧ f + msTicks (s.nat .ring 0 10) ≤ s.now ∧ s.nat .ring 0 2 ≤ 1 :=
  ⟨{ (up.setNum .ring 0 2 1).setNum .ring 0 10 5 with now := 2 ^ 40, net := { up.net with revertFrom := some 5 } }, 5,
  by decide +kernel⟩

theorem test_ownHelloTimeout : ∃ (s : State), s.isManager = true ∧ s.nat .ring 0 1 = 2 ∧ managerRing s ≠ 2 := ⟨mgr.setNum
  .ring 0 1 2, by decide +kernel⟩

theorem test_joinSend : ∃ (s : State), s.isManager = false ∧ s.nat .ring 0 2 ≠ 255 ∧ (s.net.joinDue = true ∨
  s.net.lastJoin.all (fun x => decide (x + msTicks 100 ≤ s.now)) = true) :=
  ⟨{ up.setNum .ring 0 2 1 with net := { up.net with joinDue := true } }, by decide +kernel⟩

theorem test_join : ∃ (s : State) (i : Nat) (rx : Rx) (m : Kmp), s.isManager = true ∧ inboxKmp s (fun m => m.ty == 0x12) =
  some (i, rx, m) ∧ 8 ≤ m.body.length ∧ rx.port ≤ 1 := ⟨joined, 0, ⟨1, 5, kmpFrame (message 0x12 0 [1, 0, 0, 2, 1, 0, 0,
  0])⟩, message 0x12 0 [1, 0, 0, 2, 1, 0, 0, 0], by decide +kernel⟩

theorem test_workerReachabilityTimeout : ∃ (s : State), s.isManager = true ∧ freshJoins s = [] := ⟨mgr.setNum .zone 0 2 5,
  by decide +kernel⟩

theorem test_learnCommand : ∃ (s : State) (ses : Nat) (j : JoinRec), s.serves ses ∧ s.power.inReset = false ∧ s.isManager
  = true ∧ s.has .zone 0 = true ∧ s.nat .ring 0 1 = 2 ∧ freshJoins s = [j] ∧ j.hopA < 62 :=
  ⟨{ mgr.setNum .ring 0 1 2 with net := { mgr.net with joins := [join77] } }, 0, join77, by decide +kernel⟩

theorem test_frameReceived : ∃ (s : State) (port : Nat) (f : Frame), port < 3 ∧ s.has .link port = true ∧ (s.nat .link
  port 3 = 1 ∨ s.nat .link port 3 = 2) ∧ f.fcsGood = false := ⟨up.setNum .link 1 3 2, 1,
  { ksfFrame [1] with fcsGood := false }, by decide +kernel⟩

theorem test_frameReceived2 : ∃ (s : State) (port : Nat) (f : Frame), port < 3 ∧ s.has .link port = true ∧ (s.nat .link
  port 3 = 1 ∨ s.nat .link port 3 = 2) ∧ f.fcsGood = true ∧ accepts s port f = false := ⟨up.setNum .link 1 3 2, 1,
  { ksfFrame [1] with vlan := some 3 }, by decide +kernel⟩

theorem test_frameReceived3 : ∃ (s : State) (port : Nat) (f : Frame) (b : Bytes), s.isManager = false ∧ port ≤ 1 ∧ s.has
  .link port = true ∧ (s.nat .link port 3 = 1 ∨ s.nat .link port 3 = 2) ∧ f.fcsGood = true ∧ f.content = .ksf b ∧ f.vlan =
  none ∧ f.len ≤ 1518 ∧ f.dst = s.mac := ⟨up.setNum .link 1 3 2, 1, { ksfFrame [1] with dst := up.mac }, [1],
  by decide +kernel⟩

theorem test_egressTransmit : ∃ (s : State) (port sub c : Nat) (o : OutFrame) (r : List OutFrame), s.net.ports.length = 3
  ∧ port < 3 ∧ nextFrame (s.port port) = some (c, o, r) ∧ (c ≠ 0 ∨ o.own = true) := ⟨up.modPort 1 (fun q =>
  { q with egress := [[], [⟨ksfFrame [1], true, 1, 0⟩], [], []] }), 1, 7, 1, ⟨ksfFrame [1], true, 1, 0⟩, [],
  by decide +kernel⟩

theorem test_arpRequest : ∃ (s : State) (rx : Rx) (sip tip : Nat), s.isManager = true ∧ s.net.ports.length = 3 ∧ s.has
  .link 2 = true ∧ portReady s 2 = true ∧ (s.port 2).egress = [[], [], [], []] ∧ s.net.inbox = [rx] ∧ rx.frame.content =
  .arp false sip tip :=
  ⟨{ mgr.setNum .link 2 3 2 with net := { mgr.net with inbox := [⟨2, 5, { ksfFrame [] with content := .arp false 7 8 }⟩] } },
  ⟨2, 5, { ksfFrame [] with content := .arp false 7 8 }⟩, 7, 8, by decide +kernel⟩

theorem test_icmpEcho : ∃ (s : State) (rx : Rx) (sip dip : Nat) (b : Bytes), s.isManager = true ∧ s.net.ports.length = 3 ∧
  s.has .link 2 = true ∧ portReady s 2 = true ∧ (s.port 2).egress = [[], [], [], []] ∧ s.net.inbox = [rx] ∧ rx.frame.content
  = .icmpEcho false sip dip b ∧ b.length ≤ 1472 :=
  ⟨{ mgr.setNum .link 2 3 2 with net := { mgr.net with inbox := [⟨2, 5, { ksfFrame [] with content := .icmpEcho false 7 8 [1] }⟩] } },
  ⟨2, 5, { ksfFrame [] with content := .icmpEcho false 7 8 [1] }⟩, 7, 8, [1], by decide +kernel⟩

theorem test_notify : ∃ (s : State) (i : Nat) (rx : Rx) (m : Kmp), s.isManager = true ∧ (inboxMsgs s).find? (fun (_, _, m)
  => m.ty == 0x0B && !(bit m.flags 0)) = some (i, rx, m) ∧ s.nat .kmp 0 5 ≠ 0 :=
  ⟨{ mgr.setNum .kmp 0 5 9 with net := { mgr.net with inbox := [⟨1, 5, kmpFrame (message 0x0B 0 [])⟩] } }, 0, ⟨1, 5,
  kmpFrame (message 0x0B 0 [])⟩, message 0x0B 0 [], by decide +kernel⟩

theorem test_kmpRead : ∃ (s : State) (i : Nat) (rx : Rx) (m : Kmp) (k : Sess) (es : List (Nat × Nat)), KmpIn s (fun m =>
  m.ty == 0x01) i rx m k ∧ readEntries m.body = some es := ⟨asked (message 0x01 3 [1, 0, 0, 0, 0, 0x10, 4, 0]), 0, ⟨1, 5,
  kmpFrame (message 0x01 3 [1, 0, 0, 0, 0, 0x10, 4, 0])⟩, message 0x01 3 [1, 0, 0, 0, 0, 0x10, 4, 0], sess3, [(0x1000, 4)],
  by decide +kernel⟩

theorem test_kmpRead2 : ∃ (s : State) (i : Nat) (rx : Rx) (m : Kmp) (k : Sess), KmpIn s (fun m => m.ty == 0x01) i rx m k ∧
  readEntries m.body = none := ⟨asked (message 0x01 3 [1, 0]), 0, ⟨1, 5, kmpFrame (message 0x01 3 [1, 0])⟩, message 0x01 3
  [1, 0], sess3, by decide +kernel⟩

theorem test_kmpWrite : ∃ (s : State) (i : Nat) (rx : Rx) (m : Kmp) (k : Sess) (v : Bytes), KmpIn s (fun m => m.ty ==
  0x02) i rx m k ∧ 3 ≤ phase s ∧ s.power.inReset = false ∧ leAt m.body 0 4 = 1 ∧ writeEntries 1 (m.body.drop 4) = some
  [(0x1030, 1, v)] ∧ v.length = 4 ∧ leNat v % 256 = 0 := ⟨asked (message 0x02 3 [1, 0, 0, 0, 0x30, 0x10, 1, 0, 4, 0, 0, 0,
  0, 4, 0, 0x10]), 0, ⟨1, 5, kmpFrame (message 0x02 3 [1, 0, 0, 0, 0x30, 0x10, 1, 0, 4, 0, 0, 0, 0, 4, 0, 0x10])⟩, message
  0x02 3 [1, 0, 0, 0, 0x30, 0x10, 1, 0, 4, 0, 0, 0, 0, 4, 0, 0x10], sess3, [0, 4, 0, 0x10], by decide +kernel⟩

theorem test_kmpWrite2 : ∃ (s : State) (i : Nat) (rx : Rx) (m : Kmp) (k : Sess), KmpIn s (fun m => m.ty == 0x02) i rx m k
  ∧ (leAt m.body 0 1 = 0 ∨ 32 < leAt m.body 0 1) := ⟨asked (message 0x02 3 [0, 0, 0, 0]), 0, ⟨1, 5, kmpFrame (message 0x02 3
  [0, 0, 0, 0])⟩, message 0x02 3 [0, 0, 0, 0], sess3, by decide +kernel⟩

theorem test_readBlock : ∃ (s : State) (i : Nat) (rx : Rx) (m : Kmp) (k : Sess) (off len : Nat), KmpIn s (fun m => m.ty ==
  0x03) i rx m k ∧ m.body.length = 20 ∧ leAt m.body 0 8 = 1 ∧ off = leAt m.body 8 8 ∧ len = leAt m.body 16 2 ∧ leAt m.body
  18 2 = 0 ∧ 1 ≤ len ∧ len ≤ 1424 ∧ regionHeld s off len = true := ⟨(asked (message 0x03 3 [1, 0, 0, 0, 0, 0, 0, 0, 2, 0, 0,
  0, 0, 0, 0, 0, 9, 0, 0, 0])).setNum .takeMem 0 5 64, 0, ⟨1, 5, kmpFrame (message 0x03 3 [1, 0, 0, 0, 0, 0, 0, 0, 2, 0, 0,
  0, 0, 0, 0, 0, 9, 0, 0, 0])⟩, message 0x03 3 [1, 0, 0, 0, 0, 0, 0, 0, 2, 0, 0, 0, 0, 0, 0, 0, 9, 0, 0, 0], sess3, 2, 9,
  by decide +kernel⟩

theorem test_writeBlock : ∃ (s : State) (i : Nat) (rx : Rx) (m : Kmp) (k : Sess) (total len : Nat), KmpIn s (fun m => m.ty
  == 0x04) i rx m k ∧ total = leAt m.body 4 4 ∧ leAt m.body 8 4 = 0 ∧ len = leAt m.body 12 2 ∧ leAt m.body 3 1 = 0 ∧ leAt
  m.body 14 2 = 0 ∧ m.body.length = 16 + ceilTo 4 len ∧ 1 ≤ len ∧ len ≤ 1440 ∧ len < total ∧ total ≤ 65535 := ⟨asked
  (message 0x04 3 [0, 0x11, 1, 0, 9, 0, 0, 0, 0, 0, 0, 0, 4, 0, 0, 0, 1, 2, 3, 4]), 0, ⟨1, 5, kmpFrame (message 0x04 3 [0,
  0x11, 1, 0, 9, 0, 0, 0, 0, 0, 0, 0, 4, 0, 0, 0, 1, 2, 3, 4])⟩, message 0x04 3 [0, 0x11, 1, 0, 9, 0, 0, 0, 0, 0, 0, 0, 4,
  0, 0, 0, 1, 2, 3, 4], sess3, 9, 4, by decide +kernel⟩

theorem test_closeSession : ∃ (s : State) (i : Nat) (rx : Rx) (m : Kmp) (k : Sess), KmpIn s (fun m => m.ty == 0x06) i rx m
  k ∧ m.body = [] := ⟨asked (message 0x06 3 []), 0, ⟨1, 5, kmpFrame (message 0x06 3 [])⟩, message 0x06 3 [], sess3,
  by decide +kernel⟩

theorem test_keepalive : ∃ (s : State) (i : Nat) (rx : Rx) (m : Kmp) (k : Sess), KmpIn s (fun m => m.ty == 0x07) i rx m k
  ∧ m.body = [] := ⟨asked (message 0x07 3 []), 0, ⟨1, 5, kmpFrame (message 0x07 3 [])⟩, message 0x07 3 [], sess3,
  by decide +kernel⟩

theorem test_openSession : ∃ (s : State) (i : Nat) (rx : Rx) (m : Kmp), inboxReq s (fun m => m.ty == 0x05) = some (i, rx,
  m) ∧ m.body.length = 12 ∧ leAt m.body 2 2 = 0 ∧ 1 ≤ leAt m.body 0 2 ∧ leAt m.body 0 2 ≤ 3600 ∧ freeSessions s ≠ [] :=
  ⟨asked (message 0x05 0 [10, 0, 0, 0, 1, 2, 3, 4, 5, 6, 7, 8]), 0, ⟨1, 5, kmpFrame (message 0x05 0 [10, 0, 0, 0, 1, 2, 3,
  4, 5, 6, 7, 8])⟩, message 0x05 0 [10, 0, 0, 0, 1, 2, 3, 4, 5, 6, 7, 8], by decide +kernel⟩

theorem test_openSession2 : ∃ (s : State) (i : Nat) (rx : Rx) (m : Kmp), inboxReq s (fun m => m.ty == 0x05) = some (i, rx,
  m) ∧ m.body.length = 12 ∧ leAt m.body 2 2 = 0 ∧ 1 ≤ leAt m.body 0 2 ∧ leAt m.body 0 2 ≤ 3600 ∧ freeSessions s = [] :=
  ⟨crowded, 0, ⟨1, 5, kmpFrame (message 0x05 0 [10, 0, 0, 0, 1, 2, 3, 4, 5, 6, 7, 8])⟩, message 0x05 0 [10, 0, 0, 0, 1, 2,
  3, 4, 5, 6, 7, 8], by decide +kernel⟩

theorem test_sessionExpiry : ∃ (s : State) (n : Nat) (k : Sess), s.net.sessions.find? (fun p => decide (p.2.last +
  p.2.timeout * 24576000 ≤ s.now)) = some (n, k) := ⟨{ asked (message 0x07 3 []) with now := 2 ^ 40 }, 3, sess3,
  by decide +kernel⟩

theorem test_kmpFenceOpenSet : ∃ (s : State) (i : Nat) (rx : Rx) (m : Kmp) (k : Sess), KmpIn s (fun m => m.ty == 0x08 &&
  leAt m.body 0 1 != 2 && leAt m.body 0 1 != 3) i rx m k ∧ m.body.length = 12 ∧ leAt m.body 0 4 = 1 ∧ 3 ≤ phase s ∧ (s.stage
  m.ses).held = false := ⟨asked (message 0x08 3 [1, 0, 0, 0, 0, 0, 0, 0, 0, 0, 0, 0]), 0, ⟨1, 5, kmpFrame (message 0x08 3
  [1, 0, 0, 0, 0, 0, 0, 0, 0, 0, 0, 0])⟩, message 0x08 3 [1, 0, 0, 0, 0, 0, 0, 0, 0, 0, 0, 0], sess3, by decide +kernel⟩

theorem test_kmpFenceCommit : ∃ (s : State) (i : Nat) (rx : Rx) (m : Kmp) (k : Sess), KmpIn s (fun m => m.ty == 0x08 &&
  leAt m.body 0 1 == 2) i rx m k ∧ m.body.length = 12 ∧ leAt m.body 0 4 = 2 ∧ leAt m.body 4 8 = 0 ∧ 3 ≤ phase s ∧ (s.stage
  m.ses).held = true := ⟨(asked (message 0x08 3 [2, 0, 0, 0, 0, 0, 0, 0, 0, 0, 0, 0])).putStage 3
  { Stage.empty with held := true }, 0, ⟨1, 5, kmpFrame (message 0x08 3 [2, 0, 0, 0, 0, 0, 0, 0, 0, 0, 0, 0])⟩, message 0x08
  3 [2, 0, 0, 0, 0, 0, 0, 0, 0, 0, 0, 0], sess3, by decide +kernel⟩

theorem test_kmpFenceAbandon : ∃ (s : State) (i : Nat) (rx : Rx) (m : Kmp) (k : Sess), KmpIn s (fun m => m.ty == 0x08 &&
  leAt m.body 0 1 == 3) i rx m k ∧ m.body.length = 12 ∧ leAt m.body 0 4 = 3 ∧ 3 ≤ phase s ∧ (s.stage m.ses).held = true :=
  ⟨(asked (message 0x08 3 [3, 0, 0, 0, 0, 0, 0, 0, 0, 0, 0, 0])).putStage 3 { Stage.empty with held := true }, 0, ⟨1, 5,
  kmpFrame (message 0x08 3 [3, 0, 0, 0, 0, 0, 0, 0, 0, 0, 0, 0])⟩, message 0x08 3 [3, 0, 0, 0, 0, 0, 0, 0, 0, 0, 0, 0],
  sess3, by decide +kernel⟩

theorem test_slateCommand : ∃ (s : State) (i : Nat) (rx : Rx) (m : Kmp), s.isManager = false ∧ inboxReq s (fun m => m.ty
  == 0x09) = some (i, rx, m) ∧ m.body.length = 8 ∧ rx.frame.src = s.net.mgrMac ∧ anchored s = true ∧ s.now + s.nat .slate 0
  4 ≤ leNat m.body := ⟨slateAsked, 0, ⟨1, 5, kmpFrame (message 0x09 0 [0, 0, 16, 0, 0, 0, 0, 0])⟩, message 0x09 0 [0, 0, 16,
  0, 0, 0, 0, 0], by decide +kernel⟩

theorem test_takeTrigger : ∃ (s : State) (i : Nat) (rx : Rx) (m : Kmp), s.isManager = false ∧ inboxReq s (fun m => m.ty ==
  0x0A) = some (i, rx, m) ∧ m.ses = 0 ∧ m.body.length = 16 ∧ leAt m.body 0 8 < 16 ∧ s.nat .take (leAt m.body 0 8) 5 / 4096 =
  4 := ⟨(asked (message 0x0A 0 [3, 0, 0, 0, 0, 0, 0, 0, 9, 0, 0, 0, 0, 0, 0, 0])).setNum .take 3 5 0x4000, 0, ⟨1, 5,
  kmpFrame (message 0x0A 0 [3, 0, 0, 0, 0, 0, 0, 0, 9, 0, 0, 0, 0, 0, 0, 0])⟩, message 0x0A 0 [3, 0, 0, 0, 0, 0, 0, 0, 9, 0,
  0, 0, 0, 0, 0, 0], by decide +kernel⟩

theorem test_bridgeForward : ∃ (s : State) (i : Nat) (rx : Rx) (m : Kmp) (j : JoinRec), (inboxMsgs s).find? (fun (_, r, m)
  => !(bit m.flags 0) && forBridge s r.port m && !servesLocal s r m) = some (i, rx, m) ∧ m.ident ≠ allHubs ∧ m.ses ≠ 0 ∧
  s.net.bridged = [] ∧ (listedWorkers s).any (fun p => s.nat .workers 0 p == m.ident) = true ∧ (freshJoins s).find? (fun j
  => j.ident == m.ident) = some j := ⟨bridging, 0, ⟨2, 5, kmpFrame ({ message 0x07 3 [] with ident := 77 })⟩,
  { message 0x07 3 [] with ident := 77 }, join77, by decide +kernel⟩

theorem test_bridgeForward2 : ∃ (s : State) (i : Nat) (rx : Rx) (m : Kmp), (inboxMsgs s).find? (fun (_, r, m) => !(bit
  m.flags 0) && forBridge s r.port m && !servesLocal s r m) = some (i, rx, m) ∧ m.ident ≠ allHubs ∧ (freshJoins s).find?
  (fun j => j.ident == m.ident) = none := ⟨{ bridging with net := { bridging.net with joins := [] } }, 0, ⟨2, 5, kmpFrame
  ({ message 0x07 3 [] with ident := 77 })⟩, { message 0x07 3 [] with ident := 77 }, by decide +kernel⟩

theorem test_bridgeAnswer : ∃ (s : State) (i : Nat) (rx : Rx) (m : Kmp) (b : Bridged), (inboxMsgs s).find? (fun (_, _, m)
  => bit m.flags 0 && bit m.flags 1) = some (i, rx, m) ∧ s.net.bridged.find? (fun b => b.target == m.ident && b.tid == m.tid
  && (b.ses == m.ses || b.ses == 0)) = some b := ⟨answered [forwarded], 0, ⟨0, 5, kmpFrame
  { message 0x07 3 [] with ident := 77, flags := 3 }⟩, { message 0x07 3 [] with ident := 77, flags := 3 }, forwarded,
  by decide +kernel⟩

theorem test_bridgeAnswer2 : ∃ (s : State) (i : Nat) (rx : Rx) (m : Kmp), (inboxMsgs s).find? (fun (_, _, m) => bit
  m.flags 0 && bit m.flags 1) = some (i, rx, m) ∧ s.net.bridged = [] := ⟨answered [], 0, ⟨0, 5, kmpFrame
  { message 0x07 3 [] with ident := 77, flags := 3 }⟩, { message 0x07 3 [] with ident := 77, flags := 3 },
  by decide +kernel⟩

theorem test_bridgeTimeout : ∃ (s : State) (b : Bridged), s.net.bridged.find? (fun b => decide (b.tick + msTicks (s.nat
  .bridge 0 4) ≤ s.now)) = some b := ⟨{ answered [forwarded] with now := 2 ^ 40 }, forwarded, by decide +kernel⟩

theorem test_perst : ∃ (s : State), hostOn s = true ∧ s.nat .endpoint 0 1 = 1 := ⟨hosted, by decide +kernel⟩

theorem test_functionLevelReset : ∃ (s : State), hostOn s = true ∧ s.nat .endpoint 0 1 = 1 := ⟨hosted, by decide +kernel⟩

theorem test_hostLinkUp : ∃ (s : State) (speed width : Nat), hostOn s = true ∧ s.nat .endpoint 0 1 = 0 ∧ (speed = 25 ∨
  speed = 50 ∨ speed = 80) ∧ (width = 1 ∨ width = 2) := ⟨hosted.setNum .endpoint 0 1 0, 80, 2, by decide +kernel⟩

theorem test_hostLinkDown : ∃ (s : State), hostUp s = true := ⟨hosted, by decide +kernel⟩

theorem test_slotDoorbell : ∃ (s : State) (w vec : Nat), hostUp s = true ∧ w < 16 ∧ s.host.busy.contains w = false :=
  ⟨hosted, 15, 3, by decide +kernel⟩

theorem test_slotDoorbell2 : ∃ (s : State) (w vec : Nat), hostUp s = true ∧ w < 16 ∧ s.host.busy.contains w = true :=
  ⟨{ hosted with host := { hosted.host with busy := [2] } }, 2, 3, by decide +kernel⟩

theorem test_slotAnswer : ∃ (s : State) (head len tag k : Nat) (value v : Bytes) (rest : List Nat) (u : State) (c : Code),
  s.host.cut = false ∧ s.host.busy = k :: rest ∧ s.power.inReset = false ∧ bits head 31 28 = 1 ∧ bits head 27 24 = 0 ∧
  serveRead s 0 (bits head 23 8) (bits head 7 0) = (u, c, v) ∧ v.length ≤ 65535 :=
  ⟨{ hosted with host := { hosted.host with busy := [2] } }, 0x10100004, 0, 7, 2, [], (serveRead
  { hosted with host := { hosted.host with busy := [2] } } 0 0x1000 4).2.2, [], (serveRead
  { hosted with host := { hosted.host with busy := [2] } } 0 0x1000 4).1, .success, by decide +kernel⟩

theorem test_eventDoorbell : ∃ (s : State) (w : Nat), hostUp s = true ∧ 3 ≤ phase s := ⟨hosted, 9, by decide +kernel⟩

theorem test_bar2Write : ∃ (s : State) (offset : Nat) (bs : Bytes), hostUp s = true ∧ offset + bs.length ≤ 67108864 ∧
  within dmaBase dmaBufSize (s.nat .endpoint 0 10 * 1048576 + offset) bs.length = true := ⟨windowed, dmaBase % 1048576, [7],
  inside_witness⟩

theorem test_bar2Write2 : ∃ (s : State) (offset : Nat) (bs : Bytes), hostUp s = true ∧ offset + bs.length ≤ 67108864 ∧
  within dmaBase dmaBufSize (s.nat .endpoint 0 10 * 1048576 + offset) bs.length = false := ⟨hosted.setNum .endpoint 0 10 (if
  dmaBase < 1048576 then 100 else 0), 0, List.replicate 64 7, outside_witness⟩

theorem test_msixUnmask : ∃ (s : State) (v : Nat), hostUp s = true ∧ v < 32 ∧ s.host.pendingV.contains v = false :=
  ⟨hosted, 31, by decide +kernel⟩

theorem test_msixUnmask2 : ∃ (s : State) (v : Nat), hostUp s = true ∧ v < 32 ∧ s.host.pendingV.contains v = true :=
  ⟨{ hosted with host := { hosted.host with pendingV := [31] } }, 31, by decide +kernel⟩

theorem test_badRequestReceived : ∃ (s : State), hostUp s = true := ⟨hosted, by decide +kernel⟩

theorem test_consumedOffsetWrite : ∃ (s : State) (ses : Nat) (bs : Bytes), s.serves ses ∧ s.power.inReset = false ∧ s.has
  .handoff 0 = true ∧ bs.length = 8 ∧ leNat bs % 16 = 0 ∧ s.nat .handoff 0 4 ≤ leNat bs ∧ leNat bs ≤ s.nat .handoff 0 3 :=
  ⟨up.setNum .handoff 0 3 64, 0, [32, 0, 0, 0, 0, 0, 0, 0], by decide +kernel⟩

theorem test_lgoUpdateTick : ∃ (s : State) (i u ch : Nat) (v : Int) (r : Option Nat), i < 16 ∧ s.nat .startup 0 3 = 6 ∧ u
  = s.now / (s.lgoOut i).period * (s.lgoOut i).period ∧ (s.lgoOut i).looked ≠ some u ∧ (s.lgoOut i).mode = s.nat .lgo i 1 ∧
  (s.lgoOut i).fault = false ∧ (s.lgoOut i).mode ≠ 0 ∧ (s.lgoOut i).asked = false ∧ (s.lgoOut i).stale = false ∧ lgoChan s i
  = some ch ∧ lgoFind s (s.lgoOut i) ch u = .value v r := ⟨metered, 3, 24576000, 5, 77, none, by decide +kernel⟩

theorem test_lgoUpdateTick2 : ∃ (s : State) (i u : Nat), i < 16 ∧ s.nat .startup 0 3 = 6 ∧ u = s.now / (s.lgoOut i).period
  * (s.lgoOut i).period ∧ (s.lgoOut i).looked ≠ some u ∧ (s.lgoOut i).mode = s.nat .lgo i 1 ∧ (s.lgoOut i).fault = false ∧
  (s.lgoOut i).mode ≠ 0 ∧ (s.lgoOut i).asked = true ∧ (s.lgoOut i).request.getD 0 ≤ u := ⟨metered.modLgo 3 (fun k =>
  { k with asked := true }), 3, 24576000, by decide +kernel⟩

theorem test_lgoUpdateTick3 : ∃ (s : State) (i u : Nat), i < 16 ∧ s.nat .startup 0 3 = 6 ∧ u = s.now / (s.lgoOut i).period
  * (s.lgoOut i).period ∧ (s.lgoOut i).looked ≠ some u ∧ (s.lgoOut i).mode = s.nat .lgo i 1 ∧ (s.lgoOut i).fault = false ∧
  (s.lgoOut i).mode = 0 := ⟨{ up with now := 24576000 }, 3, 24576000, by decide +kernel⟩

theorem test_lgoStaleExpiry : ∃ (s : State) (i : Nat), i < 16 ∧ (s.lgoOut i).mode ≠ 0 ∧ (s.lgoOut i).staleMs ≠ 0 ∧
  (s.lgoOut i).lastTaken + msTicks (s.lgoOut i).staleMs ≤ s.now := ⟨metered.modLgo 3 (fun k => { k with staleMs := 5 }), 3,
  by decide +kernel⟩

theorem test_lgoFaultHoldExpiry : ∃ (s : State) (i : Nat), i < 16 ∧ (s.lgoOut i).fault = true ∧ (s.lgoOut i).holdMs ≠ 0 ∧
  (s.lgoOut i).request.getD 0 + msTicks (s.lgoOut i).holdMs ≤ s.now := ⟨metered.modLgo 3 (fun k =>
  { k with fault := true, holdMs := 5 }), 3, by decide +kernel⟩

theorem test_releaseCommand : ∃ (s : State) (ses i : Nat), s.serves ses ∧ s.power.inReset = false ∧ i < 16 := ⟨up, 0, 15,
  by decide +kernel⟩

theorem test_tapReset : ∃ (s : State), tapOn s = true := ⟨probed, by decide +kernel⟩

theorem test_tapExtest : ∃ (s : State), tapOn s = true ∧ s.dbg.resetDue = false ∧ s.power.held = true := ⟨probedHeld,
  by decide +kernel⟩

theorem test_tapExtest2 : ∃ (s : State), tapOn s = true ∧ s.dbg.resetDue = false ∧ s.power.held = false ∧ s.power.inReset
  = false := ⟨probed, by decide +kernel⟩

theorem test_tapClamp : ∃ (s : State), tapOn s = true ∧ s.dbg.resetDue = false ∧ s.power.held = true := ⟨probedHeld,
  by decide +kernel⟩

theorem test_tapClamp2 : ∃ (s : State), tapOn s = true ∧ s.dbg.resetDue = false ∧ s.power.held = false ∧ s.power.inReset =
  false := ⟨probed, by decide +kernel⟩

theorem test_tapHighz : ∃ (s : State), tapOn s = true ∧ s.dbg.resetDue = false ∧ s.power.held = true := ⟨probedHeld,
  by decide +kernel⟩

theorem test_tapHighz2 : ∃ (s : State), tapOn s = true ∧ s.dbg.resetDue = false ∧ s.power.held = false ∧ s.power.inReset =
  false := ⟨probed, by decide +kernel⟩

theorem test_samplePreload : ∃ (s : State) (balls : Nat), tapOn s = true ∧ s.dbg.resetDue = false := ⟨probed, 5,
  by decide +kernel⟩

theorem test_tapIdcode : ∃ (s : State), tapOn s = true ∧ s.dbg.resetDue = false := ⟨probed, by decide +kernel⟩

theorem test_tapBypass : ∃ (s : State), tapOn s = true ∧ s.dbg.resetDue = false := ⟨probed, by decide +kernel⟩

theorem test_dbgdataCapture : ∃ (s : State) (w : Nat) (rest : List Nat), tapOn s = true ∧ s.dbg.ir = 0x11 ∧ s.dbg.rbuf = w
  :: rest := ⟨probed.modDbg (fun d => { d with ir := 0x11, rbuf := [5] }), 5, [], by decide +kernel⟩

theorem test_dbgdataCapture2 : ∃ (s : State), tapOn s = true ∧ s.dbg.ir = 0x11 ∧ s.dbg.rbuf = [] := ⟨probed.modDbg (fun d
  => { d with ir := 0x11 }), by decide +kernel⟩

theorem test_dbgdataUpdate : ∃ (s : State) (w : Nat), tapOn s = true ∧ s.dbg.ir = 0x11 ∧ s.power.inReset = false ∧ bit w
  64 = true ∧ s.dbg.wbuf.length < 8192 := ⟨probed.modDbg (fun d => { d with ir := 0x11 }), 2 ^ 64 + 7, by decide +kernel⟩

theorem test_dbgdataUpdate2 : ∃ (s : State) (w : Nat), tapOn s = true ∧ s.dbg.ir = 0x11 ∧ s.power.inReset = false ∧ bit w
  64 = true ∧ 8192 ≤ s.dbg.wbuf.length := ⟨fullBuffer, 2 ^ 64 + 7, by decide +kernel⟩

theorem test_debugNoOperation : ∃ (s : State) (w : Nat), tapOn s = true ∧ bits w 63 60 = 0 ∧ s.dbg.ir = 0x10 ∧
  s.dbg.resetDue = false := ⟨commanding, 0, by decide +kernel⟩

theorem test_debugObjectRead : ∃ (s : State) (w : Nat), DbgTakes s w 1 ∧ bits w 59 32 = 0 ∧ bits w 7 0 = 0 ∧ 3 ≤ phase s
  := ⟨commanding, 1 * 2 ^ 60 + 0x10000400, by decide +kernel⟩

theorem test_debugObjectWrite : ∃ (s : State) (w : Nat), DbgTakes s w 2 ∧ bits w 59 0 = 4 * 2 ^ 40 + 0x10000D00 ∧ 4 ≤
  s.dbg.wbytes.length ∧ 3 ≤ phase s ∧ (s.stage 15).held = false := ⟨commanding, 2 * 2 ^ 60 + 4 * 2 ^ 40 + 0x10000D00,
  by decide +kernel⟩

theorem test_debugMemoryRead : ∃ (s : State) (w : Nat), DbgTakes s w 3 ∧ bits w 59 56 = 1 ∧ bits w 47 0 % 8 = 0 ∧ bits w
  47 0 + 8 * (bits w 55 48 + 1) ≤ 65536 ∧ 2 ≤ phase s := ⟨commanding, 3 * 2 ^ 60 + 1 * 2 ^ 56 + 1 * 2 ^ 48 + 16,
  by decide +kernel⟩

theorem test_debugMemoryWrite : ∃ (s : State) (w : Nat), DbgTakes s w 4 ∧ bits w 59 56 = 1 ∧ bits w 47 0 % 8 = 0 ∧ bits w
  47 0 + 8 * (bits w 55 48 + 1) ≤ 65536 ∧ 8 * (bits w 55 48 + 1) ≤ s.dbg.wbytes.length ∧ 2 ≤ phase s ∧ (∀ p : Fin 64,
  (s.bytes .sram 0 (p + 1)).length = 1024) := ⟨commanding, 4 * 2 ^ 60 + 1 * 2 ^ 56 + 16, by decide +kernel⟩

theorem test_debugCommandDone : ∃ (s : State) (op : Nat) (b : Bytes), s.dbg.busy = some (op, .success, b) :=
  ⟨commanding.modDbg (fun d => { d with busy := some (1, .success, [1, 2, 3, 4, 5, 6, 7, 8]) }), 1, [1, 2, 3, 4, 5, 6, 7,
  8], by decide +kernel⟩

theorem test_debugCommandDone2 : ∃ (s : State) (op : Nat) (c : Code) (b : Bytes), s.dbg.busy = some (op, c, b) ∧ c ≠
  .success := ⟨commanding.modDbg (fun d => { d with busy := some (1, .inUse, []) }), 1, .inUse, [], by decide +kernel⟩

theorem test_storeComplete2 : ∃ (s : State) (gen tick later : Nat) (x : Snap), s.store.run = some ⟨gen, some (tick, x),
  later⟩ ∧ s.power.resetWait = false :=
  ⟨{ up with store := { up.store with run := some ⟨1, some (24576, ⟨1, true, [], []⟩), 0⟩ } }, 1, 24576, 0, ⟨1, true, [],
  []⟩, by decide +kernel⟩

theorem test_dmaEnd : ∃ (s : State) (c w : Nat), s.dma.cur = some (c, w) ∧ c < 16 ∧ bits w 63 60 = 0 ∧ bits w 59 1 = 0 ∧
  (s.dmaCh c).open_ = false := ⟨fetched 1 id, 3, 1, by decide +kernel⟩

theorem test_dmaEnd2 : ∃ (s : State) (c w : Nat), s.dma.cur = some (c, w) ∧ c < 16 ∧ bits w 63 60 = 0 ∧ bits w 59 1 = 0 ∧
  (s.dmaCh c).open_ = true := ⟨fetched 1 (fun k => { k with outs := [⟨0, 8, 8, false, false⟩] }), 3, 1, by decide +kernel⟩

theorem test_dmaEnd3 : ∃ (s : State) (c w : Nat), s.dma.cur = some (c, w) ∧ c < 16 ∧ bits w 63 60 = 0 ∧ bits w 59 1 ≠ 0 :=
  ⟨fetched 2 id, 3, 2, by decide +kernel⟩

theorem test_writeConfirmed2 : ∃ (s : State) (c : Nat) (good : Bool), (s.dmaCh c).reqs.any (·.write) = true := ⟨up.modCh 3
  (fun k => { k with reqs := [{ askReq with write := true }] }), 3, true, by decide +kernel⟩

theorem test_writeConfirmed3 : ∃ (s : State) (c l a : Nat) (good : Bool), c < 16 ∧ dmaState s c = 2 ∧ (s.dmaCh c).wait =
  some ⟨.finish true, l, a⟩ ∧ (s.dmaCh c).reqs.any (·.write) = false ∧ (s.dmaCh c).outs.find? (fun o => o.target == 1) =
  none ∨ (s.nat .endpoint 0 1 ≠ 0 ∧ good = true) := ⟨waiting (.finish true) (fun k =>
  { k with outs := [⟨0, 8, 8, false, false⟩] }), 3, 9, 0, true, by decide +kernel⟩

theorem test_writeConfirmed4 : ∃ (s : State) (c l a : Nat) (good : Bool), c < 16 ∧ dmaState s c = 2 ∧ (s.dmaCh c).wait =
  some ⟨.finish false, l, a⟩ ∧ (s.dmaCh c).reqs.any (·.write) = false ∧ (s.dmaCh c).outs.find? (fun o => o.target == 1) =
  none ∨ (s.nat .endpoint 0 1 ≠ 0 ∧ good = true) := ⟨waiting (.finish false) (fun k =>
  { k with outs := [⟨0, 8, 8, false, false⟩] }), 3, 9, 0, true, by decide +kernel⟩

theorem test_debugReset : ∃ (s : State) (w : Nat), DbgTakes s w 8 ∧ bits w 59 0 = 0 := ⟨commanding, 8 * 2 ^ 60,
  by decide +kernel⟩

theorem test_debugNoOperation2 : ∃ (s : State) (w : Nat), tapOn s = true ∧ s.dbg.resetDue = true ∧ bits w 63 60 = 0 ∧
  s.dbg.ir = 0x10 ∧ s.dbg.state = 2 := ⟨commanding.modDbg (fun d => { d with resetDue := true, state := 2 }), 0,
  by decide +kernel⟩

theorem test_debugNoOperation3 : ∃ (s : State) (w : Nat), tapOn s = true ∧ s.dbg.resetDue = true ∧ bits w 63 60 = 0 ∧
  s.dbg.ir = 0x10 ∧ s.dbg.state ≠ 2 := ⟨commanding.modDbg (fun d => { d with resetDue := true, state := 1 }), 0,
  by decide +kernel⟩

theorem test_tapIdcode2 : ∃ (s : State), tapOn s = true ∧ s.dbg.resetDue = true := ⟨commanding.modDbg (fun d =>
  { d with resetDue := true, state := 2 }), by decide +kernel⟩

theorem test_tapBypass2 : ∃ (s : State), tapOn s = true ∧ s.dbg.resetDue = true := ⟨commanding.modDbg (fun d =>
  { d with resetDue := true, state := 2 }), by decide +kernel⟩

theorem test_samplePreload2 : ∃ (s : State) (balls : Nat), tapOn s = true ∧ s.dbg.resetDue = true := ⟨commanding.modDbg
  (fun d => { d with resetDue := true, state := 2 }), 5, by decide +kernel⟩

theorem test_tapExtest3 : ∃ (s : State), tapOn s = true ∧ s.dbg.resetDue = true ∧ s.power.held = false :=
  ⟨commanding.modDbg (fun d => { d with resetDue := true, state := 2 }), by decide +kernel⟩

theorem test_tapClamp3 : ∃ (s : State), tapOn s = true ∧ s.dbg.resetDue = true ∧ s.power.held = false :=
  ⟨commanding.modDbg (fun d => { d with resetDue := true, state := 2 }), by decide +kernel⟩

theorem test_tapHighz3 : ∃ (s : State), tapOn s = true ∧ s.dbg.resetDue = true ∧ s.power.held = false :=
  ⟨commanding.modDbg (fun d => { d with resetDue := true, state := 2 }), by decide +kernel⟩

theorem test_dbgdataCapture3 : ∃ (s : State), tapOn s = true ∧ s.dbg.resetDue = true ∧ s.dbg.ir ≠ 0x11 :=
  ⟨commanding.modDbg (fun d => { d with resetDue := true, state := 2 }), by decide +kernel⟩

theorem test_dbgdataUpdate3 : ∃ (s : State) (w : Nat), tapOn s = true ∧ s.dbg.resetDue = true ∧ s.dbg.ir ≠ 0x11 :=
  ⟨commanding.modDbg (fun d => { d with resetDue := true, state := 2 }), 5, by decide +kernel⟩

theorem test_debugNoOperation4 : ∃ (s : State) (w : Nat), tapOn s = true ∧ s.dbg.resetDue = true ∧ bits w 63 60 = 0 ∧
  s.dbg.ir ≠ 0x10 := ⟨commanding.modDbg (fun d => { d with resetDue := true, ir := 2 }), 0, by decide +kernel⟩

theorem test_debugObjectRead2 : ∃ (s : State) (w : Nat), tapOn s = true ∧ s.dbg.resetDue = true ∧ bits w 63 60 = 1 ∧
  s.dbg.ir = 0x10 ∧ s.dbg.state = 2 := ⟨commanding.modDbg (fun d => { d with resetDue := true, state := 2 }), 1 * 2 ^ 60,
  by decide +kernel⟩

theorem test_debugObjectWrite2 : ∃ (s : State) (w : Nat), tapOn s = true ∧ s.dbg.resetDue = true ∧ bits w 63 60 = 2 ∧
  s.dbg.ir = 0x10 ∧ s.dbg.state = 2 := ⟨commanding.modDbg (fun d => { d with resetDue := true, state := 2 }), 2 * 2 ^ 60,
  by decide +kernel⟩

theorem test_debugMemoryRead2 : ∃ (s : State) (w : Nat), tapOn s = true ∧ s.dbg.resetDue = true ∧ bits w 63 60 = 3 ∧
  s.dbg.ir = 0x10 ∧ s.dbg.state = 2 := ⟨commanding.modDbg (fun d => { d with resetDue := true, state := 2 }), 3 * 2 ^ 60,
  by decide +kernel⟩

theorem test_debugMemoryWrite2 : ∃ (s : State) (w : Nat), tapOn s = true ∧ s.dbg.resetDue = true ∧ bits w 63 60 = 4 ∧
  s.dbg.ir = 0x10 ∧ s.dbg.state = 2 := ⟨commanding.modDbg (fun d => { d with resetDue := true, state := 2 }), 4 * 2 ^ 60,
  by decide +kernel⟩

theorem test_debugReset2 : ∃ (s : State) (w : Nat), tapOn s = true ∧ s.dbg.resetDue = true ∧ bits w 63 60 = 8 ∧ s.dbg.ir =
  0x10 ∧ s.dbg.state = 2 := ⟨commanding.modDbg (fun d => { d with resetDue := true, state := 2 }), 8 * 2 ^ 60,
  by decide +kernel⟩

/-! Witnesses for the statements that are not about one command. -/

theorem test_step_command : ∃ (s : State) (c : Instr) (rest : List Instr), s.pending = c :: rest :=
  ⟨{ up with pending := [.tapReset, .autosave] }, .tapReset, [.autosave], rfl⟩

theorem test_step_idle : ∃ s : State, s.pending = [] ∧ s.power.inReset = true := ⟨State.reset, by decide +kernel⟩

theorem test_step_tick : ∃ s : State, s.pending = [] ∧ s.power.inReset = false := ⟨up, by decide +kernel⟩

theorem test_entry_default : ∃ (o : Obj) (u sub : Nat) (e : Entry), o.entry u sub = some e :=
  ⟨.identity, 0, 4, _, rfl⟩

theorem test_memory_step : ∃ s t : State, s.memOk = true ∧ Stepped s t :=
  ⟨{ up with pending := [.tapReset], dmaBuf := [(5, 7)] }, _, by decide +kernel, rfl⟩

theorem test_memory_bytes : ∃ (bs : Bytes) (off a i : Nat), (a < off ∨ off + bs.length ≤ a) ∧ i < bs.length :=
  ⟨[1, 2], 3, 5, 1, by decide⟩

theorem test_codec_block : ∃ k : BlkDef, 1 ≤ k.words.length ∧ k.words.length ≤ 256 ∧ (∀ w ∈ k.words, w < 2 ^ 32) ∧
    k.maxOrder ≤ 3 ∧ k.ch < 2 ^ 16 ∧ k.first < 2 ^ 64 ∧ k.d < 2 ^ 32 ∧ k.isCoded = true :=
  ⟨workedBlock, by decide +kernel⟩

end Sys2Proof.Tests
end

section
/-! PROOFS. The stream codec (spec/10_stream_codec.md): each reader of the decoder inverts the writer of the encoder that it
answers, from single bits up to whole blocks. -/

namespace Sys2Proof.Machine

open Sys2Proof

/-! Bits and numbers (R333). -/

@[simp] theorem natBits_length (n v : Nat) : (natBits n v).length = n := by
  induction n with
  | zero => rfl
  | succ n ih => simp [natBits, ih]

theorem b2n_bit (v n : Nat) : b2n (bit v n) = v / 2 ^ n % 2 := by
  unfold b2n bit
  rcases Nat.mod_two_eq_zero_or_one (v / 2 ^ n) with h | h <;> simp [h]

theorem bitsFold_eq (a : Nat) (bs : List Bool) :
    bs.foldl (fun a b => 2 * a + b2n b) a = 2 ^ bs.length * a + bitsNat bs := by
  induction bs generalizing a with
  | nil => simp [bitsNat]
  | cons b bs ih =>
    rw [bitsNat, List.foldl_cons, List.foldl_cons, ih, ih (2 * 0 + b2n b), List.length_cons, pow_succ]
    ring

theorem bitsNat_cons (b : Bool) (bs : List Bool) : bitsNat (b :: bs) = 2 ^ bs.length * b2n b + bitsNat bs := by
  rw [bitsNat, List.foldl_cons, bitsFold_eq, Nat.mul_zero, Nat.zero_add]

theorem bitsNat_natBits (n v : Nat) : bitsNat (natBits n v) = v % 2 ^ n := by
  induction n with
  | zero => simp [natBits, bitsNat, Nat.mod_one]
  | succ n ih => rw [natBits, bitsNat_cons, natBits_length, ih, b2n_bit, Nat.mod_pow_succ, Nat.add_comm]

/-- Bits from position `n` up do not show in the `n` low bits. -/
theorem natBits_add_mul (n v c : Nat) : natBits n (2 ^ n * c + v) = natBits n v := by
  induction n generalizing c with
  | zero => rfl
  | succ n ih =>
    have h : 2 ^ (n + 1) * c + v = 2 ^ n * (2 * c) + v := by ring
    have hbit : bit (2 ^ n * (2 * c) + v) n = bit v n := by
      simp [bit, Nat.mul_add_div (Nat.two_pow_pos n)]
    rw [natBits, natBits, h, ih, hbit]

theorem bitsNat_lt (bs : List Bool) : bitsNat bs < 2 ^ bs.length := by
  induction bs with
  | nil => simp [bitsNat]
  | cons b bs ih =>
    rw [bitsNat_cons, List.length_cons, pow_succ]
    cases b <;> simp [b2n] <;> omega

theorem natBits_bitsNat (bs : List Bool) : natBits bs.length (bitsNat bs) = bs := by
  induction bs with
  | nil => rfl
  | cons b bs ih =>
    have hbit : bit (2 ^ bs.length * b2n b + bitsNat bs) bs.length = b := by
      rw [bit, Nat.mul_add_div (Nat.two_pow_pos _), Nat.div_eq_of_lt (bitsNat_lt bs)]
      cases b <;> simp [b2n]
    rw [bitsNat_cons, List.length_cons, natBits, natBits_add_mul, ih, hbit]

/-! Packing bits into bytes (R333). -/

@[simp] theorem packBits_length (n : Nat) (bs : List Bool) : (packBits n bs).length = n := by
  induction n generalizing bs with
  | zero => rfl
  | succ n ih => simp [packBits, ih]

/-- A byte made of eight bits gives them back. -/
theorem natBits_byte {bs : List Bool} (h : bs.length = 8) : natBits 8 (BitVec.ofNat 8 (bitsNat bs)).toNat = bs := by
  have hlt : bitsNat bs < 2 ^ 8 := h ▸ bitsNat_lt bs
  rw [BitVec.toNat_ofNat, Nat.mod_eq_of_lt hlt, ← h, natBits_bitsNat]

/-- Packed bits come back followed by the zero bits that fill the last bytes. -/
theorem bitsOf_packBits (n : Nat) (bs : List Bool) (h : bs.length ≤ 8 * n) :
    bitsOf (packBits n bs) = bs ++ List.replicate (8 * n - bs.length) false := by
  induction n generalizing bs with
  | zero => simp [packBits, bitsOf, List.eq_nil_of_length_eq_zero (Nat.le_zero.mp h)]
  | succ n ih =>
    have hrest : bitsOf (packBits n (bs.drop 8)) = _ := ih (bs.drop 8) (by simp; omega)
    rw [packBits, bitsOf, List.flatMap_cons, natBits_byte (by simp; omega), ← bitsOf, hrest, List.length_drop]
    rcases Nat.le_total 8 bs.length with h8 | h8
    · rw [List.take_append_of_le_length h8, ← List.append_assoc, List.take_append_drop]
      congr 2; omega
    · rw [List.take_of_length_le (by simp; omega), List.drop_of_length_le h8, List.nil_append, List.append_assoc,
        List.replicate_append_replicate]
      congr 2; omega

/-! Taking codes from a bit string (R338). -/

theorem takeBits_natBits {n v : Nat} (h : v < 2 ^ n) (r : List Bool) : takeBits n (natBits n v ++ r) = some (v, r) := by
  have hlen : n = (natBits n v).length := (natBits_length n v).symm
  rw [takeBits, if_pos (by simp), List.take_append_of_le_length hlen.le, List.take_of_length_le hlen.ge, bitsNat_natBits,
    Nat.mod_eq_of_lt h, List.drop_append_of_le_length hlen.le, List.drop_of_length_le hlen.ge, List.nil_append]

theorem takeOnes_stop {q f : Nat} (h : q < f) (r : List Bool) :
    takeOnes f (List.replicate q true ++ false :: r) = some (q, r) := by
  induction q generalizing f with
  | zero => obtain ⟨f, rfl⟩ := Nat.exists_eq_add_of_lt h; simp [takeOnes]
  | succ q ih =>
    obtain ⟨f, rfl⟩ : ∃ g, f = g + 1 := ⟨f - 1, by omega⟩
    simp [List.replicate_succ, takeOnes, ih (Nat.lt_of_succ_lt_succ h)]

theorem takeOnes_all (f : Nat) (r : List Bool) : takeOnes f (List.replicate f true ++ r) = some (f, r) := by
  induction f with
  | zero => rfl
  | succ f ih => simp [List.replicate_succ, takeOnes, ih]

/-- Both forms of a code give back their number (R338). -/
theorem takeCode_codeBits (k : Nat) {u : Nat} (h : u < 2 ^ 27) (r : List Bool) :
    takeCode k (codeBits k u ++ r) = some (u, r) := by
  unfold codeBits
  split
  · next hq =>
    have hlow : u % 2 ^ k < 2 ^ k := Nat.mod_lt _ (Nat.two_pow_pos k)
    have hbits : natBits k u = natBits k (u % 2 ^ k) := by
      conv_lhs => rw [← Nat.div_add_mod u (2 ^ k), natBits_add_mul]
    rw [List.append_assoc, List.cons_append, takeCode, takeOnes_stop hq]
    simp [hq, hbits, takeBits_natBits hlow, Nat.div_add_mod']
  · rw [List.append_assoc, takeCode, takeOnes_all]
    simp [takeBits_natBits h]

theorem codeBits_length (k u : Nat) : (codeBits k u).length = codeLen k u := by
  unfold codeBits codeLen
  split
  · simp; omega
  · simp

theorem takeCodes_codes (k : Nat) {us : List Nat} (h : ∀ u ∈ us, u < 2 ^ 27) (r : List Bool) :
    takeCodes k us.length (us.flatMap (codeBits k) ++ r) = some (us, r) := by
  induction us with
  | nil => rfl
  | cons u us ih =>
    obtain ⟨hu, hus⟩ := List.forall_mem_cons.mp h
    simp [takeCodes, takeCode_codeBits k hu, ih hus]

/-! The encoder's choices stay in their ranges (R339, R340). -/

theorem argMin_le (f : Nat → Nat) (n : Nat) : argMin f n ≤ n := by
  induction n with
  | zero => simp [argMin]
  | succ n ih => simp only [argMin]; split <;> omega

theorem bestK_le (us : List Nat) : bestK us ≤ 26 := argMin_le _ 26

theorem bestOrder_le (m : Nat) (vs : List Int) : bestOrder m vs ≤ min m (vs.length - 1) := argMin_le _ _

/-! Partitions (R336, R337). -/

theorem takeParts_partBits {ps : List (List Nat)} (h : ∀ us ∈ ps, ∀ u ∈ us, u < 2 ^ 27) (r : List Bool) :
    takeParts (ps.map List.length) (ps.flatMap partBits ++ r) = some (ps.flatten, r) := by
  induction ps with
  | nil => rfl
  | cons us ps ih =>
    obtain ⟨hus, hps⟩ := List.forall_mem_cons.mp h
    have hk : bestK us ≤ 26 := bestK_le us
    have hfield : bestK us < 2 ^ 5 := by omega
    simp only [List.map_cons, List.flatMap_cons, List.flatten_cons, partBits, List.append_assoc, takeParts,
      takeBits_natBits hfield, if_neg (Nat.not_lt.mpr hk), takeCodes_codes _ hus, ih hps, Option.map_some]

theorem groups32_map {α β : Type} (f : α → β) (k : Nat) (xs : List α) :
    groups32 k (xs.map f) = (groups32 k xs).map (List.map f) := by
  induction k generalizing xs with
  | zero => rfl
  | succ k ih =>
    simp only [groups32, List.isEmpty_map]
    split
    · rfl
    · rw [← List.map_drop, ih, ← List.map_take, List.map_cons]

theorem partitions_map {α β : Type} (f : α → β) (xs : List α) :
    partitions (xs.map f) = (partitions xs).map (List.map f) := by
  simp only [partitions, List.isEmpty_map, List.length_map]
  split
  · rfl
  · rw [← List.map_drop, groups32_map, ← List.map_take, List.map_cons]

theorem groups32_flatten {α : Type} {k : Nat} {xs : List α} (h : xs.length ≤ k) : (groups32 k xs).flatten = xs := by
  induction k generalizing xs with
  | zero => simp [groups32, List.eq_nil_of_length_eq_zero (Nat.le_zero.mp h)]
  | succ k ih =>
    simp only [groups32]
    split
    · next he => simp [List.isEmpty_iff.mp he]
    · rw [List.flatten_cons, ih (by simp; omega), List.take_append_drop]

theorem partitions_flatten {α : Type} (xs : List α) : (partitions xs).flatten = xs := by
  simp only [partitions]
  split
  · next he => simp [List.isEmpty_iff.mp he]
  · rw [List.flatten_cons, groups32_flatten (by simp), List.take_append_drop]

/-- The decoder finds the sizes of the partitions from the sample count alone. -/
theorem partSizes_eq {α : Type} (us : List α) : partSizes (us.length + 1) = (partitions us).map List.length := by
  have h : List.replicate (us.length + 1 - 1) () = us.map (fun _ => ()) := by simp
  rw [partSizes, h, partitions_map, List.map_map]
  congr 1
  funext xs
  simp

theorem partCost_eq (us : List Nat) (k : Nat) : partCost us k = 5 + (us.flatMap (codeBits k)).length := by
  have h (a : Nat) : us.foldl (fun a u => a + codeLen k u) a = a + (us.flatMap (codeBits k)).length := by
    induction us generalizing a with
    | nil => rfl
    | cons u us ih => rw [List.foldl_cons, ih, List.flatMap_cons, List.length_append, codeBits_length, Nat.add_assoc]
  exact h 5

theorem partBits_length (us : List Nat) : (partBits us).length = partCost us (bestK us) := by
  simp [partBits, partCost_eq]

/-- The count by which the encoder chooses the order is the length of the section that it writes (R340). -/
theorem valueBits_length (p : Nat) (vs : List Int) : (valueBits p vs).length = valueCount p vs := by
  have h (ps : List (List Nat)) (a : Nat) :
      ps.foldl (fun a us => a + partCost us (bestK us)) a = a + (ps.flatMap partBits).length := by
    induction ps generalizing a with
    | nil => rfl
    | cons us ps ih => rw [List.foldl_cons, ih, List.flatMap_cons, List.length_append, partBits_length, Nat.add_assoc]
  rw [valueBits, valueCount, h, List.length_append, natBits_length]

/-! Values and residuals (R335). -/

/-- A signed number of 24 bits. -/
def Signed24 (v : Int) : Prop := -8388608 ≤ v ∧ v ≤ 8388607

theorem unzig_zig (e : Int) : unzig (zig e) = e := by
  unfold zig unzig
  split <;> split <;> omega

theorem zig_lt {e : Int} (h : -67108864 < e ∧ e < 67108864) : zig e < 2 ^ 27 := by
  unfold zig
  split <;> omega

theorem signed24_getD {prev : List Int} (h : ∀ v ∈ prev, Signed24 v) (i : Nat) : Signed24 (prev.getD i 0) := by
  rw [List.getD_eq_getElem?_getD]
  cases hi : prev[i]? with
  | none => simp [Signed24]
  | some v => exact h v (List.mem_of_getElem? hi)

/-- The magnitude of a residual is below 2^26: at order 3 its coefficients add up to 8 (R335). -/
theorem residual_bounds (p : Nat) {v : Int} {prev : List Int} (hv : Signed24 v) (hprev : ∀ v ∈ prev, Signed24 v) :
    -67108864 < v - predict p prev ∧ v - predict p prev < 67108864 := by
  obtain ⟨h0, h0'⟩ := signed24_getD hprev 0
  obtain ⟨h1, h1'⟩ := signed24_getD hprev 1
  obtain ⟨h2, h2'⟩ := signed24_getD hprev 2
  obtain ⟨hlo, hhi⟩ := hv
  unfold predict
  split <;> omega

@[simp] theorem residuals_length (p : Nat) (prev vs : List Int) : (residuals p prev vs).length = vs.length := by
  induction vs generalizing prev with
  | nil => rfl
  | cons v vs ih => simp [residuals, ih]

theorem rebuild_residuals (p : Nat) (prev vs : List Int) : rebuild p prev (residuals p prev vs) = vs := by
  induction vs generalizing prev with
  | nil => rfl
  | cons v vs ih => simp [residuals, rebuild, ih]

theorem residuals_bounds (p : Nat) {prev vs : List Int} (hprev : ∀ v ∈ prev, Signed24 v) (hvs : ∀ v ∈ vs, Signed24 v) :
    ∀ e ∈ residuals p prev vs, -67108864 < e ∧ e < 67108864 := by
  induction vs generalizing prev with
  | nil => simp [residuals]
  | cons v vs ih =>
    obtain ⟨hv, hvs⟩ := List.forall_mem_cons.mp hvs
    exact List.forall_mem_cons.mpr ⟨residual_bounds p hv hprev, ih (List.forall_mem_cons.mpr ⟨hv, hprev⟩) hvs⟩

/-- Every number to be coded fits the overflow form (R335). -/
theorem mapped_lt (p : Nat) {vs : List Int} (h : ∀ v ∈ vs, Signed24 v) : ∀ u ∈ mapped p vs, u < 2 ^ 27 := by
  cases vs with
  | nil => simp [mapped]
  | cons v vs =>
    obtain ⟨hv, hvs⟩ := List.forall_mem_cons.mp h
    intro u hu
    obtain ⟨e, he, rfl⟩ := List.mem_map.mp hu
    exact zig_lt (residuals_bounds p (by simpa using hv) hvs e he)

theorem map_unzig_mapped (p : Nat) (v : Int) (vs : List Int) : (mapped p (v :: vs)).map unzig = residuals p [v] vs := by
  simp [mapped, Function.comp_def, unzig_zig]

@[simp] theorem mapped_length (p : Nat) (v : Int) (vs : List Int) : (mapped p (v :: vs)).length = vs.length := by
  simp [mapped]

theorem anchor_lt (v : Int) : (v % 16777216).toNat < 2 ^ 24 := by omega

theorem toSigned_anchor {v : Int} (h : Signed24 v) : toSigned 24 (v % 16777216).toNat = v := by
  obtain ⟨hlo, hhi⟩ := h
  unfold toSigned
  split <;> omega

theorem not_outside {v : Int} (h : Signed24 v) : outside (-8388608) 8388607 v = false := by
  obtain ⟨hlo, hhi⟩ := h
  simp [outside, hlo, hhi]

/-- The value section and fewer than 32 zero bits of padding give back the values (R343, R348 codes 8 and 9). -/
theorem readValues_valueBits (p : Nat) {vs : List Int} {pad : Nat} (hne : vs ≠ []) (hvs : ∀ v ∈ vs, Signed24 v)
    (hpad : pad < 32) : readValues vs.length p (valueBits p vs ++ List.replicate pad false) = (0, vs) := by
  obtain ⟨v, vs, rfl⟩ := List.exists_cons_of_ne_nil hne
  have hsizes : partSizes (v :: vs).length = (partitions (mapped p (v :: vs))).map List.length := by
    rw [← partSizes_eq, mapped_length, List.length_cons]
  have hcodes : ∀ us ∈ partitions (mapped p (v :: vs)), ∀ u ∈ us, u < 2 ^ 27 := fun us hus u hu =>
    mapped_lt p hvs u (partitions_flatten (mapped p (v :: vs)) ▸ List.mem_flatten_of_mem hus hu)
  have hrange : (v :: vs).any (outside (-8388608) 8388607) = false :=
    List.any_eq_false.mpr fun w hw => by simp [not_outside (hvs w hw)]
  rw [readValues, valueBits, List.append_assoc, List.headD_cons, takeBits_natBits (anchor_lt v)]
  simp only [hsizes, takeParts_partBits hcodes, partitions_flatten, map_unzig_mapped, rebuild_residuals,
    toSigned_anchor (hvs v List.mem_cons_self), hrange]
  simp [hpad]

/-! Reading a number within a byte string (R508). -/

theorem leAt_leBytes (n v : Nat) (c : Bytes) : leAt (leBytes n v ++ c) 0 n = v % 256 ^ n := by
  rw [leAt_prefix _ _ (by simp), leAt, slice, List.drop_zero, List.take_of_length_le (by simp), leNat_leBytes]

theorem leAt_append_of_le {a : Bytes} {o : Nat} (h : a.length ≤ o) (b : Bytes) (n : Nat) :
    leAt (a ++ b) o n = leAt b (o - a.length) n := by
  rw [← leAt_append a b, Nat.add_sub_cancel' h]

/-! Status runs (R334). -/

theorem expandRuns_runsOf (xs : List Nat) : expandRuns (runsOf xs) = xs := by
  induction xs with
  | nil => rfl
  | cons x xs ih =>
    simp only [runsOf]
    cases h : runsOf xs with
    | nil => simpa [h, expandRuns] using ih
    | cons r rs =>
      rw [h] at ih
      by_cases hx : x = r.1
      · simp [hx, expandRuns, List.replicate_succ, ← ih]
      · simp [hx, expandRuns, ← ih]

theorem runsOf_pos (xs : List Nat) : ∀ r ∈ runsOf xs, 1 ≤ r.2 := by
  induction xs with
  | nil => simp [runsOf]
  | cons x xs ih =>
    simp only [runsOf]
    cases h : runsOf xs with
    | nil => simp
    | cons r rs =>
      obtain ⟨hr, hrs⟩ := List.forall_mem_cons.mp (h ▸ ih)
      by_cases hx : x = r.1
      · simpa [hx] using fun a b => hrs (a, b)
      · simpa [hx, hr] using fun a b => hrs (a, b)

theorem expandRuns_length (rs : List (Nat × Nat)) : (expandRuns rs).length = (rs.map (·.2)).sum := by
  simp [expandRuns, List.length_flatMap]

theorem runsOf_sum (xs : List Nat) : ((runsOf xs).map (·.2)).sum = xs.length := by
  rw [← expandRuns_length, expandRuns_runsOf]

theorem runsOf_length_le (xs : List Nat) : (runsOf xs).length ≤ xs.length := by
  calc (runsOf xs).length = ((runsOf xs).map (·.2)).length := by simp
    _ ≤ ((runsOf xs).map (·.2)).sum := List.length_le_sum_of_one_le _ (by simpa using fun n a => runsOf_pos xs (a, n))
    _ = xs.length := runsOf_sum xs

theorem runsOf_ne_nil {xs : List Nat} (h : xs ≠ []) : runsOf xs ≠ [] := by
  intro hnil
  rw [← expandRuns_runsOf xs, hnil] at h
  exact h rfl

/-- A run that its two bytes can hold. -/
def RunFits (r : Nat × Nat) : Prop := r.1 < 256 ∧ 1 ≤ r.2 ∧ r.2 ≤ 256

theorem runsOf_fit {xs : List Nat} (hlen : xs.length ≤ 256) (hlt : ∀ x ∈ xs, x < 256) :
    ∀ r ∈ runsOf xs, RunFits r := by
  intro r hr
  have hpos := runsOf_pos xs r hr
  have hmem : r.1 ∈ xs := by
    rw [← expandRuns_runsOf xs]
    exact List.mem_flatMap.mpr ⟨r, hr, List.mem_replicate.mpr ⟨by omega, rfl⟩⟩
  have hle : r.2 ≤ ((runsOf xs).map (·.2)).sum := List.le_sum_of_mem (List.mem_map_of_mem hr)
  rw [runsOf_sum] at hle
  exact ⟨hlt _ hmem, hpos, by omega⟩

/-- The two bytes of a run entry. -/
def runEntry (r : Nat × Nat) : Bytes := leBytes 1 r.1 ++ leBytes 1 (r.2 - 1)

theorem runEntries_length (rs : List (Nat × Nat)) : (rs.flatMap runEntry).length = 2 * rs.length := by
  simp [runEntry, List.length_flatMap, Nat.mul_comm]

theorem takeRuns_runEntries {rs : List (Nat × Nat)} (h : ∀ r ∈ rs, RunFits r) (c : Bytes) :
    takeRuns rs.length (rs.flatMap runEntry ++ c) = rs := by
  induction rs with
  | nil => rfl
  | cons r rs ih =>
    obtain ⟨⟨hb, h1, h2⟩, hrs⟩ := List.forall_mem_cons.mp h
    have hrun : (r.2 - 1) % 256 + 1 = r.2 := by omega
    simp only [List.flatMap_cons, runEntry, List.append_assoc, List.length_cons, takeRuns]
    rw [leAt_leBytes, leAt_append_of_le (by simp), leBytes_length, leAt_leBytes]
    simp [leBytes, Nat.mod_eq_of_lt hb, hrun, ih hrs]

/-- The status runs of a block. -/
def statusRuns (words : List Nat) : List (Nat × Nat) := runsOf (words.map (· % 256))

theorem statusBytes_eq (words : List Nat) :
    statusBytes words = leBytes 1 ((statusRuns words).length - 1) ++ (statusRuns words).flatMap runEntry := rfl

theorem statusBytes_length (words : List Nat) : (statusBytes words).length = 1 + 2 * (statusRuns words).length := by
  rw [statusBytes_eq, List.length_append, leBytes_length, runEntries_length]

/-! Sample words (R182). -/

theorem signed24_wordValue (w : Nat) : Signed24 (wordValue w) := by
  unfold Signed24 wordValue toSigned
  split <;> omega

theorem wordOf_wordValue {w : Nat} (h : w < 2 ^ 32) : wordOf (wordValue w) (w % 256) = w := by
  unfold wordOf wordValue toSigned
  split <;> omega

theorem words_of_values_and_flags {words : List Nat} (h : ∀ w ∈ words, w < 2 ^ 32) :
    ((words.map wordValue).zip (words.map (· % 256))).map (fun q => wordOf q.1 q.2) = words := by
  rw [List.zip_map', List.map_map]
  exact (List.map_congr_left fun w hw => wordOf_wordValue (h w hw)).trans (List.map_id words)

theorem chunksF_words {words : List Nat} (hlt : ∀ w ∈ words, w < 2 ^ 32) {fuel : Nat} (h : words.length ≤ fuel) :
    (chunksF 4 fuel (words.flatMap (leBytes 4))).map leNat = words := by
  induction words generalizing fuel with
  | nil => cases fuel <;> rfl
  | cons w ws ih =>
    obtain ⟨hw, hws⟩ := List.forall_mem_cons.mp hlt
    obtain ⟨f, rfl⟩ : ∃ f, fuel = f + 1 := ⟨fuel - 1, by simp at h; omega⟩
    have hne : (leBytes 4 w ++ ws.flatMap (leBytes 4)).isEmpty = false := by simp [leBytes]
    have htake : (leBytes 4 w ++ ws.flatMap (leBytes 4)).take 4 = leBytes 4 w := List.take_left' (by simp)
    have hdrop : (leBytes 4 w ++ ws.flatMap (leBytes 4)).drop 4 = ws.flatMap (leBytes 4) := List.drop_left' (by simp)
    rw [List.flatMap_cons, chunksF, hne, if_neg (by simp), htake, hdrop, List.map_cons, ih hws (by simpa using h),
      leNat_leBytes, Nat.mod_eq_of_lt (by omega)]

theorem wordBytes_length (words : List Nat) : (words.flatMap (leBytes 4)).length = 4 * words.length := by
  simp [List.length_flatMap, Nat.mul_comm]

theorem chunks_words {words : List Nat} (hlt : ∀ w ∈ words, w < 2 ^ 32) :
    (chunks 4 (words.flatMap (leBytes 4))).map leNat = words :=
  chunksF_words hlt (by rw [wordBytes_length]; omega)

/-! Header fields and the seal (R330, R342). -/

@[simp] theorem BlkDef.header_length (k : BlkDef) (flags p len : Nat) : (k.header flags p len).length = 24 := by
  simp [BlkDef.header]

section
variable (k : BlkDef) (flags p len : Nat) (rest : Bytes)

theorem BlkDef.header_format : leAt (k.header flags p len ++ rest) 0 1 = 1 := by
  simp [BlkDef.header, leAt_leBytes]

theorem BlkDef.header_flags : leAt (k.header flags p len ++ rest) 1 1 = flags % 256 := by
  simp [BlkDef.header, leAt_append_of_le, leAt_leBytes]

theorem BlkDef.header_count : leAt (k.header flags p len ++ rest) 4 2 = k.words.length % 65536 := by
  simp [BlkDef.header, leAt_append_of_le, leAt_leBytes]

theorem BlkDef.header_order : leAt (k.header flags p len ++ rest) 6 1 = p % 256 := by
  simp [BlkDef.header, leAt_append_of_le, leAt_leBytes]

theorem BlkDef.header_reserved : leAt (k.header flags p len ++ rest) 7 1 = 0 := by
  simp [BlkDef.header, leAt_append_of_le, leAt_leBytes]

theorem BlkDef.header_len : leAt (k.header flags p len ++ rest) 20 4 = len % 4294967296 := by
  simp [BlkDef.header, leAt_append_of_le, leAt_leBytes]

end

/-- A sealed block begins with its header; its body and the CRC-32C follow. -/
theorem sealCrc_append (h body : Bytes) : sealCrc (h ++ body) = h ++ (body ++ leBytes 4 (crc32c (h ++ body))) :=
  List.append_assoc ..

@[simp] theorem sealCrc_length (b : Bytes) : (sealCrc b).length = b.length + 4 := withCrc_length b

theorem sealCrc_sealed (b : Bytes) : leAt (sealCrc b) b.length 4 = crc32c ((sealCrc b).take b.length) := by
  obtain ⟨hcrc, htake⟩ := withCrc_sealed b
  exact hcrc.trans (congrArg crc32c htake.symm)

/-! Blocks (R330 to R333, R348). -/

/-- A block that the rules of the codec allow (R329, R330, R346). -/
structure BlkDef.Allowed (k : BlkDef) : Prop where
  count_pos : 1 ≤ k.words.length
  count_le : k.words.length ≤ 256
  word_lt : ∀ w ∈ k.words, w < 2 ^ 32
  maxOrder_le : k.maxOrder ≤ 3

/-- Flags and an order that pass codes 4 and 5 of R348. -/
structure BlkDef.HeaderOk (k : BlkDef) (flags p : Nat) : Prop where
  flags_lt : flags < 256
  reserved : flags % 16 = 0
  vfy_raw : bit flags 6 = true → bit flags 7 = true
  order_le : p ≤ 3
  order_lt : p < k.words.length
  raw_order : bit flags 7 = true → p = 0

/-- A sealed block of whole words with an admissible header passes codes 1 to 5. -/
theorem decodeBlock_sealed {k : BlkDef} (hk : k.Allowed) {flags p : Nat} (hh : k.HeaderOk flags p) {body : Bytes}
    (hwords : body.length % 4 = 0) (hmin : 4 ≤ body.length) (hmax : body.length ≤ 1024) :
    let bs := sealCrc (k.header flags p (28 + body.length) ++ body)
    decodeBlock bs =
      if bit flags 7 then
        if 28 + body.length ≠ 28 + 4 * k.words.length then (6, [])
        else (0, (chunks 4 ((bs.drop 24).take (4 * k.words.length))).map leNat)
      else readCoded bs := by
  intro bs
  obtain ⟨hpos, hle, -, -⟩ := hk
  obtain ⟨hflags, hres, hvfy, hp, hpn, hraw⟩ := hh
  have hbs : bs = _ := sealCrc_append (k.header flags p (28 + body.length)) body
  have hlen : bs.length = 28 + body.length := by simp [bs]; omega
  have hL : leAt bs 20 4 = 28 + body.length := by rw [hbs, BlkDef.header_len]; omega
  have hcrc : leAt bs (bs.length - 4) 4 = crc32c (bs.take (bs.length - 4)) := by
    simpa [bs] using sealCrc_sealed (k.header flags p (28 + body.length) ++ body)
  have hformat : leAt bs 0 1 = 1 := by rw [hbs, BlkDef.header_format]
  have hf : leAt bs 1 1 = flags := by rw [hbs, BlkDef.header_flags]; omega
  have hres' : leAt bs 7 1 = 0 := by rw [hbs, BlkDef.header_reserved]
  have hn : leAt bs 4 2 = k.words.length := by rw [hbs, BlkDef.header_count]; omega
  have hord : leAt bs 6 1 = p := by rw [hbs, BlkDef.header_order]; omega
  have h1 : ¬ (bs.length < 32 ∨ bs.length % 4 ≠ 0 ∨ 1052 < bs.length ∨ leAt bs 20 4 ≠ bs.length) := by omega
  have h4 : ¬ (flags % 16 ≠ 0 ∨ leAt bs 7 1 ≠ 0 ∨ (bit flags 6 = true ∧ bit flags 7 = false)) := by
    simpa [hres, hres'] using hvfy
  have hraw' : ¬ (bit flags 7 = true ∧ p ≠ 0) := fun ⟨h, hne⟩ => hne (hraw h)
  have h5 : ¬ (k.words.length = 0 ∨ 256 < k.words.length ∨ 3 < p ∨ k.words.length ≤ p ∨
      (bit flags 7 = true ∧ p ≠ 0)) := by
    rw [eq_false hraw', or_false]
    omega
  simp only [decodeBlock, hf, hn, hord]
  rw [if_neg h1, if_neg (not_not.mpr hcrc), if_neg (not_not.mpr hformat), if_neg h4, if_neg h5, hlen]

theorem BlkDef.ends_range (k : BlkDef) : k.ends % 16 = 0 ∧ k.ends ≤ 48 := by
  unfold BlkDef.ends b2n
  split <;> split <;> decide

theorem BlkDef.rawFlags_raw (k : BlkDef) (vfy : Bool) : bit (128 + 64 * b2n vfy + k.ends) 7 = true := by
  obtain ⟨-, hle⟩ := k.ends_range
  cases vfy <;> simp [bit, b2n] <;> omega

theorem BlkDef.rawFlags_ok {k : BlkDef} (hk : k.Allowed) (vfy : Bool) : k.HeaderOk (128 + 64 * b2n vfy + k.ends) 0 := by
  obtain ⟨hmod, hle⟩ := k.ends_range
  have hv : b2n vfy ≤ 1 := by cases vfy <;> decide
  exact ⟨by omega, by omega, fun _ => k.rawFlags_raw vfy, by omega, hk.count_pos, fun _ => rfl⟩

/-- A raw block yields its words, whether or not it is marked as emitted again (R332, R344). -/
theorem decodeBlock_raw {k : BlkDef} (hk : k.Allowed) (vfy : Bool) : decodeBlock (k.raw vfy) = (0, k.words) := by
  have hpos := hk.count_pos
  have hle := hk.count_le
  have hbody := wordBytes_length k.words
  have h := decodeBlock_sealed hk (BlkDef.rawFlags_ok hk vfy) (body := k.words.flatMap (leBytes 4)) (by omega) (by omega)
    (by omega)
  simp only [hbody] at h
  rw [BlkDef.raw, h, if_pos (k.rawFlags_raw vfy), if_neg (not_not.mpr rfl), sealCrc_append,
    List.drop_left' (BlkDef.header_length ..), List.take_left' hbody, chunks_words hk.word_lt]

theorem BlkDef.order_range {k : BlkDef} (hk : k.Allowed) : k.order ≤ 3 ∧ k.order < k.words.length := by
  have h : k.order ≤ min k.maxOrder (k.values.length - 1) := bestOrder_le _ _
  have hlen : k.values.length = k.words.length := List.length_map ..
  have hmax := hk.maxOrder_le
  have hpos := hk.count_pos
  omega

theorem BlkDef.codedFlags_not_raw (k : BlkDef) : bit k.ends 7 = false := by
  obtain ⟨-, hle⟩ := k.ends_range
  simp [bit]; omega

theorem BlkDef.codedFlags_ok {k : BlkDef} (hk : k.Allowed) : k.HeaderOk k.ends k.order := by
  obtain ⟨hmod, hle⟩ := k.ends_range
  obtain ⟨hp, hpn⟩ := BlkDef.order_range hk
  have h6 : bit k.ends 6 = false := by simp [bit]; omega
  exact ⟨by omega, hmod, by simp [h6], hp, hpn, by simp [k.codedFlags_not_raw]⟩

theorem BlkDef.statusRuns_length {k : BlkDef} (hk : k.Allowed) :
    1 ≤ (statusRuns k.words).length ∧ (statusRuns k.words).length ≤ 256 := by
  have hle : (statusRuns k.words).length ≤ (k.words.map (· % 256)).length := runsOf_length_le _
  have hne : k.words.map (· % 256) ≠ [] :=
    List.ne_nil_of_length_pos (by rw [List.length_map]; exact hk.count_pos)
  rw [List.length_map] at hle
  exact ⟨List.length_pos_iff_ne_nil.mpr (runsOf_ne_nil hne), hle.trans hk.count_le⟩

theorem BlkDef.statusRuns_fit {k : BlkDef} (hk : k.Allowed) : ∀ r ∈ statusRuns k.words, RunFits r := by
  refine runsOf_fit (by simpa using hk.count_le) fun x hx => ?_
  obtain ⟨w, -, rfl⟩ := List.mem_map.mp hx
  exact Nat.mod_lt w (by decide)

/-- The value section ends a coded block's body at a multiple of 4, with fewer than 32 bits of padding (R333). -/
theorem BlkDef.valueBytes_fits (k : BlkDef) :
    ((statusBytes k.words).length + k.valueBytes) % 4 = 0 ∧ valueCount k.order k.values ≤ 8 * k.valueBytes ∧
      8 * k.valueBytes < valueCount k.order k.values + 32 := by
  simp only [BlkDef.valueBytes, ceilTo, ceilDiv, OfNat.ofNat_ne_zero, reduceIte]
  omega

theorem valueCount_ge (p : Nat) (vs : List Int) : 24 ≤ valueCount p vs := by
  rw [← valueBits_length, valueBits, List.length_append, natBits_length]
  omega

/-- The body of a coded block: the status section, then the value section with its padding (R333). -/
def BlkDef.codedBody (k : BlkDef) : Bytes := statusBytes k.words ++ packBits k.valueBytes (valueBits k.order k.values)

theorem BlkDef.codedBody_length (k : BlkDef) : k.codedBody.length = (statusBytes k.words).length + k.valueBytes := by
  simp [BlkDef.codedBody]

theorem BlkDef.coded_eq (k : BlkDef) :
    k.coded = sealCrc (k.header k.ends k.order (28 + k.codedBody.length) ++ k.codedBody) := by
  have hlen : k.codedLen = 28 + k.codedBody.length := by rw [k.codedBody_length, BlkDef.codedLen]; omega
  rw [BlkDef.coded, hlen, List.append_assoc, ← BlkDef.codedBody]

theorem BlkDef.codedBody_append (k : BlkDef) (c : Bytes) :
    k.codedBody ++ c = leBytes 1 ((statusRuns k.words).length - 1) ++
      ((statusRuns k.words).flatMap runEntry ++ (packBits k.valueBytes (valueBits k.order k.values) ++ c)) := by
  simp only [BlkDef.codedBody, statusBytes_eq, List.append_assoc]

/-- The parts of a coded block as `readCoded` meets them: after the header the count of runs, the run entries, the value
section and the seal (R333, R334). -/
theorem BlkDef.coded_parts (k : BlkDef) : ∃ crc : Bytes, crc.length = 4 ∧
    k.coded = k.header k.ends k.order (28 + k.codedBody.length) ++ (leBytes 1 ((statusRuns k.words).length - 1) ++
      ((statusRuns k.words).flatMap runEntry ++ (packBits k.valueBytes (valueBits k.order k.values) ++ crc))) :=
  ⟨leBytes 4 (crc32c (k.header k.ends k.order (28 + k.codedBody.length) ++ k.codedBody)), leBytes_length 4 _, by
    rw [k.coded_eq, sealCrc_append, k.codedBody_append]⟩

/-- The padded value section of a coded block yields the values. -/
theorem BlkDef.readValues_packed {k : BlkDef} (hk : k.Allowed) :
    readValues k.words.length k.order (bitsOf (packBits k.valueBytes (valueBits k.order k.values))) = (0, k.values) := by
  obtain ⟨-, hfit, hpad⟩ := k.valueBytes_fits
  have hlen : k.words.length = k.values.length := (List.length_map ..).symm
  have hne : k.values ≠ [] := List.ne_nil_of_length_pos (hlen ▸ hk.count_pos)
  have hvs : ∀ v ∈ k.values, Signed24 v := List.forall_mem_map.mpr fun w _ => signed24_wordValue w
  rw [bitsOf_packBits _ _ (by rwa [valueBits_length]), hlen]
  exact readValues_valueBits k.order hne hvs (by rw [valueBits_length]; omega)

/-- The body of a coded block passes codes 7 to 9 of R348 and yields the words (R343). -/
theorem readCoded_coded {k : BlkDef} (hk : k.Allowed) : readCoded k.coded = (0, k.words) := by
  obtain ⟨hnr, hnr'⟩ := BlkDef.statusRuns_length hk
  obtain ⟨hp, -⟩ := BlkDef.order_range hk
  have hle := hk.count_le
  obtain ⟨crc, hcrc, hparts⟩ := k.coded_parts
  have hent := runEntries_length (statusRuns k.words)
  have hlen : k.coded.length = 25 + 2 * (statusRuns k.words).length + (k.valueBytes + 4) := by
    simp [hparts, hent, hcrc]; omega
  have hn : leAt k.coded 4 2 = k.words.length := by rw [hparts, BlkDef.header_count]; omega
  have hord : leAt k.coded 6 1 = k.order := by rw [hparts, BlkDef.header_order]; omega
  have hcount : leAt k.coded 24 1 + 1 = (statusRuns k.words).length := by
    rw [hparts, leAt_append_of_le (by simp), BlkDef.header_length, leAt_leBytes]
    omega
  have hdrop : k.coded.drop 25 =
      (statusRuns k.words).flatMap runEntry ++ (packBits k.valueBytes (valueBits k.order k.values) ++ crc) := by
    rw [hparts, ← List.append_assoc, List.drop_left' (by simp)]
  have hruns : takeRuns (statusRuns k.words).length (k.coded.drop 25) = statusRuns k.words := by
    rw [hdrop, takeRuns_runEntries (BlkDef.statusRuns_fit hk)]
  have hsect : (k.coded.drop (25 + 2 * (statusRuns k.words).length)).take k.valueBytes =
      packBits k.valueBytes (valueBits k.order k.values) := by
    rw [← List.drop_drop, hdrop, List.drop_left' hent, List.take_left' (packBits_length ..)]
  have hsum : ((statusRuns k.words).map (·.2)).foldl (· + ·) 0 = k.words.length := by
    rw [← List.sum_eq_foldl, statusRuns, runsOf_sum, List.length_map]
  have hsectLen : k.coded.length - 4 - (25 + 2 * (statusRuns k.words).length) = k.valueBytes := by omega
  have h7 : ¬ (k.coded.length < 25 + 2 * (statusRuns k.words).length + 4 ∨ k.words.length ≠ k.words.length) := by omega
  simp only [readCoded, hn, hord, hcount, hruns, hsum, hsectLen, hsect, if_neg h7, BlkDef.readValues_packed hk]
  rw [if_neg (not_not.mpr rfl), statusRuns, expandRuns_runsOf, BlkDef.values, words_of_values_and_flags hk.word_lt]

/-- A coded block shorter than the raw block yields its words. -/
theorem decodeBlock_coded {k : BlkDef} (hk : k.Allowed) (hc : k.isCoded = true) : decodeBlock k.coded = (0, k.words) := by
  obtain ⟨hmod, hfit, -⟩ := k.valueBytes_fits
  have hcount := valueCount_ge k.order k.values
  have hlen := k.codedBody_length
  have hstatus := statusBytes_length k.words
  have hshort : k.codedLen < 28 + 4 * k.words.length := by
    simpa using (Bool.and_eq_true_iff.mp hc).2
  rw [BlkDef.codedLen] at hshort
  have hle := hk.count_le
  have h := decodeBlock_sealed hk (BlkDef.codedFlags_ok hk) (body := k.codedBody) (by omega) (by omega) (by omega)
  rw [← k.coded_eq] at h
  rw [h, if_neg (by simp [k.codedFlags_not_raw]), readCoded_coded hk]

/-- Whichever block the encoder emits yields the words (R341, R343). -/
theorem decodeBlock_encode {k : BlkDef} (hk : k.Allowed) : decodeBlock k.encode = (0, k.words) := by
  unfold BlkDef.encode
  split
  · next hc => exact decodeBlock_coded hk hc
  · exact decodeBlock_raw hk false

/-- Settles O56: each reader of the decoder inverts the writer that it answers, so the block's checks pass and its parts come
back. -/
theorem decodingAnEmittedBlockYieldsItsWords : Obligations.DecodingAnEmittedBlockYieldsItsWords := by
  unfold Obligations.DecodingAnEmittedBlockYieldsItsWords
  intro k hpos hle hlt hmax _ _ _
  have hk : k.Allowed := ⟨hpos, hle, hlt, hmax⟩
  exact ⟨decodeBlock_encode hk, decodeBlock_raw hk, decodeBlock_coded hk⟩

end Sys2Proof.Machine
end

section
/-! PROOFS. The end of a DMA channel's run (R456, R463, R468 of spec/14_channel_programs.md): what an event raised by the hub
leaves of the DMA engine and of the dictionary, what a channel's fault, wait and END do, and when a confirmation ends the run. -/

namespace Sys2Proof.Machine

open Sys2Proof

variable {s t : State} {c : Nat}

/-! Raising an event writes one number of the dictionary: the peak occupancy of the queue of its island. -/

theorem notePeak_regs (s : State) (q : Nat) : KeepsRegs (· = entryKey .queue q 3) s (notePeak s q) := by
  unfold notePeak
  dsimp only
  split
  · exact KeepsRegs.setNum s _ rfl
  · exact KeepsRegs.refl _ s

theorem pushWord_regs (s : State) (q : Nat) (w : QWord) : KeepsRegs (· = entryKey .queue q 3) s (pushWord s q w) := by
  unfold pushWord
  dsimp only
  split
  · exact (KeepsRegs.of_eq rfl).trans (notePeak_regs _ q)
  · split
    · exact KeepsRegs.of_eq rfl
    · exact KeepsRegs.refl _ s

theorem reportLost_regs (s : State) (island : Nat) :
    KeepsRegs (· = entryKey .queue (162 + island) 3) s (reportLost s island) := by
  unfold reportLost
  extract_lets q n ev own
  have hown : KeepsRegs (· = entryKey .queue (162 + island) 3) s own := by
    unfold own
    split
    · exact KeepsRegs.refl _ s
    · exact (KeepsRegs.of_eq rfl).trans (pushWord_regs _ _ _)
  clear_value own
  refine hown.trans ?_
  dsimp only
  split
  · exact KeepsRegs.refl _ _
  · split
    · exact KeepsRegs.refl _ _
    · exact (KeepsRegs.of_eq rfl).trans (pushWord_regs _ _ _)

theorem pushEvent_regs (s : State) (island : Nat) (e : EvItem) :
    KeepsRegs (· = entryKey .queue (162 + island) 3) s (pushEvent s island e) := by
  unfold pushEvent
  dsimp only
  split
  · exact KeepsRegs.of_eq rfl
  · split
    · exact (pushWord_regs _ _ _).trans (reportLost_regs _ island)
    · exact pushWord_regs _ _ _

theorem raise_regs (s : State) (src cause detail : Nat) :
    KeepsRegs (· = entryKey .queue (162 + islandOf s src detail) 3) s (raise s src cause detail) := by
  unfold raise raiseAt
  split
  · exact KeepsRegs.refl _ s
  · exact pushEvent_regs _ _ _

theorem EventFrame.dma (h : EventFrame s t) : t.dma = s.dma := by rw [← h.1]
theorem EventFrame.variant (h : EventFrame s t) : t.variant = s.variant := by rw [← h.1]
theorem EventFrame.fac (h : EventFrame s t) : t.fac = s.fac := by rw [← h.1]

@[simp] theorem setNum_dmaCh (s : State) (o : Obj) (u sub : Nat) (v : Int) (c : Nat) :
    (s.setNum o u sub v).dmaCh c = s.dmaCh c := rfl

theorem raise_dmaCh (s : State) (src cause detail c : Nat) : (raise s src cause detail).dmaCh c = s.dmaCh c := by
  unfold State.dmaCh
  rw [(raise_frame s src cause detail).dma]

/-- An event of the DMA island leaves every entry outside the queues as it was. -/
theorem raise_num_dma {src detail : Nat} (hi : islandOf s src detail = 30) (cause : Nat) {o : Obj} (ho : o ≠ .queue)
    {u sub : Nat} (hu : u < o.size) (hsub : sub < 256) : (raise s src cause detail).num o u sub = s.num o u sub := by
  have hf := raise_frame s src cause detail
  refine (raise_regs s src cause detail).num hf.variant hf.fac o u sub fun hk => ho ?_
  rw [hi] at hk
  exact (entryKey_inj hu (by decide) hsub (by decide) hk).1

theorem islandOf_channel (s : State) (hc : c < 16) (detail : Nat) : islandOf s c detail = 30 := if_pos hc

theorem silentSource_channel (s : State) (hc : c < 16) (cause : Nat) : silentSource s c cause = false := by
  have hne (k : Nat) (hk : 16 ≤ k) : (c == k) = false := beq_false_of_ne (by omega)
  simp [silentSource, hne]

/-- The pulse of a channel's event source stands in the DMA island's events queue (R456, R537). -/
theorem raise_channel_room (hc : c < 16) (h : s.canRaise 30) (cause detail : Nat) :
    Raised s (raise s c cause detail) 30 ⟨c, cause, detail, s.now⟩ := by
  have hroom := raise_room s c cause detail (silentSource_channel s hc cause)
  rw [islandOf_channel s hc] at hroom
  exact hroom h

/-! What a channel's change of state, fault and wait do (R442, R468). -/

/-- A channel that enters a state shows it. -/
theorem dmaState_dmaTo (s : State) (hc : c < 16) {st : Nat} (hst : st < 256) : dmaState (dmaTo s c st) c = st := by
  unfold dmaState dmaTo State.nat
  rw [num_setNum_obj _ (by decide) (by decide) hc (by decide) (by decide), num_setNum_same]
  show ((st : Int) % 2 ^ 8).toNat = st
  omega

/-- A change of state writes the state of the channel and the mask of halted channels. -/
theorem dmaTo_num (s : State) {c st : Nat} {o : Obj} {u sub : Nat} (hstat : entryKey o u sub ≠ entryKey .dmaStat c 1)
    (hdebug : entryKey o u sub ≠ entryKey .debug 0 6) : (dmaTo s c st).num o u sub = s.num o u sub := by
  unfold dmaTo
  rw [num_setNum_ne _ hdebug, num_setNum_ne _ hstat]

@[simp] theorem dmaTo_dmaCh (s : State) (d st c : Nat) : (dmaTo s d st).dmaCh c = s.dmaCh c := rfl

/-- What ends a run early writes no number of the dictionary but the halt that was pending. -/
theorem dmaStop_num (s : State) (c : Nat) {o : Obj} {u sub : Nat} (h : entryKey o u sub ≠ entryKey .debugCh c 8) :
    (dmaStop s c).num o u sub = s.num o u sub := by
  unfold dmaStop
  exact num_setNum_ne _ h _

/-- What ends a run early leaves the channel with no MOVE in progress and nothing held. -/
theorem dmaStop_dmaCh (s : State) (c : Nat) :
    ((dmaStop s c).dmaCh c).move = none ∧ ((dmaStop s c).dmaCh c).hold = [] := by
  unfold dmaStop
  rw [setNum_dmaCh, State.modCh_same]
  exact ⟨rfl, rfl⟩

/-- Entering FAULT, with its event, keeps the numbers outside the queues, the debug port and the channel's state. -/
theorem enterFault_num (s : State) (hc : c < 16) {o : Obj} (hq : o ≠ .queue) (hd : o ≠ .debug) (hdc : o ≠ .debugCh)
    {u sub : Nat} (hu : u < o.size) (hsub : sub < 256) (hstate : entryKey o u sub ≠ entryKey .dmaStat c 1) :
    (raise (dmaTo (dmaStop s c) c 3) 73 1 c).num o u sub = s.num o u sub := by
  rw [raise_num_dma rfl 1 hq hu hsub, dmaTo_num _ hstate, dmaStop_num]
  · exact fun h => hdc (entryKey_inj hu hc hsub (by decide) h).1
  · exact fun h => hd (entryKey_inj hu (by decide) hsub (by decide) h).1

/-- What a channel's fault shows in the dictionary before the run is stopped (R468). -/
def faultShown (s : State) (c cause target kind addr code : Nat) : State :=
  let s := (((s.setNum .dmaStat c 2 (s.dmaCh c).pc).setNum .dmaStat c 3 cause).setNum .dmaStat c 4 (s.dmaCh c).count).setNum
    .dmaStat c 5 (target + 16 * kind : Nat)
  ((((s.setNum .dmaStat c 6 addr).setNum .dmaStat c 7 code).bump .dmaStat c 10 1).bump .dmaEngine 0 8 1)

theorem dmaFault_eq (s : State) (c cause target kind addr code : Nat) :
    dmaFault s c cause target kind addr code =
      raise (dmaTo (dmaStop (faultShown s c cause target kind addr code) c) c 3) 73 1 c := rfl

theorem dmaStat_key_ne_engine (hc : c < 16) {a b : Nat} (ha : a < 256) (hb : b < 256) :
    entryKey .dmaStat c a ≠ entryKey .dmaEngine 0 b :=
  fun h => absurd (entryKey_inj hc (by decide) ha hb h).1 (by decide)

theorem faultShown_cause (s : State) (hc : c < 16) {cause : Nat} (hcause : cause < 256) (target kind addr code : Nat) :
    (faultShown s c cause target kind addr code).num .dmaStat c 3 = cause := by
  have hnarrow : (entryTy .dmaStat c 3).narrow (cause : Int) = cause := narrowU_of_lt (w := 8) (by omega) (by omega)
  unfold faultShown
  rw [num_bump_ne _ (dmaStat_key_ne_engine hc (by decide) (by decide)), num_bump_ne _ (entryKey_sub_ne _ _ (by decide))]
  simp only [num_setNum_sub, num_setNum_same, ne_eq, Nat.reduceEqDiff, not_false_eq_true, hnarrow]

theorem faultShown_faults (s : State) (hc : c < 16) (cause target kind addr code : Nat) :
    Counted s (faultShown s c cause target kind addr code) .dmaStat c 10 1 := by
  unfold faultShown
  rw [Counted, num_bump_ne _ (dmaStat_key_ne_engine hc (by decide) (by decide)), num_bump_same]
  simp only [num_setNum_sub, ne_eq, Nat.reduceEqDiff, not_false_eq_true]

theorem faultShown_engineFaults (s : State) (hc : c < 16) (cause target kind addr code : Nat) :
    Counted s (faultShown s c cause target kind addr code) .dmaEngine 0 8 1 := by
  have hne (a : Nat) (ha : a < 256) : entryKey .dmaEngine 0 8 ≠ entryKey .dmaStat c a :=
    (dmaStat_key_ne_engine hc ha (by decide)).symm
  unfold faultShown
  rw [Counted, num_bump_same, num_bump_ne _ (hne 10 (by decide)), num_setNum_ne _ (hne 7 (by decide)),
    num_setNum_ne _ (hne 6 (by decide)), num_setNum_ne _ (hne 5 (by decide)), num_setNum_ne _ (hne 4 (by decide)),
    num_setNum_ne _ (hne 3 (by decide)), num_setNum_ne _ (hne 2 (by decide))]

/-- A channel's fault shows the state, the cause and the counts that R468 names, and leaves the channel with nothing held. -/
theorem dmaFault_faulted (s : State) (hc : c < 16) {cause : Nat} (hcause : cause < 256) (target kind addr code : Nat) :
    DmaFaulted s (dmaFault s c cause target kind addr code) c cause := by
  rw [dmaFault_eq]
  have hcauses := faultShown_cause s hc hcause target kind addr code
  have hfaults := faultShown_faults s hc cause target kind addr code
  have hengine := faultShown_engineFaults s hc cause target kind addr code
  generalize faultShown s c cause target kind addr code = r at hcauses hfaults hengine ⊢
  obtain ⟨hmove, hhold⟩ := dmaStop_dmaCh r c
  refine ⟨?state, ?shown, ?move, ?hold, ?faults, ?engine⟩
  case state =>
    rw [dmaState, State.nat, raise_num_dma rfl 1 (by decide) hc (by decide)]
    exact dmaState_dmaTo _ hc (by decide)
  case shown =>
    rw [enterFault_num r hc (by decide) (by decide) (by decide) hc (by decide) (entryKey_sub_ne _ _ (by decide)), hcauses]
  case move => rw [raise_dmaCh, dmaTo_dmaCh, hmove]
  case hold => rw [raise_dmaCh, dmaTo_dmaCh, hhold]
  case faults =>
    rw [Counted, enterFault_num r hc (by decide) (by decide) (by decide) hc (by decide) (entryKey_sub_ne _ _ (by decide)),
      hfaults]
  case engine =>
    rw [Counted, enterFault_num r hc (by decide) (by decide) (by decide) (by decide) (by decide)
      (dmaStat_key_ne_engine hc (by decide) (by decide)).symm, hengine]

/-- A channel that waits shows WAIT, what it waits for and since when; no queue changes (R442). -/
theorem dmaAwait_waits (s : State) (hc : c < 16) (what : DmaFor) (limit : Nat) :
    dmaState (dmaAwait s c what limit) c = 2 ∧ ((dmaAwait s c what limit).dmaCh c).wait = some ⟨what, limit, s.now⟩ ∧
      (dmaAwait s c what limit).queues = s.queues := by
  unfold dmaAwait
  refine ⟨dmaState_dmaTo _ hc (by decide), ?_, rfl⟩
  rw [dmaTo_dmaCh, State.modCh_same]

/-- The read-back changes the request last sent to the host, and nothing else. -/
theorem readBack_frame (s : State) (c : Nat) :
    readBack s c = s.modDma (fun d => { d with hostOut := (readBack s c).dma.hostOut }) := by
  unfold readBack
  split <;> rfl

/-! The end of a run (R456). -/

/-- Channel c enters IDLE: it waits for nothing, and no loop frame and no pending halt stays. -/
def runEnded (s : State) (c : Nat) : State :=
  (dmaTo (s.modCh c (fun k => { k with wait := none, frames := [], stepping := false })) c 0).setNum .debugCh c 8 0

theorem runEnded_dmaState (s : State) (hc : c < 16) : dmaState (runEnded s c) c = 0 := by
  unfold runEnded
  rw [dmaState, State.nat, num_setNum_obj _ (by decide) hc hc (by decide) (by decide)]
  exact dmaState_dmaTo _ hc (by decide)

theorem runEnded_dmaCh (s : State) (c : Nat) :
    (runEnded s c).dmaCh c = { s.dmaCh c with wait := none, frames := [], stepping := false } := by
  unfold runEnded
  rw [setNum_dmaCh, dmaTo_dmaCh, State.modCh_same]

theorem runEnded_queues (s : State) (c : Nat) : (runEnded s c).queues = s.queues := rfl

/-- With every write confirmed, END with SIG pulses the channel's event source with its own address, and ends the run. -/
theorem dmaConfirmed_finish_sig (s : State) (c : Nat) :
    dmaConfirmed s c (.finish true) = runEnded (raise s c 2 (s.dmaCh c).pc) c := rfl

/-- With every write confirmed, END without SIG ends the run. -/
theorem dmaConfirmed_finish_plain (s : State) (c : Nat) : dmaConfirmed s c (.finish false) = runEnded s c := rfl

theorem dmaConfirmed_finish_idle (s : State) (hc : c < 16) (sig : Bool) :
    dmaState (dmaConfirmed s c (.finish sig)) c = 0 ∧
      (dmaConfirmed s c (.finish sig)).dmaCh c = { s.dmaCh c with wait := none, frames := [], stepping := false } := by
  cases sig with
  | true =>
    rw [dmaConfirmed_finish_sig]
    exact ⟨runEnded_dmaState _ hc, by rw [runEnded_dmaCh, raise_dmaCh]⟩
  | false =>
    rw [dmaConfirmed_finish_plain]
    exact ⟨runEnded_dmaState s hc, runEnded_dmaCh s c⟩

theorem dmaConfirmed_finish_raised (hc : c < 16) (h : s.canRaise 30) :
    Raised s (dmaConfirmed s c (.finish true)) 30 ⟨c, 2, (s.dmaCh c).pc, s.now⟩ := by
  have hraised := raise_channel_room hc h 2 (s.dmaCh c).pc
  rwa [dmaConfirmed_finish_sig, Raised, State.queue, runEnded_queues]

theorem dmaConfirmed_finish_queues (s : State) (c : Nat) : (dmaConfirmed s c (.finish false)).queues = s.queues := by
  rw [dmaConfirmed_finish_plain, runEnded_queues]

/-- The state in which the fetched instruction is executed: it is no longer waiting to be taken (R440). -/
def State.taken (s : State) : State := s.modDma (fun d => { d with cur := none })

@[simp] theorem State.taken_dmaCh (s : State) (c : Nat) : s.taken.dmaCh c = s.dmaCh c := rfl
@[simp] theorem State.taken_num (s : State) (o : Obj) (u sub : Nat) : s.taken.num o u sub = s.num o u sub := rfl

/-- An END fetched for a channel is taken, and faults or asks for the confirmation by its word (R456). -/
theorem exec_dmaEnd_taken {w : Nat} (hcur : s.dma.cur = some (c, w)) (hop : bits w 63 60 = 0) :
    exec .dmaEnd s = .next (if bits w 59 1 ≠ 0 then dmaBad s.taken c 2 else dmaConfirm s.taken c (.finish (bit w 0))) := by
  show execDmaEnd s = _
  unfold execDmaEnd takeInstr
  rw [hcur]
  simp only [hop, beq_self_eq_true, if_true]
  rfl

/-- While a dictionary write of the channel is not answered, WRITE_CONFIRMED changes nothing (R463). -/
theorem exec_writeConfirmed_open (h : (s.dmaCh c).reqs.any (·.write) = true) (good : Bool) :
    exec (.writeConfirmed c good) s = .next s := by
  show execWriteConfirmed c good s = _
  unfold execWriteConfirmed
  cases hw : (s.dmaCh c).wait.map (·.what) with
  | none => simp only [hw]
  | some what => simp only [hw, h, or_true, if_true]

/-- WRITE_CONFIRMED for a channel whose END waits: with no dictionary write open, and a good answer on a link that is up to the
writes to host memory, where there are any, every write is confirmed (R463). -/
theorem exec_writeConfirmed_finish {sig good : Bool} {l a : Nat} (hwait : dmaState s c = 2)
    (hfor : (s.dmaCh c).wait = some ⟨.finish sig, l, a⟩) (hreqs : (s.dmaCh c).reqs.any (·.write) = false)
    (hhost : (s.dmaCh c).outs.find? (fun o => o.target == 1) = none ∨ (s.nat .endpoint 0 1 ≠ 0 ∧ good = true)) :
    exec (.writeConfirmed c good) s =
      .next (dmaConfirmed (s.modCh c (fun k => { k with outs := [] })) c (.finish sig)) := by
  show execWriteConfirmed c good s = _
  unfold execWriteConfirmed
  rcases hhost with hnone | ⟨hlink, hgood⟩
  · simp [hfor, hwait, hreqs, hnone]
  · simp only [hfor, hwait, hreqs, hlink, hgood, Option.map_some]
    cases (s.dmaCh c).outs.find? (fun o => o.target == 1) <;> simp

/-- The last confirmation ends the run of a channel whose END waits. -/
theorem dmaConfirmed_lastWrite_idle (s : State) (hc : c < 16) (sig : Bool) :
    let t := dmaConfirmed (s.modCh c (fun k => { k with outs := [] })) c (.finish sig)
    dmaState t c = 0 ∧ (t.dmaCh c).outs = [] ∧ (t.dmaCh c).frames = [] := by
  obtain ⟨hidle, hch⟩ := dmaConfirmed_finish_idle (s.modCh c (fun k => { k with outs := [] })) hc sig
  rw [State.modCh_same] at hch
  exact ⟨hidle, by rw [hch], by rw [hch]⟩

/-- Settles O49: END goes on by whether a write of its channel is open, and the confirmation that it waits for ends the run as
END itself would. -/
theorem endWaitsForItsWritesAndThenEndsTheRun : Obligations.EndWaitsForItsWritesAndThenEndsTheRun := by
  unfold Obligations.EndWaitsForItsWritesAndThenEndsTheRun
  refine ⟨?atOnce, ?waits, ?fault, ?stillOpen, ?confirmedSig, ?confirmedPlain⟩
  case atOnce =>
    intro s c w hcur hc hop hfields hopen
    refine ⟨_, exec_dmaEnd_taken hcur hop, ?_⟩
    rw [if_neg (not_not.2 hfields), dmaConfirm, if_neg (by simp [hopen])]
    obtain ⟨hidle, hch⟩ := dmaConfirmed_finish_idle s.taken hc (bit w 0)
    refine ⟨hidle, by rw [hch], fun hsig hroom => ?_, fun hsig => ?_⟩
    · rw [hsig]
      exact dmaConfirmed_finish_raised (s := s.taken) hc hroom
    · rw [hsig]
      exact dmaConfirmed_finish_queues s.taken c
  case waits =>
    intro s c w hcur hc hop hfields hopen
    refine ⟨_, exec_dmaEnd_taken hcur hop, ?_⟩
    rw [if_neg (not_not.2 hfields), dmaConfirm, if_pos (by simp [hopen]), readBack_frame]
    exact dmaAwait_waits _ hc _ 0
  case fault =>
    intro s c w hcur hc hop hfields
    refine ⟨_, exec_dmaEnd_taken hcur hop, ?_⟩
    rw [if_pos hfields]
    have hfaulted := dmaFault_faulted s.taken hc (cause := 2) (by decide) 0 0 0 0
    rwa [DmaFaulted, Counted, Counted, State.taken_num, State.taken_num] at hfaulted
  case stillOpen =>
    intro s c good hopen
    exact ⟨s, exec_writeConfirmed_open hopen good, rfl⟩
  case confirmedSig =>
    intro s c l a good hc hwait hfor hreqs hhost
    obtain ⟨hidle, houts, hframes⟩ := dmaConfirmed_lastWrite_idle s hc true
    refine ⟨_, exec_writeConfirmed_finish hwait hfor hreqs hhost, hidle, houts, hframes, fun hroom => ?_⟩
    have hraised := dmaConfirmed_finish_raised (s := s.modCh c (fun k => { k with outs := [] })) hc hroom
    rwa [State.modCh_same] at hraised
  case confirmedPlain =>
    intro s c l a good hc hwait hfor hreqs hhost
    obtain ⟨hidle, houts, hframes⟩ := dmaConfirmed_lastWrite_idle s hc false
    exact ⟨_, exec_writeConfirmed_finish hwait hfor hreqs hhost, hidle, houts, hframes, dmaConfirmed_finish_queues _ c⟩

end Sys2Proof.Machine
end

section
/-! PROOFS. A store that fails (R518 of spec/16_object_dictionary.md): what the failed completion shows and leaves, that no other
slot changes, and that slots without a valid snapshot do not move the next generation. -/

namespace Sys2Proof.Machine

open Sys2Proof

variable {s t : State} {gen tick later : Nat} {x : Snap}

/-! What the event and the restart that does not wait leave. -/

theorem EventFrame.flash (h : EventFrame s t) : t.flash = s.flash := by rw [← h.1]
theorem EventFrame.store (h : EventFrame s t) : t.store = s.store := by rw [← h.1]
theorem EventFrame.power (h : EventFrame s t) : t.power = s.power := by rw [← h.1]

/-- An entry whose subindex is not 3 is no peak of a queue, whatever its object. -/
theorem not_peakKey_of_sub {sub : Nat} (hsub : sub < 256) (hne : sub ≠ 3) (o : Obj) (u : Nat) :
    ¬ PeakKey (entryKey o u sub) := by
  rintro ⟨q, hq⟩
  unfold entryKey at hq
  omega

/-- With no restart waiting, the end of a store resets nothing (R605). -/
theorem idleReset_of_not_waiting (h : s.power.resetWait = false) : idleReset s = s :=
  if_neg (by simp [h])

/-! The slots that hold a valid snapshot give the next generation (R517, R520). -/

/-- Replacing an element that gives nothing by another that gives nothing leaves what the list gives. -/
theorem filterMap_set_of_none {α β : Type} (f : α → Option β) {a : α} (ha : f a = none) {l : List α} {i : Nat}
    (hold : ∀ y ∈ l[i]?, f y = none) : (l.set i a).filterMap f = l.filterMap f := by
  induction l generalizing i with
  | nil => rfl
  | cons y l ih =>
    cases i with
    | zero =>
      have hy : f y = none := hold y rfl
      rw [List.set_cons_zero, List.filterMap_cons_none ha, List.filterMap_cons_none hy]
    | succ i =>
      have hrest : (l.set i a).filterMap f = l.filterMap f := ih hold
      rw [List.set_cons_succ, List.filterMap_cons, List.filterMap_cons, hrest]

/-- A slot with no valid snapshot, filled with a snapshot that is not valid, leaves the valid snapshots. -/
theorem validSnaps_of_set_invalid {i : Nat} (hslots : t.flash.slots = s.flash.slots.set i (some x)) (hx : x.valid = false)
    (hold : ∀ y ∈ (s.flash.slots[i]?).join, y.valid = false) : validSnaps t = validSnaps s := by
  unfold validSnaps
  rw [hslots]
  refine filterMap_set_of_none _ (by simp [hx]) fun slot hslot => ?_
  cases slot with
  | none => rfl
  | some y =>
    have hy : y.valid = false := hold y (by rw [Option.mem_def.1 hslot]; rfl)
    simp [hy]

theorem nextGen_congr (h : validSnaps t = validSnaps s) : nextGen t = nextGen s := by
  unfold nextGen newestSnap
  rw [h]

/-! The failed completion (R518). -/

/-- The store of generation `gen` has ended as failed: its slot holds what was recorded, not valid, and the last store result
is 2. Its event is not raised yet. -/
def storeFailed (s : State) (gen : Nat) (x : Snap) : State :=
  ((s.modStore (fun k => { k with run := none })).modFlash
    (fun f => { f with slots := f.slots.set (slotOf gen) (some { x with valid := false }) })).setNum .store 0 6 2

@[simp] theorem storeFailed_run (s : State) (gen : Nat) (x : Snap) : (storeFailed s gen x).store.run = none := rfl
@[simp] theorem storeFailed_slots (s : State) (gen : Nat) (x : Snap) :
    (storeFailed s gen x).flash.slots = s.flash.slots.set (slotOf gen) (some { x with valid := false }) := rfl
@[simp] theorem storeFailed_power (s : State) (gen : Nat) (x : Snap) : (storeFailed s gen x).power = s.power := rfl

theorem storeFailed_result (s : State) (gen : Nat) (x : Snap) : (storeFailed s gen x).num .store 0 6 = 2 :=
  num_setNum_same ..

theorem storeFailed_count (s : State) (gen : Nat) (x : Snap) :
    (storeFailed s gen x).num .store 0 9 = s.num .store 0 9 :=
  num_setNum_sub _ _ _ (by decide) _

/-- Without a restart waiting, STORE_COMPLETE of a store that failed ends it and raises "retained store failed". -/
theorem exec_storeComplete_failed (hrun : s.store.run = some ⟨gen, some (tick, x), later⟩)
    (hwait : s.power.resetWait = false) :
    exec (.storeComplete false) s = .next (raise (storeFailed s gen x) 77 1 gen) := by
  have hpower := (raise_frame (storeFailed s gen x) 77 1 gen).power
  have hidle : idleReset (raise (storeFailed s gen x) 77 1 gen) = raise (storeFailed s gen x) 77 1 gen :=
    idleReset_of_not_waiting (by rw [hpower, storeFailed_power, hwait])
  show execStoreComplete false s = _
  unfold execStoreComplete
  rw [hrun]
  exact congrArg Host.Outcome.next hidle

/-- Settles O48: the failed completion writes the slot of its generation alone, and its event changes no slot. -/
theorem aStoreThatFailsLeavesTheOtherSlots : Obligations.AStoreThatFailsLeavesTheOtherSlots := by
  unfold Obligations.AStoreThatFailsLeavesTheOtherSlots
  intro s gen tick later x hrun hwait
  have hframe := raise_frame (storeFailed s gen x) 77 1 gen
  have hslots : (raise (storeFailed s gen x) 77 1 gen).flash.slots =
      s.flash.slots.set (slotOf gen) (some { x with valid := false }) := by
    rw [hframe.flash, storeFailed_slots]
  refine ⟨_, exec_storeComplete_failed hrun hwait, ?ended, ?result, ?count, ?others, ?invalid, ?event, ?sameGen⟩
  case ended => rw [hframe.store, storeFailed_run]
  case result => rw [hframe.num _ _ _ (not_peakKey_of_sub (by decide) (by decide) _ _), storeFailed_result]
  case count => rw [hframe.num _ _ _ (not_peakKey_of_sub (by decide) (by decide) _ _), storeFailed_count]
  case others =>
    intro j hj
    rw [hslots, List.getElem?_set_ne hj.symm]
  case invalid =>
    intro y hy
    rw [hslots, List.getElem?_set_self', Option.mem_def, Option.join_eq_some_iff] at hy
    obtain ⟨_, _, hslot⟩ := Option.map_eq_some_iff.1 hy
    cases hslot
    rfl
  case event => exact raise_room (storeFailed s gen x) 77 1 gen rfl
  case sameGen =>
    intro hnext hold
    exact (nextGen_congr (validSnaps_of_set_invalid hslots rfl hold)).trans hnext

end Sys2Proof.Machine
end

section
/-! PROOFS. A debug reset (R619 of spec/20_debug_port.md): what a hub reset shows and leaves of the TAP, and that a
reset that is due takes place when an instruction is selected or a scan of DBGCMD captures the status done. -/

namespace Sys2Proof.Machine

open Sys2Proof

variable {s t : State} {w op code cause : Nat} {run : State → Served3}

/-! What a hub reset shows (R590, R591). -/

@[simp] theorem showFlash_power (s : State) : (showFlash s).power = s.power := by simp only [showFlash, State.setNum_power]
@[simp] theorem showFlash_dbg (s : State) : (showFlash s).dbg = s.dbg := by simp only [showFlash, State.setNum_dbg]

/-- What the flash shows of the start-up object is the boot count and the count of watchdog resets. -/
theorem showFlash_startup (s : State) {sub : Nat} (hsub : sub < 256) (hboots : sub ≠ 2) (hwatchdogs : sub ≠ 11) :
    (showFlash s).num .startup 0 sub = s.num .startup 0 sub := by
  have himages (r : State) (a : Nat) (ha : a < 256) (v : Int) :
      (r.setNum .images 0 a v).num .startup 0 sub = r.num .startup 0 sub :=
    num_setNum_obj r (by decide) (by decide) (by decide) ha hsub v
  unfold showFlash
  rw [num_setNum_sub _ _ _ hwatchdogs, num_setNum_sub _ _ _ hboots, himages _ 6 (by decide), himages _ 5 (by decide),
    himages _ 4 (by decide), himages _ 3 (by decide), himages _ 2 (by decide)]

/-- A reset of whatever cause asserts reset. -/
@[simp] theorem hubReset_inReset (s : State) (cause : Nat) : (hubReset s cause).power.inReset = true := rfl

/-- No debug reset is due after a reset. -/
@[simp] theorem hubReset_resetDue (s : State) (cause : Nat) : (hubReset s cause).dbg.resetDue = false := by
  unfold hubReset
  simp only [State.setNum_dbg, showFlash_dbg]
  split <;> rfl

/-- But for the counts that the flash keeps, the start-up object after a reset is an empty register file with the cause set. -/
theorem hubReset_startup (s : State) (cause : Nat) {sub : Nat} (hsub : sub < 256) (hboots : sub ≠ 2)
    (hwatchdogs : sub ≠ 11) : ∃ r : State, r.regs = [] ∧
      (hubReset s cause).num .startup 0 sub = (r.setNum .startup 0 1 cause).num .startup 0 sub := by
  unfold hubReset
  refine ⟨_, ?empty, (num_setNum_obj _ (by decide) (by decide) (by decide) (by decide) hsub _).trans
    (showFlash_startup _ hsub hboots hwatchdogs)⟩
  case empty => rfl

theorem hubReset_cause (s : State) (h : cause < 256) : (hubReset s cause).num .startup 0 1 = cause := by
  obtain ⟨r, -, hr⟩ := hubReset_startup s cause (sub := 1) (by decide) (by decide) (by decide)
  rw [hr, num_setNum_same]
  exact narrowU_of_lt (w := 8) (by omega) (by omega)

theorem hubReset_phase (s : State) (cause : Nat) : phase (hubReset s cause) = 0 := by
  obtain ⟨r, hregs, hr⟩ := hubReset_startup s cause (sub := 3) (by decide) (by decide) (by decide)
  unfold phase State.nat
  rw [hr, num_setNum_sub _ _ _ (by decide), State.num, hregs]
  rfl

theorem rejectTrial_dbg (s : State) (cause : Nat) : (rejectTrial s cause).dbg = s.dbg := by
  unfold rejectTrial
  dsimp only
  split <;> rfl

/-- A reset that is not of the supply leaves the TAP its instruction and what its data register holds (R609). -/
theorem hubReset_tap (s : State) (h : cause ≠ 1) :
    (hubReset s cause).dbg.ir = s.dbg.ir ∧ (hubReset s cause).dbg.dr = s.dbg.dr := by
  unfold hubReset
  simp only [State.setNum_dbg, showFlash_dbg, if_neg h, rejectTrial_dbg, and_self]

/-! A debug reset (R619, R622). -/

/-- A debug reset has taken place: cause 5, reset asserted, phase 0 and no further one due; the TAP has instruction `ir`. -/
structure DebugWasReset (t : State) (ir : Nat) : Prop where
  cause : t.num .startup 0 1 = 5
  inReset : t.power.inReset = true
  phase : phase t = 0
  notDue : t.dbg.resetDue = false
  ir : t.dbg.ir = ir

/-- What a debug reset brought about by the selection of an instruction shows. -/
theorem DebugWasReset.selected {ir : Nat} (h : DebugWasReset t ir) :
    t.num .startup 0 1 = 5 ∧ Machine.phase t = 0 ∧ t.dbg.resetDue = false ∧ t.dbg.ir = ir :=
  ⟨h.cause, h.phase, h.notDue, h.ir⟩

/-- A debug reset is a hub reset with cause 5; making image A trial before it (R622) leaves the debug record. -/
theorem debugResetNow_eq_hubReset (s : State) : ∃ r : State, r.dbg = s.dbg ∧ debugResetNow s = hubReset r 5 := by
  unfold debugResetNow
  refine ⟨_, ?_, rfl⟩
  split <;> rfl

theorem debugResetNow_reset (s : State) :
    DebugWasReset (debugResetNow s) s.dbg.ir ∧ (debugResetNow s).dbg.dr = s.dbg.dr := by
  obtain ⟨r, hdbg, hr⟩ := debugResetNow_eq_hubReset s
  obtain ⟨hir, hdr⟩ := hubReset_tap r (cause := 5) (by decide)
  rw [hr, ← hdbg]
  exact ⟨⟨hubReset_cause r (by decide), hubReset_inReset r 5, hubReset_phase r 5, hubReset_resetDue r 5, hir⟩, hdr⟩

/-- A change of the debug record that makes no reset due takes nothing back of a debug reset. -/
theorem DebugWasReset.modDbg {ir new : Nat} (h : DebugWasReset t ir) {f : DebugSt → DebugSt}
    (hdue : (f t.dbg).resetDue = t.dbg.resetDue) (hir : (f t.dbg).ir = new) : DebugWasReset (t.modDbg f) new :=
  ⟨h.cause, h.inReset, h.phase, hdue.trans h.notDue, hir⟩

theorem DebugWasReset.captureDr {ir : Nat} (h : DebugWasReset t ir) (v : Nat) : DebugWasReset (captureDr t v) ir :=
  h.modDbg rfl h.ir

/-! The next Update-IR (R610, R619). -/

/-- With a reset due, the selection of an instruction resets the hub. -/
theorem updateIr_reset (hdue : s.dbg.resetDue = true) (code : Nat) : DebugWasReset (updateIr s code) code := by
  unfold updateIr
  rw [if_pos hdue]
  exact (debugResetNow_reset s).1.modDbg rfl rfl

theorem selectIr_same (h : s.dbg.ir = code) : selectIr s code = s := if_pos h
theorem selectIr_other (h : s.dbg.ir ≠ code) : selectIr s code = updateIr s code := if_neg h

theorem selectIr_reset (hdue : s.dbg.resetDue = true) (h : s.dbg.ir ≠ code) : DebugWasReset (selectIr s code) code := by
  rw [selectIr_other h]
  exact updateIr_reset hdue code

/-- EXTEST, CLAMP and HIGHZ with RESET_N high select BYPASS (R613); once the selection has reset the hub, no refusal is
counted. -/
theorem takeBalls_reset (hdue : s.dbg.resetDue = true) (hheld : s.power.held = false) (code : Nat) :
    DebugWasReset (takeBalls s code) 0x3F := by
  have hreset := (updateIr_reset hdue 0x3F).captureDr 0
  unfold takeBalls
  rw [if_neg (by simp [hheld])]
  dsimp only
  rwa [if_pos hreset.inReset]

/-- Whether or not the read buffer has a word to give, the capture takes nothing back of the reset. -/
theorem exec_dbgdataCapture_reset (hon : tapOn s = true) (hdue : s.dbg.resetDue = true) (h : s.dbg.ir ≠ 0x11) :
    ∃ t, exec .dbgdataCapture s = .next t ∧ DebugWasReset t 0x11 := by
  have hreset := selectIr_reset hdue h
  show ∃ t, execDbgdataCapture s = .next t ∧ _
  unfold execDbgdataCapture
  rw [if_neg (by simp [hon])]
  dsimp only
  split
  · exact ⟨_, rfl, hreset.captureDr 0⟩
  · exact ⟨_, rfl, (hreset.modDbg rfl hreset.ir).captureDr _⟩

theorem exec_dbgdataUpdate_reset (hon : tapOn s = true) (hdue : s.dbg.resetDue = true) (h : s.dbg.ir ≠ 0x11) (w : Nat) :
    exec (.dbgdataUpdate w) s = .next (selectIr s 0x11) := by
  have hreset := selectIr_reset hdue h
  show execDbgdataUpdate w s = _
  unfold execDbgdataUpdate
  rw [if_neg (by simp [hon])]
  exact if_pos (.inl hreset.inReset)

/-! A scan of DBGCMD (R615, R619). -/

/-- A debug reset that a scan of DBGCMD has brought about: the TAP keeps DBGCMD and the status `v` that the scan captured. -/
abbrev ResetByScan (t : State) (v : Nat) : Prop :=
  t.num .startup 0 1 = 5 ∧ t.power.inReset = true ∧ phase t = 0 ∧ t.dbg.resetDue = false ∧ t.dbg.ir = 0x10 ∧ t.dbg.dr = v

/-- A scan under DBGCMD captures the status; with a reset due and the status done, the reset follows. -/
theorem scanCmd_done (hir : s.dbg.ir = 0x10) (hdue : s.dbg.resetDue = true) (hdone : s.dbg.state = 2) :
    scanCmd s = debugResetNow (captureDr s s.dbg.word) := by
  unfold scanCmd
  rw [selectIr_same hir]
  exact if_pos ⟨hdue, hdone⟩

theorem scanCmd_reset (hir : s.dbg.ir = 0x10) (hdue : s.dbg.resetDue = true) (hdone : s.dbg.state = 2) :
    ResetByScan (scanCmd s) s.dbg.word := by
  obtain ⟨hreset, hdr⟩ := debugResetNow_reset (captureDr s s.dbg.word)
  rw [scanCmd_done hir hdue hdone]
  exact ⟨hreset.cause, hreset.inReset, hreset.phase, hreset.notDue, hreset.ir.trans hir, hdr⟩

/-- Under DBGCMD, a scan with no reset due, or of a status that is not done, only captures the status. -/
theorem scanCmd_captures (hir : s.dbg.ir = 0x10) (hwait : s.dbg.resetDue = false ∨ s.dbg.state ≠ 2) :
    scanCmd s = captureDr s s.dbg.word := by
  have hneither : ¬ (s.dbg.resetDue = true ∧ s.dbg.state = 2) := by
    rintro ⟨hdue, hdone⟩
    exact hwait.elim (by simp [hdue]) (· hdone)
  unfold scanCmd
  rw [selectIr_same hir]
  exact if_neg hneither

/-- A scan that selects DBGCMD anew resets the hub at the selection, and finds no reset due any more at the capture. -/
theorem scanCmd_select_reset (hdue : s.dbg.resetDue = true) (h : s.dbg.ir ≠ 0x10) : DebugWasReset (scanCmd s) 0x10 := by
  have hreset := (selectIr_reset hdue h).captureDr (selectIr s 0x10).dbg.word
  unfold scanCmd
  dsimp only
  rwa [if_neg (by simp [hreset.notDue])]

theorem exec_debugNoOperation_scan (hon : tapOn s = true) (hop : bits w 63 60 = 0) :
    exec (.debugNoOperation w) s = .next (scanCmd s) := by
  show execDebugNoOperation w s = _
  unfold execDebugNoOperation
  simp only [hop, hon, if_true]

/-- A scan that resets the hub leaves nothing to take the command that it carries (R616). -/
theorem takeCmd_of_scan_inReset (hon : tapOn s = true) (hop : bits w 63 60 = op) (h : (scanCmd s).power.inReset = true) :
    takeCmd s w op run = scanCmd s := by
  unfold takeCmd
  rw [if_neg (by simp [hon, hop])]
  exact if_pos h

/-- Whatever command it carries, a scan of DBGCMD that captures the status of a debug reset as done resets the hub. -/
theorem takeCmd_reset (hon : tapOn s = true) (hdue : s.dbg.resetDue = true) (hop : bits w 63 60 = op)
    (hir : s.dbg.ir = 0x10) (hdone : s.dbg.state = 2) (run : State → Served3) :
    ResetByScan (takeCmd s w op run) s.dbg.word := by
  have hscan := scanCmd_reset hir hdue hdone
  have hreset : (scanCmd s).power.inReset = true := hscan.2.1
  rwa [takeCmd_of_scan_inReset hon hop hreset]

/-- A command that the debug port takes begins with the state `dbgBegun`, and is busy unless it has reset the hub. -/
theorem takeCmd_begins (h : DbgTakes s w op) (hrun : (run s.dbgBegun).1.power.inReset = false) :
    takeCmd s w op run = (run s.dbgBegun).1.modDbg
      (fun d => { d with busy := some (op, (run s.dbgBegun).2.1, (run s.dbgBegun).2.2) }) := by
  obtain ⟨hon, hop, hir, hdue, hreset, hbusy⟩ := h
  unfold takeCmd
  rw [if_neg (by simp [hon, hop]), scanCmd_captures hir (.inl hdue)]
  dsimp only
  rw [if_neg (by simpa [captureDr] using hreset), if_neg (by simp [captureDr, hbusy])]
  exact if_neg (ne_true_of_eq_false hrun)

/-- What DEBUG_RESET does once it is taken (R619). -/
def makeResetDue (w : Nat) (s : State) : Served3 :=
  if bits w 59 0 ≠ 0 then (s, .outOfRange, []) else (s.modDbg (fun d => { d with resetDue := true }), .success, [])

theorem makeResetDue_success (hfields : bits w 59 0 = 0) (s : State) :
    makeResetDue w s = (s.modDbg (fun d => { d with resetDue := true }), .success, []) := if_neg (not_not.2 hfields)

theorem exec_debugReset_eq (w : Nat) (s : State) : exec (.debugReset w) s = .next (takeCmd s w 8 (makeResetDue w)) := rfl

/-- DEBUG_RESET taken with no other field set makes a reset due, and is busy until it is done. -/
theorem exec_debugReset_taken (h : DbgTakes s w 8) (hfields : bits w 59 0 = 0) :
    exec (.debugReset w) s = .next ((s.dbgBegun.modDbg (fun d => { d with resetDue := true })).modDbg
      (fun d => { d with busy := some (8, .success, []) })) := by
  have hrun := makeResetDue_success hfields s.dbgBegun
  have hbegins := takeCmd_begins (run := makeResetDue w) h
  obtain ⟨-, -, -, -, hreset, -⟩ := h
  rw [hrun] at hbegins
  rw [exec_debugReset_eq, hbegins hreset]

/-- Settles O50: a selection resets the hub in `updateIr`, a scan in `scanCmd`, and no command is taken after either. -/
theorem aDebugResetWaitsForItsStatusOrAnUpdate : Obligations.ADebugResetWaitsForItsStatusOrAnUpdate := by
  unfold Obligations.ADebugResetWaitsForItsStatusOrAnUpdate
  refine ⟨?taken, ?done, ?notDone, ?idcode, ?bypass, ?preload, ?extest, ?clamp, ?highz, ?dataCapture, ?dataUpdate, ?command,
    ?read, ?write, ?memoryRead, ?memoryWrite, ?reset⟩
  case taken =>
    intro s w htakes hfields
    exact ⟨_, exec_debugReset_taken htakes hfields, rfl, rfl, rfl⟩
  case done =>
    intro s w hon hdue hop hir hdone
    exact ⟨_, exec_debugNoOperation_scan hon hop, scanCmd_reset hir hdue hdone⟩
  case notDone =>
    intro s w hon hdue hop hir hdone
    refine ⟨_, exec_debugNoOperation_scan hon hop, ?_⟩
    rw [scanCmd_captures hir (.inr hdone)]
    exact ⟨rfl, hdue, rfl⟩
  case idcode =>
    intro s hon hdue
    exact ⟨_, congrArg Host.Outcome.next (if_pos hon), ((updateIr_reset hdue 0x02).captureDr _).selected⟩
  case bypass =>
    intro s hon hdue
    exact ⟨_, congrArg Host.Outcome.next (if_pos hon), ((updateIr_reset hdue 0x3F).captureDr 0).selected⟩
  case preload =>
    intro s balls hon hdue
    have hreset := updateIr_reset hdue 0x01
    exact ⟨_, congrArg Host.Outcome.next (if_pos hon), ((hreset.modDbg rfl hreset.ir).captureDr _).selected⟩
  case extest =>
    intro s hon hdue hheld
    exact ⟨_, congrArg Host.Outcome.next (if_pos hon), (takeBalls_reset hdue hheld 0x00).selected⟩
  case clamp =>
    intro s hon hdue hheld
    exact ⟨_, congrArg Host.Outcome.next (if_pos hon), (takeBalls_reset hdue hheld 0x03).selected⟩
  case highz =>
    intro s hon hdue hheld
    exact ⟨_, congrArg Host.Outcome.next (if_pos hon), (takeBalls_reset hdue hheld 0x04).selected⟩
  case dataCapture =>
    intro s hon hdue hir
    obtain ⟨t, hexec, hreset⟩ := exec_dbgdataCapture_reset hon hdue hir
    exact ⟨t, hexec, hreset.selected⟩
  case dataUpdate =>
    intro s w hon hdue hir
    exact ⟨_, exec_dbgdataUpdate_reset hon hdue hir w, (selectIr_reset hdue hir).selected⟩
  case command =>
    intro s w hon hdue hop hir
    exact ⟨_, exec_debugNoOperation_scan hon hop, (scanCmd_select_reset hdue hir).selected⟩
  case read =>
    intro s w hon hdue hop hir hdone
    exact ⟨_, rfl, takeCmd_reset hon hdue hop hir hdone _⟩
  case write =>
    intro s w hon hdue hop hir hdone
    exact ⟨_, rfl, takeCmd_reset hon hdue hop hir hdone _⟩
  case memoryRead =>
    intro s w hon hdue hop hir hdone
    exact ⟨_, rfl, takeCmd_reset hon hdue hop hir hdone _⟩
  case memoryWrite =>
    intro s w hon hdue hop hir hdone
    exact ⟨_, rfl, takeCmd_reset hon hdue hop hir hdone _⟩
  case reset =>
    intro s w hon hdue hop hir hdone
    exact ⟨_, rfl, takeCmd_reset hon hdue hop hir hdone _⟩

end Sys2Proof.Machine
end

section
/-! PROOFS. The canonical form of the two memories, the capture region and the DMA buffer, under a step of the hub (log 7): one lemma
for each command, each from what Laws/MemoryFrame.lean and Laws/MemoryKept.lean say of the operations that the command is made
of. -/

namespace Sys2Proof.Machine

open Sys2Proof

/-- Where a command answers a next state, both memories stand in their canonical form there. -/
def OutcomeCanon (r : Host.Outcome State Fault Refusal) : Prop :=
  ∀ t, r = .next t → Memory.wf t.dmaBuf = true ∧ Memory.wf t.takeMem.bytes = true

@[simp] theorem outcomeCanon_next (t : State) :
    OutcomeCanon (.next t) ↔ Memory.wf t.dmaBuf = true ∧ Memory.wf t.takeMem.bytes = true := by
  constructor
  · exact fun h => h t rfl
  · rintro h u ⟨⟩
    exact h

@[simp] theorem outcomeCanon_fault (r : Fault) : OutcomeCanon (.fault r) := fun _ h => nomatch h

/-- The edge processor looks at an input (R263). -/
theorem dinLook_memory {s t : State} {i : Nat} {d : DinSt} (h : dinLook s i d = some t) :
    t.dmaBuf = s.dmaBuf ∧ t.takeMem.bytes = s.takeMem.bytes := by
  unfold dinLook at h
  dsimp only at h
  repeat' split at h
  all_goals cases h
  all_goals simp

/-- A take copies a slot (R286): its bytes wait in the fill, and the region changes at the commit alone. -/
theorem copyOne_memory {s t : State} {k : Nat} (h : copyOne s k = some t) :
    t.dmaBuf = s.dmaBuf ∧ t.takeMem.bytes = s.takeMem.bytes := by
  unfold copyOne at h
  dsimp only at h
  repeat' split at h
  all_goals cases h
  all_goals simp

/-- A cell forms its next word (R420). -/
theorem cellWord_memory {s t : State} {c i data : Nat} {w : QWord} (h : cellWord s c i data = some (t, w)) :
    t.dmaBuf = s.dmaBuf ∧ t.takeMem.bytes = s.takeMem.bytes := by
  unfold cellWord at h
  dsimp only at h
  split at h
  · split at h
    · cases h
    · obtain ⟨rfl, -⟩ := Prod.mk.inj (Option.some.inj h)
      split <;> simp
  · split at h
    · obtain ⟨rfl, -⟩ := Prod.mk.inj (Option.some.inj h)
      simp
    · obtain ⟨rfl, -⟩ := Prod.mk.inj (Option.some.inj h)
      split <;> simp

section
variable {s : State} (hd : Memory.wf s.dmaBuf = true) (hb : Memory.wf s.takeMem.bytes = true)
include hd hb

/-! An instruction of a DMA channel, a command of the debug port and a request of the management protocol, from what they do once
they are taken. -/

theorem takeInstr_canon {ops : Nat → Bool} {f : State → Nat → Nat → State}
    (h : ∀ s c w, Memory.wf s.dmaBuf = true → Memory.wf s.takeMem.bytes = true →
      Memory.wf (f s c w).dmaBuf = true ∧ Memory.wf (f s c w).takeMem.bytes = true) :
    OutcomeCanon (.next (takeInstr s ops f)) := (outcomeCanon_next _).2 (takeInstr_ok s ops f h hd hb)

theorem takeCmd_canon {w op : Nat} {run : State → Served3}
    (h : ∀ s, Memory.wf s.dmaBuf = true → Memory.wf s.takeMem.bytes = true →
      Memory.wf (run s).1.dmaBuf = true ∧ Memory.wf (run s).1.takeMem.bytes = true) :
    OutcomeCanon (.next (takeCmd s w op run)) := (outcomeCanon_next _).2 (takeCmd_ok s w op run h hd hb)

theorem serveRequest_canon {p : Kmp → Bool} {use : SesUse} {run : State → Rx → Kmp → Served}
    (h : ∀ s rx m, Memory.wf s.dmaBuf = true → Memory.wf s.takeMem.bytes = true →
      Memory.wf (run s rx m).1.dmaBuf = true ∧ Memory.wf (run s rx m).1.takeMem.bytes = true) :
    OutcomeCanon (.next (serveRequest s p use run)) := (outcomeCanon_next _).2 (serveRequest_ok s p use run h hd hb)

/-! An evaluation of the grid (R208, R210). -/

theorem errorShown_canon (e v : Int) (f : ClkSt → ClkSt) :
    Memory.wf ((markClock ((s.setNum .grid 0 3 e).modClk f)).setNum .grid 0 13 v).dmaBuf = true ∧
      Memory.wf ((markClock ((s.setNum .grid 0 3 e).modClk f)).setNum .grid 0 13 v).takeMem.bytes = true := by
  simp [hd, hb]

theorem raiseIf_canon (c : Prop) [Decidable c] (src cause detail : Nat) (f : ClkSt → ClkSt) :
    Memory.wf ((if c then raise s src cause detail else s).modClk f).dmaBuf = true ∧
      Memory.wf ((if c then raise s src cause detail else s).modClk f).takeMem.bytes = true := by
  split <;> simp [hd, hb]

/-! The load of the grid count at an anchor (R209, R213). -/

theorem gridTo_canon (st tick : Nat) :
    Memory.wf (gridTo s st tick).dmaBuf = true ∧ Memory.wf (gridTo s st tick).takeMem.bytes = true := by
  simp [hd, hb]

theorem loadDropped_canon (c : Prop) [Decidable c] (tick : Nat) :
    Memory.wf (loadCount (oldsDrop (if c then cancelNamed s 0 else s)) tick).dmaBuf = true ∧
      Memory.wf (loadCount (oldsDrop (if c then cancelNamed s 0 else s)) tick).takeMem.bytes = true := by
  apply loadCount_wf
  · split <;> simp [hd, hb]
  · split <;> simp [hd, hb]

/-- What the hub begins anew at the tick that a re-anchor loads (R213). -/
theorem begunAnew_canon :
    let u := (List.range 64).foldl (fun s x => if s.nat .crossHub x 1 = 1 then crossBegin s x s.now else s)
      (winsStart (takesLoad (streamsBegin (s.bands.foldl (fun s p => bandAnew s p.1 (s.now - 1)) s) s.now) s.now) s.now)
    Memory.wf u.dmaBuf = true ∧ Memory.wf u.takeMem.bytes = true := by
  obtain ⟨hdr, hbr⟩ :=
    foldl_memory (fun s (p : Nat × BandCh) => bandAnew s p.1 (s.now - 1)) (fun s p => bandAnew_memory ..) s.bands s
  generalize s.bands.foldl (fun s p => bandAnew s p.1 (s.now - 1)) s = r at hdr hbr ⊢
  obtain ⟨hdu, hbu⟩ := streamsBegin_wf r s.now (hdr ▸ hd) (hbr ▸ hb)
  obtain ⟨hdw, hbw⟩ := takesLoad_wf _ s.now hdu hbu
  generalize takesLoad (streamsBegin r s.now) s.now = w at hdw hbw ⊢
  generalize List.range 64 = l
  refine foldl_wf _ (fun s x hd hb => ?_) _ _ ?_ ?_
  · split <;> simp [hd, hb]
  · simp [hdw]
  · simp [hbw]

theorem anchored_canon (kind st : Nat) :
    let u := gridTo (s.modClk (fun c => { c with anchorDue := none })) st
      (s.modClk (fun c => { c with anchorDue := none })).now
    OutcomeCanon (.next (if kind = 2 ∧ u.nat .startup 0 3 = 6 then
        (List.range 64).foldl (fun s x => if s.nat .crossHub x 1 = 1 then crossBegin s x s.now else s)
          (winsStart (takesLoad (streamsBegin (u.bands.foldl (fun s p => bandAnew s p.1 (s.now - 1)) u) u.now) u.now) u.now)
      else u)) := by
  intro u
  obtain ⟨hdu, hbu⟩ : Memory.wf u.dmaBuf = true ∧ Memory.wf u.takeMem.bytes = true :=
    gridTo_canon (by simp [hd]) (by simp [hb]) st _
  clear_value u
  split
  · exact (outcomeCanon_next _).2 (begunAnew_canon hdu hbu)
  · exact (outcomeCanon_next _).2 ⟨hdu, hbu⟩

/-! The commands, in the order of Machine/Dispatch.lean. -/

@[simp] theorem execPtpSyncReceived_canon (port domain sender : Nat) (origin corr : Int) :
    OutcomeCanon (execPtpSyncReceived port domain sender origin corr s) := by
  unfold execPtpSyncReceived
  dsimp only
  (repeat' split) <;> simp [hd, hb]

@[simp] theorem execAnnounceReceived_canon (port domain : Nat) (a : PtpAnnounce) :
    OutcomeCanon (execAnnounceReceived port domain a s) := by
  unfold execAnnounceReceived
  dsimp only
  (repeat' split) <;> simp [hd, hb]

@[simp] theorem execDelayRespReceived_canon (port : Nat) (receipt corr : Int) :
    OutcomeCanon (execDelayRespReceived port receipt corr s) := by
  unfold execDelayRespReceived
  dsimp only
  (repeat' split) <;> simp [hd, hb]

@[simp] theorem execPowerOn_canon : OutcomeCanon (execPowerOn s) := by
  unfold execPowerOn
  (repeat' split) <;> simp [hd, hb]

@[simp] theorem execUndervoltageLockout_canon : OutcomeCanon (execUndervoltageLockout s) := by
  unfold execUndervoltageLockout
  (repeat' split) <;> simp [hd, hb]

@[simp] theorem execResetRelease_canon (straps : Nat) : OutcomeCanon (execResetRelease straps s) := by
  unfold execResetRelease
  (repeat' split) <;> simp [hd, hb]

@[simp] theorem execResetBall_canon : OutcomeCanon (execResetBall s) := by
  unfold execResetBall
  (repeat' split) <;> simp [hd, hb]

@[simp] theorem execWatchdogExpiry_canon : OutcomeCanon (execWatchdogExpiry s) := by
  unfold execWatchdogExpiry
  (repeat' split) <;> simp [hd, hb]

@[simp] theorem execTrialTimeout_canon : OutcomeCanon (execTrialTimeout s) := by
  unfold execTrialTimeout
  (repeat' split) <;> simp [hd, hb]

@[simp] theorem execBootEnd_canon (okA okB : Bool) : OutcomeCanon (execBootEnd okA okB s) := by
  unfold execBootEnd
  dsimp only
  (repeat' split) <;> simp [hd, hb]

@[simp] theorem execRestore_canon : OutcomeCanon (execRestore s) := by
  unfold execRestore
  dsimp only
  (repeat' split) <;> simp [hd, hb]

@[simp] theorem execStreamStart_canon : OutcomeCanon (execStreamStart s) := by
  unfold execStreamStart
  dsimp only
  (repeat' split) <;> simp [hd, hb]

@[simp] theorem execPowerMonitorSample_canon (vin current excMv excMw rails : Nat) :
    OutcomeCanon (execPowerMonitorSample vin current excMv excMw rails s) := by
  unfold execPowerMonitorSample
  dsimp only
  (repeat' split) <;> simp [hd, hb]

@[simp] theorem execTemperatureSample_canon (readings : List Int) : OutcomeCanon (execTemperatureSample readings s) := by
  unfold execTemperatureSample
  dsimp only
  (repeat' split) <;> simp [hd, hb]

@[simp] theorem execResetNow_canon (ses : Nat) : OutcomeCanon (execResetNow ses s) := by
  simp [execResetNow, hd, hb]

@[simp] theorem execResetWhenIdle_canon (ses : Nat) : OutcomeCanon (execResetWhenIdle ses s) := by
  simp [execResetWhenIdle, hd, hb]

@[simp] theorem execPreferImageA_canon (ses : Nat) : OutcomeCanon (execPreferImageA ses s) := by
  simp [execPreferImageA, hd, hb]

@[simp] theorem execPreferImageB_canon (ses : Nat) : OutcomeCanon (execPreferImageB ses s) := by
  simp [execPreferImageB, hd, hb]

@[simp] theorem execUpdateBegin_canon (ses : Nat) : OutcomeCanon (execUpdateBegin ses s) := by
  simp [execUpdateBegin, hd, hb]

@[simp] theorem execUpdateEraseComplete_canon : OutcomeCanon (execUpdateEraseComplete s) := by
  unfold execUpdateEraseComplete
  (repeat' split) <;> simp [hd, hb]

@[simp] theorem execUpdateSegment_canon (ses : Nat) (bs : Bytes) : OutcomeCanon (execUpdateSegment ses bs s) := by
  simp [execUpdateSegment, hd, hb]

@[simp] theorem execUpdateFinish_canon (ses : Nat) : OutcomeCanon (execUpdateFinish ses s) := by
  simp [execUpdateFinish, hd, hb]

@[simp] theorem execUpdateVerifyComplete_canon (ok : Bool) (version : Nat) :
    OutcomeCanon (execUpdateVerifyComplete ok version s) := by
  unfold execUpdateVerifyComplete
  dsimp only
  (repeat' split) <;> simp [hd, hb]

@[simp] theorem execUpdateAbort_canon (ses : Nat) : OutcomeCanon (execUpdateAbort ses s) := by
  simp [execUpdateAbort, hd, hb]

@[simp] theorem execDictionaryWrite_canon (ses idx sub : Nat) (bs : Bytes) :
    OutcomeCanon (execDictionaryWrite ses idx sub bs s) := by
  simp [execDictionaryWrite, hd, hb]

@[simp] theorem execStagedWriteTakesEffect_canon (ses idx sub : Nat) :
    OutcomeCanon (execStagedWriteTakesEffect ses idx sub s) := by
  unfold execStagedWriteTakesEffect
  dsimp only
  (repeat' split) <;> simp [hd, hb]

@[simp] theorem execRoutingWrite_canon (ses idx sub : Nat) (bs : Bytes) : OutcomeCanon (execRoutingWrite ses idx sub bs s) := by
  unfold execRoutingWrite
  (repeat' split) <;> simp [hd, hb]

@[simp] theorem execExcitationWrite_canon (ses idx sub : Nat) (bs : Bytes) :
    OutcomeCanon (execExcitationWrite ses idx sub bs s) := by
  unfold execExcitationWrite
  (repeat' split) <;> simp [hd, hb]

@[simp] theorem execSwitchClose_canon (cell : Nat) : OutcomeCanon (execSwitchClose cell s) := by
  unfold execSwitchClose
  (repeat' split) <;> simp [hd, hb]

@[simp] theorem execClampOnset_canon (term : Nat) : OutcomeCanon (execClampOnset term s) := by
  unfold execClampOnset
  (repeat' split) <;> simp [hd, hb]

@[simp] theorem execClampRelease_canon (term tick : Nat) : OutcomeCanon (execClampRelease term tick s) := by
  unfold execClampRelease
  (repeat' split) <;> simp [hd, hb]

@[simp] theorem execClampLatchedClear_canon (ses cell : Nat) (bs : Bytes) :
    OutcomeCanon (execClampLatchedClear ses cell bs s) := by
  simp [execClampLatchedClear, hd, hb]

@[simp] theorem execExcitationOutOfRegulation_canon (unit : Sys2Proof.ExcUnit) (tick conditions : Nat) :
    OutcomeCanon (execExcitationOutOfRegulation unit tick conditions s) := by
  unfold execExcitationOutOfRegulation
  dsimp only
  (repeat' split) <;> simp [hd, hb]

@[simp] theorem execExcitationRegulationLeave_canon (unit : Sys2Proof.ExcUnit) (tick : Nat) :
    OutcomeCanon (execExcitationRegulationLeave unit tick s) := by
  unfold execExcitationRegulationLeave
  dsimp only
  (repeat' split) <;> simp [hd, hb]

@[simp] theorem execOverloadOnset_canon (ch : Nat) : OutcomeCanon (execOverloadOnset ch s) := by
  unfold execOverloadOnset
  simp [hd, hb]

@[simp] theorem execOverloadResetEnd_canon (ch : Nat) : OutcomeCanon (execOverloadResetEnd ch s) := by
  unfold execOverloadResetEnd
  simp [hd, hb]

@[simp] theorem execOverloadRelease_canon (ch : Nat) : OutcomeCanon (execOverloadRelease ch s) := by
  unfold execOverloadRelease
  simp [hd, hb]

@[simp] theorem execSpareResetEnd_canon (cell : Nat) : OutcomeCanon (execSpareResetEnd cell s) := by
  unfold execSpareResetEnd
  (repeat' split) <;> simp [hd, hb]

@[simp] theorem execReferenceReady_canon (cell : Nat) : OutcomeCanon (execReferenceReady cell s) := by
  unfold execReferenceReady
  dsimp only
  (repeat' split) <;> simp [hd, hb]

@[simp] theorem execPowerModeSwitch_canon (cell : Nat) : OutcomeCanon (execPowerModeSwitch cell s) := by
  unfold execPowerModeSwitch
  (repeat' split) <;> simp [hd, hb]

@[simp] theorem execPullPhaseEnd_canon (cell : Nat) (microvolts : List Int) :
    OutcomeCanon (execPullPhaseEnd cell microvolts s) := by
  unfold execPullPhaseEnd
  dsimp only
  (repeat' split) <;> simp [hd, hb]

@[simp] theorem execOpenWireDetected_canon (ch : Nat) : OutcomeCanon (execOpenWireDetected ch s) := by
  simp [execOpenWireDetected, hd, hb]

@[simp] theorem execOpenWirePullRelease_canon (ch : Nat) : OutcomeCanon (execOpenWirePullRelease ch s) := by
  unfold execOpenWirePullRelease
  (repeat' split) <;> simp [hd, hb]

@[simp] theorem execRailStickOnset_canon (ch : Nat) (run : RailRun) : OutcomeCanon (execRailStickOnset ch run s) := by
  unfold execRailStickOnset
  (repeat' split) <;> simp [hd, hb]

@[simp] theorem execRailStickRelease_canon (ch : Nat) (run : RailRun) : OutcomeCanon (execRailStickRelease ch run s) := by
  unfold execRailStickRelease
  (repeat' split) <;> simp [hd, hb]

@[simp] theorem execAuxScanStart_canon : OutcomeCanon (execAuxScanStart s) := by
  unfold execAuxScanStart
  dsimp only
  (repeat' split) <;> simp [hd, hb]

@[simp] theorem execAuxEntryComplete_canon (values : List Int) : OutcomeCanon (execAuxEntryComplete values s) := by
  unfold execAuxEntryComplete
  dsimp only
  (repeat' split) <;> simp [hd, hb]

@[simp] theorem execInjectedRequest_canon (ses : Nat) (bs : Bytes) : OutcomeCanon (execInjectedRequest ses bs s) := by
  simp [execInjectedRequest, hd, hb]

@[simp] theorem execInjectedFlush_canon (ses : Nat) (bs : Bytes) : OutcomeCanon (execInjectedFlush ses bs s) := by
  simp [execInjectedFlush, hd, hb]

@[simp] theorem execInjectedRequestStart_canon : OutcomeCanon (execInjectedRequestStart s) := by
  unfold execInjectedRequestStart
  dsimp only
  (repeat' split) <;> simp [hd, hb]

@[simp] theorem execAuxReferenceReady_canon : OutcomeCanon (execAuxReferenceReady s) := by
  unfold execAuxReferenceReady
  dsimp only
  (repeat' split) <;> simp [hd, hb]

@[simp] theorem execAuxPowerModeSwitch_canon : OutcomeCanon (execAuxPowerModeSwitch s) := by
  simp [execAuxPowerModeSwitch, hd, hb]

@[simp] theorem execCalibrationClaim_canon : OutcomeCanon (execCalibrationClaim s) := by
  unfold execCalibrationClaim
  dsimp only
  (repeat' split) <;> simp [hd, hb]

@[simp] theorem execCalibrationStepEnd_canon : OutcomeCanon (execCalibrationStepEnd s) := by
  unfold execCalibrationStepEnd
  dsimp only
  (repeat' split) <;> simp [hd, hb]

@[simp] theorem execSampleEmitted_canon (ch : Nat) : OutcomeCanon (execSampleEmitted ch s) := by
  unfold execSampleEmitted
  dsimp only
  (repeat' split) <;> simp [hd, hb]

@[simp] theorem execThresholdCrossing_canon (ch cmp : Nat) : OutcomeCanon (execThresholdCrossing ch cmp s) := by
  unfold execThresholdCrossing
  (repeat' split) <;> simp [hd, hb]

@[simp] theorem execDecimationSwitch_canon (ch : Nat) : OutcomeCanon (execDecimationSwitch ch s) := by
  unfold execDecimationSwitch
  (repeat' split) <;> simp [hd, hb]

@[simp] theorem execCrossFadeEnd_canon (ch : Nat) : OutcomeCanon (execCrossFadeEnd ch s) := by
  unfold execCrossFadeEnd
  (repeat' split) <;> simp [hd, hb]

@[simp] theorem execSlateRequest_canon (ses : Nat) (bs : Bytes) : OutcomeCanon (execSlateRequest ses bs s) := by
  simp [execSlateRequest, hd, hb]

@[simp] theorem execSlateBallEdge_canon (edge : Moment) : OutcomeCanon (execSlateBallEdge edge s) := by
  unfold execSlateBallEdge
  dsimp only
  (repeat' split) <;> simp [hd, hb]

@[simp] theorem execZoneSlate_canon (ses : Nat) (bs : Bytes) : OutcomeCanon (execZoneSlate ses bs s) := by
  simp [execZoneSlate, hd, hb]

@[simp] theorem execSlateConfirm_canon (pos : Nat) (answer : SlateAnswer) : OutcomeCanon (execSlateConfirm pos answer s) := by
  unfold execSlateConfirm
  dsimp only
  (repeat' split) <;> simp [hd, hb]

@[simp] theorem execSlatePerformed_canon : OutcomeCanon (execSlatePerformed s) := by
  unfold execSlatePerformed
  dsimp only
  (repeat' split) <;> simp [hd, hb]

@[simp] theorem execPtpForward_canon (out : Egress) : OutcomeCanon (execPtpForward out s) := by
  unfold execPtpForward
  dsimp only
  (repeat' split) <;> simp [hd, hb]

@[simp] theorem execDelayReqSend_canon : OutcomeCanon (execDelayReqSend s) := by
  unfold execDelayReqSend
  dsimp only
  (repeat' split) <;> simp [hd, hb]

@[simp] theorem execPdelayMeasurement_canon (port : Nat) (ask : Bool) : OutcomeCanon (execPdelayMeasurement port ask s) := by
  unfold execPdelayMeasurement
  dsimp only
  (repeat' split) <;> simp [hd, hb]

@[simp] theorem execGrandmasterSyncSend_canon : OutcomeCanon (execGrandmasterSyncSend s) := by
  unfold execGrandmasterSyncSend
  dsimp only
  (repeat' split) <;> simp [hd, hb]

@[simp] theorem execSyncTimeout_canon : OutcomeCanon (execSyncTimeout s) := by
  unfold execSyncTimeout
  (repeat' split) <;> simp [hd, hb]

@[simp] theorem execAnnounceReceiptTimeout_canon : OutcomeCanon (execAnnounceReceiptTimeout s) := by
  unfold execAnnounceReceiptTimeout
  (repeat' split) <;> simp [hd, hb]

@[simp] theorem execClockStep_canon (ses : Nat) (bs : Bytes) : OutcomeCanon (execClockStep ses bs s) := by
  simp [execClockStep, hd, hb]

@[simp] theorem execIncrementWrite_canon (ses : Nat) (bs : Bytes) : OutcomeCanon (execIncrementWrite ses bs s) := by
  simp [execIncrementWrite, hd, hb]

@[simp] theorem execRateAdjustmentWrite_canon (ses : Nat) (bs : Bytes) : OutcomeCanon (execRateAdjustmentWrite ses bs s) := by
  simp [execRateAdjustmentWrite, hd, hb]

@[simp] theorem execCorrectionModeWrite_canon (ses : Nat) (bs : Bytes) : OutcomeCanon (execCorrectionModeWrite ses bs s) := by
  simp [execCorrectionModeWrite, hd, hb]

@[simp] theorem execServoOwnerWrite_canon (ses : Nat) (bs : Bytes) : OutcomeCanon (execServoOwnerWrite ses bs s) := by
  simp [execServoOwnerWrite, hd, hb]

@[simp] theorem execGridEvaluation_canon : OutcomeCanon (execGridEvaluation s) := by
  unfold execGridEvaluation
  split
  · extract_lets e g lim sv s1 s2 big s3 s4 near byE
    obtain ⟨hd2, hb2⟩ : Memory.wf s2.dmaBuf = true ∧ Memory.wf s2.takeMem.bytes = true := errorShown_canon hd hb e _ _
    obtain ⟨hd4, hb4⟩ : Memory.wf s4.dmaBuf = true ∧ Memory.wf s4.takeMem.bytes = true := raiseIf_canon hd2 hb2 _ 53 2 0 _
    clear_value g s4
    (repeat' split) <;> simp [hd4, hb4]
  · simp [hd, hb]

@[simp] theorem execHoldoverGraceExpiry_canon : OutcomeCanon (execHoldoverGraceExpiry s) := by
  unfold execHoldoverGraceExpiry
  (repeat' split) <;> simp [hd, hb]

@[simp] theorem execFreeRunTimeout_canon : OutcomeCanon (execFreeRunTimeout s) := by
  unfold execFreeRunTimeout
  (repeat' split) <;> simp [hd, hb]

@[simp] theorem execGridAnchor_canon : OutcomeCanon (execGridAnchor s) := by
  unfold execGridAnchor
  split
  next kind sec _ _ =>
    obtain ⟨hdu, hbu⟩ := loadDropped_canon hd hb (s.nat .grid 0 12 = 0) (sec * 24576000)
    exact anchored_canon hdu hbu kind _
  next => simp [hd, hb]

@[simp] theorem execReanchorCommand_canon (ses : Nat) (bs : Bytes) : OutcomeCanon (execReanchorCommand ses bs s) := by
  simp [execReanchorCommand, hd, hb]

@[simp] theorem execReanchorStart_canon : OutcomeCanon (execReanchorStart s) := by
  unfold execReanchorStart
  dsimp only
  (repeat' split) <;> simp [hd, hb]

@[simp] theorem execTpoLeadingEdge_canon (p : Nat) : OutcomeCanon (execTpoLeadingEdge p s) := by
  unfold execTpoLeadingEdge
  dsimp only
  (repeat' split) <;> simp [hd, hb]

@[simp] theorem execTpoTrailingEdge_canon (p : Nat) : OutcomeCanon (execTpoTrailingEdge p s) := by
  unfold execTpoTrailingEdge
  dsimp only
  (repeat' split) <;> simp [hd, hb]

@[simp] theorem execCalibrationStart_canon (ses : Nat) (allg stst skew defer_ : Bool) :
    OutcomeCanon (execCalibrationStart ses allg stst skew defer_ s) := by
  simp [execCalibrationStart, hd, hb]

@[simp] theorem execCalibrationAbort_canon (ses : Nat) : OutcomeCanon (execCalibrationAbort ses s) := by
  simp [execCalibrationAbort, hd, hb]

@[simp] theorem execEndHoldOff_canon (ses : Nat) : OutcomeCanon (execEndHoldOff ses s) := by
  simp [execEndHoldOff, hd, hb]

@[simp] theorem execHoldOffExpiry_canon : OutcomeCanon (execHoldOffExpiry s) := by
  unfold execHoldOffExpiry
  dsimp only
  (repeat' split) <;> simp [hd, hb]

@[simp] theorem execCalresStepStart_canon : OutcomeCanon (execCalresStepStart s) := by
  unfold execCalresStepStart
  (repeat' split) <;> simp [hd, hb]

@[simp] theorem execCalresStepEnd_canon (milliohms : Nat) : OutcomeCanon (execCalresStepEnd milliohms s) := by
  unfold execCalresStepEnd
  dsimp only
  (repeat' split) <;> simp [hd, hb]

@[simp] theorem execCellInterruptionStart_canon : OutcomeCanon (execCellInterruptionStart s) := by
  unfold execCellInterruptionStart
  (repeat' split) <;> simp [hd, hb]

@[simp] theorem execCellInterruptionEnd_canon (cell : Nat) (measured : CalResult) :
    OutcomeCanon (execCellInterruptionEnd cell measured s) := by
  unfold execCellInterruptionEnd
  dsimp only
  (repeat' split) <;> simp [hd, hb]

@[simp] theorem execTakeGuardExpiry_canon (cell : Nat) : OutcomeCanon (execTakeGuardExpiry cell s) := by
  unfold execTakeGuardExpiry
  (repeat' split) <;> simp [hd, hb]

@[simp] theorem execEstimationWindowEnd_canon (cell m : Nat) (est : List Int) :
    OutcomeCanon (execEstimationWindowEnd cell m est s) := by
  unfold execEstimationWindowEnd
  dsimp only
  (repeat' split) <;> simp [hd, hb]

@[simp] theorem execElementSwitch_canon (cell m : Nat) : OutcomeCanon (execElementSwitch cell m s) := by
  unfold execElementSwitch
  (repeat' split) <;> simp [hd, hb]

@[simp] theorem execModulatorCannotBeMatched_canon (cell m : Nat) : OutcomeCanon (execModulatorCannotBeMatched cell m s) := by
  unfold execModulatorCannotBeMatched
  dsimp only
  (repeat' split) <;> simp [hd, hb]

@[simp] theorem execCalibrationImageRead_canon (ses : Nat) : OutcomeCanon (execCalibrationImageRead ses s) := by
  simp [execCalibrationImageRead, hd, hb]

@[simp] theorem execCalibrationImageWrite_canon (ses : Nat) (bs : Bytes) :
    OutcomeCanon (execCalibrationImageWrite ses bs s) := by
  simp [execCalibrationImageWrite, hd, hb]

@[simp] theorem execDinFilterAccept_canon (i : Nat) (ball : Bool) (edge : Moment) (run : Nat) :
    OutcomeCanon (execDinFilterAccept i ball edge run s) := by
  unfold execDinFilterAccept
  dsimp only
  (repeat' split) <;> simp [hd, hb]

@[simp] theorem execDinEdgeProcessed_canon (i : Nat) : OutcomeCanon (execDinEdgeProcessed i s) := by
  unfold execDinEdgeProcessed
  split
  next d _ =>
    split
    · cases h : dinLook s i d with
      | none => simp [hd, hb]
      | some t => simp [dinLook_memory h, hd, hb]
    · simp [hd, hb]
  next => simp [hd, hb]

@[simp] theorem execDigitalInputStuck_canon (i : Nat) : OutcomeCanon (execDigitalInputStuck i s) := by
  unfold execDigitalInputStuck
  dsimp only
  (repeat' split) <;> simp [hd, hb]

@[simp] theorem execDinSettingWrite_canon (ses idx sub : Nat) (bs : Bytes) :
    OutcomeCanon (execDinSettingWrite ses idx sub bs s) := by
  unfold execDinSettingWrite
  (repeat' split) <;> simp [hd, hb]

@[simp] theorem execTakeTriggerOccurrence_canon (t : Nat) : OutcomeCanon (execTakeTriggerOccurrence t s) := by
  unfold execTakeTriggerOccurrence
  (repeat' split) <;> simp [hd, hb]

@[simp] theorem execTimeSourceInstance_canon (t : Nat) : OutcomeCanon (execTimeSourceInstance t s) := by
  unfold execTimeSourceInstance
  dsimp only
  (repeat' split) <;> simp [hd, hb]

@[simp] theorem execNetworkTrigger_canon (ses t : Nat) (bs : Bytes) : OutcomeCanon (execNetworkTrigger ses t bs s) := by
  simp [execNetworkTrigger, hd, hb]

@[simp] theorem execArmCommand_canon (ses t : Nat) (bs : Bytes) : OutcomeCanon (execArmCommand ses t bs s) := by
  simp [execArmCommand, hd, hb]

@[simp] theorem execTakeStopOccurrence_canon (t : Nat) : OutcomeCanon (execTakeStopOccurrence t s) := by
  unfold execTakeStopOccurrence
  dsimp only
  (repeat' split) <;> simp [hd, hb]

@[simp] theorem execTakeCopy_canon : OutcomeCanon (execTakeCopy s) := by
  unfold execTakeCopy
  split
  next t h =>
    obtain ⟨k, -, hk⟩ := List.exists_of_findSome?_eq_some h
    simp [copyOne_memory hk, hd, hb]
  next => simp [hd, hb]

@[simp] theorem execTakeFillEnd_canon (t : Nat) : OutcomeCanon (execTakeFillEnd t s) := by
  unfold execTakeFillEnd
  dsimp only
  (repeat' split) <;> simp [hd, hb]

@[simp] theorem execTakeRecordCommit_canon (t : Nat) : OutcomeCanon (execTakeRecordCommit t s) := by
  unfold execTakeRecordCommit
  dsimp only
  (repeat' split) <;> simp [hd, hb]

@[simp] theorem execTakeRearm_canon (t : Nat) : OutcomeCanon (execTakeRearm t s) := by
  unfold execTakeRearm
  (repeat' split) <;> simp [hd, hb]

@[simp] theorem execReleaseOffsetWrite_canon (ses : Nat) (bs : Bytes) : OutcomeCanon (execReleaseOffsetWrite ses bs s) := by
  simp [execReleaseOffsetWrite, hd, hb]

@[simp] theorem execLargestSlackClear_canon (ses t : Nat) (bs : Bytes) : OutcomeCanon (execLargestSlackClear ses t bs s) := by
  simp [execLargestSlackClear, hd, hb]

@[simp] theorem execWindowStart_canon (w : Nat) : OutcomeCanon (execWindowStart w s) := by
  unfold execWindowStart
  (repeat' split) <;> simp [hd, hb]

@[simp] theorem execWindowRecordFormed_canon (w : Nat) : OutcomeCanon (execWindowRecordFormed w s) := by
  unfold execWindowRecordFormed
  dsimp only
  (repeat' split) <;> simp [hd, hb]

@[simp] theorem execCrossHubContribution_canon : OutcomeCanon (execCrossHubContribution s) := by
  unfold execCrossHubContribution
  split
  · simp [hd, hb]
  next pos r rest _ =>
    split
    · simp [hd, hb]
    · refine (outcomeCanon_next _).2 (foldl_wf _ (fun s x hd hb => ?_) _ _ hd hb)
      obtain ⟨hdt, hbt⟩ := crossTake_memory s x pos r
      split
      next u b h =>
        obtain ⟨hdu, hbu⟩ := pair_wf h ⟨hdt ▸ hd, hbt ▸ hb⟩
        simp [hdu, hbu]
      next u h => exact pair_wf h ⟨hdt ▸ hd, hbt ▸ hb⟩

@[simp] theorem execCrossHubDeadline_canon (x : Nat) : OutcomeCanon (execCrossHubDeadline x s) := by
  unfold execCrossHubDeadline
  dsimp only
  (repeat' split) <;> simp [hd, hb]

@[simp] theorem execBlockFormed_canon (failA failB : Bool) : OutcomeCanon (execBlockFormed failA failB s) := by
  unfold execBlockFormed
  dsimp only
  (repeat' split) <;> simp [hd, hb]

@[simp] theorem execReplayDecoderWrite_canon (ses : Nat) (bs : Bytes) : OutcomeCanon (execReplayDecoderWrite ses bs s) := by
  simp [execReplayDecoderWrite, hd, hb]

@[simp] theorem execPackingHoldExpiry_canon : OutcomeCanon (execPackingHoldExpiry s) := by
  unfold execPackingHoldExpiry
  (repeat' split) <;> simp [hd, hb]

@[simp] theorem execKsfDataSend_canon : OutcomeCanon (execKsfDataSend s) := by
  unfold execKsfDataSend
  (repeat' split) <;> simp [hd, hb]

@[simp] theorem execKsfDataReceived_canon : OutcomeCanon (execKsfDataReceived s) := by
  unfold execKsfDataReceived
  dsimp only
  (repeat' split) <;> simp [hd, hb]

@[simp] theorem execAckInterval_canon : OutcomeCanon (execAckInterval s) := by
  unfold execAckInterval
  dsimp only
  (repeat' split) <;> simp [hd, hb]

@[simp] theorem execKeepaliveAck_canon : OutcomeCanon (execKeepaliveAck s) := by
  unfold execKeepaliveAck
  (repeat' split) <;> simp [hd, hb]

@[simp] theorem execNackHoldoffExpiry_canon : OutcomeCanon (execNackHoldoffExpiry s) := by
  unfold execNackHoldoffExpiry
  (repeat' split) <;> simp [hd, hb]

@[simp] theorem execRetransmitInterval_canon : OutcomeCanon (execRetransmitInterval s) := by
  unfold execRetransmitInterval
  (repeat' split) <;> simp [hd, hb]

@[simp] theorem execAck_canon : OutcomeCanon (execAck s) := by
  unfold execAck
  dsimp only
  (repeat' split) <;> simp [hd, hb]

@[simp] theorem execNack_canon (bad : List Nat) : OutcomeCanon (execNack bad s) := by
  unfold execNack
  dsimp only
  (repeat' split) <;> simp [hd, hb]

@[simp] theorem execResendTimeout_canon (bad : List Nat) : OutcomeCanon (execResendTimeout bad s) := by
  unfold execResendTimeout
  (repeat' split) <;> simp [hd, hb]

@[simp] theorem execReachabilityTimeout_canon : OutcomeCanon (execReachabilityTimeout s) := by
  unfold execReachabilityTimeout
  simp [hd, hb]

@[simp] theorem execSignatureArrival_canon (core ord flip : Nat) : OutcomeCanon (execSignatureArrival core ord flip s) := by
  unfold execSignatureArrival
  dsimp only
  (repeat' split) <;> simp [hd, hb]

@[simp] theorem execCompareTimeout_canon : OutcomeCanon (execCompareTimeout s) := by
  unfold execCompareTimeout
  dsimp only
  (repeat' split) <;> simp [hd, hb]

@[simp] theorem execCoreFaultSignal_canon (core : Nat) : OutcomeCanon (execCoreFaultSignal core s) := by
  unfold execCoreFaultSignal
  (repeat' split) <;> simp [hd, hb]

@[simp] theorem execProvingPeriodEnd_canon : OutcomeCanon (execProvingPeriodEnd s) := by
  unfold execProvingPeriodEnd
  (repeat' split) <;> simp [hd, hb]

@[simp] theorem execHiddenFaultAtTakeover_canon (part : Nat) : OutcomeCanon (execHiddenFaultAtTakeover part s) := by
  unfold execHiddenFaultAtTakeover
  (repeat' split) <;> simp [hd, hb]

@[simp] theorem execCoreSelfTestEnd_canon (core : Nat) (pass : Bool) : OutcomeCanon (execCoreSelfTestEnd core pass s) := by
  unfold execCoreSelfTestEnd
  dsimp only
  (repeat' split) <;> simp [hd, hb]

@[simp] theorem execResyncJoin_canon : OutcomeCanon (execResyncJoin s) := by
  unfold execResyncJoin
  (repeat' split) <;> simp [hd, hb]

@[simp] theorem execResyncSnapshot_canon : OutcomeCanon (execResyncSnapshot s) := by
  unfold execResyncSnapshot
  dsimp only
  (repeat' split) <;> simp [hd, hb]

@[simp] theorem execSnapshotCopyComplete_canon : OutcomeCanon (execSnapshotCopyComplete s) := by
  unfold execSnapshotCopyComplete
  (repeat' split) <;> simp [hd, hb]

@[simp] theorem execCoreResynchronised_canon : OutcomeCanon (execCoreResynchronised s) := by
  unfold execCoreResynchronised
  dsimp only
  (repeat' split) <;> simp [hd, hb]

@[simp] theorem execCoreResynchronisationFailed_canon : OutcomeCanon (execCoreResynchronisationFailed s) := by
  unfold execCoreResynchronisationFailed
  dsimp only
  (repeat' split) <;> simp [hd, hb]

@[simp] theorem execResyncRetry_canon : OutcomeCanon (execResyncRetry s) := by
  unfold execResyncRetry
  (repeat' split) <;> simp [hd, hb]

@[simp] theorem execHandback_canon : OutcomeCanon (execHandback s) := by
  unfold execHandback
  (repeat' split) <;> simp [hd, hb]

@[simp] theorem execPlannedHandover_canon (ses : Nat) : OutcomeCanon (execPlannedHandover ses s) := by
  simp [execPlannedHandover, hd, hb]

@[simp] theorem execRestoreCoreA_canon (ses : Nat) : OutcomeCanon (execRestoreCoreA ses s) := by
  simp [execRestoreCoreA, hd, hb]

@[simp] theorem execRestoreCoreB_canon (ses : Nat) : OutcomeCanon (execRestoreCoreB ses s) := by
  simp [execRestoreCoreB, hd, hb]

@[simp] theorem execQueuePush_canon (q data : Nat) (eoi : Bool) : OutcomeCanon (execQueuePush q data eoi s) := by
  unfold execQueuePush
  split
  · simp [hd, hb]
  · split
    · split
      next h =>
        obtain ⟨hdt, hbt⟩ := cellWord_memory h
        exact (outcomeCanon_next _).2 (present_wf _ _ _ (hdt ▸ hd) (hbt ▸ hb))
      next => simp [hd, hb]
    · simp [hd, hb]

@[simp] theorem execQueuePop_canon (q : Nat) (ecc : Ecc) : OutcomeCanon (execQueuePop q ecc s) := by
  unfold execQueuePop
  split
  · simp [hd, hb]
  · split
    · simp [hd, hb]
    · have hp := popHead_wf s q ecc hd hb
      dsimp only
      split
      next u ws h =>
        rw [h] at hp
        exact (outcomeCanon_next _).2 (itemDelivered_wf _ _ _ hp.1 hp.2)
      next u h =>
        rw [h] at hp
        split <;> simp [hp]

@[simp] theorem execCellItemAbandon_canon (q : Nat) : OutcomeCanon (execCellItemAbandon q s) := by
  unfold execCellItemAbandon
  dsimp only
  (repeat' split) <;> simp [hd, hb]

@[simp] theorem execFlush_canon (ses q : Nat) (bs : Bytes) : OutcomeCanon (execFlush ses q bs s) := by
  simp [execFlush, hd, hb]

@[simp] theorem execFlushComplete_canon (q : Nat) : OutcomeCanon (execFlushComplete q s) := by
  unfold execFlushComplete
  (repeat' split) <;> simp [hd, hb]

@[simp] theorem execPeakOccupancyClear_canon (ses q : Nat) (bs : Bytes) : OutcomeCanon (execPeakOccupancyClear ses q bs s) := by
  simp [execPeakOccupancyClear, hd, hb]

@[simp] theorem execOpenSet_canon (ses : Nat) (bs : Bytes) : OutcomeCanon (execOpenSet ses bs s) := by
  simp [execOpenSet, hd, hb]

@[simp] theorem execCommitAtTick_canon (ses : Nat) (bs : Bytes) : OutcomeCanon (execCommitAtTick ses bs s) := by
  simp [execCommitAtTick, hd, hb]

@[simp] theorem execAbandon_canon (ses : Nat) (bs : Bytes) : OutcomeCanon (execAbandon ses bs s) := by
  simp [execAbandon, hd, hb]

@[simp] theorem execSetTimeout_canon (ses : Nat) : OutcomeCanon (execSetTimeout ses s) := by
  unfold execSetTimeout
  dsimp only
  (repeat' split) <;> simp [hd, hb]

@[simp] theorem execCommitFenceEffect_canon (ses : Nat) : OutcomeCanon (execCommitFenceEffect ses s) := by
  unfold execCommitFenceEffect
  (repeat' split) <;> simp [hd, hb]

@[simp] theorem execDmaStart_canon (ses c : Nat) : OutcomeCanon (execDmaStart ses c s) := by
  simp [execDmaStart, hd, hb]

@[simp] theorem execDmaEventStart_canon (c : Nat) : OutcomeCanon (execDmaEventStart c s) := by
  unfold execDmaEventStart
  dsimp only
  (repeat' split) <;> simp [hd, hb]

@[simp] theorem execDmaAbort_canon (ses c : Nat) : OutcomeCanon (execDmaAbort ses c s) := by
  simp [execDmaAbort, hd, hb]

@[simp] theorem execClearFault_canon (ses c : Nat) : OutcomeCanon (execClearFault ses c s) := by
  simp [execClearFault, hd, hb]

@[simp] theorem execDmaBeat_canon (ecc : Ecc) (host : Option Bytes) : OutcomeCanon (execDmaBeat ecc host s) := by
  unfold execDmaBeat
  dsimp only
  (repeat' split) <;> simp [hd, hb]

@[simp] theorem execDmaEnd_canon : OutcomeCanon (execDmaEnd s) := by
  unfold execDmaEnd
  refine takeInstr_canon hd hb fun s c w hd hb => ?_
  (repeat' split) <;> simp [hd, hb]

@[simp] theorem execDmaMove_canon : OutcomeCanon (execDmaMove s) := by
  unfold execDmaMove
  refine takeInstr_canon hd hb fun s c w hd hb => ?_
  simp [hd, hb]

@[simp] theorem execDmaLoop_canon : OutcomeCanon (execDmaLoop s) := by
  unfold execDmaLoop
  refine takeInstr_canon hd hb fun s c w hd hb => ?_
  dsimp only
  (repeat' split) <;> simp [hd, hb]

@[simp] theorem execDmaEndloop_canon : OutcomeCanon (execDmaEndloop s) := by
  unfold execDmaEndloop
  refine takeInstr_canon hd hb fun s c w hd hb => ?_
  dsimp only
  (repeat' split) <;> simp [hd, hb]

@[simp] theorem execDmaWait_canon : OutcomeCanon (execDmaWait s) := by
  unfold execDmaWait
  refine takeInstr_canon hd hb fun s c w hd hb => ?_
  dsimp only
  (repeat' split) <;> simp [hd, hb]

@[simp] theorem execWaitComplete_canon (c : Nat) : OutcomeCanon (execWaitComplete c s) := by
  unfold execWaitComplete
  dsimp only
  (repeat' split) <;> simp [hd, hb]

@[simp] theorem execWaitTimeout_canon (c : Nat) : OutcomeCanon (execWaitTimeout c s) := by
  unfold execWaitTimeout
  (repeat' split) <;> simp [hd, hb]

@[simp] theorem execDmaSignal_canon : OutcomeCanon (execDmaSignal s) := by
  unfold execDmaSignal
  refine takeInstr_canon hd hb fun s c w hd hb => ?_
  (repeat' split) <;> simp [hd, hb]

@[simp] theorem execDmaFence_canon : OutcomeCanon (execDmaFence s) := by
  unfold execDmaFence
  refine takeInstr_canon hd hb fun s c w hd hb => ?_
  (repeat' split) <;> simp [hd, hb]

@[simp] theorem execDmaSeta_canon : OutcomeCanon (execDmaSeta s) := by
  unfold execDmaSeta
  refine takeInstr_canon hd hb fun s c w hd hb => ?_
  dsimp only
  (repeat' split) <;> simp [hd, hb]

@[simp] theorem execDmaAdda_canon : OutcomeCanon (execDmaAdda s) := by
  unfold execDmaAdda
  refine takeInstr_canon hd hb fun s c w hd hb => ?_
  dsimp only
  (repeat' split) <;> simp [hd, hb]

@[simp] theorem execIllegalInstruction_canon : OutcomeCanon (execIllegalInstruction s) := by
  unfold execIllegalInstruction
  refine takeInstr_canon hd hb fun s c w hd hb => ?_
  simp [hd, hb]

@[simp] theorem execWriteConfirmed_canon (c : Nat) (ok : Bool) : OutcomeCanon (execWriteConfirmed c ok s) := by
  unfold execWriteConfirmed
  dsimp only
  (repeat' split) <;> simp [hd, hb]

@[simp] theorem execDictionaryAnswer_canon (c : Nat) : OutcomeCanon (execDictionaryAnswer c s) := by
  unfold execDictionaryAnswer
  dsimp only
  (repeat' split) <;> simp [hd, hb]

@[simp] theorem execTargetTimeout_canon (c : Nat) : OutcomeCanon (execTargetTimeout c s) := by
  unfold execTargetTimeout
  dsimp only
  (repeat' split) <;> simp [hd, hb]

@[simp] theorem execDictionaryAnswerTimeout_canon (c : Nat) : OutcomeCanon (execDictionaryAnswerTimeout c s) := by
  unfold execDictionaryAnswerTimeout
  (repeat' split) <;> simp [hd, hb]

@[simp] theorem execCopyPortBeat_canon : OutcomeCanon (execCopyPortBeat s) := by
  unfold execCopyPortBeat
  (repeat' split) <;> simp [hd, hb]

@[simp] theorem execCopyTimeout_canon : OutcomeCanon (execCopyTimeout s) := by
  unfold execCopyTimeout
  (repeat' split) <;> simp [hd, hb]

@[simp] theorem execProgramPageWrite_canon (ses page : Nat) (bs : Bytes) :
    OutcomeCanon (execProgramPageWrite ses page bs s) := by
  simp [execProgramPageWrite, hd, hb]

@[simp] theorem execLinkUp_canon (port speed : Nat) : OutcomeCanon (execLinkUp port speed s) := by
  unfold execLinkUp
  dsimp only
  (repeat' split) <;> simp [hd, hb]

@[simp] theorem execLinkDown_canon (port : Nat) : OutcomeCanon (execLinkDown port s) := by
  unfold execLinkDown
  (repeat' split) <;> simp [hd, hb]

@[simp] theorem execLinkCheckSend_canon : OutcomeCanon (execLinkCheckSend s) := by
  unfold execLinkCheckSend
  dsimp only
  (repeat' split) <;> simp [hd, hb]

@[simp] theorem execLinkCheck_canon : OutcomeCanon (execLinkCheck s) := by
  unfold execLinkCheck
  dsimp only
  (repeat' split) <;> simp [hd, hb]

@[simp] theorem execRestoreHoldExpiry_canon (port : Nat) : OutcomeCanon (execRestoreHoldExpiry port s) := by
  unfold execRestoreHoldExpiry
  dsimp only
  (repeat' split) <;> simp [hd, hb]

@[simp] theorem execRingTimeout_canon (port : Nat) : OutcomeCanon (execRingTimeout port s) := by
  unfold execRingTimeout
  dsimp only
  (repeat' split) <;> simp [hd, hb]

@[simp] theorem execHelloSend_canon : OutcomeCanon (execHelloSend s) := by
  unfold execHelloSend
  dsimp only
  (repeat' split) <;> simp [hd, hb]

@[simp] theorem execHello_canon : OutcomeCanon (execHello s) := by
  unfold execHello
  dsimp only
  (repeat' split) <;> simp [hd, hb]

@[simp] theorem execHopCountExpiry_canon (port : Nat) : OutcomeCanon (execHopCountExpiry port s) := by
  unfold execHopCountExpiry
  (repeat' split) <;> simp [hd, hb]

@[simp] theorem execRevertHoldExpiry_canon : OutcomeCanon (execRevertHoldExpiry s) := by
  unfold execRevertHoldExpiry
  (repeat' split) <;> simp [hd, hb]

@[simp] theorem execFrameReceived_canon (port : Nat) (f : Frame) : OutcomeCanon (execFrameReceived port f s) := by
  unfold execFrameReceived
  dsimp only
  (repeat' split) <;> simp [hd, hb]

@[simp] theorem execEgressTransmit_canon (out : Egress) : OutcomeCanon (execEgressTransmit out s) := by
  unfold execEgressTransmit
  dsimp only
  (repeat' split) <;> simp [hd, hb]

@[simp] theorem execJoinSend_canon : OutcomeCanon (execJoinSend s) := by
  unfold execJoinSend
  dsimp only
  (repeat' split) <;> simp [hd, hb]

@[simp] theorem execJoin_canon : OutcomeCanon (execJoin s) := by
  unfold execJoin
  dsimp only
  (repeat' split) <;> simp [hd, hb]

@[simp] theorem execWorkerReachabilityTimeout_canon : OutcomeCanon (execWorkerReachabilityTimeout s) := by
  unfold execWorkerReachabilityTimeout
  (repeat' split) <;> simp [hd, hb]

@[simp] theorem execLearnCommand_canon (ses : Nat) (bs : Bytes) : OutcomeCanon (execLearnCommand ses bs s) := by
  simp [execLearnCommand, hd, hb]

@[simp] theorem execModuleInsertion_canon (ident : Bytes) : OutcomeCanon (execModuleInsertion ident s) := by
  unfold execModuleInsertion
  (repeat' split) <;> simp [hd, hb]

@[simp] theorem execKmpRead_canon : OutcomeCanon (execKmpRead s) := by
  unfold execKmpRead
  refine serveRequest_canon hd hb fun s rx m hd hb => ?_
  dsimp only
  (repeat' split) <;> simp [hd, hb]

@[simp] theorem execKmpWrite_canon : OutcomeCanon (execKmpWrite s) := by
  unfold execKmpWrite
  refine serveRequest_canon hd hb fun s rx m hd hb => ?_
  dsimp only
  (repeat' split) <;> simp [hd, hb]

@[simp] theorem execReadBlock_canon : OutcomeCanon (execReadBlock s) := by
  unfold execReadBlock
  refine serveRequest_canon hd hb fun s rx m hd hb => ?_
  dsimp only
  (repeat' split) <;> simp [hd, hb]

@[simp] theorem execWriteBlock_canon : OutcomeCanon (execWriteBlock s) := by
  unfold execWriteBlock
  refine serveRequest_canon hd hb fun s rx m hd hb => ?_
  dsimp only
  (repeat' split) <;> simp [hd, hb]

@[simp] theorem execOpenSession_canon : OutcomeCanon (execOpenSession s) := by
  unfold execOpenSession
  (repeat' split) <;> simp [hd, hb]

@[simp] theorem execCloseSession_canon : OutcomeCanon (execCloseSession s) := by
  unfold execCloseSession
  refine serveRequest_canon hd hb fun s rx m hd hb => ?_
  (repeat' split) <;> simp [hd, hb]

@[simp] theorem execKeepalive_canon : OutcomeCanon (execKeepalive s) := by
  unfold execKeepalive
  refine serveRequest_canon hd hb fun s rx m hd hb => ?_
  dsimp only
  simp [hd, hb]

@[simp] theorem execSessionExpiry_canon : OutcomeCanon (execSessionExpiry s) := by
  unfold execSessionExpiry
  (repeat' split) <;> simp [hd, hb]

@[simp] theorem execKmpFenceOpenSet_canon : OutcomeCanon (execKmpFenceOpenSet s) := by
  unfold execKmpFenceOpenSet
  refine serveRequest_canon hd hb fun s rx m hd hb => ?_
  simp [hd, hb]

@[simp] theorem execKmpFenceCommit_canon : OutcomeCanon (execKmpFenceCommit s) := by
  unfold execKmpFenceCommit
  refine serveRequest_canon hd hb fun s rx m hd hb => ?_
  simp [hd, hb]

@[simp] theorem execKmpFenceAbandon_canon : OutcomeCanon (execKmpFenceAbandon s) := by
  unfold execKmpFenceAbandon
  refine serveRequest_canon hd hb fun s rx m hd hb => ?_
  simp [hd, hb]

@[simp] theorem execSlateCommand_canon : OutcomeCanon (execSlateCommand s) := by
  unfold execSlateCommand
  refine serveRequest_canon hd hb fun s rx m hd hb => ?_
  dsimp only
  (repeat' split) <;> simp [hd, hb]

@[simp] theorem execTakeTrigger_canon : OutcomeCanon (execTakeTrigger s) := by
  unfold execTakeTrigger
  refine serveRequest_canon hd hb fun s rx m hd hb => ?_
  dsimp only
  (repeat' split) <;> simp [hd, hb]

@[simp] theorem execNotify_canon : OutcomeCanon (execNotify s) := by
  unfold execNotify
  dsimp only
  (repeat' split) <;> simp [hd, hb]

@[simp] theorem execBridgeForward_canon : OutcomeCanon (execBridgeForward s) := by
  unfold execBridgeForward
  dsimp only
  (repeat' split) <;> simp [hd, hb]

@[simp] theorem execBridgeAnswer_canon : OutcomeCanon (execBridgeAnswer s) := by
  unfold execBridgeAnswer
  dsimp only
  (repeat' split) <;> simp [hd, hb]

@[simp] theorem execBridgeTimeout_canon : OutcomeCanon (execBridgeTimeout s) := by
  unfold execBridgeTimeout
  dsimp only
  (repeat' split) <;> simp [hd, hb]

@[simp] theorem execArpRequest_canon : OutcomeCanon (execArpRequest s) := by
  unfold execArpRequest
  dsimp only
  (repeat' split) <;> simp [hd, hb]

@[simp] theorem execIcmpEcho_canon : OutcomeCanon (execIcmpEcho s) := by
  unfold execIcmpEcho
  dsimp only
  (repeat' split) <;> simp [hd, hb]

@[simp] theorem execStoreCommand_canon (ses : Nat) (bs : Bytes) : OutcomeCanon (execStoreCommand ses bs s) := by
  simp [execStoreCommand, hd, hb]

@[simp] theorem execAutosave_canon : OutcomeCanon (execAutosave s) := by
  unfold execAutosave
  (repeat' split) <;> simp [hd, hb]

@[simp] theorem execSnapshotTickStore_canon : OutcomeCanon (execSnapshotTickStore s) := by
  unfold execSnapshotTickStore
  dsimp only
  (repeat' split) <;> simp [hd, hb]

@[simp] theorem execStoreComplete_canon (ok : Bool) : OutcomeCanon (execStoreComplete ok s) := by
  unfold execStoreComplete
  dsimp only
  (repeat' split) <;> simp [hd, hb]

@[simp] theorem execFactoryRestoreArm_canon (ses : Nat) : OutcomeCanon (execFactoryRestoreArm ses s) := by
  simp [execFactoryRestoreArm, hd, hb]

@[simp] theorem execFactoryRestoreDisarm_canon (ses : Nat) : OutcomeCanon (execFactoryRestoreDisarm ses s) := by
  simp [execFactoryRestoreDisarm, hd, hb]

@[simp] theorem execDescriptionQuery_canon (ses : Nat) (bs : Bytes) : OutcomeCanon (execDescriptionQuery ses bs s) := by
  simp [execDescriptionQuery, hd, hb]

@[simp] theorem execTakeNow_canon (ses k : Nat) (bs : Bytes) : OutcomeCanon (execTakeNow ses k bs s) := by
  simp [execTakeNow, hd, hb]

@[simp] theorem execSnapshotSetTick_canon (k : Nat) : OutcomeCanon (execSnapshotSetTick k s) := by
  unfold execSnapshotSetTick
  dsimp only
  (repeat' split) <;> simp [hd, hb]

@[simp] theorem execSnapshotComplete_canon (k : Nat) : OutcomeCanon (execSnapshotComplete k s) := by
  unfold execSnapshotComplete
  dsimp only
  (repeat' split) <;> simp [hd, hb]

@[simp] theorem execEventRouted_canon (island : Nat) (ecc : Ecc) : OutcomeCanon (execEventRouted island ecc s) := by
  unfold execEventRouted
  (repeat' split) <;> simp [hd, hb]

@[simp] theorem execRouteLineDelivery_canon (line : RouteLine) : OutcomeCanon (execRouteLineDelivery line s) := by
  unfold execRouteLineDelivery
  (repeat' split) <;> simp [hd, hb]

@[simp] theorem execRecordComplete_canon (seq : Nat) (mainOk emergencyOk : Bool) :
    OutcomeCanon (execRecordComplete seq mainOk emergencyOk s) := by
  unfold execRecordComplete
  dsimp only
  (repeat' split) <;> simp [hd, hb]

@[simp] theorem execRecordSnapshotTimeout_canon (seq : Nat) (missing : List Nat) :
    OutcomeCanon (execRecordSnapshotTimeout seq missing s) := by
  unfold execRecordSnapshotTimeout
  dsimp only
  (repeat' split) <;> simp [hd, hb]

@[simp] theorem execRecorderSlotRead_canon (bank slot : Nat) (ecc : Ecc) :
    OutcomeCanon (execRecorderSlotRead bank slot ecc s) := by
  unfold execRecorderSlotRead
  dsimp only
  (repeat' split) <;> simp [hd, hb]

@[simp] theorem execClearFaultLatches_canon (ses : Nat) (bs : Bytes) : OutcomeCanon (execClearFaultLatches ses bs s) := by
  simp [execClearFaultLatches, hd, hb]

@[simp] theorem execRaiseSoftwareEvent_canon (ses : Nat) (bs : Bytes) : OutcomeCanon (execRaiseSoftwareEvent ses bs s) := by
  simp [execRaiseSoftwareEvent, hd, hb]

@[simp] theorem execStickyFlagsClear_canon (ses ch : Nat) (bs : Bytes) : OutcomeCanon (execStickyFlagsClear ses ch bs s) := by
  simp [execStickyFlagsClear, hd, hb]

@[simp] theorem execPerst_canon : OutcomeCanon (execPerst s) := by
  unfold execPerst
  (repeat' split) <;> simp [hd, hb]

@[simp] theorem execFunctionLevelReset_canon : OutcomeCanon (execFunctionLevelReset s) := by
  unfold execFunctionLevelReset
  (repeat' split) <;> simp [hd, hb]

@[simp] theorem execHostLinkUp_canon (speed width : Nat) : OutcomeCanon (execHostLinkUp speed width s) := by
  unfold execHostLinkUp
  (repeat' split) <;> simp [hd, hb]

@[simp] theorem execHostLinkDown_canon : OutcomeCanon (execHostLinkDown s) := by
  unfold execHostLinkDown
  (repeat' split) <;> simp [hd, hb]

@[simp] theorem execSlotDoorbell_canon (w vec : Nat) : OutcomeCanon (execSlotDoorbell w vec s) := by
  unfold execSlotDoorbell
  dsimp only
  (repeat' split) <;> simp [hd, hb]

@[simp] theorem execSlotAnswer_canon (head len tag : Nat) (value : Bytes) :
    OutcomeCanon (execSlotAnswer head len tag value s) := by
  unfold execSlotAnswer
  dsimp only
  (repeat' split) <;> simp [hd, hb]

@[simp] theorem execEventDoorbell_canon (w : Nat) : OutcomeCanon (execEventDoorbell w s) := by
  unfold execEventDoorbell
  (repeat' split) <;> simp [hd, hb]

@[simp] theorem execBar2Write_canon (offset : Nat) (bs : Bytes) : OutcomeCanon (execBar2Write offset bs s) := by
  unfold execBar2Write
  dsimp only
  (repeat' split) <;> simp [hd, hb]

@[simp] theorem execMsixUnmask_canon (v : Nat) : OutcomeCanon (execMsixUnmask v s) := by
  unfold execMsixUnmask
  dsimp only
  (repeat' split) <;> simp [hd, hb]

@[simp] theorem execConsumedOffsetWrite_canon (ses : Nat) (bs : Bytes) : OutcomeCanon (execConsumedOffsetWrite ses bs s) := by
  simp [execConsumedOffsetWrite, hd, hb]

@[simp] theorem execLgoUpdateTick_canon (i : Nat) : OutcomeCanon (execLgoUpdateTick i s) := by
  unfold execLgoUpdateTick
  dsimp only
  (repeat' split) <;> simp [hd, hb]

@[simp] theorem execLgoStaleExpiry_canon (i : Nat) : OutcomeCanon (execLgoStaleExpiry i s) := by
  unfold execLgoStaleExpiry
  dsimp only
  (repeat' split) <;> simp [hd, hb]

@[simp] theorem execLgoFaultHoldExpiry_canon (i : Nat) : OutcomeCanon (execLgoFaultHoldExpiry i s) := by
  unfold execLgoFaultHoldExpiry
  dsimp only
  (repeat' split) <;> simp [hd, hb]

@[simp] theorem execReleaseCommand_canon (ses i : Nat) (bs : Bytes) : OutcomeCanon (execReleaseCommand ses i bs s) := by
  simp [execReleaseCommand, hd, hb]

@[simp] theorem execTapReset_canon : OutcomeCanon (execTapReset s) := by
  unfold execTapReset
  (repeat' split) <;> simp [hd, hb]

@[simp] theorem execTapExtest_canon : OutcomeCanon (execTapExtest s) := by
  unfold execTapExtest
  (repeat' split) <;> simp [hd, hb]

@[simp] theorem execSamplePreload_canon (balls : Nat) : OutcomeCanon (execSamplePreload balls s) := by
  unfold execSamplePreload
  dsimp only
  (repeat' split) <;> simp [hd, hb]

@[simp] theorem execTapIdcode_canon : OutcomeCanon (execTapIdcode s) := by
  unfold execTapIdcode
  (repeat' split) <;> simp [hd, hb]

@[simp] theorem execTapClamp_canon : OutcomeCanon (execTapClamp s) := by
  unfold execTapClamp
  (repeat' split) <;> simp [hd, hb]

@[simp] theorem execTapHighz_canon : OutcomeCanon (execTapHighz s) := by
  unfold execTapHighz
  (repeat' split) <;> simp [hd, hb]

@[simp] theorem execTapBypass_canon : OutcomeCanon (execTapBypass s) := by
  unfold execTapBypass
  (repeat' split) <;> simp [hd, hb]

@[simp] theorem execDbgdataCapture_canon : OutcomeCanon (execDbgdataCapture s) := by
  unfold execDbgdataCapture
  dsimp only
  (repeat' split) <;> simp [hd, hb]

@[simp] theorem execDbgdataUpdate_canon (w : Nat) : OutcomeCanon (execDbgdataUpdate w s) := by
  unfold execDbgdataUpdate
  dsimp only
  (repeat' split) <;> simp [hd, hb]

@[simp] theorem execDebugNoOperation_canon (w : Nat) : OutcomeCanon (execDebugNoOperation w s) := by
  unfold execDebugNoOperation
  dsimp only
  split
  · split <;> simp [hd, hb]
  · split
    · simp [hd, hb]
    · exact takeCmd_canon hd hb fun s hd hb => ⟨hd, hb⟩

@[simp] theorem execDebugObjectRead_canon (w : Nat) : OutcomeCanon (execDebugObjectRead w s) := by
  unfold execDebugObjectRead
  refine takeCmd_canon hd hb fun s hd hb => ?_
  (repeat' split) <;> simp [hd, hb]

@[simp] theorem execDebugObjectWrite_canon (w : Nat) : OutcomeCanon (execDebugObjectWrite w s) := by
  unfold execDebugObjectWrite
  refine takeCmd_canon hd hb fun s hd hb => ?_
  dsimp only
  (repeat' split) <;> simp [hd, hb]

@[simp] theorem execDebugMemoryRead_canon (w : Nat) (bad : Option Nat) : OutcomeCanon (execDebugMemoryRead w bad s) := by
  unfold execDebugMemoryRead
  refine takeCmd_canon hd hb fun s hd hb => ?_
  dsimp only
  (repeat' split) <;> simp [hd, hb]

@[simp] theorem execDebugMemoryWrite_canon (w : Nat) : OutcomeCanon (execDebugMemoryWrite w s) := by
  unfold execDebugMemoryWrite
  refine takeCmd_canon hd hb fun s hd hb => ?_
  dsimp only
  (repeat' split) <;> simp [hd, hb]

@[simp] theorem execDebugReset_canon (w : Nat) : OutcomeCanon (execDebugReset w s) := by
  unfold execDebugReset
  refine takeCmd_canon hd hb fun s hd hb => ?_
  (repeat' split) <;> simp [hd, hb]

@[simp] theorem execDebugCommandDone_canon : OutcomeCanon (execDebugCommandDone s) := by
  unfold execDebugCommandDone
  dsimp only
  (repeat' split) <;> simp [hd, hb]

@[simp] theorem execBreakpointHit_canon (c : Nat) : OutcomeCanon (execBreakpointHit c s) := by
  unfold execBreakpointHit
  (repeat' split) <;> simp [hd, hb]

@[simp] theorem execHalt_canon (ses c : Nat) : OutcomeCanon (execHalt ses c s) := by
  simp [execHalt, hd, hb]

@[simp] theorem execDebugRelease_canon (ses c : Nat) : OutcomeCanon (execDebugRelease ses c s) := by
  simp [execDebugRelease, hd, hb]

@[simp] theorem execSingleStep_canon (ses c : Nat) : OutcomeCanon (execSingleStep ses c s) := by
  simp [execSingleStep, hd, hb]

@[simp] theorem execOwnHelloTimeout_canon : OutcomeCanon (execOwnHelloTimeout s) := by
  unfold execOwnHelloTimeout
  (repeat' split) <;> simp [hd, hb]

@[simp] theorem execResetNRelease_canon (straps : Nat) : OutcomeCanon (execResetNRelease straps s) := by
  unfold execResetNRelease
  dsimp only
  (repeat' split) <;> simp [hd, hb]

@[simp] theorem execVinRisesThrough10V_canon : OutcomeCanon (execVinRisesThrough10V s) := by
  simp [execVinRisesThrough10V, hd, hb]

@[simp] theorem execVinFallsBelow10V_canon : OutcomeCanon (execVinFallsBelow10V s) := by
  unfold execVinFallsBelow10V
  (repeat' split) <;> simp [hd, hb]

@[simp] theorem execModuleRemoval_canon : OutcomeCanon (execModuleRemoval s) := by
  unfold execModuleRemoval
  (repeat' split) <;> simp [hd, hb]

@[simp] theorem execBadRequestReceived_canon : OutcomeCanon (execBadRequestReceived s) := by
  unfold execBadRequestReceived
  (repeat' split) <;> simp [hd, hb]

/-- A command keeps the form. -/
theorem exec_canon (i : Instr) : OutcomeCanon (exec i s) := by
  cases i <;> simp only [exec] <;> simp [hd, hb]

end

/-- Settles O54: a step is a command with the rest of the queue, or a grid clock cycle, which changes neither memory. -/
theorem everyStepKeepsTheMemoriesCanonical : Obligations.EveryStepKeepsTheMemoriesCanonical := by
  unfold Obligations.EveryStepKeepsTheMemoriesCanonical
  intro s t hs hstep
  simp only [State.memOk, Bool.and_eq_true] at hs ⊢
  obtain ⟨hb, hd⟩ := hs
  unfold Stepped step at hstep
  split at hstep
  case h_1 =>
    cases hstep
    exact ⟨by rw [(gridTick_memory s).2]; exact hb, by rw [(gridTick_memory s).1]; exact hd⟩
  case h_2 c rest _ =>
    obtain ⟨hdt, hbt⟩ := exec_canon (s := { s with pending := rest }) hd hb c t hstep
    exact ⟨hbt, hdt⟩

end Sys2Proof.Machine
end

section
/-! PROOFS. The state at reset and a step from any state (spec/16_object_dictionary.md, spec/08_takes_and_triggers.md), and what a
byte of a memory reads after a store. -/

namespace Sys2Proof.Machine

open Sys2Proof

/-! A store to a memory. -/

/-- A byte outside the bytes stored reads as before. -/
theorem get_regionStore_outside (bs : Bytes) (m : List Host.Cell) (off : Nat) {a : Nat}
    (h : a < off ∨ off + bs.length ≤ a) : Sparse.get (regionStore m off bs) a 0 = Sparse.get m a 0 := by
  induction bs generalizing m off with
  | nil => rfl
  | cons b bs ih =>
    simp only [List.length_cons] at h
    rw [regionStore, ih _ _ (by omega), Sparse.get_store_ne _ (by omega)]

/-- A byte among the bytes stored reads as it was stored. -/
theorem get_regionStore_inside (bs : Bytes) (m : List Host.Cell) (off : Nat) {i : Nat} (h : i < bs.length) :
    Sparse.get (regionStore m off bs) (off + i) 0 = bs.getD i 0 := by
  induction bs generalizing m off i with
  | nil => exact absurd h (Nat.not_lt_zero i)
  | cons b bs ih =>
    rw [regionStore]
    cases i with
    | zero =>
      rw [get_regionStore_outside bs _ _ (.inl (by omega))]
      exact Sparse.get_store_same m off b 0
    | succ i =>
      have hi : i < bs.length := Nat.lt_of_succ_lt_succ h
      rw [show off + (i + 1) = off + 1 + i by omega, ih _ _ hi, List.getD_cons_succ]

/-- Settles O55: by induction on the bytes stored, of which each store writes one. -/
theorem aStoreToAMemoryReadsBackAndLeavesTheRest : Obligations.AStoreToAMemoryReadsBackAndLeavesTheRest := by
  unfold Obligations.AStoreToAMemoryReadsBackAndLeavesTheRest
  exact ⟨fun m off bs a h => get_regionStore_outside bs m off h, fun m off bs i h => get_regionStore_inside bs m off h⟩

/-! The state at reset. -/

/-- Where no number is stored, an entry stands at the default of its table row. -/
theorem num_of_find_none {s : State} {o : Obj} {u sub : Nat} {e : Entry} (h : Sparse.find s.regs (entryKey o u sub) = none)
    (he : o.entry u sub = some e) : s.num o u sub = e.dfltNum s.variant s.fac o u sub := by
  simp only [State.num, State.dfltNum, h, he]

/-- Where no byte string is stored, an entry stands at the default of its table row. -/
theorem bytes_of_find_none {s : State} {o : Obj} {u sub : Nat} {e : Entry}
    (h : Sparse.find s.blobs (entryKey o u sub) = none) (he : o.entry u sub = some e) :
    s.bytes o u sub = e.dfltBytes s.variant s.fac o u sub := by
  simp only [State.bytes, State.dfltBytes, h, he]

/-- Settles O52: nothing is stored at reset, and every table is empty. -/
theorem resetLeavesEveryEntryAtItsDefault : Obligations.ResetLeavesEveryEntryAtItsDefault := by
  unfold Obligations.ResetLeavesEveryEntryAtItsDefault
  refine ⟨fun o u sub e he => ⟨num_of_find_none rfl he, bytes_of_find_none rfl he⟩, fun q => rfl, fun n => rfl, ?phase, rfl,
    rfl, rfl, rfl, rfl, rfl⟩
  case phase =>
    obtain ⟨e, he⟩ : ∃ e, Obj.entry .startup 0 3 = some e := ⟨_, rfl⟩
    rw [phase, State.nat, num_of_find_none rfl he]
    cases he
    rfl

/-- Settles O53: both memories are empty at reset. -/
theorem resetMemoriesAreCanonical : Obligations.ResetMemoriesAreCanonical := by
  unfold Obligations.ResetMemoriesAreCanonical
  exact ⟨rfl, reset_regionLoad, fun a => rfl⟩

/-! A step. -/

theorem step_command {s : State} {c : Instr} {rest : List Instr} (h : s.pending = c :: rest) :
    step s = exec c { s with pending := rest } := by
  unfold step
  rw [h]

theorem step_idle {s : State} (h : s.pending = []) : step s = .next (gridTick s) := by
  unfold step
  rw [h]

theorem gridTick_inReset {s : State} (h : s.power.inReset = true) : gridTick s = s := if_pos h

/-- Out of reset a grid clock cycle moves the grid count, the local clock and the phases of the legacy outputs. -/
theorem gridTick_running {s : State} (h : s.power.inReset = false) :
    gridTick s = { lgoTick s with now := s.now + 1, clk := { s.clk with local_ := s.clk.local_ + localStep s } } :=
  if_neg (by simp [h])

/-- Settles O51: by what stands in front of the queue of commands, and whether reset is asserted. -/
theorem aStepTakesTheFrontCommand : Obligations.AStepTakesTheFrontCommand := by
  unfold Obligations.AStepTakesTheFrontCommand
  refine ⟨fun c s => rfl, fun s c rest h => step_command h, ?held, ?tick⟩
  case held =>
    intro s hidle hreset
    rw [step_idle hidle, gridTick_inReset hreset]
  case tick =>
    intro s hidle hreset
    rw [step_idle hidle, gridTick_running hreset]
    exact ⟨_, rfl, rfl, rfl, rfl, rfl, rfl, hidle⟩

end Sys2Proof.Machine
end

section
/-! PROOFS. Hub resets (R586, R590, R593, R595 of spec/19_power_reset_startup.md): what a reset of each cause leaves of the flash, and
that everything else stands as it does at reset. -/

namespace Sys2Proof.Machine

open Sys2Proof

variable {s : State} {cause : Nat}

/-- The hub has been reset with a cause: reset is asserted in phase 0, and no queue, channel or staging holds anything. -/
structure WasReset (t : State) (cause : Nat) : Prop where
  cause : t.num .startup 0 1 = cause
  inReset : t.power.inReset = true
  phase : phase t = 0
  queues : t.queues = []
  chans : t.chans = []
  stages : t.stages = []

theorem hubReset_wasReset (s : State) (h : cause < 256) : WasReset (hubReset s cause) cause :=
  ⟨hubReset_cause s h, hubReset_inReset s cause, hubReset_phase s cause, rfl, rfl, rfl⟩

/-- A change of the power record that leaves reset asserted takes nothing back of a reset. -/
theorem WasReset.modPower {t : State} (h : WasReset t cause) {f : PowerSt → PowerSt}
    (hf : (f t.power).inReset = t.power.inReset) : WasReset (t.modPower f) cause :=
  ⟨h.cause, hf.trans h.inReset, h.phase, h.queues, h.chans, h.stages⟩

/-- An entry of an object other than the start-up, images and supply objects stands at its default after a reset. -/
theorem hubReset_dflt (s : State) (cause : Nat) {o : Obj} {u sub : Nat} (hu : u < o.size) (hsub : sub < 256)
    (hstartup : o ≠ .startup) (himages : o ≠ .images) (hsupply : o ≠ .supply) :
    (hubReset s cause).num o u sub = (hubReset s cause).dfltNum o u sub := by
  have hone {p : Obj} (hp : o ≠ p) (r : State) {a : Nat} (hsize : 0 < p.size) (ha : a < 256) (v : Int) :
      (r.setNum p 0 a v).num o u sub = r.num o u sub := num_setNum_obj r hp hsize hu ha hsub v
  have hstart (r : State) {a : Nat} (ha : a < 256) (v : Int) := hone hstartup r (by decide) ha v
  have himage (r : State) {a : Nat} (ha : a < 256) (v : Int) := hone himages r (by decide) ha v
  unfold hubReset showFlash
  dsimp only
  simp only [dfltNum_setNum]
  rw [hone hsupply _ (by decide) (by decide), hstart _ (by decide), hstart _ (by decide), himage _ (by decide),
    himage _ (by decide), himage _ (by decide), himage _ (by decide), himage _ (by decide), hstart _ (by decide)]
  rfl

/-- After a reset every driver is off (R586). -/
theorem hubReset_driver (s : State) (cause : Nat) (d : Fin 96) : (hubReset s cause).num .driver d 1 = 0 := by
  rw [hubReset_dflt s cause d.isLt (by decide) (by decide) (by decide) (by decide)]
  rfl

/-- After a reset every bias source is off (R586). -/
theorem hubReset_bias (s : State) (cause : Nat) (b : Fin 384) : (hubReset s cause).num .bias b 1 = 0 := by
  rw [hubReset_dflt s cause b.isLt (by decide) (by decide) (by decide) (by decide)]
  rfl

/-! What a reset leaves of the flash. -/

theorem cutStore_images (s : State) : (cutStore s).images = s.flash.images := by
  unfold cutStore
  repeat' split
  all_goals rfl

theorem cutStore_preferred (s : State) : (cutStore s).preferred = s.flash.preferred := by
  unfold cutStore
  repeat' split
  all_goals rfl

theorem cutStore_watchdogs (s : State) : (cutStore s).watchdogs = s.flash.watchdogs := by
  unfold cutStore
  repeat' split
  all_goals rfl

theorem hubReset_images (s : State) (cause : Nat) : (hubReset s cause).flash.images = (rejectTrial s cause).flash.images := by
  unfold hubReset showFlash
  simp only [State.setNum_flash]
  split
  · exact cutStore_images _
  · exact cutStore_images _

theorem hubReset_preferred (s : State) (cause : Nat) :
    (hubReset s cause).flash.preferred = (rejectTrial s cause).flash.preferred := by
  unfold hubReset showFlash
  simp only [State.setNum_flash]
  split
  · exact cutStore_preferred _
  · exact cutStore_preferred _

theorem rejectTrial_watchdogs (s : State) (cause : Nat) : (rejectTrial s cause).flash.watchdogs = s.flash.watchdogs := by
  unfold rejectTrial
  dsimp only
  split <;> rfl

/-- Only a watchdog or trial reset rejects an image, and only one on trial (R595). -/
theorem rejectTrial_eq_self (h : (cause ≠ 3 ∧ cause ≠ 6) ∨ (s.image (bootImage s)).state ≠ 1) : rejectTrial s cause = s := by
  unfold rejectTrial
  refine if_neg ?_
  rintro ⟨hcause, -, htrial⟩
  rcases h with ⟨h3, h6⟩ | hstate
  · exact hcause.elim h3 h6
  · exact hstate htrial

/-- An image met on trial after the release is emptied, and the other one preferred (R595). -/
theorem rejectTrial_rejects (hcause : cause = 3 ∨ cause = 6) (hphase : 1 ≤ phase s)
    (htrial : (s.image (bootImage s)).state = 1) :
    rejectTrial s cause = ((s.putImage (bootImage s) ⟨0, 0, []⟩).modFlash
      (fun f => { f with preferred := 1 - bootImage s })).modPower (fun p => { p with rejected := some (bootImage s) }) :=
  if_pos ⟨hcause, hphase, htrial⟩

/-- An image emptied reads as empty. -/
theorem image_emptied {t : State} {i : Nat} (h : t.flash.images = s.flash.images.set i ⟨0, 0, []⟩) :
    (t.image i).state = 0 := by
  unfold State.image
  rw [h, List.getD_eq_getElem?_getD, List.getElem?_set_self']
  cases s.flash.images[i]? <;> rfl

theorem hubReset_keeps_images (h : (cause ≠ 3 ∧ cause ≠ 6) ∨ (s.image (bootImage s)).state ≠ 1) :
    (hubReset s cause).flash.images = s.flash.images := by
  rw [hubReset_images, rejectTrial_eq_self h]

/-- A watchdog or trial reset that meets an image on trial after the release rejects it (R595). -/
theorem hubReset_rejects (hcause : cause = 3 ∨ cause = 6) (hphase : 1 ≤ phase s)
    (htrial : (s.image (bootImage s)).state = 1) :
    ((hubReset s cause).image (bootImage s)).state = 0 ∧ (hubReset s cause).flash.preferred = 1 - bootImage s := by
  have hreject := rejectTrial_rejects hcause hphase htrial
  constructor
  · refine image_emptied (s := s) ?_
    rw [hubReset_images, hreject]
    rfl
  · rw [hubReset_preferred, hreject]
    rfl

/-- A watchdog reset is counted in the flash (R593). -/
theorem hubReset_watchdogs (s : State) : (hubReset s 3).flash.watchdogs = (s.flash.watchdogs + 1) % 2 ^ 32 := by
  have hflash : (hubReset s 3).flash.watchdogs = ((cutStore (rejectTrial s 3)).watchdogs + 1) % 2 ^ 32 := rfl
  rw [hflash, cutStore_watchdogs, rejectTrial_watchdogs]

/-- Settles O1: each command is a hub reset with its cause, after which the power record may change. -/
theorem resetsClearTheHubAndRecordTheirCause : Obligations.ResetsClearTheHubAndRecordTheirCause := by
  unfold Obligations.ResetsClearTheHubAndRecordTheirCause
  refine ⟨?on, ?lockout, ?ball, ?watchdog, ?trial⟩
  case on =>
    intro s hpower
    have himages := hubReset_keeps_images (s := s) (cause := 1) (.inl (by decide))
    have h := (hubReset_wasReset s (cause := 1) (by decide)).modPower (f := fun p => { p with vin10 := true, powered := true }) rfl
    exact ⟨_, if_neg (by simp [hpower]), h.cause, h.phase, rfl, h.inReset, h.queues, h.chans, h.stages,
      by rw [State.modPower_flash, himages]⟩
  case lockout =>
    intro s hpower
    have himages := hubReset_keeps_images (s := s) (cause := 1) (.inl (by decide))
    have h := (hubReset_wasReset s (cause := 1) (by decide)).modPower (f := fun p => { p with powered := false }) rfl
    exact ⟨_, if_pos hpower, h.cause, rfl, h.inReset, h.phase, h.queues, h.chans, h.stages,
      by rw [State.modPower_flash, himages], hubReset_driver s 1, hubReset_bias s 1⟩
  case ball =>
    intro s hpower
    have h := hubReset_wasReset s (cause := 2) (by decide)
    exact ⟨_, if_pos hpower, h.cause, h.phase, rfl, h.inReset, h.queues, h.chans, h.stages,
      hubReset_keeps_images (.inl (by decide))⟩
  case watchdog =>
    intro s hrun hdue
    have h := hubReset_wasReset s (cause := 3) (by decide)
    exact ⟨_, if_pos ⟨hrun, hdue⟩, h.cause, h.phase, h.inReset, h.queues, h.chans, h.stages,
      hubReset_watchdogs s, fun hstate => hubReset_keeps_images (.inr hstate), hubReset_rejects (.inl rfl)⟩
  case trial =>
    intro s hphase htrial hdue
    have h := hubReset_wasReset s (cause := 6) (by decide)
    obtain ⟨hempty, hpreferred⟩ := hubReset_rejects (.inr rfl) (by omega) htrial
    exact ⟨_, if_pos ⟨hphase, htrial, hdue⟩, h.cause, h.phase, h.inReset, h.queues, h.chans, h.stages,
      hempty, hpreferred⟩

end Sys2Proof.Machine
end

section
/-! PROOFS. The dictionary's path of a write, said once (R510, R511, R517, R535): a write that passes its checks does its action, after
which a retained change is counted and the write answered; and what raising an event leaves. -/

namespace Sys2Proof.Machine

open Sys2Proof

variable {s t : State} {ses u sub w b : Nat} {o p : Obj} {e : Entry} {bs : Bytes} {c : Code}

/-! Answers and the change count. -/

theorem Code.num_lt (c : Code) : c.num + 1 < 256 := by cases c <;> decide

/-- An answer counts itself and leaves the entries of every other object. -/
theorem answer_num (s : State) (c : Code) (hp : p ≠ .answers) (hw : w < p.size) (hb : b < 256) :
    (answer s c).num p w b = s.num p w b :=
  num_setNum_obj s hp (by decide) hw c.num_lt hb _

theorem answer_counts (s : State) (c : Code) :
    (answer s c).num .answers 0 (c.num + 1) = (entryTy .answers 0 (c.num + 1)).narrow (s.num .answers 0 (c.num + 1) + 1) :=
  num_bump_same s .answers 0 (c.num + 1) 1

@[simp] theorem answer_snapSt (s : State) (c : Code) (k : Nat) : (answer s c).snapSt k = s.snapSt k := rfl
@[simp] theorem answer_stage (s : State) (c : Code) (n : Nat) : (answer s c).stage n = s.stage n := rfl
@[simp] theorem answer_take (s : State) (c : Code) (n : Nat) : (answer s c).take n = s.take n := rfl
@[simp] theorem answer_dmaCh (s : State) (c : Code) (n : Nat) : (answer s c).dmaCh n = s.dmaCh n := rfl

/-- A write of an entry that is not retained counts no change. -/
theorem noteRetained_volatile (s : State) (he : o.entry u sub = some e) (hr : e.ret = false) : noteRetained s o u sub = s := by
  unfold noteRetained
  simp [he, hr]

/-! The path of a write. -/

/-- What follows the action of a write: a change of a retained entry is counted, and the write answered unless it reset the hub. -/
def finishWrite (o : Obj) (u sub : Nat) (r : State × Code) : State :=
  let t := if r.2 = .success then noteRetained r.1 o u sub else r.1
  if t.power.inReset then t else answer t r.2

/-- An entry that a client writes and that takes effect when served. -/
abbrev Plain (o : Obj) (u sub : Nat) (e : Entry) : Prop :=
  o.entry u sub = some e ∧ e.acc ≠ .ro ∧ e.acc ≠ .rws ∧ ¬ (o = .takeStat ∧ sub = 3) ∧ o ≠ .band ∧ sub ≠ 0

/-- Bytes fit the type of an entry (R511, steps 3 and 4). -/
abbrev Fits (e : Entry) (bs : Bytes) : Prop :=
  (if e.ty.isBytes then decide (65535 < bs.length) else bs.length != e.ty.size) = false ∧ typeOk e.ty bs = true

theorem noteRetained_inReset (s : State) (o : Obj) (u sub : Nat) :
    (noteRetained s o u sub).power.inReset = s.power.inReset := by
  unfold noteRetained
  repeat' split
  all_goals rfl

theorem has_of_present (hu : u < o.size) (hp : o.present s.variant s.isManager u = true) : s.has o u = true := by
  unfold State.has
  rw [hp, Bool.and_true]
  exact decide_eq_true hu

/-- A write of the value `n` that passes every check (R511). -/
structure Accepted (s : State) (ses : Nat) (o : Obj) (u sub : Nat) (e : Entry) (bs : Bytes) (n : Int) : Prop where
  serves : s.serves ses
  size : u < o.size
  present : s.has o u = true
  plain : Plain o u sub e
  fits : Fits e bs
  value : (if e.ty.isBytes then 0 else e.ty.decode bs) = n
  use : useCheck s o u sub = none
  field : fieldCheck s o u sub n bs = none

/-- A write that passes its checks does its action. -/
theorem Accepted.acts {n : Int} (h : Accepted s ses o u sub e bs n) :
    serveObj s ses o u sub bs = finishWrite o u sub (writeAction s ses o u sub n bs) := by
  obtain ⟨hs, hu, hh, ⟨hentry, hro, hrws, htake, hband, h0⟩, hfit, hvalue, huse, hfield⟩ := h
  have hentered : writeEntry s ses o u sub e bs =
      (if (writeAction s ses o u sub n bs).2 = .success then noteRetained (writeAction s ses o u sub n bs).1 o u sub
        else (writeAction s ses o u sub n bs).1, (writeAction s ses o u sub n bs).2) := by
    unfold writeEntry
    dsimp only
    rw [if_neg (by rintro (h | h); exacts [hrws h, htake h])]
    simp only [huse, hvalue, hfield]
  rw [serveObj_served hs hu hh h0 hentry hro hfit.1 hfit.2, hentered]
  rfl

/-- A write that its use rule or its range refuses changes nothing but the answer and its count. -/
theorem serveObj_refused (hs : s.serves ses) (hu : u < o.size) (hh : s.has o u = true) (he : Plain o u sub e) (hfit : Fits e bs)
    (hreset : s.power.inReset = false)
    (hcheck : useCheck s o u sub = some c ∨
      useCheck s o u sub = none ∧ fieldCheck s o u sub (if e.ty.isBytes then 0 else e.ty.decode bs) bs = some c) :
    serveObj s ses o u sub bs = answer s c := by
  obtain ⟨hentry, hro, hrws, htake, hband, h0⟩ := he
  have hentered : writeEntry s ses o u sub e bs = (s, c) := by
    unfold writeEntry
    dsimp only
    rw [if_neg (by rintro (h | h); exacts [hrws h, htake h])]
    rcases hcheck with huse | ⟨huse, hfield⟩
    · simp only [huse]
    · simp only [huse, hfield]
  rw [serveObj_served hs hu hh h0 hentry hro hfit.1 hfit.2, hentered]
  exact if_neg (by simp [hreset])

theorem finishWrite_code (hreset : t.power.inReset = false) (hc : c ≠ .success) : finishWrite o u sub (t, c) = answer t c := by
  unfold finishWrite
  simp [hc, hreset]

theorem finishWrite_success (hreset : t.power.inReset = false) :
    finishWrite o u sub (t, .success) = answer (noteRetained t o u sub) .success := by
  unfold finishWrite
  simp [noteRetained_inReset, hreset]

theorem finishWrite_volatile (he : o.entry u sub = some e) (hr : e.ret = false) (hreset : t.power.inReset = false) (c : Code) :
    finishWrite o u sub (t, c) = answer t c := by
  unfold finishWrite
  simp only [noteRetained_volatile t he hr, ite_self, hreset, Bool.false_eq_true, if_false]

/-- A write of an entry that is not retained is answered with what its action answers. -/
theorem Accepted.volatile {n : Int} (h : Accepted s ses o u sub e bs n) (hr : e.ret = false)
    (hact : writeAction s ses o u sub n bs = (t, c)) (hreset : t.power.inReset = false) : serveObj s ses o u sub bs = answer t c := by
  rw [h.acts, hact, finishWrite_volatile h.plain.1 hr hreset]

/-- A write of a retained entry that takes effect is counted as a change. -/
theorem Accepted.retained {n : Int} (h : Accepted s ses o u sub e bs n) (hact : writeAction s ses o u sub n bs = (t, .success))
    (hreset : t.power.inReset = false) : serveObj s ses o u sub bs = answer (noteRetained t o u sub) .success := by
  rw [h.acts, hact, finishWrite_success hreset]

/-- A write whose action refuses it changes nothing but the answer and its count. -/
theorem Accepted.refused {n : Int} (h : Accepted s ses o u sub e bs n) (hact : writeAction s ses o u sub n bs = (s, c))
    (hc : c ≠ .success) (hreset : s.power.inReset = false) : serveObj s ses o u sub bs = answer s c := by
  rw [h.acts, hact, finishWrite_code hreset hc]

/-- A staged entry: its write is checked and joins the staging of its session. -/
abbrev Staged (o : Obj) (u sub : Nat) (e : Entry) : Prop :=
  o.entry u sub = some e ∧ e.acc ≠ .ro ∧ (e.acc = .rws ∨ (o = .takeStat ∧ sub = 3)) ∧ e.ty.isBytes = false ∧ sub ≠ 0

/-- A write to a staged entry is answered with what its staging answers. -/
theorem serveObj_staged (hs : s.serves ses) (hu : u < o.size) (hh : s.has o u = true) (he : Staged o u sub e) (hfit : Fits e bs)
    (hact : stagedWrite s ses ⟨o, u, sub, e.ty.decode bs, []⟩ = (t, c)) (hreset : t.power.inReset = false) :
    serveObj s ses o u sub bs = answer t c := by
  obtain ⟨hentry, hro, hstaged, hnum, h0⟩ := he
  have hentered : writeEntry s ses o u sub e bs = (t, c) := by
    unfold writeEntry
    dsimp only
    rw [if_pos hstaged]
    simp only [hnum, Bool.false_eq_true, if_false, hact]
  rw [serveObj_served hs hu hh h0 hentry hro hfit.1 hfit.2, hentered]
  exact if_neg (by simp [hreset])

theorem serveWrite_eq_serveObj (hu : u < o.size) : (serveWrite s ses (o.index u) sub bs).1 = serveObj s ses o u sub bs :=
  (if_pos hu).symm

/-- A write to an entry that is only read answers so and does nothing else. -/
theorem serveWrite_readOnly (hs : s.serves ses) (hreset : s.power.inReset = false) (hu : u < o.size) (hh : s.has o u = true)
    (h0 : sub ≠ 0) (he : o.entry u sub = some e) (hro : e.acc = .ro) :
    serveWrite s ses (o.index u) sub bs = (answer s .access, .access) := by
  unfold serveWrite tryWrite
  simp only [hs.1, notServed_of_serves hs, locate_index hu, hh, he, h0, hro, hreset, Bool.not_true, Bool.false_eq_true, if_false,
    if_true]

/-- The value of little-endian bytes. -/
theorem leNat_lt (bs : Bytes) : leNat bs < 256 ^ bs.length := by
  induction bs with
  | nil => decide
  | cons b bs ih =>
    have hb := b.isLt
    rw [leNat, List.length_cons, Nat.pow_succ]
    omega

/-! Bits of a mask. -/

theorem bit_eq_testBit (m k : Nat) : bit m k = m.testBit k := by
  rw [bit, Nat.testBit_eq_decide_div_mod_eq]

theorem bit_setBit (m k : Nat) : bit (setBit m k) k = true := by
  unfold setBit
  split
  · assumption
  · rename_i h
    rw [bit_eq_testBit, Bool.not_eq_true] at h
    rw [bit_eq_testBit, Nat.add_comm, Nat.testBit_two_pow_add_eq, h]
    rfl

theorem bit_clearBit (m k : Nat) : bit (clearBit m k) k = false := by
  unfold clearBit
  split
  · rename_i h
    rw [bit_eq_testBit] at h
    have hsplit : m = 2 ^ k + (m - 2 ^ k) := by have := Nat.ge_two_pow_of_testBit h; omega
    rw [hsplit, Nat.testBit_two_pow_add_eq] at h
    rw [bit_eq_testBit]
    simpa using h
  · rename_i h
    simpa using h

/-- A bit within an unsigned type is kept by it. -/
theorem bit_narrow32 (m : Nat) {k : Nat} (h : k < 32) : bit (Ty.u32.narrow (m : Nat)).toNat k = bit m k := by
  have hmod : Ty.u32.narrow (m : Nat) = ((m % 2 ^ 32 : Nat) : Int) := rfl
  rw [hmod, Int.toNat_natCast, bit_eq_testBit, bit_eq_testBit, Nat.testBit_mod_two_pow]
  simp [h]

/-! Raising an event. -/

/-- An event writes at most the peak of its island's queue. -/
theorem raiseAt_keeps (s : State) (src cause detail tick : Nat) :
    KeepsRegs (· = entryKey .queue (162 + islandOf s src detail) 3) s (raiseAt s src cause detail tick) := by
  unfold raiseAt
  split
  · exact .refl _ s
  · exact pushEvent_regs _ _ _

/-- An event of an island leaves every entry outside the queues as it was. -/
theorem raiseAt_num {src detail : Nat} (cause tick : Nat) (hi : islandOf s src detail < 32) (ho : o ≠ .queue) (hu : u < o.size)
    (hsub : sub < 256) : (raiseAt s src cause detail tick).num o u sub = s.num o u sub := by
  have hf := raiseAt_frame s src cause detail tick
  refine (raiseAt_keeps s src cause detail tick).num hf.variant hf.fac o u sub fun hk => ho ?_
  have hq : 162 + islandOf s src detail < Obj.size .queue := Nat.lt_of_lt_of_le (Nat.add_lt_add_left hi 162) (by decide)
  exact (entryKey_inj hu hq hsub (by decide) hk).1

theorem raise_num {src detail : Nat} (cause : Nat) (hi : islandOf s src detail < 32) (ho : o ≠ .queue) (hu : u < o.size)
    (hsub : sub < 256) : (raise s src cause detail).num o u sub = s.num o u sub := raiseAt_num cause _ hi ho hu hsub

theorem raiseAt_num_sub (s : State) (src cause detail tick : Nat) (hsub : sub < 256) (hne : sub ≠ 3) :
    (raiseAt s src cause detail tick).num o u sub = s.num o u sub :=
  (raiseAt_frame s src cause detail tick).num o u sub (not_peakKey_of_sub hsub hne o u)

/-- An event leaves every entry whose subindex is not that of a peak. -/
theorem raise_num_sub (s : State) (src cause detail : Nat) (hsub : sub < 256) (hne : sub ≠ 3) :
    (raise s src cause detail).num o u sub = s.num o u sub :=
  (raise_frame s src cause detail).num o u sub (not_peakKey_of_sub hsub hne o u)

/-! Reads of numbers after writes. -/

/-- Entries of different objects have different keys. -/
theorem entryKey_obj_ne (h : o ≠ p) (hu : u < o.size) (hw : w < p.size) {a : Nat} (ha : a < 256) (hb : b < 256) :
    entryKey o u a ≠ entryKey p w b := fun hkey => h (entryKey_inj hu hw ha hb hkey).1

theorem nat_setNum_ne (s : State) {w a b : Nat} (h : entryKey p w b ≠ entryKey o u a) (v : Int) :
    (s.setNum o u a v).nat p w b = s.nat p w b := congrArg Int.toNat (num_setNum_ne s h v)

theorem nat_setNum_same (s : State) (o : Obj) (u sub : Nat) (v : Int) :
    (s.setNum o u sub v).nat o u sub = ((entryTy o u sub).narrow v).toNat := congrArg Int.toNat (num_setNum_same s o u sub v)

/-! What an event leaves of the state outside the entries and the queues. -/

theorem EventFrame.now (h : EventFrame s t) : t.now = s.now := by rw [← h.1]
theorem EventFrame.ans (h : EventFrame s t) : t.ans = s.ans := by rw [← h.1]
theorem EventFrame.chans (h : EventFrame s t) : t.chans = s.chans := by rw [← h.1]
theorem EventFrame.aux (h : EventFrame s t) : t.aux = s.aux := by rw [← h.1]
theorem EventFrame.stages (h : EventFrame s t) : t.stages = s.stages := by rw [← h.1]
theorem EventFrame.clk (h : EventFrame s t) : t.clk = s.clk := by rw [← h.1]
theorem EventFrame.tpos (h : EventFrame s t) : t.tpos = s.tpos := by rw [← h.1]
theorem EventFrame.net (h : EventFrame s t) : t.net = s.net := by rw [← h.1]
theorem EventFrame.dins (h : EventFrame s t) : t.dins = s.dins := by rw [← h.1]
theorem EventFrame.takes (h : EventFrame s t) : t.takes = s.takes := by rw [← h.1]
theorem EventFrame.cal (h : EventFrame s t) : t.cal = s.cal := by rw [← h.1]
theorem EventFrame.cust (h : EventFrame s t) : t.cust = s.cust := by rw [← h.1]
theorem EventFrame.dmaBuf (h : EventFrame s t) : t.dmaBuf = s.dmaBuf := by rw [← h.1]
theorem EventFrame.lgo (h : EventFrame s t) : t.lgo = s.lgo := by rw [← h.1]
theorem EventFrame.host (h : EventFrame s t) : t.host = s.host := by rw [← h.1]
theorem EventFrame.dbg (h : EventFrame s t) : t.dbg = s.dbg := by rw [← h.1]

section

variable (s : State) (src cause detail tick : Nat)

@[simp] theorem raiseAt_now : (raiseAt s src cause detail tick).now = s.now := (raiseAt_frame ..).now
@[simp] theorem raiseAt_chans : (raiseAt s src cause detail tick).chans = s.chans := (raiseAt_frame ..).chans
@[simp] theorem raiseAt_clk : (raiseAt s src cause detail tick).clk = s.clk := (raiseAt_frame ..).clk
@[simp] theorem raiseAt_dins : (raiseAt s src cause detail tick).dins = s.dins := (raiseAt_frame ..).dins
@[simp] theorem raiseAt_lgo : (raiseAt s src cause detail tick).lgo = s.lgo := (raiseAt_frame ..).lgo
@[simp] theorem raise_now : (raise s src cause detail).now = s.now := (raise_frame ..).now
@[simp] theorem raise_ans : (raise s src cause detail).ans = s.ans := (raise_frame ..).ans
@[simp] theorem raise_chans : (raise s src cause detail).chans = s.chans := (raise_frame ..).chans
@[simp] theorem raise_aux : (raise s src cause detail).aux = s.aux := (raise_frame ..).aux
@[simp] theorem raise_stages : (raise s src cause detail).stages = s.stages := (raise_frame ..).stages
@[simp] theorem raise_clk : (raise s src cause detail).clk = s.clk := (raise_frame ..).clk
@[simp] theorem raise_tpos : (raise s src cause detail).tpos = s.tpos := (raise_frame ..).tpos
@[simp] theorem raise_net : (raise s src cause detail).net = s.net := (raise_frame ..).net
@[simp] theorem raise_dins : (raise s src cause detail).dins = s.dins := (raise_frame ..).dins
@[simp] theorem raise_takes : (raise s src cause detail).takes = s.takes := (raise_frame ..).takes
@[simp] theorem raise_cal : (raise s src cause detail).cal = s.cal := (raise_frame ..).cal
@[simp] theorem raise_cust : (raise s src cause detail).cust = s.cust := (raise_frame ..).cust
@[simp] theorem raise_dmaBuf : (raise s src cause detail).dmaBuf = s.dmaBuf := (raise_frame ..).dmaBuf
@[simp] theorem raise_host : (raise s src cause detail).host = s.host := (raise_frame ..).host
@[simp] theorem raise_dbg : (raise s src cause detail).dbg = s.dbg := (raise_frame ..).dbg
@[simp] theorem raise_dma : (raise s src cause detail).dma = s.dma := (raise_frame ..).dma
@[simp] theorem raise_variant : (raise s src cause detail).variant = s.variant := (raise_frame ..).variant
@[simp] theorem raise_fac : (raise s src cause detail).fac = s.fac := (raise_frame ..).fac
@[simp] theorem raise_power : (raise s src cause detail).power = s.power := (raise_frame ..).power

end

/-! What a write of a number leaves of the units beside the entries. -/

section

variable (s : State) (o : Obj) (u sub : Nat) (v : Int) (n i : Nat)

@[simp] theorem setNum_cell : (s.setNum o u sub v).cell i = s.cell i := rfl
@[simp] theorem setNum_lgoOut : (s.setNum o u sub v).lgoOut i = s.lgoOut i := rfl

end

/-! Frames over the entries. -/

/-- `t` is a state of the same hub as `s` that may differ from it in the entries of `q` and outside the entries. -/
structure EntryFrame (q : Nat → Prop) (s t : State) : Prop where
  regs : KeepsRegs q s t
  variant : t.variant = s.variant
  fac : t.fac = s.fac

namespace EntryFrame

variable {q r : Nat → Prop} {s t v : State}

theorem refl (q : Nat → Prop) (s : State) : EntryFrame q s s := ⟨.refl q s, rfl, rfl⟩

theorem trans (h : EntryFrame q s t) (g : EntryFrame q t v) : EntryFrame q s v :=
  ⟨h.regs.trans g.regs, g.variant.trans h.variant, g.fac.trans h.fac⟩

theorem mono (h : EntryFrame q s t) (hqr : ∀ k, q k → r k) : EntryFrame r s t := ⟨h.regs.mono hqr, h.variant, h.fac⟩

theorem num (h : EntryFrame q s t) (hk : ¬ q (entryKey o u sub)) : t.num o u sub = s.num o u sub :=
  h.regs.num h.variant h.fac o u sub hk

theorem nat (h : EntryFrame q s t) (hk : ¬ q (entryKey o u sub)) : t.nat o u sub = s.nat o u sub :=
  congrArg Int.toNat (h.num hk)

/-- The register file, the variant and the factory values are those of `s`. -/
theorem of_eq (hr : t.regs = s.regs) (hv : t.variant = s.variant) (hf : t.fac = s.fac) : EntryFrame q s t :=
  ⟨.of_eq hr, hv, hf⟩

theorem setNum (s : State) (x : Int) (h : q (entryKey o u sub)) : EntryFrame q s (s.setNum o u sub x) :=
  ⟨.setNum s x h, rfl, rfl⟩

theorem bump (s : State) (n : Nat) (h : q (entryKey o u sub)) : EntryFrame q s (s.bump o u sub n) := setNum s _ h

/-- Raising an event may write the peaks of the queues. -/
theorem raise (s : State) (src cause detail : Nat) (h : ∀ k, PeakKey k → q k) : EntryFrame q s (raise s src cause detail) :=
  have hf := raise_frame s src cause detail
  ⟨hf.2.mono h, hf.variant, hf.fac⟩

/-- A fold of steps within a frame stays within it. -/
theorem foldl {α : Type} {f : State → α → State} (l : List α) (s : State) (h : ∀ s, ∀ a ∈ l, EntryFrame q s (f s a)) :
    EntryFrame q s (l.foldl f s) :=
  List.foldlRecOn l f (refl q s) fun t ht a ha => ht.trans (h t a ha)

end EntryFrame

end Sys2Proof.Machine
end

section
/-! PROOFS. The supply monitors and the temperatures (R602, R603, R636), and the image update and restart commands. -/

namespace Sys2Proof.Machine

open Sys2Proof

variable {s t : State}

/-! What a sample of the supply monitors writes. -/

/-- The peaks of the queues and the count of rail failures. -/
def RailKey (k : Nat) : Prop := PeakKey k ∨ k = entryKey .supply 0 12

theorem not_railKey {sub : Nat} (hsub : sub < 256) (h3 : sub ≠ 3) (h12 : sub ≠ 12) : ¬ RailKey (entryKey .supply 0 sub) := by
  rintro (h | h)
  · exact not_peakKey_of_sub hsub h3 .supply 0 h
  · exact entryKey_sub_ne .supply 0 h12 h

/-- The entries that show what the monitors measured; `lo` and `hi` are the extremes of VIN. -/
def supplyShown (s : State) (vin current lo hi excMv excMw rails : Nat) : State :=
  ((((((((s.setNum .supply 0 1 vin).setNum .supply 0 2 current).setNum .supply 0 3 (vin * current / 1000 : Nat)).setNum
    .supply 0 4 lo).setNum .supply 0 5 hi).setNum .supply 0 9 excMv).setNum .supply 0 10 excMw).setNum .supply 0 11
    (rails % 64 : Nat)).modPower (fun p => { p with vinSeen := true })

/-- The events of the rails that changed change the count of failures and the peaks. -/
theorem railEvents_frame (s : State) (old rails : Nat) (first : Bool) :
    let t := (List.range 6).foldl (fun s b =>
      if bit old b && !bit rails b then raise (s.bump .supply 0 12 1) 81 4 b
      else if !bit old b && bit rails b && !(b == 5 && first) then raise s 81 5 b else s) s
    EntryFrame RailKey s t ∧ t.power = s.power := by
  refine List.foldlRecOn (motive := fun t => EntryFrame RailKey s t ∧ t.power = s.power) _ _ ⟨.refl _ s, rfl⟩ ?_
  rintro t ⟨ht, hp⟩ b -
  split
  · exact ⟨ht.trans ((EntryFrame.bump t 1 (.inr rfl)).trans (.raise _ _ _ _ fun k => .inl)),
      (raise_frame _ _ _ _).power.trans hp⟩
  · split
    · exact ⟨ht.trans (.raise _ _ _ _ fun k => .inl), (raise_frame _ _ _ _).power.trans hp⟩
    · exact ⟨ht, hp⟩

theorem powerMonitorSample_shows (vin current excMv excMw rails : Nat) (hpower : s.power.powered = true)
    (hreset : s.power.inReset = false) : ∃ t, exec (.powerMonitorSample vin current excMv excMw rails) s = .next t ∧
      t.power.vinSeen = true ∧ EntryFrame RailKey (supplyShown s vin current
        (if !s.power.vinSeen then vin else min vin (s.nat .supply 0 4)) (if !s.power.vinSeen then vin else max vin (s.nat .supply 0 5))
        excMv excMw rails) t := by
  refine ⟨_, if_neg (by simp [hpower, hreset]), ?_⟩
  dsimp only
  simp (disch := decide) only [nat_setNum_ne]
  obtain ⟨hframe, hseen⟩ := railEvents_frame (supplyShown s vin current
    (if !s.power.vinSeen then vin else min vin (s.nat .supply 0 4)) (if !s.power.vinSeen then vin else max vin (s.nat .supply 0 5))
    excMv excMw rails) (s.nat .supply 0 11) rails (!s.power.vinSeen)
  unfold supplyShown at hframe hseen ⊢
  generalize List.foldl _ _ _ = events at hframe hseen ⊢
  have hwarn (w cause : Nat) : EntryFrame RailKey events (raise (events.modPower (fun p => { p with warn := w })) 81 cause vin) ∧
      (raise (events.modPower (fun p => { p with warn := w })) 81 cause vin).power.vinSeen = true :=
    ⟨(EntryFrame.of_eq rfl rfl rfl : EntryFrame RailKey events (events.modPower _)).trans (.raise _ _ _ _ fun k => .inl), by
      rw [(raise_frame _ _ _ _).power]
      exact congrArg PowerSt.vinSeen hseen⟩
  split
  · exact ⟨(hwarn 1 1).2, hframe.trans (hwarn 1 1).1⟩
  · split
    · exact ⟨(hwarn 2 2).2, hframe.trans (hwarn 2 2).1⟩
    · split
      · exact ⟨(hwarn 0 3).2, hframe.trans (hwarn 0 3).1⟩
      · exact ⟨congrArg PowerSt.vinSeen hseen, hframe⟩

theorem supplyShown_num (s : State) (vin current lo hi excMv excMw rails : Nat) :
    let t := supplyShown s vin current lo hi excMv excMw rails
    t.num .supply 0 1 = ((vin % 2 ^ 32 : Nat) : Int) ∧ t.num .supply 0 2 = ((current % 2 ^ 16 : Nat) : Int) ∧
      t.num .supply 0 4 = (entryTy .supply 0 4).narrow lo ∧ t.num .supply 0 5 = (entryTy .supply 0 5).narrow hi ∧
      t.num .supply 0 9 = ((excMv % 2 ^ 32 : Nat) : Int) ∧ t.num .supply 0 10 = (entryTy .supply 0 10).narrow excMw ∧
      t.num .supply 0 11 = ((rails % 64 : Nat) : Int) := by
  have h32 (v : Nat) : Ty.u32.narrow v = ((v % 2 ^ 32 : Nat) : Int) := rfl
  have h16 (v : Nat) : Ty.u16.narrow v = ((v % 2 ^ 16 : Nat) : Int) := rfl
  have h8 (v : Nat) : Ty.u8.narrow (v % 64 : Nat) = ((v % 64 : Nat) : Int) := narrowU_of_lt (by omega) (by omega)
  unfold supplyShown
  simp (disch := decide) only [State.modPower_num, num_setNum_ne, num_setNum_same]
  exact ⟨h32 vin, h16 current, trivial, trivial, h32 excMv, trivial, h8 rails⟩

/-! What a sample of the temperatures writes. -/

theorem wrapS_wrapS (w : Nat) (v : Int) : wrapS w (wrapS w v) = wrapS w v := by
  unfold wrapS
  rw [Int.sub_add_cancel, Int.emod_emod_of_dvd _ (Int.dvd_refl _)]

/-- The entries of the temperatures object other than the first die temperature and its maximum, and the peaks of the queues. -/
def OtherTempKey (k : Nat) : Prop := PeakKey k ∨ ∃ sub, sub ≠ 1 ∧ sub ≠ 6 ∧ k = entryKey .temps 0 sub

theorem not_otherTempKey {sub : Nat} (h : sub = 1 ∨ sub = 6) : ¬ OtherTempKey (entryKey .temps 0 sub) := by
  rintro (hpeak | ⟨a, h1, h6, ha⟩)
  · exact not_peakKey_of_sub (by omega) (by omega) .temps 0 hpeak
  · exact entryKey_sub_ne .temps 0 (show sub ≠ a by omega) ha

/-- A reading is shown with its maximum. -/
def tempShown (first : Bool) (s : State) (i : Nat) (v : Int) : State :=
  (s.setNum .temps 0 (i + 1) v).setNum .temps 0 (i + 6) (if first then v else max v (s.num .temps 0 (i + 6)))

/-- A reading above the warning, or back below it, is noted with its event. -/
def tempWarned (s : State) (i : Nat) (v : Int) : State :=
  let st := s.nat .temps 0 13
  let w := s.num .temps 0 11
  if w < v ∧ bit st i = false then raise ((s.setNum .temps 0 13 (setBit st i : Nat)).bump .temps 0 14 1) 82 1 i
  else if v < w - s.num .temps 0 12 ∧ bit st i = true then raise (s.setNum .temps 0 13 (clearBit st i : Nat)) 82 2 i
  else s

/-- A reading above the limit, or back below it, is noted. -/
def tempLimited (s : State) (i : Nat) (v : Int) : State :=
  let st := s.nat .temps 0 13
  if 14080 < v ∧ bit st (i + 8) = false then raise (s.setNum .temps 0 13 (setBit st (i + 8) : Nat)) 82 3 i
  else if v ≤ 14080 then s.setNum .temps 0 13 (clearBit st (i + 8) : Nat)
  else s

def tempJudged (s : State) (i : Nat) (v : Int) : State := tempLimited (tempWarned s i v) i v

/-- One reading of TEMPERATURE_SAMPLE. -/
def tempStep (readings : List Int) (first : Bool) (s : State) (i : Nat) : State :=
  if i = 2 ∧ s.variant ≠ .nxh384 then (s.setNum .temps 0 3 (-32768)).setNum .temps 0 8 (-32768)
  else tempJudged (tempShown first s i (wrapS 16 (readings.getD i 0))) i (wrapS 16 (readings.getD i 0))

theorem execTemperatureSample_steps (readings : List Int) (hpower : s.power.powered = true) (hreset : s.power.inReset = false) :
    exec (.temperatureSample readings) s = .next ([1, 2, 3, 4].foldl (tempStep readings (!s.power.tempSeen))
      (tempStep readings (!s.power.tempSeen) (s.modPower (fun p => { p with tempSeen := true })) 0)) := by
  show execTemperatureSample readings s = _
  rw [← List.foldl_cons, show [0, 1, 2, 3, 4] = List.range 5 from rfl]
  unfold execTemperatureSample
  rw [if_neg (by simp [hpower, hreset])]
  exact congrArg (fun f => Host.Outcome.next (List.foldl f _ _)) (funext fun s => funext fun i => rfl)

theorem setNum_temps_frame (s : State) {sub : Nat} (v : Int) (h1 : sub ≠ 1) (h6 : sub ≠ 6) :
    EntryFrame OtherTempKey s (s.setNum .temps 0 sub v) := .setNum s v (.inr ⟨sub, h1, h6, rfl⟩)

theorem raise_temps_frame (s : State) (cause i : Nat) : EntryFrame OtherTempKey s (raise s 82 cause i) :=
  .raise _ _ _ _ fun _ => .inl

theorem tempWarned_frame (s : State) (i : Nat) (v : Int) :
    EntryFrame OtherTempKey s (tempWarned s i v) ∧ (tempWarned s i v).power = s.power := by
  unfold tempWarned
  dsimp only
  split
  · exact ⟨((setNum_temps_frame s _ (by decide) (by decide)).trans (setNum_temps_frame _ _ (by decide) (by decide))).trans
      (raise_temps_frame _ _ _), (raise_frame _ _ _ _).power⟩
  · split
    · exact ⟨(setNum_temps_frame s _ (by decide) (by decide)).trans (raise_temps_frame _ _ _), (raise_frame _ _ _ _).power⟩
    · exact ⟨.refl _ s, rfl⟩

theorem tempLimited_frame (s : State) (i : Nat) (v : Int) :
    EntryFrame OtherTempKey s (tempLimited s i v) ∧ (tempLimited s i v).power = s.power := by
  unfold tempLimited
  dsimp only
  split
  · exact ⟨(setNum_temps_frame s _ (by decide) (by decide)).trans (raise_temps_frame _ _ _), (raise_frame _ _ _ _).power⟩
  · split
    · exact ⟨setNum_temps_frame s _ (by decide) (by decide), rfl⟩
    · exact ⟨.refl _ s, rfl⟩

theorem tempJudged_frame (s : State) (i : Nat) (v : Int) :
    EntryFrame OtherTempKey s (tempJudged s i v) ∧ (tempJudged s i v).power = s.power := by
  obtain ⟨hwarned, hpower⟩ := tempWarned_frame s i v
  obtain ⟨hlimited, hpower'⟩ := tempLimited_frame (tempWarned s i v) i v
  exact ⟨hwarned.trans hlimited, hpower'.trans hpower⟩

theorem tempStep_frame (readings : List Int) (first : Bool) (s : State) {i : Nat} (h0 : i ≠ 0) (h5 : i ≠ 5) :
    EntryFrame OtherTempKey s (tempStep readings first s i) ∧ (tempStep readings first s i).power = s.power := by
  unfold tempStep
  split
  · exact ⟨(setNum_temps_frame s _ (by decide) (by decide)).trans (setNum_temps_frame _ _ (by decide) (by decide)), rfl⟩
  · have hshown : EntryFrame OtherTempKey s (tempShown first s i (wrapS 16 (readings.getD i 0))) :=
      (setNum_temps_frame s _ (by omega) (by omega)).trans (setNum_temps_frame _ _ (by omega) (by omega))
    exact ⟨hshown.trans (tempJudged_frame _ _ _).1, (tempJudged_frame _ _ _).2⟩

/-- A sample of the temperatures shows the first die temperature and its maximum. -/
theorem temperatureSample_shows (readings : List Int) (hpower : s.power.powered = true) (hreset : s.power.inReset = false) :
    ∃ t, exec (.temperatureSample readings) s = .next t ∧ t.num .temps 0 1 = wrapS 16 (readings.getD 0 0) ∧
      t.num .temps 0 6 = (entryTy .temps 0 6).narrow (if !s.power.tempSeen then wrapS 16 (readings.getD 0 0)
        else max (wrapS 16 (readings.getD 0 0)) (s.num .temps 0 6)) ∧ t.power.tempSeen = true := by
  refine ⟨_, execTemperatureSample_steps readings hpower hreset, ?_⟩
  obtain ⟨hrest, hpower'⟩ : EntryFrame OtherTempKey _ _ ∧ _ := List.foldlRecOn (motive := fun t => EntryFrame OtherTempKey
      (tempStep readings (!s.power.tempSeen) (s.modPower (fun p => { p with tempSeen := true })) 0) t ∧
      t.power = { s.power with tempSeen := true })
    [1, 2, 3, 4] (tempStep readings (!s.power.tempSeen)) ⟨.refl _ _, (tempJudged_frame _ _ _).2⟩ (by
      rintro t ⟨ht, hp⟩ i hi
      have h0 : i ≠ 0 ∧ i ≠ 5 := by simp only [List.mem_cons, List.not_mem_nil, or_false] at hi; omega
      obtain ⟨hstep, hkeep⟩ := tempStep_frame readings (!s.power.tempSeen) t h0.1 h0.2
      exact ⟨ht.trans hstep, hkeep.trans hp⟩)
  have hjudged := (tempJudged_frame (tempShown (!s.power.tempSeen) (s.modPower (fun p => { p with tempSeen := true })) 0
    (wrapS 16 (readings.getD 0 0))) 0 (wrapS 16 (readings.getD 0 0))).1
  have hall := hjudged.trans hrest
  refine ⟨?_, ?_, congrArg PowerSt.tempSeen hpower'⟩
  · rw [hall.num (not_otherTempKey (.inl rfl)), tempShown, num_setNum_ne _ (by decide), num_setNum_same]
    exact wrapS_wrapS 16 _
  · rw [hall.num (not_otherTempKey (.inr rfl)), tempShown, num_setNum_same, State.modPower_num]

/-- Settles O3: by what a sample of the monitors and one of the temperatures show, first or later. -/
theorem supplyMonitorsAndTheTenVoltLevelAreRecorded : Obligations.SupplyMonitorsAndTheTenVoltLevelAreRecorded := by
  unfold Obligations.SupplyMonitorsAndTheTenVoltLevelAreRecorded
  refine ⟨?first, ?later, ?firstTemp, ?laterTemp, fun s => ⟨_, rfl, rfl⟩, fun s h => ⟨_, if_neg (by simp [h]), rfl⟩,
    fun s h => ⟨_, if_pos h, rfl⟩⟩
  case first =>
    intro s vin current excMv excMw rails hpower hreset hseen
    obtain ⟨t, ht, hmark, hframe⟩ := powerMonitorSample_shows vin current excMv excMw rails hpower hreset
    rw [hseen] at hframe
    obtain ⟨h1, h2, h4, h5, h9, h10, h11⟩ := supplyShown_num s vin current vin vin excMv excMw rails
    have hkeep {sub : Nat} (hsub : sub < 256) (h3 : sub ≠ 3) (h12 : sub ≠ 12) := hframe.num (not_railKey hsub h3 h12)
    exact ⟨t, ht, (hkeep (by decide) (by decide) (by decide)).trans h1, (hkeep (by decide) (by decide) (by decide)).trans h2,
      (hkeep (by decide) (by decide) (by decide)).trans h4, (hkeep (by decide) (by decide) (by decide)).trans h5,
      (hkeep (by decide) (by decide) (by decide)).trans h9, (hkeep (by decide) (by decide) (by decide)).trans h10,
      (hkeep (by decide) (by decide) (by decide)).trans h11, hmark⟩
  case later =>
    intro s vin current excMv excMw rails hpower hreset hseen
    obtain ⟨t, ht, -, hframe⟩ := powerMonitorSample_shows vin current excMv excMw rails hpower hreset
    rw [hseen] at hframe
    obtain ⟨h1, -, h4, h5, -⟩ := supplyShown_num s vin current (min vin (s.nat .supply 0 4)) (max vin (s.nat .supply 0 5))
      excMv excMw rails
    have hkeep {sub : Nat} (hsub : sub < 256) (h3 : sub ≠ 3) (h12 : sub ≠ 12) := hframe.num (not_railKey hsub h3 h12)
    exact ⟨t, ht, (hkeep (by decide) (by decide) (by decide)).trans h1, (hkeep (by decide) (by decide) (by decide)).trans h4,
      (hkeep (by decide) (by decide) (by decide)).trans h5⟩
  case firstTemp =>
    intro s readings hpower hreset hseen
    obtain ⟨t, ht, h1, h6, hmark⟩ := temperatureSample_shows readings hpower hreset
    rw [hseen] at h6
    exact ⟨t, ht, h1, h6.trans (wrapS_wrapS 16 _), hmark⟩
  case laterTemp =>
    intro s readings hpower hreset hseen
    obtain ⟨t, ht, h1, h6, -⟩ := temperatureSample_shows readings hpower hreset
    rw [hseen] at h6
    exact ⟨t, ht, h1, h6⟩

/-! The image update commands: a write that a hub with reset asserted serves is not answered. -/

/-- A state that no hub comes to: reset is asserted, yet the start-up phase is 6, so that the dictionary serves writes. -/
def inResetAtPhase6 : State := { State.reset with ans := .inUse }.setNum .startup 0 3 6

/-- Refutes O4: UPDATE_BEGIN is not bound to a hub out of reset, and with reset asserted a write is served without an answer, so that
the last answer stays (`serveWrite`). The state has reset asserted in phase 6 and an earlier answer 'in use'. -/
theorem not_imageUpdateAndRestartCommandsAct : ¬ Obligations.ImageUpdateAndRestartCommandsAct := by
  unfold Obligations.ImageUpdateAndRestartCommandsAct
  rintro ⟨hbegin, -⟩
  obtain ⟨t, ht, hans, -⟩ := hbegin inResetAtPhase6 0 ⟨rfl, by decide⟩ (.inl (by decide))
  have hkept : (serveNum inResetAtPhase6 0 .images 0 7 3).ans = .inUse := by decide
  cases ht
  exact absurd (hkept.symm.trans hans) (by decide)

end Sys2Proof.Machine
end

section
/-! PROOFS. Dictionary writes that are kept or refused (R499, R506, R510, R511, R535), the retained store (R516, R517, R519), the factory
restore, the description query and the snapshot sets (R525, R529, R533, R534). -/

namespace Sys2Proof.Machine

open Sys2Proof

variable {s t : State} {ses : Nat}

/-! The retained store. -/

theorem storeCommand_begins (hs : s.serves ses) (hreset : s.power.inReset = false) (hstate : storeState s ≠ 2) :
    serveObj s ses .store 0 1 [1] = answer (storeBegin s) .success := by
  have hwritten : writeAction s ses .store 0 1 1 [1] = (storeBegin s, .success) := by
    show storeCommand s 1 = _
    unfold storeCommand
    rw [if_neg (by decide), if_neg hstate]
  have hok : Accepted s ses .store 0 1 _ [1] 1 := ⟨hs, by decide, rfl, ⟨rfl, by decide⟩, ⟨rfl, rfl⟩, rfl, rfl, rfl⟩
  exact hok.volatile rfl hwritten hreset

theorem storeBegin_runs (s : State) : (storeBegin s).store.run.isSome = true := by
  unfold storeBegin State.modStore
  dsimp only
  split <;> simp_all

/-- With none in progress, a store of the next generation begins now. -/
theorem storeBegin_idle (h : s.store.run = none) :
    (storeBegin s).store.run = some ⟨nextGen s, none, 0⟩ ∧ (storeBegin s).store.began = some s.now := by
  unfold storeBegin State.modStore
  simp only [h, and_self]

theorem autosaveDue_idle (h : autosaveDue s = true) : s.store.run = none := by
  unfold autosaveDue at h
  simp only [Bool.and_eq_true, Option.isNone_iff_eq_none] at h
  tauto

/-- The store of generation `gen` has ended with a snapshot that read back right. -/
def storeSucceeded (s : State) (gen tick later : Nat) (x : Snap) : State :=
  (((((s.modStore (fun k => { k with run := none })).modFlash
    (fun f => { f with slots := f.slots.set (slotOf gen) (some { x with valid := true }) })).setNum .store 0 6 1).setNum
    .store 0 8 tick).bump .store 0 9 1).setNum .store 0 15 later

/-- Without a restart waiting, STORE_COMPLETE of a store that read back right ends it. -/
theorem exec_storeComplete_succeeded {gen tick later : Nat} {x : Snap} (hrun : s.store.run = some ⟨gen, some (tick, x), later⟩)
    (hwait : s.power.resetWait = false) : exec (.storeComplete true) s = .next (storeSucceeded s gen tick later x) := by
  show execStoreComplete true s = _
  unfold execStoreComplete
  rw [hrun]
  exact congrArg Host.Outcome.next (idleReset_of_not_waiting hwait)

/-- Settles O5: a store begins, takes its snapshot and completes as the branches of its commands say. -/
theorem theRetainedStoreBeginsSnapsAndCompletes : Obligations.TheRetainedStoreBeginsSnapsAndCompletes := by
  unfold Obligations.TheRetainedStoreBeginsSnapsAndCompletes
  refine ⟨?command, ?due, fun s h => ⟨_, congrArg Host.Outcome.next (if_neg (by simp [h])), rfl⟩, ?snapshot, ?complete⟩
  case command =>
    intro s ses hs hstate hreset
    refine ⟨_, congrArg Host.Outcome.next (storeCommand_begins hs hreset hstate), rfl, storeBegin_runs s⟩
  case due =>
    intro s h
    exact ⟨_, congrArg Host.Outcome.next (if_pos h), storeBegin_idle (autosaveDue_idle h)⟩
  case snapshot =>
    intro s r b hrun hbegan htaken himage htick hlater
    refine ⟨(eraseSlot s (slotOf r.gen)).modStore (fun k =>
      { k with run := some { r with taken := some (s.now, takeSnap s r.gen), later := 0 } }), ?_, rfl, rfl⟩
    show execSnapshotTickStore s = _
    unfold execSnapshotTickStore
    simp only [hrun, hbegan]
    exact if_pos ⟨htaken, himage, htick, hlater⟩
  case complete =>
    intro s gen tick later x hrun hwait
    refine ⟨_, exec_storeComplete_succeeded hrun hwait, rfl, rfl, ?_⟩
    unfold storeSucceeded
    simp (disch := decide) only [Counted, State.bump, num_setNum_ne, num_setNum_same, State.modFlash_num, State.modStore_num]
    exact ⟨rfl, trivial, trivial, rfl⟩

/-! The factory restore, the description query and the snapshot sets. -/

theorem factoryRestoreArm_marks (hs : s.serves ses) (hreset : s.power.inReset = false) :
    serveNum s ses .factoryRestore 0 1 1 =
      answer (s.modFlash (fun f => { f with marker := some (s.nat .factoryRestore 0 3) })) .success :=
  have hok : Accepted s ses .factoryRestore 0 1 _ [1] 1 := ⟨hs, by decide, rfl, ⟨rfl, by decide⟩, ⟨rfl, rfl⟩, rfl, rfl, rfl⟩
  hok.volatile rfl rfl hreset

theorem factoryRestoreDisarm_unmarks (hs : s.serves ses) (hreset : s.power.inReset = false) :
    serveNum s ses .factoryRestore 0 1 2 = answer (s.modFlash (fun f => { f with marker := none })) .success :=
  have hok : Accepted s ses .factoryRestore 0 1 _ [2] 2 := ⟨hs, by decide, rfl, ⟨rfl, by decide⟩, ⟨rfl, rfl⟩, rfl, rfl, rfl⟩
  hok.volatile rfl rfl hreset

theorem descriptionQuery_keeps {bs : Bytes} (hs : s.serves ses) (hreset : s.power.inReset = false) (hlen : bs.length = 4)
    (hlow : leNat bs % 256 = 0) :
    serveObj s ses .describe 0 1 bs = answer { s with queries := Sparse.put s.queries ses (leNat bs) } .success :=
  have hok : Accepted s ses .describe 0 1 _ bs (leNat bs) :=
    ⟨hs, by decide, rfl, ⟨rfl, by decide⟩, ⟨bne_eq_false_iff_eq.2 hlen, rfl⟩, rfl, rfl, if_pos (beq_iff_eq.2 hlow)⟩
  hok.volatile rfl rfl hreset

theorem takeNow_asks {k : Nat} (hs : s.serves ses) (hreset : s.power.inReset = false) (hk : k < 8) :
    serveObj s ses .snapSet k 3 [1] =
      answer (s.modSnap k (fun x => { x with nows := x.nows ++ [ceilTo 24576 (s.now + 24576)] })) .success :=
  have hok : Accepted s ses .snapSet k 3 _ [1] 1 :=
    ⟨hs, hk, has_of_present hk rfl, ⟨rfl, by decide⟩, ⟨rfl, rfl⟩, rfl, rfl, rfl⟩
  hok.volatile rfl rfl hreset

/-- The snapshot that a snapshot set begins now. -/
def snapBegun (s : State) (k : Nat) : SnapSet :=
  let es := listEntries (s.bytes .snapSet k 1)
  { s.snapSt k with
    looked := some s.now, nows := (s.snapSt k).nows.filter (fun t => decide (s.now < t))
    run := some (s.now, leBytes 2 es.length ++ leBytes 2 0 ++ leBytes 8 s.now ++ es.flatMap (snapEntry s)) }

theorem exec_snapshotSetTick_begins {k : Nat} (hk : k < 8) (hphase : 3 ≤ phase s) (hperiod : s.nat .snapSet k 2 ≠ 0)
    (htick : s.now % s.nat .snapSet k 2 = 0) (hlooked : (s.snapSt k).looked ≠ some s.now) (hidle : (s.snapSt k).run = none) :
    ∃ t, exec (.snapshotSetTick k) s = .next t ∧ t.snapSt k = snapBegun s k := by
  have hdue : (decide (s.nat .snapSet k 2 ≠ 0) && s.now % s.nat .snapSet k 2 == 0 ||
      (s.snapSt k).nows.any (fun t => decide (t ≤ s.now))) = true := by simp [hperiod, htick]
  refine ⟨_, if_pos ⟨hk, hphase, hlooked, hdue⟩, ?_⟩
  rw [hidle, if_neg (by simp), State.modSnap_same, State.modSnap_same]
  rfl

theorem exec_snapshotComplete_ends {k tick : Nat} {b : Bytes} (hk : k < 8) (hrun : (s.snapSt k).run = some (tick, b)) :
    exec (.snapshotComplete k) s = .next (
      let t := (s.modSnap k (fun x => { x with run := none })).bump .snapLast k 2 1
      (t.setBytes .snapLast k 1 (leBytes 4 (t.nat .snapLast k 2) ++ b)).setNum .snapSet k 4 tick) := by
  show execSnapshotComplete k s = _
  unfold execSnapshotComplete
  rw [hrun]
  exact if_pos hk

/-- Settles O6: the commands are writes with an action of their own, and a snapshot set begins and ends as its branches say. -/
theorem factoryRestoreDescriptionAndSnapshotSets : Obligations.FactoryRestoreDescriptionAndSnapshotSets := by
  unfold Obligations.FactoryRestoreDescriptionAndSnapshotSets
  refine ⟨?arm, ?disarm, ?query, ?asked, ?begin, ?complete⟩
  case arm => exact fun s ses hs hreset => ⟨_, congrArg Host.Outcome.next (factoryRestoreArm_marks hs hreset), rfl, rfl⟩
  case disarm => exact fun s ses hs hreset => ⟨_, congrArg Host.Outcome.next (factoryRestoreDisarm_unmarks hs hreset), rfl, rfl⟩
  case query =>
    intro s ses bs hs hreset hlen hlow
    exact ⟨_, congrArg Host.Outcome.next (descriptionQuery_keeps hs hreset hlen hlow), rfl, Sparse.find_put_same _ _ _⟩
  case asked =>
    intro s ses k hs hreset hk
    exact ⟨_, congrArg Host.Outcome.next (takeNow_asks hs hreset hk), rfl,
      by rw [answer_snapSt, State.modSnap_same]⟩
  case begin =>
    intro s k hk hphase hperiod htick hlooked hidle
    obtain ⟨t, ht, hbegun⟩ := exec_snapshotSetTick_begins hk hphase hperiod htick hlooked hidle
    exact ⟨t, ht, by rw [hbegun]; rfl, by rw [hbegun]; rfl⟩
  case complete =>
    intro s k tick b hk hrun
    refine ⟨_, exec_snapshotComplete_ends hk hrun, ?_⟩
    have hkey : entryKey .snapLast k 2 ≠ entryKey .snapSet k 4 :=
      entryKey_obj_ne (by decide) hk hk (by decide) (by decide)
    dsimp only
    refine ⟨?_, num_setNum_same _ _ _ _ _, ?_, ?_⟩
    · exact congrArg SnapSet.run (State.modSnap_same s k (fun x => { x with run := none }))
    · rw [Counted, num_setNum_ne _ hkey, num_setBytes, num_bump_same, State.modSnap_num]
    · rw [bytes_setNum, bytes_setBytes_same, State.nat, State.nat, num_setNum_ne _ hkey, num_setBytes]

/-! Dictionary writes. -/

/-- A write of the location code is kept and counted as a change (R499, R517). -/
theorem locationCode_kept {bs : Bytes} (hs : s.serves ses) (hreset : s.power.inReset = false) (hlen : bs.length = 4) :
    (serveWrite s ses 0x1000 13 bs).1 =
      answer (noteRetained (s.setNum .identity 0 13 (leNat bs)) .identity 0 13) .success := by
  have hok : Accepted s ses .identity 0 13 _ bs (leNat bs) :=
    ⟨hs, by decide, rfl, ⟨rfl, by decide⟩, ⟨bne_eq_false_iff_eq.2 hlen, rfl⟩, rfl, rfl, rfl⟩
  exact (serveWrite_eq_serveObj (o := .identity) (u := 0) (by decide)).trans (hok.retained rfl hreset)

theorem exec_dictionaryWrite {idx sub : Nat} {bs : Bytes} {c : Code} (h : serveWrite s ses idx sub bs = (t, c)) :
    exec (.dictionaryWrite ses idx sub bs) s = .next t := by
  show Host.Outcome.next (serveWrite s ses idx sub bs).1 = _
  rw [h]

/-- Settles O7: a write is kept, or its answer is all that it changes. -/
theorem dictionaryWritesKeepTheirValueOrAnswerWhy : Obligations.DictionaryWritesKeepTheirValueOrAnswerWhy := by
  unfold Obligations.DictionaryWritesKeepTheirValueOrAnswerWhy
  have hanswered (s : State) (c : Code) : (answer s c).ans = c ∧ KeepsRegs AnswerKey s (answer s c) ∧
      { answer s c with ans := s.ans, regs := s.regs } = s :=
    have ⟨hrest, hregs, hans⟩ := answer_frame s c
    ⟨hans, hregs, hrest⟩
  refine ⟨?kept, ?nowhere, ?closed, ?readOnly⟩
  case kept =>
    intro s ses bs hs hreset hlen
    have hlt := leNat_lt bs
    rw [hlen] at hlt
    have hvalue : (s.setNum .identity 0 13 (leNat bs)).num .identity 0 13 = leNat bs :=
      (num_setNum_same _ _ _ _ _).trans (narrowU_of_lt (by omega) (by omega))
    refine ⟨_, congrArg Host.Outcome.next (locationCode_kept hs hreset hlen), rfl, ?_, ?_⟩
    · rw [answer_num _ _ (by decide) (by decide) (by decide), noteRetained_num _ _ _ _ _ _ _ (by decide), hvalue]
    · refine (answer_counts _ .success).trans ?_
      rw [noteRetained_num _ _ _ _ _ _ _ (by decide), num_setNum_ne _ (by decide)]
      rfl
  case nowhere =>
    intro s ses idx sub bs hs hreset h
    exact ⟨_, exec_dictionaryWrite (serveWrite_nowhere hs hreset h sub bs), hanswered s _⟩
  case closed =>
    intro s ses idx sub bs h hreset
    exact ⟨_, exec_dictionaryWrite (serveWrite_closed h hreset idx sub bs), hanswered s _⟩
  case readOnly =>
    intro s ses bs hs hreset
    have hread : serveWrite s ses 0x1020 1 bs = (answer s .access, .access) :=
      serveWrite_readOnly (o := .variant) (u := 0) hs hreset (by decide) rfl (by decide) rfl rfl
    exact ⟨_, exec_dictionaryWrite hread, hanswered s _⟩

end Sys2Proof.Machine
end

section
/-! PROOFS. Staged writes and sets (R55, R56, R72, R430 to R437): what joins a staging, how a driver's write takes effect, and a set that
no client can stage. -/

namespace Sys2Proof.Machine

open Sys2Proof

variable {s t : State} {ses u sub : Nat} {w : Wr}

/-! Writes at receipt. -/

theorem cells_le (v : Variant) : Config.cells v ≤ 24 := by cases v <;> decide

/-- A write that passes the checks at receipt joins its session's staging. -/
theorem stagedWrite_joins (hfield : fieldCheck (sessionView s ses) w.obj w.u w.sub w.num w.bytes = none)
    (hrule : ruleCheck s ((sessionView s ses).withWrites [w]) ((sessionView s ses).withWrites [w]) true w.obj w.u w.sub = none)
    (hbudget : overBudget s ses w = false) (hheld : (s.stage ses).count + (s.takeWaiting ses).length < 4096) :
    stagedWrite s ses w = (stageWrite s ses w, .success) := by
  have hroom : stageRoom s ses w = true := by
    unfold stageRoom
    simp [hheld]
  unfold stagedWrite
  simp only [hfield, hrule, hbudget, hroom, Bool.not_true, Bool.false_eq_true, if_false]

theorem stagedWrite_overBudget (hfield : fieldCheck (sessionView s ses) w.obj w.u w.sub w.num w.bytes = none)
    (hrule : ruleCheck s ((sessionView s ses).withWrites [w]) ((sessionView s ses).withWrites [w]) true w.obj w.u w.sub = none)
    (hbudget : overBudget s ses w = true) : stagedWrite s ses w = (s.bump .budget 0 4 1, .excBudget) := by
  unfold stagedWrite
  simp only [hfield, hrule, hbudget, if_true]

/-- Outside held mode a write joins the immediate ones. -/
theorem stageWrite_immediate (h : (s.stage ses).held = false) :
    stageWrite s ses w = { s.putStage ses { s.stage ses with imm := (s.stage ses).imm ++ [⟨w, s.now, s.order⟩] } with
      order := s.order + 1 } := by
  unfold stageWrite
  simp only [h, Bool.false_eq_true, if_false]

theorem stageWrite_stage (h : (s.stage ses).held = false) :
    ((stageWrite s ses w).stage ses).imm = (s.stage ses).imm ++ [⟨w, s.now, s.order⟩] := by
  rw [stageWrite_immediate h]
  exact congrArg Stage.imm (State.putStage_same s ses _)

@[simp] theorem stageWrite_power (s : State) (ses : Nat) (w : Wr) : (stageWrite s ses w).power = s.power := by
  unfold stageWrite
  dsimp only
  split <;> rfl

@[simp] theorem stageWrite_num (s : State) (ses : Nat) (w : Wr) (o : Obj) (u sub : Nat) :
    (stageWrite s ses w).num o u sub = s.num o u sub := by
  unfold stageWrite
  dsimp only
  split <;> rfl

/-! Entries of the route words and of the drivers. -/

theorem termRoute_staged (u : Nat) {sub : Nat} (h1 : 1 ≤ sub) (h32 : sub ≤ 32) :
    ∃ e, Staged .termRoute u sub e ∧ e.ty = .u32 ∧ e.chk = .any := by
  refine ⟨⟨1, 32, "Terminal route word, local terminal 0 to 31", .u32, .rws, true, .num 0, .any⟩, ⟨?_, by decide, .inl rfl, rfl,
    by omega⟩, rfl, rfl⟩
  have htop : Obj.top .termRoute u = 32 := rfl
  unfold Obj.entry
  rw [htop, if_pos h32]
  show List.find? _ entTermRoute = _
  unfold entTermRoute
  simp [h1, h32]

theorem rowOf_index {o : Obj} (hu : u < o.size) (p : Obj → Bool) : rowOf (o.index u) p = p o := by
  unfold rowOf
  rw [locate_index hu]

/-- A route word legal for its cell is staged. -/
theorem routingWrite_stages {cell : Nat} {bs : Bytes} (hs : s.serves ses) (hreset : s.power.inReset = false)
    (hcell : cell < Config.cells s.variant) (h1 : 1 ≤ sub) (h32 : sub ≤ 32) (hlen : bs.length = 4)
    (hlegal : cellLegal ((sessionView s ses).withWrites [⟨.termRoute, cell, sub, leNat bs, []⟩]) cell true = true)
    (hroom : (s.stage ses).count + (s.takeWaiting ses).length < 4096) :
    exec (.routingWrite ses (Obj.index .termRoute cell) sub bs) s =
      .next (answer (stageWrite s ses ⟨.termRoute, cell, sub, leNat bs, []⟩) .success) := by
  have hu : cell < Obj.size .termRoute := Nat.lt_of_lt_of_le hcell (cells_le _)
  obtain ⟨e, he, hty, hchk⟩ := termRoute_staged cell h1 h32
  have hfield : fieldCheck (sessionView s ses) .termRoute cell sub (leNat bs) [] = none := by
    unfold fieldCheck
    simp only [he.1, hchk]
  have hact : stagedWrite s ses ⟨.termRoute, cell, sub, e.ty.decode bs, []⟩ =
      (stageWrite s ses ⟨.termRoute, cell, sub, leNat bs, []⟩, .success) := by
    rw [hty]
    exact stagedWrite_joins hfield (if_pos hlegal) rfl hroom
  show Host.Outcome.next (if rowOf _ _ then (serveWrite s ses _ sub bs).1 else s) = _
  rw [rowOf_index hu, if_pos (by rfl), serveWrite_eq_serveObj hu]
  refine congrArg Host.Outcome.next (serveObj_staged hs hu (has_of_present hu (decide_eq_true hcell)) he ⟨?_, ?_⟩ hact ?_)
  · simp [hty, Ty.isBytes, Ty.size, hlen]
  · rw [hty]; rfl
  · rw [stageWrite_power, hreset]

/-- A voltage within a driver's range passes the checks of its entry. -/
theorem driverVoltage_field (s : State) (d : Nat) {bs : Bytes} (hlo : 1000 ≤ leNat bs) (hhi : leNat bs ≤ 10000) :
    fieldCheck s .driver d 2 (leNat bs) [] = none := by
  have hin : outside 1000 10000 (leNat bs) = false := by
    unfold outside
    simp
    omega
  have hentry : Obj.entry .driver d 2 = some ⟨2, 2, "Voltage setpoint (mV)", .u16, .rws, true, .num 5000, .rng 1000 10000⟩ := rfl
  unfold fieldCheck
  simp only [hentry, hin, Bool.not_false, if_true]

/-- What an excitation write of a driver's voltage comes to is what its staging answers. -/
theorem excitationWrite_answers {d : Nat} {bs : Bytes} {c : Code} (hs : s.serves ses) (hd : d / 4 < Config.cells s.variant)
    (hlen : bs.length = 2) (hact : stagedWrite s ses ⟨.driver, d, 2, leNat bs, []⟩ = (t, c)) (hreset : t.power.inReset = false) :
    exec (.excitationWrite ses (Obj.index .driver d) 2 bs) s = .next (answer t c) := by
  have hcells := cells_le s.variant
  have hu : d < Obj.size .driver := show d < 96 by omega
  show Host.Outcome.next (if rowOf _ _ then (serveWrite s ses _ 2 bs).1 else s) = _
  rw [rowOf_index hu, if_pos (by rfl), serveWrite_eq_serveObj hu]
  exact congrArg Host.Outcome.next (serveObj_staged hs hu (has_of_present hu (decide_eq_true hd))
    ⟨rfl, by decide, .inl rfl, rfl, by decide⟩ ⟨bne_eq_false_iff_eq.2 hlen, rfl⟩ hact hreset)

theorem armCommand_stages {k : Nat} (hs : s.serves ses) (hreset : s.power.inReset = false) (hk : k < 16)
    (hroom : (s.stage ses).count + (s.takeWaiting ses).length < 4096) :
    exec (.armCommand ses k [1]) s = .next (answer (stageWrite s ses ⟨.takeStat, k, 3, 1, []⟩) .success) := by
  have hact : stagedWrite s ses ⟨.takeStat, k, 3, 1, []⟩ = (stageWrite s ses ⟨.takeStat, k, 3, 1, []⟩, .success) :=
    stagedWrite_joins rfl rfl rfl hroom
  exact congrArg Host.Outcome.next (serveObj_staged hs hk (has_of_present hk rfl)
    ⟨rfl, by decide, .inr ⟨rfl, rfl⟩, rfl, by decide⟩ ⟨rfl, rfl⟩ hact (by rw [stageWrite_power, hreset]))

/-! A driver's write at its effect. -/

/-- `t` is `s` but for its channels, its settling intervals and its calibration record. -/
def TouchFrame (s t : State) : Prop := { t with chans := s.chans, excSettle := s.excSettle, cal := s.cal } = s

namespace TouchFrame

theorem refl (s : State) : TouchFrame s s := rfl

theorem trans {s t v : State} (h : TouchFrame s t) (g : TouchFrame t v) : TouchFrame s v := by
  unfold TouchFrame at h g ⊢
  rw [← h, ← g]

theorem num {s t : State} (h : TouchFrame s t) (o : Obj) (u sub : Nat) : t.num o u sub = s.num o u sub := by
  unfold TouchFrame at h
  rw [← h]
  rfl

theorem stages {s t : State} (h : TouchFrame s t) : t.stages = s.stages := by
  unfold TouchFrame at h
  rw [← h]

theorem queues {s t : State} (h : TouchFrame s t) : t.queues = s.queues := by
  unfold TouchFrame at h
  rw [← h]

theorem excLeft {s t : State} (h : TouchFrame s t) : t.excLeft = s.excLeft := by
  unfold TouchFrame at h
  rw [← h]

/-- A fold over channels stays within the frame when each of its steps does. -/
theorem onChans {f : State → Nat → State} (s : State) (chs : List Nat) (h : ∀ s n, TouchFrame s (f s n)) :
    TouchFrame s (onChans s chs f) :=
  List.foldlRecOn chs f (refl s) fun v hv n _ => hv.trans (h v n)

end TouchFrame

theorem addFlag_frame (s : State) (ch flag : Nat) (src : FSrc) (a b : Nat) : TouchFrame s (addFlag s ch flag src a b) := by
  unfold addFlag
  split <;> rfl

theorem setTouch_frame (s : State) (ch t us : Nat) : TouchFrame s (setTouch s ch t us) := by
  unfold setTouch
  exact TouchFrame.trans (t := State.modChan (windowRestart s _ _ _) _ _) rfl (addFlag_frame _ _ _ _ _ _)

theorem touchAll_frame (s : State) (chs : List Nat) (t us : Nat) : TouchFrame s (touchAll s chs t us) :=
  List.foldlRecOn chs _ (TouchFrame.refl s) fun v hv n _ => hv.trans (setTouch_frame v n t us)

theorem touchUnit_frame (old s : State) (unit : ExcUnit) (t : Nat) (us : Option Nat) : TouchFrame s (touchUnit old s unit t us) := by
  cases us with
  | none => exact .refl s
  | some us => exact TouchFrame.trans (t := settleUnit s unit t us) rfl (touchAll_frame _ _ _ _)

theorem driver_numeric {d sub : Nat} (h1 : 1 ≤ sub) (h4 : sub ≤ 4) : (entryTy .driver d sub).isBytes = false := by
  interval_cases sub <;> rfl

/-- A driver's setting taking effect alone is written, counted as a change, and touches the unit's channels. -/
theorem applySet_driver (s : State) (ses : Nat) {d sub : Nat} (n : Int) (bs : Bytes) (t : Nat) (h1 : 1 ≤ sub) (h4 : sub ≤ 4) :
    TouchFrame (noteRetained (s.setNum .driver d sub n) .driver d sub) (applySet s ses true [⟨.driver, d, sub, n, bs⟩] t) := by
  have hwritten : s.withWrites [⟨.driver, d, sub, n, bs⟩] = s.setNum .driver d sub n := by
    unfold State.withWrites
    simp only [List.foldl_cons, List.foldl_nil, driver_numeric h1 h4, Bool.false_eq_true, if_false]
  show TouchFrame _ (applyPlain s [⟨.driver, d, sub, n, bs⟩] t)
  unfold applyPlain
  rw [hwritten]
  show TouchFrame _ (calTouch (entryEffect s (noteRetained (s.setNum .driver d sub n) .driver d sub) t ⟨.driver, d, sub, n, bs⟩)
    .driver d sub)
  have hcal (v : State) : calTouch v .driver d sub = v := by
    unfold calTouch
    simp
  rw [hcal]
  unfold entryEffect
  split
  · exact .refl _
  · exact touchUnit_frame _ _ _ _ _

theorem noteRetained_stages (s : State) (o : Obj) (u sub : Nat) : (noteRetained s o u sub).stages = s.stages := by
  unfold noteRetained
  repeat' split
  all_goals rfl

/-- The only immediate write of a session, to a driver, takes effect: it leaves the staging, and its entry has its value. -/
theorem immEffect_driver {x : Imm} {d sub : Nat} (t : Nat) (hses : ses < 16) (hd : d < 96) (h1 : 1 ≤ sub) (h4 : sub ≤ 4)
    (himm : (s.stage ses).imm = [x]) (hobj : x.w.obj = .driver) (hu : x.w.u = d) (hsub : x.w.sub = sub)
    (hcheck : effectCheck (s.putStage ses { s.stage ses with imm := [] }) ses [x.w] x.w = none) :
    ((immEffect s ses x t).stage ses).imm = [] ∧
      (immEffect s ses x t).num .driver d sub = (entryTy .driver d sub).narrow x.w.num := by
  obtain ⟨⟨o, u, a, n, bs⟩, at_, order⟩ := x
  dsimp only at hobj hu hsub hcheck ⊢
  subst hobj hu hsub
  have hframe := applySet_driver (s.putStage ses { s.stage ses with imm := [] }) ses n bs t (d := u) h1 h4
  have heffect : immEffect s ses ⟨⟨.driver, u, a, n, bs⟩, at_, order⟩ t =
      (applySet (s.putStage ses { s.stage ses with imm := [] }) ses true [⟨.driver, u, a, n, bs⟩] t).setNum .session ses 8 t := by
    unfold immEffect
    simp only [himm, List.filter_cons, bne_self_eq_false, Bool.false_eq_true, if_false, List.filter_nil, hcheck,
      show (Obj.driver == Obj.take) = false from rfl, Bool.false_and]
  rw [heffect]
  constructor
  · show (Sparse.get (State.stages _) ses Stage.empty).imm = []
    rw [State.setNum_stages, hframe.stages, noteRetained_stages, State.setNum_stages]
    exact congrArg Stage.imm (State.putStage_same s ses _)
  · rw [num_setNum_obj _ (by decide) hses hd (by decide) (by omega), hframe.num,
      noteRetained_num _ _ _ _ _ _ _ (entryKey_obj_ne (by decide) hd (by decide) (by omega) (by decide)), num_setNum_same]

/-- Settles O8: by the checks at receipt, and the effect of a driver's write. -/
theorem stagedWritesWaitAndTakeEffect : Obligations.StagedWritesWaitAndTakeEffect := by
  unfold Obligations.StagedWritesWaitAndTakeEffect
  refine ⟨?route, ?voltage, ?budget, ?arm, ?effect⟩
  case route =>
    intro s ses cell sub bs hs hreset hcell h1 h32 hlen hlegal hheld hroom
    have hcells := cells_le s.variant
    refine ⟨_, routingWrite_stages hs hreset hcell h1 h32 hlen hlegal hroom, rfl, ?_, ?_, ?_⟩
    · rw [answer_stage, stageWrite_stage hheld]
    · rw [stageWrite_immediate hheld]
      rfl
    · rw [answer_num _ _ (by decide) (show cell < 24 by omega) (by omega), stageWrite_num]
  case voltage =>
    intro s ses d bs hs hreset hd hlen hlo hhi hbudget hheld hroom
    have hact := stagedWrite_joins (w := ⟨.driver, d, 2, leNat bs, []⟩) (driverVoltage_field _ d hlo hhi) rfl hbudget hroom
    refine ⟨_, excitationWrite_answers hs hd hlen hact (by rw [stageWrite_power, hreset]), rfl, ?_⟩
    rw [answer_stage, stageWrite_stage hheld]
  case budget =>
    intro s ses d bs hs hreset hd hlen hlo hhi hbudget
    have hact := stagedWrite_overBudget (w := ⟨.driver, d, 2, leNat bs, []⟩) (driverVoltage_field _ d hlo hhi) rfl hbudget
    refine ⟨_, excitationWrite_answers hs hd hlen hact hreset, rfl, ?_, rfl⟩
    exact (answer_num _ _ (by decide) (by decide) (by decide)).trans (num_bump_same _ _ _ _ _)
  case arm =>
    intro s ses k hs hreset hk hheld hroom
    refine ⟨_, armCommand_stages hs hreset hk hroom, rfl, ?_⟩
    rw [answer_stage, stageWrite_stage hheld]
  case effect =>
    intro s ses d sub x hses hd h1 h4 himm hobj hu hsub hpend hsets hcheck
    refine ⟨immEffect s ses x s.now, ?_, immEffect_driver s.now hses hd h1 h4 himm hobj hu hsub hcheck⟩
    show execStagedWriteTakesEffect ses (Obj.index .driver d) sub s = _
    have hnone : performUpTo s s.now x.order = s := by
      unfold performUpTo
      rw [hsets]
      rfl
    unfold execStagedWriteTakesEffect
    rw [locate_index (o := .driver) hd]
    simp [himm, hobj, hu, hsub, hnone, hpend, behindSet]

/-! A pending set that writes the session's own count: no client can stage one, as the entry is only read. -/

/-- A set of session 0 that puts 7 in the session's count of sets performed. -/
def selfCounting : PendSet := ⟨0, 0, [⟨.session, 0, 9, 7, []⟩]⟩

/-- The state right after reset with that set pending. -/
def selfCountingSet : State := State.reset.putStage 0 { Stage.empty with pend := [selfCounting] }

/-- Refutes O9: a pending set that writes the count of sets performed to 7 makes that count 8, where the statement has 1. The writes of
a pending set are any writes, and this one is of an entry that no client may write. -/
theorem not_heldSetsOpenCommitPerformAndLapse : ¬ Obligations.HeldSetsOpenCommitPerformAndLapse := by
  unfold Obligations.HeldSetsOpenCommitPerformAndLapse
  rintro ⟨-, -, -, -, hperform, -⟩
  obtain ⟨t, ht, -, -, hcount⟩ := hperform selfCountingSet 0 selfCounting (by decide) (by decide) (by decide) (by decide)
    (by decide) (by decide)
  have hwritten : (performUpTo selfCountingSet 0 0).num .session 0 9 = 8 := by decide
  have hstep : exec (.commitFenceEffect 0) selfCountingSet = .next (performUpTo selfCountingSet 0 0) := rfl
  rw [hstep] at ht
  cases ht
  exact absurd (hwritten.symm.trans hcount) (by decide)

end Sys2Proof.Machine
end

section
/-! PROOFS. Switches, clamps and excitation units (R55, R59, R75, R76, R79, R81), and the overload and open-wire detectors of a channel
(R96 to R104, R118 to R124): what the intervals of a channel's flags read after each operation on them. -/

namespace Sys2Proof.Machine

open Sys2Proof

variable {s t : State} {ses ch cell flag : Nat} {src : FSrc}

/-! A channel and its flag intervals. -/

/-- Two records of a channel agree but for the flag intervals. -/
def SameButFlags (c d : Chan) : Prop := { d with flags := c.flags } = c

theorem SameButFlags.refl (c : Chan) : SameButFlags c c := rfl

theorem SameButFlags.trans {a b c : Chan} (h : SameButFlags a b) (g : SameButFlags b c) : SameButFlags a c := by
  unfold SameButFlags at h g ⊢
  rw [← h, ← g]

theorem SameButFlags.ovl {c d : Chan} (h : SameButFlags c d) : d.ovl = c.ovl := by
  unfold SameButFlags at h
  rw [← h]

theorem SameButFlags.pull {c d : Chan} (h : SameButFlags c d) : d.pull = c.pull := by
  unfold SameButFlags at h
  rw [← h]

theorem SameButFlags.rail {c d : Chan} (h : SameButFlags c d) : d.rail = c.rail := by
  unfold SameButFlags at h
  rw [← h]

/-- A listed channel is what its list says, whatever the settings. -/
theorem chan_of_find {c : Chan} (h : Sparse.find s.chans ch = some c) : s.chan ch = c := by
  unfold State.chan
  rw [h]
  rfl

theorem find_modChan (s : State) (ch : Nat) (f : Chan → Chan) : Sparse.find (s.modChan ch f).chans ch = some (f (s.chan ch)) :=
  Sparse.find_put_same _ _ _

theorem hasOpen_openFlag (s : State) (ch flag : Nat) (src : FSrc) (start : Nat) :
    hasOpen (openFlag s ch flag src start) ch flag src = true := by
  unfold hasOpen openFlag
  simp

theorem openFlag_chan (s : State) (ch flag : Nat) (src : FSrc) (start : Nat) :
    SameButFlags (s.chan ch) ((openFlag s ch flag src start).chan ch) := by
  unfold openFlag
  rw [State.modChan_same]
  rfl

theorem closeFlag_chan (s : State) (ch flag : Nat) (src : FSrc) (stop : Nat) :
    SameButFlags (s.chan ch) ((closeFlag s ch flag src stop).chan ch) := by
  unfold closeFlag
  rw [State.modChan_same]
  rfl

/-- No interval of a flag and source is open once they are closed. -/
theorem hasOpen_closeFlag (s : State) (ch flag : Nat) (src : FSrc) (stop : Nat) :
    hasOpen (closeFlag s ch flag src stop) ch flag src = false := by
  unfold hasOpen closeFlag
  rw [State.modChan_same, List.any_map, List.any_eq_false]
  intro i _
  dsimp only [Function.comp]
  split <;> simp_all

/-- Closing intervals opens none. -/
theorem hasOpen_closeFlag_of_closed {flag' : Nat} {src' : FSrc} (stop : Nat) (h : hasOpen s ch flag src = false) :
    hasOpen (closeFlag s ch flag' src' stop) ch flag src = false := by
  unfold hasOpen at h ⊢
  unfold closeFlag
  rw [State.modChan_same, List.any_map, List.any_eq_false]
  rw [List.any_eq_false] at h
  intro i hi
  dsimp only [Function.comp]
  split
  · simp
  · exact h i hi

/-- An interval with both ends is not open. -/
theorem hasOpen_addFlag (s : State) (ch : Nat) (flag' : Nat) (src' : FSrc) (a b : Nat) :
    hasOpen (addFlag s ch flag' src' a b) ch flag src = hasOpen s ch flag src := by
  unfold addFlag
  split
  · unfold hasOpen
    rw [State.modChan_same]
    simp
  · rfl

theorem addFlag_chan (s : State) (ch flag : Nat) (src : FSrc) (a b : Nat) :
    SameButFlags (s.chan ch) ((addFlag s ch flag src a b).chan ch) := by
  unfold addFlag
  split
  · rw [State.modChan_same]
    rfl
  · rfl

theorem hasOpen_setTail (s : State) (ch t : Nat) : hasOpen (setTail s ch t) ch flag src = hasOpen s ch flag src :=
  hasOpen_addFlag ..

theorem setTail_chan (s : State) (ch t : Nat) : SameButFlags (s.chan ch) ((setTail s ch t).chan ch) := addFlag_chan ..

/-- Opening, closing and adding intervals changes the channels alone. -/
theorem setTail_regs (s : State) (ch t : Nat) : (setTail s ch t).regs = s.regs := by
  unfold setTail addFlag
  split <;> rfl

/-! Events of a channel. -/

theorem raiseChan_chans (s : State) (ch src cause tick : Nat) : (raiseChan s ch src cause tick).chans = s.chans := by
  unfold raiseChan
  split
  · rw [State.bump_chans, raiseAt_chans]
  · rfl

/-- The event of a channel counts itself in the channel's status, and leaves its front-end entries. -/
theorem raiseChan_front {sub : Nat} (hch : ch < 384) (hsub : sub < 256) (h3 : sub ≠ 3) (src cause tick : Nat) :
    (raiseChan s ch src cause tick).num .chFront ch sub = s.num .chFront ch sub := by
  unfold raiseChan
  split
  · rw [State.bump, num_setNum_obj _ (by decide) hch hch (by decide) hsub,
      (raiseAt_frame s _ _ _ _).num _ _ _ (not_peakKey_of_sub hsub h3 _ _)]
  · rfl

/-! The overload detector. -/

/-- The oldest detection, of the kind asked for, takes effect on a channel that no longer waits for it. -/
theorem ovlStep_performs {d : OvlDue} {ds : List OvlDue} {p : OvlDue → Bool} (h : (s.chan ch).ovl.due = d :: ds) (hp : p d = true) :
    ovlStep s ch p = ovlPerform (s.modChan ch (fun c => { c with ovl := { c.ovl with due := ds } })) ch d := by
  unfold ovlStep
  rw [h]
  exact if_pos hp

theorem ovlPerform_onset {c : Chan} (start : Nat) (neg : Bool) (hch : ch < 384) (hc : Sparse.find s.chans ch = some c) :
    let t := ovlPerform s ch (.onset start neg)
    SameButFlags c (t.chan ch) ∧ hasOpen t ch fOVR (.overload neg) = true ∧ Counted s t .chFront ch 11 1 := by
  unfold ovlPerform
  dsimp only
  generalize hraised : raiseChan _ ch 42 _ start = v
  have hv : Sparse.find v.chans ch = some c := by rw [← hraised, raiseChan_chans, State.bump_chans, hc]
  refine ⟨?_, hasOpen_openFlag _ _ _ _ _, ?_⟩
  · have hsame := openFlag_chan (windowRestart v (ch / 16) (modOf v ch) start) ch fOVR (.overload neg) start
    rwa [chan_of_find (s := windowRestart v _ _ _) hv] at hsame
  · rw [Counted, openFlag, State.modChan_num]
    show v.num .chFront ch 11 = _
    rw [← hraised, raiseChan_front hch (by decide) (by decide), num_bump_same]

theorem ovlPerform_release (s : State) (ch stop : Nat) :
    let t := ovlPerform s ch (.release stop)
    SameButFlags (s.chan ch) (t.chan ch) ∧ hasOpen t ch fOVR (.overload true) = false ∧
      hasOpen t ch fOVR (.overload false) = false ∧ t.regs = s.regs := by
  unfold ovlPerform
  dsimp only
  refine ⟨?_, ?_, ?_, setTail_regs _ _ _⟩
  · exact (show SameButFlags (s.chan ch) ((windowRestart s (ch / 16) (modOf s ch) s.now).chan ch) from rfl).trans
      ((closeFlag_chan _ _ _ _ _).trans ((closeFlag_chan _ _ _ _ _).trans (setTail_chan _ _ _)))
  · rw [hasOpen_setTail]
    exact hasOpen_closeFlag_of_closed _ (hasOpen_closeFlag _ _ _ _ _)
  · rw [hasOpen_setTail, hasOpen_closeFlag]

/-! The open-wire detectors. -/

theorem owdCount_front (s : State) (cause tick : Nat) (hch : ch < 384) : Counted s (owdCount s ch cause tick) .chFront ch 12 1 := by
  rw [Counted, owdCount, raiseChan_front hch (by decide) (by decide), num_bump_same]

theorem owdCount_chans (s : State) (ch cause tick : Nat) : (owdCount s ch cause tick).chans = s.chans := by
  rw [owdCount, raiseChan_chans, State.bump_chans]

/-- An onset of an open wire on a listed channel opens its interval and is counted. -/
theorem owdOpened {c : Chan} (src : FSrc) (cause start tick : Nat) (hch : ch < 384) (hc : Sparse.find s.chans ch = some c) :
    let t := openFlag (owdCount s ch cause tick) ch fOWD src start
    SameButFlags c (t.chan ch) ∧ hasOpen t ch fOWD src = true ∧ Counted s t .chFront ch 12 1 := by
  refine ⟨?_, hasOpen_openFlag _ _ _ _ _, ?_⟩
  · have hsame := openFlag_chan (owdCount s ch cause tick) ch fOWD src start
    rwa [chan_of_find (by rw [owdCount_chans, hc])] at hsame
  · rw [Counted, openFlag, State.modChan_num]
    exact owdCount_front s cause tick hch

/-- The end of an open wire on a channel closes its interval and changes no entry. -/
theorem owdClosed (s : State) (ch : Nat) (src : FSrc) (tick : Nat) :
    let t := setTail (closeFlag s ch fOWD src tick) ch tick
    SameButFlags (s.chan ch) (t.chan ch) ∧ hasOpen t ch fOWD src = false ∧ t.regs = s.regs := by
  refine ⟨(closeFlag_chan _ _ _ _ _).trans (setTail_chan _ _ _), ?_, setTail_regs _ _ _⟩
  rw [hasOpen_setTail, hasOpen_closeFlag]

/-! What the pull detector finds takes effect at the present tick. -/

theorem owdCount_now (s : State) (ch cause tick : Nat) : (owdCount s ch cause tick).now = s.now := by
  unfold owdCount raiseChan
  split
  · rw [State.bump_now, raiseAt_now, State.bump_now]
  · rfl

theorem addFlag_now (s : State) (ch flag : Nat) (src : FSrc) (a b : Nat) : (addFlag s ch flag src a b).now = s.now := by
  unfold addFlag
  split <;> rfl

theorem pullSettle_now (s : State) (ch : Nat) : (pullSettle s ch).now = s.now := by
  have hdeclare : (pullDeclare s ch).now = s.now := by
    unfold pullDeclare
    split
    · exact owdCount_now _ _ _ _
    · rfl
  have hrelease (t : State) : (pullRelease t ch).now = t.now := by
    unfold pullRelease
    split
    · exact addFlag_now _ _ _ _ _ _
    · rfl
  exact (hrelease _).trans hdeclare

theorem channels_le (v : Variant) : Config.channels v ≤ 384 := by cases v <;> decide

/-- Settles O11: by what each detector does when its detection takes effect. -/
theorem overloadAndOpenWireDetectorsAct : Obligations.OverloadAndOpenWireDetectorsAct := by
  unfold Obligations.OverloadAndOpenWireDetectorsAct
  refine ⟨?onset, ?resetEnd, ?release, ?spare, ?phase, ?declare, ?pullRelease, ?rail, ?railRelease⟩
  case onset =>
    intro s ch start neg ds hch hdue
    obtain ⟨hsame, hopen, hcount⟩ := ovlPerform_onset start neg hch (find_modChan s ch _)
    exact ⟨_, congrArg Host.Outcome.next (ovlStep_performs hdue rfl), by rw [hsame.ovl], hopen, hcount⟩
  case resetEnd =>
    intro s ch tick ds hdue
    refine ⟨_, congrArg Host.Outcome.next (ovlStep_performs hdue rfl), ?_, rfl⟩
    show (State.chan (State.modChan _ _ _) ch).ovl.due = ds
    rw [State.modChan_same]
  case release =>
    intro s ch tick ds hdue
    obtain ⟨hsame, hpos, hneg, hregs⟩ :=
      ovlPerform_release (s.modChan ch (fun c => { c with ovl := { c.ovl with due := ds } })) ch tick
    exact ⟨_, congrArg Host.Outcome.next (ovlStep_performs hdue rfl), by rw [hsame.ovl, State.modChan_same], hpos, hneg, hregs⟩
  case spare =>
    intro s cell due hdue hnow
    refine ⟨s.modCell cell (fun c => { c with spareDue := none }), ?_, by rw [State.modCell_same], rfl⟩
    show execSpareResetEnd cell s = _
    unfold execSpareResetEnd
    rw [hdue]
    exact if_pos hnow
  case phase =>
    intro s cell microvolts hpull hcell hhalf hlen hswitch
    refine ⟨_, if_pos ⟨hpull, hcell, hhalf, hlen, hswitch⟩, by rw [State.modCell_same], ?_⟩
    rw [State.modCell_same]
    refine congrArg some ?_
    split
    · refine List.foldlRecOn (motive := fun v => State.now v = s.now) _ _ rfl fun v hv n _ => ?_
      exact (State.modChan_now _ _ _).trans ((pullSettle_now v n).trans hv)
    · rfl
  case declare =>
    intro s ch start due hch hdue
    obtain ⟨hsame, hopen, hcount⟩ := owdOpened .pull 1 start due hch (find_modChan s ch (fun c =>
      { c with pull := { c.pull with declareDue := none, on := true } }))
    refine ⟨_, ?_, by rw [hsame.pull], by rw [hsame.pull], hopen, hcount⟩
    show Host.Outcome.next (pullDeclare s ch) = _
    unfold pullDeclare
    rw [hdue]
  case pullRelease =>
    intro s ch due hon hdue
    obtain ⟨hsame, hclosed, hregs⟩ := owdClosed (s.modChan ch (fun c =>
      { c with pull := { c.pull with releaseDue := none, on := false } })) ch .pull due
    rw [State.modChan_same] at hsame
    refine ⟨_, (if_pos hon).trans ?_, by rw [hsame.pull], by rw [hsame.pull], hclosed, hregs⟩
    unfold pullRelease
    rw [hdue]
  case rail =>
    intro s ch run hch hrun hoff hdue
    have hsmall := Nat.lt_of_lt_of_le hch (channels_le _)
    obtain ⟨hsame, hopen, hcount⟩ := owdOpened .rail 2 run.tick run.tick hsmall (find_modChan s ch (fun c => { c with rail := true }))
    exact ⟨_, if_pos ⟨hch, hrun, hoff, hdue⟩, by rw [hsame.rail], hopen, hcount⟩
  case railRelease =>
    intro s ch run hch hrun hon hdue
    obtain ⟨hsame, hclosed, hregs⟩ := owdClosed (s.modChan ch (fun c => { c with rail := false })) ch .rail run.tick
    rw [State.modChan_same] at hsame
    exact ⟨_, if_pos ⟨hch, hrun, hon, hdue⟩, by rw [hsame.rail], hclosed, hregs⟩

/-! Clamps. -/

theorem openFlag_frame (s : State) (ch flag : Nat) (src : FSrc) (start : Nat) : TouchFrame s (openFlag s ch flag src start) := rfl

theorem closeFlag_frame (s : State) (ch flag : Nat) (src : FSrc) (stop : Nat) : TouchFrame s (closeFlag s ch flag src stop) := rfl

theorem setTail_frame (s : State) (ch t : Nat) : TouchFrame s (setTail s ch t) := addFlag_frame ..

/-- The entries of a clamp's onset, with its event. -/
def clampNoted (s : State) (term t : Nat) : State :=
  let c := term / 32
  let s := s.setNum .routeStatus c 1 (setBit (s.nat .routeStatus c 1) (term % 32) : Nat)
  let s := s.setNum .routeStatus c 2 (setBit (s.nat .routeStatus c 2) (term % 32) : Nat)
  raiseAt (s.bump .routeStatus c 3 1) 44 1 (c * 256 + term % 32) t

/-- Beyond its entries and event, an onset lists the clamp in its cell and opens intervals on the channels. -/
theorem clampOn_frame (s : State) (term t : Nat) :
    ∃ f, TouchFrame ((clampNoted s term t).modCell (term / 32) f) (clampOn s term t) := by
  refine ⟨_, TouchFrame.onChans _ _ fun v n => ?_⟩
  split
  · exact openFlag_frame _ _ _ _ _
  · exact openFlag_frame _ _ _ _ _

/-- A release clears the active bit, ends the clamp in its cell and closes intervals on the channels. -/
theorem clampOff_frame (s : State) (term t : Nat) : ∃ f, TouchFrame ((s.setNum .routeStatus (term / 32) 1
    (clearBit (s.nat .routeStatus (term / 32) 1) (term % 32) : Nat)).modCell (term / 32) f) (clampOff s term t) := by
  refine ⟨_, TouchFrame.onChans _ _ fun v n => ?_⟩
  split
  · exact (closeFlag_frame _ _ _ _ _).trans (setTail_frame _ _ _)
  · exact closeFlag_frame _ _ _ _ _

theorem routeStatus_size {term : Nat} (h : term / 32 < Config.cells s.variant) : term / 32 < Obj.size .routeStatus :=
  Nat.lt_of_lt_of_le h (cells_le _)

theorem clampIsland (s : State) (term : Nat) : islandOf s 44 (term / 32 * 256 + term % 32) = term / 32 := by
  show (term / 32 * 256 + term % 32) / 256 = term / 32
  omega

/-- An onset sets the active and the latched bit, is counted, and stands in the cell's events queue when that takes it. -/
theorem clampNoted_shows {term : Nat} (t : Nat) (hterm : term / 32 < Config.cells s.variant) :
    let v := clampNoted s term t
    bit (v.nat .routeStatus (term / 32) 1) (term % 32) = true ∧ bit (v.nat .routeStatus (term / 32) 2) (term % 32) = true ∧
      Counted s v .routeStatus (term / 32) 3 1 ∧
      (s.canRaise (term / 32) → Raised s v (term / 32) ⟨44, 1, term / 32 * 256 + term % 32, t⟩) := by
  have hsize := routeStatus_size hterm
  have hcells := cells_le s.variant
  have hisland := clampIsland
  have hlow : term % 32 < 32 := Nat.mod_lt _ (by decide)
  have hty1 : entryTy .routeStatus (term / 32) 1 = .u32 := rfl
  have hty2 : entryTy .routeStatus (term / 32) 2 = .u32 := rfl
  have hkeep (v : State) {sub : Nat} (hsub : sub < 256) : (raiseAt v 44 1 (term / 32 * 256 + term % 32) t).num .routeStatus
      (term / 32) sub = v.num .routeStatus (term / 32) sub :=
    raiseAt_num _ _ (by rw [hisland]; omega) (by decide) hsize hsub
  unfold clampNoted
  dsimp only
  refine ⟨?active, ?latched, ?count, fun hroom => ?event⟩
  case active =>
    rw [State.nat, hkeep _ (by decide), State.bump, num_setNum_sub _ _ _ (by decide), num_setNum_sub _ _ _ (by decide),
      num_setNum_same, hty1, bit_narrow32 _ hlow, bit_setBit]
  case latched =>
    rw [State.nat, hkeep _ (by decide), State.bump, num_setNum_sub _ _ _ (by decide), num_setNum_same, hty2,
      bit_narrow32 _ hlow, bit_setBit]
  case count =>
    rw [Counted, hkeep _ (by decide), num_bump_same, num_setNum_sub _ _ _ (by decide), num_setNum_sub _ _ _ (by decide)]
  case event =>
    have hraised := fun v hv => raiseAt_room v 44 1 (term / 32 * 256 + term % 32) t rfl hv
    simp only [hisland] at hraised
    exact hraised (State.bump _ _ _ _ _) hroom

/-! Excitation units. -/

theorem excBits_le (s : State) (unit : ExcUnit) : excBits s unit ≤ 10 := by
  unfold excBits
  dsimp only
  split <;> decide

/-- An excitation unit's regulation state as it enters. -/
theorem excEnter_state (unit : ExcUnit) (t conditions : Nat) (hunit : s.hasExc unit = true) :
    (excEnter s unit t conditions).num (excObj unit).1 (excObj unit).2 (excStateSub unit) =
      (1 + (conditions &&& excBits s unit) : Nat) ∧
    ((excObj unit).1 = .driver → Counted s (excEnter s unit t conditions) .driver (excObj unit).2 8 1) := by
  have hbits : conditions &&& excBits s unit ≤ 10 := Nat.le_trans Nat.and_le_right (excBits_le s unit)
  have hopen (v : State) : TouchFrame v (onChans v (associated v unit) (fun s n => openFlag s n fEXC (.excitation (excId unit)) t)) :=
    TouchFrame.onChans _ _ fun v n => openFlag_frame _ _ _ _ _
  have hnarrow : Ty.u8.narrow (1 + (conditions &&& excBits s unit) : Nat) = (1 + (conditions &&& excBits s unit) : Nat) :=
    narrowU_of_lt (by omega) (by omega)
  cases unit with
  | driver c k =>
    refine ⟨?_, fun _ => ?_⟩
    · refine ((hopen _).num _ _ _).trans ?_
      dsimp only [excObj, excPlace, excStateSub]
      rw [raiseAt_num_sub _ _ _ _ _ (by decide) (by decide), State.bump, num_setNum_sub _ _ _ (by decide), num_setNum_same]
      exact hnarrow
    · refine ((hopen _).num _ _ _).trans ?_
      dsimp only [excObj, excPlace, excStateSub]
      rw [raiseAt_num_sub _ _ _ _ _ (by decide) (by decide), num_bump_same, num_setNum_sub _ _ _ (by decide)]
  | bias c j =>
    refine ⟨?_, fun h => absurd (show Obj.bias = .driver from h) (by decide)⟩
    refine ((hopen _).num _ _ _).trans ?_
    dsimp only [excObj, excPlace, excStateSub]
    rw [raiseAt_num_sub _ _ _ _ _ (by decide) (by decide), num_setNum_same]
    exact hnarrow

theorem excLeave_state (s : State) (unit : ExcUnit) (t : Nat) :
    (excLeave s unit t).num (excObj unit).1 (excObj unit).2 (excStateSub unit) = 0 ∧
      Sparse.find (excLeave s unit t).excLeft (excId unit) = some t ∧ (excLeave s unit t).queues = s.queues := by
  have hclose (v : State) (chs : List Nat) (stop : State → Nat → Nat) : TouchFrame v (onChans v chs (fun s n =>
      closeFlag s n fEXC (.excitation (excId unit)) (stop s n))) :=
    TouchFrame.onChans _ _ fun v n => closeFlag_frame _ _ _ _ _
  refine ⟨?_, ?_, ?_⟩
  · refine ((hclose _ _ _).num _ _ _).trans ?_
    refine (num_setNum_same s _ _ _ _).trans ?_
    cases unit <;> rfl
  · rw [show (excLeave s unit t).excLeft = _ from (hclose _ _ _).excLeft]
    exact Sparse.find_put_same _ _ _
  · exact (hclose _ _ _).queues

/-- Settles O10: by what a clamp and an excitation unit leave as they come and go. -/
theorem clampsSwitchesAndExcitationAct : Obligations.ClampsSwitchesAndExcitationAct := by
  unfold Obligations.ClampsSwitchesAndExcitationAct
  refine ⟨?close, ?onset, ?release, ?latched, ?enter, ?leave⟩
  case close =>
    intro s cell hcell
    exact ⟨_, if_pos hcell, by rw [State.modCell_same], rfl⟩
  case onset =>
    intro s term hterm hclear hroom
    obtain ⟨f, hframe⟩ := clampOn_frame s term s.now
    obtain ⟨hactive, hlatched, hcount, hevent⟩ := clampNoted_shows s.now hterm
    have hnum (sub : Nat) : (clampOn s term s.now).num .routeStatus (term / 32) sub =
        (clampNoted s term s.now).num .routeStatus (term / 32) sub := (hframe.num _ _ _).trans (State.modCell_num ..)
    refine ⟨clampOn s term s.now, if_pos ⟨hterm, hclear⟩, ?_, ?_, ?_, ?_⟩
    · exact (congrArg (bit · (term % 32)) (congrArg Int.toNat (hnum 1))).trans hactive
    · exact (congrArg (bit · (term % 32)) (congrArg Int.toNat (hnum 2))).trans hlatched
    · exact (hnum 3).trans hcount
    · have hqueue : (clampOn s term s.now).queue (162 + term / 32) = (clampNoted s term s.now).queue (162 + term / 32) := by
        rw [State.queue, hframe.queues, State.modCell_queues]
        rfl
      rw [Raised, hqueue]
      exact hevent hroom
  case release =>
    intro s term tick hterm hset hdue
    have hlow : term % 32 < 32 := Nat.mod_lt _ (by decide)
    have hty : entryTy .routeStatus (term / 32) 1 = .u32 := rfl
    obtain ⟨f, hframe⟩ := clampOff_frame s term tick
    refine ⟨clampOff s term tick, if_pos ⟨hterm, hset, hdue⟩, ?_, ?_, hframe.queues⟩
    · rw [State.nat, hframe.num, State.modCell_num, num_setNum_same, hty, bit_narrow32 _ hlow, bit_clearBit]
    · rw [hframe.num, State.modCell_num, num_setNum_sub _ _ _ (by decide)]
  case latched =>
    intro s ses cell bs hs hreset hcell hlen hlt
    have hsize : cell < Obj.size .routeStatus := Nat.lt_of_lt_of_le hcell (cells_le _)
    have hok : Accepted s ses .routeStatus cell 2 _ bs (leNat bs) := ⟨hs, hsize, has_of_present hsize (decide_eq_true hcell),
      ⟨rfl, by decide⟩, ⟨bne_eq_false_iff_eq.2 hlen, rfl⟩, rfl, rfl, rfl⟩
    refine ⟨_, congrArg Host.Outcome.next (hok.volatile rfl rfl hreset), rfl, ?_⟩
    rw [State.nat, answer_num _ _ (by decide) hsize (by decide), clearBits, num_setNum_same]
    have hnarrow : Ty.u32.narrow (s.nat .routeStatus cell 2 - (s.nat .routeStatus cell 2 &&& leNat bs) : Nat) =
        (s.nat .routeStatus cell 2 - (s.nat .routeStatus cell 2 &&& leNat bs) : Nat) := narrowU_of_lt (by omega) (by omega)
    exact congrArg Int.toNat hnarrow
  case enter =>
    intro s unit tick conditions hunit hon hclear hsettled hdue hcond
    exact ⟨_, if_pos ⟨hunit, hon, hclear, hsettled, hdue, hcond⟩, excEnter_state unit tick conditions hunit⟩
  case leave =>
    intro s unit tick hunit hset hdue hclamps
    exact ⟨_, if_pos ⟨hunit, hset, hdue, hclamps⟩, excLeave_state s unit tick⟩

end Sys2Proof.Machine
end

section
/-! PROOFS. The writes to the local clock (R203 to R207), and the references, power modes, claims, scans and requests of the auxiliary
converter (R109 to R114, R135, R136, R141 to R153). -/

namespace Sys2Proof.Machine

open Sys2Proof

variable {s t : State} {ses : Nat} {bs : Bytes}

/-! The local clock. -/

/-- A number written to one entry of the local clock, of a value that its range takes. -/
theorem localClock_accepted {sub : Nat} {e : Entry} {n : Int} (hs : s.serves ses) (he : Plain .localClock 0 sub e)
    (hfit : Fits e bs) (hvalue : (if e.ty.isBytes then 0 else e.ty.decode bs) = n)
    (hfield : fieldCheck s .localClock 0 sub n bs = none) : Accepted s ses .localClock 0 sub e bs n :=
  ⟨hs, by decide, rfl, he, hfit, hvalue, rfl, hfield⟩

theorem increment_accepted (hs : s.serves ses) (hlen : bs.length = 8) :
    Accepted s ses .localClock 0 2 ⟨2, 2, "Increment", .u64, .rw, false, .num 174762666667, .any⟩ bs (leNat bs) :=
  localClock_accepted hs ⟨rfl, by decide⟩ ⟨bne_eq_false_iff_eq.2 hlen, rfl⟩ rfl rfl

theorem step_accepted (hs : s.serves ses) (hlen : bs.length = 8) :
    Accepted s ses .localClock 0 5 ⟨5, 5, "Step (ns)", .i64, .wo, false, .calc, .any⟩ bs (Ty.decode .i64 bs) :=
  localClock_accepted hs ⟨rfl, by decide⟩ ⟨bne_eq_false_iff_eq.2 hlen, rfl⟩ rfl rfl

/-- The range of the rate adjustment. -/
theorem rate_field (s : State) (bs : Bytes) (n : Int) : fieldCheck s .localClock 0 6 n bs =
    if -100000000 ≤ n ∧ n ≤ 100000000 then none else some .outOfRange := by
  have hentry : Obj.entry .localClock 0 6 =
      some ⟨6, 6, "Rate adjustment (0.01 ppb)", .i32, .rw, false, .num 0, .rng (-100000000) 100000000⟩ := rfl
  have hout : outside (-100000000) 100000000 n = !decide (-100000000 ≤ n ∧ n ≤ 100000000) := by
    unfold outside
    rw [Bool.eq_iff_iff]
    simp
  unfold fieldCheck
  by_cases h : -100000000 ≤ n ∧ n ≤ 100000000
  · simp only [hentry, hout, h, and_self, decide_true, Bool.not_true, Bool.not_false, if_true]
  · simp only [hentry, hout, h, decide_false, Bool.not_false, Bool.not_true, Bool.false_eq_true, if_false]

/-- The range of the servo owner and of the correction mode. -/
theorem smallRange_field (s : State) (sub : Nat) (hsub : sub = 3 ∨ sub = 4) {m : Nat} (hm : m ≤ 1) (bs : Bytes) :
    fieldCheck s .localClock 0 sub m bs = none := by
  have hin : outside 0 1 (m : Int) = false := by
    unfold outside
    simp
    omega
  have hentry3 : Obj.entry .localClock 0 3 = some ⟨3, 3, "Servo owner", .u8, .rw, true, .num 0, .rng 0 1⟩ := rfl
  have hentry4 : Obj.entry .localClock 0 4 = some ⟨4, 4, "Correction mode", .u8, .rw, false, .num 1, .rng 0 1⟩ := rfl
  unfold fieldCheck
  rcases hsub with rfl | rfl
  · simp only [hentry3, hin, Bool.not_false, if_true]
  · simp only [hentry4, hin, Bool.not_false, if_true]

/-- The increment of a rate within its range is a number of its entry. -/
theorem rateIncrement_bounds {r : Int} (hlo : -100000000 ≤ r) (hhi : r ≤ 100000000) :
    0 ≤ rateIncrement r ∧ rateIncrement r < 2 ^ 64 := by
  unfold rateIncrement roundHalfAway
  have hpos : 0 ≤ 15625 * (100000000000 + r) * 2 ^ 32 := by omega
  rw [if_pos hpos]
  constructor
  · exact Int.ediv_nonneg (by omega) (by omega)
  · exact Int.ediv_lt_of_lt_mul (by omega) (by omega)

/-- The entries that time pulses made late change: their counts of late pulses, and the peaks of the queues. -/
def LateKey (k : Nat) : Prop := PeakKey k ∨ ∃ p, p < 8 ∧ k = entryKey .tpo p 13

/-- `t` differs from `s` in those entries alone, and in no clock. -/
def LateFrame (s t : State) : Prop := EntryFrame LateKey s t ∧ t.clk = s.clk ∧ t.power = s.power

theorem LateFrame.trans {v : State} (h : LateFrame s t) (g : LateFrame t v) : LateFrame s v :=
  ⟨h.1.trans g.1, g.2.1.trans h.2.1, g.2.2.trans h.2.2⟩

theorem tpoLate_frame (s : State) {p : Nat} (n : Nat) (hp : p < 8) : LateFrame s (tpoLate s p n) := by
  unfold tpoLate
  split
  · exact ⟨.refl _ s, rfl, rfl⟩
  · exact ⟨(EntryFrame.bump s n (.inr ⟨p, hp, rfl⟩)).trans (.raise _ _ _ _ fun _ => .inl), by simp, by simp⟩

theorem not_lateKey_localClock {sub : Nat} (hsub : sub < 256) (h3 : sub ≠ 3) : ¬ LateKey (entryKey .localClock 0 sub) := by
  rintro (h | ⟨p, hp, h⟩)
  · exact not_peakKey_of_sub hsub h3 _ _ h
  · exact entryKey_obj_ne (by decide) (by decide) (show p < Obj.size .tpo from hp) hsub (by decide) h

/-- A step moves the clock, is counted, and leaves the rest of the clock but for its marks. -/
theorem stepClock_steps (s : State) (n : Int) :
    (stepClock s n).clk = { (markClock s).clk with local_ := s.clk.local_ + (n : Rat) } ∧
      Counted s (stepClock s n) .localClock 0 10 1 ∧ (stepClock s n).power = s.power := by
  unfold stepClock
  dsimp only
  generalize hraised : raise _ 52 1 _ = v
  have hv : v.clk = { (markClock s).clk with local_ := s.clk.local_ + (n : Rat) } ∧
      v.num .localClock 0 10 = (entryTy .localClock 0 10).narrow (s.num .localClock 0 10 + (1 : Nat)) ∧ v.power = s.power := by
    rw [← hraised]
    refine ⟨?_, ?_, ?_⟩
    · rw [raise_clk, State.bump_clk]
      rfl
    · rw [raise_num_sub _ _ _ _ (by decide) (by decide), num_bump_same]
      rfl
    · rw [raise_power, State.bump_power]
      rfl
  obtain ⟨hclk, hnum, hpower⟩ := hv
  split
  · exact ⟨hclk, hnum, hpower⟩
  · have hkept (w : State) (h : LateFrame v w) :
        w.clk = { (markClock s).clk with local_ := s.clk.local_ + (n : Rat) } ∧ Counted s w .localClock 0 10 1 ∧
          w.power = s.power :=
      have ⟨hframe, hc, hp⟩ := h
      ⟨hc.trans hclk, (hframe.num (not_lateKey_localClock (by decide) (by decide))).trans hnum, hp.trans hpower⟩
    refine hkept _ (List.foldlRecOn (motive := LateFrame v) (List.range 8) _ ⟨.refl _ v, rfl, rfl⟩ fun w hw p hmem => ?_)
    have hmoved (k : Nat) (f : TpoSt → TpoSt) : LateFrame v ((tpoLate w p k).modTpo p f) :=
      (hw.trans (tpoLate_frame w k (List.mem_range.1 hmem))).trans ⟨.of_eq rfl rfl rfl, rfl, rfl⟩
    split
    · exact iteInduction (fun _ => iteInduction (fun _ => hw) fun _ => hmoved _ _) fun _ => hw
    · exact hw

/-- A write of the local clock whose action refuses it changes no clock and leaves the increment. -/
theorem localClock_refused {sub : Nat} {e : Entry} {n : Int} (hok : Accepted s ses .localClock 0 sub e bs n)
    (hreset : s.power.inReset = false) (hact : writeAction s ses .localClock 0 sub n bs = (s, .outOfRange)) :
    (serveObj s ses .localClock 0 sub bs).ans = .outOfRange ∧ (serveObj s ses .localClock 0 sub bs).clk = s.clk ∧
      (serveObj s ses .localClock 0 sub bs).num .localClock 0 2 = s.num .localClock 0 2 := by
  rw [hok.refused hact (by decide) hreset]
  exact ⟨rfl, rfl, answer_num _ _ (by decide) (by decide) (by decide)⟩

/-- A rate adjustment outside its range, or when it may not be written, is out of range. -/
theorem rate_refused (hs : s.serves ses) (hreset : s.power.inReset = false) (hlen : bs.length = 4)
    (hmode : s.nat .localClock 0 3 ≠ 1 ∨ s.nat .localClock 0 4 ≠ 1) :
    serveObj s ses .localClock 0 6 bs = answer s .outOfRange := by
  have hplain : Plain .localClock 0 6 ⟨6, 6, "Rate adjustment (0.01 ppb)", .i32, .rw, false, .num 0, .rng (-100000000) 100000000⟩ :=
    ⟨rfl, by decide⟩
  by_cases hin : -100000000 ≤ Ty.decode .i32 bs ∧ Ty.decode .i32 bs ≤ 100000000
  · have hok := localClock_accepted hs hplain ⟨bne_eq_false_iff_eq.2 hlen, rfl⟩ rfl ((rate_field s bs _).trans (if_pos hin))
    exact hok.refused (if_neg (by rintro ⟨h3, h4⟩; exact hmode.elim (· h3) (· h4))) (by decide) hreset
  · exact serveObj_refused hs (by decide) rfl hplain ⟨bne_eq_false_iff_eq.2 hlen, rfl⟩ hreset
      (.inr ⟨rfl, (rate_field s bs _).trans (if_neg hin)⟩)

/-- A write of the correction mode sets it. -/
theorem setMode_num (s : State) {m : Nat} (hm : m ≤ 1) : (setMode s m).num .localClock 0 4 = m ∧ (setMode s m).power = s.power := by
  have hnarrow : Ty.u8.narrow m = m := narrowU_of_lt (by omega) (by omega)
  unfold setMode
  dsimp only
  split
  · exact ⟨(num_setNum_same s _ _ _ _).trans hnarrow, rfl⟩
  · exact ⟨(num_setNum_same s _ _ _ _).trans hnarrow, rfl⟩

/-- Settles O15: each write acts, or is refused, as the mode and the owner say. -/
theorem localClockWritesFollowTheCorrectionMode : Obligations.LocalClockWritesFollowTheCorrectionMode := by
  unfold Obligations.LocalClockWritesFollowTheCorrectionMode
  refine ⟨?increment, ?noIncrement, ?noRate, ?noStep, ?rate, ?step, ?mode, ?owner⟩
  case increment =>
    intro s ses bs hs hreset hlen howner hmode
    have hlt := leNat_lt bs
    rw [hlen] at hlt
    have hact : writeAction s ses .localClock 0 2 (leNat bs) bs = ((markClock s).setNum .localClock 0 2 (leNat bs), .success) :=
      if_pos ⟨howner, hmode⟩
    refine ⟨_, congrArg Host.Outcome.next ((increment_accepted hs hlen).volatile rfl hact hreset), rfl, ?_⟩
    rw [answer_num _ _ (by decide) (by decide) (by decide), num_setNum_same]
    exact narrowU_of_lt (by omega) (by omega)
  case noIncrement =>
    intro s ses bs hs hreset hlen hmode
    exact ⟨_, rfl, localClock_refused (increment_accepted hs hlen) hreset
      (if_neg (by rintro ⟨h3, h4⟩; exact hmode.elim (· h3) (· h4)))⟩
  case noRate =>
    intro s ses bs hs hreset hlen hmode
    exact ⟨_, congrArg Host.Outcome.next (rate_refused hs hreset hlen hmode), rfl, rfl,
      answer_num _ _ (by decide) (by decide) (by decide)⟩
  case noStep =>
    intro s ses bs hs hreset hlen hmode
    have hno : ¬ (s.nat .localClock 0 3 = 1 ∧ s.nat .localClock 0 4 = 1 ∧ s.clk.stepDone = false) := by
      rintro ⟨h3, h4, hdone⟩
      rcases hmode with h | h | h
      · exact h h3
      · exact h h4
      · exact absurd (hdone.symm.trans h) (by decide)
    obtain ⟨hans, hclk, -⟩ := localClock_refused (step_accepted hs hlen) hreset (if_neg hno)
    exact ⟨_, rfl, hans, hclk⟩
  case rate =>
    intro s ses bs hs hreset hlen hlo hhi howner hmode
    have hok := localClock_accepted hs (sub := 6) ⟨rfl, by decide⟩ ⟨bne_eq_false_iff_eq.2 hlen, rfl⟩ rfl
      ((rate_field s bs _).trans (if_pos ⟨hlo, hhi⟩))
    have hact : writeAction s ses .localClock 0 6 (Ty.decode .i32 bs) bs = (setRate s (Ty.decode .i32 bs), .success) :=
      if_pos ⟨howner, hmode⟩
    obtain ⟨hnonneg, hlt⟩ := rateIncrement_bounds hlo hhi
    have hwrap : Ty.i32.narrow (Ty.decode .i32 bs) = Ty.decode .i32 bs := by
      show wrapS 32 _ = _
      unfold wrapS
      omega
    refine ⟨_, congrArg Host.Outcome.next (hok.volatile rfl hact hreset), rfl, ?_, ?_⟩
    · rw [answer_num _ _ (by decide) (by decide) (by decide), setRate, num_setNum_sub _ _ _ (by decide), num_setNum_same]
      exact hwrap
    · rw [answer_num _ _ (by decide) (by decide) (by decide), setRate, num_setNum_same]
      exact narrowU_of_lt hnonneg hlt
  case step =>
    intro s ses bs hs hreset hlen howner hmode hdone
    have hact : writeAction s ses .localClock 0 5 (Ty.decode .i64 bs) bs =
        ((stepClock s (Ty.decode .i64 bs)).modClk (fun c => { c with stepDone := true }), .success) :=
      if_pos ⟨howner, hmode, hdone⟩
    obtain ⟨hclk, hcount, hpower⟩ := stepClock_steps s (Ty.decode .i64 bs)
    have hserved := (step_accepted hs hlen).volatile rfl hact ((congrArg PowerSt.inReset hpower).trans hreset)
    refine ⟨_, congrArg Host.Outcome.next hserved, rfl, ?_, rfl, ?_⟩
    · exact congrArg ClkSt.local_ hclk
    · rw [Counted, answer_num _ _ (by decide) (by decide) (by decide), State.modClk_num]
      exact hcount
  case mode =>
    intro s ses m hs hreset hm
    obtain ⟨hnum, hpower⟩ := setMode_num s hm
    have hmode : leNat (leBytes 1 m) = m := by rw [leNat_leBytes]; omega
    have hok : Accepted s ses .localClock 0 4 _ (leBytes 1 m) m := localClock_accepted hs ⟨rfl, by decide⟩ ⟨rfl, rfl⟩
      (congrArg Int.ofNat hmode) (smallRange_field s 4 (.inr rfl) hm _)
    have hserved := hok.volatile rfl rfl ((congrArg PowerSt.inReset hpower).trans hreset)
    exact ⟨_, congrArg Host.Outcome.next hserved, rfl, (answer_num _ _ (by decide) (by decide) (by decide)).trans hnum⟩
  case owner =>
    intro s ses m hs hreset hm
    have howner : leNat (leBytes 1 m) = m := by rw [leNat_leBytes]; omega
    have hok : Accepted s ses .localClock 0 3 _ (leBytes 1 m) m := localClock_accepted hs ⟨rfl, by decide⟩ ⟨rfl, rfl⟩
      (congrArg Int.ofNat howner) (smallRange_field s 3 (.inl rfl) hm _)
    have hserved := hok.retained (t := s.setNum .localClock 0 3 m) rfl hreset
    refine ⟨_, congrArg Host.Outcome.next hserved, rfl, ?_, ?_⟩
    · rw [answer_num _ _ (by decide) (by decide) (by decide), noteRetained_num _ _ _ _ _ _ _ (by decide), num_setNum_same]
      exact narrowU_of_lt (by omega) (by omega)
    · rw [Counted, answer_num _ _ (by decide) (by decide) (by decide)]
      exact (num_bump_same _ _ _ _ _).trans (by rw [num_setNum_ne _ (by decide)])

end Sys2Proof.Machine
end

section
/-! PROOFS. References, power modes and the auxiliary converter (R109 to R114, R135, R136, R141 to R153). -/

namespace Sys2Proof.Machine

open Sys2Proof

variable {s t : State} {ses : Nat} {bs : Bytes}

/-! A cell's reference and power mode. -/

theorem windowsRestart_frame (s : State) (cell t : Nat) : TouchFrame s (windowsRestart s cell t) :=
  List.foldlRecOn (List.range 17) _ (TouchFrame.refl s) fun v hv m _ => hv.trans (show TouchFrame v (windowRestart v cell m t) from rfl)

theorem TouchFrame.cells (h : TouchFrame s t) : t.cells = s.cells := by
  unfold TouchFrame at h
  rw [← h]

theorem TouchFrame.cell (h : TouchFrame s t) (c : Nat) : t.cell c = s.cell c := by
  unfold State.cell
  rw [h.cells]

/-- A reference that is lost clears its ready bit, and changes nothing else of its cell. -/
theorem refLost_frame (s : State) (cell t : Nat) : TouchFrame (s.setNum .refPower cell 3
    (clearBit (s.nat .refPower cell 3) 1 : Nat)) (refLost s cell t) := by
  refine (windowsRestart_frame _ cell t).trans (TouchFrame.onChans _ _ fun v n => ?_)
  split
  · exact .refl v
  · exact openFlag_frame _ _ _ _ _

/-- A switch of the power mode shows the modulator clock and ends the wait. -/
theorem modeSwitch_shows (s : State) (cell t mode : Nat) : (modeSwitch s cell t mode).num .refPower cell 4 =
    (if mode = 1 then 3072 else 6144) ∧ ((modeSwitch s cell t mode).cell cell).modeDue = none := by
  have hclock : Ty.u16.narrow ((if mode = 1 then 3072 else 6144 : Nat) : Int) = if mode = 1 then 3072 else 6144 := by
    split <;> rfl
  unfold modeSwitch
  dsimp only
  generalize hswitched : onChans _ (chansOf cell) _ = v
  have hframe := (TouchFrame.onChans (State.modCell (s.setNum .refPower cell 4 (if mode = 1 then 3072 else 6144 : Nat)) cell
    (fun c => { c with modeDue := none, modes := if s.nat .refPower cell 4 = (if mode = 1 then 3072 else 6144) then c.modes
               else ((t, mode) :: (if c.modes = [] then [(0, if s.nat .refPower cell 4 = 3072 then 1 else 0)] else c.modes)).take 64 }))
    (chansOf cell) fun v n => closeFlag_frame v n fSET .powerMode (t + 2 * v.settleTicks n t + v.holdTicks n))
  rw [hswitched] at hframe
  have hnum : v.num .refPower cell 4 = if mode = 1 then 3072 else 6144 := by
    rw [hframe.num, State.modCell_num, num_setNum_same]
    exact hclock
  have hcell : (v.cell cell).modeDue = none := by rw [hframe.cell, State.modCell_same]
  refine iteInduction (motive := fun w : State => w.num .refPower cell 4 = (if mode = 1 then 3072 else 6144) ∧
    (w.cell cell).modeDue = none) (fun _ => ⟨hnum, hcell⟩) fun _ => ⟨?_, ?_⟩
  · rw [(refLost_frame _ _ _).num, num_setNum_sub _ _ _ (by decide), State.modCell_num, hnum]
  · rw [(refLost_frame _ _ _).cell, setNum_cell, State.modCell_same]
    exact hcell

theorem referenceReady_shows {cell due : Nat} (hdue : (s.cell cell).readyDue = some due) (hnow : due ≤ s.now) :
    ∃ t, exec (.referenceReady cell) s = .next t ∧ bit (t.nat .refPower cell 3) 1 = true ∧
      t.num .refPower cell 5 = ((due % 2 ^ 64 : Nat) : Int) ∧ (t.cell cell).readyDue = none ∧ t.queues = s.queues := by
  have hready := (windowsRestart_frame ((State.setNum (s.modCell cell (fun c => { c with readyDue := none })) .refPower cell 3
    (setBit (s.nat .refPower cell 3) 1 : Nat)).setNum .refPower cell 5 due) cell due).trans (TouchFrame.onChans _ (chansOf cell)
    fun v n => closeFlag_frame v n fSET .reference (due + v.settleTicks n due + v.holdTicks n))
  have hty : entryTy .refPower cell 3 = .u8 := rfl
  have hbit : bit (Ty.u8.narrow (setBit (s.nat .refPower cell 3) 1 : Nat)).toNat 1 = true := by
    have hmod (m : Nat) : (Ty.u8.narrow (m : Nat)).toNat = m % 2 ^ 8 := rfl
    rw [hmod, bit_eq_testBit, Nat.testBit_mod_two_pow, ← bit_eq_testBit, bit_setBit]
    rfl
  refine ⟨_, ?_, ?_, ?_, ?_, hready.queues⟩
  · show execReferenceReady cell s = _
    unfold execReferenceReady
    rw [hdue]
    exact if_pos hnow
  · rw [State.nat, hready.num, num_setNum_sub _ _ _ (by decide), num_setNum_same, hty, hbit]
  · rw [hready.num, num_setNum_same]
    rfl
  · rw [hready.cell, setNum_cell, setNum_cell, State.modCell_same]

/-! The auxiliary converter's record. -/

/-- `t` is `s` but for the auxiliary converter's record. -/
def AuxFrame (s t : State) : Prop := { t with aux := s.aux } = s

theorem AuxFrame.trans {v : State} (h : AuxFrame s t) (g : AuxFrame t v) : AuxFrame s v := by
  unfold AuxFrame at h g ⊢
  rw [← h, ← g]

theorem AuxFrame.regs (h : AuxFrame s t) : t.regs = s.regs := by
  unfold AuxFrame at h
  rw [← h]

theorem AuxFrame.num (h : AuxFrame s t) (o : Obj) (u sub : Nat) : t.num o u sub = s.num o u sub := by
  unfold AuxFrame at h
  rw [← h]
  rfl

theorem AuxFrame.power (h : AuxFrame s t) : t.power = s.power := by
  unfold AuxFrame at h
  rw [← h]

theorem AuxFrame.modAux (s : State) (f : AuxSt → AuxSt) : AuxFrame s (s.modAux f) := rfl

theorem interrupt_frame (s : State) (t : Nat) : AuxFrame s (interrupt s t) := by
  unfold interrupt
  repeat' split
  all_goals rfl

/-- An interruption only drops the first slot of the entry in progress. -/
theorem interrupt_aux (s : State) (t : Nat) : { (interrupt s t).aux with entryStart := s.aux.entryStart } = s.aux := by
  unfold interrupt
  repeat' split
  all_goals rfl

theorem claimTake_frame (s : State) (t : Nat) : AuxFrame s (claimTake s t) := by
  unfold claimTake
  split <;> rfl

/-- A claim that takes the converter begins its step, and changes nothing else of the record. -/
theorem claimTake_aux (s : State) (t : Nat) :
    { (claimTake s t).aux with claim := s.aux.claim, stepStart := s.aux.stepStart } = s.aux := by
  unfold claimTake
  split <;> rfl

theorem claimTake_claim (s : State) (t : Nat) : (claimTake s t).aux.claim = if claimFree s.aux then 2 else s.aux.claim := by
  unfold claimTake
  split <;> rfl

theorem resume_frame (s : State) (t : Nat) : AuxFrame s (resume s t) := by
  unfold resume
  split <;> rfl

theorem resume_aux (s : State) (t : Nat) : { (resume s t).aux with entryStart := s.aux.entryStart } = s.aux := by
  unfold resume
  split <;> rfl

theorem interrupt_claim (s : State) (t : Nat) : (interrupt s t).aux.claim = s.aux.claim ∧ (interrupt s t).aux.inj = s.aux.inj ∧
    (interrupt s t).aux.injRun = s.aux.injRun := by
  have h := interrupt_aux s t
  exact ⟨(congrArg AuxSt.claim h :), (congrArg AuxSt.inj h :), (congrArg AuxSt.injRun h :)⟩

/-! Claims of calibration. -/

/-- A claim of a converter not claimed takes it at once where no request runs or waits, and waits for those requests otherwise. -/
theorem auxClaim_claims (hclaim : s.aux.claim = 0) : AuxFrame s (auxClaim s) ∧
    (auxClaim s).aux.claim = (if s.aux.injRun = none ∧ s.aux.inj = [] then 2 else 1) ∧ (auxClaim s).aux.ahead = s.aux.inj.length ∧
    (auxClaim s).aux.inj = s.aux.inj := by
  unfold auxClaim
  rw [if_neg (by simp [hclaim])]
  obtain ⟨-, hinj, hrun⟩ := interrupt_claim s (slotAt s (s.now + 1))
  have hfree : claimFree ((interrupt s (slotAt s (s.now + 1))).modAux (fun a => { a with claim := 1, ahead := a.inj.length })).aux =
      decide (s.aux.injRun = none ∧ s.aux.inj = []) := by
    rw [State.modAux_aux]
    unfold claimFree
    dsimp only
    rw [hinj, hrun]
    cases s.aux.inj <;> simp
  have hkept := claimTake_aux ((interrupt s (slotAt s (s.now + 1))).modAux (fun a => { a with claim := 1, ahead := a.inj.length }))
    (slotAt s (s.now + 1))
  refine ⟨((interrupt_frame s _).trans (.modAux _ _)).trans (claimTake_frame _ _), ?_, ?_, ?_⟩
  · rw [claimTake_claim, hfree]
    simp only [decide_eq_true_eq]
    rfl
  · exact (congrArg AuxSt.ahead hkept :).trans (congrArg List.length hinj)
  · exact (congrArg AuxSt.inj hkept :).trans hinj

theorem exec_calibrationClaim (h : calWants (dropClaims s) = true) : exec .calibrationClaim s = .next (auxClaim (dropClaims s)) := by
  show Host.Outcome.next (if calWants (dropClaims s) then auxClaim (dropClaims s) else s) = _
  rw [h]
  rfl

/-- The end of the step of the last claim frees the converter. -/
theorem exec_calibrationStepEnd {c : Nat × Option Nat} (hclaim : s.aux.claim = 2) (hstart : s.aux.stepStart ≤ s.now)
    (hend : s.now ≤ s.aux.stepStart + calStep) (hclaims : s.aux.claims = [c]) : exec .calibrationStepEnd s = .next (resume
      (s.modAux (fun a => { a with
        claims := [], trimmed := a.trimmed ++ c.2.toList, claim := 0, injFree := max a.injFree s.now })) s.now) := by
  show execCalibrationStepEnd s = _
  unfold execCalibrationStepEnd
  rw [if_pos ⟨hclaim, hstart, hend⟩]
  have hnone : calWants (s.modAux (fun a => { a with claims := a.claims.drop 1, trimmed := a.trimmed ++ c.2.toList })) = false := by
    unfold calWants
    rw [State.modAux_aux, hclaims]
    rfl
  simp only [hclaims, List.head?_cons, Option.bind_some, hnone, if_true]
  unfold auxUnclaim
  rw [if_neg (by simp [hclaim])]
  simp only [State.modAux, hclaims, List.drop_succ_cons, List.drop_zero]

/-- Settles O12: by what becomes ready, switches, and is claimed. -/
theorem referencesPowerModesAndClaimsTakeEffect : Obligations.ReferencesPowerModesAndClaimsTakeEffect := by
  unfold Obligations.ReferencesPowerModesAndClaimsTakeEffect
  refine ⟨fun s cell due _ hdue hnow => referenceReady_shows hdue hnow, ?switch, ?auxReady, ?auxSwitch, ?claim, ?waits, ?stepEnd⟩
  case switch =>
    intro s cell due mode _ hdue hnow
    refine ⟨_, ?_, modeSwitch_shows s cell due mode⟩
    show execPowerModeSwitch cell s = _
    unfold execPowerModeSwitch
    rw [hdue]
    exact if_pos hnow
  case auxReady =>
    intro s due hdue hnow
    refine ⟨((s.setNum .aux 0 3 3).setNum .aux 0 10 due).modAux (fun a => { a with
      readyDue := none, notReady := s.aux.notReady.map (fun i => if i.2 = none then (i.1, some due) else i) }), ?_, ?_, ?_, rfl, rfl⟩
    · show execAuxReferenceReady s = _
      unfold execAuxReferenceReady
      rw [hdue]
      exact if_pos hnow
    · rw [State.modAux_num, num_setNum_sub _ _ _ (by decide), num_setNum_same]
      rfl
    · rw [State.modAux_num, num_setNum_same]
      rfl
  case auxSwitch =>
    intro s due m hdue hnow
    have hswitched : exec .auxPowerModeSwitch s = .next (
        let s' := s.modAux (fun a => { a with modeDue := none, sws := ((due, a.lowPower) :: a.sws).take 64, lowPower := m })
        if m = s.aux.lowPower then s.modAux (fun a => { a with modeDue := none })
        else if s.nat .aux 0 1 = 1 then auxRefTouch s' due
        else s') := by
      show Host.Outcome.next (auxSwitchDue s s.now) = _
      unfold auxSwitchDue
      rw [hdue]
      exact congrArg Host.Outcome.next (if_pos hnow)
    refine ⟨_, hswitched, ?_⟩
    dsimp only
    by_cases hsame : m = s.aux.lowPower
    · rw [if_pos hsame]
      exact ⟨rfl, hsame.symm, fun h => absurd hsame h, fun h => absurd hsame h⟩
    · rw [if_neg hsame]
      by_cases hon : s.nat .aux 0 1 = 1
      · rw [if_pos hon, auxRefTouch, State.modAux_nat, if_pos hon]
        exact ⟨rfl, rfl, fun _ => rfl, fun _ _ => rfl⟩
      · rw [if_neg hon]
        exact ⟨rfl, rfl, fun _ => rfl, fun _ h => absurd h hon⟩
  case claim =>
    intro s hwants hclaim hinj hrun
    obtain ⟨hframe, htaken, -, -⟩ := auxClaim_claims (s := dropClaims s) hclaim
    exact ⟨_, exec_calibrationClaim hwants, htaken.trans (if_pos ⟨hrun, hinj⟩), hframe.regs⟩
  case waits =>
    intro s hwants hclaim hbusy
    obtain ⟨hframe, htaken, hahead, hinj⟩ := auxClaim_claims (s := dropClaims s) hclaim
    refine ⟨_, exec_calibrationClaim hwants, htaken.trans (if_neg ?_), hahead, hinj, hframe.regs⟩
    rintro ⟨hrun, hempty⟩
    exact hbusy.elim (· hempty) (· hrun)
  case stepEnd =>
    intro s c hclaim hstart hend hclaims
    have hkept := resume_aux (s.modAux (fun a => { a with
      claims := [], trimmed := a.trimmed ++ c.2.toList, claim := 0, injFree := max a.injFree s.now })) s.now
    exact ⟨_, exec_calibrationStepEnd hclaim hstart hend hclaims, (congrArg AuxSt.claim hkept :),
      (congrArg AuxSt.claims hkept :), (congrArg AuxSt.trimmed hkept :), (resume_frame _ _).regs⟩

/-! Scans and their entries. -/

/-- A start of a scan at a tick not looked at yet. -/
theorem exec_auxScanStart (hseq : s.nat .aux 0 5 ≠ 0) (htick : s.now % scanPeriod s s.now = 0)
    (hlooked : s.aux.looked ≠ some s.now) : exec .auxScanStart s = (
      let s' := s.modAux (fun a => { a with looked := some s.now })
      if s.aux.claim ≠ 0 then .next (s'.bump .aux 0 9 1)
      else if s.aux.scan.isSome then .next (raise (s'.bump .aux 0 8 1) 50 1 0)
      else .next (s'.modAux (fun a => { a with scan := some s.now, entry := 1, seq := s'.auxSeqOf,
                                               entryStart := if slotFree s' then some (slotAt s' s.now) else none }))) :=
  if_pos ⟨hseq, htick, hlooked⟩

/-- The entry that completes is the regular one of the scan. -/
theorem exec_auxEntryComplete_regular {values : List Int} {start b : Nat} (hscan : s.aux.scan = some start)
    (hentry : s.aux.entryStart = some b) (hlen : values.length = 2 ^ aAvg (s.aux.seq.getD (s.aux.entry - 1) 0))
    (hend : entryEnd s (s.aux.seq.getD (s.aux.entry - 1) 0) b ≤ s.now) : exec (.auxEntryComplete values) s =
      .next (entryDone s start b (entryEnd s (s.aux.seq.getD (s.aux.entry - 1) 0) b) values) := by
  show execAuxEntryComplete values s = _
  unfold execAuxEntryComplete
  simp only [hscan, hentry, hlen, hend, and_self, if_true]

theorem exec_auxEntryComplete_request {values : List Int} {w b : Nat} (hscan : s.aux.scan = none)
    (hrun : s.aux.injRun = some (w, b)) (hlen : values.length = 2 ^ aAvg w) (hend : entryEnd s w b ≤ s.now) :
    exec (.auxEntryComplete values) s = .next (injDone s w b (entryEnd s w b) values) := by
  show execAuxEntryComplete values s = _
  unfold execAuxEntryComplete
  simp only [hscan, hrun, hlen, hend, and_self, if_true]

/-- A regular entry leaves its result word, and the scan goes on to the next entry or ends. -/
theorem entryDone_writes (start b e : Nat) (values : List Int) (h64 : s.aux.entry ≤ 64) :
    (entryDone s start b e values).num .auxRes 0 s.aux.entry = (entryTy .auxRes 0 s.aux.entry).narrow
        (auxResult s (s.aux.seq.getD (s.aux.entry - 1) 0) b s.aux.entry values false false : Nat) ∧
      (s.aux.seq.length ≤ s.aux.entry → (entryDone s start b e values).aux.scan = none ∧
        Counted s (entryDone s start b e values) .aux 0 6 1) ∧
      (s.aux.entry < s.aux.seq.length → (entryDone s start b e values).aux.entry = s.aux.entry + 1) := by
  have hres {sub : Nat} (hsub : sub < 256) : entryKey .auxRes 0 s.aux.entry ≠ entryKey .aux 0 sub :=
    entryKey_obj_ne (by decide) (by decide) (by decide) (by omega) hsub
  unfold entryDone
  dsimp only
  by_cases hlast : s.aux.seq.length ≤ s.aux.entry
  · rw [if_pos (by simpa using hlast)]
    refine ⟨?_, fun _ => ⟨rfl, ?_⟩, fun h => absurd h (by omega)⟩
    · rw [State.modAux_num, num_setNum_ne _ (hres (by decide)), State.bump, num_setNum_ne _ (hres (by decide)), num_setNum_same]
    · rw [Counted, State.modAux_num, num_setNum_sub _ _ _ (by decide), num_bump_same, num_setNum_ne _ (hres (by decide)).symm]
  · rw [if_neg (by simpa using hlast)]
    exact ⟨num_setNum_same _ _ _ _ _, fun h => absurd h hlast, fun _ => rfl⟩

/-! Requests. -/

theorem setOccupancy_num {n : Nat} (hn : s.aux.inj.length = n) (h : n < 256) : (setOccupancy s).num .injected 0 2 = n := by
  refine (num_setNum_same s _ _ _ _).trans ?_
  rw [hn]
  exact narrowU_of_lt (by omega) (by omega)

/-- A request that completes is counted, and none runs. -/
theorem injDone_counts (s : State) (w b e : Nat) (values : List Int) :
    (injDone s w b e values).aux.injRun = none ∧ Counted s (injDone s w b e values) .injected 0 4 1 := by
  unfold injDone
  dsimp only
  refine ⟨?_, ?_⟩
  · exact ((congrArg AuxSt.injRun (resume_aux _ _) :) : _ = _).trans (congrArg AuxSt.injRun (claimTake_aux _ _) :)
  · rw [Counted, ((claimTake_frame _ _).trans (resume_frame _ _)).num, State.modAux_num, num_bump_same,
      num_setNum_obj _ (by decide) (by decide) (by decide) (by omega) (by decide)]

/-- A write of a request. -/
theorem request_accepted (hs : s.serves ses) (hlen : bs.length = 4) :
    Accepted s ses .injected 0 1 ⟨1, 1, "Injected request", .u32, .wo, false, .calc, .any⟩ bs (leNat bs) :=
  ⟨hs, by decide, rfl, ⟨rfl, by decide⟩, ⟨bne_eq_false_iff_eq.2 hlen, rfl⟩, rfl, rfl, rfl⟩

/-- A legal word with room joins the queue. -/
theorem injRequest_queues {w : Nat} (hword : auxWord s.variant w true = none) (hroom : s.aux.inj.length < 8) :
    injRequest s w = (setOccupancy (s.modAux (fun a => { a with inj := a.inj ++ [(w, s.now)] })), .success) := by
  unfold injRequest
  rw [hword]
  exact if_neg (by omega)

theorem injRequest_full {w : Nat} (hword : auxWord s.variant w true = none) (hfull : 8 ≤ s.aux.inj.length) :
    injRequest s w = (s.bump .injected 0 3 1, .queueFull) := by
  unfold injRequest
  rw [hword]
  exact if_pos hfull

/-- A flush empties the queue. -/
theorem injFlush_empties (s : State) :
    (injFlush s).aux.inj = [] ∧ (injFlush s).num .injected 0 2 = 0 ∧ (injFlush s).power = s.power := by
  unfold injFlush
  dsimp only
  have hframe (v : State) (t : Nat) := (claimTake_frame v t).trans (resume_frame (claimTake v t) t)
  refine ⟨?_, ?_, ?_⟩
  · exact ((congrArg AuxSt.inj (resume_aux _ _) :) : _ = _).trans (congrArg AuxSt.inj (claimTake_aux _ _) :)
  · rw [(hframe _ _).num]
    exact setOccupancy_num rfl (by decide : 0 < 256)
  · exact (hframe _ _).power

/-- The oldest request starts at its slot. -/
theorem exec_injectedRequestStart {w acc : Nat} {rest : List (Nat × Nat)} (hinj : s.aux.inj = (w, acc) :: rest)
    (hrun : s.aux.injRun = none) (hslot : injStart s acc ≤ s.now) (hlets : claimLets s.aux = true) :
    exec .injectedRequestStart s = .next (setOccupancy ((interrupt s (injStart s acc)).modAux (fun a => { a with
      inj := rest, injRun := some (w, injStart s acc), ahead := a.ahead - 1 }))) := by
  show execInjectedRequestStart s = _
  unfold execInjectedRequestStart
  rw [hinj, hrun]
  exact if_pos ⟨hslot, hlets⟩

/-- Settles O13: by what a scan start, an entry and a request leave. -/
theorem auxiliaryConverterRunsScansAndRequests : Obligations.AuxiliaryConverterRunsScansAndRequests := by
  unfold Obligations.AuxiliaryConverterRunsScansAndRequests
  refine ⟨?scan, ?overrun, ?suppressed, ?entry, ?done, ?request, ?full, ?flush, ?start⟩
  case scan =>
    intro s hseq htick hlooked hclaim hidle
    refine ⟨_, (exec_auxScanStart hseq htick hlooked).trans ((if_neg (by simp [hclaim])).trans (if_neg (by simp [hidle]))),
      rfl, rfl, rfl, rfl⟩
  case overrun =>
    intro s hseq htick hlooked hclaim hbusy
    refine ⟨_, (exec_auxScanStart hseq htick hlooked).trans ((if_neg (by simp [hclaim])).trans (if_pos hbusy)), ?_, ?_⟩
    · rw [raise_aux]
      rfl
    · rw [Counted, raise_num_sub _ _ _ _ (by decide) (by decide), num_bump_same, State.modAux_num]
  case suppressed =>
    intro s hseq htick hlooked hclaim
    exact ⟨_, (exec_auxScanStart hseq htick hlooked).trans (if_pos hclaim), rfl, num_bump_same _ _ _ _ _⟩
  case entry =>
    intro s values start b hscan hentry h1 h64 hlen hend
    exact ⟨_, exec_auxEntryComplete_regular hscan hentry hlen hend, entryDone_writes start b _ values h64⟩
  case done =>
    intro s values w b hscan hrun hlen hend
    exact ⟨_, exec_auxEntryComplete_request hscan hrun hlen hend, injDone_counts s w b _ values⟩
  case request =>
    intro s ses bs hs hreset hlen hword hroom
    have hserved := (request_accepted hs hlen).volatile rfl (injRequest_queues hword hroom) hreset
    refine ⟨_, congrArg Host.Outcome.next hserved, rfl, rfl, ?_⟩
    rw [answer_num _ _ (by decide) (by decide) (by decide)]
    exact setOccupancy_num (List.length_append ..) (by omega)
  case full =>
    intro s ses bs hs hreset hlen hword hfull
    have hserved := (request_accepted hs hlen).volatile rfl (injRequest_full hword hfull) hreset
    exact ⟨_, congrArg Host.Outcome.next hserved, rfl, rfl,
      (answer_num _ _ (by decide) (by decide) (by decide)).trans (num_bump_same _ _ _ _ _)⟩
  case flush =>
    intro s ses bs hs hreset hlen
    obtain ⟨hempty, hcount, hpower⟩ := injFlush_empties s
    have hok : Accepted s ses .injected 0 5 _ bs (leNat bs) :=
      ⟨hs, by decide, rfl, ⟨rfl, by decide⟩, ⟨bne_eq_false_iff_eq.2 hlen, rfl⟩, rfl, rfl, rfl⟩
    have hserved := hok.volatile rfl rfl ((congrArg PowerSt.inReset hpower).trans hreset)
    exact ⟨_, congrArg Host.Outcome.next hserved, rfl, hempty,
      (answer_num _ _ (by decide) (by decide) (by decide)).trans hcount⟩
  case start =>
    intro s w acc rest hinj hrun hslot hlets hlen
    exact ⟨_, exec_injectedRequestStart hinj hrun hslot hlets, rfl, rfl, setOccupancy_num rfl hlen⟩

end Sys2Proof.Machine
end

section
/-! PROOFS. The PTP clock (R196 to R216): a Sync at a port number that names another object's entries, and the grid, re-anchor and SLATE
commands. -/

namespace Sys2Proof.Machine

open Sys2Proof

/-! A worker whose upstream port shows as 15: the entries of PTP port 15 would be those of the local clock. -/

/-- A one-step Sync of clock 77 with origin time 1,000 ns. -/
def strayMsg : PtpMsg := ⟨.sync, 0, 77, 1, 0, 1000, false, 0, none, false⟩

def strayRx : Rx := ⟨15, 0, ⟨true, none, 0, 0, 64, .ptp strayMsg, 0⟩⟩

/-- A worker that shows upstream port 15, has heard an Announce of clock 77 and knows the path delay; the Sync waits. -/
def strayPort : State :=
  ((State.reset.setNum .ring 0 2 15).modClk (fun c => { c with masters := [(⟨77, 0, 0, 0, 0, 0, 77, 0, 0⟩, 0)], pathOk := true })).modNet
    (fun n => { n with inbox := [strayRx] })

/-- That worker once it has taken the Sync. -/
def strayTaken : State :=
  let s := (dropInbox strayPort 0).bump .ptpPort 15 7 1
  syncTake s 15 (ingressNs s 15 0 0) 1000 (asymmetry s 15 15 .sync)

/-- Refutes O16: with the upstream port shown as 15, a number that its entry holds though no port has it, the count of Sync messages of
that port is the entry that shows the local clock's offset, so that the offset overwrites the count. -/
theorem not_clockMessagesGiveOffsetDelayAndMaster : ¬ Obligations.ClockMessagesGiveOffsetDelayAndMaster := by
  unfold Obligations.ClockMessagesGiveOffsetDelayAndMaster
  rintro ⟨hsync, -⟩
  obtain ⟨t, ht, hcount, -⟩ := hsync strayPort 0 strayRx strayMsg (by decide +kernel) (by decide +kernel)
    (by decide +kernel) rfl rfl (by decide +kernel)
  have hstep : exec (.ptpSyncReceived 15 0 77 1000 0) strayPort = .next strayTaken := rfl
  have hvalue : strayTaken.num .ptpPort 15 7 ≠ (entryTy .ptpPort 15 7).narrow (strayPort.num .ptpPort 15 7 + (1 : Nat)) := by
    decide +kernel
  cases hstep.symm.trans ht
  exact hvalue hcount

end Sys2Proof.Machine
end

section
/-! PROOFS. The queues between islands (R411 to R427): a push of a word, a pop of the head, an abandonment and a flush. -/

namespace Sys2Proof.Machine

open Sys2Proof

variable {s t : State} {ses q : Nat} {bs : Bytes} {w : QWord} {ws : List QWord}

/-! What the objects of a queue hold, and writes to them. -/

theorem notePeak_cells (s : State) (q : Nat) : (notePeak s q).cells = s.cells := by
  unfold notePeak
  dsimp only
  split <;> rfl

theorem queue_lt (h : s.has .queue q = true) : q < Obj.size .queue :=
  of_decide_eq_true (Bool.and_eq_true_iff.1 h).1

/-- A write to an object of a queue of the hub. -/
theorem queue_accepted {sub : Nat} {e : Entry} {n : Int} (hs : s.serves ses) (hq : s.has .queue q = true)
    (he : Plain .queue q sub e) (hfit : Fits e bs) (hvalue : (if e.ty.isBytes then 0 else e.ty.decode bs) = n)
    (hfield : fieldCheck s .queue q sub n bs = none) : Accepted s ses .queue q sub e bs n :=
  ⟨hs, queue_lt hq, hq, he, hfit, hvalue, rfl, hfield⟩

/-! Pushes. -/

/-- The word that waits enters a queue with room. -/
theorem settlePush_room (hpush : (s.queue q).pushing = some w) (hroom : (s.queue q).words.length < queueDepth q) :
    settlePush s q =
      notePeak (s.putQueue q { s.queue q with words := (s.queue q).words ++ [w], pushing := none, midItem := !w.eoi }) q := by
  unfold settlePush
  simp only [hpush, hroom, if_true]

theorem settlePush_full (hpush : (s.queue q).pushing = some w) (hroom : queueDepth q ≤ (s.queue q).words.length) :
    settlePush s q = s := by
  unfold settlePush
  simp only [hpush, Nat.not_lt.2 hroom, if_false]

theorem settlePush_none (hpush : (s.queue q).pushing = none) : settlePush s q = s := by
  unfold settlePush
  simp only [hpush]

/-- Without a reader that waits no pop completes. -/
theorem popPending_none (h : (s.queue q).popWaiting = false) : popPending s q = s :=
  if_neg (by simp [h])

/-- A word presented to a queue with room, with no reader waiting, enters its tail. -/
theorem present_room (w : QWord) (hdrop : (s.queue q).dropIn = false) (hpop : (s.queue q).popWaiting = false)
    (hroom : (s.queue q).words.length < queueDepth q) :
    (present s q w).queue q =
        { s.queue q with words := (s.queue q).words ++ [w], pushing := none, midItem := !w.eoi } ∧
      (present s q w).cells = s.cells := by
  have hpresented : present s q w = popPending (settlePush (s.putQueue q { s.queue q with pushing := some w }) q) q :=
    if_neg (by simp [hdrop])
  have hput := State.putQueue_same s q { s.queue q with pushing := some w }
  rw [hpresented, settlePush_room (congrArg Queue.pushing hput) (by rw [hput]; exact hroom), popPending_none, notePeak_queue,
    notePeak_cells, State.putQueue_same, hput]
  · exact ⟨rfl, rfl⟩
  · rw [notePeak_queue, State.putQueue_same, hput]
    exact hpop

/-- A word presented to a full queue, with no reader waiting, waits. -/
theorem present_full (w : QWord) (hdrop : (s.queue q).dropIn = false) (hpop : (s.queue q).popWaiting = false)
    (hroom : queueDepth q ≤ (s.queue q).words.length) :
    present s q w = s.putQueue q { s.queue q with pushing := some w } := by
  have hpresented : present s q w = popPending (settlePush (s.putQueue q { s.queue q with pushing := some w }) q) q :=
    if_neg (by simp [hdrop])
  have hput := State.putQueue_same s q { s.queue q with pushing := some w }
  rw [hpresented, settlePush_full (congrArg Queue.pushing hput) (by rw [hput]; exact hroom), popPending_none]
  rw [hput]
  exact hpop

theorem cellQueue_none (h : 96 ≤ q) : cellQueue q = none := by
  unfold cellQueue
  rw [if_neg (by omega), if_neg (by omega)]

theorem cellQueue_lt {cell core : Nat} (h : cellQueue q = some (cell, core)) : q < 96 := by
  by_contra hq
  rw [cellQueue_none (by omega)] at h
  cases h

/-- A push on a queue that is neither an events queue nor a cell's presents its word. -/
theorem execQueuePush_word (data : Nat) (eoi : Bool) (hq : hasQueue s q = true) (hlow : 96 ≤ q) (hevents : q < 162 ∨ 193 ≤ q)
    (hpush : (s.queue q).pushing = none) :
    execQueuePush q data eoi s = .next (present s q ⟨data % 2 ^ 64, eoi, none⟩) := by
  unfold execQueuePush
  rw [if_neg (by simp [hq, hpush]; omega)]
  simp only [cellQueue_none hlow]

/-- A push on a cell's queue presents the word that the cell forms. -/
theorem execQueuePush_cell {cell core : Nat} (data : Nat) (eoi : Bool) (hq : hasQueue s q = true)
    (hpush : (s.queue q).pushing = none) (hcell : cellQueue q = some (cell, core))
    (hword : cellWord s cell (2 * (q / 48) + core) data = some (t, w)) : execQueuePush q data eoi s = .next (present t q w) := by
  have hlow := cellQueue_lt hcell
  unfold execQueuePush
  rw [if_neg (by simp [hq, hpush]; omega)]
  simp only [hcell, hword]

/-- A push on a queue of a cell that forms no word changes nothing. -/
theorem execQueuePush_unformed {cell core : Nat} (data : Nat) (eoi : Bool) (hcell : cellQueue q = some (cell, core))
    (hword : cellWord s cell (2 * (q / 48) + core) data = none) : execQueuePush q data eoi s = .next s := by
  unfold execQueuePush
  split
  · rfl
  · simp only [hcell, hword]

/-! Pops. -/

/-- A good word popped while nothing is dropped joins the item, or ends and counts it. -/
theorem popWord_good (hmark : (s.queue q).dropToMark = false) : popWord s q w .good =
    if w.eoi then ((s.modQueue q (fun k => { k with item := [] })).bump .queue q 4 1, some ((s.queue q).item ++ [w]))
    else (s.modQueue q (fun k => { k with item := k.item ++ [w] }), none) := by
  unfold popWord
  simp [hmark]

/-- The head of a queue without a flush, and with no push waiting, is popped. -/
theorem popHead_word (hpush : (s.queue q).pushing = none) (hflush : flushing s q = false) (hwords : (s.queue q).words = w :: ws)
    (ecc : Ecc) : popHead s q ecc = popWord (s.modQueue q (fun k => { k with words := ws, popWaiting := false })) q w ecc := by
  unfold popHead
  simp only [hwords, hflush, Bool.false_eq_true, if_false]
  rw [settlePush_none]
  unfold State.modQueue
  rw [State.putQueue_same]
  exact hpush

theorem popHead_empty (hwords : (s.queue q).words = []) (ecc : Ecc) :
    popHead s q ecc = (s.modQueue q (fun k => { k with popWaiting := true }), none) := by
  unfold popHead
  simp only [hwords]

/-- An item of a queue that is no cell's changes nothing when its reader has it. -/
theorem itemDelivered_none (h : 96 ≤ q) (data : List Nat) : itemDelivered s q data = s := by
  unfold itemDelivered
  simp only [cellQueue_none h]

/-- A pop of a queue that is no events queue, by what its head gives. -/
theorem execQueuePop_partial (ecc : Ecc) (hq : hasQueue s q = true) (hpop : (s.queue q).popWaiting = false)
    (hevents : q < 162 ∨ 193 ≤ q) (hhead : popHead s q ecc = (t, none)) (hlost : t.num .queue q 8 = s.num .queue q 8) :
    execQueuePop q ecc s = .next t := by
  unfold execQueuePop
  rw [if_neg (by simp [hq, hpop]), if_neg (by omega)]
  simp only [hhead]
  rw [if_neg]
  rintro ⟨-, h⟩
  exact h (by rw [State.nat, hlost]; rfl)

theorem execQueuePop_whole (ecc : Ecc) (hq : hasQueue s q = true) (hpop : (s.queue q).popWaiting = false) (hlow : 96 ≤ q)
    (hevents : q < 162 ∨ 193 ≤ q) (hhead : popHead s q ecc = (t, some ws)) : execQueuePop q ecc s = .next t := by
  unfold execQueuePop
  rw [if_neg (by simp [hq, hpop]), if_neg (by omega)]
  simp only [hhead, itemDelivered_none hlow]

/-- A queue whose writer has lost the item in progress, of which `w` was waiting. -/
def Queue.abandoned (k : Queue) (w : QWord) : Queue :=
  let cut := k.words.reverse.dropWhile (fun x => !x.eoi)
  { k with words := cut.reverse, pushing := none, dropIn := !w.eoi, midItem := false,
           item := if cut.isEmpty then [] else k.item, cause := 2 }

/-- The item whose word a cell could not push in time is lost. -/
theorem execCellItemAbandon_pushing (hlow : q < 96) (hq : hasQueue s q = true) (hpush : (s.queue q).pushing = some w) :
    execCellItemAbandon q s =
      .next (((s.putQueue q ((s.queue q).abandoned w)).bump .queue q 9 1).bump .queues 0 5 1) := by
  unfold execCellItemAbandon
  simp only [hpush]
  exact if_pos ⟨hlow, hq⟩

/-! Flushes. -/

/-- The loss of no item, or of items of cell status, costs nothing beside them. -/
theorem itemsLost_quiet {n : Nat} (s : State) (header : Option Nat) (h : n = 0 ∨ 48 ≤ q ∧ q < 96) :
    itemsLost s q 2 n header = s := by
  unfold itemsLost
  rcases h with rfl | ⟨hlo, hhi⟩
  · simp only [ne_eq, not_true_eq_false, false_and, if_false, if_true]
    split <;> rfl
  · have hcore : coreOfQueue q 2 = none := by
      unfold coreOfQueue
      rw [if_neg (by omega), if_neg (by omega), if_neg (by omega), if_neg (by omega)]
    simp only [hcore]
    rw [if_neg (show ¬ (96 ≤ q ∧ q < 98) by omega), if_neg (show ¬ (100 ≤ q ∧ q < 162) by omega),
      if_neg (show ¬ (162 ≤ q ∧ q < 193) by omega), ite_self]

/-- The items that a flush of queue q discards. -/
def discarded (s : State) (q : Nat) : Nat := itemCount ((s.queue q).item ++ (s.queue q).words ++ (s.queue q).pushing.toList)

/-- A flush of a queue that loses nothing which anyone must be told of: an empty one, or one of cell status. -/
theorem flushQueue_quiet (h : discarded s q = 0 ∨ 48 ≤ q ∧ q < 96) :
    ∃ k : Queue, k.words = [] ∧ k.item = [] ∧ flushQueue s q =
      (((s.putQueue q k).bump .queue q 7 (discarded s q)).bump .queues 0 4 (discarded s q)).setNum .queue q 11 1 := by
  have hsame : flushQueue s q = _ := itemsLost_quiet _ _ h
  exact ⟨_, rfl, rfl, hsame⟩

/-- What the flush command does through a session that may write, where the flush is quiet. -/
theorem flush_quiet (hs : s.serves ses) (hreset : s.power.inReset = false) (hq : s.has .queue q = true)
    (hflush : flushing s q = false)
    (h : discarded s q = 0 ∨ 48 ≤ q ∧ q < 96) :
    serveObj s ses .queue q 10 [1] = answer (flushQueue s q) .success := by
  have hok : Accepted s ses .queue q 10 ⟨10, 10, "Flush command", .u8, .wo, false, .calc, .rng 1 1⟩ [1] 1 :=
    queue_accepted hs hq ⟨rfl, by decide⟩ ⟨rfl, rfl⟩ rfl rfl
  have hcommand : flushCommand s q 1 = (flushQueue s q, .success) := by
    unfold flushCommand
    simp [hflush]
  have hact : writeAction s ses .queue q 10 1 [1] = (flushQueue s q, .success) := by
    show flushAny s q 1 = _
    unfold flushAny
    simp only [hcommand]
    rw [if_neg (by rintro ⟨-, hlo, hne⟩; exact h.elim hne (by omega))]
  obtain ⟨k, -, -, hk⟩ := flushQueue_quiet h
  exact hok.volatile rfl hact (by rw [hk]; exact hreset)

/-- What a quiet flush leaves. -/
theorem flushQueue_result (hq : q < Obj.size .queue)
    (h : discarded s q = 0 ∨ 48 ≤ q ∧ q < 96) :
    let t := answer (flushQueue s q) .success
    (t.queue q).words = [] ∧ (t.queue q).item = [] ∧ t.num .queue q 11 = 1 ∧
      Counted s t .queue q 7 (discarded s q) := by
  obtain ⟨k, hwords, hitem, hk⟩ := flushQueue_quiet h
  have hqueue : (answer (flushQueue s q) .success).queue q = k := by
    rw [hk]
    exact State.putQueue_same s q k
  refine ⟨by rw [hqueue, hwords], by rw [hqueue, hitem], ?_, ?_⟩
  · rw [answer_num _ _ (by decide) hq (by decide), hk, num_setNum_same]
    rfl
  · rw [Counted, answer_num _ _ (by decide) hq (by decide), hk, num_setNum_sub _ _ _ (by decide),
      num_bump_ne _ (entryKey_obj_ne (by decide) hq (by decide) (by decide) (by decide)), num_bump_same]
    rfl

/-- Settles O20: each command by what it does with the queue that it names. -/
theorem queuesPassWordsInOrder : Obligations.QueuesPassWordsInOrder := by
  unfold Obligations.QueuesPassWordsInOrder
  refine ⟨?push, ?wait, ?cell, ?unformed, ?pop, ?empty, ?abandon, ?flushEmpty, ?flushStatus, ?flushed, ?peak⟩
  case push =>
    intro s q data eoi hq hlow hevents hpush hdrop hpop hroom
    obtain ⟨hqueue, -⟩ := present_room ⟨data % 2 ^ 64, eoi, none⟩ hdrop hpop hroom
    exact ⟨_, execQueuePush_word data eoi hq hlow hevents hpush, congrArg Queue.words hqueue, congrArg Queue.pushing hqueue,
      congrArg Queue.midItem hqueue⟩
  case wait =>
    intro s q data eoi hq hlow hevents hpush hdrop hpop hroom
    refine ⟨_, execQueuePush_word data eoi hq hlow hevents hpush, ?_⟩
    rw [present_full _ hdrop hpop hroom, State.putQueue_same]
    exact ⟨rfl, rfl, rfl⟩
  case cell =>
    intro s q data cell core eoi u w hq hpush hcell hword hdrop _ hpop hroom
    obtain ⟨hqueue, hcells⟩ := present_room w hdrop hpop hroom
    exact ⟨_, execQueuePush_cell data eoi hq hpush hcell hword, congrArg Queue.words hqueue, congrArg Queue.pushing hqueue, hcells⟩
  case unformed =>
    intro s q data cell core eoi hcell hword
    exact ⟨s, execQueuePush_unformed data eoi hcell hword, rfl⟩
  case pop =>
    intro s q w ws hq _ hevents hitem hpop hpush hmark hflush hwords
    have hhead := popHead_word hpush hflush hwords .good
    generalize hu : s.modQueue q (fun k => { k with words := ws, popWaiting := false }) = u at hhead
    have huq : u.queue q = { s.queue q with words := ws, popWaiting := false } := by
      rw [← hu]
      exact State.putQueue_same s q _
    have hunum (sub : Nat) : u.num .queue q sub = s.num .queue q sub := by rw [← hu]; rfl
    rw [popWord_good (by rw [huq]; exact hmark)] at hhead
    cases heoi : w.eoi
    · rw [if_neg (by simp [heoi])] at hhead
      refine ⟨_, execQueuePop_partial .good hq hpop hevents hhead (hunum 8), ?_⟩
      rw [State.modQueue, State.putQueue_same, huq]
      exact ⟨rfl, nofun, fun _ => rfl⟩
    · rw [if_pos heoi] at hhead
      refine ⟨_, execQueuePop_whole .good hq hpop (by simpa [heoi] using hitem) hevents hhead, ?_⟩
      have hqueue : (((u.modQueue q (fun k => { k with item := [] })).bump .queue q 4 1).queue q) = { u.queue q with item := [] } :=
        State.putQueue_same u q _
      refine ⟨by rw [hqueue, huq], fun _ => ⟨?_, by rw [hqueue]⟩, nofun⟩
      rw [Counted, num_bump_same, ← hunum 4]
      rfl
  case empty =>
    intro s q ecc hq hevents hpop hwords
    refine ⟨_, execQueuePop_partial ecc hq hpop hevents (popHead_empty hwords ecc) rfl, ?_⟩
    rw [State.modQueue, State.putQueue_same]
    exact ⟨rfl, hwords, rfl⟩
  case abandon =>
    intro s q w hlow hq hpush
    have hqueue : ((((s.putQueue q ((s.queue q).abandoned w)).bump .queue q 9 1).bump .queues 0 5 1).queue q) =
        (s.queue q).abandoned w := State.putQueue_same s q _
    refine ⟨_, execCellItemAbandon_pushing hlow hq hpush, ?_⟩
    have hsize : q < Obj.size .queue := Nat.lt_trans hlow (by decide)
    rw [hqueue, Counted,
      num_bump_ne _ (entryKey_obj_ne (by decide) hsize (by decide) (by decide) (by decide)), num_bump_same, Counted,
      num_bump_same, num_bump_ne _ (entryKey_obj_ne (by decide) (by decide) hsize (by decide) (by decide))]
    exact ⟨rfl, rfl, rfl, rfl⟩
  case flushEmpty =>
    intro s ses q hs hreset hq hflush hitem hwords hpush
    have hcount : discarded s q = 0 := by
      rw [discarded, hitem, hwords, hpush]
      rfl
    obtain ⟨-, -, hstate, hcounted⟩ := flushQueue_result (queue_lt hq) (.inl hcount)
    rw [hcount] at hcounted
    exact ⟨_, congrArg Host.Outcome.next (flush_quiet hs hreset hq hflush (.inl hcount)), rfl, hstate, hcounted⟩
  case flushStatus =>
    intro s ses q hs hreset hq hlo hhi hflush
    obtain ⟨hwords, hitem, hstate, hcounted⟩ := flushQueue_result (queue_lt hq) (.inr ⟨hlo, hhi⟩)
    exact ⟨_, congrArg Host.Outcome.next (flush_quiet hs hreset hq hflush (.inr ⟨hlo, hhi⟩)), rfl, hwords, hitem, hstate, hcounted⟩
  case flushed =>
    intro s q _ hflush hdrop hpop
    have hended : execFlushComplete q s = .next (popPending (s.setNum .queue q 11 0) q) := if_pos ⟨hflush, hdrop⟩
    rw [popPending_none (s := s.setNum .queue q 11 0) hpop] at hended
    exact ⟨_, hended, num_setNum_same s _ _ _ _, rfl⟩
  case peak =>
    intro s ses q bs hs hreset hq hlen
    have hok : Accepted s ses .queue q 3 ⟨3, 3, "Peak occupancy (words)", .u8, .rw, false, .num 0, .any⟩ bs (leNat bs) :=
      queue_accepted hs hq ⟨rfl, by decide⟩ ⟨bne_eq_false_iff_eq.2 hlen, rfl⟩ rfl rfl
    have hserved := hok.volatile (t := s.setNum .queue q 3 0) rfl rfl hreset
    exact ⟨_, congrArg Host.Outcome.next hserved, rfl,
      (answer_num _ _ (by decide) (queue_lt hq) (by decide)).trans (num_setNum_same s _ _ _ _), rfl⟩

end Sys2Proof.Machine
end

section
/-! PROOFS. The event router (R540 to R549): what taking an item leaves, and what the destinations of the route lines leave of the
lines. -/

namespace Sys2Proof.Machine

open Sys2Proof

variable {s t u : State} {ses : Nat}

/-- What every step of a fold keeps, the fold keeps. -/
theorem foldl_kept {α β : Type} {g : State → α} {f : State → β → State} (l : List β) (s : State)
    (h : ∀ s b, g (f s b) = g s) : g (l.foldl f s) = g s :=
  List.foldlRecOn (motive := fun t => g t = g s) l f rfl fun t ht b _ => (h t b).trans ht

/-! What the router does with an item. -/

/-- The queues and the count of events received stand as before. -/
def Routed (s t : State) : Prop := t.queues = s.queues ∧ t.num .router 0 5 = s.num .router 0 5

theorem Routed.refl (s : State) : Routed s s := ⟨rfl, rfl⟩

theorem Routed.trans (h : Routed s t) (g : Routed t u) : Routed s u := ⟨g.1.trans h.1, g.2.trans h.2⟩

theorem Routed.setNum (s : State) (o : Obj) (w : Nat) (sub : Nat) (v : Int) (h : sub < 256) (h5 : sub ≠ 5) :
    Routed s (s.setNum o w sub v) :=
  ⟨rfl, num_setNum_ne s (by unfold entryKey; omega) _⟩

theorem Routed.bump (s : State) (o : Obj) (w : Nat) (sub n : Nat) (h : sub < 256) (h5 : sub ≠ 5) :
    Routed s (s.bump o w sub n) := Routed.setNum s o w sub _ h h5

theorem Routed.ite {c : Prop} [Decidable c] (ht : Routed s t) : Routed s (if c then t else s) :=
  iteInduction (fun _ => ht) fun _ => .refl s

theorem captureAt_routed (s : State) {v : Nat} (tick sub edge : Nat) (hv : v < Obj.size .capture) :
    Routed s (captureAt s v tick sub edge) := by
  unfold captureAt
  extract_lets c s1 s2
  have h1 : Routed s s1 := .ite (.bump s _ _ _ _ (by decide) (by decide))
  have h2 : Routed s1 s2 :=
    ((Routed.setNum s1 _ _ _ _ (by decide) (by decide)).trans (.setNum _ _ _ _ _ (by decide) (by decide))).trans
      ⟨rfl, num_setNum_ne _ (entryKey_obj_ne (by decide) (by decide) hv (by decide) (by decide)) _⟩
  exact (h1.trans h2).trans ((Routed.bump s2 .capture v 6 1 (by decide) (by decide)).trans ⟨rfl, rfl⟩)

theorem mergeRecord_routed (s : State) (seq : Nat) : Routed s (mergeRecord s seq).1 := by
  unfold mergeRecord
  split
  · exact ⟨rfl, rfl⟩
  · split <;> exact ⟨rfl, rfl⟩

theorem recordEvent_routed (s : State) (e : EvItem) (kmp : Bool) : Routed s (recordEvent s e kmp) := by
  unfold recordEvent
  dsimp only
  split
  · next m _ =>
    have hcounted (v : State) (f : EvSt → EvSt) :
        Routed v (((v.modEv f).bump .recorder 0 6 1).bump .recorder 0 7 1) :=
      (Routed.bump (v.modEv f) _ _ _ _ (by decide) (by decide)).trans (.bump _ _ _ _ _ (by decide) (by decide))
    have hmerged := mergeRecord_routed s m.seq
    exact iteInduction (fun _ => (hmerged.trans (hcounted _ _)).trans ⟨rfl, rfl⟩) fun _ => hmerged.trans (hcounted _ _)
  · exact (Routed.bump (s.modEv _) .recorder 0 3 1 (by decide) (by decide)).trans (.setNum _ _ _ _ _ (by decide) (by decide))

theorem routeEvent_routed (s : State) (e : EvItem) : Routed s (routeEvent s e) := by
  unfold routeEvent
  extract_lets mask occ cores s1 s2 s3 s4 s5 s6
  have hcores (v : State) (a : RouteAct) : Routed v (cores v a) := iteInduction (fun _ => ⟨rfl, rfl⟩) fun _ => ⟨rfl, rfl⟩
  have h1 : Routed s s1 := (Routed.bump s _ _ _ _ (by decide) (by decide)).trans (.setNum _ _ _ _ _ (by decide) (by decide))
  have h2 : Routed s1 s2 := by
    refine .ite (List.foldlRecOn (motive := Routed s1) (List.range 8) _ (.refl s1) fun v hv i hi => hv.trans ?_)
    have := List.mem_range.1 hi
    exact .ite (captureAt_routed v _ _ _ (show 16 + i < 24 by omega))
  have h3 : Routed s2 s3 := .ite ⟨rfl, rfl⟩
  have h4 : Routed s3 s4 := .ite ⟨rfl, rfl⟩
  have h5 : Routed s4 s5 := .ite (hcores s4 _)
  have h6 : Routed s5 s6 := .ite (hcores s5 _)
  exact h1.trans (h2.trans (h3.trans (h4.trans (h5.trans (h6.trans (.ite (recordEvent_routed s6 e _)))))))

/-- The router counts an item that it takes, whatever its routes. -/
theorem routeItem_counts (s : State) (e : EvItem) :
    (routeItem s e).queues = s.queues ∧ Counted s (routeItem s e) .router 0 5 1 := by
  unfold routeItem
  extract_lets s1 s2 s3
  have h1 : s1.queues = s.queues ∧ Counted s s1 .router 0 5 1 := ⟨rfl, num_bump_same s _ _ _ _⟩
  have h2 : Routed s1 s2 := .ite (.bump s1 _ _ _ _ (by decide) (by decide))
  have h3 : Routed s2 s3 := .ite (.bump (s2.modEv _) _ _ _ _ (by decide) (by decide))
  have h4 := (h2.trans h3).trans (.ite (routeEvent_routed s3 e) : Routed s3 (if bit (s3.nat .route e.src 5) e.cause then _ else s3))
  exact ⟨h4.1.trans h1.1, h4.2.trans h1.2⟩

/-- A whole good item at the head of an events queue goes to the router. -/
theorem popEvent_good {island : Nat} {w : QWord} {ws : List QWord} {e : EvItem} (hflush : flushing s (162 + island) = false)
    (hwords : (s.queue (162 + island)).words = w :: ws) (heoi : w.eoi = true) (hitem : (s.queue (162 + island)).item = [])
    (hpush : (s.queue (162 + island)).pushing = none) (hmark : (s.queue (162 + island)).dropToMark = false)
    (hev : w.ev = some e) : ∃ v, popEvent s island .good = routeItem v e ∧ (v.queue (162 + island)).words = ws ∧
      v.num .router 0 5 = s.num .router 0 5 := by
  have hhead := popHead_word hpush hflush hwords .good
  generalize hu : s.modQueue (162 + island) (fun k => { k with words := ws, popWaiting := false }) = u at hhead
  have huq : u.queue (162 + island) = { s.queue (162 + island) with words := ws, popWaiting := false } := by
    rw [← hu]
    exact State.putQueue_same s _ _
  rw [popWord_good (by rw [huq]; exact hmark), if_pos heoi, huq, hitem] at hhead
  refine ⟨(u.modQueue (162 + island) (fun k => { k with item := [] })).bump .queue (162 + island) 4 1, ?_, ?_, ?_⟩
  · unfold popEvent
    simp only [hhead, List.nil_append, List.head?_cons, hev]
  · exact (congrArg Queue.words (State.putQueue_same u _ _)).trans (congrArg Queue.words huq)
  · rw [num_bump_ne _ (by unfold entryKey; omega), ← hu]
    rfl

/-! What the destinations of the route lines leave of the lines. -/

theorem dmaPulse_ev (s : State) (src : Nat) : (dmaPulse s src).ev = s.ev := by
  refine foldl_kept _ s fun s c => ?_
  have hpulse (v : State) : (startPulse v c).ev = v.ev := by
    unfold startPulse
    dsimp only
    split
    · rfl
    · split <;> rfl
  exact iteInduction (motive := fun t : State => t.ev = s.ev) (fun _ => hpulse _) fun _ => rfl

theorem msixSend_ev (s : State) (v : Nat) : (msixSend s v).ev = s.ev := by
  unfold msixSend
  split
  · rfl
  · split <;> rfl

theorem deliver_ev (s : State) (k : OccKind) (tick : Nat) (only : Option Nat) : (deliver s k tick only).ev = s.ev := by
  refine foldl_kept _ s fun s t => ?_
  split
  · rfl
  · extract_lets s1
    have h1 : s1.ev = s.ev := by
      simp only [s1]
      split <;> rfl
    exact iteInduction (motive := fun t : State => t.ev = s.ev) (fun _ => h1) fun _ => h1

theorem lgoRequest_ev (s : State) (mask tick : Nat) : (lgoRequest s mask tick).ev = s.ev :=
  foldl_kept _ s fun _ _ => rfl

theorem enqueue_ev (s : State) (p : Nat) (o : OutFrame) : (enqueue s p o).ev = s.ev := by
  unfold enqueue
  dsimp only
  split
  · rfl
  · split <;> rfl

theorem sendNotify_ev (s : State) (m : Kmp) : (sendNotify s m).ev = s.ev := by
  have hsent (v : State) (p dst len : Nat) (c : Content) : (sendOwn v p dst len c).ev = v.ev := enqueue_ev v p _
  unfold sendNotify
  dsimp only
  split
  · split
    · rfl
    · split <;> exact hsent _ _ _ _ _
  · exact iteInduction (motive := fun t : State => t.ev = s.ev) (fun _ => rfl) fun _ => hsent _ _ _ _ _

/-- A destination that acts on an occurrence puts nothing on the lines. -/
theorem lineAct_ev (s : State) (line : RouteLine) (o : RouteOcc) : (lineAct s line o).ev = s.ev := by
  unfold lineAct
  dsimp only
  split
  · exact dmaPulse_ev s _
  · exact msixSend_ev s _
  · exact iteInduction (motive := fun t : State => t.ev = s.ev) (fun _ => deliver_ev s _ _ _) fun _ => rfl
  · exact iteInduction (motive := fun t : State => t.ev = s.ev) (fun _ => lgoRequest_ev s _ _) fun _ => rfl
  · exact sendNotify_ev s _

/-- The line of a destination, once it has been replaced. -/
theorem getD_set_same {l : List (List RouteOcc)} {i : Nat} {o : RouteOcc} {rest : List RouteOcc} (h : l.getD i [] = o :: rest) :
    (l.set i rest).getD i [] = rest := by
  have hi : i < l.length := by
    by_contra hi
    rw [List.getD_eq_default _ _ (by omega)] at h
    cases h
  rw [List.getD_eq_getElem?_getD, List.getElem?_set_self hi]
  rfl

/-! The router's commands. -/

theorem latches_accepted (hs : s.serves ses) :
    Accepted s ses .router 0 2 ⟨2, 2, "Clear fault latches", .u8, .wo, false, .calc, .rng 1 1⟩ [1] 1 :=
  ⟨hs, by decide, rfl, ⟨rfl, by decide⟩, ⟨rfl, rfl⟩, rfl, rfl, rfl⟩

theorem software_accepted (hs : s.serves ses) {n : Nat} (hn : n < 8) :
    Accepted s ses .router 0 4 ⟨4, 4, "Raise software event", .u8, .wo, false, .calc, .rng 0 7⟩ (leBytes 1 n) n := by
  have hvalue : leNat (leBytes 1 n) = n := by rw [leNat_leBytes]; omega
  have hentry : Obj.entry .router 0 4 = some ⟨4, 4, "Raise software event", .u8, .wo, false, .calc, .rng 0 7⟩ := rfl
  have hin : outside 0 7 (n : Int) = false := by
    unfold outside
    simp
    omega
  refine ⟨hs, by decide, rfl, ⟨rfl, by decide⟩, ⟨rfl, rfl⟩, congrArg Int.ofNat hvalue, rfl, ?_⟩
  unfold fieldCheck
  simp only [hentry, hin, Bool.not_false, if_true]

/-- A software event stands on the events queue of the management island (R538). -/
theorem raise_software (ses : Nat) {n : Nat} (hn : n < 8) (hroom : s.canRaise 29) :
    Raised s (raise s (88 + n) 1 ses) 29 ⟨88 + n, 1, ses, s.now⟩ := by
  have hisland : islandOf s (88 + n) ses = 29 := by
    unfold islandOf
    rw [if_neg (by omega), if_neg (by omega), if_neg (by omega), if_neg (by omega), if_neg (by omega), if_neg (by omega),
      if_neg (by omega), if_neg (by omega), if_neg (by omega), if_neg (by omega), if_neg (by omega), if_neg (by omega),
      if_neg (by omega), if_neg (by omega), if_neg (by omega), if_neg (by omega), if_neg (by omega), if_neg (by omega),
      if_neg (by omega), if_neg (by omega)]
  have hsilent : silentSource s (88 + n) 1 = false := by
    unfold silentSource
    simp
    omega
  have hraised := raise_room s (88 + n) 1 ses hsilent (hisland.symm ▸ hroom)
  rwa [hisland] at hraised

theorem sticky_accepted (hs : s.serves ses) {ch : Nat} {bs : Bytes} (hch : ch < Config.channels s.variant) (hlen : bs.length = 1) :
    Accepted s ses .chStatus ch 5 ⟨5, 5, "Sticky flags", .u8, .rw, false, .num 0, .any⟩ bs (leNat bs) := by
  have hsize : ch < Obj.size .chStatus := Nat.lt_of_lt_of_le hch (channels_le _)
  exact ⟨hs, hsize, has_of_present hsize (decide_eq_true hch), ⟨rfl, by decide⟩, ⟨bne_eq_false_iff_eq.2 hlen, rfl⟩, rfl, rfl, rfl⟩

/-- Settles O21: the head that the router takes, the occurrence that a line delivers, and the three commands. -/
theorem eventsAreRoutedAndDelivered : Obligations.EventsAreRoutedAndDelivered := by
  unfold Obligations.EventsAreRoutedAndDelivered
  refine ⟨?routed, ?delivered, ?latches, ?software, ?sticky⟩
  case routed =>
    intro s island w ws e hisland hq hflush hwords heoi hitem hpush hmark hev
    obtain ⟨v, hpop, hvwords, hvnum⟩ := popEvent_good hflush hwords heoi hitem hpush hmark hev
    have hrouted : execEventRouted island .good s = .next (popEvent s island .good) :=
      if_pos ⟨hisland, hq, by simp [hwords], hflush⟩
    obtain ⟨hqueues, hcount⟩ := routeItem_counts v e
    refine ⟨_, hpop ▸ hrouted, ?_, ?_⟩
    · rw [State.queue, hqueues]
      exact hvwords
    · rw [Counted, hcount, hvnum]
  case delivered =>
    intro s line o rest hline
    refine ⟨lineAct (s.modEv (fun e => { e with lines := e.lines.set (lineIdx line) rest })) line o, ?_, ?_⟩
    · show execRouteLineDelivery line s = _
      unfold execRouteLineDelivery
      simp only [hline]
    · rw [lineAct_ev]
      exact getD_set_same hline
  case latches =>
    intro s ses hs hreset
    have hserved := (latches_accepted hs).volatile (t := { s with ev := { s.ev with latches := [] } }) rfl rfl hreset
    exact ⟨_, congrArg Host.Outcome.next hserved, rfl, rfl, rfl⟩
  case software =>
    intro s ses n hs hreset hn hroom
    have hserved := (software_accepted hs hn).volatile (t := raise s (88 + n) 1 ses) rfl rfl
      (by rw [raise_power]; exact hreset)
    refine ⟨_, congrArg Host.Outcome.next hserved, rfl, ?_⟩
    exact raise_software ses hn hroom
  case sticky =>
    intro s ses ch bs hs hreset hch hlen hold
    have hserved := (sticky_accepted hs hch hlen).volatile (t := clearBits s .chStatus ch 5 (leNat bs)) rfl rfl hreset
    have hsize : ch < Obj.size .chStatus := Nat.lt_of_lt_of_le hch (channels_le _)
    refine ⟨_, congrArg Host.Outcome.next hserved, rfl, ?_⟩
    rw [State.nat, answer_num _ _ (by decide) hsize (by decide), clearBits, num_setNum_same]
    have hnarrow : (entryTy .chStatus ch 5).narrow ((s.nat .chStatus ch 5 - (s.nat .chStatus ch 5 &&& leNat bs) : Nat) : Int) =
        (s.nat .chStatus ch 5 - (s.nat .chStatus ch 5 &&& leNat bs) : Nat) := narrowU_of_lt (by omega) (by omega)
    rw [hnarrow]
    rfl

end Sys2Proof.Machine
end

section
/-! PROOFS. The event recorder (R551 to R561) and the digital inputs (R261 to R265, R648). -/

namespace Sys2Proof.Machine

open Sys2Proof

variable {s t : State} {ses : Nat}

/-! What raising an event leaves of the event record. -/

theorem pushWord_ev (s : State) (q : Nat) (w : QWord) : (pushWord s q w).ev = s.ev := by
  have hpeak (v : State) : (notePeak v q).ev = v.ev := by
    unfold notePeak
    dsimp only
    split <;> rfl
  unfold pushWord
  dsimp only
  split
  · exact hpeak _
  · split <;> rfl

/-- The event record is that of `s` but for its counts of lost occurrences. -/
def SameRecords (s t : State) : Prop := { t.ev with lost := s.ev.lost, lineLost := s.ev.lineLost } = s.ev

theorem SameRecords.trans {v : State} (h : SameRecords s t) (g : SameRecords t v) : SameRecords s v := by
  unfold SameRecords at *
  rw [← h, ← g]

theorem SameRecords.failEmer (h : SameRecords s t) : t.ev.failEmer = s.ev.failEmer := (congrArg EvSt.failEmer h :)

theorem SameRecords.pushed (s : State) (q : Nat) (w : QWord) (l : List Nat) (f : Sparse Nat) :
    SameRecords s (pushWord { s with ev := { s.ev with lost := f, lineLost := l } } q w) := by
  unfold SameRecords
  rw [pushWord_ev]

theorem reportLost_records (s : State) (island : Nat) : SameRecords s (reportLost s island) := by
  unfold reportLost
  extract_lets q n _ s1
  have h1 : SameRecords s s1 := iteInduction (fun _ => rfl) fun _ => .pushed s q _ s.ev.lineLost _
  split
  · exact h1
  · exact iteInduction (fun _ => h1) fun _ => h1.trans (.pushed s1 q _ _ s1.ev.lost)

theorem raiseAt_records (s : State) (src cause detail tick : Nat) : SameRecords s (raiseAt s src cause detail tick) := by
  have hpush (w : QWord) : SameRecords s (pushWord s (162 + islandOf s src detail) w) := .pushed s _ w s.ev.lineLost s.ev.lost
  unfold raiseAt pushEvent
  dsimp only
  split
  · rfl
  · split
    · rfl
    · split
      · exact (hpush _).trans (reportLost_records _ _)
      · exact hpush _

/-! The recorder. -/

/-- A record written takes its place from those that wait, and is counted. -/
theorem noteWritten_result (s : State) (r : PendRec) : (∀ x ∈ (noteWritten s r).ev.recs, x.seq ≠ r.seq) ∧ Counted s (noteWritten s r) .recorder 0 5 1 ∧
      (noteWritten s r).num .recorder 0 12 = s.num .recorder 0 12 := by
  unfold noteWritten
  extract_lets s1 s2
  have hrecs : s2.ev.recs = s.ev.recs.filter (fun x => x.seq != r.seq) := rfl
  have hcount : Counted s s2 .recorder 0 5 1 ∧ s2.num .recorder 0 12 = s.num .recorder 0 12 := by
    constructor
    · show (showComplete _).num .recorder 0 5 = _
      rw [showComplete, num_setNum_sub _ _ _ (by decide), num_bump_ne _ (entryKey_sub_ne _ _ (by decide)), num_bump_same]
      rfl
    · show (showComplete _).num .recorder 0 12 = _
      rw [showComplete, num_setNum_sub _ _ _ (by decide), num_bump_ne _ (entryKey_sub_ne _ _ (by decide)),
        num_bump_ne _ (entryKey_sub_ne _ _ (by decide))]
      rfl
  have hgone : ∀ x ∈ s2.ev.recs, x.seq ≠ r.seq := by
    rw [hrecs]
    intro x hx
    simpa using (List.mem_filter.1 hx).2
  have hlines (f : EvSt → EvSt) (hf : (f s2.ev).recs = s2.ev.recs) : (∀ x ∈ (s2.modEv f).ev.recs, x.seq ≠ r.seq) ∧ Counted s (s2.modEv f) .recorder 0 5 1 ∧
        (s2.modEv f).num .recorder 0 12 = s.num .recorder 0 12 :=
    ⟨fun x hx => hgone x (hf ▸ hx), hcount⟩
  split
  · exact hlines _ (by split <;> rfl)
  · exact hlines id rfl

theorem noteWritten_bytes (s : State) (r : PendRec) {o : Obj} {u sub : Nat} :
    (noteWritten s r).bytes o u sub = s.bytes o u sub := by
  unfold noteWritten
  extract_lets s1 s2
  exact iteInduction (motive := fun t : State => t.bytes o u sub = s.bytes o u sub) (fun _ => rfl) fun _ => rfl

/-- A slot of the main bank, once it has been written. -/
theorem putMain_bytes (s : State) (k : Nat) (b : Bytes) : (putMain s k b).bytes .recSlots (k / 128) (k % 128 + 1) = b :=
  bytes_setBytes_same s _ _ _ _

theorem putMain_num (s : State) (k : Nat) (b : Bytes) (o : Obj) (u sub : Nat) : (putMain s k b).num o u sub = s.num o u sub := rfl

theorem recordComplete_main {seq : Nat} {r : PendRec} (emergencyOk : Bool)
    (hr : s.ev.recs.find? (fun r => r.seq == seq) = some r) (hgood : s.ev.failMain.contains (seq % 2048) = false) :
    execRecordComplete seq true emergencyOk s = .next (noteWritten (putMain s (seq % 2048) (recordBytes r false)) r) := by
  unfold execRecordComplete
  simp only [hr, hgood, Bool.false_eq_true, if_false, if_true]

theorem recordComplete_emergency {seq e : Nat} {r : PendRec} (mainOk : Bool)
    (hr : s.ev.recs.find? (fun r => r.seq == seq) = some r) (hfailed : s.ev.failMain.contains (seq % 2048) = true)
    (hnext : nextEmergency s = some e) :
    ∃ f : EvSt → EvSt, execRecordComplete seq mainOk true s =
      .next (noteWritten (((s.setBytes .recEmergency 0 (e + 1) (recordBytes r true)).modEv f).bump .recorder 0 12 1) r) := by
  unfold execRecordComplete writeEmergency
  simp only [hr, hfailed, hnext, if_true]
  exact ⟨_, rfl⟩

/-- The record whose snapshot has timed out: its missing entries read 0, and bit 1 says so. -/
def PendRec.timedOut (r : PendRec) (gone : List Nat) : PendRec :=
  { r with flags := r.flags ||| 2, words := r.words.zipIdx.map (fun (w, i) => if gone.contains i then w.map (fun _ => 0) else w) }

theorem recordSnapshotTimeout_only {seq : Nat} {missing : List Nat} {r : PendRec} (hrecs : s.ev.recs = [r]) (hseq : r.seq = seq)
    (htick : r.tick + 24576 ≤ s.now) (hgone : (List.range r.words.length).filter (missing.contains ·) ≠ []) :
    execRecordSnapshotTimeout seq missing s =
      .next ((s.modEv (fun e => { e with recs := [r.timedOut ((List.range r.words.length).filter (missing.contains ·))] })).bump
        .recorder 0 8 ((List.range r.words.length).filter (missing.contains ·)).length) := by
  have hfind : s.ev.recs.find? (fun r => r.seq == seq) = some r := by simp [hrecs, hseq]
  unfold execRecordSnapshotTimeout
  simp only [hfind, if_pos (And.intro htick hgone), State.modEv, PendRec.timedOut]
  rw [hrecs, List.map_cons, List.map_nil, if_pos hseq]

/-- Settles O22: a record written to its slot, one that timed out, and the reads of slots. -/
theorem theRecorderStoresAndReadsRecords : Obligations.TheRecorderStoresAndReadsRecords := by
  unfold Obligations.TheRecorderStoresAndReadsRecords
  refine ⟨?main, ?emergency, ?timeout, ?corrected, ?failed⟩
  case main =>
    intro s seq emergencyOk r hr hgood
    have hseq : r.seq = seq := by simpa using List.find?_some hr
    obtain ⟨hgone, hcount, -⟩ := noteWritten_result (putMain s (seq % 2048) (recordBytes r false)) r
    refine ⟨_, recordComplete_main emergencyOk hr hgood, ?_, fun x hx h => hgone x hx (h.trans hseq.symm), ?_⟩
    · rw [noteWritten_bytes, putMain_bytes]
    · rw [Counted, hcount, putMain_num]
  case emergency =>
    intro s seq e mainOk r hr hfailed hnext _
    have hseq : r.seq = seq := by simpa using List.find?_some hr
    obtain ⟨f, hdone⟩ := recordComplete_emergency mainOk hr hfailed hnext
    obtain ⟨hgone, hcount, h12⟩ :=
      noteWritten_result (((s.setBytes .recEmergency 0 (e + 1) (recordBytes r true)).modEv f).bump .recorder 0 12 1) r
    refine ⟨_, hdone, ?_, fun x hx h => hgone x hx (h.trans hseq.symm), ?_, ?_⟩
    · rw [noteWritten_bytes]
      exact bytes_setBytes_same s _ _ _ _
    · rw [Counted, hcount, num_bump_ne _ (entryKey_sub_ne _ _ (by decide)), State.modEv_num, num_setBytes]
    · rw [Counted, h12, num_bump_same, State.modEv_num, num_setBytes]
  case timeout =>
    intro s seq missing r hrecs hseq htick hgone
    refine ⟨_, recordSnapshotTimeout_only hrecs hseq htick hgone, ?_, ?_⟩
    · intro x hx
      rw [List.mem_singleton.1 hx, bit_eq_testBit, PendRec.timedOut, Nat.testBit_or]
      exact Bool.or_true _
    · rw [Counted, num_bump_same, State.modEv_num]
  case corrected =>
    intro s slot hslot
    refine ⟨_, if_pos (.inl ⟨rfl, hslot⟩), rfl, rfl, ?_, rfl⟩
    show (answer (s.bump .recorder 0 9 1) .success).num .recorder 0 9 = _
    rw [answer_num _ _ (by decide) (by decide) (by decide), num_bump_same]
  case failed =>
    intro s slot hslot hgood
    have hfailed : slot ∈ (failEmergency s slot).ev.failEmer := by
      unfold failEmergency
      rw [if_neg (by rw [hgood]; decide), raise, (raiseAt_records _ _ _ _ _).failEmer]
      exact List.mem_append_right _ (List.mem_singleton.2 rfl)
    exact ⟨_, if_pos (.inr ⟨rfl, hslot⟩), rfl, rfl, hfailed, rfl⟩

/-! Digital inputs. -/

theorem putBit_low (m : Nat) {b : Nat} (hb : b ≠ 0) (v : Bool) : bit (putBit m b v) 0 = bit m 0 := by
  obtain ⟨k, rfl⟩ := Nat.exists_eq_succ_of_ne_zero hb
  unfold putBit setBit clearBit bit
  have hpow : 2 ^ k.succ = 2 * 2 ^ k := by rw [Nat.pow_succ, Nat.mul_comm]
  rw [hpow]
  have hpos : 0 < 2 ^ k := Nat.pow_pos (by decide)
  split
  · split <;> simp
  · split
    · next hset =>
      have hge : 2 * 2 ^ k ≤ m := by
        by_contra hlt
        rw [Nat.div_eq_of_lt (by omega)] at hset
        simp at hset
      simp
      omega
    · simp

/-- The lowest bit of the State entry of an input, after another of its bits has been set. -/
theorem dinBit_level (s : State) (i : Nat) {b : Nat} (hb : b ≠ 0) (v : Bool) :
    bit ((dinBit s i b v).nat .din i 4) 0 = bit (s.nat .din i 4) 0 := by
  have hnum : (dinBit s i b v).nat .din i 4 = putBit (s.nat .din i 4) b v % 256 := by
    unfold dinBit
    rw [State.nat, num_setNum_same]
    exact Int.toNat_natCast _
  have hmod (m : Nat) : bit (m % 256) 0 = bit m 0 := by
    rw [bit_eq_testBit, bit_eq_testBit, show 256 = 2 ^ 8 from rfl, Nat.testBit_mod_two_pow]
    simp
  rw [hnum, hmod, putBit_low _ hb]

theorem find_modDin {i : Nat} {d : DinSt} (h : Sparse.find s.dins i = some d) (f : DinSt → DinSt) :
    Sparse.find (s.modDin i f).dins i = some (f d) := by
  unfold State.modDin
  rw [h]
  exact Sparse.find_put_same _ _ _

/-- The level of an input changes without a change of what waits for its edge processor. -/
theorem dinLevel_changes {i : Nat} {d : DinSt} (h : Sparse.find s.dins i = some d) (t : Nat) (level : Bool) :
    ∃ d', Sparse.find (dinLevel s i t level).dins i = some d' ∧ d'.changes = d.changes := by
  unfold dinLevel
  extract_lets s1 s2
  have h2 : Sparse.find s2.dins i = some { d with
      levels := ((t, level) :: d.levels).take 64, runFrom := if level then some t else none } := find_modDin h _
  cases level
  · unfold unstick
    simp only [Bool.false_eq_true, if_false, h2]
    split
    · have hended := find_modDin h2 (fun d => { d with stuck := d.stuck.map (fun p => if p.2 = none then (p.1, some (t - 1)) else p) })
      exact ⟨_, (congrArg (Sparse.find · i) (raise_dins ..)).trans hended, rfl⟩
    · exact ⟨_, h2, rfl⟩
  · exact ⟨_, h2, rfl⟩

theorem captureAt_dins (s : State) (u t sub edge : Nat) : (captureAt s u t sub edge).dins = s.dins := by
  unfold captureAt
  dsimp only
  split <;> rfl

theorem deliver_dins (s : State) (k : OccKind) (tick : Nat) (only : Option Nat) : (deliver s k tick only).dins = s.dins := by
  refine foldl_kept _ s fun s t => ?_
  split
  · rfl
  · extract_lets s1
    have h1 : s1.dins = s.dins := by
      simp only [s1]
      split <;> rfl
    exact iteInduction (motive := fun t : State => t.dins = s.dins) (fun _ => h1) fun _ => h1

theorem deliver_num (s : State) (k : OccKind) (tick : Nat) (only : Option Nat) (o : Obj) (u sub : Nat) :
    (deliver s k tick only).num o u sub = s.num o u sub := by
  refine foldl_kept (g := fun v : State => v.num o u sub) _ s fun s t => ?_
  split
  · rfl
  · extract_lets s1
    have h1 : s1.num o u sub = s.num o u sub := by
      simp only [s1]
      split <;> rfl
    exact iteInduction (motive := fun t : State => t.num o u sub = s.num o u sub) (fun _ => h1) fun _ => h1

/-- A capture unit leaves the entries of every other object. -/
theorem captureAt_num (s : State) {u w b : Nat} {p : Obj} (t sub edge : Nat) (hu : u < Obj.size .capture) (hp : p ≠ .capture)
    (hw : w < p.size) (hb : b < 256) : (captureAt s u t sub edge).num p w b = s.num p w b := by
  unfold captureAt
  extract_lets c s1 s2
  have hset (v : State) (a : Nat) (n : Int) (ha : a < 256) : (v.setNum .capture u a n).num p w b = v.num p w b :=
    num_setNum_obj v hp hu hw ha hb n
  have h1 : s1.num p w b = s.num p w b :=
    iteInduction (motive := fun t : State => t.num p w b = s.num p w b) (fun _ => hset s 7 _ (by decide)) fun _ => rfl
  show ((((s1.setNum .capture u 3 _).setNum .capture u 4 _).setNum .capture u 5 _).bump .capture u 6 1).num p w b = _
  rw [State.bump, hset _ 6 _ (by decide), hset _ 5 _ (by decide), hset _ 4 _ (by decide), hset _ 3 _ (by decide), h1]

/-- A processed edge is counted and leaves the inputs. -/
theorem dinEdge_result (s : State) {i : Nat} (hi : i < 16) (c : DinChange) :
    (dinEdge s i c).dins = s.dins ∧ Counted s (dinEdge s i c) .din i 5 1 := by
  unfold dinEdge
  extract_lets s1 code sel s2 s3
  have hsize : i < Obj.size .din := hi
  have h1 : s1.dins = s.dins ∧ s1.num .din i 5 = (entryTy .din i 5).narrow (s.num .din i 5 + (1 : Nat)) :=
    ⟨rfl, num_bump_same s _ _ _ _⟩
  have h2 : s2.dins = s1.dins ∧ s2.num .din i 5 = s1.num .din i 5 :=
    iteInduction (motive := fun t : State => t.dins = s1.dins ∧ t.num .din i 5 = s1.num .din i 5)
      (fun _ => ⟨captureAt_dins _ _ _ _ _, captureAt_num s1 _ _ _ (Nat.lt_trans hi (by decide)) (by decide) hsize (by decide)⟩)
      fun _ => ⟨rfl, rfl⟩
  have h3 : s3.dins = s2.dins ∧ s3.num .din i 5 = s2.num .din i 5 :=
    iteInduction (motive := fun t : State => t.dins = s2.dins ∧ t.num .din i 5 = s2.num .din i 5)
      (fun _ => ⟨rfl, rfl⟩) fun _ => ⟨deliver_dins _ _ _ _, deliver_num _ _ _ _ _ _ _⟩
  refine ⟨?_, ?_⟩
  · rw [raiseAt_dins, h3.1, h2.1, h1.1]
  · rw [Counted, raiseAt_num_sub _ _ _ _ _ (by decide) (by decide), h3.2, h2.2, h1.2]

theorem noteRetained_dins (s : State) (o : Obj) (u sub : Nat) : (noteRetained s o u sub).dins = s.dins := by
  unfold noteRetained
  repeat' split
  all_goals rfl

/-- A filter length within its range. -/
theorem filterLength_accepted {i : Nat} {bs : Bytes} (hs : s.serves ses) (hi : i < 16) (hlen : bs.length = 2)
    (hlo : 25 ≤ leNat bs) (hhi : leNat bs ≤ 24576) : Accepted s ses .din i 2
      ⟨2, 2, "Filter length F (grid ticks)", .u16, .rw, true, .num 25, .rng 25 24576⟩ bs (leNat bs) := by
  have hentry : Obj.entry .din i 2 = some ⟨2, 2, "Filter length F (grid ticks)", .u16, .rw, true, .num 25, .rng 25 24576⟩ := rfl
  have hin : outside 25 24576 (leNat bs : Int) = false := by
    unfold outside
    simp
    omega
  refine ⟨hs, hi, has_of_present hi rfl, ⟨hentry, by decide⟩, ⟨bne_eq_false_iff_eq.2 hlen, rfl⟩, rfl, rfl, ?_⟩
  unfold fieldCheck
  simp only [hentry, hin, Bool.not_false, if_true]

/-- A new filter length restarts the filter. -/
theorem filterLength_write {i : Nat} {bs : Bytes} (s : State) (ses : Nat) (hne : s.num .din i 2 ≠ leNat bs) :
    writeAction s ses .din i 2 (leNat bs) bs =
      ((s.setNum .din i 2 (leNat bs)).modDin i (fun d => { d with fresh := true, from_ := s.now }), .success) := by
  show ((if (leNat bs : Int) ≠ s.num .din i 2 ∨ 2 = 3 then dinSetting (s.setNum .din i 2 (leNat bs)) i 2 else _), Code.success) = _
  rw [if_pos (.inl hne.symm)]
  rfl

theorem modDin_same (s : State) (i : Nat) (f : DinSt → DinSt) :
    { s.modDin i f with dins := s.dins } = s := by
  unfold State.modDin
  split <;> rfl

theorem modDin_power (s : State) (i : Nat) (f : DinSt → DinSt) : (s.modDin i f).power = s.power :=
  (congrArg State.power (modDin_same s i f) :)

theorem modDin_num (s : State) (i : Nat) (f : DinSt → DinSt) (o : Obj) (u sub : Nat) :
    (s.modDin i f).num o u sub = s.num o u sub :=
  have h := modDin_same s i f
  num_congr (congrArg State.regs h :) (congrArg State.variant h :) (congrArg State.fac h :) o u sub

/-- An input whose first change its edge processor takes. -/
def DinSt.processes (c : DinChange) (rest : List DinChange) (d : DinSt) : DinSt :=
  { d with changes := rest, proc := some c.accepted, procLevel := c.level }

theorem dinEdgeProcessed_first {i : Nat} {d : DinSt} {c : DinChange} {rest : List DinChange} (hi : i < 16)
    (hd : Sparse.find s.dins i = some d) (hchanges : d.changes = c :: rest) (hproc : d.proc = none) (hdue : c.accepted ≤ s.now) :
    execDinEdgeProcessed i s = .next (dinEdge (s.modDin i (DinSt.processes c rest)) i c) := by
  unfold execDinEdgeProcessed dinLook
  simp only [hd, hi, hchanges, hproc, Nat.not_lt.2 hdue, if_true, if_false, Option.getD_some]
  rfl

/-- Input i with a stuck condition that has begun now. -/
def stuckFrom (s : State) (i : Nat) : State := s.modDin i (fun d => { d with stuck := ((s.now, none) :: d.stuck).take 16 })

/-- An input whose level has been 1 for its maximum active time is stuck. -/
theorem digitalInputStuck_due {i r : Nat} {d : DinSt} (hi : i < 16) (hd : Sparse.find s.dins i = some d)
    (hrun : d.runFrom = some r) (ha : s.nat .din i 3 ≠ 0) (hfree : isStuck d = false) (hdue : r + msTicks (s.nat .din i 3) ≤ s.now) :
    execDigitalInputStuck i s = .next (raise (((dinBit (stuckFrom s i) i 1 true).bump .din i 8 1).setNum .din i 9
      (stuckFrom s i).now) 48 2 i) := by
  unfold execDigitalInputStuck
  simp only [hd, hrun]
  exact if_pos ⟨hi, ha, hfree, hdue⟩

/-- Settles O23: the filter, the edge processor, the stuck condition and a write of the filter length. -/
theorem digitalInputsFilterProcessAndStick : Obligations.DigitalInputsFilterProcessAndStick := by
  unfold Obligations.DigitalInputsFilterProcessAndStick
  refine ⟨?accept, ?edge, ?stuck, ?setting⟩
  case accept =>
    intro s i edge run ball d hi hd hfresh hlen hnow hlevel
    have hlevel' : ¬ (ball != (s.nat .din i 1 == 1)) = bit ((dinBit s i 2
        (ball != decide (edge.tick + run < s.now))).nat .din i 4) 0 := by
      rw [dinBit_level s i (by decide)]
      exact hlevel
    refine ⟨dinAccept (dinBit s i 2 (ball != decide (edge.tick + run < s.now))) i (max edge.tick d.from_ + s.nat .din i 2)
      edge.tick edge.sub (ball != (s.nat .din i 1 == 1)), ?_, ?_⟩
    · show execDinFilterAccept i ball edge run s = _
      unfold execDinFilterAccept
      simp only [hd, hfresh]
      rw [if_neg (by omega), if_pos hlen]
      refine (if_pos (show _ ≤ s.now from hnow)).trans ?_
      rw [if_neg (by decide)]
      exact if_neg hlevel'
    · have hd' : Sparse.find (dinBit s i 2 (ball != decide (edge.tick + run < s.now))).dins i = some d := hd
      obtain ⟨d', hfound, hchanges⟩ := dinLevel_changes hd' (max edge.tick d.from_ + s.nat .din i 2) (ball != (s.nat .din i 1 == 1))
      rw [dinAccept, find_modDin hfound, ← hchanges]
      rfl
  case edge =>
    intro s i d c rest hi hd hchanges hproc hdue
    obtain ⟨hdins, hcount⟩ := dinEdge_result (s.modDin i (DinSt.processes c rest)) hi c
    refine ⟨_, dinEdgeProcessed_first hi hd hchanges hproc hdue, ?_, ?_⟩
    · rw [hdins, find_modDin hd]
      rfl
    · rw [Counted, hcount, modDin_num]
  case stuck =>
    intro s i r d hi hd hrun ha hfree hdue
    have hframe (sub : Nat) : (stuckFrom s i).num .din i sub = s.num .din i sub := modDin_num ..
    have hnow : (stuckFrom s i).now = s.now := (congrArg State.now (modDin_same s i _) :)
    refine ⟨_, digitalInputStuck_due hi hd hrun ha hfree hdue, ?_, ?_, ?_⟩
    · rw [State.nat, raise_num_sub _ _ _ _ (by decide) (by decide), num_setNum_sub _ _ _ (by decide),
        num_bump_ne _ (entryKey_sub_ne _ _ (by decide)), dinBit, num_setNum_same]
      have hmod (m : Nat) : bit ((entryTy .din i 4).narrow (m : Nat)).toNat 1 = bit m 1 := by
        rw [show (entryTy .din i 4).narrow (m : Nat) = ((m % 2 ^ 8 : Nat) : Int) from rfl, Int.toNat_natCast, bit_eq_testBit,
          bit_eq_testBit, Nat.testBit_mod_two_pow]
        simp
      rw [hmod, putBit, if_pos rfl, bit_setBit]
    · rw [Counted, raise_num_sub _ _ _ _ (by decide) (by decide), num_setNum_sub _ _ _ (by decide), num_bump_same, dinBit,
        num_setNum_sub _ _ _ (by decide), hframe]
    · rw [raise_num_sub _ _ _ _ (by decide) (by decide), num_setNum_same, hnow]
      rfl
  case setting =>
    intro s ses i bs d hs hreset hi hlen hlo hhi hne hd
    have hsize : i < Obj.size .din := hi
    have hserved := (filterLength_accepted hs hi hlen hlo hhi).retained (filterLength_write s ses hne)
      (by rw [modDin_power]; exact hreset)
    have hwritten : execDinSettingWrite ses (Obj.index .din i) 2 bs s = .next (serveObj s ses .din i 2 bs) := by
      unfold execDinSettingWrite
      rw [rowOf_index hsize, if_pos (by rfl), serveWrite_eq_serveObj hsize]
    refine ⟨_, hwritten.trans (congrArg Host.Outcome.next hserved), rfl, ?_, ?_⟩
    · rw [answer_num _ _ (by decide) hsize (by decide), noteRetained_num _ _ _ _ _ _ _ (entryKey_obj_ne (by decide) hsize (by decide) (by decide) (by decide)), modDin_num,
        num_setNum_same]
      exact narrowU_of_lt (by omega) (by omega)
    · have hd' : Sparse.find (s.setNum .din i 2 (leNat bs)).dins i = some d := hd
      show Option.map _ (Sparse.find (noteRetained _ _ _ _).dins i) = _
      rw [noteRetained_dins, find_modDin hd']
      rfl

end Sys2Proof.Machine
end

section
/-! PROOFS. Triggers of the take engine (R269 to R290): what an occurrence changes of a take, and the writes to the take engine. -/

namespace Sys2Proof.Machine

open Sys2Proof

variable {s t u : State} {ses k : Nat} {bs : Bytes} {o : Occ}

/-! Folds and takes. -/

/-- A fold whose steps all leave the state but one does that step. -/
theorem foldl_only {f : State → Nat → State} (h : ∀ s t, t ≠ k → f s t = s) (l : List Nat) (hl : l.Nodup) (s : State) :
    l.foldl f s = if k ∈ l then f s k else s := by
  induction l generalizing s with
  | nil => rfl
  | cons a l ih =>
    obtain ⟨ha, hl⟩ := List.nodup_cons.1 hl
    rw [List.foldl_cons, ih hl]
    by_cases hk : k = a
    · subst hk
      rw [if_neg ha, if_pos (List.mem_cons_self ..)]
    · rw [h s a (Ne.symm hk)]
      simp [hk]

/-- What a change of a take keeps of every take, it keeps of each. -/
theorem modTake_kept {α : Type} {g : TakeSt → α} (s : State) (i k : Nat) (f : TakeSt → TakeSt) (h : ∀ x, g (f x) = g x) :
    g ((s.modTake i f).take k) = g (s.take k) := by
  by_cases hk : k = i
  · subst hk
    rw [State.modTake_same, h]
  · rw [State.modTake_other _ hk]

/-- The occurrence reaches the take engine: the takes alone change. -/
theorem deliver_same (s : State) (kind : OccKind) (tick : Nat) (only : Option Nat) :
    { deliver s kind tick only with takes := s.takes } = s := by
  refine foldl_kept (g := fun v : State => { v with takes := s.takes }) _ s fun v i => ?_
  split
  · rfl
  · extract_lets v1
    have h1 : ({ v1 with takes := s.takes } : State) = { v with takes := s.takes } := by
      simp only [v1]
      split <;> rfl
    exact iteInduction (motive := fun t : State => ({ t with takes := s.takes } : State) = { v with takes := s.takes })
      (fun _ => h1) fun _ => h1

theorem deliver_timeNext (s : State) (kind : OccKind) (tick : Nat) (only : Option Nat) (k : Nat) :
    ((deliver s kind tick only).take k).timeNext = (s.take k).timeNext := by
  refine foldl_kept (g := fun v : State => (v.take k).timeNext) _ s fun v i => ?_
  split
  · rfl
  · extract_lets v1
    have h1 : (v1.take k).timeNext = (v.take k).timeNext := by
      simp only [v1]
      split
      · exact modTake_kept (g := TakeSt.timeNext) _ _ _ _ fun x => by split <;> rfl
      · rfl
    exact iteInduction (motive := fun t : State => (t.take k).timeNext = (v.take k).timeNext)
      (fun _ => by rw [← h1]; exact modTake_kept (g := TakeSt.timeNext) _ _ _ _ fun _ => rfl) fun _ => h1

/-- A take whose first start source matches an occurrence that is its own holds it. -/
theorem deliver_holds (s : State) {kind : OccKind} (tick : Nat) (hk : k < 16) (hsel : selMatches (s.nat .take k 5) kind = true) :
    ∃ o ∈ ((deliver s kind tick (some k)).take k).starts, o.tick = tick := by
  unfold deliver
  rw [foldl_only (k := k) (fun v i hi => if_pos (by simp [Ne.symm hi])) _ List.nodup_range, if_pos (List.mem_range.2 hk),
    if_neg (by simp)]
  have hfirst : (List.range 4).find? (fun i => selMatches (s.nat .take k (5 + i)) kind) = some 0 :=
    List.find?_cons_of_pos (a := 0) (l := [1, 2, 3]) hsel
  rw [hfirst]
  extract_lets v
  have hheld : ∃ o ∈ (v.take k).starts, o.tick = tick := by
    simp only [v, State.modTake_same]
    split
    · next hany =>
      obtain ⟨y, hy, hyt⟩ := List.any_eq_true.1 hany
      refine ⟨_, List.mem_map_of_mem hy, ?_⟩
      split
      · rfl
      · exact eq_of_beq hyt
    · exact ⟨_, List.mem_append_right _ (List.mem_singleton.2 rfl), rfl⟩
  exact iteInduction (motive := fun t : State => ∃ o ∈ (t.take k).starts, o.tick = tick)
    (fun _ => by rw [State.modTake_same]; exact hheld) fun _ => hheld

/-! The consideration of an occurrence. -/

/-- The occurrences of take k, waiting and seen, stand as before. -/
def SameOccurrences (k : Nat) (s t : State) : Prop :=
  (t.take k).starts = (s.take k).starts ∧ (t.take k).seen = (s.take k).seen

theorem SameOccurrences.trans (h : SameOccurrences k s t) (g : SameOccurrences k t u) : SameOccurrences k s u :=
  ⟨g.1.trans h.1, g.2.trans h.2⟩

theorem SameOccurrences.of_takes (h : t.takes = s.takes) : SameOccurrences k s t := by
  have htake : t.take k = s.take k := by rw [State.take, h]; rfl
  exact ⟨congrArg TakeSt.starts htake, congrArg TakeSt.seen htake⟩

theorem SameOccurrences.modTake (s : State) (i : Nat) (f : TakeSt → TakeSt) (h : ∀ x, (f x).starts = x.starts)
    (h' : ∀ x, (f x).seen = x.seen) : SameOccurrences k s (s.modTake i f) :=
  ⟨modTake_kept (g := TakeSt.starts) s i k f h, modTake_kept (g := TakeSt.seen) s i k f h'⟩

theorem regionAdvance_takes (n : Nat) (s : State) : (regionAdvance n s).takes = s.takes := by
  induction n generalizing s with
  | zero => rfl
  | succ n ih =>
    unfold regionAdvance
    split
    · split
      · exact ih _
      · rfl
    · rfl

/-- The write offset and its count are all that an advance changes of the entries. -/
theorem regionAdvance_num (n : Nat) (s : State) {p : Obj} {w b : Nat} (hp : p ≠ .takeMem) (hw : w < p.size) (hb : b < 256) :
    (regionAdvance n s).num p w b = s.num p w b := by
  induction n generalizing s with
  | zero => rfl
  | succ n ih =>
    unfold regionAdvance
    split
    · split
      · rw [ih, num_setNum_obj _ hp (by decide) hw (by decide) hb, State.bump, num_setNum_obj _ hp (by decide) hw (by decide) hb]
        rfl
      · rfl
    · rfl

theorem regionReserve_takes (s : State) (a pad occ i : Nat) : (regionReserve s a pad occ i).takes = s.takes := by
  unfold regionReserve
  dsimp only
  split <;> rfl

theorem regionReserve_num (s : State) (a pad occ i : Nat) (p : Obj) (w b : Nat) :
    (regionReserve s a pad occ i).num p w b = s.num p w b := by
  unfold regionReserve
  dsimp only
  split <;> rfl

theorem takeMiss_occurrences (s : State) (i cause : Nat) (o : Occ) (p : Int) : SameOccurrences k s (takeMiss s i cause o p) := by
  unfold takeMiss
  extract_lets s1 s2
  have h1 : SameOccurrences k s s1 := .of_takes rfl
  have h2 : SameOccurrences k s1 s2 :=
    (SameOccurrences.of_takes (raise_takes ..)).trans (.modTake _ _ _ (fun _ => rfl) fun _ => rfl)
  refine (h1.trans h2).trans ?_
  split
  · exact .of_takes (by rw [advance, regionAdvance_takes, State.modMem_takes, regionReserve_takes])
  · exact .of_takes rfl

/-- A missed trigger is counted for its take. -/
theorem takeMiss_counts (s : State) (hk : k < 16) (cause : Nat) (o : Occ) (p : Int) :
    Counted s (takeMiss s k cause o p) .takeStat k 7 1 := by
  unfold takeMiss
  extract_lets s1 s2
  have h1 : Counted s s1 .takeStat k 7 1 := (num_setNum_sub _ _ _ (by decide) _).trans (num_bump_same s _ _ _ _)
  have h2 : s2.num .takeStat k 7 = s1.num .takeStat k 7 := raise_num_sub _ _ _ _ (by decide) (by decide)
  have hsize : k < Obj.size .takeStat := hk
  split
  · rw [Counted, advance, regionAdvance_num _ _ (by decide) hsize (by decide), State.modMem_num, regionReserve_num, h2, h1]
  · rw [Counted, num_bump_ne _ (entryKey_obj_ne (by decide) hsize (by decide) (by decide) (by decide)), h2, h1]

theorem takeTo_occurrences (s : State) (i st tick : Nat) : SameOccurrences k s (takeTo s i st tick) :=
  (SameOccurrences.of_takes rfl).trans (.modTake _ _ _ (fun _ => rfl) fun _ => rfl)

theorem takeFill_occurrences (s : State) (i : Nat) (o : Occ) (p : Int) (kts : List Int) (ph sr a pad : Nat) :
    SameOccurrences k s (takeFill s i o p kts ph sr a pad) := by
  unfold takeFill
  extract_lets ms nPre _ f s1 s2 s3
  have h1 : SameOccurrences k s s1 := .of_takes (regionReserve_takes _ _ _ _ _)
  have h2 : SameOccurrences k s1 s2 := iteInduction (fun _ => .of_takes rfl) fun _ => .of_takes rfl
  have h3 : SameOccurrences k s2 s3 := .of_takes (raise_takes ..)
  exact ((h1.trans h2).trans h3).trans ((takeTo_occurrences s3 i _ _).trans (.modTake _ _ _ (fun _ => rfl) fun _ => rfl))

/-- The occurrence that take k considers has been taken from those that wait, and is among those seen. -/
def consideredTake (s : State) (k : Nat) (o : Occ) : State := s.modTake k (fun x => { x with seen := (o.tick :: x.seen).take 64 })

/-- Considering a new occurrence changes no other occurrence of the take. -/
theorem takeConsider_occurrences (s : State) (hnew : (s.take k).seen.contains o.tick = false) :
    SameOccurrences k (consideredTake s k o) (takeConsider s k o) := by
  unfold takeConsider
  extract_lets x st left d p v hs nPre ph m sr
  rw [if_neg (by rw [hnew]; decide)]
  have hsame : SameOccurrences k v v := .of_takes rfl
  split
  · exact hsame
  · split
    · exact .of_takes rfl
    · split
      · exact takeMiss_occurrences ..
      · split
        · exact takeMiss_occurrences ..
        · split
          · exact hsame
          · split
            · exact takeMiss_occurrences ..
            · split
              · split
                · exact takeMiss_occurrences ..
                · exact takeFill_occurrences ..
              · exact takeMiss_occurrences ..

/-- The gate of a take does not depend on its occurrences. -/
theorem takeConsider_gated (s : State) (hnew : (s.take k).seen.contains o.tick = false)
    (hlo : 1 ≤ histAt (s.take k).hist o.tick 0) (hhi : histAt (s.take k).hist o.tick 0 ≤ 4) (hgate : gateMet s k o.tick = false) :
    takeConsider s k o = (consideredTake s k o).bump .takeStat k 8 1 := by
  unfold takeConsider
  extract_lets x st left d p v
  rw [if_neg (by rw [hnew]; decide), if_neg (by simp only [st, x]; omega)]
  exact if_pos (by rw [show gateMet v k o.tick = gateMet s k o.tick from rfl, hgate]; rfl)

theorem takeConsider_missed (s : State) (hnew : (s.take k).seen.contains o.tick = false)
    (hlo : 2 ≤ histAt (s.take k).hist o.tick 0) (hhi : histAt (s.take k).hist o.tick 0 ≤ 4) (hgate : gateMet s k o.tick = true) :
    takeConsider s k o = takeMiss (consideredTake s k o) k 1 o (trigPoint s (takeD s k) o.tick o.kind) := by
  unfold takeConsider
  extract_lets x st left d p v
  rw [if_neg (by rw [hnew]; decide), if_neg (by simp only [st, x]; omega),
    if_neg (by rw [show gateMet v k o.tick = gateMet s k o.tick from rfl, hgate]; decide), if_pos (by simp only [st, x]; omega)]
  rfl

/-- Take k with its only occurrence taken. -/
def takenFrom (s : State) (k : Nat) (o : Occ) : State := s.modTake k (fun x => { x with starts := x.starts.erase o })

theorem takenFrom_take (s : State) (k : Nat) (o : Occ) :
    (takenFrom s k o).take k = { s.take k with starts := (s.take k).starts.erase o } := State.modTake_same ..

theorem triggerOccurrence_only (hstarts : (s.take k).starts = [o]) (htick : o.tick ≤ s.now) :
    execTakeTriggerOccurrence k s = .next (takeConsider (takenFrom s k o) k o) := by
  have hfind : [o].find? (fun o => decide (o.tick ≤ s.now)) = some o := List.find?_cons_of_pos (decide_eq_true htick)
  unfold execTakeTriggerOccurrence
  rw [hstarts, hfind]
  rfl

theorem takenFrom_starts (hstarts : (s.take k).starts = [o]) : ((takenFrom s k o).take k).starts = [] := by
  rw [takenFrom_take, hstarts]
  exact List.erase_cons_head ..

theorem takenFrom_new (hnew : o.tick ∉ (s.take k).seen) : ((takenFrom s k o).take k).seen.contains o.tick = false := by
  rw [takenFrom_take]
  simpa using hnew

/-! Writes to the take engine. -/

theorem takeStat_accepted {sub : Nat} {e : Entry} (hs : s.serves ses) (hk : k < 16) (he : Plain .takeStat k sub e)
    (hfit : Fits e bs) (hvalue : (if e.ty.isBytes then 0 else e.ty.decode bs) = (leNat bs : Int))
    (hfield : fieldCheck s .takeStat k sub (leNat bs) bs = none) : Accepted s ses .takeStat k sub e bs (leNat bs) :=
  ⟨hs, hk, has_of_present hk rfl, he, hfit, hvalue, rfl, hfield⟩

/-- Settles O24: the triggers, the occurrences and the writes. -/
theorem triggersReachTheTakeEngine : Obligations.TriggersReachTheTakeEngine := by
  unfold Obligations.TriggersReachTheTakeEngine
  refine ⟨?network, ?time, ?taken, ?gated, ?missed, ?stop, ?release, ?slack⟩
  case network =>
    intro s ses k bs hs hreset hk hlen hsel
    have hok : Accepted s ses .takeStat k 2 ⟨2, 2, "Network trigger", .grid, .wo, false, .calc, .any⟩ bs (leNat bs) :=
      takeStat_accepted hs hk ⟨rfl, by decide⟩ ⟨bne_eq_false_iff_eq.2 hlen, rfl⟩ rfl rfl
    have hpower : (netTrigger s k (leNat bs)).power = s.power := (congrArg State.power (deliver_same s _ _ _) :)
    have hserved := hok.volatile (t := netTrigger s k (leNat bs)) rfl rfl (by rw [hpower]; exact hreset)
    have htick : (if leNat bs < s.now then s.now else leNat bs) = max (leNat bs) s.now := by split <;> omega
    refine ⟨_, congrArg Host.Outcome.next hserved, rfl, ?_⟩
    rw [answer_take, ← htick]
    exact deliver_holds s _ hk (by unfold selMatches; simp [hsel])
  case time =>
    intro s k i hk hnext hdue
    refine ⟨deliver (s.modTake k (fun x => { x with timeNext := if s.nat .take k 12 = 0 then none else some (i + 1) })) .time
      (s.nat .take k 11 + i * s.nat .take k 12) (some k), ?_, ?_, ?_⟩
    · show execTimeSourceInstance k s = _
      unfold execTimeSourceInstance
      simp only [hnext]
      exact if_pos ⟨hk, hdue⟩
    · rw [deliver_timeNext, State.modTake_same]
    · have hsame := deliver_same (s.modTake k (fun x => { x with timeNext := if s.nat .take k 12 = 0 then none else some (i + 1) }))
        .time (s.nat .take k 11 + i * s.nat .take k 12) (some k)
      exact (congrArg (fun v : State => { v with takes := s.takes }) hsame :)
  case taken =>
    intro s k o hstarts htick hnew
    obtain ⟨hkept, hseen⟩ := takeConsider_occurrences (takenFrom s k o) (takenFrom_new hnew)
    rw [consideredTake, State.modTake_same] at hkept hseen
    exact ⟨_, triggerOccurrence_only hstarts htick, hkept.trans (takenFrom_starts hstarts),
      hseen.trans (by rw [takenFrom_take])⟩
  case gated =>
    intro s k o hk hstarts htick hnew hlo hhi hgate
    refine ⟨_, (triggerOccurrence_only hstarts htick).trans (congrArg Host.Outcome.next (takeConsider_gated _ (takenFrom_new hnew)
      (by rw [takenFrom_take]; exact hlo) (by rw [takenFrom_take]; exact hhi) hgate)), ?_, ?_, rfl⟩
    · rw [Counted, num_bump_same, consideredTake, takenFrom, State.modTake_num, State.modTake_num]
    · rw [takeState, State.nat, num_bump_ne _ (entryKey_sub_ne _ _ (by decide)), consideredTake, takenFrom, State.modTake_num,
        State.modTake_num]
      rfl
  case missed =>
    intro s k o hk hstarts htick hnew hlo hhi hgate
    obtain ⟨hkept, -⟩ := takeConsider_occurrences (takenFrom s k o) (takenFrom_new hnew)
    rw [consideredTake, State.modTake_same] at hkept
    refine ⟨_, triggerOccurrence_only hstarts htick, ?_, hkept.trans (takenFrom_starts hstarts)⟩
    rw [takeConsider_missed _ (takenFrom_new hnew) (by rw [takenFrom_take]; exact hlo) (by rw [takenFrom_take]; exact hhi) hgate]
    rw [Counted, takeMiss_counts _ hk, consideredTake, takenFrom, State.modTake_num, State.modTake_num]
  case stop =>
    intro s k o f hstops htick hfill hend hstop hpoint
    refine ⟨(s.modTake k (fun x => { x with stops := x.stops.erase o })).modTake k (fun x =>
      { x with fill := some { f with stop := some (trigPoint s f.d o.tick o.kind), stopAt := o.tick } }), ?_, ?_, ?_, rfl⟩
    · show execTakeStopOccurrence k s = _
      have hfind : [o].find? (fun o => decide (o.tick ≤ s.now)) = some o := List.find?_cons_of_pos (decide_eq_true htick)
      unfold execTakeStopOccurrence
      rw [hstops, hfind]
      dsimp only
      rw [State.modTake_same]
      simp only [hfill]
      exact if_pos ⟨hend, hstop, hpoint⟩
    · rw [State.modTake_same]
    · rw [State.modTake_same, State.modTake_same, hstops]
      exact List.erase_cons_head ..
  case release =>
    intro s ses bs hs hreset hlen h64 hlo hhi
    have hlt := leNat_lt bs
    rw [hlen] at hlt
    have hok : Accepted s ses .takeMem 0 6 ⟨6, 6, "Release offset", .u64, .rw, false, .num 0, .any⟩ bs (leNat bs) :=
      ⟨hs, by decide, rfl, ⟨rfl, by decide⟩, ⟨bne_eq_false_iff_eq.2 hlen, rfl⟩, rfl, rfl, rfl⟩
    have hact : writeAction s ses .takeMem 0 6 (leNat bs) bs = (s.setNum .takeMem 0 6 (leNat bs), .success) := by
      show releaseWrite s (leNat bs) = _
      unfold releaseWrite
      refine if_pos ⟨h64, ?_⟩
      rw [if_pos (Nat.le_trans hlo hhi)]
      simp [hlo, hhi]
    have hserved := hok.volatile rfl hact hreset
    refine ⟨_, congrArg Host.Outcome.next hserved, rfl, ?_, rfl⟩
    rw [answer_num _ _ (by decide) (by decide) (by decide), num_setNum_same]
    exact narrowU_of_lt (by omega) (by omega)
  case slack =>
    intro s ses k bs hs hreset hk hlen
    have hok : Accepted s ses .takeStat k 12 ⟨12, 12, "Largest slack (grid ticks)", .u64, .rw, false, .num 0, .any⟩ bs (leNat bs) :=
      takeStat_accepted hs hk ⟨rfl, by decide⟩ ⟨bne_eq_false_iff_eq.2 hlen, rfl⟩ rfl rfl
    have hserved := hok.volatile (t := s.setNum .takeStat k 12 0) rfl rfl hreset
    refine ⟨_, congrArg Host.Outcome.next hserved, rfl, ?_⟩
    rw [answer_num _ _ (by decide) hk (by decide), num_setNum_same]
    rfl

end Sys2Proof.Machine
end

section
/-! PROOFS. Records, blocks and compare units (R283 to R290, R375, R389 to R407): four statements that a concrete hub refutes. The
writes that wait for a take are any writes, and they take effect when its record is released. -/

namespace Sys2Proof.Machine

open Sys2Proof

/-- What is said of the next state of a command, where it answers one. -/
def nextHas (r : Host.Outcome State Fault Refusal) (p : State → Bool) : Bool :=
  match r with
  | .next t => p t
  | _ => false

theorem nextHas_iff {r : Host.Outcome State Fault Refusal} {t : State} (h : r = .next t) (p : State → Bool) :
    nextHas r p = true ↔ p t = true := by rw [h]; rfl

/-! A take whose record is whole, with a write waiting for it. -/

/-- A fill without members, cut at its tideline before its first slot: its record is whole. -/
def cutFill : Fill :=
  { tick := 0, sel := 0, pIn := 0, asyn := false, d := 1, members := [], kt := [], nPre := 0, nPost := 0, held := 0, stopSel := 0,
    slots := 0, slack := 0, missed := 0, offset := 0, stop := none, stopAt := 0, since := 0, copied := [], tide := some (-1),
    anch := false, post := 0, fillEnd := some 0, maxLen := false }

/-- Take 0 has that fill, whose record is first in the region; two writes wait for it: one takes the take out of use, and the other is
`w`. -/
def writingTake (w : Wr) : State :=
  (State.reset.modTake 0 (fun k => { k with fill := some cutFill, waits := [(0, false, ⟨.take, 0, 1, 0, []⟩), (0, false, w)] })).modMem
    (fun m => { m with places := [⟨0, 128, false, 0⟩] })

/-- Refutes O25: one of the writes that wait sets the count of the takes recorded to 77 at the commit, where the statement has 1. -/
theorem not_aFillCopiesEndsCommitsAndRearms : ¬ Obligations.AFillCopiesEndsCommitsAndRearms := by
  unfold Obligations.AFillCopiesEndsCommitsAndRearms
  rintro ⟨-, -, hcommit, -⟩
  obtain ⟨t, ht, -, hcount⟩ := hcommit (writingTake ⟨.takeStat, 0, 4, 77, []⟩) 0 cutFill ⟨0, 128, false, 0⟩ (by decide)
    (by decide +kernel) (by decide +kernel) rfl (by decide +kernel) (by decide +kernel) (by decide +kernel) (by decide +kernel)
    (by decide +kernel)
  have h77 : nextHas (exec (.takeRecordCommit 0) (writingTake ⟨.takeStat, 0, 4, 77, []⟩)) (·.num .takeStat 0 4 == 77) = true := by
    decide +kernel
  have h1 : t.num .takeStat 0 4 = 1 := hcount.trans (by decide +kernel)
  rw [nextHas_iff ht, h1] at h77
  exact absurd h77 (by decide)

/-! Two cores compared, with the record of that take as the only unit. -/

/-- The cores are compared, core A holds custody, and the take's record waits with the signatures given. -/
def comparedTake (w : Wr) (sigB : Option (Nat × Nat)) : State :=
  ((setCore (setCore (writingTake w) 0 1) 1 2).modCust (fun c =>
    { c with units := [{ recordUnit 0 0 (.take 0) [] with sigB := sigB }], suspect := some 1, equal := 64 })).setNum .custody 0 5 1

/-- Refutes O26: the unit released as equal is the record of a take for which a write of that very count waits. -/
theorem not_signaturesReleaseUnitsOrMoveCustody : ¬ Obligations.SignaturesReleaseUnitsOrMoveCustody := by
  unfold Obligations.SignaturesReleaseUnitsOrMoveCustody
  rintro ⟨-, hequal, -⟩
  obtain ⟨t, ht, -, -, hcount, -⟩ := hequal (comparedTake ⟨.custody, 0, 8, 77, []⟩ (some (crc32c [], 0))) 0 0
    { recordUnit 0 0 (.take 0) [] with sigB := some (crc32c [], 0) } (by decide +kernel) (by decide +kernel) (by decide +kernel)
    rfl rfl (by decide +kernel) (by decide +kernel)
  have h77 : nextHas (exec (.signatureArrival 0 0 0) (comparedTake ⟨.custody, 0, 8, 77, []⟩ (some (crc32c [], 0))))
      (·.num .custody 0 8 == 77) = true := by decide +kernel
  have h1 : t.num .custody 0 8 = 1 := hcount.trans (by decide +kernel)
  rw [nextHas_iff ht, h1] at h77
  exact absurd h77 (by decide)

/-- Refutes O27: custody passes back while the record of a take waits for which a write of the count of takeovers waits; the record is
released as custody moves. -/
theorem not_selfTestsVerdictsAndCustodyCommands : ¬ Obligations.SelfTestsVerdictsAndCustodyCommands := by
  unfold Obligations.SelfTestsVerdictsAndCustodyCommands
  rintro ⟨-, -, -, -, -, hback, -⟩
  obtain ⟨t, ht, -, -, hcount⟩ := hback (comparedTake ⟨.custody, 0, 11, 77, []⟩ none) (by decide +kernel) (by decide +kernel)
    (by decide +kernel) (by decide +kernel) (by decide +kernel)
  have h78 : nextHas (exec .handback (comparedTake ⟨.custody, 0, 11, 77, []⟩ none)) (·.num .custody 0 11 == 78) = true := by
    decide +kernel
  have h1 : t.num .custody 0 11 = 1 := hcount.trans (by decide +kernel)
  rw [nextHas_iff ht, h1] at h78
  exact absurd h78 (by decide)

/-! A block that does not fit, with another of its stream behind it. -/

/-- A raw block of one sample of channel 0. -/
def loneBlock : BlkReady := ⟨0, 0, 0, { ch := 0, first := 0, d := 1, b := 1, coding := false, maxOrder := 0, words := [0] }⟩

/-- Stream 0 runs, takes the samples of channel 0, and has no room; two blocks of it are ready. -/
def fullStream : State :=
  ((State.reset.setNum .stream 0 6 1).modStrm (fun k => { k with spillMb := 0, ready := [loneBlock, loneBlock] })).modStream 0
    (fun k => { k with want := [⟨0, 1, 0, none⟩] })

/-- Refutes O29: the block formed finds no room, so its stream falls back and drops the other block that was ready. -/
theorem not_recordsBlocksAndCopiesBecomeCompareUnits : ¬ Obligations.RecordsBlocksAndCopiesBecomeCompareUnits := by
  unfold Obligations.RecordsBlocksAndCopiesBecomeCompareUnits
  rintro ⟨hblock, -⟩
  obtain ⟨t, ht, hready, -⟩ := hblock fullStream false false loneBlock [loneBlock] (by decide +kernel) (by decide) (by decide +kernel)
  have hnone : nextHas (exec (.blockFormed false false) fullStream) (·.strm.ready == []) = true := by decide +kernel
  rw [nextHas_iff ht, hready] at hnone
  exact absurd hnone (by decide +kernel)

end Sys2Proof.Machine
end

section
/-! PROOFS. The return of a core (R402 to R404), and the runs of calibration (R232 to R259). -/

namespace Sys2Proof.Machine

open Sys2Proof

variable {s t : State} {ses : Nat}

/-! A returning core. -/

theorem joinCore_result (s : State) (r : Resync) :
    (joinCore s r).cust.resync = some { r with tj := some r.due, ts := none, copied := false, spoiled := false } ∧
      Counted s (joinCore s r) .resync 0 5 1 := ⟨rfl, num_bump_same s _ _ _ _⟩

/-- The state of a core as it is shown, once it has been set. -/
theorem core_setCore (s : State) (c : Nat) {v : Nat} (hv : v < 256) (hc : c ≤ 1) : (setCore s c v).core c = v := by
  have hnarrow : (entryTy .custody 0 (2 + c)).narrow (v : Nat) = v := by
    have hty : entryTy .custody 0 (2 + c) = .u8 := by
      rcases Nat.le_one_iff_eq_zero_or_eq_one.1 hc with rfl | rfl <;> rfl
    rw [hty]
    exact narrowU_of_lt (by omega) (by omega)
  unfold State.core setCore
  rw [State.nat, num_setNum_same, hnarrow]
  rfl

theorem core_congr {c : Nat} (h : t.num .custody 0 (2 + c) = s.num .custody 0 (2 + c)) : t.core c = s.core c := by
  unfold State.core State.nat
  rw [h]

/-- A failure between the snapshot and the copy: counted, and then the core waits for its retry, or fails. -/
theorem resyncFailed_by_limit {r : Resync} (hr : s.cust.resync = some r) (hts : r.ts.isSome = true) (hcopied : r.copied = false) :
    execCoreResynchronisationFailed s = .next (
      if s.nat .resync 0 7 ≤ r.fails + 1 then
        (setCore (raise (s.bump .resync 0 6 1) 68 2 r.core) r.core 6).modCust (fun k => { k with resync := none })
      else (raise (s.bump .resync 0 6 1) 68 2 r.core).modCust (fun k => { k with resync := some { r with
        due := ceilTo Config.ticksPerMs (s.now + Config.ticksPerSecond), tj := none, ts := none, spoiled := false,
        fails := r.fails + 1 } })) := by
  have hlimit : (raise (s.bump .resync 0 6 1) 68 2 r.core).nat .resync 0 7 = s.nat .resync 0 7 := by
    rw [State.nat, raise_num_sub _ _ _ _ (by decide) (by decide), num_bump_ne _ (entryKey_sub_ne _ _ (by decide))]
    rfl
  have hnow : (raise (s.bump .resync 0 6 1) 68 2 r.core).now = s.now := by rw [raise_now]; rfl
  unfold execCoreResynchronisationFailed
  simp only [hr]
  rw [if_pos ⟨hts, hcopied⟩, hlimit, hnow]
  split <;> rfl

theorem resyncFailed_counts (s : State) (c : Nat) :
    (raise (s.bump .resync 0 6 1) 68 2 c).num .resync 0 6 = (entryTy .resync 0 6).narrow (s.num .resync 0 6 + (1 : Nat)) := by
  rw [raise_num_sub _ _ _ _ (by decide) (by decide), num_bump_same]

/-- Settles O28: each step of a core's return. -/
theorem aReturningCoreIsResynchronised : Obligations.AReturningCoreIsResynchronised := by
  unfold Obligations.AReturningCoreIsResynchronised
  refine ⟨?join, ?retry, ?snapshot, ?copied, ?resynchronised, ?again, ?failed⟩
  case join =>
    intro s r hr hfails htj hdue
    refine ⟨joinCore s r, ?_, joinCore_result s r⟩
    show execResyncJoin s = _
    unfold execResyncJoin
    simp only [hr]
    exact if_pos ⟨hfails, htj, hdue⟩
  case retry =>
    intro s r hr hfails htj hdue
    refine ⟨joinCore s r, ?_, joinCore_result s r⟩
    show execResyncRetry s = _
    unfold execResyncRetry
    simp only [hr]
    exact if_pos ⟨hfails, htj, hdue⟩
  case snapshot =>
    intro s r tj hr htj hts hdue
    refine ⟨(s.setNum .resync 0 3 (ceilTo 24576 (tj + 4 * largestSpan s) : Nat)).modCust (fun k =>
      { k with resync := some { r with ts := some (ceilTo 24576 (tj + 4 * largestSpan s)) } }), ?_, rfl, ?_⟩
    · show execResyncSnapshot s = _
      unfold execResyncSnapshot
      simp only [hr, htj]
      exact if_pos ⟨hts, hdue⟩
    · rw [State.modCust_num, num_setNum_same]
      rfl
  case copied =>
    intro s r hr hts hcopied hspoiled
    refine ⟨s.modCust (fun k => { k with resync := some { r with copied := true } }), ?_, rfl, rfl⟩
    show execSnapshotCopyComplete s = _
    unfold execSnapshotCopyComplete
    simp only [hr]
    exact if_pos ⟨hts, hcopied, hspoiled⟩
  case resynchronised =>
    intro s r hr hcore hcopied hreturn
    refine ⟨raise (((setCore s r.core 2).setNum .resync 0 4 ((s.now - r.tj.getD s.now) * 1000 / 24576 : Nat)).modCust (fun k =>
      { k with resync := none, equal := 0 })) 68 1 r.core, ?_, ?_, ?_, ?_⟩
    · show execCoreResynchronised s = _
      unfold execCoreResynchronised
      simp only [hr, hcopied, if_true]
      rw [raise_cust, if_neg (by rw [State.modCust_cust]; exact ne_true_of_eq_false hreturn)]
    · refine (core_congr ?_).trans (core_setCore s r.core (v := 2) (by decide) hcore)
      rw [raise_num _ (show islandOf _ 68 r.core < 32 from (by decide : 29 < 32)) (by decide) (by decide) (show 2 + r.core < 256 by omega),
        State.modCust_num,
        num_setNum_obj _ (by decide) (by decide) (by decide) (by decide) (by omega)]
    · rw [raise_cust]
      rfl
    · rw [raise_cust]
      rfl
  case again =>
    intro s r hr hts hcopied hlimit
    refine ⟨_, (resyncFailed_by_limit hr hts hcopied).trans (congrArg Host.Outcome.next (if_neg (by omega))), rfl, ?_⟩
    rw [Counted, State.modCust_num]
    exact resyncFailed_counts s r.core
  case failed =>
    intro s r hr hcore hts hcopied hlimit
    refine ⟨_, (resyncFailed_by_limit hr hts hcopied).trans (congrArg Host.Outcome.next (if_pos hlimit)), rfl, ?_, ?_⟩
    · refine (core_congr ?_).trans (core_setCore (raise (s.bump .resync 0 6 1) 68 2 r.core) r.core (v := 6) (by decide) hcore)
      rw [State.modCust_num]
    · rw [Counted, State.modCust_num, setCore, num_setNum_obj _ (by decide) (by decide) (by decide) (by omega) (by decide)]
      exact resyncFailed_counts s r.core

/-! Calibration runs. -/

/-- A command of calibration that is written to the run's command entry. -/
theorem calCommand_accepted {w : Nat} (hs : s.serves ses) (hw : w < 2 ^ 32) :
    Accepted s ses .cal 0 1 ⟨1, 1, "Command", .u32, .wo, false, .calc, .any⟩ ((entryTy .cal 0 1).encode (w : Nat)) w := by
  have hbytes : (entryTy .cal 0 1).encode (w : Nat) = leBytes 4 w := by
    show leBytes 4 (((w : Int) % 2 ^ 32).toNat) = _
    congr 1
    omega
  rw [hbytes]
  refine ⟨hs, by decide, rfl, ⟨rfl, by decide⟩, ⟨?_, rfl⟩, ?_, rfl, rfl⟩
  · simp [Ty.isBytes, Ty.size]
  · show (leNat (leBytes 4 w) : Int) = w
    rw [leNat_leBytes]
    congr 1
    omega

theorem calCommand_served {w : Nat} {c : Code} (hs : s.serves ses) (hw : w < 2 ^ 32) (hact : calCommand s w = (t, c))
    (hreset : t.power.inReset = false) : serveNum s ses .cal 0 1 (w : Nat) = answer t c :=
  (calCommand_accepted hs hw).volatile rfl hact hreset

/-- The word of CALIBRATION_START has its options in its bits (R234). -/
theorem startWord_bits (allg stst skew defer_ : Bool) :
    let w := 1 + 16 * b2n allg + 32 * b2n stst + 64 * b2n skew + 128 * b2n defer_
    w < 256 ∧ w % 16 = 1 ∧ bit w 4 = allg ∧ bit w 5 = stst ∧ bit w 6 = skew ∧ bit w 7 = defer_ := by
  revert allg stst skew defer_
  decide

theorem calCommand_start (hstate : calState s = 0) (allg stst skew defer_ : Bool) :
    calCommand s (1 + 16 * b2n allg + 32 * b2n stst + 64 * b2n skew + 128 * b2n defer_) =
      (s.modCal (fun c => { c with run := some ⟨allg, stst, skew, defer_, false⟩, startAt := some (ceilTo 24576 (s.now + 49152)) }),
        .success) := by
  obtain ⟨hlt, hcmd, h4, h5, h6, h7⟩ := startWord_bits allg stst skew defer_
  unfold calCommand
  rw [if_neg (by omega)]
  simp only [hcmd, h4, h5, h6, h7]
  exact if_neg (by rw [hstate]; decide)

theorem conditionMet_num (s : State) (o : Obj) (u sub : Nat) : (conditionMet s).num o u sub = s.num o u sub := rfl

theorem calresBegin_num (s : State) (t : Nat) (o : Obj) (u sub : Nat) :
    (calresBegin s t).num o u sub = ((s.setNum .cal 0 5 2).setNum .cal 0 8 t).num o u sub := rfl

theorem calresBegin_cal (s : State) (t : Nat) :
    (calresBegin s t).cal = { s.cal with startAt := none, calres := some t, refused := false, abortAt := none } := rfl

/-- The hub as its hold-off has run out: the run of every cell is on, and no hold-off. -/
def holdOffOver (s : State) : State :=
  holdEnded ((s.setNum .cal 0 9 0).modCal (fun c => { c with run := some ⟨false, true, true, false, true⟩, holdFrom := none })) 4

theorem holdOffExpiry_due {x : Nat} (hfrom : s.cal.holdFrom = some x) (hstate : calState s = 1) (hdue : x + msTicks 2000 ≤ s.now) :
    execHoldOffExpiry s = .next (calresBegin (holdOffOver s) (x + msTicks 2000)) := by
  unfold execHoldOffExpiry
  rw [hfrom]
  dsimp only
  rw [if_pos ⟨hstate, hdue⟩]
  rfl

/-- What ends a run shows its state and its result, and leaves no run. -/
theorem calEnd_result (s : State) {code : Nat} (hcode : code < 256) :
    (calEnd s code).num .cal 0 5 = 0 ∧ (calEnd s code).num .cal 0 6 = code ∧
      (calEnd s code).num .cal 0 13 = s.num .cal 0 13 ∧ (calEnd s code).cal.run = none := by
  unfold calEnd
  extract_lets s1 s2 s3
  have h1 : s1.num .cal 0 5 = 0 ∧ s1.num .cal 0 6 = code ∧ s1.num .cal 0 13 = s.num .cal 0 13 := by
    simp (disch := decide) only [s1, num_setNum_ne, num_setNum_same]
    exact ⟨rfl, narrowU_of_lt (by omega) (by omega), trivial⟩
  have h2 (sub : Nat) (h7 : sub ≠ 7) : s2.num .cal 0 sub = s1.num .cal 0 sub :=
    iteInduction (motive := fun t : State => t.num .cal 0 sub = s1.num .cal 0 sub)
      (fun _ => num_bump_ne s1 (entryKey_sub_ne _ _ h7) 1) fun _ => rfl
  have h4 (sub : Nat) (hsub : sub < 256) (h3 : sub ≠ 3) (h7 : sub ≠ 7) :
      (raise (phaseAfterRun (s3.modAux (fun a => { a with claims := [] }))) 51 1 code).num .cal 0 sub = s1.num .cal 0 sub := by
    rw [raise_num_sub _ _ _ _ hsub h3, ← h2 sub h7]
    unfold phaseAfterRun
    show (if _ then ((_ : State).setNum .startup 0 7 _).setNum .startup 0 3 _ else _ : State).num .cal 0 sub = _
    split
    · rw [num_setNum_obj _ (by decide) (by decide) (by decide) (by decide) hsub,
        num_setNum_obj _ (by decide) (by decide) (by decide) (by decide) hsub]
      rfl
    · rfl
  refine ⟨(h4 5 (by decide) (by decide) (by decide)).trans h1.1, (h4 6 (by decide) (by decide) (by decide)).trans h1.2.1,
    (h4 13 (by decide) (by decide) (by decide)).trans h1.2.2, ?_⟩
  rw [raise_cal]
  unfold phaseAfterRun
  show (if _ then _ else _ : State).cal.run = none
  split <;> rfl

/-- The CALRES step of a run that is not aborted ends, 16 ms after it began. -/
theorem calresStepEnd_due {milliohms x : Nat} {r : CalRun} (hrun : s.cal.run = some r) (hstep : s.cal.calres = some x)
    (habort : s.cal.abortAt = none) (hdue : x + msTicks 16 ≤ s.now) :
    execCalresStepEnd milliohms s = .next (
      if milliohms < 9950000 ∨ 10050000 < milliohms then calEnd (raise (s.setNum .cal 0 13 milliohms) 51 2 0) 4
      else calCheckEnd (((s.setNum .cal 0 13 milliohms).setNum .cal 0 5 3).modCal (fun c =>
        { c with calres := none, waiting := calCells (s.setNum .cal 0 13 milliohms) r }))) := by
  unfold execCalresStepEnd
  simp only [hrun, hstep, habort]
  rw [if_pos hdue]
  split <;> rfl

/-- The cells of a run are those of the mask, which no step of the run changes. -/
theorem calCells_setNum (s : State) (r : CalRun) (sub : Nat) (v : Int) (h : sub ≠ 2) : calCells (s.setNum .cal 0 sub v) r = calCells s r := by
  unfold calCells State.nat
  rw [num_setNum_sub _ _ _ (Ne.symm h)]
  rfl

/-- Settles O30: the commands, the hold-off's end and the CALRES step. -/
theorem calibrationRunsBeginAbortAndEnd : Obligations.CalibrationRunsBeginAbortAndEnd := by
  unfold Obligations.CalibrationRunsBeginAbortAndEnd
  refine ⟨?start, ?abort, ?inUse, ?endHold, ?expiry, ?begin_, ?cells, ?ends⟩
  case start =>
    intro s ses allg stst skew defer_ hs hreset hstate
    have hword := startWord_bits allg stst skew defer_
    exact ⟨_, congrArg Host.Outcome.next (calCommand_served hs (by omega) (calCommand_start hstate allg stst skew defer_) hreset),
      rfl, rfl, rfl⟩
  case abort =>
    intro s ses hs hreset hstate
    have hact : calCommand s 2 = ((s.setNum .cal 0 5 4).modCal (fun c =>
        { c with abortAt := some (nextMs s), waiting := [], deferred := [] }), .success) :=
      if_neg (show ¬ (calState s = 0 ∨ calState s = 1) by omega)
    refine ⟨_, congrArg Host.Outcome.next (calCommand_served hs (by decide) hact hreset), rfl, ?_, rfl, rfl, rfl⟩
    rw [answer_num _ _ (by decide) (by decide) (by decide), State.modCal_num, num_setNum_same]
    rfl
  case inUse =>
    intro s ses hs hreset hstate
    have hact : calCommand s 2 = (s, .inUse) := if_pos (show calState s = 0 ∨ calState s = 1 by omega)
    exact ⟨_, congrArg Host.Outcome.next (calCommand_served hs (by decide) hact hreset), rfl, rfl⟩
  case endHold =>
    intro s ses hs hreset hstate
    have hact : calCommand s 3 = (holdEnded (((s.setNum .cal 0 5 0).setNum .cal 0 6 (if s.cal.wrote then 5 else 6)).setNum
        .cal 0 9 0) 5, .success) := if_pos hstate
    refine ⟨_, congrArg Host.Outcome.next (calCommand_served hs (by decide) hact hreset), rfl, ?_, ?_, ?_⟩
    all_goals
      rw [answer_num _ _ (by decide) (by decide) (by decide)]
      simp (disch := decide) only [holdEnded, conditionMet_num, num_setNum_ne, num_setNum_same]
    · rfl
    · split <;> rfl
    · rfl
  case expiry =>
    intro s x hfrom hstate hdue
    refine ⟨_, holdOffExpiry_due hfrom hstate hdue, ?_⟩
    rw [calresBegin_cal, calresBegin_num, calresBegin_num]
    refine ⟨rfl, rfl, rfl, ?_, ?_⟩
    all_goals
      simp (disch := decide) only [holdOffOver, holdEnded, conditionMet_num, num_setNum_ne, num_setNum_same]
    · rfl
    · rfl
  case begin_ =>
    intro s x hstart hdue hstate
    refine ⟨calresBegin s x, ?_, rfl, rfl, ?_, ?_⟩
    · show execCalresStepStart s = _
      unfold execCalresStepStart
      simp only [hstart]
      exact if_pos ⟨hdue, hstate⟩
    all_goals
      simp (disch := decide) only [calresBegin_num, num_setNum_ne, num_setNum_same]
    · rfl
  case cells =>
    intro s milliohms x r hrun hstep habort hdue hlo hhi hcells
    have hwaiting : calCells (s.setNum .cal 0 13 milliohms) r = calCells s r := calCells_setNum s r 13 _ (by decide)
    refine ⟨_, (calresStepEnd_due hrun hstep habort hdue).trans (congrArg Host.Outcome.next ((if_neg (by omega)).trans
      (if_neg (by rw [hwaiting]; exact fun h => hcells h.1)))), ?_, ?_, rfl, hwaiting⟩
    all_goals
      rw [State.modCal_num]
      simp (disch := decide) only [num_setNum_ne, num_setNum_same]
    · exact narrowU_of_lt (by omega) (by omega)
    · rfl
  case ends =>
    intro s milliohms x r hrun hstep habort hdue hout
    obtain ⟨hstate, hcode, hohms, hnone⟩ := calEnd_result (raise (s.setNum .cal 0 13 milliohms) 51 2 0) (code := 4) (by decide)
    refine ⟨_, (calresStepEnd_due hrun hstep habort hdue).trans (congrArg Host.Outcome.next (if_pos hout)), ?_, hstate, hcode, hnone⟩
    rw [hohms, raise_num_sub _ _ _ _ (by decide) (by decide), num_setNum_same]

end Sys2Proof.Machine
end

section
/-! PROOFS. The instructions of a DMA channel (R445 to R467): the fields of their words, what they leave of the hub, and the
effect of each. -/

namespace Sys2Proof.Machine

open Sys2Proof

variable {s t v : State} {c w : Nat}

/-! The fields of a word. -/

theorem testBit_bits (w hi lo i : Nat) : (bits w hi lo).testBit i = (decide (i < hi + 1 - lo) && w.testBit (lo + i)) := by
  rw [bits, Nat.testBit_mod_two_pow, Nat.testBit_div_two_pow, Nat.add_comm i lo]

/-- A bit of a field that is 0 is clear. -/
theorem bit_of_field_zero {hi lo b : Nat} (h : bits w hi lo = 0) (hlo : lo ≤ b) (hhi : b ≤ hi) : bit w b = false := by
  have hbit := testBit_bits w hi lo (b - lo)
  rw [h, Nat.zero_testBit, Nat.add_sub_cancel' hlo, decide_eq_true (by omega), Bool.true_and] at hbit
  rw [bit_eq_testBit, ← hbit]

/-- A part of a field that is 0 is 0. -/
theorem field_zero_of_field_zero {hi lo h l : Nat} (hz : bits w hi lo = 0) (hlo : lo ≤ l) (hhi : h ≤ hi) : bits w h l = 0 := by
  refine Nat.eq_of_testBit_eq fun i => ?_
  rw [testBit_bits, Nat.zero_testBit, Bool.and_eq_false_iff, decide_eq_false_iff_not]
  by_cases hi' : i < h + 1 - l
  · refine .inr ?_
    rw [← bit_eq_testBit]
    exact bit_of_field_zero hz (by omega) (by omega)
  · exact .inl hi'

/-! What an instruction that moves no data leaves of the hub. -/

/-- The entries that an instruction of a channel may write. -/
abbrev DmaKey (k : Nat) : Prop :=
  PeakKey k ∨ k = entryKey .dmaEngine 0 8 ∨ k = entryKey .debug 0 6 ∨ ∃ c sub, k = entryKey .dmaStat c sub ∨ k =
    entryKey .debugCh c 8

/-- `t` is `s` but for the DMA engine, the events and the entries that an instruction may write. -/
structure DmaFrame (s t : State) : Prop where
  rest : { t with dma := s.dma, queues := s.queues, ev := s.ev, regs := s.regs } = s
  regs : KeepsRegs DmaKey s t

namespace DmaFrame

theorem refl (s : State) : DmaFrame s s := ⟨rfl, .refl _ s⟩

theorem trans (h : DmaFrame s t) (g : DmaFrame t v) : DmaFrame s v := by
  obtain ⟨hrest, hregs⟩ := h
  obtain ⟨grest, gregs⟩ := g
  refine ⟨?_, hregs.trans gregs⟩
  rw [← hrest, ← grest]

theorem modDma (s : State) (f : DmaSt → DmaSt) : DmaFrame s (s.modDma f) := ⟨rfl, .of_eq rfl⟩

theorem modCh (s : State) (c : Nat) (f : DmaCh → DmaCh) : DmaFrame s (s.modCh c f) := modDma s _

theorem setNum (s : State) {o : Obj} {u sub : Nat} (x : Int) (h : DmaKey (entryKey o u sub)) : DmaFrame s (s.setNum o u sub x) :=
  ⟨rfl, .setNum s x h⟩

theorem setStat (s : State) (c sub : Nat) (x : Int) : DmaFrame s (s.setNum .dmaStat c sub x) :=
  setNum s x (.inr (.inr (.inr ⟨c, sub, .inl rfl⟩)))

theorem bumpStat (s : State) (c sub n : Nat) : DmaFrame s (s.bump .dmaStat c sub n) := setStat s c sub _

theorem clearHalt (s : State) (c : Nat) : DmaFrame s (s.setNum .debugCh c 8 0) :=
  setNum s 0 (.inr (.inr (.inr ⟨c, 0, .inr rfl⟩)))

theorem raise (s : State) (src cause detail : Nat) : DmaFrame s (raise s src cause detail) := by
  obtain ⟨hrest, hregs⟩ := raise_frame s src cause detail
  refine ⟨?_, hregs.mono fun _ h => .inl h⟩
  rw [← (raise_frame s src cause detail).dma]
  exact hrest

end DmaFrame

theorem dmaTo_frame (s : State) (c st : Nat) : DmaFrame s (dmaTo s c st) :=
  (DmaFrame.setStat s c 1 _).trans (.setNum _ _ (.inr (.inr (.inl rfl))))

theorem dmaStop_frame (s : State) (c : Nat) : DmaFrame s (dmaStop s c) :=
  ((DmaFrame.modDma s _).trans (.modCh _ c _)).trans (.clearHalt _ c)

theorem faultShown_frame (s : State) (c cause target kind addr code : Nat) :
    DmaFrame s (faultShown s c cause target kind addr code) := by
  have hfirst := (((DmaFrame.setStat s c 2 (s.dmaCh c).pc).trans (.setStat _ c 3 cause)).trans
    (.setStat _ c 4 (s.dmaCh c).count)).trans (.setStat _ c 5 (target + 16 * kind : Nat))
  have hsecond := ((hfirst.trans (.setStat _ c 6 addr)).trans (.setStat _ c 7 code)).trans (.bumpStat _ c 10 1)
  exact hsecond.trans (.setNum _ _ (.inr (.inl rfl)))

theorem dmaFault_frame (s : State) (c cause target kind addr code : Nat) : DmaFrame s (dmaFault s c cause target kind addr code) := by
  rw [dmaFault_eq]
  exact (((faultShown_frame s c cause target kind addr code).trans (dmaStop_frame _ c)).trans (dmaTo_frame _ c 3)).trans
    (.raise _ 73 1 c)

theorem dmaBad_frame (s : State) (c cause : Nat) : DmaFrame s (dmaBad s c cause) := dmaFault_frame s c cause 0 0 0 0

theorem dmaHalt_frame (s : State) (c : Nat) : DmaFrame s (dmaHalt s c) :=
  ((dmaTo_frame s c 4).trans (.clearHalt _ c)).trans (.raise _ 84 2 c)

theorem dmaNext_frame (s : State) (c pc : Nat) : DmaFrame s (dmaNext s c pc) := by
  unfold dmaNext
  extract_lets k ended shown
  have hshown : DmaFrame s shown := (DmaFrame.modCh s c _).trans (.setStat _ c 2 pc)
  clear_value shown
  split
  · exact hshown.trans ((dmaTo_frame _ c 4).trans (.clearHalt _ c))
  · split
    · exact hshown.trans (dmaHalt_frame _ c)
    · exact hshown.trans (dmaTo_frame _ c 1)

theorem dmaAwait_frame (s : State) (c : Nat) (what : DmaFor) (limit : Nat) : DmaFrame s (dmaAwait s c what limit) :=
  (DmaFrame.modCh s c _).trans (dmaTo_frame _ c 2)

theorem runEnded_frame (s : State) (c : Nat) : DmaFrame s (runEnded s c) :=
  ((DmaFrame.modCh s c _).trans (dmaTo_frame _ c 0)).trans (.clearHalt _ c)

theorem dmaConfirmed_frame (s : State) (c : Nat) (what : DmaFor) : DmaFrame s (dmaConfirmed s c what) := by
  cases what with
  | signal => exact (DmaFrame.raise s c 1 _).trans (dmaNext_frame _ c _)
  | finish sig =>
    cases sig with
    | true => rw [dmaConfirmed_finish_sig]; exact (DmaFrame.raise s c 2 _).trans (runEnded_frame _ c)
    | false => rw [dmaConfirmed_finish_plain]; exact runEnded_frame s c
  | _ => exact dmaNext_frame s c _

theorem dmaConfirm_frame (s : State) (c : Nat) (what : DmaFor) : DmaFrame s (dmaConfirm s c what) := by
  unfold dmaConfirm
  split
  · rw [readBack_frame]
    exact (DmaFrame.modDma s _).trans (dmaAwait_frame _ c what 0)
  · exact dmaConfirmed_frame s c what

/-- An instruction that is taken changes no more than what it does to the hub changes. -/
theorem takeInstr_frame (s : State) (ops : Nat → Bool) {f : State → Nat → Nat → State}
    (hf : ∀ s c w, DmaFrame s (f s c w)) : DmaFrame s (takeInstr s ops f) := by
  unfold takeInstr
  split
  · split
    · exact (DmaFrame.modDma s _).trans (hf _ _ _)
    · exact .refl s
  · exact .refl s

/-- A command completes within the frame. -/
abbrev StaysDma (i : Instr) : Prop := ∀ s, ∃ t, exec i s = .next t ∧ DmaFrame s t

/-- A frame in the form that the statement gives it. -/
theorem StaysDma.leaves {i : Instr} (h : StaysDma i) (s : State) :
    ∃ t, exec i s = .next t ∧ { t with dma := s.dma, queues := s.queues, ev := s.ev, regs := s.regs } = s ∧ KeepsRegs DmaKey s t := by
  obtain ⟨t, hstep, hframe⟩ := h s
  exact ⟨t, hstep, hframe.rest, hframe.regs⟩

theorem dmaLoop_frame : StaysDma .dmaLoop := by
  intro s
  refine ⟨_, rfl, takeInstr_frame s _ fun s c w => ?_⟩
  dsimp only
  refine iteInduction (fun _ => dmaBad_frame s c 2) fun _ => iteInduction (fun _ => dmaBad_frame s c 13) fun _ => ?_
  exact (DmaFrame.modCh s c _).trans (dmaNext_frame _ c _)

theorem dmaEndloop_frame : StaysDma .dmaEndloop := by
  intro s
  refine ⟨_, rfl, takeInstr_frame s _ fun s c w => ?_⟩
  dsimp only
  refine iteInduction (fun _ => dmaBad_frame s c 2) fun _ => ?_
  cases (s.dmaCh c).frames with
  | nil => exact dmaBad_frame s c 14
  | cons f fs =>
    refine iteInduction (motive := fun x => DmaFrame s x) (fun _ => ?_) fun _ => ?_
    · exact (DmaFrame.modCh s c _).trans (dmaNext_frame _ c _)
    · exact (DmaFrame.modCh s c _).trans (dmaNext_frame _ c _)

theorem dmaWait_frame : StaysDma .dmaWait := by
  intro s
  refine ⟨_, rfl, takeInstr_frame s _ fun s c w => ?_⟩
  dsimp only
  refine iteInduction (fun _ => dmaBad_frame s c 2) fun _ => iteInduction (fun _ => ?event) fun _ => ?tick
  case event =>
    refine iteInduction (fun _ => dmaBad_frame s c 2) fun _ => iteInduction (fun _ => ?_) fun _ => ?_
    · exact (DmaFrame.modCh s c _).trans (dmaNext_frame _ c _)
    · exact (DmaFrame.modCh s c _).trans (dmaAwait_frame _ c _ _)
  case tick =>
    refine iteInduction (fun _ => dmaBad_frame s c 2) fun _ => iteInduction (fun _ => dmaNext_frame s c _) fun _ => ?_
    exact dmaAwait_frame s c _ _

theorem dmaSeta_frame : StaysDma .dmaSeta := by
  intro s
  refine ⟨_, rfl, takeInstr_frame s _ fun s c w => ?_⟩
  dsimp only
  refine iteInduction (fun _ => dmaBad_frame s c 2) fun _ => iteInduction (fun _ => dmaBad_frame s c 3) fun _ => ?_
  refine iteInduction (fun _ => dmaFault_frame s c 4 3 0 _ 0) fun _ => ?_
  exact (DmaFrame.modCh s c _).trans (dmaNext_frame _ c _)

theorem dmaAdda_frame : StaysDma .dmaAdda := by
  intro s
  refine ⟨_, rfl, takeInstr_frame s _ fun s c w => ?_⟩
  dsimp only
  refine iteInduction (fun _ => dmaBad_frame s c 2) fun _ => ?_
  exact (DmaFrame.modCh s c _).trans (dmaNext_frame _ c _)

theorem dmaFence_frame : StaysDma .dmaFence := by
  intro s
  refine ⟨_, rfl, takeInstr_frame s _ fun s c w => ?_⟩
  exact iteInduction (fun _ => dmaBad_frame s c 2) fun _ => dmaConfirm_frame s c .fence

theorem dmaEnd_frame : StaysDma .dmaEnd := by
  intro s
  refine ⟨_, rfl, takeInstr_frame s _ fun s c w => ?_⟩
  exact iteInduction (fun _ => dmaBad_frame s c 2) fun _ => dmaConfirm_frame s c _

theorem illegalInstruction_frame : StaysDma .illegalInstruction := fun s =>
  ⟨_, rfl, takeInstr_frame s _ fun s c _ => dmaBad_frame s c 1⟩

theorem waitComplete_frame (c : Nat) : StaysDma (.waitComplete c) := by
  intro s
  show ∃ t, execWaitComplete c s = .next t ∧ _
  unfold execWaitComplete
  dsimp only
  split
  · exact ⟨s, rfl, .refl s⟩
  · split
    · split
      · exact ⟨_, rfl, (DmaFrame.modCh s c _).trans (dmaNext_frame _ c _)⟩
      · exact ⟨s, rfl, .refl s⟩
    · split
      · exact ⟨_, rfl, dmaNext_frame s c _⟩
      · exact ⟨s, rfl, .refl s⟩
    · exact ⟨s, rfl, .refl s⟩

theorem waitTimeout_frame (c : Nat) : StaysDma (.waitTimeout c) := by
  intro s
  show ∃ t, execWaitTimeout c s = .next t ∧ _
  unfold execWaitTimeout
  split
  · split
    · exact ⟨_, rfl, dmaBad_frame s c 15⟩
    · exact ⟨s, rfl, .refl s⟩
  · exact ⟨s, rfl, .refl s⟩

/-- Settles O59: each of these instructions is built from changes of the engine, writes of a channel's status and events, and each
of those stays within the frame. -/
theorem dmaInstructionsLeaveTheOtherUnits : Obligations.DmaInstructionsLeaveTheOtherUnits := by
  unfold Obligations.DmaInstructionsLeaveTheOtherUnits
  exact ⟨dmaLoop_frame.leaves, dmaEndloop_frame.leaves, dmaWait_frame.leaves, dmaSeta_frame.leaves, dmaAdda_frame.leaves,
    dmaFence_frame.leaves, dmaEnd_frame.leaves, illegalInstruction_frame.leaves, fun s c => (waitComplete_frame c).leaves s,
    fun s c => (waitTimeout_frame c).leaves s⟩

end Sys2Proof.Machine
end

section
/-! PROOFS. The effect of each instruction of a DMA channel (R445 to R467). -/

namespace Sys2Proof.Machine

open Sys2Proof

variable {s t : State} {c w op : Nat}

theorem takeInstr_taken (h : DmaHas s c w op) {ops : Nat → Bool} (hops : ops op = true) (f : State → Nat → Nat → State) :
    takeInstr s ops f = f s.taken c w := by
  obtain ⟨hcur, hc, hop, hrest⟩ := h
  unfold takeInstr
  rw [hcur]
  simp only [hop, hops, if_true]
  rfl

/-- A channel that has ended its instruction, neither steps nor has a halt pending, runs on (R621). -/
theorem dmaNext_on (s : State) (hc : c < 16) (pc : Nat) (hstep : (s.dmaCh c).stepping = false) (hhalt : s.nat .debugCh c 8 ≠ 1) :
    DmaOn s (dmaNext s c pc) c { s.dmaCh c with pc := pc } := by
  have hkept : ((s.modCh c fun k => { k with pc := pc, wait := none, stepping := false, at_ := s.now }).setNum .dmaStat c 2
      pc).nat .debugCh c 8 = s.nat .debugCh c 8 :=
    nat_setNum_ne _ (entryKey_obj_ne (by decide) hc hc (by decide) (by decide)) _
  have hrun : dmaNext s c pc = dmaTo ((s.modCh c fun k => { k with pc := pc, wait := none, stepping := false, at_ := s.now
      }).setNum .dmaStat c 2 pc) c 1 := by
    unfold dmaNext
    simp only [hstep, Bool.false_eq_true, if_false, hkept, hhalt]
  rw [hrun]
  refine ⟨dmaState_dmaTo _ hc (by decide), ?_, ?_⟩
  · rw [dmaTo_dmaCh, setNum_dmaCh, State.modCh_same]
  · rw [dmaTo_num _ (entryKey_sub_ne _ _ (by decide)) (entryKey_obj_ne (by decide) hc (by decide) (by decide) (by decide)),
      num_setNum_same]

/-- The same for a channel whose record was changed by the instruction. -/
theorem dmaNext_modCh_on (h : DmaHas s c w op) (pc : Nat) (f : DmaCh → DmaCh) (hf : (f (s.dmaCh c)).stepping = false) :
    DmaOn s (dmaNext (s.taken.modCh c f) c pc) c { f (s.dmaCh c) with pc := pc } := by
  obtain ⟨-, hc, -, -, hhalt⟩ := h
  have hon := dmaNext_on (s.taken.modCh c f) hc pc (by rw [State.modCh_same]; exact hf) hhalt
  rw [State.modCh_same] at hon
  exact hon

theorem dmaNext_taken_on (h : DmaHas s c w op) (pc : Nat) : DmaOn s (dmaNext s.taken c pc) c { s.dmaCh c with pc := pc } :=
  dmaNext_on s.taken h.2.1 pc h.2.2.2.1 h.2.2.2.2

/-- A fetched instruction that faults its channel without an access. -/
theorem dmaBad_taken_faulted (h : DmaHas s c w op) {cause : Nat} (hcause : cause < 256) : DmaFaulted s (dmaBad s.taken c cause) c cause :=
  dmaFault_faulted s.taken h.2.1 hcause 0 0 0 0

/-! MOVE. -/

theorem sideBad_plain {r : DmaReg} {code : Nat} {inc : Bool} (h2 : r.target ≠ 2) (h4 : r.target ≠ 4) : sideBad r code inc = false := by
  simp [sideBad, h2, h4]

/-- The transfer that a MOVE with an immediate count begins (R451). -/
def moveOf (w : Nat) : DmaMove where
  src := bits w 59 57
  dst := bits w 56 54
  ws := 2 ^ bits w 53 51
  wd := 2 ^ bits w 50 48
  sinc := bit w 47
  dinc := bit w 46
  mode := bits w 45 44
  toRead := bits w 31 0
  toWrite := bits w 31 0
  data := none
  acc := []

theorem moveBegin_begins (hfields : bits w 43 32 = 0) (hws : bits w 53 51 < 6) (hwd : bits w 50 48 < 6) (hmode : bits w 45 44 < 3)
    (hn : bits w 31 0 ≠ 0)
    (hplain : bits w 45 44 = 0 → bits w 31 0 % max (2 ^ bits w 53 51) (2 ^ bits w 50 48) = 0)
    (hs2 : ((s.dmaCh c).reg (bits w 59 57)).target ≠ 2) (hs4 : ((s.dmaCh c).reg (bits w 59 57)).target ≠ 4)
    (hd2 : ((s.dmaCh c).reg (bits w 56 54)).target ≠ 2) (hd4 : ((s.dmaCh c).reg (bits w 56 54)).target ≠ 4) :
    moveBegin s c w = s.modCh c (fun k => { k with move := some (moveOf w) }) := by
  have hcount : bit w 43 = false := bit_of_field_zero hfields (by decide) (by decide)
  have hreserved : bits w 42 32 = 0 := field_zero_of_field_zero hfields (by decide) (by decide)
  have hsize : ((bits w 45 44 == 0) && (bits w 31 0 % max (2 ^ bits w 53 51) (2 ^ bits w 50 48) != 0)) = false := by
    by_cases h0 : bits w 45 44 = 0
    · simp [hplain h0]
    · simp [h0]
  unfold moveBegin
  simp only [hcount, hreserved, sideBad_plain hs2 hs4, sideBad_plain hd2 hd4, hsize, hs2, hd2, hd4, beq_false_of_ne hs2,
    beq_false_of_ne hd2, beq_false_of_ne hn, beq_false_of_ne (Nat.ne_of_lt hmode), decide_eq_false (Nat.not_le.mpr hws),
    decide_eq_false (Nat.not_le.mpr hwd), bne_self_eq_false, Bool.false_and, Bool.or_false, Bool.false_eq_true, if_false, false_and]
  rfl

/-- A transfer to the constant target faults its channel (R448). -/
theorem moveBegin_constant (hfields : bits w 43 32 = 0) (hws : bits w 53 51 = 0) (hwd : bits w 50 48 = 0) (hmode : bits w 47 44 = 1)
    (hn : bits w 31 0 ≠ 0) (hs : ((s.dmaCh c).reg (bits w 59 57)).target = 0) (hd : ((s.dmaCh c).reg (bits w 56 54)).target = 4) :
    moveBegin s c w = dmaFault s c 5 4 1 ((s.dmaCh c).reg (bits w 56 54)).addr 0 := by
  have hcount : bit w 43 = false := bit_of_field_zero hfields (by decide) (by decide)
  have hreserved : bits w 42 32 = 0 := field_zero_of_field_zero hfields (by decide) (by decide)
  have hextend : bits w 45 44 = 1 := by unfold bits at *; omega
  have hsinc : bit w 47 = false := by unfold bits at hmode; unfold bit; exact decide_eq_false (by omega)
  have hdinc : bit w 46 = false := by unfold bits at hmode; unfold bit; exact decide_eq_false (by omega)
  unfold moveBegin
  simp [hcount, hreserved, hextend, hsinc, hdinc, hws, hwd, hs, hd, sideBad, hn]

theorem exec_dmaMove_taken (h : DmaHas s c w 1) : exec .dmaMove s = .next (moveBegin s.taken c w) :=
  congrArg _ (takeInstr_taken h rfl _)

theorem exec_dmaMove_begins (h : DmaHas s c w 1) (hbegin : moveBegin s.taken c w = s.taken.modCh c (fun k =>
    { k with move := some (moveOf w) })) :
    ∃ t, exec .dmaMove s = .next t ∧ t.dmaCh c = { s.dmaCh c with move := some (moveOf w) } ∧ t.regs = s.regs ∧ t.dma.cur = none := by
  refine ⟨_, exec_dmaMove_taken h, ?_⟩
  rw [hbegin]
  exact ⟨State.modCh_same .., rfl, rfl⟩

/-! LOOP and ENDLOOP. -/

/-- What a LOOP with an immediate count does to its channel (R453). -/
theorem exec_dmaLoop_immediate (h : DmaHas s c w 2) (hfields : bits w 59 32 = 0) (hn : bits w 31 0 ≠ 0) :
    exec .dmaLoop s = .next (if 4 ≤ (s.dmaCh c).frames.length then dmaBad s.taken c 13
      else dmaNext (s.taken.modCh c (fun k => { k with frames := (k.pc + 8, bits w 31 0) :: k.frames })) c ((s.dmaCh c).pc + 8)) := by
  have hreg : bit w 59 = false := bit_of_field_zero hfields (by decide) (by decide)
  have hreserved : bits w 55 32 = 0 := field_zero_of_field_zero hfields (by decide) (by decide)
  have hregister : bits w 58 56 = 0 := field_zero_of_field_zero hfields (by decide) (by decide)
  refine congrArg _ ((takeInstr_taken h rfl _).trans ?_)
  simp only [hreg, hreserved, hregister, hn, Bool.false_eq_true, if_false, false_and, and_false, not_true_eq_false, ne_eq, or_false]
  rfl

/-- What an ENDLOOP does to its channel (R453). -/
theorem exec_dmaEndloop_taken (h : DmaHas s c w 3) (hfields : bits w 59 0 = 0) :
    exec .dmaEndloop s = .next (match (s.dmaCh c).frames with
      | [] => dmaBad s.taken c 14
      | (a, n) :: fs =>
        if n = 1 then dmaNext (s.taken.modCh c (fun k => { k with frames := fs })) c ((s.dmaCh c).pc + 8)
        else dmaNext (s.taken.modCh c (fun k => { k with frames := (a, n - 1) :: fs })) c a) := by
  refine congrArg _ ((takeInstr_taken h rfl _).trans ?_)
  exact if_neg (not_not.2 hfields)

/-! WAIT. -/

/-- What a WAIT for an event does to its channel (R454). -/
theorem exec_dmaWait_event (h : DmaHas s c w 4) (hfields : bits w 59 48 = 0) (hreserved : bits w 31 7 = 0) (hsrc : bits w 6 0 < 96) :
    exec .dmaWait s = .next (if bit (s.dmaCh c).mask (bits w 6 0) = true then
        dmaNext (s.taken.modCh c (fun k => { k with mask := clearBit k.mask (bits w 6 0) })) c ((s.dmaCh c).pc + 8)
      else dmaAwait (s.taken.modCh c (fun k => { k with mask := clearBit k.mask (bits w 6 0) })) c (.event (bits w 6 0))
        (usTicks (bits w 47 32))) := by
  have hkind : bits w 59 58 = 0 := field_zero_of_field_zero hfields (by decide) (by decide)
  have hfresh : bit w 57 = false := bit_of_field_zero hfields (by decide) (by decide)
  have hlow : bits w 53 48 = 0 := field_zero_of_field_zero hfields (by decide) (by decide)
  have hregister : bits w 56 54 = 0 := field_zero_of_field_zero hfields (by decide) (by decide)
  refine congrArg _ ((takeInstr_taken h rfl _).trans ?_)
  simp only [hkind, hfresh, hlow, hregister, hreserved, Nat.not_le.mpr hsrc, ne_eq, not_true_eq_false, or_false, if_false, if_true,
    true_and, Nat.reduceLeDiff]
  rfl

/-! SETA and ADDA. -/

/-- SETA of an immediate value for a target without flags sets the register (R455). -/
theorem exec_dmaSeta_immediate (h : DmaHas s c w 7)
    (htarget : bits w 56 53 = 0 ∨ bits w 56 53 = 2 ∨ bits w 56 53 = 3 ∨ bits w 56 53 = 4) (hfields : bits w 52 48 = 0) :
    exec .dmaSeta s = .next (dmaNext (s.taken.modCh c (fun k =>
      { k with regs := k.regs.set (bits w 59 57) ⟨bits w 47 0, bits w 56 53, false, false⟩ })) c ((s.dmaCh c).pc + 8)) := by
  have hload : bit w 52 = false := bit_of_field_zero hfields (by decide) (by decide)
  have hns : bit w 51 = false := bit_of_field_zero hfields (by decide) (by decide)
  have hnrb : bit w 50 = false := bit_of_field_zero hfields (by decide) (by decide)
  have hreserved : bits w 49 48 = 0 := field_zero_of_field_zero hfields (by decide) (by decide)
  have hle : ¬ 5 ≤ bits w 56 53 := by omega
  have hhost : bits w 56 53 ≠ 1 := by omega
  refine congrArg _ ((takeInstr_taken h rfl _).trans ?_)
  simp only [hload, hns, hnrb, hreserved, hle, hhost, ne_eq, not_true_eq_false, Bool.false_eq_true, or_false, and_false, false_and,
    if_false]
  rfl

/-- ADDA of an immediate value adds it to the register (R455). -/
theorem exec_dmaAdda_immediate (h : DmaHas s c w 8) (hfields : bits w 56 48 = 0) :
    exec .dmaAdda s = .next (dmaNext (s.taken.modCh c (fun k =>
      k.advance (bits w 59 57) (toSigned 48 (bits w 47 0) % 2 ^ 64).toNat)) c ((s.dmaCh c).pc + 8)) := by
  have hreg : bit w 56 = false := bit_of_field_zero hfields (by decide) (by decide)
  have hreserved : bits w 52 48 = 0 := field_zero_of_field_zero hfields (by decide) (by decide)
  refine congrArg _ ((takeInstr_taken h rfl _).trans ?_)
  simp only [hreg, hreserved, ne_eq, not_true_eq_false, Bool.false_eq_true, or_false, false_and, if_false, wrapU]
  rfl

/-! SIGNAL and FENCE. -/

theorem exec_dmaSignal_taken (h : DmaHas s c w 5) (hfields : bits w 59 0 = 0) : exec .dmaSignal s = .next (dmaConfirm s.taken c .signal) :=
  congrArg _ ((takeInstr_taken h rfl _).trans (if_neg (not_not.2 hfields)))

theorem exec_dmaFence_taken (h : DmaHas s c w 6) (hfields : bits w 59 0 = 0) : exec .dmaFence s = .next (dmaConfirm s.taken c .fence) :=
  congrArg _ ((takeInstr_taken h rfl _).trans (if_neg (not_not.2 hfields)))

theorem dmaConfirm_confirmed (hopen : (s.dmaCh c).open_ = false) (what : DmaFor) :
    dmaConfirm s c what = dmaConfirmed s c what := if_neg (by simp [hopen])

theorem dmaNext_queues (s : State) (hstep : (s.dmaCh c).stepping = false) (hc : c < 16) (hhalt : s.nat .debugCh c 8 ≠ 1) (pc : Nat) :
    (dmaNext s c pc).queues = s.queues := by
  have hkept : ((s.modCh c fun k => { k with pc := pc, wait := none, stepping := false, at_ := s.now }).setNum .dmaStat c 2
      pc).nat .debugCh c 8 = s.nat .debugCh c 8 :=
    nat_setNum_ne _ (entryKey_obj_ne (by decide) hc hc (by decide) (by decide)) _
  unfold dmaNext
  simp only [hstep, Bool.false_eq_true, if_false, hkept, hhalt]
  rfl

/-- A SIGNAL with no write open pulses the channel's event source and goes on (R462). -/
theorem exec_dmaSignal_signals (h : DmaHas s c w 5) (hfields : bits w 59 0 = 0) (hopen : (s.dmaCh c).open_ = false) :
    ∃ t, exec .dmaSignal s = .next t ∧ DmaOn s t c { s.dmaCh c with pc := (s.dmaCh c).pc + 8 } ∧
      (s.canRaise 30 → Raised s t 30 ⟨c, 1, (s.dmaCh c).pc, s.now⟩) := by
  obtain ⟨-, hc, -, hstep, hhalt⟩ := id h
  let r := raise s.taken c 1 (s.dmaCh c).pc
  have hch : r.dmaCh c = s.dmaCh c := raise_dmaCh ..
  have hrstep : (r.dmaCh c).stepping = false := by rw [hch, hstep]
  have hrhalt : r.nat .debugCh c 8 ≠ 1 := by
    rw [State.nat, raise_num_dma (islandOf_channel _ hc _) 1 (by decide) hc (by decide)]
    exact hhalt
  refine ⟨_, exec_dmaSignal_taken h hfields, ?_⟩
  rw [dmaConfirm_confirmed (s := s.taken) hopen]
  have hon := dmaNext_on r hc ((s.dmaCh c).pc + 8) hrstep hrhalt
  have hnow : r.now = s.now := raise_now ..
  rw [DmaOn, hch, hnow] at hon
  refine ⟨hon, fun hroom => ?_⟩
  have hqueues : (dmaNext r c ((s.dmaCh c).pc + 8)).queues = r.queues := dmaNext_queues r hrstep hc hrhalt _
  have hraised := raise_channel_room (s := s.taken) hc hroom 1 (s.dmaCh c).pc
  show ((dmaNext r c ((s.dmaCh c).pc + 8)).queue (162 + 30)).words = _
  rw [State.queue, hqueues]
  exact hraised

theorem exec_illegalInstruction_taken (h : DmaHas s c w op) (hop : 9 ≤ op) :
    exec .illegalInstruction s = .next (dmaBad s.taken c 1) :=
  congrArg Host.Outcome.next (takeInstr_taken (ops := fun op => decide (9 ≤ op)) h (decide_eq_true hop) _)

/-- Settles O36: the fields that a word leaves 0 decide its instruction's branch, and each branch ends in going on, waiting or
faulting. -/
theorem dmaInstructionsHaveTheirEffects : Obligations.DmaInstructionsHaveTheirEffects := by
  unfold Obligations.DmaInstructionsHaveTheirEffects
  refine ⟨?move, ?constant, ?loop, ?loopDeep, ?endloop, ?endloopLast, ?endloopNone, ?waitPending, ?waits, ?signal, ?fence,
    ?fenceOpen, ?seta, ?adda, ?illegal⟩
  case move =>
    intro s c w h hfields hws hwd hmode hn hplain hs2 hs4 hd2 hd4
    exact exec_dmaMove_begins h (moveBegin_begins hfields hws hwd hmode hn hplain hs2 hs4 hd2 hd4)
  case constant =>
    intro s c w h hfields hws hwd hmode hn hs hd
    refine ⟨_, exec_dmaMove_taken h, ?_⟩
    rw [moveBegin_constant (s := s.taken) hfields hws hwd hmode hn hs hd]
    exact dmaFault_faulted s.taken h.2.1 (by decide) ..
  case loop =>
    intro s c w h hfields hn hframes
    refine ⟨_, exec_dmaLoop_immediate h hfields hn, ?_⟩
    rw [if_neg (by omega)]
    exact dmaNext_modCh_on h _ _ h.2.2.2.1
  case loopDeep =>
    intro s c w h hfields hn hframes
    refine ⟨_, exec_dmaLoop_immediate h hfields hn, ?_⟩
    rw [if_pos hframes]
    exact dmaBad_taken_faulted h (by decide)
  case endloop =>
    intro s c w a n fs h hfields hframes hn
    refine ⟨_, exec_dmaEndloop_taken h hfields, ?_⟩
    rw [hframes]
    simp only [hn, if_false]
    exact dmaNext_modCh_on h a _ h.2.2.2.1
  case endloopLast =>
    intro s c w a fs h hfields hframes
    refine ⟨_, exec_dmaEndloop_taken h hfields, ?_⟩
    rw [hframes]
    simp only [if_true]
    exact dmaNext_modCh_on h _ _ h.2.2.2.1
  case endloopNone =>
    intro s c w h hfields hframes
    refine ⟨_, exec_dmaEndloop_taken h hfields, ?_⟩
    rw [hframes]
    exact dmaBad_taken_faulted h (by decide)
  case waitPending =>
    intro s c w h hfields hreserved hsrc hpending
    refine ⟨_, exec_dmaWait_event h hfields hreserved hsrc, ?_⟩
    rw [if_pos hpending]
    exact dmaNext_modCh_on h _ _ h.2.2.2.1
  case waits =>
    intro s c w h hfields hreserved hsrc hpending
    refine ⟨_, exec_dmaWait_event h hfields hreserved hsrc, ?_⟩
    rw [if_neg (by simp [hpending])]
    obtain ⟨hstate, hwait, -⟩ := dmaAwait_waits (s.taken.modCh c fun k => { k with mask := clearBit k.mask (bits w 6 0) }) h.2.1
      (.event (bits w 6 0)) (usTicks (bits w 47 32))
    refine ⟨hstate, hwait, ?_⟩
    unfold dmaAwait
    rw [dmaTo_dmaCh, State.modCh_same, State.modCh_same]
    rfl
  case signal =>
    intro s c w h hfields hopen
    exact exec_dmaSignal_signals h hfields hopen
  case fence =>
    intro s c w h hfields hopen
    refine ⟨_, exec_dmaFence_taken h hfields, ?_⟩
    rw [dmaConfirm_confirmed (s := s.taken) hopen]
    exact ⟨dmaNext_taken_on h _, dmaNext_queues s.taken h.2.2.2.1 h.2.1 h.2.2.2.2 _⟩
  case fenceOpen =>
    intro s c w h hfields hopen
    refine ⟨_, exec_dmaFence_taken h hfields, ?_⟩
    rw [dmaConfirm, if_pos (by simp [hopen]), readBack_frame]
    obtain ⟨hstate, hwait, -⟩ := dmaAwait_waits (s.taken.modDma fun d => { d with hostOut := (readBack s.taken c).dma.hostOut }) h.2.1
      .fence 0
    exact ⟨hstate, hwait⟩
  case seta =>
    intro s c w h htarget hfields
    exact ⟨_, exec_dmaSeta_immediate h htarget hfields, dmaNext_modCh_on h _ _ h.2.2.2.1⟩
  case adda =>
    intro s c w h hfields
    exact ⟨_, exec_dmaAdda_immediate h hfields, dmaNext_modCh_on h _ _ h.2.2.2.1⟩
  case illegal =>
    intro s c w op h hop
    exact ⟨_, exec_illegalInstruction_taken h hop, dmaBad_taken_faulted h (by decide)⟩

end Sys2Proof.Machine
end

section
/-! PROOFS. The runs of a DMA channel (R441 to R444, R468, R621): how the commands, the start pulses and the breakpoints start, halt
and end them. -/

namespace Sys2Proof.Machine

open Sys2Proof

variable {s t : State} {ses c : Nat}

/-! The commands of a channel. -/

theorem dmaCtl_accepted (hs : s.serves ses) (hc : c < 16) {w : Nat} (hw : w = 1 ∨ w = 2 ∨ w = 3) :
    Accepted s ses .dmaCtl c 6 ⟨6, 6, "Command", .u8, .wo, false, .calc, .rng 1 3⟩ ((entryTy .dmaCtl c 6).encode (w : Nat)) w := by
  rcases hw with rfl | rfl | rfl <;>
    exact ⟨hs, hc, has_of_present hc rfl, ⟨rfl, by decide⟩, ⟨rfl, rfl⟩, rfl, rfl, rfl⟩

theorem debugCh_accepted (hs : s.serves ses) (hc : c < 16) {w : Nat} (hw : w = 1 ∨ w = 2 ∨ w = 3) :
    Accepted s ses .debugCh c 6 ⟨6, 6, "Command", .u8, .wo, false, .calc, .rng 1 3⟩ ((entryTy .debugCh c 6).encode (w : Nat)) w := by
  rcases hw with rfl | rfl | rfl <;>
    exact ⟨hs, hc, has_of_present hc rfl, ⟨rfl, by decide⟩, ⟨rfl, rfl⟩, rfl, rfl, rfl⟩

/-- A command of a channel is answered with what it does. -/
theorem dmaCommand_served (hs : s.serves ses) (hc : c < 16) {w : Nat} (hw : w = 1 ∨ w = 2 ∨ w = 3) {code : Code}
    (hact : dmaCommand s c w = (t, code)) (hreset : t.power.inReset = false) :
    serveNum s ses .dmaCtl c 6 (w : Nat) = answer t code := (dmaCtl_accepted hs hc hw).volatile rfl hact hreset

theorem debugCommand_served (hs : s.serves ses) (hc : c < 16) {w : Nat} (hw : w = 1 ∨ w = 2 ∨ w = 3) {code : Code}
    (hact : debugCommand s c w = (t, code)) (hreset : t.power.inReset = false) :
    serveNum s ses .debugCh c 6 (w : Nat) = answer t code := (debugCh_accepted hs hc hw).volatile rfl hact hreset

theorem answer_dmaState (s : State) (code : Code) (hc : c < 16) : dmaState (answer s code) c = dmaState s c :=
  congrArg Int.toNat (answer_num s code (by decide) hc (by decide))

theorem answer_dmaStat (s : State) (code : Code) (hc : c < 16) {sub : Nat} (hsub : sub < 256) :
    (answer s code).num .dmaStat c sub = s.num .dmaStat c sub := answer_num s code (by decide) hc hsub

@[simp] theorem bump_dmaCh (s : State) (o : Obj) (u sub n c : Nat) : (s.bump o u sub n).dmaCh c = s.dmaCh c := rfl

/-! A run begins. -/

/-- The run of channel c has begun at its program address, outside the state of its debug port (R441, R443). -/
def runBegun (s : State) (c : Nat) : State :=
  let s' := s.modCh c (fun k => { DmaCh.init with pc := s.nat .dmaCtl c 1, latched := k.latched, pulses := k.pulses, at_ := s.now })
  ((((dmaTo s' c 1).bump .dmaStat c 8 1).setNum .dmaStat c 14 s.now).setNum .dmaStat c 2 (s.nat .dmaCtl c 1)).setNum .debugCh c 8 0

theorem runBegun_dmaCh (s : State) (c : Nat) :
    (runBegun s c).dmaCh c = { DmaCh.init with
      pc := s.nat .dmaCtl c 1, latched := (s.dmaCh c).latched, pulses := (s.dmaCh c).pulses, at_ := s.now } := by
  unfold runBegun
  rw [setNum_dmaCh, setNum_dmaCh, setNum_dmaCh, bump_dmaCh, dmaTo_dmaCh, State.modCh_same]

theorem runBegun_power (s : State) (c : Nat) : (runBegun s c).power = s.power := by
  unfold runBegun dmaTo State.modCh State.modDma State.bump State.setNum
  rfl

theorem runBegun_state (s : State) (hc : c < 16) : dmaState (runBegun s c) c = 1 := by
  unfold runBegun dmaState State.nat
  rw [num_setNum_obj _ (by decide) hc hc (by decide) (by decide), num_setNum_sub _ _ _ (by decide), num_setNum_sub _ _ _ (by decide),
    num_bump_ne _ (entryKey_sub_ne _ _ (by decide))]
  exact dmaState_dmaTo _ hc (by decide)

theorem runBegun_counts (s : State) (hc : c < 16) : Counted s (runBegun s c) .dmaStat c 8 1 := by
  unfold runBegun
  rw [Counted, num_setNum_obj _ (by decide) hc hc (by decide) (by decide), num_setNum_sub _ _ _ (by decide),
    num_setNum_sub _ _ _ (by decide), num_bump_same, dmaTo_num _ (entryKey_sub_ne _ _ (by decide))
      (entryKey_obj_ne (by decide) hc (by decide) (by decide) (by decide))]
  rfl

theorem runBegun_halts (s : State) (hc : c < 16) : (runBegun s c).nat .debugCh c 5 = s.nat .debugCh c 5 := by
  refine congrArg Int.toNat ?_
  unfold runBegun
  rw [num_setNum_sub _ _ _ (by decide), num_setNum_obj _ (by decide) hc hc (by decide) (by decide),
    num_setNum_obj _ (by decide) hc hc (by decide) (by decide), num_bump_ne _ (entryKey_obj_ne (by decide) hc hc (by decide) (by decide)),
    dmaTo_num _ (entryKey_obj_ne (by decide) hc hc (by decide) (by decide))
      (entryKey_obj_ne (by decide) hc (by decide) (by decide) (by decide))]
  rfl

theorem dmaBegin_runs (hc : c < 16) (h : s.nat .debugCh c 5 ≠ 1) : dmaBegin s c = runBegun s c :=
  if_neg (by rw [← runBegun_halts s hc] at h; exact h)

theorem dmaBegin_halted (hc : c < 16) (h : s.nat .debugCh c 5 = 1) : dmaBegin s c = dmaHalt (runBegun s c) c :=
  if_pos (by rw [← runBegun_halts s hc] at h; exact h)

/-! A channel enters HALTED. -/

/-- An event of the management island leaves every entry outside the queues as it was. -/
theorem dmaHalt_num (s : State) {o : Obj} {u sub : Nat} (ho : o ≠ .queue) (hu : u < o.size) (hsub : sub < 256)
    (hstat : entryKey o u sub ≠ entryKey .dmaStat c 1) (hdebug : entryKey o u sub ≠ entryKey .debug 0 6)
    (hhalt : entryKey o u sub ≠ entryKey .debugCh c 8) : (dmaHalt s c).num o u sub = s.num o u sub := by
  unfold dmaHalt
  rw [raise_num _ (show islandOf _ 84 c < 32 from (by decide : 29 < 32)) ho hu hsub, num_setNum_ne _ hhalt, dmaTo_num _ hstat hdebug]

theorem dmaHalt_state (s : State) (hc : c < 16) : dmaState (dmaHalt s c) c = 4 := by
  unfold dmaState dmaHalt State.nat
  rw [raise_num _ (show islandOf _ 84 c < 32 from (by decide : 29 < 32)) (by decide) hc (by decide),
    num_setNum_obj _ (by decide) hc hc (by decide) (by decide)]
  exact dmaState_dmaTo _ hc (by decide)

theorem dmaHalt_raised (s : State) (c : Nat) (h : s.canRaise 29) : Raised s (dmaHalt s c) 29 ⟨84, 2, c, s.now⟩ :=
  raise_room ((dmaTo s c 4).setNum .debugCh c 8 0) 84 2 c rfl h

theorem dmaHalt_dma (s : State) (c : Nat) : (dmaHalt s c).dma = s.dma := raise_dma ..

theorem dmaHalt_power (s : State) (c : Nat) : (dmaHalt s c).power = s.power := raise_power ..

/-- A run that begins halted raises the event of its halt (R621). -/
theorem runBegun_halt_raised (h : s.canRaise 29) : Raised s (dmaHalt (runBegun s c) c) 29 ⟨84, 2, c, s.now⟩ := by
  have hqueues : (runBegun s c).queues = s.queues := by
    unfold runBegun dmaTo State.modCh State.modDma State.bump State.setNum
    rfl
  have hnow : (runBegun s c).now = s.now := by
    unfold runBegun dmaTo State.modCh State.modDma State.bump State.setNum
    rfl
  have hraised := dmaHalt_raised (runBegun s c) c (by rw [State.canRaise, State.queue, hqueues]; exact h)
  rwa [hnow, Raised, State.queue, State.queue, hqueues] at hraised

/-! The commands by their state. -/

theorem dmaCommand_start (hidle : dmaState s c = 0) (hmode : s.nat .dmaCtl c 3 = 0) : dmaCommand s c 1 = (dmaBegin s c, .success) :=
  if_pos ⟨hidle, hmode⟩

theorem dmaCommand_start_refused (h : dmaState s c ≠ 0 ∨ s.nat .dmaCtl c 3 ≠ 0) : dmaCommand s c 1 = (s, .inUse) :=
  if_neg fun ⟨hidle, hmode⟩ => h.elim (· hidle) (· hmode)

theorem dmaCommand_abort (h : dmaState s c = 1 ∨ dmaState s c = 2 ∨ dmaState s c = 4) :
    dmaCommand s c 2 = (raise (dmaTo (dmaStop s c) c 0) 73 2 c, .success) := if_pos h

theorem dmaCommand_clear (h : dmaState s c = 3) : dmaCommand s c 3 = ((dmaTo s c 0).setNum .dmaStat c 3 0, .success) := if_pos h

theorem debugCommand_halt (h : dmaState s c = 1) (hcur : s.dma.cur.map (·.1) ≠ some c) :
    debugCommand s c 1 = (dmaHalt s c, .success) := if_pos ⟨h, hcur⟩

theorem debugCommand_release (h : dmaState s c = 4) :
    debugCommand s c 2 = ((dmaTo s c 1).modCh c (fun k => { k with skip := true, at_ := s.now }), .success) := if_pos h

theorem debugCommand_step (h : dmaState s c = 4) :
    debugCommand s c 3 = ((dmaTo s c 1).modCh c (fun k => { k with skip := true, stepping := true, at_ := s.now }), .success) := if_pos h

/-- What DMA_ABORT leaves of a channel: nothing held, requested or awaited (R444). -/
theorem dmaStop_idle (s : State) (c : Nat) :
    ((dmaStop s c).dmaCh c).move = none ∧ ((dmaStop s c).dmaCh c).reqs = [] ∧ ((dmaStop s c).dmaCh c).wait = none := by
  unfold dmaStop
  rw [setNum_dmaCh, State.modCh_same]
  exact ⟨rfl, rfl, rfl⟩

/-- A run that begins, without halt on start, from a state that differs from `s` in the record of the channel alone. -/
theorem dmaBegin_modCh (hc : c < 16) (h : s.nat .debugCh c 5 ≠ 1) (f : DmaCh → DmaCh) :
    dmaState (dmaBegin (s.modCh c f) c) c = 1 ∧ Counted s (dmaBegin (s.modCh c f) c) .dmaStat c 8 1 ∧
      (dmaBegin (s.modCh c f) c).dmaCh c = { DmaCh.init with
        pc := s.nat .dmaCtl c 1, latched := (f (s.dmaCh c)).latched, pulses := (f (s.dmaCh c)).pulses, at_ := s.now } := by
  rw [dmaBegin_runs (s := s.modCh c f) hc h]
  refine ⟨runBegun_state _ hc, runBegun_counts (s.modCh c f) hc, ?_⟩
  rw [runBegun_dmaCh, State.modCh_same]
  rfl

/-- Settles O35: a command acts by the channel's state, a start pulse by what the channel holds, a breakpoint by the address that
comes next. -/
theorem dmaRunsStartStopAndHalt : Obligations.DmaRunsStartStopAndHalt := by
  unfold Obligations.DmaRunsStartStopAndHalt
  refine ⟨?start, ?startHalted, ?startRefused, ?pulse, ?latched, ?notIdle, ?abort, ?clear, ?halt, ?release, ?step, ?breakpoint⟩
  case start =>
    intro s ses c hs hreset hc hidle hmode hrun
    have hbegin := dmaBegin_runs hc hrun
    refine ⟨_, congrArg Host.Outcome.next
      (dmaCommand_served hs hc (.inl rfl) (dmaCommand_start hidle hmode) (by rw [hbegin, runBegun_power]; exact hreset)), rfl, ?_⟩
    rw [answer_dmaState _ _ hc, answer_dmaCh, Counted, answer_dmaStat _ _ hc (by decide), hbegin, runBegun_dmaCh]
    exact ⟨runBegun_state s hc, rfl, rfl, runBegun_counts s hc⟩
  case startHalted =>
    intro s ses c hs hreset hc hidle hmode hhalt
    have hbegin := dmaBegin_halted hc hhalt
    refine ⟨_, congrArg Host.Outcome.next
      (dmaCommand_served hs hc (.inl rfl) (dmaCommand_start hidle hmode) (by rw [hbegin, dmaHalt_power, runBegun_power]; exact hreset)), rfl, ?_⟩
    rw [answer_dmaState _ _ hc, Counted, answer_dmaStat _ _ hc (by decide), hbegin, dmaHalt_state _ hc,
      dmaHalt_num _ (by decide) hc (by decide) (entryKey_sub_ne _ _ (by decide))
        (entryKey_obj_ne (by decide) hc (by decide) (by decide) (by decide)) (entryKey_obj_ne (by decide) hc hc (by decide) (by decide))]
    exact ⟨rfl, runBegun_counts s hc, fun hroom => runBegun_halt_raised hroom⟩
  case startRefused =>
    intro s ses c hs hreset hc hrefused
    exact ⟨_, congrArg Host.Outcome.next (dmaCommand_served hs hc (.inl rfl) (dmaCommand_start_refused hrefused) hreset), rfl, rfl⟩
  case pulse =>
    intro s c hc hidle hpulses hrun
    obtain ⟨hstate, hcount, hch⟩ := dmaBegin_modCh (s := s) hc hrun (fun k => { k with pulses := 0 })
    refine ⟨dmaBegin (s.modCh c fun k => { k with pulses := 0 }) c, ?_, hstate, ?_⟩
    · show execDmaEventStart c s = _
      unfold execDmaEventStart
      simp only [Nat.not_le.mpr hc, hidle, Nat.pos_of_ne_zero hpulses, ne_eq, not_true_eq_false, or_self, if_false, if_true]
    · rw [hch]
      exact ⟨rfl, rfl, rfl, hcount⟩
  case latched =>
    intro s c hc hidle hpulses hlatched hrun
    obtain ⟨hstate, hcount, hch⟩ := dmaBegin_modCh (s := s) hc hrun (fun k => { k with latched := false })
    refine ⟨dmaBegin (s.modCh c fun k => { k with latched := false }) c, ?_, hstate, ?_⟩
    · show execDmaEventStart c s = _
      unfold execDmaEventStart
      simp only [Nat.not_le.mpr hc, hidle, hpulses, hlatched, ne_eq, not_true_eq_false, or_self, if_false, if_true, lt_self_iff_false]
    · rw [hch]
      exact ⟨rfl, rfl, hcount⟩
  case notIdle =>
    intro s c hstate
    exact ⟨s, if_pos (.inr hstate), rfl⟩
  case abort =>
    intro s ses c hs hreset hc hstate
    refine ⟨_, congrArg Host.Outcome.next
      (dmaCommand_served hs hc (.inr (.inl rfl)) (dmaCommand_abort hstate) (by rw [raise_power]; exact hreset)), rfl, ?_⟩
    obtain ⟨hmove, hreqs, hwait⟩ := dmaStop_idle s c
    rw [answer_dmaState _ _ hc, answer_dmaCh, raise_dmaCh, dmaTo_dmaCh]
    refine ⟨?_, hmove, hreqs, hwait, fun hroom => ?_⟩
    · rw [dmaState, State.nat, raise_num_dma rfl 2 (by decide) hc (by decide)]
      exact dmaState_dmaTo _ hc (by decide)
    · exact raise_room (dmaTo (dmaStop s c) c 0) 73 2 c rfl hroom
  case clear =>
    intro s ses c hs hreset hc hstate
    refine ⟨_, congrArg Host.Outcome.next (dmaCommand_served hs hc (.inr (.inr rfl)) (dmaCommand_clear hstate) hreset), rfl, ?_⟩
    rw [answer_dmaState _ _ hc, answer_dmaStat _ _ hc (by decide), num_setNum_same]
    refine ⟨?_, rfl, rfl⟩
    rw [dmaState, State.nat, num_setNum_sub _ _ _ (by decide)]
    exact dmaState_dmaTo _ hc (by decide)
  case halt =>
    intro s ses c hs hreset hc hstate hcur
    refine ⟨_, congrArg Host.Outcome.next
      (debugCommand_served hs hc (.inl rfl) (debugCommand_halt hstate hcur) (by rw [dmaHalt_power]; exact hreset)), rfl, ?_⟩
    rw [answer_dmaState _ _ hc]
    exact ⟨dmaHalt_state s hc, dmaHalt_dma s c⟩
  case release =>
    intro s ses c hs hreset hc hstate
    refine ⟨_, congrArg Host.Outcome.next
      (debugCommand_served hs hc (.inr (.inl rfl)) (debugCommand_release hstate) hreset), rfl, ?_⟩
    rw [answer_dmaState _ _ hc, answer_dmaCh, State.modCh_same]
    exact ⟨dmaState_dmaTo s hc (by decide), rfl⟩
  case step =>
    intro s ses c hs hreset hc hstate
    refine ⟨_, congrArg Host.Outcome.next
      (debugCommand_served hs hc (.inr (.inr rfl)) (debugCommand_step hstate) hreset), rfl, ?_⟩
    rw [answer_dmaState _ _ hc, answer_dmaCh, State.modCh_same]
    exact ⟨dmaState_dmaTo s hc (by decide), rfl⟩
  case breakpoint =>
    intro s c b hc hstate hcur hbreak
    let r := ((dmaTo (s.modCh c (fun k => { k with stepping := false })) c 4).bump .debugCh c 7 1)
    have hi : islandOf r 84 (c * 256 + b) < 32 := (by decide : 29 < 32)
    refine ⟨raise r 84 1 (c * 256 + b), ?_, ?_, ?_, ?_⟩
    · show execBreakpointHit c s = _
      unfold execBreakpointHit
      rw [hbreak]
      exact if_pos ⟨hc, hstate, hcur⟩
    · rw [dmaState, State.nat, raise_num 1 hi (by decide) hc (by decide), num_bump_ne _ (entryKey_obj_ne (by decide) hc hc (by decide)
        (by decide))]
      exact dmaState_dmaTo _ hc (by decide)
    · rw [Counted, raise_num 1 hi (by decide) hc (by decide), num_bump_same, dmaTo_num _ (entryKey_obj_ne (by decide) hc hc (by decide)
        (by decide)) (entryKey_obj_ne (by decide) hc (by decide) (by decide) (by decide))]
      rfl
    · rw [raise_dmaCh, bump_dmaCh, dmaTo_dmaCh, State.modCh_same]

end Sys2Proof.Machine
end

section
/-! PROOFS. The beats of the DMA engine, the waits of its channels and the answers that come back to them (R446 to R470). -/

namespace Sys2Proof.Machine

open Sys2Proof

variable {s t : State} {ses c : Nat}

/-! What the frame of an instruction says of single parts of the hub. -/

theorem DmaFrame.dmaBuf (h : DmaFrame s t) : t.dmaBuf = s.dmaBuf := by rw [← h.rest]
theorem DmaFrame.takeMem (h : DmaFrame s t) : t.takeMem = s.takeMem := by rw [← h.rest]

/-! The beat boundary (R458). -/

theorem pickChannel_lt (h : pickChannel s = some c) : c < 16 := by
  obtain ⟨l, -, hl⟩ := List.exists_of_findSome?_eq_some h
  obtain ⟨i, -, hi⟩ := List.mem_map.mp (List.mem_of_find?_eq_some hl)
  omega

/-- The channels of a lower level that lose the boundary in the middle of a MOVE are counted (R458). -/
def preempted (s : State) (l : Nat) : State :=
  (List.range 16).foldl (fun s d =>
    if s.nat .dmaCtl d 2 < l ∧ (s.dmaCh d).move.isSome ∧ canBeat s d then s.bump .dmaStat d 11 1 else s) s

/-- `t` is `s` but for the counts of pre-empted channels. -/
structure Preempts (s t : State) : Prop where
  rest : { t with regs := s.regs } = s
  regs : KeepsRegs (fun k => ∃ d < 16, k = entryKey .dmaStat d 11) s t

theorem preempted_preempts (s : State) (l : Nat) : Preempts s (preempted s l) := by
  unfold preempted
  refine List.foldlRecOn (motive := Preempts s) _ _ ⟨rfl, .refl _ s⟩ ?_
  rintro t ⟨hrest, hregs⟩ d hd
  split
  · exact ⟨hrest, hregs.trans (.bump t 1 ⟨d, List.mem_range.mp hd, rfl⟩)⟩
  · exact ⟨hrest, hregs⟩

theorem Preempts.num (h : Preempts s t) {o : Obj} {u sub : Nat} (hu : u < o.size) (hsub : sub < 256) (hne : o ≠ .dmaStat ∨ sub ≠ 11) :
    t.num o u sub = s.num o u sub := by
  refine h.regs.num (by rw [← h.rest]) (by rw [← h.rest]) o u sub ?_
  rintro ⟨d, hd, hkey⟩
  obtain ⟨hobj, -, hs⟩ := entryKey_inj hu hd hsub (by decide) hkey
  exact hne.elim (· hobj) (· hs)

theorem Preempts.dma (h : Preempts s t) : t.dma = s.dma := by rw [← h.rest]
theorem Preempts.dmaCh (h : Preempts s t) (c : Nat) : t.dmaCh c = s.dmaCh c := by rw [← h.rest]; rfl
theorem Preempts.dmaBuf (h : Preempts s t) : t.dmaBuf = s.dmaBuf := by rw [← h.rest]
theorem Preempts.takeMem (h : Preempts s t) : t.takeMem = s.takeMem := by rw [← h.rest]
theorem Preempts.sramWord (h : Preempts s t) (a : Nat) : sramWord t a = sramWord s a := by rw [← h.rest]; rfl

/-- The hub at a beat boundary that serves channel c: the lower levels are pre-empted, and the level remembers the channel. -/
def served (s : State) (c : Nat) : State :=
  (preempted s (s.nat .dmaCtl c 2)).modDma (fun d => { d with served := d.served.set (s.nat .dmaCtl c 2) c })

theorem served_dmaCh (s : State) (c d : Nat) : (served s c).dmaCh d = s.dmaCh d := (preempted_preempts s _).dmaCh d
theorem served_cur (s : State) (c : Nat) : (served s c).dma.cur = s.dma.cur := by
  show (preempted s _).dma.cur = _
  rw [(preempted_preempts s _).dma]
theorem served_dmaBuf (s : State) (c : Nat) : (served s c).dmaBuf = s.dmaBuf := (preempted_preempts s _).dmaBuf
theorem served_takeMem (s : State) (c : Nat) : (served s c).takeMem = s.takeMem := (preempted_preempts s _).takeMem
theorem served_sramWord (s : State) (c a : Nat) : sramWord (served s c) a = sramWord s a := (preempted_preempts s _).sramWord a

theorem served_num (s : State) (c : Nat) {o : Obj} {u sub : Nat} (hu : u < o.size) (hsub : sub < 256) (hne : o ≠ .dmaStat ∨ sub ≠ 11) :
    (served s c).num o u sub = s.num o u sub := (preempted_preempts s _).num hu hsub hne

theorem exec_dmaBeat_fetch (hcur : s.dma.cur = none) (hcopy : copyBusy s = false) (hpick : pickChannel s = some c)
    (hmove : (s.dmaCh c).move = none) (host : Option Bytes) :
    exec (.dmaBeat .good host) s = .next (fetchInstr (served s c) c .good) := by
  have hch : ((served s c).dmaCh c).move = none := by rw [served_dmaCh, hmove]
  show execDmaBeat .good host s = _
  unfold execDmaBeat
  rw [if_neg (by simp [hcur, hcopy]), hpick]
  show (match ((served s c).dmaCh c).move with
    | none => _
    | some m => _) = _
  rw [hch]
  rfl

theorem exec_dmaBeat_write {m : DmaMove} (hcur : s.dma.cur = none) (hcopy : copyBusy s = false) (hpick : pickChannel s = some c)
    (hmove : (s.dmaCh c).move = some m) (hnext : (s.dmaCh c).nextBeat m = some true) (host : Option Bytes) :
    exec (.dmaBeat .good host) s = .next (writeBeat (served s c) c m) := by
  have hch : ((served s c).dmaCh c).move = some m := by rw [served_dmaCh, hmove]
  have hwrite : ((served s c).dmaCh c).nextBeat m = some true := by rw [served_dmaCh, hnext]
  show execDmaBeat .good host s = _
  unfold execDmaBeat
  rw [if_neg (by simp [hcur, hcopy]), hpick]
  show (match ((served s c).dmaCh c).move with
    | none => _
    | some m => _) = _
  rw [hch]
  show (match ((served s c).dmaCh c).nextBeat m with
    | some true => _
    | _ => _) = _
  rw [hwrite]
  rfl

/-! A fetch. -/

theorem fetchInstr_budget (h : s.nat .dmaCtl c 5 ≤ (s.dmaCh c).count) : fetchInstr s c .good = dmaBad s c 16 := if_pos h

/-- An instruction is fetched and counted (R440, R465). -/
def fetched (s : State) (c : Nat) : State :=
  (s.modCh c (fun k => { k with count := k.count + 1, skip := false, at_ := s.now })).modDma (fun d =>
    { d with cur := some (c, sramWord s (s.dmaCh c).pc) })

theorem fetchInstr_fetches (hcount : (s.dmaCh c).count < s.nat .dmaCtl c 5) (hpc : (s.dmaCh c).pc < 65536) :
    fetchInstr s c .good = fetched s c := by
  unfold fetchInstr
  simp only [Nat.not_le.mpr hcount, Nat.not_le.mpr hpc, if_false]
  rfl

theorem fetched_dmaCh (s : State) (c : Nat) :
    (fetched s c).dmaCh c = { s.dmaCh c with count := (s.dmaCh c).count + 1, skip := false, at_ := s.now } :=
  State.modCh_same s c fun k => { k with count := k.count + 1, skip := false, at_ := s.now }

/-- What a fault leaves of the fetched instruction: none of its own channel. -/
theorem dmaFault_cur (hcur : s.dma.cur = none) (cause target kind addr code : Nat) :
    (dmaFault s c cause target kind addr code).dma.cur = none := by
  rw [dmaFault_eq, raise_dma]
  show Option.filter _ s.dma.cur = none
  rw [hcur]
  rfl

/-! A write beat into the DMA buffer. -/

/-- A write beat of unconverted elements at rising addresses stores their bytes, and no other byte (R457). -/
theorem writeBeat_stores {m : DmaMove} {a n : Nat} (hreg : (s.dmaCh c).reg m.dst = ⟨a, 0, false, false⟩) (hmode : m.mode = 0)
    (hinc : m.dinc = true) (halign : a % m.wd = 0) (hn : n = min 32 (min (s.dmaCh c).hold.length m.toWrite) / m.wd * m.wd)
    (hwithin : within dmaBase dmaBufSize a n = true) :
    (writeBeat s c m).dmaBuf = regionStore s.dmaBuf (a - dmaBase) ((s.dmaCh c).hold.take n) ∧
      (writeBeat s c m).takeMem = s.takeMem := by
  have hle : n ≤ (s.dmaCh c).hold.length := by
    have := Nat.div_mul_le_self (min 32 (min (s.dmaCh c).hold.length m.toWrite)) m.wd
    omega
  have hlen : ((s.dmaCh c).hold.take n).length = n := by rw [List.length_take]; omega
  have hstore : dmaStore s ⟨a, 0, false, false⟩ a ((s.dmaCh c).hold.take n) =
      .ok { s with dmaBuf := regionStore s.dmaBuf (a - dmaBase) ((s.dmaCh c).hold.take n) } := by
    show (if _ then _ else _) = _
    rw [hlen, if_pos hwithin]
  unfold writeBeat
  simp only [hreg, DmaMove.writable, hmode, hinc, halign, ← hn, if_true, hstore, ne_eq, not_true_eq_false, if_false,
    show (0 : Nat) = 2 ↔ False from by decide]
  split
  · exact ⟨(dmaNext_frame _ c _).dmaBuf, (dmaNext_frame _ c _).takeMem⟩
  · exact ⟨rfl, rfl⟩

/-! Waits and confirmations. -/

theorem exec_waitComplete_event {src l a : Nat} (hstate : dmaState s c = 2) (hwait : (s.dmaCh c).wait = some ⟨.event src, l, a⟩)
    (hbit : bit (s.dmaCh c).mask src = true) : exec (.waitComplete c) s =
      .next (dmaNext (s.modCh c (fun k => { k with mask := clearBit k.mask src })) c ((s.dmaCh c).pc + 8)) := by
  show execWaitComplete c s = _
  unfold execWaitComplete
  simp only [hstate, hwait, hbit, ne_eq, not_true_eq_false, if_false, if_true]

theorem exec_waitComplete_tick {x l a : Nat} (hstate : dmaState s c = 2) (hwait : (s.dmaCh c).wait = some ⟨.tick x, l, a⟩)
    (hx : x ≤ s.now) : exec (.waitComplete c) s = .next (dmaNext s c ((s.dmaCh c).pc + 8)) := by
  show execWaitComplete c s = _
  unfold execWaitComplete
  simp only [hstate, hwait, hx, ne_eq, not_true_eq_false, if_false, if_true]

theorem exec_waitTimeout {w : DmaWait} (hstate : dmaState s c = 2) (hwait : (s.dmaCh c).wait = some w) (hlimit : w.limit ≠ 0)
    (hdue : w.since + w.limit ≤ s.now) : exec (.waitTimeout c) s = .next (dmaBad s c 15) := by
  show execWaitTimeout c s = _
  unfold execWaitTimeout
  rw [hwait]
  exact if_pos ⟨hstate, hlimit, hdue⟩

theorem exec_writeConfirmed_fence {l a : Nat} (good : Bool) (hstate : dmaState s c = 2)
    (hwait : (s.dmaCh c).wait = some ⟨.fence, l, a⟩) (hreqs : (s.dmaCh c).reqs = [])
    (houts : (s.dmaCh c).outs.find? (fun o => o.target == 1) = none) : exec (.writeConfirmed c good) s =
      .next (dmaNext (s.modCh c (fun k => { k with outs := [] })) c ((s.dmaCh c).pc + 8)) := by
  have hpc : ((s.modCh c fun k => { k with outs := [] }).dmaCh c).pc = (s.dmaCh c).pc := by rw [State.modCh_same]
  show execWriteConfirmed c good s = _
  unfold execWriteConfirmed
  simp [hstate, hwait, hreqs, houts, dmaConfirmed]

/-! Answers to a channel (R448, R466). -/

/-- The hub with the oldest request of channel c taken. -/
abbrev answering (s : State) (c : Nat) (rest : List DmaReq) : State := s.modCh c (fun k => { k with reqs := rest })

theorem exec_dictionaryAnswer {r : DmaReq} {rest : List DmaReq} (horphans : s.dma.orphans.find? (fun p => p.1 == c) = none)
    (hreqs : (s.dmaCh c).reqs = r :: rest) : exec (.dictionaryAnswer c) s =
      .next (if r.write then writeAnswered (answering s c rest) c r else readAnswered (answering s c rest) c r) := by
  show execDictionaryAnswer c s = _
  unfold execDictionaryAnswer
  rw [horphans, hreqs]

theorem captureRead_rest (s : State) (u sub : Nat) : captureRead s u sub = { s with caps := (captureRead s u sub).caps } := by
  unfold captureRead
  dsimp only
  split
  · split
    · rfl
    · rfl
  · split
    · rfl
    · rfl

theorem readEffect_rest (s : State) (o : Obj) (u sub : Nat) : readEffect s o u sub = { s with caps := (readEffect s o u sub).caps } := by
  unfold readEffect
  split
  · exact captureRead_rest s u sub
  · rfl

/-- A read of the dictionary changes the answer, its count and the progress of a capture's read, and nothing else. -/
theorem serveRead_state (s : State) (who idx sub : Nat) : (serveRead s who idx sub).1 =
    { answer s (serveRead s who idx sub).2.1 with caps := (serveRead s who idx sub).1.caps } := by
  unfold serveRead
  dsimp only
  split
  · rfl
  · split
    · rfl
    · split
      · rfl
      · split
        · rfl
        · split
          · rfl
          · split
            · rfl
            · exact readEffect_rest _ _ _ _

theorem readAnswered_fits {r : DmaReq} {u : State} {v : Bytes} (hread : serveRead s 15 r.idx r.sub = (u, .success, v))
    (hfits : v.length ≤ r.count) : readAnswered s c r =
      u.modCh c (fun k => { k with move := k.move.map (fun m => { m with data := some v }), at_ := u.now }) := by
  unfold readAnswered
  simp only [hread, ne_eq, not_true_eq_false, if_false, Nat.not_lt.mpr hfits]

/-- A write to an object of the channel's own is refused, and faults the channel (R448, R467). -/
theorem writeAnswered_own {r : DmaReq} (hown : ownObject c r.idx = true) (hc : c < 16) (hstate : dmaState s c = 1)
    (hreset : s.power.inReset = false) :
    writeAnswered s c r = dmaFault (answer s .inUse) c 7 2 3 (r.idx * 256 + r.sub) Code.inUse.num := by
  have hrun : dmaState (answer s .inUse) c = 1 := by rw [answer_dmaState s _ hc, hstate]
  have hkept : (answer s .inUse).power.inReset = false := hreset
  unfold writeAnswered channelWrite requestFault
  simp [hown, hkept, hrun]

/-- What a fault shows of its access (R468). -/
theorem dmaFault_shown (s : State) (hc : c < 16) (cause target kind addr code : Nat) :
    (dmaFault s c cause target kind addr code).num .dmaStat c 6 = (entryTy .dmaStat c 6).narrow addr ∧
      (dmaFault s c cause target kind addr code).num .dmaStat c 7 = (entryTy .dmaStat c 7).narrow code := by
  have hengine (a : Nat) (ha : a < 256) : entryKey .dmaStat c a ≠ entryKey .dmaEngine 0 8 := dmaStat_key_ne_engine hc ha (by decide)
  rw [dmaFault_eq, enterFault_num _ hc (by decide) (by decide) (by decide) hc (by decide) (entryKey_sub_ne _ _ (by decide)),
    enterFault_num _ hc (by decide) (by decide) (by decide) hc (by decide) (entryKey_sub_ne _ _ (by decide))]
  unfold faultShown
  rw [num_bump_ne _ (hengine 6 (by decide)), num_bump_ne _ (hengine 7 (by decide)), num_bump_ne _ (entryKey_sub_ne _ _ (by decide)),
    num_bump_ne _ (entryKey_sub_ne _ _ (by decide)), num_setNum_sub _ _ _ (by decide), num_setNum_same, num_setNum_same]
  exact ⟨rfl, rfl⟩

theorem exec_targetTimeout_write {o : DmaOut} {os : List DmaOut} (hstate : dmaState s c = 2) (houts : (s.dmaCh c).outs = o :: os)
    (hdue : (s.dmaCh c).at_ + accessTicks ≤ s.now) :
    exec (.targetTimeout c) s = .next (dmaFault s c 6 o.target 2 o.addr 0) := by
  show execTargetTimeout c s = _
  unfold execTargetTimeout
  simp only [Nat.not_lt.mpr hdue, hstate, houts, if_false, if_true, show (2 : Nat) = 1 ↔ False from by decide]

theorem exec_dictionaryAnswerTimeout {r : DmaReq} {rest : List DmaReq} (hstate : dmaState s c = 1 ∨ dmaState s c = 2)
    (hreqs : (s.dmaCh c).reqs = r :: rest) (hdue : r.at_ + msTicks (s.nat .dmaCtl c 7) ≤ s.now) :
    exec (.dictionaryAnswerTimeout c) s = .next (dmaFault s c 9 2 3 (r.idx * 256 + r.sub) 0) := by
  show execDictionaryAnswerTimeout c s = _
  unfold execDictionaryAnswerTimeout
  rw [hreqs]
  exact if_pos ⟨hstate, hdue⟩

/-! The program memory (R470). -/

theorem page_accepted {page : Nat} {bs : Bytes} (hs : s.serves ses) (hpage : page < 64) (hlen : bs.length = 1024) :
    Accepted s ses .sram 0 (page + 1) ⟨1, 64, "Page 0 to 63", .blob, .rw, true, .zeros 1024, .any⟩ bs 0 := by
  have hentry : Obj.entry .sram 0 (page + 1) = some ⟨1, 64, "Page 0 to 63", .blob, .rw, true, .zeros 1024, .any⟩ := by
    revert page
    decide
  refine ⟨hs, by decide, has_of_present (by decide) rfl, ⟨hentry, by decide, by decide, by rintro ⟨h, -⟩; exact absurd h (by decide),
    by decide, Nat.succ_ne_zero page⟩, ⟨?_, rfl⟩, rfl, rfl, ?_⟩
  · show decide (65535 < bs.length) = false
    rw [hlen]
    rfl
  · unfold fieldCheck
    simp [hentry, hlen]

theorem page_written {page : Nat} (bs : Bytes) (hpage : page < 64) :
    writeAction s ses .sram 0 (page + 1) 0 bs = (s.setBytes .sram 0 (page + 1) bs, .success) := by
  have hbytes : (entryTy .sram 0 (page + 1)).isBytes = true := by
    revert page
    decide
  show (if (entryTy .sram 0 (page + 1)).isBytes then s.setBytes .sram 0 (page + 1) bs else _, Code.success) = _
  rw [if_pos hbytes]

theorem noteRetained_bytes (s : State) (o p : Obj) (u sub w b : Nat) : (noteRetained s o u sub).bytes p w b = s.bytes p w b :=
  (congrArg (fun t => State.bytes t p w b) (noteRetained_frame s o u sub).1 :)

theorem noteRetained_dma (s : State) (o : Obj) (u sub : Nat) : (noteRetained s o u sub).dma = s.dma :=
  (congrArg State.dma (noteRetained_frame s o u sub).1 :)

/-- Settles O37: a beat boundary changes only counts and the rotation before it serves a channel, and waits, answers and timeouts
act by what the channel holds. -/
theorem dmaBeatsWaitsAndAnswers : Obligations.DmaBeatsWaitsAndAnswers := by
  unfold Obligations.DmaBeatsWaitsAndAnswers
  refine ⟨?fetch, ?budget, ?store, ?event, ?tick, ?timeout, ?fence, ?read, ?own, ?target, ?answerTimeout, ?page⟩
  case fetch =>
    intro s host c hcur hcopy hpick hmove hcount hpc
    have hc := pickChannel_lt hpick
    have hbudget : (served s c).nat .dmaCtl c 5 = s.nat .dmaCtl c 5 :=
      congrArg Int.toNat (served_num s c hc (by decide) (.inl (by decide)))
    refine ⟨_, exec_dmaBeat_fetch hcur hcopy hpick hmove host, ?_⟩
    rw [fetchInstr_fetches (by rw [served_dmaCh, hbudget]; exact hcount) (by rw [served_dmaCh]; exact hpc), fetched_dmaCh, served_dmaCh]
    refine ⟨?_, rfl, rfl⟩
    show some (c, sramWord (served s c) ((served s c).dmaCh c).pc) = _
    rw [served_dmaCh, served_sramWord]
  case budget =>
    intro s host c hcur hcopy hpick hmove hcount
    have hc := pickChannel_lt hpick
    have hbudget : (served s c).nat .dmaCtl c 5 = s.nat .dmaCtl c 5 :=
      congrArg Int.toNat (served_num s c hc (by decide) (.inl (by decide)))
    refine ⟨_, exec_dmaBeat_fetch hcur hcopy hpick hmove host, ?_⟩
    rw [fetchInstr_budget (by rw [served_dmaCh, hbudget]; exact hcount)]
    have hfault := dmaFault_faulted (served s c) hc (cause := 16) (by decide) 0 0 0 0
    rw [DmaFaulted, Counted, Counted, served_num s c hc (by decide) (.inr (by decide)),
      served_num s c (by decide) (by decide) (.inl (by decide))] at hfault
    exact ⟨hfault, dmaFault_cur (by rw [served_cur, hcur]) ..⟩
  case store =>
    intro s host c a m hcur hcopy hpick hmove hnext hreg hmode hinc halign hwithin hwd
    obtain ⟨hbuf, hmem⟩ := writeBeat_stores (s := served s c) (c := c) (m := m) (a := a) (by rw [served_dmaCh]; exact hreg) hmode hinc
      halign rfl (by rw [served_dmaCh]; exact hwithin)
    refine ⟨_, exec_dmaBeat_write hcur hcopy hpick hmove hnext host, ?_, hmem.trans (served_takeMem s c)⟩
    rw [hbuf, served_dmaBuf, served_dmaCh]
  case event =>
    intro s c src l a hc hstate hwait hbit hstep hhalt
    refine ⟨_, exec_waitComplete_event hstate hwait hbit, ?_⟩
    have hon := dmaNext_on (s.modCh c (fun k => { k with mask := clearBit k.mask src })) hc ((s.dmaCh c).pc + 8)
      (by rw [State.modCh_same]; exact hstep) hhalt
    rw [State.modCh_same] at hon
    exact hon
  case tick =>
    intro s c x l a hc hstate hwait hx hstep hhalt
    exact ⟨_, exec_waitComplete_tick hstate hwait hx, dmaNext_on s hc _ hstep hhalt⟩
  case timeout =>
    intro s c w hc hstate hwait hlimit hdue
    exact ⟨_, exec_waitTimeout hstate hwait hlimit hdue, dmaFault_faulted s hc (by decide) 0 0 0 0⟩
  case fence =>
    intro s c l a good hc hstate hwait hreqs houts hstep hhalt
    refine ⟨_, exec_writeConfirmed_fence good hstate hwait hreqs houts, ?_⟩
    have hon := dmaNext_on (s.modCh c (fun k => { k with outs := [] })) hc ((s.dmaCh c).pc + 8)
      (by rw [State.modCh_same]; exact hstep) hhalt
    rw [State.modCh_same] at hon
    exact hon
  case read =>
    intro s c r rest m u v horphans hreqs hwrite hmove hread hfits
    refine ⟨_, exec_dictionaryAnswer horphans hreqs, ?_⟩
    have hdma : u.dma = (answering s c rest).dma := by
      have hstate := serveRead_state (answering s c rest) 15 r.idx r.sub
      rw [hread] at hstate
      exact (congrArg State.dma hstate :)
    have hch : u.dmaCh c = { s.dmaCh c with reqs := rest } := by
      rw [State.dmaCh, hdma]
      exact State.modCh_same s c fun k => { k with reqs := rest }
    rw [hwrite, if_neg (by decide), readAnswered_fits hread hfits, State.modCh_same, hch]
    exact ⟨by rw [hmove]; rfl, rfl, rfl⟩
  case own =>
    intro s c r rest hc hstate horphans hreqs hwrite hown hreset
    refine ⟨_, exec_dictionaryAnswer horphans hreqs, ?_⟩
    rw [hwrite, if_pos rfl, writeAnswered_own hown hc (s := answering s c rest) hstate hreset]
    have hfault := dmaFault_faulted (answer (answering s c rest) .inUse) hc (cause := 7) (by decide) 2 3 (r.idx * 256 + r.sub)
      Code.inUse.num
    rw [DmaFaulted, Counted, Counted, answer_num _ _ (by decide) hc (by decide), answer_num _ _ (by decide) (by decide) (by decide)]
      at hfault
    refine ⟨hfault, (dmaFault_shown _ hc 7 2 3 _ _).2, ?_⟩
    rw [dmaFault_eq, raise_ans]
    rfl
  case target =>
    intro s c o os hc hstate houts hdue
    exact ⟨_, exec_targetTimeout_write hstate houts hdue, dmaFault_faulted s hc (by decide) .., (dmaFault_shown s hc ..).1⟩
  case answerTimeout =>
    intro s c r rest hc hstate hreqs hdue
    exact ⟨_, exec_dictionaryAnswerTimeout hstate hreqs hdue, dmaFault_faulted s hc (by decide) ..⟩
  case page =>
    intro s ses page bs hs hreset hpage hlen
    refine ⟨_, congrArg Host.Outcome.next ((page_accepted hs hpage hlen).retained (page_written bs hpage) hreset), rfl, ?_,
      noteRetained_dma _ .sram 0 (page + 1)⟩
    exact (noteRetained_bytes _ _ _ _ _ _ _).trans (bytes_setBytes_same s .sram 0 (page + 1) bs)

end Sys2Proof.Machine
end

section
/-! PROOFS. The TAP of the debug port (R609 to R614): what its instructions select, capture and take. -/

namespace Sys2Proof.Machine

open Sys2Proof

variable {s t : State}

/-! Instructions of the TAP. -/

/-- An instruction that is selected while no debug reset is due. -/
theorem updateIr_selects (h : s.dbg.resetDue = false) (code : Nat) :
    updateIr s code = s.modDbg (fun d => { d with ir := code, control := d.control && d.ir == code }) := by
  unfold updateIr
  simp only [h, Bool.false_eq_true, if_false]

theorem takeBalls_held (hdue : s.dbg.resetDue = false) (hheld : s.power.held = true) (code : Nat) :
    takeBalls s code = s.modDbg (fun d => { d with ir := code, control := true }) := by
  unfold takeBalls
  rw [if_pos hheld, updateIr_selects hdue]
  rfl

/-- The hub with BYPASS selected in the place of an instruction that takes the balls (R613). -/
def bypassed (s : State) : State := s.modDbg (fun d => { d with ir := 0x3F, control := d.control && d.ir == 0x3F, dr := 0 })

theorem takeBalls_bypasses (hdue : s.dbg.resetDue = false) (hheld : s.power.held = false) (hreset : s.power.inReset = false)
    (code : Nat) : takeBalls s code = raise ((bypassed s).bump .debug 0 5 1) 84 3 code := by
  unfold takeBalls
  rw [if_neg (by simp [hheld]), updateIr_selects hdue]
  exact if_neg (by simp only [captureDr, State.modDbg, hreset]; decide)

/-- An instruction that takes the balls while RESET_N is held. -/
theorem takesBalls {code : Nat} {i : Instr} (hexec : exec i s = .next (if tapOn s then takeBalls s code else s)) (hon : tapOn s = true)
    (hdue : s.dbg.resetDue = false) (hheld : s.power.held = true) :
    ∃ t, exec i s = .next t ∧ t.dbg.ir = code ∧ t.dbg.control = true ∧ { t with dbg := s.dbg } = s := by
  rw [if_pos hon, takeBalls_held hdue hheld] at hexec
  exact ⟨_, hexec, rfl, rfl, rfl⟩

/-- The same instruction outside every reset: BYPASS, counted. -/
theorem bypassesBalls {code : Nat} {i : Instr} (hexec : exec i s = .next (if tapOn s then takeBalls s code else s))
    (hon : tapOn s = true) (hdue : s.dbg.resetDue = false) (hheld : s.power.held = false) (hreset : s.power.inReset = false) :
    ∃ t, exec i s = .next t ∧ t.dbg.ir = 0x3F ∧ t.dbg.dr = 0 ∧ t.dbg.control = (s.dbg.control && s.dbg.ir == 0x3F) ∧
      Counted s t .debug 0 5 1 := by
  rw [if_pos hon, takeBalls_bypasses hdue hheld hreset] at hexec
  refine ⟨_, hexec, ?_⟩
  rw [raise_dbg, Counted, raise_num 3 (show islandOf _ 84 code < 32 from (by decide : 29 < 32)) (by decide) (by decide) (by decide),
    num_bump_same]
  exact ⟨rfl, rfl, rfl, rfl⟩

/-- Settles O46: an instruction selects its register and captures its value, and only RESET_N held lets one take the balls. -/
theorem theTapSelectsAndCaptures : Obligations.TheTapSelectsAndCaptures := by
  unfold Obligations.TheTapSelectsAndCaptures
  refine ⟨?reset, ?extest, ?extestFree, ?clamp, ?clampFree, ?highz, ?highzFree, ?sample, ?idcode, ?bypass, ?captureWord, ?captureEmpty,
    ?update, ?updateFull⟩
  case reset =>
    intro s hon
    exact ⟨_, congrArg Host.Outcome.next (if_pos hon), rfl, rfl, rfl⟩
  case extest => exact fun s hon hdue hheld => takesBalls rfl hon hdue hheld
  case extestFree => exact fun s hon hdue hheld hreset => bypassesBalls (code := 0x00) rfl hon hdue hheld hreset
  case clamp => exact fun s hon hdue hheld => takesBalls rfl hon hdue hheld
  case clampFree => exact fun s hon hdue hheld hreset => bypassesBalls (code := 0x03) rfl hon hdue hheld hreset
  case highz => exact fun s hon hdue hheld => takesBalls rfl hon hdue hheld
  case highzFree => exact fun s hon hdue hheld hreset => bypassesBalls (code := 0x04) rfl hon hdue hheld hreset
  case sample =>
    intro s balls hon hdue
    refine ⟨_, congrArg Host.Outcome.next (if_pos hon), ?_⟩
    rw [updateIr_selects hdue]
    exact ⟨rfl, rfl, rfl⟩
  case idcode =>
    intro s hon hdue
    refine ⟨_, congrArg Host.Outcome.next (if_pos hon), ?_⟩
    rw [updateIr_selects hdue]
    exact ⟨rfl, rfl, rfl⟩
  case bypass =>
    intro s hon hdue
    refine ⟨_, congrArg Host.Outcome.next (if_pos hon), ?_⟩
    rw [updateIr_selects hdue]
    exact ⟨rfl, rfl, rfl⟩
  case captureWord =>
    intro s w rest hon hir hbuf
    refine ⟨captureDr (s.modDbg (fun d => { d with rbuf := rest })) (2 ^ 64 + w), ?_, rfl, rfl, rfl⟩
    show execDbgdataCapture s = _
    unfold execDbgdataCapture
    simp only [hon, selectIr_same hir, hbuf, Bool.true_eq_false, if_false]
  case captureEmpty =>
    intro s hon hir hbuf
    refine ⟨captureDr s 0, ?_, rfl, hbuf, rfl⟩
    show execDbgdataCapture s = _
    unfold execDbgdataCapture
    simp only [hon, selectIr_same hir, hbuf, Bool.true_eq_false, if_false]
  case update =>
    intro s w hon hir hreset hbit hroom
    refine ⟨s.modDbg (fun d => { d with wbuf := d.wbuf ++ [w % 2 ^ 64] }), ?_, rfl, rfl⟩
    show execDbgdataUpdate w s = _
    unfold execDbgdataUpdate
    simp only [hon, selectIr_same hir, hreset, hbit, Nat.not_le.mpr hroom, Bool.true_eq_false, Bool.false_eq_true, or_self, if_false]
  case updateFull =>
    intro s w hon hir hreset hbit hfull
    refine ⟨s.bump .debug 0 4 1, ?_, rfl, num_bump_same ..⟩
    show execDbgdataUpdate w s = _
    unfold execDbgdataUpdate
    simp only [hon, selectIr_same hir, hreset, hbit, hfull, Bool.true_eq_false, Bool.false_eq_true, or_self, if_false, if_true]

end Sys2Proof.Machine
end

section
/-! PROOFS. The commands of DBGCMD (R615 to R618): how they begin, what they read and write, and how they end. -/

namespace Sys2Proof.Machine

open Sys2Proof

variable {s t : State} {w op : Nat}

/-! A command that begins. -/

@[simp] theorem modDbg_num (s : State) (f : DebugSt → DebugSt) (o : Obj) (u sub : Nat) : (s.modDbg f).num o u sub = s.num o u sub := rfl

theorem dbgBegun_num (s : State) {o : Obj} {u sub : Nat} (h : entryKey o u sub ≠ entryKey .debug 0 7) :
    s.dbgBegun.num o u sub = s.num o u sub := num_setNum_ne _ h _

theorem dbgBegun_phase (s : State) : phase s.dbgBegun = phase s := congrArg Int.toNat (dbgBegun_num s (by decide))

/-- A command that is taken is busy with what it answered. -/
theorem takeCmd_busy (h : DbgTakes s w op) {run : State → Served3} {c : Code} {b : Bytes} (hrun : run s.dbgBegun = (t, c, b))
    (hreset : t.power.inReset = false) : takeCmd s w op run = t.modDbg (fun d => { d with busy := some (op, c, b) }) := by
  rw [takeCmd_begins h (by rw [hrun]; exact hreset), hrun]

theorem serveRead_dbg (s : State) (who idx sub : Nat) : (serveRead s who idx sub).1.dbg = s.dbg := by
  rw [serveRead_state]
  rfl

theorem serveRead_power (s : State) (who idx sub : Nat) : (serveRead s who idx sub).1.power = s.power := by
  rw [serveRead_state]
  rfl

theorem serveRead_num (s : State) (who idx : Nat) (sub : Nat) {o : Obj} {u a : Nat} (ho : o ≠ .answers) (hu : u < o.size)
    (ha : a < 256) : (serveRead s who idx sub).1.num o u a = s.num o u a := by
  rw [serveRead_state]
  exact answer_num s _ ho hu ha

/-! The program memory at its addresses (R440, R470). -/

/-- Every page of the program memory is whole. -/
def PagesWhole (s : State) : Prop := ∀ p < 64, (s.bytes .sram 0 (p + 1)).length = 1024

/-- One byte of the program memory is stored. -/
def sramPut (s : State) (a : Nat) (b : Byte) : State :=
  s.setBytes .sram 0 (a / 1024 + 1) ((s.bytes .sram 0 (a / 1024 + 1)).set (a % 1024) b)

theorem sramPut_bytes_other (s : State) {a p : Nat} (b : Byte) (h : p ≠ a / 1024) :
    (sramPut s a b).bytes .sram 0 (p + 1) = s.bytes .sram 0 (p + 1) :=
  bytes_setBytes_ne s (entryKey_sub_ne _ _ (by omega)) _

theorem sramPut_whole (h : PagesWhole s) (a : Nat) (b : Byte) : PagesWhole (sramPut s a b) := by
  intro p hp
  by_cases hpage : p = a / 1024
  · subst hpage
    rw [sramPut, bytes_setBytes_same, List.length_set]
    exact h _ hp
  · rw [sramPut_bytes_other s b hpage]
    exact h p hp

theorem sramPut_byte_same (h : PagesWhole s) {a : Nat} (ha : a < 65536) (b : Byte) : sramByte (sramPut s a b) a = b := by
  have hlen : (s.bytes .sram 0 (a / 1024 + 1)).length = 1024 := h _ (by omega)
  rw [sramByte, sramPut, bytes_setBytes_same, List.getD_eq_getElem?_getD, List.getElem?_set_self (by rw [hlen]; omega)]
  rfl

theorem sramPut_byte_other (s : State) {a x : Nat} (b : Byte) (h : x ≠ a) : sramByte (sramPut s a b) x = sramByte s x := by
  unfold sramByte
  by_cases hpage : x / 1024 = a / 1024
  · rw [hpage, sramPut, bytes_setBytes_same, List.getD_eq_getElem?_getD, List.getElem?_set_ne (by omega),
      List.getD_eq_getElem?_getD]
  · rw [sramPut_bytes_other s b hpage]

theorem sramStore_cons (s : State) (a : Nat) (b : Byte) (bs : Bytes) :
    sramStore s a (b :: bs) = sramStore (sramPut s a b) (a + 1) bs := rfl

/-- Bytes below those that are stored stand as before. -/
theorem sramStore_byte_below (s : State) {a x : Nat} (h : x < a) (bs : Bytes) : sramByte (sramStore s a bs) x = sramByte s x := by
  induction bs generalizing s a with
  | nil => rfl
  | cons b bs ih => rw [sramStore_cons, ih _ (by omega), sramPut_byte_other s b (by omega)]

/-- Bytes that were stored read back. -/
theorem sramStore_byte (h : PagesWhole s) {a : Nat} {bs : Bytes} (hend : a + bs.length ≤ 65536) {i : Nat} (hi : i < bs.length) :
    sramByte (sramStore s a bs) (a + i) = bs[i] := by
  induction bs generalizing s a i with
  | nil => exact absurd hi (Nat.not_lt_zero i)
  | cons b bs ih =>
    rw [List.length_cons] at hend hi
    rw [sramStore_cons]
    cases i with
    | zero => exact (sramStore_byte_below _ (Nat.lt_succ_self a) bs).trans (sramPut_byte_same h (by omega) b)
    | succ i =>
      have hnext := ih (sramPut_whole h a b) (a := a + 1) (by omega) (i := i) (by omega)
      rwa [Nat.add_assoc, Nat.add_comm 1 i] at hnext

theorem sramLoad_sramStore (h : PagesWhole s) {a : Nat} {bs : Bytes} (hend : a + bs.length ≤ 65536) :
    sramLoad (sramStore s a bs) a bs.length = bs := by
  refine List.ext_getElem (by simp [sramLoad]) fun i _ hi => ?_
  simp only [sramLoad, List.getElem_map, List.getElem_range, sramStore_byte h hend hi]

/-- Stored bytes change the byte strings of the dictionary and nothing else. -/
theorem sramStore_rest (s : State) (a : Nat) (bs : Bytes) : sramStore s a bs = { s with blobs := (sramStore s a bs).blobs } := by
  induction bs generalizing s a with
  | nil => rfl
  | cons b bs ih => rw [sramStore_cons, ih]; rfl

/-! The commands. -/

theorem exec_debugObjectRead_reads (h : DbgTakes s w 1) (hfields : bits w 59 32 = 0) (hlow : bits w 7 0 = 0) (hphase : 3 ≤ phase s) :
    exec (.debugObjectRead w) s = .next ((serveRead s.dbgBegun noRequester (bits w 31 16) (bits w 15 8)).1.modDbg
      (fun d => { d with busy := some (1, (serveRead s.dbgBegun noRequester (bits w 31 16) (bits w 15 8)).2) })) := by
  refine congrArg Host.Outcome.next (takeCmd_busy h ?_ ?_)
  · rw [if_neg (by simp [hfields, hlow]), if_neg (by rw [dbgBegun_phase]; omega)]
  · rw [serveRead_power]
    exact h.2.2.2.2.1

/-- A write served outside a reset answers with the status that it leaves behind. -/
theorem serveWrite_code {ses idx sub : Nat} {b : Bytes} {c : Code} (h : (serveWrite s ses idx sub b).1 = answer t c)
    (hreset : t.power.inReset = false) : (serveWrite s ses idx sub b).2 = c := by
  unfold serveWrite at h ⊢
  dsimp only at h ⊢
  split at h
  · next hin =>
    rw [h] at hin
    exact absurd (hin.symm.trans hreset) (by decide)
  · exact congrArg State.ans h

/-- The state after a write of the location code (R499). -/
def located (s : State) (bs : Bytes) : State :=
  answer (noteRetained (s.setNum .identity 0 13 (leNat bs)) .identity 0 13) .success

theorem serveWrite_location {bs : Bytes} (hs : s.serves 15) (hreset : s.power.inReset = false) (hlen : bs.length = 4) :
    serveWrite s 15 0x1000 13 bs = (located s bs, .success) := by
  have hkept := locationCode_kept (ses := 15) hs hreset hlen
  exact Prod.ext hkept (serveWrite_code hkept (by rw [noteRetained_inReset]; exact hreset))

theorem located_value (s : State) {bs : Bytes} (hlen : bs.length = 4) : (located s bs).num .identity 0 13 = leNat bs := by
  have hlt := leNat_lt bs
  rw [hlen] at hlt
  have hvalue : (s.setNum .identity 0 13 (leNat bs)).num .identity 0 13 = leNat bs :=
    (num_setNum_same _ _ _ _ _).trans (narrowU_of_lt (by omega) (by omega))
  rw [located, answer_num _ _ (by decide) (by decide) (by decide), noteRetained_num _ _ _ _ _ _ _ (by decide), hvalue]

theorem located_dbg (s : State) (bs : Bytes) : (located s bs).dbg = s.dbg :=
  (congrArg State.dbg (noteRetained_frame (s.setNum .identity 0 13 (leNat bs)) .identity 0 13).1 :)

theorem located_inReset (s : State) (bs : Bytes) : (located s bs).power.inReset = s.power.inReset :=
  noteRetained_inReset (s.setNum .identity 0 13 (leNat bs)) .identity 0 13

/-- The fields of the command word that writes 4 bytes to the location code. -/
theorem locationWord_fields (h : bits w 59 0 = 4 * 2 ^ 40 + 0x10000D00) :
    bits w 59 56 = 0 ∧ bits w 39 32 = 0 ∧ bits w 7 0 = 0 ∧ bits w 55 40 = 4 ∧ bits w 31 16 = 0x1000 ∧ bits w 15 8 = 13 := by
  unfold bits at *
  omega

theorem exec_debugObjectWrite_location (h : DbgTakes s w 2) (hword : bits w 59 0 = 4 * 2 ^ 40 + 0x10000D00)
    (hbytes : 4 ≤ s.dbg.wbytes.length) (hphase : 3 ≤ phase s) (hheld : (s.stage 15).held = false) :
    exec (.debugObjectWrite w) s =
      .next ((located s.dbgBegun (s.dbg.wbytes.take 4)).modDbg (fun d => { d with busy := some (2, .success, []) })) := by
  obtain ⟨htop, hmid, hlow, hlen, hidx, hsub⟩ := locationWord_fields hword
  have hserves : s.dbgBegun.serves 15 := ⟨rfl, by rw [dbgBegun_phase]; exact hphase⟩
  have hreset : s.dbgBegun.power.inReset = false := h.2.2.2.2.1
  have hwrite := serveWrite_location hserves hreset (bs := s.dbg.wbytes.take 4) (by rw [List.length_take]; omega)
  refine congrArg Host.Outcome.next (takeCmd_busy h ?_ ?_)
  · have hbuf : s.dbgBegun.dbg.wbytes = s.dbg.wbytes := rfl
    have hstage : (s.dbgBegun.stage 15).held = false := hheld
    simp only [htop, hmid, hlow, hlen, hidx, hsub, hbuf, hstage, Nat.not_lt.mpr hbytes, dbgBegun_phase, Nat.not_lt.mpr hphase, hwrite,
      ne_eq, not_true_eq_false, or_self, Bool.false_eq_true, if_false, show (4096 : Nat) = 4864 ↔ False from by decide]
  · rw [located_inReset]
    exact hreset

/-- A command on words of the program memory passes its checks (R617). -/
theorem memoryCheck_program (hspace : bits w 59 56 = 1) (halign : bits w 47 0 % 8 = 0)
    (hend : bits w 47 0 + 8 * (bits w 55 48 + 1) ≤ 65536) (hphase : 2 ≤ phase s) : memoryCheck s w = none := by
  unfold memoryCheck
  simp only [hspace, halign, spaceSize, Nat.not_lt.mpr hend, Nat.not_lt.mpr hphase, ne_eq, not_true_eq_false, or_self, and_false,
    if_false, show (4 : Nat) ≤ 1 ↔ False from by decide]

/-- What DEBUG_MEMORY_READ brings of the program memory. -/
def programWords (s : State) (w : Nat) : Bytes :=
  (List.range (bits w 55 48 + 1)).flatMap (fun i => sramLoad s (bits w 47 0 + 8 * i) 8)

theorem exec_debugMemoryRead_program (h : DbgTakes s w 3) (hspace : bits w 59 56 = 1) (halign : bits w 47 0 % 8 = 0)
    (hend : bits w 47 0 + 8 * (bits w 55 48 + 1) ≤ 65536) (hphase : 2 ≤ phase s) : exec (.debugMemoryRead w none) s =
      .next (({ s.dbgBegun with free := s.free + 1 } : State).modDbg
        (fun d => { d with busy := some (3, .success, programWords s w) })) := by
  refine congrArg Host.Outcome.next (takeCmd_busy h ?_ h.2.2.2.2.1)
  rw [memoryCheck_program hspace halign hend (by rw [dbgBegun_phase]; exact hphase)]
  simp only [hspace, lt_self_iff_false, if_false]
  rfl

theorem exec_debugMemoryWrite_program (h : DbgTakes s w 4) (hspace : bits w 59 56 = 1) (halign : bits w 47 0 % 8 = 0)
    (hend : bits w 47 0 + 8 * (bits w 55 48 + 1) ≤ 65536) (hbytes : 8 * (bits w 55 48 + 1) ≤ s.dbg.wbytes.length)
    (hphase : 2 ≤ phase s) : exec (.debugMemoryWrite w) s =
      .next ((sramStore s.dbgBegun (bits w 47 0) (s.dbg.wbytes.take (8 * (bits w 55 48 + 1)))).modDbg
        (fun d => { d with busy := some (4, .success, []) })) := by
  have hbuf : s.dbgBegun.dbg.wbytes = s.dbg.wbytes := rfl
  refine congrArg Host.Outcome.next (takeCmd_busy h ?_ ?_)
  · rw [memoryCheck_program hspace halign hend (by rw [dbgBegun_phase]; exact hphase)]
    simp only [hspace, hbuf, Nat.not_lt.mpr hbytes, if_false]
  · rw [sramStore_rest]
    exact h.2.2.2.2.1

/-- A command that was busy has ended: its status, its bytes and its buffers (R615, R616). -/
def commandEnded (s : State) (op : Nat) (c : Code) (b : Bytes) : State :=
  s.modDbg (fun d => { d with
    busy := none, state := if c == .success then 2 else 3, code := c.num, length := b.length
    rbuf := (chunks 8 b).map leNat, wbuf := if op = 2 ∨ op = 4 then [] else d.wbuf })

theorem exec_debugCommandDone_busy {c : Code} {b : Bytes} (h : s.dbg.busy = some (op, c, b)) :
    exec .debugCommandDone s = .next ((commandEnded s op c b).bump .debug 0 (if c == .success then 3 else 4) 1) := by
  show execDebugCommandDone s = _
  unfold execDebugCommandDone
  rw [h]
  rfl

/-- Settles O47: a command that is taken begins with the same state, is busy with what its own rule answers, and ends by its
status. -/
theorem debugCommandsRunAndEnd : Obligations.DebugCommandsRunAndEnd := by
  unfold Obligations.DebugCommandsRunAndEnd
  refine ⟨?noOperation, ?objectRead, ?objectWrite, ?memoryRead, ?memoryWrite, ?done, ?refused⟩
  case noOperation =>
    intro s w hon hop hir hdue
    refine ⟨_, exec_debugNoOperation_scan hon hop, ?_⟩
    rw [scanCmd_captures hir (.inl hdue)]
    exact ⟨rfl, rfl⟩
  case objectRead =>
    intro s w h hfields hlow hphase
    refine ⟨_, exec_debugObjectRead_reads h hfields hlow hphase, rfl, ?_, ?_⟩
    · show ((serveRead s.dbgBegun noRequester (bits w 31 16) (bits w 15 8)).1.dbg).state = 1
      rw [serveRead_dbg]
      rfl
    · show (serveRead s.dbgBegun noRequester (bits w 31 16) (bits w 15 8)).1.num .debug 0 7 = _
      rw [serveRead_num _ _ _ _ (by decide) (by decide) (by decide)]
      exact num_setNum_same ..
  case objectWrite =>
    intro s w h hword hbytes hphase hheld
    refine ⟨_, exec_debugObjectWrite_location h hword hbytes hphase hheld, rfl, ?_, ?_⟩
    · rw [modDbg_num, located_value _ (by rw [List.length_take]; omega)]
    · show (located s.dbgBegun (s.dbg.wbytes.take 4)).dbg.wbuf = _
      rw [located_dbg]
      rfl
  case memoryRead =>
    intro s w h hspace halign hend hphase
    exact ⟨_, exec_debugMemoryRead_program h hspace halign hend hphase, rfl, rfl⟩
  case memoryWrite =>
    intro s w h hspace halign hend hbytes hphase hpages
    have hlen : (s.dbg.wbytes.take (8 * (bits w 55 48 + 1))).length = 8 * (bits w 55 48 + 1) := by rw [List.length_take]; omega
    have hload := sramLoad_sramStore (s := s.dbgBegun) (fun p hp => hpages ⟨p, hp⟩) (a := bits w 47 0)
      (bs := s.dbg.wbytes.take (8 * (bits w 55 48 + 1))) (by rw [hlen]; exact hend)
    rw [hlen] at hload
    refine ⟨_, exec_debugMemoryWrite_program h hspace halign hend hbytes hphase, rfl, hload, ?_, ?_⟩
    · show (sramStore s.dbgBegun _ _).dmaBuf = _
      rw [sramStore_rest]
      rfl
    · show (sramStore s.dbgBegun _ _).takeMem = _
      rw [sramStore_rest]
      rfl
  case done =>
    intro s op b h
    exact ⟨_, exec_debugCommandDone_busy h, rfl, rfl, rfl, rfl, rfl, num_bump_same ..⟩
  case refused =>
    intro s op c b h hc
    have hcode : (c == Code.success) = false := by simpa using hc
    refine ⟨_, exec_debugCommandDone_busy h, rfl, ?_, rfl, ?_⟩
    · show (if c == Code.success then 2 else 3) = 3
      rw [hcode]
      rfl
    · rw [hcode]
      exact num_bump_same ..

end Sys2Proof.Machine
end

section
/-! PROOFS. The host port (R563 to R576 of spec/18_host_port_and_legacy_outputs.md): its resets, its link, its doorbells, slots,
windows and interrupts. -/

namespace Sys2Proof.Machine

open Sys2Proof

variable {s t : State} {ses : Nat}

theorem hostOn_of_up (h : hostUp s = true) : hostOn s = true := (Bool.and_eq_true_iff.mp h).1

theorem hasHostPort_of_on (h : hostOn s = true) : Config.hasHostPort s.variant = true := by
  simp only [hostOn, Bool.and_eq_true] at h
  exact h.1.1.1

theorem notInReset_of_on (h : hostOn s = true) : s.power.inReset = false := by
  simp only [hostOn, Bool.and_eq_true, Bool.not_eq_true'] at h
  exact h.1.2

/-- An event of the endpoint leaves every entry outside the queues as it was. -/
theorem raise_endpoint_num (s : State) (cause detail : Nat) {o : Obj} {u sub : Nat} (ho : o ≠ .queue) (hu : u < o.size)
    (hsub : sub < 256) : (raise s 79 cause detail).num o u sub = s.num o u sub :=
  raise_num cause (show islandOf s 79 detail < 32 from (by decide : 30 < 32)) ho hu hsub

/-! The link (R575, R576). -/

theorem linkLost_shows (s : State) : (linkLost s).num .endpoint 0 1 = 0 ∧ (linkLost s).num .endpoint 0 2 = 0 ∧
    (linkLost s).num .endpoint 0 3 = 0 ∧ Counted s (linkLost s) .endpoint 0 8 1 := by
  unfold linkLost
  rw [Counted, raise_endpoint_num _ 2 0 (by decide) (by decide) (by decide), raise_endpoint_num _ 2 0 (by decide) (by decide) (by decide),
    raise_endpoint_num _ 2 0 (by decide) (by decide) (by decide), raise_endpoint_num _ 2 0 (by decide) (by decide) (by decide),
    num_bump_same, num_bump_ne _ (by decide), num_bump_ne _ (by decide), num_bump_ne _ (by decide)]
  simp only [num_setNum_sub, num_setNum_same, ne_eq, Nat.reduceEqDiff, not_false_eq_true]
  exact ⟨rfl, rfl, rfl, trivial⟩

theorem linkLost_host (s : State) : (linkLost s).host = s.host := raise_host ..

/-! The reset of the endpoint (R564). -/

/-- What a reset of the endpoint leaves of the host port: a slot that is being served, if any, is still to complete. -/
def hostCleared (h : HostSt) : HostSt :=
  { slots := [], busy := [], ansVec := 0, unmasked := [], pendingV := [], lastMsg := none, cut := (h.cut || !h.busy.isEmpty) }

theorem abandonSet_unheld (s : State) (ses : Nat) : ((abandonSet s ses).stage ses).held = false := by
  unfold abandonSet
  dsimp only
  split
  · show Stage.held (Sparse.get (raise _ 72 2 ses).stages ses Stage.empty) = false
    rw [raise_stages]
    exact congrArg Stage.held (State.putStage_same s ses { s.stage ses with held := false, set := [] })
  · next h => exact Bool.eq_false_iff.mpr h

theorem abandonSet_host (s : State) (ses : Nat) : (abandonSet s ses).host = s.host := by
  unfold abandonSet
  dsimp only
  split
  · exact raise_host ..
  · rfl

theorem abandonSet_endpoint (s : State) (sub : Nat) (hsub : sub < 256) :
    (abandonSet s 0).num .endpoint 0 sub = s.num .endpoint 0 sub := by
  unfold abandonSet
  dsimp only
  split
  · rw [raise_num 2 (show islandOf _ 72 0 < 32 from (by decide : 24 < 32)) (by decide) (by decide) hsub,
      num_bump_ne _ (entryKey_obj_ne (by decide) (by decide) (by decide) hsub (by decide)),
      num_setNum_obj _ (by decide) (by decide) (by decide) (by decide) hsub]
    rfl
  · rfl

theorem endpointReset_up (h : s.nat .endpoint 0 1 = 1) : endpointReset s =
    { abandonSet (linkLost s) 0 with
      queries := Sparse.del (abandonSet (linkLost s) 0).queries 0, host := hostCleared (abandonSet (linkLost s) 0).host } := by
  unfold endpointReset
  rw [if_pos h]
  rfl

/-- A reset of the endpoint with its link up, by either command. -/
theorem endpoint_is_reset {i : Instr} (hexec : exec i s = .next (if hostOn s then endpointReset s else s)) (hon : hostOn s = true)
    (hup : s.nat .endpoint 0 1 = 1) : ∃ t, exec i s = .next t ∧ t.num .endpoint 0 1 = 0 ∧ Counted s t .endpoint 0 8 1 ∧
      t.host = hostCleared s.host ∧ (t.stage 0).held = false ∧ Sparse.find t.queries 0 = none := by
  rw [if_pos hon, endpointReset_up hup] at hexec
  obtain ⟨hstate, -, -, hcount⟩ := linkLost_shows s
  refine ⟨_, hexec, ?_, ?_, ?_, abandonSet_unheld (linkLost s) 0, Sparse.find_del_same _ 0⟩
  · exact (abandonSet_endpoint (linkLost s) 1 (by decide)).trans hstate
  · exact (abandonSet_endpoint (linkLost s) 8 (by decide)).trans hcount
  · show hostCleared (abandonSet (linkLost s) 0).host = _
    rw [abandonSet_host, linkLost_host]

/-! The link trains. -/

/-- The link is up at a speed and a width (R563, R575). -/
def linkTrained (s : State) (speed width : Nat) : State :=
  ((s.setNum .endpoint 0 1 1).setNum .endpoint 0 2 speed).setNum .endpoint 0 3 width

theorem exec_hostLinkUp {speed width : Nat} (hon : hostOn s = true) (hdown : s.nat .endpoint 0 1 = 0)
    (hspeed : speed = 25 ∨ speed = 50 ∨ speed = 80) (hwidth : width = 1 ∨ width = 2) :
    exec (.hostLinkUp speed width) s = .next (raise (linkTrained s speed width) 79 1 0) := by
  show execHostLinkUp speed width s = _
  unfold execHostLinkUp
  rw [if_pos ⟨hon, hdown, by simpa using hspeed, by simpa using hwidth⟩]
  rfl

theorem linkTrained_shows {speed width : Nat} (hspeed : speed = 25 ∨ speed = 50 ∨ speed = 80) (hwidth : width = 1 ∨ width = 2) :
    (linkTrained s speed width).num .endpoint 0 1 = 1 ∧ (linkTrained s speed width).num .endpoint 0 2 = speed ∧
      (linkTrained s speed width).num .endpoint 0 3 = width := by
  have hs : (entryTy .endpoint 0 2).narrow (speed : Int) = speed := narrowU_of_lt (w := 8) (by omega) (by omega)
  have hw : (entryTy .endpoint 0 3).narrow (width : Int) = width := narrowU_of_lt (w := 8) (by omega) (by omega)
  unfold linkTrained
  simp only [num_setNum_sub, num_setNum_same, ne_eq, Nat.reduceEqDiff, not_false_eq_true, hs, hw]
  exact ⟨rfl, trivial, trivial⟩

/-! Doorbells (R566, R567). -/

/-- The slot of a doorbell waits for its answer, behind those that wait. -/
def slotWaits (s : State) (w vec : Nat) : State :=
  (putSlot (s.modHost (fun h => { h with ansVec := vec })) w { s.slot w with status := (s.slot w).status % 2 ^ 31 }).modHost
    (fun h => { h with busy := h.busy ++ [w] })

theorem exec_slotDoorbell_waits {w : Nat} (vec : Nat) (hup : hostUp s = true) (hw : w < 16) (hfree : s.host.busy.contains w = false) :
    exec (.slotDoorbell w vec) s = .next (slotWaits s w vec) := by
  show execSlotDoorbell w vec s = _
  unfold execSlotDoorbell
  rw [if_neg (by simp [hup, hw])]
  exact congrArg Host.Outcome.next (if_neg (by simpa [State.modHost] using hfree))

theorem exec_slotDoorbell_refused {w : Nat} (vec : Nat) (hup : hostUp s = true) (hw : w < 16) (hbusy : s.host.busy.contains w = true) :
    exec (.slotDoorbell w vec) s =
      .next (raise ((s.modHost (fun h => { h with ansVec := vec })).bump .endpoint 0 7 1) 79 3 w) := by
  show execSlotDoorbell w vec s = _
  unfold execSlotDoorbell
  rw [if_neg (by simp [hup, hw])]
  exact congrArg Host.Outcome.next (if_pos hbusy)

theorem get_put_same {α : Type} (m : Sparse α) (k : Nat) (x d : α) : Sparse.get (Sparse.put m k x) k d = x := by
  rw [Sparse.get, Sparse.find_put_same]
  rfl

theorem slotWaits_shows (s : State) (w vec : Nat) : (slotWaits s w vec).host.busy = s.host.busy ++ [w] ∧
    (slotWaits s w vec).host.ansVec = vec ∧ ((slotWaits s w vec).slot w).status = (s.slot w).status % 2 ^ 31 ∧
      { slotWaits s w vec with host := s.host } = s := by
  have hslot : (slotWaits s w vec).slot w = { s.slot w with status := (s.slot w).status % 2 ^ 31 } :=
    get_put_same s.host.slots w _ _
  refine ⟨rfl, rfl, by rw [hslot], ?_⟩
  unfold slotWaits putSlot State.modHost
  rfl

/-! The answer of a slot (R567, R568). -/

/-- What a slot holds after the read that it asked for. -/
def slotRead (head tag : Nat) (c : Code) (v : Bytes) : HostSlot :=
  { head := head, len := v.length, status := 2 ^ 31 + c.num, tag := tag, value := v }

/-- The slot at the front is answered. -/
def slotAnswered (s : State) (k : Nat) (rest : List Nat) (x : HostSlot) : State :=
  ((putSlot s k x).modHost (fun h => { h with busy := rest })).bump .endpoint 0 6 1

theorem slotAccess_read {head len : Nat} {value v : Bytes} {c : Code} (hop : bits head 31 28 = 1) (hfields : bits head 27 24 = 0)
    (hread : serveRead s 0 (bits head 23 8) (bits head 7 0) = (t, c, v)) (hlen : v.length ≤ 65535) :
    slotAccess s head len value = (t, c, v) := by
  unfold slotAccess
  simp only [hop, hfields, hread, ne_eq, not_true_eq_false, if_false, Nat.not_lt.mpr hlen]

theorem exec_slotAnswer_read {head len tag k : Nat} {value v : Bytes} {rest : List Nat} {u : State} {c : Code}
    (hcut : s.host.cut = false) (hbusy : s.host.busy = k :: rest) (hreset : s.power.inReset = false) (hop : bits head 31 28 = 1)
    (hfields : bits head 27 24 = 0) (hread : serveRead s 0 (bits head 23 8) (bits head 7 0) = (u, c, v)) (hlen : v.length ≤ 65535) :
    exec (.slotAnswer head len tag value) s = .next (signalAnswer (slotAnswered u k rest (slotRead head tag c v))) := by
  have hpower := serveRead_power s 0 (bits head 23 8) (bits head 7 0)
  rw [hread] at hpower
  show execSlotAnswer head len tag value s = _
  unfold execSlotAnswer
  rw [if_neg (by simp [hcut]), hbusy]
  simp only [slotAccess_read hop hfields hread hlen, hop, beq_self_eq_true, if_true]
  exact if_neg (by rw [show u.power = s.power from hpower, hreset]; decide)

/-- A message of the host port changes the pending vectors, the last message and the count of messages alone. -/
theorem msixSend_keeps (s : State) (v : Nat) : (msixSend s v).host.slots = s.host.slots ∧ (msixSend s v).host.busy = s.host.busy ∧
    (msixSend s v).num .endpoint 0 6 = s.num .endpoint 0 6 := by
  unfold msixSend
  split
  · exact ⟨rfl, rfl, rfl⟩
  · split
    · exact ⟨rfl, rfl, num_bump_ne s (by decide) 1⟩
    · exact ⟨rfl, rfl, rfl⟩

theorem signalAnswer_keeps (s : State) : (signalAnswer s).host.slots = s.host.slots ∧ (signalAnswer s).host.busy = s.host.busy ∧
    (signalAnswer s).num .endpoint 0 6 = s.num .endpoint 0 6 := by
  unfold signalAnswer
  split
  · exact msixSend_keeps s _
  · exact ⟨rfl, rfl, rfl⟩

/-! The event doorbell (R566). -/

theorem software_encode {n : Nat} : (entryTy .router 0 4).encode ((n % 8 : Nat) : Int) = leBytes 1 (n % 8) := by
  show leBytes 1 ((((n % 8 : Nat) : Int) % 2 ^ 8).toNat) = _
  congr 1
  omega

/-! MSI-X (R570). -/

/-- A vector is unmasked, and no message of it is pending. -/
def unmask (s : State) (v : Nat) : State :=
  s.modHost (fun h => { h with unmasked := if h.unmasked.contains v then h.unmasked else h.unmasked ++ [v]
                               pendingV := h.pendingV.filter (· != v) })

theorem unmask_unmasked (s : State) (v : Nat) : (unmask s v).host.unmasked.contains v = true := by
  show (if s.host.unmasked.contains v then s.host.unmasked else s.host.unmasked ++ [v]).contains v = true
  split
  · assumption
  · simp

theorem exec_msixUnmask (hup : hostUp s = true) {v : Nat} (hv : v < 32) :
    exec (.msixUnmask v) s = .next (if s.host.pendingV.contains v then msixSend (unmask s v) v else unmask s v) := by
  show execMsixUnmask v s = _
  unfold execMsixUnmask
  rw [if_neg (by simp [hup, hv])]
  rfl

/-- A message of a vector that is unmasked is sent and counted. -/
theorem msixSend_sends (hport : Config.hasHostPort s.variant = true) {v : Nat} (hv : v < 32) (hunmasked : s.host.unmasked.contains v = true) :
    msixSend s v = { s.bump .endpoint 0 12 1 with host := { s.host with lastMsg := some v } } := by
  unfold msixSend
  rw [if_neg (by simp [hport, hv]), if_pos hunmasked]

/-! The hand-off ring (R574). -/

theorem consumedOffset_accepted {bs : Bytes} (hs : s.serves ses) (hhas : s.has .handoff 0 = true) (hlen : bs.length = 8) :
    Accepted s ses .handoff 0 4 ⟨4, 4, "Consumed offset", .u64, .rw, false, .num 0, .any⟩ bs (leNat bs) :=
  ⟨hs, by decide, hhas, ⟨rfl, by decide⟩, ⟨bne_eq_false_iff_eq.2 hlen, rfl⟩, rfl, rfl, rfl⟩

theorem offset_consumed {bs : Bytes} (halign : leNat bs % 16 = 0) (hfrom : s.nat .handoff 0 4 ≤ leNat bs)
    (hto : leNat bs ≤ s.nat .handoff 0 3) : writeAction s ses .handoff 0 4 (leNat bs : Nat) bs =
      (consumed (s.setNum .handoff 0 4 (leNat bs)) (leNat bs), .success) := by
  have hok : consumedOk s (leNat bs) = true := by simp [consumedOk, halign, hfrom, hto]
  exact if_pos hok

/-- The acknowledgement states of what the host has consumed change, and the hand-off of it ends: nothing else does. -/
theorem consumed_keeps (s : State) (v : Nat) : (consumed s v).regs = s.regs ∧ (consumed s v).variant = s.variant ∧
    (consumed s v).fac = s.fac ∧ (consumed s v).power = s.power ∧
    (consumed s v).strm.hand = s.strm.hand.filter (fun h => decide (v < h.stop)) := by
  unfold consumed
  dsimp only
  have hfold := foldl_kept (g := fun t => (t.regs, t.variant, t.fac, t.power, t.strm.hand))
    (f := fun t (h : HandItem) => t.modAck h.ident h.stream h.num (fun k => k.account h.seq))
    (s.strm.hand.filter (fun h => decide (h.stop ≤ v))) s fun _ _ => rfl
  simp only [Prod.mk.injEq] at hfold
  obtain ⟨hregs, hvariant, hfac, hpower, hhand⟩ := hfold
  refine ⟨hregs, hvariant, hfac, hpower, ?_⟩
  show List.filter _ _ = _
  rw [hhand]

/-- Settles O44: a reset clears what the host port holds, a doorbell and an answer change one slot, and the windows, the messages and
the ring each change their own part. -/
theorem theHostPortResetsLinksAndServesSlots : Obligations.TheHostPortResetsLinksAndServesSlots := by
  unfold Obligations.TheHostPortResetsLinksAndServesSlots
  refine ⟨?perst, ?flr, ?linkUp, ?linkDown, ?doorbell, ?doorbellBusy, ?answer, ?event, ?write, ?writeOutside, ?unmaskQuiet, ?unmaskSends,
    ?bad, ?consumed⟩
  case perst => exact fun s hon hup => endpoint_is_reset rfl hon hup
  case flr => exact fun s hon hup => endpoint_is_reset rfl hon hup
  case linkUp =>
    intro s speed width hon hdown hspeed hwidth
    refine ⟨_, exec_hostLinkUp hon hdown hspeed hwidth, ?_⟩
    rw [raise_endpoint_num _ 1 0 (by decide) (by decide) (by decide), raise_endpoint_num _ 1 0 (by decide) (by decide) (by decide),
      raise_endpoint_num _ 1 0 (by decide) (by decide) (by decide)]
    exact linkTrained_shows hspeed hwidth
  case linkDown =>
    intro s hup
    obtain ⟨hstate, hspeed, hwidth, hcount⟩ := linkLost_shows s
    exact ⟨_, congrArg Host.Outcome.next (if_pos hup), hstate, hspeed, hwidth, hcount, linkLost_host s⟩
  case doorbell =>
    intro s w vec hup hw hfree
    exact ⟨_, exec_slotDoorbell_waits vec hup hw hfree, slotWaits_shows s w vec⟩
  case doorbellBusy =>
    intro s w vec hup hw hbusy
    refine ⟨_, exec_slotDoorbell_refused vec hup hw hbusy, ?_, ?_⟩
    · rw [Counted, raise_endpoint_num _ 3 w (by decide) (by decide) (by decide), num_bump_same]
      rfl
    · rw [raise_host]
      rfl
  case answer =>
    intro s head len tag k value v rest u c hcut hbusy hreset hop hfields hread hlen
    obtain ⟨hslots, hrest, hnum⟩ := signalAnswer_keeps (slotAnswered u k rest (slotRead head tag c v))
    have hserved := serveRead_num s 0 (bits head 23 8) (bits head 7 0) (o := .endpoint) (u := 0) (a := 6) (by decide) (by decide)
      (by decide)
    rw [hread] at hserved
    refine ⟨_, exec_slotAnswer_read hcut hbusy hreset hop hfields hread hlen, ?_, hrest, ?_⟩
    · rw [State.slot, hslots]
      exact get_put_same u.host.slots k (slotRead head tag c v) _
    · rw [Counted, hnum]
      refine (num_bump_same ..).trans ?_
      show _ = (entryTy .endpoint 0 6).narrow (s.num .endpoint 0 6 + 1)
      rw [← hserved]
      rfl
  case event =>
    intro s w hup hphase
    have hn : w % 8 < 8 := by omega
    have hserves : s.serves 0 := ⟨rfl, hphase⟩
    have hserved := (software_accepted hserves hn).volatile (t := raise s (88 + w % 8) 1 0) rfl rfl
      (by rw [raise_power]; exact notInReset_of_on (hostOn_of_up hup))
    refine ⟨answer (raise s (88 + w % 8) 1 0) .success, ?_, rfl, fun hroom => raise_software 0 hn hroom⟩
    show Host.Outcome.next (if hostUp s then serveNum s 0 .router 0 4 (w % 8 : Nat) else s) = _
    rw [if_pos hup, serveNum, software_encode, hserved]
  case write =>
    intro s offset bs hup hend hwithin
    refine ⟨{ s with dmaBuf := regionStore s.dmaBuf (s.nat .endpoint 0 10 * 1048576 + offset - dmaBase) bs }, ?_, rfl, rfl⟩
    show execBar2Write offset bs s = _
    unfold execBar2Write
    rw [if_neg (by simp [hup, hend])]
    exact congrArg Host.Outcome.next (if_pos hwithin)
  case writeOutside =>
    intro s offset bs hup hend hwithin
    refine ⟨raise (s.bump .endpoint 0 11 1) 79 4 (offset / 64), ?_, ?_, raise_dmaBuf ..⟩
    · show execBar2Write offset bs s = _
      unfold execBar2Write
      rw [if_neg (by simp [hup, hend])]
      exact congrArg Host.Outcome.next (if_neg (by simp [hwithin]))
    · rw [Counted, raise_endpoint_num _ 4 _ (by decide) (by decide) (by decide), num_bump_same]
  case unmaskQuiet =>
    intro s v hup hv hquiet
    refine ⟨unmask s v, ?_, unmask_unmasked s v, rfl⟩
    rw [exec_msixUnmask hup hv, hquiet]
    rfl
  case unmaskSends =>
    intro s v hup hv hpending
    have hport := hasHostPort_of_on (hostOn_of_up hup)
    refine ⟨msixSend (unmask s v) v, ?_, ?_⟩
    · rw [exec_msixUnmask hup hv, hpending]
      rfl
    · rw [msixSend_sends (s := unmask s v) hport hv (unmask_unmasked s v)]
      refine ⟨unmask_unmasked s v, ?_, rfl, num_bump_same (unmask s v) .endpoint 0 12 1⟩
      show (s.host.pendingV.filter (· != v)).contains v = false
      simp
  case bad =>
    intro s hup
    refine ⟨raise (s.bump .endpoint 0 9 1) 79 4 0, congrArg Host.Outcome.next (if_pos hup), ?_, fun hroom => ?_⟩
    · rw [Counted, raise_endpoint_num _ 4 0 (by decide) (by decide) (by decide), num_bump_same]
    · exact raise_room (s.bump .endpoint 0 9 1) 79 4 0 rfl hroom
  case consumed =>
    intro s ses bs hs hreset hhas hlen halign hfrom hto
    obtain ⟨hregs, hvariant, hfac, hpower, hhand⟩ := consumed_keeps (s.setNum .handoff 0 4 (leNat bs)) (leNat bs)
    have hserved := (consumedOffset_accepted hs hhas hlen).volatile rfl (offset_consumed (ses := ses) halign hfrom hto)
      (by rw [hpower]; exact hreset)
    refine ⟨_, congrArg Host.Outcome.next hserved, rfl, ?_, hhand⟩
    have hlt := leNat_lt bs
    rw [hlen] at hlt
    have hshown : (s.setNum .handoff 0 4 (leNat bs)).num .handoff 0 4 = leNat bs :=
      (num_setNum_same ..).trans (narrowU_of_lt (w := 64) (by omega) (by omega))
    rw [answer_num _ _ (by decide) (by decide) (by decide)]
    exact (KeepsRegs.num (p := fun _ => False) (.of_eq hregs) hvariant hfac .handoff 0 4 id).trans hshown

end Sys2Proof.Machine
end

section
/-! PROOFS. The legacy outputs (R577 to R583 of spec/18_host_port_and_legacy_outputs.md): their update ticks, their flags and their
release. -/

namespace Sys2Proof.Machine

open Sys2Proof

variable {s t : State} {ses i u : Nat}

/-! The settings that an update tick takes. -/

/-- The records of the outputs replaced. -/
def State.putOuts (s : State) (x : Sparse LgoSt) : State := { s with lgo := { s.lgo with outs := x } }

theorem modLgo_modLgo_eq (s : State) (i : Nat) (f g : LgoSt → LgoSt) :
    (s.modLgo i f).modLgo i g = s.putOuts ((s.modLgo i f).modLgo i g).lgo.outs := rfl

/-- The settings of an update tick, outside mode 0, change the records of the outputs alone. -/
theorem lgoSettings_on (hon : s.nat .lgo i 1 ≠ 0) (u : Nat) : ∃ x, lgoSettings s i u = s.putOuts x := by
  unfold lgoSettings
  rw [if_neg hon]
  exact ⟨_, modLgo_modLgo_eq s i _ _⟩

/-- In mode 0 they clear the setting in use too. -/
theorem lgoSettings_off (hoff : s.nat .lgo i 1 = 0) (u : Nat) : ∃ x, lgoSettings s i u = (s.putOuts x).setNum .lgo i 12 0 := by
  unfold lgoSettings
  rw [if_pos hoff, modLgo_modLgo_eq]
  exact ⟨_, rfl⟩

/-- What the settings of an update tick leave of an output that goes on in its mode. -/
structure LgoSettled (k k' : LgoSt) (u : Nat) : Prop where
  mode : k'.mode = k.mode
  fault : k'.fault = k.fault
  asked : k'.asked = k.asked
  stale : k'.stale = k.stale
  request : k'.request = k.request
  usedRec : k'.usedRec = k.usedRec
  looked : k'.looked = some u

theorem lgoSettings_settled (hmode : (s.lgoOut i).mode = s.nat .lgo i 1) (u : Nat) :
    LgoSettled (s.lgoOut i) ((lgoSettings s i u).lgoOut i) u := by
  have key (x : State) : (if s.nat .lgo i 1 = 0 then x.setNum .lgo i 12 0 else x).lgoOut i = x.lgoOut i := by
    split <;> rfl
  unfold lgoSettings
  rw [key, State.modLgo_same, State.modLgo_same, if_pos hmode]
  exact ⟨rfl, rfl, rfl, rfl, rfl, rfl, rfl⟩

/-- What an update tick finds to take depends on the output by its last record alone. -/
theorem lgoFind_congr (s : State) (x : Sparse LgoSt) {k k' : LgoSt} (h : k'.usedRec = k.usedRec) (ch u : Nat) :
    lgoFind (s.putOuts x) k' ch u = lgoFind s k ch u := by
  have hrecord : lgoRecordValue (s.putOuts x) k' ch u = lgoRecordValue s k ch u := by
    unfold lgoRecordValue
    rw [h]
    rfl
  unfold lgoFind
  rw [hrecord]
  rfl

theorem lgoChan_putOuts (s : State) (x : Sparse LgoSt) (i : Nat) : lgoChan (s.putOuts x) i = lgoChan s i := rfl

theorem lgoChan_lt {ch : Nat} (h : lgoChan s i = some ch) : ch < Obj.size .chLegacy := by
  have hch := List.mem_of_find?_eq_some h
  exact Nat.lt_of_lt_of_le (List.mem_range.mp hch) (channels_le s.variant)

/-! A new value. -/

/-- A new setting leaves the mode, the fault and the value of the channel. -/
theorem lgoApply_keeps (s : State) (i u x : Nat) : ((lgoApply s i u x).lgoOut i).mode = (s.lgoOut i).mode ∧
    ((lgoApply s i u x).lgoOut i).fault = (s.lgoOut i).fault := by
  unfold lgoApply
  split
  · rw [setNum_lgoOut, State.modLgo_same]
    exact ⟨rfl, rfl⟩
  · rw [setNum_lgoOut, State.modLgo_same]
    exact ⟨rfl, rfl⟩

theorem lgoApply_num (s : State) (i u x : Nat) {o : Obj} {w sub : Nat} (h : entryKey o w sub ≠ entryKey .lgo i 12) :
    (lgoApply s i u x).num o w sub = s.num o w sub := by
  unfold lgoApply
  split
  · exact num_setNum_ne _ h _
  · exact num_setNum_ne _ h _

theorem lgoTake_shows (s : State) (i ch u : Nat) (v : Int) (r : Option Nat) :
    (lgoTake s i ch u v r).num .chLegacy ch 9 = (entryTy .chLegacy ch 9).narrow v ∧
      ((lgoTake s i ch u v r).lgoOut i).lastTaken = u ∧ ((lgoTake s i ch u v r).lgoOut i).mode = (s.lgoOut i).mode ∧
      ((lgoTake s i ch u v r).lgoOut i).fault = (s.lgoOut i).fault := by
  unfold lgoTake
  extract_lets x setting shown
  have hkeeps : (shown.lgoOut i).mode = (s.lgoOut i).mode ∧ (shown.lgoOut i).fault = (s.lgoOut i).fault := lgoApply_keeps s i u setting
  refine ⟨num_setNum_same .., ?_⟩
  rw [State.modLgo_same]
  exact ⟨rfl, hkeeps⟩

/-- The state that an output shows (object 0x1B40 + i:0B). -/
theorem lgoShow_state (s : State) (i : Nat) :
    (lgoShow s i).num .lgo i 11 = if (s.lgoOut i).fault then 2 else if (s.lgoOut i).mode = 0 then 0 else 1 := by
  unfold lgoShow
  rw [num_setNum_same]
  split
  · rfl
  · split <;> rfl

theorem lgoShow_num (s : State) (i : Nat) {o : Obj} {w sub : Nat} (h : entryKey o w sub ≠ entryKey .lgo i 11) :
    (lgoShow s i).num o w sub = s.num o w sub := num_setNum_ne _ h _

/-! The update tick. -/

@[simp] theorem lgoChan_modLgo (s : State) (i j : Nat) (f : LgoSt → LgoSt) : lgoChan (s.modLgo i f) j = lgoChan s j := rfl

/-- What an update tick sees of an output that is not in fault. -/
structure LgoTick (s : State) (i u : Nat) : Prop where
  output : i < 16
  phase : s.nat .startup 0 3 = 6
  tick : u = s.now / (s.lgoOut i).period * (s.lgoOut i).period
  unseen : (s.lgoOut i).looked ≠ some u
  mode : (s.lgoOut i).mode = s.nat .lgo i 1
  fault : (s.lgoOut i).fault = false

/-- An output that runs takes the value that is found, with its flags cleared (R579). -/
def lgoTakes (s : State) (i ch u : Nat) (v : Int) (r : Option Nat) : State :=
  lgoShow (lgoTake ((lgoSettings s i u).modLgo i (fun k =>
    { k with asked := k.asked && !false, release := false, stale := false && !false && !k.release })) i ch u v r) i

theorem exec_lgoUpdateTick_takes {ch : Nat} {v : Int} {r : Option Nat} (h : LgoTick s i u) (hon : (s.lgoOut i).mode ≠ 0)
    (hasked : (s.lgoOut i).asked = false) (hstale : (s.lgoOut i).stale = false) (hch : lgoChan s i = some ch)
    (hfind : lgoFind s (s.lgoOut i) ch u = .value v r) : exec (.lgoUpdateTick i) s = .next (lgoTakes s i ch u v r) := by
  obtain ⟨hi, hphase, hu, hnew, hmode, hfault⟩ := h
  obtain ⟨hm, hf, ha, hs, hr, hrec, -⟩ := lgoSettings_settled hmode u
  obtain ⟨x, hx⟩ := lgoSettings_on (hmode ▸ hon) u
  have hchan : lgoChan (lgoSettings s i u) i = some ch := by rw [hx, lgoChan_putOuts, hch]
  have hfound : lgoFind (lgoSettings s i u) ((lgoSettings s i u).lgoOut i) ch u = .value v r := by
    rw [← hfind, ← lgoFind_congr s x hrec ch u, hx]
  show execLgoUpdateTick i s = _
  unfold execLgoUpdateTick lgoTakes
  rw [← hu, if_neg (by simp [hphase, hnew]; omega)]
  generalize lgoSettings s i u = a at *
  simp only [hf, ha, hs, hfault, hasked, hstale, hchan, hfound, hm, hon, lgoChan_modLgo, State.modLgo_same, Bool.false_and,
    Bool.and_false, Bool.or_false, Bool.false_eq_true, if_false]

/-- An output with a request that is due enters the fault state (R581). -/
def lgoFaults (s : State) (i u : Nat) : State :=
  lgoShow (lgoFaultWave (lgoFaultIn ((lgoSettings s i u).modLgo i (fun k =>
    { k with asked := k.asked && !true, release := false, stale := (s.lgoOut i).stale && !false && !k.release })) i u) i u) i

theorem lgoFaultIn_fault (s : State) (i u : Nat) : ((lgoFaultIn s i u).lgoOut i).fault = true := by
  unfold lgoFaultIn
  rw [State.lgoOut, raiseAt_lgo]
  show (((s.modLgo i fun k => { k with fault := true, held := false }).lgoOut i)).fault = true
  rw [State.modLgo_same]

theorem exec_lgoUpdateTick_faults (h : LgoTick s i u) (hon : (s.lgoOut i).mode ≠ 0) (hasked : (s.lgoOut i).asked = true)
    (hdue : (s.lgoOut i).request.getD 0 ≤ u) : exec (.lgoUpdateTick i) s = .next (lgoFaults s i u) := by
  obtain ⟨hi, hphase, hu, hnew, hmode, hfault⟩ := h
  obtain ⟨hm, hf, ha, hs, hr, -, -⟩ := lgoSettings_settled hmode u
  show execLgoUpdateTick i s = _
  unfold execLgoUpdateTick lgoFaults
  rw [← hu, if_neg (by simp [hphase, hnew]; omega)]
  generalize lgoSettings s i u = a at *
  simp only [hf, ha, hs, hr, hfault, hasked, hm, hon, bne_iff_ne, ne_eq, not_false_eq_true, decide_eq_true hdue, Bool.false_and,
    Bool.and_true, Bool.true_and, Bool.true_or, Bool.not_false, Bool.false_eq_true, if_false, if_true, lgoFaultIn_fault]

theorem lgoFaults_shows (hmode : (s.lgoOut i).mode = s.nat .lgo i 1) (hon : (s.lgoOut i).mode ≠ 0) (u : Nat) :
    ((lgoFaults s i u).lgoOut i).fault = true ∧ Counted s (lgoFaults s i u) .lgo i 13 1 ∧ (lgoFaults s i u).num .lgo i 11 = 2 := by
  obtain ⟨x, hx⟩ := lgoSettings_on (hmode ▸ hon) u
  have hwave (r : State) : ((lgoFaultWave r i u).lgoOut i).fault = (r.lgoOut i).fault ∧
      (lgoFaultWave r i u).num .lgo i 13 = r.num .lgo i 13 := by
    unfold lgoFaultWave
    split
    · exact ⟨(lgoApply_keeps r i u _).2, lgoApply_num r i u _ (entryKey_sub_ne _ _ (by decide))⟩
    · exact ⟨rfl, rfl⟩
  unfold lgoFaults
  rw [hx]
  obtain ⟨hfault, hnum⟩ := hwave (lgoFaultIn ((s.putOuts x).modLgo i (fun k =>
    { k with asked := k.asked && !true, release := false, stale := (s.lgoOut i).stale && !false && !k.release })) i u)
  rw [lgoFaultIn_fault] at hfault
  refine ⟨hfault, ?_, ?_⟩
  · rw [Counted, lgoShow_num _ _ (entryKey_sub_ne _ _ (by decide)), hnum]
    unfold lgoFaultIn
    rw [raiseAt_num_sub _ _ _ _ _ (by decide) (by decide), num_bump_same]
    rfl
  · rw [lgoShow_state, hfault]
    rfl

/-- An output in mode 0 shows that it is off (R578). -/
def lgoRests (s : State) (i u : Nat) : State :=
  lgoShow ((lgoSettings s i u).modLgo i (fun k =>
    { k with asked := k.asked && !((s.lgoOut i).asked && decide ((s.lgoOut i).request.getD 0 ≤ u)), release := false,
             stale := (s.lgoOut i).stale && !false && !false && !k.release })) i

theorem exec_lgoUpdateTick_rests (h : LgoTick s i u) (hoff : (s.lgoOut i).mode = 0) :
    exec (.lgoUpdateTick i) s = .next (lgoRests s i u) := by
  obtain ⟨hi, hphase, hu, hnew, hmode, hfault⟩ := h
  obtain ⟨hm, hf, ha, hs, hr, -, -⟩ := lgoSettings_settled hmode u
  show execLgoUpdateTick i s = _
  unfold execLgoUpdateTick lgoRests
  rw [← hu, if_neg (by simp [hphase, hnew]; omega)]
  generalize lgoSettings s i u = a at *
  simp only [hf, ha, hs, hr, hfault, hm, hoff, bne_self_eq_false, State.modLgo_same, Bool.false_and, Bool.and_false,
    Bool.false_eq_true, if_false, if_true]

theorem lgoRests_shows (hmode : (s.lgoOut i).mode = s.nat .lgo i 1) (hoff : (s.lgoOut i).mode = 0) (hfault : (s.lgoOut i).fault = false)
    (u : Nat) : (lgoRests s i u).num .lgo i 11 = 0 ∧ (lgoRests s i u).num .lgo i 12 = 0 ∧
      ((lgoRests s i u).lgoOut i).looked = some u ∧ (lgoRests s i u).queues = s.queues := by
  obtain ⟨hm, hf, -, -, -, -, hl⟩ := lgoSettings_settled hmode u
  obtain ⟨x, hx⟩ := lgoSettings_off (hmode ▸ hoff) u
  have hshown : (lgoSettings s i u).num .lgo i 12 = 0 := by
    rw [hx]
    exact (num_setNum_same ..).trans rfl
  have hqueues : (lgoSettings s i u).queues = s.queues := by
    rw [hx]
    rfl
  unfold lgoRests
  generalize lgoSettings s i u = a at *
  refine ⟨?_, ?_, ?_, hqueues⟩
  · rw [lgoShow_state, State.modLgo_same, hf, hfault, hm, hoff]
    rfl
  · rw [lgoShow_num _ _ (entryKey_sub_ne _ _ (by decide))]
    exact hshown
  · rw [lgoShow, setNum_lgoOut, State.modLgo_same]
    exact hl

theorem lgoTakes_shows {ch : Nat} (hi : i < 16) (hch : lgoChan s i = some ch) (hmode : (s.lgoOut i).mode = s.nat .lgo i 1)
    (hon : (s.lgoOut i).mode ≠ 0) (hfault : (s.lgoOut i).fault = false) (u : Nat) (v : Int) (r : Option Nat) :
    (lgoTakes s i ch u v r).num .chLegacy ch 9 = (entryTy .chLegacy ch 9).narrow v ∧
      ((lgoTakes s i ch u v r).lgoOut i).lastTaken = u ∧ (lgoTakes s i ch u v r).num .lgo i 11 = 1 := by
  obtain ⟨hm, hf, -, -, -, -, -⟩ := lgoSettings_settled hmode u
  unfold lgoTakes
  generalize lgoSettings s i u = a at *
  obtain ⟨hvalue, htaken, hmode', hfault'⟩ := lgoTake_shows (a.modLgo i (fun k =>
    { k with asked := k.asked && !false, release := false, stale := false && !false && !k.release })) i ch u v r
  rw [State.modLgo_same] at hmode' hfault'
  refine ⟨?_, htaken, ?_⟩
  · rw [lgoShow_num _ _ (entryKey_obj_ne (by decide) (lgoChan_lt hch) hi (by decide) (by decide)), hvalue]
  · rw [lgoShow_state, hfault', hmode']
    simp only [hf, hfault, hm, hon, Bool.false_eq_true, if_false]

/-! The release command (R578, R581). -/

theorem release_accepted (hs : s.serves ses) (hi : i < 16) :
    Accepted s ses .lgo i 10 ⟨10, 10, "Release command", .u8, .wo, false, .calc, .rng 1 1⟩ [1] 1 :=
  ⟨hs, hi, has_of_present hi rfl, ⟨rfl, by decide⟩, ⟨rfl, rfl⟩, rfl, rfl, rfl⟩

/-- Settles O45: at an update tick an output's mode, flags and source decide whether it takes a value, faults or rests; the other
commands only note a flag. -/
theorem legacyOutputsTakeValuesAndFault : Obligations.LegacyOutputsTakeValuesAndFault := by
  unfold Obligations.LegacyOutputsTakeValuesAndFault
  refine ⟨?takes, ?faults, ?rests, ?stale, ?held, ?release⟩
  case takes =>
    intro s i u ch v r hi hphase hu hnew hmode hfault hon hasked hstale hch hfind
    exact ⟨_, exec_lgoUpdateTick_takes ⟨hi, hphase, hu, hnew, hmode, hfault⟩ hon hasked hstale hch hfind,
      lgoTakes_shows hi hch hmode hon hfault u v r⟩
  case faults =>
    intro s i u hi hphase hu hnew hmode hfault hon hasked hdue
    exact ⟨_, exec_lgoUpdateTick_faults ⟨hi, hphase, hu, hnew, hmode, hfault⟩ hon hasked hdue, lgoFaults_shows hmode hon u⟩
  case rests =>
    intro s i u hi hphase hu hnew hmode hfault hoff
    exact ⟨_, exec_lgoUpdateTick_rests ⟨hi, hphase, hu, hnew, hmode, hfault⟩ hoff, lgoRests_shows hmode hoff hfault u⟩
  case stale =>
    intro s i hi hon hlimit hdue
    exact ⟨_, if_pos ⟨hi, hon, hlimit, hdue⟩, by rw [State.modLgo_same], rfl⟩
  case held =>
    intro s i hi hfault hhold hdue
    exact ⟨_, if_pos ⟨hi, hfault, hhold, hdue⟩, by rw [State.modLgo_same], rfl⟩
  case release =>
    intro s ses i hs hreset hi
    have hserved := (release_accepted hs hi).volatile (t := lgoRelease s i) rfl rfl hreset
    refine ⟨_, congrArg Host.Outcome.next hserved, rfl, ?_, rfl⟩
    show ((lgoRelease s i).lgoOut i).release = true
    rw [lgoRelease, State.modLgo_same]

end Sys2Proof.Machine
end

section
/-! PROOFS. The commands that only send frames: a port takes a frame or counts it as dropped, and nothing else of the hub changes but
the sender's own record. The manager's bridge (R503) sends in the same way. -/

namespace Sys2Proof.Machine

open Sys2Proof

variable {s t v : State}

/-! What sending leaves of the hub. -/

/-- The entries that a frame which finds no room may write. -/
abbrev DropKey (k : Nat) : Prop := ∃ p < 3, k = entryKey .link p 9

/-- `t` is `s` but for its ports and the counts of frames that found no room. -/
structure PortFrame (s t : State) : Prop where
  rest : { t with net := { t.net with ports := s.net.ports }, regs := s.regs } = s
  regs : KeepsRegs DropKey s t

namespace PortFrame

theorem refl (s : State) : PortFrame s s := ⟨rfl, .refl _ s⟩

theorem trans (h : PortFrame s t) (g : PortFrame t v) : PortFrame s v := by
  obtain ⟨hrest, hregs⟩ := h
  obtain ⟨grest, gregs⟩ := g
  refine ⟨?_, hregs.trans gregs⟩
  rw [← hrest, ← grest]

theorem net (h : PortFrame s t) : { t.net with ports := s.net.ports } = s.net := (congrArg State.net h.rest :)
theorem inbox (h : PortFrame s t) : t.net.inbox = s.net.inbox := (congrArg NetSt.inbox h.net :)
theorem bridged (h : PortFrame s t) : t.net.bridged = s.net.bridged := (congrArg NetSt.bridged h.net :)
theorem lateAnswers (h : PortFrame s t) : t.net.lateAnswers = s.net.lateAnswers := (congrArg NetSt.lateAnswers h.net :)
theorem helloSeq (h : PortFrame s t) : t.net.helloSeq = s.net.helloSeq := (congrArg NetSt.helloSeq h.net :)
theorem clk (h : PortFrame s t) : t.clk = s.clk := (congrArg State.clk h.rest :)
theorem strm (h : PortFrame s t) : t.strm = s.strm := (congrArg State.strm h.rest :)
theorem now (h : PortFrame s t) : t.now = s.now := (congrArg State.now h.rest :)

/-- An entry that no frame writes stands as before. -/
theorem num (h : PortFrame s t) {o : Obj} {u sub : Nat} (hu : u < o.size) (hsub : sub < 256) (hne : o ≠ .link ∨ sub ≠ 9) :
    t.num o u sub = s.num o u sub := by
  refine h.regs.num (congrArg State.variant h.rest :) (congrArg State.fac h.rest :) o u sub ?_
  rintro ⟨p, hp, hkey⟩
  obtain ⟨hobj, -, hs⟩ := entryKey_inj hu (show p < Obj.size .link from hp) hsub (by decide) hkey
  exact hne.elim (· hobj) (· hs)

end PortFrame

theorem enqueue_frame (s : State) (p : Nat) (o : OutFrame) : PortFrame s (enqueue s p o) := by
  unfold enqueue
  split
  · exact .refl s
  · next hhas =>
    have hp : p < 3 := by
      have hboth : s.has .link p = true := by simp at hhas; exact hhas.1
      exact of_decide_eq_true (Bool.and_eq_true_iff.mp hboth).1
    dsimp only
    split
    · exact ⟨rfl, .bump s 1 ⟨p, hp, rfl⟩⟩
    · exact ⟨rfl, .of_eq rfl⟩

theorem sendOwn_frame (s : State) (p dst len : Nat) (c : Content) : PortFrame s (sendOwn s p dst len c) := enqueue_frame s p _
theorem sendKmp_frame (s : State) (p dst : Nat) (m : Kmp) : PortFrame s (sendKmp s p dst m) := enqueue_frame s p _
theorem sendPtp_frame (s : State) (p : Nat) (rx : Int) (m : PtpMsg) : PortFrame s (sendPtp s p rx m) := enqueue_frame s p _

theorem reply_frame (s : State) (rx : Rx) (m : Kmp) : PortFrame s (reply s rx m) := by
  unfold reply
  split
  · exact enqueue_frame s _ _
  · exact sendKmp_frame s _ _ _

theorem sendWorker_frame (s : State) (ident : Nat) (b : Bytes) : PortFrame s (sendWorker s ident b) := by
  unfold sendWorker
  split
  · exact sendOwn_frame s _ _ _ _
  · exact .refl s

/-! The same with the record of the sender. -/

/-- The entries that O58 lets a sending command write. -/
abbrev LinkKey (k : Nat) : Prop := ∃ p, k = entryKey .link p 9

/-- `t` is `s` but for its network record and the counts of frames that found no room. -/
structure NetFrame (s t : State) : Prop where
  rest : { t with net := s.net, regs := s.regs } = s
  regs : KeepsRegs LinkKey s t

/-- `t` is `s` but for its network record, its clock and those counts. -/
structure ClkFrame (s t : State) : Prop where
  rest : { t with net := s.net, clk := s.clk, regs := s.regs } = s
  regs : KeepsRegs LinkKey s t

/-- `t` is `s` but for its network record, its streams and those counts. -/
structure StrmFrame (s t : State) : Prop where
  rest : { t with net := s.net, strm := s.strm, regs := s.regs } = s
  regs : KeepsRegs LinkKey s t

theorem PortFrame.keeps (h : PortFrame s t) : KeepsRegs LinkKey s t := h.regs.mono fun _ ⟨p, _, hk⟩ => ⟨p, hk⟩

theorem PortFrame.toNet (h : PortFrame s t) : NetFrame s t :=
  ⟨(congrArg (fun x => { x with net := s.net }) h.rest :), h.keeps⟩

namespace NetFrame

theorem refl (s : State) : NetFrame s s := ⟨rfl, .refl _ s⟩

theorem trans (h : NetFrame s t) (g : NetFrame t v) : NetFrame s v := by
  obtain ⟨hrest, hregs⟩ := h
  obtain ⟨grest, gregs⟩ := g
  refine ⟨?_, hregs.trans gregs⟩
  rw [← hrest, ← grest]

theorem modNet (s : State) (f : NetSt → NetSt) : NetFrame s (s.modNet f) := ⟨rfl, .of_eq rfl⟩

theorem toClk (h : NetFrame s t) : ClkFrame s t := ⟨(congrArg (fun x => { x with clk := s.clk }) h.rest :), h.regs⟩
theorem toStrm (h : NetFrame s t) : StrmFrame s t := ⟨(congrArg (fun x => { x with strm := s.strm }) h.rest :), h.regs⟩

end NetFrame

theorem ClkFrame.trans (h : ClkFrame s t) (g : ClkFrame t v) : ClkFrame s v := by
  obtain ⟨hrest, hregs⟩ := h
  obtain ⟨grest, gregs⟩ := g
  refine ⟨?_, hregs.trans gregs⟩
  rw [← hrest, ← grest]

theorem ClkFrame.modClk (s : State) (f : ClkSt → ClkSt) : ClkFrame s (s.modClk f) := ⟨rfl, .of_eq rfl⟩

theorem StrmFrame.trans (h : StrmFrame s t) (g : StrmFrame t v) : StrmFrame s v := by
  obtain ⟨hrest, hregs⟩ := h
  obtain ⟨grest, gregs⟩ := g
  refine ⟨?_, hregs.trans gregs⟩
  rw [← hrest, ← grest]

theorem StrmFrame.modStrm (s : State) (f : StrmSt → StrmSt) : StrmFrame s (s.modStrm f) := ⟨rfl, .of_eq rfl⟩

/-! The sending commands. -/

theorem helloSend_frame (s : State) : ∃ t, exec .helloSend s = .next t ∧ NetFrame s t := by
  have hone (x : State) (p : Nat) :
      NetFrame x (if portReady x p then sendKmp x p zoneGroup (ownMessage x 0x10 (helloBody x p 0)) else x) := by
    split
    · exact (sendKmp_frame x p _ _).toNet
    · exact .refl x
  show ∃ t, execHelloSend s = .next t ∧ _
  unfold execHelloSend
  extract_lets due
  split
  · exact ⟨_, rfl, ((hone s 0).trans (hone _ 1)).trans (.modNet _ _)⟩
  · exact ⟨s, rfl, .refl s⟩

theorem joinSend_frame (s : State) : ∃ t, exec .joinSend s = .next t ∧ NetFrame s t := by
  show ∃ t, execJoinSend s = .next t ∧ _
  unfold execJoinSend
  extract_lets due
  split
  · exact ⟨_, rfl, (sendKmp_frame s _ _ _).toNet.trans (.modNet _ _)⟩
  · exact ⟨s, rfl, .refl s⟩

theorem linkCheckSend_frame (s : State) : ∃ t, exec .linkCheckSend s = .next t ∧ NetFrame s t := by
  show ∃ t, execLinkCheckSend s = .next t ∧ _
  unfold execLinkCheckSend
  refine iteInduction (motive := fun x => ∃ t, x = Host.Outcome.next t ∧ NetFrame s t) (fun _ => ?_) fun _ => ⟨s, rfl, .refl s⟩
  exact ⟨_, rfl, ((sendKmp_frame s 0 _ _).trans (sendKmp_frame _ 1 _ _)).toNet.trans (.modNet _ _)⟩

theorem arpRequest_frame (s : State) : ∃ t, exec .arpRequest s = .next t ∧ NetFrame s t := by
  show ∃ t, execArpRequest s = .next t ∧ _
  unfold execArpRequest
  split
  · dsimp only
    split
    · exact ⟨_, rfl, (NetFrame.modNet s _).trans (sendOwn_frame _ _ _ _ _).toNet⟩
    · exact ⟨_, rfl, .modNet s _⟩
  · exact ⟨s, rfl, .refl s⟩

theorem icmpEcho_frame (s : State) : ∃ t, exec .icmpEcho s = .next t ∧ NetFrame s t := by
  show ∃ t, execIcmpEcho s = .next t ∧ _
  unfold execIcmpEcho
  split
  · dsimp only
    split
    · exact ⟨_, rfl, (NetFrame.modNet s _).trans (sendOwn_frame _ _ _ _ _).toNet⟩
    · exact ⟨_, rfl, .modNet s _⟩
  · exact ⟨s, rfl, .refl s⟩

theorem bridgeAnswer_frame (s : State) : ∃ t, exec .bridgeAnswer s = .next t ∧ NetFrame s t := by
  show ∃ t, execBridgeAnswer s = .next t ∧ _
  unfold execBridgeAnswer
  split
  · dsimp only
    split
    · exact ⟨_, rfl, ((NetFrame.modNet s _).trans (.modNet _ _)).trans (reply_frame _ _ _).toNet⟩
    · exact ⟨_, rfl, (NetFrame.modNet s _).trans (.modNet _ _)⟩
  · exact ⟨s, rfl, .refl s⟩

theorem delayReqSend_frame (s : State) : ∃ t, exec .delayReqSend s = .next t ∧ ClkFrame s t := by
  show ∃ t, execDelayReqSend s = .next t ∧ _
  unfold execDelayReqSend
  dsimp only
  split
  · exact ⟨_, rfl, (ClkFrame.modClk s _).trans (sendPtp_frame _ _ _ _).toNet.toClk⟩
  · exact ⟨s, rfl, (NetFrame.refl s).toClk⟩

/-- A message of the grandmaster goes out on the ports A and B whose PTP is enabled (R200). -/
theorem sendBoth_frame (s : State) (m : PtpMsg) : NetFrame s
    ((fun s (p : Nat) => if s.nat .ptpPort p 1 = 1 then sendPtp s p 0 m else s)
      ((fun s (p : Nat) => if s.nat .ptpPort p 1 = 1 then sendPtp s p 0 m else s) s 0) 1) := by
  have hone (x : State) (p : Nat) : NetFrame x (if x.nat .ptpPort p 1 = 1 then sendPtp x p 0 m else x) := by
    split
    · exact (sendPtp_frame x p _ _).toNet
    · exact .refl x
  exact (hone s 0).trans (hone _ 1)

theorem grandmasterSyncSend_frame (s : State) : ∃ t, exec .grandmasterSyncSend s = .next t ∧ ClkFrame s t := by
  show ∃ t, execGrandmasterSyncSend s = .next t ∧ _
  unfold execGrandmasterSyncSend
  refine iteInduction (motive := fun x => ∃ t, x = Host.Outcome.next t ∧ ClkFrame s t) (fun _ => ?_) fun _ => ⟨s, rfl, (NetFrame.refl s).toClk⟩
  extract_lets both n k synced a
  have hsynced : ClkFrame s synced := by
    unfold synced
    split
    · exact (sendBoth_frame s _).toClk.trans (.modClk _ _)
    · exact (NetFrame.refl s).toClk
  refine ⟨_, rfl, ?_⟩
  clear_value synced
  split
  · exact hsynced.trans ((sendBoth_frame synced _).toClk.trans (.modClk _ _))
  · exact hsynced

theorem sendAck_frame (s : State) (k : AckSt) : StrmFrame s (sendAck s k) := by
  unfold sendAck
  exact (sendWorker_frame s _ _).toNet.toStrm.trans (.modStrm _ _)

theorem ackInterval_frame (s : State) : ∃ t, exec .ackInterval s = .next t ∧ StrmFrame s t := by
  show ∃ t, execAckInterval s = .next t ∧ _
  unfold execAckInterval
  dsimp only
  split
  · exact ⟨s, rfl, (NetFrame.refl s).toStrm⟩
  · refine ⟨_, rfl, List.foldlRecOn (motive := StrmFrame s) _ _ (StrmFrame.modStrm s _) fun t ht k _ => ?_⟩
    split
    · exact ht
    · exact ht.trans (sendAck_frame t k)

theorem keepaliveAck_frame (s : State) : ∃ t, exec .keepaliveAck s = .next t ∧ StrmFrame s t := by
  show ∃ t, execKeepaliveAck s = .next t ∧ _
  unfold execKeepaliveAck
  split
  · exact ⟨s, rfl, (NetFrame.refl s).toStrm⟩
  · refine ⟨_, rfl, List.foldlRecOn (motive := StrmFrame s) _ _ (NetFrame.refl s).toStrm fun t ht k _ => ?_⟩
    exact iteInduction (motive := fun x => StrmFrame s x) (fun _ => ht.trans (sendAck_frame t k)) fun _ => ht

/-- Settles O58: each command sends through one port operation, and records what it sent. -/
theorem sendingCommandsLeaveTheOtherUnits : Obligations.SendingCommandsLeaveTheOtherUnits := by
  unfold Obligations.SendingCommandsLeaveTheOtherUnits
  have hnet {i : Instr} (h : ∀ s, ∃ t, exec i s = .next t ∧ NetFrame s t) (s : State) :
      ∃ t, exec i s = .next t ∧ { t with net := s.net, regs := s.regs } = s ∧ KeepsRegs LinkKey s t :=
    have ⟨t, hstep, hframe⟩ := h s
    ⟨t, hstep, hframe.rest, hframe.regs⟩
  have hclk {i : Instr} (h : ∀ s, ∃ t, exec i s = .next t ∧ ClkFrame s t) (s : State) :
      ∃ t, exec i s = .next t ∧ { t with net := s.net, clk := s.clk, regs := s.regs } = s ∧ KeepsRegs LinkKey s t :=
    have ⟨t, hstep, hframe⟩ := h s
    ⟨t, hstep, hframe.rest, hframe.regs⟩
  have hstrm {i : Instr} (h : ∀ s, ∃ t, exec i s = .next t ∧ StrmFrame s t) (s : State) :
      ∃ t, exec i s = .next t ∧ { t with net := s.net, strm := s.strm, regs := s.regs } = s ∧ KeepsRegs LinkKey s t :=
    have ⟨t, hstep, hframe⟩ := h s
    ⟨t, hstep, hframe.rest, hframe.regs⟩
  exact ⟨hnet helloSend_frame, hnet joinSend_frame, hnet linkCheckSend_frame, hnet arpRequest_frame, hnet icmpEcho_frame,
    hnet bridgeAnswer_frame, hclk delayReqSend_frame, hclk grandmasterSyncSend_frame, hstrm ackInterval_frame,
    hstrm keepaliveAck_frame⟩

/-! The manager's bridge (R503). -/

/-- A request from port C for another hub waits at the bridge. -/
abbrev BridgeIn (s : State) (i : Nat) (rx : Rx) (m : Kmp) : Prop :=
  (inboxMsgs s).find? (fun (_, r, m) => !(bit m.flags 0) && forBridge s r.port m && !servesLocal s r m) = some (i, rx, m)

theorem exec_bridgeForward {i : Nat} {rx : Rx} {m : Kmp} (h : BridgeIn s i rx m) :
    exec .bridgeForward s = .next (bridgeRequest (dropInbox s i) rx m) := by
  show execBridgeForward s = _
  unfold execBridgeForward
  rw [h]

/-- The hub with a bridged request noted and counted (R503). -/
def bridging (s : State) (b : Bridged) : State := (s.modNet (fun n => { n with bridged := [b] })).bump .bridge 0 5 1

theorem bridgeRequest_forwards {rx : Rx} {m : Kmp} {j : JoinRec} (hident : m.ident ≠ allHubs) (hses : m.ses ≠ 0)
    (hnone : s.net.bridged = []) (hlisted : (listedWorkers s).any (fun p => s.nat .workers 0 p == m.ident) = true)
    (hjoin : (freshJoins s).find? (fun j => j.ident == m.ident) = some j) :
    bridgeRequest s rx m = sendKmp (bridging s ⟨rx.frame, m.ident, m.ses, m.tid, s.now⟩) j.port j.mac { m with flags := setBit m.flags 1 } := by
  unfold bridgeRequest
  simp only [hident, hses, hnone, hlisted, hjoin, if_true, if_false, false_and, List.filter_nil, List.length_nil, List.nil_append,
    show (256 : Nat) ≤ 0 ↔ False from by decide]
  rfl

theorem bridgeRequest_unreachable {rx : Rx} {m : Kmp} (hident : m.ident ≠ allHubs)
    (hjoin : (freshJoins s).find? (fun j => j.ident == m.ident) = none) : bridgeRequest s rx m =
      reply (s.bump .bridge 0 7 1) rx (answerTo (s.bump .bridge 0 7 1) m m.ses .unreachable []) := by
  unfold bridgeRequest
  simp only [hident, hjoin, if_false, ite_self]

/-- An answer of a worker waits at the bridge. -/
abbrev AnswerIn (s : State) (i : Nat) (rx : Rx) (m : Kmp) : Prop :=
  (inboxMsgs s).find? (fun (_, _, m) => bit m.flags 0 && bit m.flags 1) = some (i, rx, m)

/-- The bridged request that an answer names, if any. -/
abbrev bridgedFor (s : State) (m : Kmp) : Option Bridged :=
  s.net.bridged.find? (fun b => b.target == m.ident && b.tid == m.tid && (b.ses == m.ses || b.ses == 0))

theorem exec_bridgeAnswer_returns {i : Nat} {rx : Rx} {m : Kmp} {b : Bridged} (h : AnswerIn s i rx m) (hb : bridgedFor s m = some b) :
    exec .bridgeAnswer s = .next (reply ((dropInbox s i).modNet (fun n => { n with bridged := n.bridged.erase b }))
      ⟨2, s.now, b.client⟩ m) := by
  have hkept : bridgedFor (dropInbox s i) m = some b := hb
  show execBridgeAnswer s = _
  unfold execBridgeAnswer
  rw [h]
  dsimp only
  unfold bridgedFor at hkept
  rw [hkept]
  rfl

theorem exec_bridgeAnswer_late {i : Nat} {rx : Rx} {m : Kmp} (h : AnswerIn s i rx m) (hb : s.net.bridged = []) :
    exec .bridgeAnswer s = .next ((dropInbox s i).modNet (fun n => { n with lateAnswers := n.lateAnswers + 1 })) := by
  have hkept : (dropInbox s i).net.bridged = [] := hb
  show execBridgeAnswer s = _
  unfold execBridgeAnswer
  rw [h]
  dsimp only
  rw [hkept]
  rfl

/-- The hub once it has given up a bridged request, before it answers the client. -/
def givenUp (s : State) (b : Bridged) : State := (s.modNet (fun n => { n with bridged := n.bridged.erase b })).bump .bridge 0 6 1

theorem bridgeTimeout_sends {b : Bridged}
    (h : s.net.bridged.find? (fun b => decide (b.tick + msTicks (s.nat .bridge 0 4) ≤ s.now)) = some b) :
    ∃ t, exec .bridgeTimeout s = .next t ∧ PortFrame (givenUp s b) t := by
  show ∃ t, execBridgeTimeout s = .next t ∧ _
  unfold execBridgeTimeout
  rw [h]
  refine ⟨_, rfl, ?_⟩
  split
  · exact reply_frame _ _ _
  · exact .refl _

/-- Settles O43: the bridge takes the frame, changes its own list and counts, and what it sends changes only ports. -/
theorem theBridgeForwardsAnswersAndGivesUp : Obligations.TheBridgeForwardsAnswersAndGivesUp := by
  unfold Obligations.TheBridgeForwardsAnswersAndGivesUp
  refine ⟨?forwards, ?unreachable, ?returns, ?late, ?givesUp⟩
  case forwards =>
    intro s i rx m j h hident hses hnone hlisted hjoin
    have hsent := sendKmp_frame (bridging (dropInbox s i) ⟨rx.frame, m.ident, m.ses, m.tid, (dropInbox s i).now⟩) j.port j.mac
      { m with flags := setBit m.flags 1 }
    refine ⟨_, (exec_bridgeForward h).trans (congrArg _ (bridgeRequest_forwards hident hses hnone hlisted hjoin)), ?_,
      hsent.bridged, hsent.inbox⟩
    rw [Counted, hsent.num (by decide) (by decide) (.inl (by decide)), bridging, num_bump_same]
    rfl
  case unreachable =>
    intro s i rx m h hident hjoin
    have hsent := reply_frame ((dropInbox s i).bump .bridge 0 7 1) rx (answerTo ((dropInbox s i).bump .bridge 0 7 1) m m.ses
      .unreachable [])
    refine ⟨_, (exec_bridgeForward h).trans (congrArg _ (bridgeRequest_unreachable hident hjoin)), ?_, hsent.bridged, hsent.inbox⟩
    rw [Counted, hsent.num (by decide) (by decide) (.inl (by decide)), num_bump_same]
    rfl
  case returns =>
    intro s i rx m b h hb
    have hsent := reply_frame ((dropInbox s i).modNet (fun n => { n with bridged := n.bridged.erase b })) ⟨2, s.now, b.client⟩ m
    exact ⟨_, exec_bridgeAnswer_returns h hb, hsent.bridged, hsent.inbox, hsent.lateAnswers⟩
  case late =>
    intro s i rx m h hb
    exact ⟨_, exec_bridgeAnswer_late h hb, rfl, rfl, rfl⟩
  case givesUp =>
    intro s b h
    obtain ⟨t, hstep, hsent⟩ := bridgeTimeout_sends h
    refine ⟨t, hstep, hsent.bridged, ?_, hsent.inbox⟩
    rw [Counted, hsent.num (by decide) (by decide) (.inl (by decide)), givenUp, num_bump_same]
    rfl

end Sys2Proof.Machine
end

section
/-! PROOFS. The links of the ports and the ring (R473 to R487 of spec/15_ports_and_kmp.md). -/

namespace Sys2Proof.Machine

open Sys2Proof

variable {s t v : State} {ses port : Nat}

/-! What a change of the ring leaves of the hub. -/

/-- The entries that a change of the upstream port or of the ring's state may write. -/
def RingKey (k : Nat) : Prop :=
  (∃ sub, (sub = 1 ∨ sub = 2 ∨ sub = 11) ∧ k = entryKey .ring 0 sub) ∨ (∃ sub, (sub = 11 ∨ sub = 14) ∧ k = entryKey .localClock 0 sub) ∨
    k = entryKey .zone 0 4 ∨ k = entryKey .queue (162 + 27) 3

/-- `t` is a state of the same hub as `s` in which the ring may have changed: its ports and what waits at them stand as before. -/
structure RingFrame (s t : State) : Prop where
  entries : EntryFrame RingKey s t
  ports : t.net.ports = s.net.ports
  inbox : t.net.inbox = s.net.inbox
  mgrMac : t.net.mgrMac = s.net.mgrMac
  now : t.now = s.now

namespace RingFrame

theorem refl (s : State) : RingFrame s s := ⟨.refl _ s, rfl, rfl, rfl, rfl⟩

theorem trans (h : RingFrame s t) (g : RingFrame t v) : RingFrame s v :=
  ⟨h.entries.trans g.entries, g.ports.trans h.ports, g.inbox.trans h.inbox, g.mgrMac.trans h.mgrMac, g.now.trans h.now⟩

theorem setNum (s : State) {o : Obj} {u sub : Nat} (x : Int) (h : RingKey (entryKey o u sub)) : RingFrame s (s.setNum o u sub x) :=
  ⟨.setNum s x h, rfl, rfl, rfl, rfl⟩

theorem ring (s : State) {sub : Nat} (x : Int) (h : sub = 1 ∨ sub = 2 ∨ sub = 11) : RingFrame s (s.setNum .ring 0 sub x) :=
  setNum s x (.inl ⟨sub, h, rfl⟩)

theorem clock (s : State) {sub : Nat} (x : Int) (h : sub = 11 ∨ sub = 14) : RingFrame s (s.setNum .localClock 0 sub x) :=
  setNum s x (.inr (.inl ⟨sub, h, rfl⟩))

theorem modClk (s : State) (f : ClkSt → ClkSt) : RingFrame s (s.modClk f) := ⟨.of_eq rfl rfl rfl, rfl, rfl, rfl, rfl⟩

/-- An event of the network's island. -/
theorem raise (s : State) {src : Nat} (hsrc : src = 74 ∨ src = 75) (cause detail : Nat) : RingFrame s (raise s src cause detail) := by
  have hisland : islandOf s src detail = 27 := by rcases hsrc with rfl | rfl <;> rfl
  have hregs := raise_regs s src cause detail
  rw [hisland] at hregs
  exact ⟨⟨hregs.mono fun _ h => .inr (.inr (.inr h)), raise_variant .., raise_fac ..⟩, by rw [raise_net], by rw [raise_net],
    by rw [raise_net], raise_now ..⟩

/-- An entry of another object reads as before. -/
theorem num (h : RingFrame s t) {o : Obj} {u sub : Nat} (hring : o ≠ .ring) (hclock : o ≠ .localClock) (hzone : o ≠ .zone)
    (hqueue : o ≠ .queue) (hu : u < o.size) (hsub : sub < 256) : t.num o u sub = s.num o u sub := by
  refine h.entries.num ?_
  rintro (⟨a, ha, hk⟩ | ⟨a, ha, hk⟩ | hk | hk)
  · exact entryKey_obj_ne hring hu (by decide) hsub (by omega) hk
  · exact entryKey_obj_ne hclock hu (by decide) hsub (by omega) hk
  · exact entryKey_obj_ne hzone hu (by decide) hsub (by decide) hk
  · exact entryKey_obj_ne hqueue hu (by decide) hsub (by decide) hk

/-- So does an entry of the ring that no change of the ring writes. -/
theorem num_ring (h : RingFrame s t) {sub : Nat} (hsub : sub < 256) (hne : sub ≠ 1 ∧ sub ≠ 2 ∧ sub ≠ 11) :
    t.num .ring 0 sub = s.num .ring 0 sub := by
  refine h.entries.num ?_
  rintro (⟨a, ha, hk⟩ | ⟨a, ha, hk⟩ | hk | hk)
  · exact entryKey_sub_ne _ _ (by omega) hk
  · exact entryKey_obj_ne (by decide) (by decide) (by decide) hsub (by omega) hk
  · exact entryKey_obj_ne (by decide) (by decide) (by decide) hsub (by decide) hk
  · exact entryKey_obj_ne (by decide) (by decide) (by decide) hsub (by decide) hk

end RingFrame

theorem servoHold_frame (s : State) : RingFrame s (servoHold s) := by
  unfold servoHold
  split
  · exact (RingFrame.clock s 4 (.inr rfl)).trans (.modClk _ _)
  · exact .refl s

theorem clockUpstream_frame (s : State) (p : Nat) : RingFrame s (clockUpstream s p) := by
  unfold clockUpstream
  exact ((servoHold_frame s).trans (.clock _ _ (.inl rfl))).trans (.modClk _ _)

theorem setUpstream_frame (s : State) (up : Nat) : RingFrame s (setUpstream s up) := by
  unfold setUpstream
  extract_lets shown raised
  have hshown : RingFrame s shown := (RingFrame.ring s (up : Int) (.inr (.inl rfl))).trans (.ring _ _ (.inl rfl))
  have hraised : RingFrame s raised :=
    (hshown.trans (.ring _ (shown.num .ring 0 11 + 1) (.inr (.inr rfl)))).trans (.raise _ (.inr rfl) 1 up)
  refine RingFrame.trans (hraised.trans ?_) (clockUpstream_frame _ up)
  exact ⟨.of_eq rfl rfl rfl, rfl, rfl, rfl, rfl⟩

theorem revertWatch_frame (s : State) : RingFrame s (revertWatch s) := by
  unfold revertWatch
  dsimp only
  split
  · split
    · exact .refl s
    · exact ⟨.of_eq rfl rfl rfl, rfl, rfl, rfl, rfl⟩
  · exact ⟨.of_eq rfl rfl rfl, rfl, rfl, rfl, rfl⟩

theorem chooseUpstream_frame (s : State) : RingFrame s (chooseUpstream s) := by
  unfold chooseUpstream
  extract_lets a b up chosen
  have hchosen : RingFrame s chosen := by
    unfold chosen
    split
    · exact .refl s
    · split
      · split
        · exact .refl s
        · exact setUpstream_frame s _
      · split
        · exact setUpstream_frame s _
        · split
          · exact setUpstream_frame s _
          · exact .refl s
  exact hchosen.trans (revertWatch_frame _)

theorem ringRefresh_frame (s : State) : RingFrame s (ringRefresh s) := by
  unfold ringRefresh
  split
  · exact .refl s
  · extract_lets r shown opened
    split
    · exact .refl s
    · have hshown : RingFrame s shown := .ring s _ (.inl rfl)
      have hopened : RingFrame s opened := by
        unfold opened
        split
        · exact hshown
        · exact hshown.trans (.setNum _ _ (.inr (.inr (.inl rfl))))
      split
      · exact hopened.trans (.raise _ (.inr rfl) 2 0)
      · split
        · exact hopened.trans (.raise _ (.inr rfl) 3 0)
        · exact hopened

/-! A port that is no longer ready (R479, R483). -/

theorem dropEgress_num (s : State) (p : Nat) {o : Obj} {u sub : Nat} (h : entryKey o u sub ≠ entryKey .link p 9) :
    (dropEgress s p).num o u sub = s.num o u sub := num_bump_ne s h _

theorem unready_link (s : State) {p w sub : Nat} (hp : p < 3) (hw : w < 3) (hsub : sub < 256) (hne : sub ≠ 9) :
    (unready s p).num .link w sub = s.num .link w sub := by
  have hdrop : (dropEgress s p).num .link w sub = s.num .link w sub :=
    dropEgress_num s p fun hk => hne (entryKey_inj (show w < Obj.size .link from hw) (show p < Obj.size .link from hp) hsub (by decide) hk).2.2
  have hnum {a b : State} (h : RingFrame a b) : b.num .link w sub = a.num .link w sub :=
    h.num (by decide) (by decide) (by decide) (by decide) hw hsub
  unfold unready
  dsimp only
  split
  · split
    · rw [hnum (ringRefresh_frame _)]
      exact (hnum (.raise _ (.inl rfl) 2 p)).trans hdrop
    · rw [hnum (chooseUpstream_frame _), num_setNum_obj _ (by decide) (by decide) hw (by omega) hsub]
      exact (hnum (.raise _ (.inl rfl) 2 p)).trans hdrop
  · exact hdrop

/-- A worker's hop count of a ring port that is no longer ready is not valid (R481). -/
theorem unready_hop (hp : port ≤ 1) (hworker : s.isManager = false) : (unready s port).num .ring 0 (4 + port) = 255 := by
  have hnotManager : ((raise (dropEgress s port) 74 2 port).modPort port (fun q => { q with ownHelloAt := none, helloAt := none })).isManager =
      false := by
    rw [← hworker]
    refine congrArg (fun x : Int => x.toNat == 1) ?_
    exact ((RingFrame.raise _ (.inl rfl) 2 port).num (o := .role) (by decide) (by decide) (by decide) (by decide) (by decide) (by decide)).trans
      (dropEgress_num s port (entryKey_obj_ne (by decide) (by decide) (show port < Obj.size .link from Nat.lt_succ_of_le (Nat.le_succ_of_le hp))
        (by decide) (by decide)))
  unfold unready
  dsimp only
  rw [if_pos hp, hnotManager]
  simp only [Bool.false_eq_true, if_false]
  rw [(chooseUpstream_frame _).num_ring (by omega) (by omega), num_setNum_same]
  rcases Nat.le_one_iff_eq_zero_or_eq_one.mp hp with rfl | rfl <;> rfl

theorem link_narrow_state (hp : port ≤ 2) {x : Nat} (hx : x < 4) : (entryTy .link port 3).narrow (x : Int) = x := by
  have hcases : port = 0 ∨ port = 1 ∨ port = 2 := by omega
  have hvalues : x = 0 ∨ x = 1 ∨ x = 2 ∨ x = 3 := by omega
  rcases hcases with rfl | rfl | rfl <;> rcases hvalues with rfl | rfl | rfl | rfl <;> rfl

theorem link_speed_zero (hp : port ≤ 2) : (entryTy .link port 4).narrow 0 = 0 := by
  have hcases : port = 0 ∨ port = 1 ∨ port = 2 := by omega
  rcases hcases with rfl | rfl | rfl <;> rfl

theorem linkDown_shows (hp : port ≤ 2) (hfree : heldDown s port = false) :
    (linkDown s port).num .link port 3 = 0 ∧ (linkDown s port).num .link port 4 = 0 := by
  have hlt : port < 3 := by omega
  unfold linkDown
  extract_lets was cleared checks clocks counted
  have hstate : counted.num .link port 3 = 0 ∧ counted.num .link port 4 = 0 := by
    have hshown : clocks.num .link port 3 = 0 ∧ clocks.num .link port 4 = 0 := by
      show cleared.num .link port 3 = 0 ∧ cleared.num .link port 4 = 0
      unfold cleared
      rw [num_setNum_sub _ _ _ (by decide), num_setNum_same, num_setNum_same, hfree]
      exact ⟨link_narrow_state (x := 0) hp (by decide), link_speed_zero hp⟩
    unfold counted
    split
    · rw [num_bump_ne _ (entryKey_sub_ne _ _ (by decide)), num_bump_ne _ (entryKey_sub_ne _ _ (by decide))]
      exact hshown
    · exact hshown
  split
  · rw [unready_link _ hlt hlt (by decide) (by decide), unready_link _ hlt hlt (by decide) (by decide)]
    exact hstate
  · rw [dropEgress_num _ _ (entryKey_sub_ne _ _ (by decide)), dropEgress_num _ _ (entryKey_sub_ne _ _ (by decide))]
    exact hstate

/-! The links' commands (R476 to R479). -/

/-- A ring port whose link is up counts link checks from here on. -/
def ringLinkUp (s : State) (port speed : Nat) : State :=
  ((s.setNum .link port 4 speed).setNum .link port 3 1).modPort port (fun q => { q with lcFirst := none, lcLast := none })

theorem exec_linkUp_ring {speed : Nat} (hp : port ≤ 1) (hhas : s.has .link port = true) (hfree : heldDown s port = false)
    (hdown : s.nat .link port 3 = 0 ∨ s.nat .link port 3 = 3) (hspeed : speed ∈ linkSpeeds s port) :
    exec (.linkUp port speed) s = .next (ringLinkUp s port speed) := by
  show execLinkUp port speed s = _
  unfold execLinkUp
  rw [if_pos ⟨hhas, hfree, hdown, hspeed⟩]
  exact if_neg (by omega)

theorem exec_linkUp_portC {speed : Nat} (hhas : s.has .link 2 = true) (hfree : heldDown s 2 = false)
    (hdown : s.nat .link 2 3 = 0 ∨ s.nat .link 2 3 = 3) (hspeed : speed ∈ linkSpeeds s 2) :
    exec (.linkUp 2 speed) s = .next (((s.setNum .link 2 4 speed).setNum .link 2 3 2).setNum .link 2 12 s.now) := by
  show execLinkUp 2 speed s = _
  unfold execLinkUp
  rw [if_pos ⟨hhas, hfree, hdown, hspeed⟩]
  exact if_pos rfl

theorem port_modPort_same (f : PortSt → PortSt) {p : Nat} (h : p < s.net.ports.length) : (s.modPort p f).port p = f (s.port p) := by
  unfold State.port
  show (s.net.ports.modify p f).getD p PortSt.init = _
  rw [List.getD_eq_getElem?_getD, List.getD_eq_getElem?_getD, List.getElem?_modify_eq, List.getElem?_eq_getElem h]
  rfl

theorem exec_linkCheckSend_due (h : s.net.lastCheck.all (fun x => decide (x + helloTicks s ≤ s.now)) = true) :
    exec .linkCheckSend s = .next ((sendKmp (sendKmp s 0 zoneGroup (ownMessage s 0x11 [])) 1 zoneGroup (ownMessage s 0x11 [])).modNet
      (fun n => { n with lastCheck := some s.now })) := by
  have hnow : (sendKmp (sendKmp s 0 zoneGroup (ownMessage s 0x11 [])) 1 zoneGroup (ownMessage s 0x11 [])).now = s.now :=
    ((sendKmp_frame s 0 _ _).trans (sendKmp_frame _ 1 _ _)).now
  show execLinkCheckSend s = _
  unfold execLinkCheckSend
  dsimp only
  rw [hnow]
  cases hlast : s.net.lastCheck with
  | none => rfl
  | some x =>
    rw [hlast] at h
    exact if_pos h

theorem exec_linkCheck_takes {i : Nat} {rx : Rx} {m : Kmp} (h : inboxKmp s (fun m => m.ty == 0x11) = some (i, rx, m)) (hp : rx.port ≤ 1)
    (hup : s.nat .link rx.port 3 = 1 ∨ s.nat .link rx.port 3 = 2) :
    exec .linkCheck s = .next (takeLinkCheck (dropInbox s i) rx.port m.ident rx.tick) := by
  show execLinkCheck s = _
  unfold execLinkCheck
  rw [h]
  have hlink : (dropInbox s i).nat .link rx.port 3 = s.nat .link rx.port 3 := rfl
  exact if_pos ⟨hp, by rw [hlink]; omega, by rw [hlink]; omega⟩

theorem takeLinkCheck_port (s : State) {p : Nat} (ident x : Nat) (hp : p < s.net.ports.length) :
    ((takeLinkCheck s p ident x).port p).lcLast = some x := by
  unfold takeLinkCheck
  extract_lets q again shown
  rw [port_modPort_same _ (show p < shown.net.ports.length from hp)]

/-- A ring port becomes ready (R479). -/
def ringReady (s : State) (port : Nat) : State :=
  ringRefresh (raise ((s.setNum .link port 3 2).setNum .link port 12 s.now) 74 1 port)

theorem exec_restoreHoldExpiry_ready {f l : Nat} (hp : port ≤ 1) (hfirst : (s.port port).lcFirst = some f)
    (hlast : (s.port port).lcLast = some l) (hstate : s.nat .link port 3 = 1) (hhold : f + msTicks (s.nat .ring 0 9) ≤ s.now)
    (hfresh : s.now ≤ l + ringTicks s) : exec (.restoreHoldExpiry port) s = .next (ringReady s port) := by
  show execRestoreHoldExpiry port s = _
  unfold execRestoreHoldExpiry
  rw [hfirst, hlast]
  exact if_pos ⟨hp, hstate, hhold, hfresh⟩

theorem ringReady_link (s : State) (hp : port ≤ 1) : (ringReady s port).num .link port 3 = 2 ∧
    (ringReady s port).num .link port 12 = (entryTy .link port 12).narrow s.now := by
  have hlt : port < Obj.size .link := show port < 3 by omega
  have hframe := (RingFrame.raise ((s.setNum .link port 3 2).setNum .link port 12 s.now) (.inl rfl) 1 port).trans (ringRefresh_frame _)
  unfold ringReady
  rw [hframe.num (by decide) (by decide) (by decide) (by decide) hlt (by decide),
    hframe.num (by decide) (by decide) (by decide) (by decide) hlt (by decide), num_setNum_same, num_setNum_sub _ _ _ (by decide),
    num_setNum_same]
  exact ⟨link_narrow_state (x := 2) (by omega) (by decide), rfl⟩

/-- A ring port counts link checks anew, and is no longer ready. -/
def ringLost (s : State) (port : Nat) : State :=
  unready ((s.setNum .link port 3 1).modPort port (fun q => { q with lcFirst := none, lcLast := none })) port

theorem exec_ringTimeout_lost {l : Nat} (hp : port ≤ 1) (hlast : (s.port port).lcLast = some l) (hstate : s.nat .link port 3 = 2)
    (hdue : l + ringTicks s ≤ s.now) : exec (.ringTimeout port) s = .next (ringLost s port) := by
  show execRingTimeout port s = _
  unfold execRingTimeout
  rw [hlast]
  exact if_pos ⟨hp, hstate, hdue⟩

theorem ringLost_shows (s : State) (hp : port ≤ 1) : (ringLost s port).num .link port 3 = 1 ∧
    (s.isManager = false → (ringLost s port).num .ring 0 (4 + port) = 255) := by
  have hlt : port < 3 := by omega
  refine ⟨?_, fun hworker => unready_hop hp ?_⟩
  · rw [ringLost, unready_link _ hlt hlt (by decide) (by decide)]
    exact (num_setNum_same ..).trans (link_narrow_state (x := 1) (by omega) (by decide))
  · rw [← hworker]
    exact congrArg (fun x : Int => x.toNat == 1)
      (num_setNum_obj s (by decide) (show port < Obj.size .link from hlt) (by decide) (by decide) (by decide) 1)

/-- The module-present bit of a status byte. -/
theorem module_bit (m : Nat) (b : Bool) : bit ((entryTy .link 2 13).narrow (putBit m 0 b : Nat)).toNat 0 = b := by
  have hmod : ((entryTy .link 2 13).narrow (putBit m 0 b : Nat)).toNat = putBit m 0 b % 2 ^ 8 := by
    show (((putBit m 0 b : Nat) : Int) % 2 ^ 8).toNat = _
    omega
  rw [hmod, bit_eq_testBit, Nat.testBit_mod_two_pow, ← bit_eq_testBit]
  cases b
  · exact (Bool.and_eq_false_iff.mpr (.inr (bit_clearBit m 0)))
  · exact (Bool.and_eq_true_iff.mpr ⟨rfl, bit_setBit m 0⟩)

/-- Settles O38: a link that comes up, a restore hold and a ring timeout change the port that they name, and what the ring makes of it
writes no entry of a port. -/
theorem linksBecomeReadyAndGoDown : Obligations.LinksBecomeReadyAndGoDown := by
  unfold Obligations.LinksBecomeReadyAndGoDown
  refine ⟨?up, ?upC, ?down, ?checkSend, ?check, ?restore, ?timeout, ?insertion, ?removal⟩
  case up =>
    intro s port speed hp hhas hfree hdown hspeed
    refine ⟨_, exec_linkUp_ring hp hhas hfree hdown hspeed, ?_, ?_, rfl⟩
    · exact (num_setNum_same ..).trans (link_narrow_state (x := 1) (by omega) (by decide))
    · exact (num_setNum_sub _ _ _ (by decide) _).trans (num_setNum_same ..)
  case upC =>
    intro s speed hhas hfree hdown hspeed
    refine ⟨_, exec_linkUp_portC hhas hfree hdown hspeed, ?_, ?_, num_setNum_same .., rfl⟩
    · rw [num_setNum_sub _ _ _ (by decide), num_setNum_same]
      rfl
    · rw [num_setNum_sub _ _ _ (by decide), num_setNum_sub _ _ _ (by decide), num_setNum_same]
  case down =>
    intro s port hp hhas hfree
    exact ⟨_, if_pos ⟨hhas, hfree⟩, linkDown_shows hp hfree⟩
  case checkSend =>
    intro s h
    exact ⟨_, exec_linkCheckSend_due h, rfl, ((sendKmp_frame s 0 _ _).trans (sendKmp_frame _ 1 _ _)).inbox⟩
  case check =>
    intro s i rx m hports h hp hup
    refine ⟨_, exec_linkCheck_takes h hp hup, num_setNum_same (dropInbox s i) .link rx.port 11 m.ident, ?_, rfl⟩
    exact takeLinkCheck_port (dropInbox s i) m.ident rx.tick (show rx.port < s.net.ports.length by omega)
  case restore =>
    intro s port f l hp hfirst hlast hstate hhold hfresh
    exact ⟨_, exec_restoreHoldExpiry_ready hp hfirst hlast hstate hhold hfresh, ringReady_link s hp⟩
  case timeout =>
    intro s port l hp hlast hstate hdue
    exact ⟨_, exec_ringTimeout_lost hp hlast hstate hdue, ringLost_shows s hp⟩
  case insertion =>
    intro s ident hhas
    refine ⟨_, if_pos hhas, ?_, bytes_setBytes_same .., rfl⟩
    exact (congrArg (fun x : Int => bit x.toNat 0) (num_setNum_same s .link 2 13 _)).trans (module_bit _ true)
  case removal =>
    intro s hhas
    refine ⟨_, if_pos hhas, ?_, rfl⟩
    exact (congrArg (fun x : Int => bit x.toNat 0) (num_setNum_same s .link 2 13 _)).trans (module_bit _ false)

end Sys2Proof.Machine
end

section
/-! PROOFS. Hellos and joins (R480 to R487 of spec/15_ports_and_kmp.md). -/

namespace Sys2Proof.Machine

open Sys2Proof

variable {s t : State} {ses port : Nat}

/-! Hellos (R480, R481). -/

/-- The hellos that a manager sends. -/
def hellosSent (s : State) : State :=
  let one := fun (s : State) (p : Nat) => if portReady s p then sendKmp s p zoneGroup (ownMessage s 0x10 (helloBody s p 0)) else s
  one (one s 0) 1

theorem hellosSent_frame (s : State) : PortFrame s (hellosSent s) := by
  have hone (x : State) (p : Nat) :
      PortFrame x (if portReady x p then sendKmp x p zoneGroup (ownMessage x 0x10 (helloBody x p 0)) else x) := by
    split
    · exact sendKmp_frame x p _ _
    · exact .refl x
  exact (hone s 0).trans (hone _ 1)

theorem exec_helloSend_due (hmanager : s.isManager = true)
    (hdue : s.net.lastHello.all (fun x => decide (x + helloTicks s ≤ s.now)) = true) :
    exec .helloSend s = .next ((hellosSent s).modNet (fun n =>
      { n with lastHello := some (hellosSent s).now, helloSeq := (n.helloSeq + 1) % 2 ^ 32 })) := by
  show execHelloSend s = _
  unfold execHelloSend
  refine if_pos ⟨hmanager, ?_⟩
  cases hlast : s.net.lastHello with
  | none => rfl
  | some a => rwa [hlast] at hdue

/-- A worker that has taken a hello, before it sends it on. -/
def helloNoted (s : State) (p t : Nat) (m : Kmp) : State :=
  let s := ((s.setNum .ring 0 (4 + p) (leAt m.body 1 1)).modPort p (fun q => { q with helloAt := some t })).setNum .ring 0 6
    (leAt m.body 12 8)
  let s := s.modNet (fun n => { n with mgrMac := leAt m.body 20 8 % 2 ^ 48, helloUs := leAt m.body 4 2, helloTo := leAt m.body 3 1 })
  if s.nat .ring 0 3 = helloPosition m.body s.ident then s
  else (s.setNum .ring 0 3 (helloPosition m.body s.ident)).modNet (fun n => { n with joinDue := true })

theorem helloNoted_shows (s : State) {p : Nat} (hp : p ≤ 1) (t : Nat) (m : Kmp) (hhops : leAt m.body 1 1 < 62) :
    (helloNoted s p t m).num .ring 0 (4 + p) = (leAt m.body 1 1 : Nat) ∧ (helloNoted s p t m).net.inbox = s.net.inbox ∧
      (helloNoted s p t m).net.mgrMac = leAt m.body 20 8 % 2 ^ 48 := by
  have hnarrow : (entryTy .ring 0 (4 + p)).narrow ((leAt m.body 1 1 : Nat) : Int) = (leAt m.body 1 1 : Nat) := by
    rcases Nat.le_one_iff_eq_zero_or_eq_one.mp hp with rfl | rfl <;> exact narrowU_of_lt (w := 8) (by omega) (by omega)
  unfold helloNoted
  extract_lets shown kept
  have hkept : kept.num .ring 0 (4 + p) = (leAt m.body 1 1 : Nat) := by
    refine (num_setNum_sub (s.setNum .ring 0 (4 + p) (leAt m.body 1 1)) .ring 0 (a := 6) (by omega) _).trans ?_
    rw [num_setNum_same, hnarrow]
  split
  · exact ⟨hkept, rfl, rfl⟩
  · exact ⟨(num_setNum_sub kept .ring 0 (by omega) _).trans hkept, rfl, rfl⟩

theorem workerHello_frame (s : State) (p t : Nat) (m : Kmp) :
    ∃ u, PortFrame (helloNoted s p t m) u ∧ workerHello s p t m = chooseUpstream u := by
  refine ⟨if portReady (helloNoted s p t m) (otherPort p) then sendKmp (helloNoted s p t m) (otherPort p) zoneGroup
    { m with body := m.body.take 1 ++ leBytes 1 (leAt m.body 1 1 + 1) ++ m.body.drop 2 } else helloNoted s p t m, ?_, rfl⟩
  split
  · exact sendKmp_frame _ _ _ _
  · exact .refl _

theorem exec_hello_worker {i : Nat} {rx : Rx} {m : Kmp} (hworker : s.isManager = false)
    (h : inboxKmp s (fun m => m.ty == 0x10) = some (i, rx, m)) (hready : portReady s rx.port = true) (hlen : 524 ≤ m.body.length) :
    exec .hello s = if 62 ≤ leAt m.body 1 1 then .fault .ringBeyondRating
      else .next (workerHello (dropInbox s i) rx.port rx.tick m) := by
  have hkept : portReady (dropInbox s i) rx.port = true := hready
  have hrole : (dropInbox s i).isManager = false := hworker
  show execHello s = _
  unfold execHello
  rw [h]
  simp only [hkept, hrole, Nat.not_lt.mpr hlen, Bool.true_eq_false, Bool.false_eq_true, or_self, if_false]

theorem exec_hopCountExpiry_expires {a : Nat} (hworker : s.isManager = false) (hp : port ≤ 1) (hat : (s.port port).helloAt = some a)
    (hdue : a + ringTicks s ≤ s.now) : exec (.hopCountExpiry port) s =
      .next (chooseUpstream ((s.setNum .ring 0 (4 + port) 255).modPort port (fun q => { q with helloAt := none }))) := by
  show execHopCountExpiry port s = _
  unfold execHopCountExpiry
  rw [hat]
  exact if_pos ⟨hp, hworker, hdue⟩

/-! The upstream port (R481). -/

theorem revertWatch_rest (s : State) : revertWatch s = s.modNet (fun n => { n with revertFrom := (revertWatch s).net.revertFrom }) := by
  unfold revertWatch
  dsimp only
  split
  · split <;> rfl
  · rfl

theorem setUpstream_shows (s : State) {up : Nat} (hup : up < 256) : (setUpstream s up).num .ring 0 2 = up ∧
    Counted s (setUpstream s up) .ring 0 11 1 ∧ (setUpstream s up).net.joinDue = true := by
  have hnarrow : (entryTy .ring 0 2).narrow (up : Int) = up := narrowU_of_lt (w := 8) (by omega) (by omega)
  have hhold (x : State) : (servoHold x).net = x.net := by
    unfold servoHold
    split <;> rfl
  have hclock (x : State) {sub : Nat} (hsub : sub < 256) : (clockUpstream x up).num .ring 0 sub = x.num .ring 0 sub := by
    have hheld : (servoHold x).num .ring 0 sub = x.num .ring 0 sub := by
      unfold servoHold
      split
      · exact num_setNum_obj (o := .localClock) (p := .ring) (u := 0) (w := 0) (a := 14) x (by decide) (by decide) (by decide) (by decide) hsub 4
      · rfl
    exact (num_setNum_obj (o := .localClock) (p := .ring) (u := 0) (w := 0) (a := 11) (servoHold x) (by decide) (by decide) (by decide) (by decide)
      hsub _).trans hheld
  have hraise (x : State) {sub : Nat} (hsub : sub < 256) : (raise x 75 1 up).num .ring 0 sub = x.num .ring 0 sub :=
    raise_num 1 (show islandOf x 75 up < 32 from (by decide : 27 < 32)) (by decide) (by decide) hsub
  unfold setUpstream
  dsimp only
  refine ⟨?_, ?_, ?_⟩
  · rw [hclock _ (by decide)]
    refine (hraise _ (by decide)).trans ?_
    rw [num_bump_ne _ (entryKey_sub_ne _ _ (by decide)), num_setNum_sub _ _ _ (by decide), num_setNum_same, hnarrow]
  · rw [Counted, hclock _ (by decide)]
    refine (hraise _ (by decide)).trans ?_
    rw [num_bump_same, num_setNum_sub _ _ _ (by decide), num_setNum_sub _ _ _ (by decide)]
  · show (servoHold _).net.joinDue = true
    rw [hhold]
    rfl

/-! The manager's view of the ring and of its workers (R484 to R487). -/

theorem exec_ownHelloTimeout_opens (hmanager : s.isManager = true) (hclosed : s.nat .ring 0 1 = 2) :
    exec .ownHelloTimeout s = .next (ringRefresh s) := if_pos ⟨hmanager, hclosed⟩

theorem managerRing_le (s : State) : managerRing s ≤ 2 := by
  unfold managerRing
  dsimp only
  split
  · exact Nat.le_refl 2
  · split <;> decide

/-- A closed ring that its hellos no longer show closed: the ring state changes, and no ring size is seen. -/
def ringOpened (s : State) : State := (s.setNum .ring 0 1 (managerRing s : Nat)).setNum .zone 0 4 255

theorem ringRefresh_opens (hmanager : s.isManager = true) (hclosed : s.nat .ring 0 1 = 2) (hopen : managerRing s ≠ 2) :
    ringRefresh s = if managerRing s = 1 then raise (ringOpened s) 75 2 0 else ringOpened s := by
  unfold ringRefresh
  rw [hmanager, hclosed]
  simp only [Bool.not_true, Bool.false_eq_true, if_false, hopen, hopen.symm]
  rfl

theorem ringOpened_shows (s : State) : (ringOpened s).num .ring 0 1 = ((managerRing s : Nat) : Int) ∧ (ringOpened s).num .zone 0 4 = 255 := by
  have hle := managerRing_le s
  unfold ringOpened
  rw [num_setNum_obj _ (by decide) (by decide) (by decide) (by decide) (by decide), num_setNum_same, num_setNum_same]
  exact ⟨narrowU_of_lt (w := 8) (by omega) (by omega), rfl⟩

/-- The join that a message carries (R484). -/
def joinOf (rx : Rx) (m : Kmp) : JoinRec :=
  { ident := m.ident, mac := rx.frame.src, port := rx.port, pos := leAt m.body 0 1, hopA := leAt m.body 2 1,
    hopB := leAt m.body 3 1, boot := leAt m.body 4 4, tick := rx.tick }

theorem reachRefresh_net (s : State) : (reachRefresh s).net = s.net := rfl

theorem exec_join_kept {i : Nat} {rx : Rx} {m : Kmp} (hmanager : s.isManager = true)
    (h : inboxKmp s (fun m => m.ty == 0x12) = some (i, rx, m)) (hlen : 8 ≤ m.body.length) (hp : rx.port ≤ 1) :
    exec .join s = .next (reachRefresh ((dropInbox s i).modNet (fun n =>
      { n with joins := n.joins.filter (fun x => !(x.ident == m.ident)) ++ [joinOf rx m] }))) := by
  show execJoin s = _
  unfold execJoin
  rw [h]
  exact if_pos ⟨hmanager, hlen, hp⟩

/-- A worker that has sent its join. -/
def joinSent (s : State) : State :=
  let s := sendKmp s (s.nat .ring 0 2) s.net.mgrMac (ownMessage s 0x12 (joinBody s))
  s.modNet (fun n => { n with lastJoin := some s.now, joinDue := false })

theorem exec_joinSend_due (hworker : s.isManager = false) (hup : s.nat .ring 0 2 ≠ 255)
    (hdue : s.net.joinDue = true ∨ s.net.lastJoin.all (fun x => decide (x + msTicks 100 ≤ s.now)) = true) :
    exec .joinSend s = .next (joinSent s) := by
  show execJoinSend s = _
  unfold execJoinSend
  refine if_pos ⟨hworker, hup, ?_⟩
  cases hdue with
  | inl h => exact (congrArg (· || _) h).trans (Bool.true_or _)
  | inr h =>
    cases hlast : s.net.lastJoin with
    | none => exact Bool.or_true _
    | some a =>
      rw [hlast, Option.all_some] at h
      exact (congrArg (s.net.joinDue || ·) h).trans (Bool.or_true _)

theorem reachRefresh_none (h : freshJoins s = []) : (reachRefresh s).num .zone 0 2 = 0 ∧ (reachRefresh s).num .zone 0 3 = 0 ∧
    (reachRefresh s).num .zone 0 5 = 0 := by
  unfold reachRefresh
  rw [h]
  dsimp only
  refine ⟨?_, ?_, num_setNum_same ..⟩
  · rw [num_setNum_sub _ _ _ (by decide), num_setNum_sub _ _ _ (by decide), num_setNum_same]
    rfl
  · rw [num_setNum_sub _ _ _ (by decide), num_setNum_same]
    rfl

/-! The learn command (R487). -/

theorem learn_accepted (hs : s.serves ses) (hmanager : s.isManager = true) (hhas : s.has .zone 0 = true) :
    Accepted s ses .zone 0 1 ⟨1, 1, "Learn command", .u8, .wo, false, .calc, .rng 1 1⟩ [1] 1 :=
  ⟨hs, by decide, hhas, ⟨rfl, by decide⟩, ⟨rfl, rfl⟩, rfl, if_neg (by simp [hmanager]), rfl⟩

/-- The worker table emptied. -/
@[irreducible] def workersCleared (s : State) : State := (List.range 62).foldl (fun s i => s.setNum .workers 0 (i + 1) 0) s

theorem worker_narrow_zero {n : Nat} (hn : n < 62) : (entryTy .workers 0 (n + 1)).narrow 0 = 0 := by
  revert n
  decide

theorem worker_zone_ne {n : Nat} (hn : n < 62) : entryKey .workers 0 (n + 1) ≠ entryKey .zone 0 7 :=
  entryKey_obj_ne (by decide) (by decide) (by decide) (by omega) (by decide)

theorem workersCleared_num (s : State) {n : Nat} (hn : n < 62) : (workersCleared s).num .workers 0 (n + 1) = 0 := by
  have key (k : Nat) (x : State) : n < k → ((List.range k).foldl (fun s i => s.setNum .workers 0 (i + 1) 0) x).num .workers 0 (n + 1) = 0 := by
    induction k with
    | zero => exact fun h => absurd h (Nat.not_lt_zero n)
    | succ k ih =>
      intro hk
      rw [List.range_succ, List.foldl_append]
      by_cases hlast : n = k
      · subst hlast
        exact (num_setNum_same ..).trans (worker_narrow_zero hn)
      · exact (num_setNum_sub _ _ _ (by omega) _).trans (ih (by omega))
  unfold workersCleared
  exact key 62 s hn

theorem workersCleared_rest (s : State) : { workersCleared s with regs := s.regs } = s ∧
    KeepsRegs (fun k => ∃ n < 62, k = entryKey .workers 0 (n + 1)) s (workersCleared s) := by
  unfold workersCleared
  refine List.foldlRecOn (motive := fun t => { t with regs := s.regs } = s ∧
    KeepsRegs (fun k => ∃ n < 62, k = entryKey .workers 0 (n + 1)) s t) _ _ ⟨rfl, .refl _ s⟩ ?_
  rintro t ⟨hrest, hregs⟩ n hn
  exact ⟨hrest, hregs.trans (.setNum t 0 ⟨n, List.mem_range.mp hn, rfl⟩)⟩

/-- The worker table with one worker learnt, counted (R486, R487). -/
def learnt (s : State) (j : JoinRec) : State := ((workersCleared s).setNum .workers 0 (j.hopA + 1) j.ident).bump .zone 0 7 1

theorem learn_one {j : JoinRec} (hmanager : s.isManager = true) (hclosed : s.nat .ring 0 1 = 2) (hjoins : freshJoins s = [j])
    (hhops : j.hopA < 62) : learn s = (raise (learnt s j) 75 4 0, .success) := by
  unfold learn
  simp only [hmanager, hclosed, hjoins, hhops, Bool.not_true, Bool.false_eq_true, ne_eq, not_true_eq_false, if_false, if_true,
    List.foldl_cons, List.foldl_nil]
  unfold learnt workersCleared
  rfl

theorem workersCleared_zone (s : State) : (workersCleared s).num .zone 0 7 = s.num .zone 0 7 := by
  obtain ⟨hrest, hregs⟩ := workersCleared_rest s
  generalize workersCleared s = x at *
  refine hregs.num (congrArg State.variant hrest :) (congrArg State.fac hrest :) _ _ _ ?_
  rintro ⟨n, hn, hk⟩
  exact worker_zone_ne hn hk.symm

theorem learnt_shows (s : State) {j : JoinRec} (hhops : j.hopA < 62) : Counted s (learnt s j) .zone 0 7 1 ∧
    (learnt s j).num .workers 0 (j.hopA + 1) = (entryTy .workers 0 (j.hopA + 1)).narrow j.ident ∧
      ∀ n : Fin 62, (n : Nat) ≠ j.hopA → (learnt s j).num .workers 0 (n + 1) = 0 := by
  have hzone := workersCleared_zone s
  have hcleared (n : Fin 62) := workersCleared_num s n.isLt
  unfold learnt
  generalize workersCleared s = x at *
  refine ⟨?_, ?_, fun n hn => ?_⟩
  · rw [Counted, num_bump_same, num_setNum_ne _ (worker_zone_ne hhops).symm, hzone]
  · rw [num_bump_ne _ (worker_zone_ne hhops), num_setNum_same]
  · rw [num_bump_ne _ (worker_zone_ne n.isLt), num_setNum_sub _ _ _ (by omega), hcleared n]

/-- Settles O39: hellos and joins change what they say of the ring, and the choice of the upstream port writes no hop count. -/
theorem hellosAndJoinsFormTheRing : Obligations.HellosAndJoinsFormTheRing := by
  unfold Obligations.HellosAndJoinsFormTheRing
  refine ⟨?helloSend, ?hello, ?expiry, ?revert, ?ownHello, ?joinSend, ?join, ?reach, ?learn, ?beyond⟩
  case helloSend =>
    intro s hmanager hdue
    have hsent := hellosSent_frame s
    refine ⟨_, exec_helloSend_due hmanager hdue, congrArg some hsent.now, ?_, hsent.inbox⟩
    exact congrArg (fun x => (x + 1) % 2 ^ 32) hsent.helloSeq
  case hello =>
    intro s i rx m hworker h hp hready hlen hhops
    obtain ⟨hnum, hinbox, hmac⟩ := helloNoted_shows (dropInbox s i) hp rx.tick m hhops
    obtain ⟨u, hsent, hu⟩ := workerHello_frame (dropInbox s i) rx.port rx.tick m
    have hchosen := chooseUpstream_frame u
    refine ⟨chooseUpstream u, ?_, ?_, hchosen.inbox.trans (hsent.inbox.trans hinbox), ?_⟩
    · rw [exec_hello_worker hworker h hready hlen, if_neg (by omega), hu]
    · rw [hchosen.num_ring (by omega) (by omega), hsent.num (by decide) (by omega) (.inl (by decide)), hnum]
    · exact hchosen.mgrMac.trans ((congrArg NetSt.mgrMac hsent.net :).trans hmac)
  case expiry =>
    intro s port a hworker hp hat hdue
    refine ⟨_, exec_hopCountExpiry_expires hworker hp hat hdue, ?_⟩
    rw [(chooseUpstream_frame _).num_ring (by omega) (by omega)]
    refine (num_setNum_same ..).trans ?_
    rcases Nat.le_one_iff_eq_zero_or_eq_one.mp hp with rfl | rfl <;> rfl
  case revert =>
    intro s f hworker hfrom hhold hdue hup
    obtain ⟨hport, hcount, hjoin⟩ := setUpstream_shows s (up := otherPort (s.nat .ring 0 2)) (by unfold otherPort; omega)
    refine ⟨revertWatch (setUpstream s (otherPort (s.nat .ring 0 2))), ?_, ?_⟩
    · show execRevertHoldExpiry s = _
      unfold execRevertHoldExpiry
      rw [hfrom]
      exact if_pos ⟨hworker, hhold, hdue⟩
    · rw [revertWatch_rest]
      exact ⟨hport, hcount, hjoin⟩
  case ownHello =>
    intro s hmanager hclosed hopen
    obtain ⟨hstate, hsize⟩ := ringOpened_shows s
    refine ⟨_, exec_ownHelloTimeout_opens hmanager hclosed, ?_⟩
    rw [ringRefresh_opens hmanager hclosed hopen]
    split
    · have hkept {o : Obj} {sub : Nat} (ho : o ≠ .queue) (hu : 0 < o.size) (hsub : sub < 256) :
          (raise (ringOpened s) 75 2 0).num o 0 sub = (ringOpened s).num o 0 sub :=
        raise_num 2 (show islandOf (ringOpened s) 75 0 < 32 from (by decide : 27 < 32)) ho hu hsub
      rw [hkept (by decide) (by decide) (by decide), hkept (by decide) (by decide) (by decide), raise_net]
      exact ⟨hstate, hsize, rfl⟩
    · exact ⟨hstate, hsize, rfl⟩
  case joinSend =>
    intro s hworker hup hdue
    exact ⟨_, exec_joinSend_due hworker hup hdue, congrArg some (sendKmp_frame s _ _ _).now, rfl⟩
  case join =>
    intro s i rx m hmanager h hlen hp
    refine ⟨_, exec_join_kept hmanager h hlen hp, ?_, rfl⟩
    rw [reachRefresh_net]
    exact List.getLast?_concat
  case reach =>
    intro s hmanager hnone
    obtain ⟨hmask, hsegment, hunlisted⟩ := reachRefresh_none hnone
    exact ⟨_, if_pos hmanager, hmask, hsegment, hunlisted, rfl⟩
  case learn =>
    intro s ses j hs hreset hmanager hhas hclosed hjoins hhops
    have hpower : (learnt s j).power = s.power := (congrArg State.power (workersCleared_rest s).1 :)
    have hserved := (learn_accepted hs hmanager hhas).volatile rfl (learn_one hmanager hclosed hjoins hhops)
      (by rw [raise_power, hpower]; exact hreset)
    have hkept {o : Obj} {sub : Nat} (ho : o ≠ .queue) (ha : o ≠ .answers) (hu : 0 < o.size) (hsub : sub < 256) :
        (answer (raise (learnt s j) 75 4 0) .success).num o 0 sub = (learnt s j).num o 0 sub :=
      (answer_num _ _ ha hu hsub).trans (raise_num 4 (show islandOf (learnt s j) 75 0 < 32 from (by decide : 27 < 32)) ho hu hsub)
    obtain ⟨hcount, hworker, hothers⟩ := learnt_shows s hhops
    refine ⟨_, congrArg Host.Outcome.next hserved, rfl, ?_, ?_, fun n hn => ?_⟩
    · rw [Counted, hkept (by decide) (by decide) (by decide) (by decide)]
      exact hcount
    · rw [hkept (by decide) (by decide) (by decide) (by omega)]
      exact hworker
    · rw [hkept (by decide) (by decide) (by decide) (by omega)]
      exact hothers n hn
  case beyond =>
    intro s i rx m h hready hlen hworker hhops
    rw [exec_hello_worker hworker h hready hlen, if_pos hhops]

end Sys2Proof.Machine
end

section
/-! PROOFS. Frames that arrive, and frames that leave (R474, R475, R482, R483). -/

namespace Sys2Proof.Machine

open Sys2Proof

variable {s t : State} {port : Nat}

/-! Arrival (R474, R475). -/

/-- The link of the port is up. -/
abbrev LinkUp (s : State) (port : Nat) : Prop := s.nat .link port 3 = 1 ∨ s.nat .link port 3 = 2

theorem exec_frameReceived (f : Frame) (hhas : s.has .link port = true) (hup : LinkUp s port) :
    exec (.frameReceived port f) s = .next
      (if f.fcsGood = false then (s.bump .link port 5 1).bump .link port 7 1
       else if accepts (s.bump .link port 5 1) port f = false then (s.bump .link port 5 1).bump .link port 8 1
       else if (s.bump .link port 5 1).isManager then managerFrame (s.bump .link port 5 1) port f
       else workerFrame (s.bump .link port 5 1) port f) := by
  show execFrameReceived port f s = _
  unfold execFrameReceived
  rw [if_neg (by rw [hhas]; rintro (h | ⟨h1, h2⟩); exacts [absurd h (by decide), hup.elim h1 h2])]
  dsimp only
  split_ifs <;> rfl

/-- A frame that is dropped counts as received and once more for its reason. -/
theorem frame_counts (s : State) (port : Nat) {sub : Nat} (hne : sub ≠ 5) :
    Counted s ((s.bump .link port 5 1).bump .link port sub 1) .link port 5 1 ∧
      Counted s ((s.bump .link port 5 1).bump .link port sub 1) .link port sub 1 := by
  have hother : entryKey .link port sub ≠ entryKey .link port 5 := entryKey_sub_ne _ _ (by omega)
  rw [Counted, Counted, num_bump_same, num_bump_ne _ hother.symm, num_bump_same, num_bump_ne _ hother]
  exact ⟨rfl, rfl⟩

/-- A received frame's count is no entry of another object. -/
theorem nat_received (s : State) (hport : port < 3) {o : Obj} {sub : Nat} (ho : o ≠ .link) (hsize : 0 < o.size) (hsub : sub < 256) :
    (s.bump .link port 5 1).nat o 0 sub = s.nat o 0 sub :=
  congrArg Int.toNat (num_bump_ne s (entryKey_obj_ne ho hsize hport hsub (by decide)) 1)

/-- What a port accepts does not depend on its counts. -/
theorem accepts_bump (s : State) (hport : port < 3) (f : Frame) : accepts (s.bump .link port 5 1) port f = accepts s port f := by
  have hkey : entryKey .link 2 15 ≠ entryKey .link port 5 := fun e =>
    absurd (entryKey_inj (by decide) hport (by decide) (by decide) e).2.2 (by decide)
  have htag : (s.bump .link port 5 1).nat .link 2 15 = s.nat .link 2 15 := congrArg Int.toNat (num_bump_ne s hkey 1)
  unfold accepts
  rw [htag]

theorem workerFrame_taken {f : Frame} {b : Bytes} (hksf : f.content = .ksf b) (hdst : f.dst = s.mac) :
    workerFrame s port f = s.modNet (fun n => { n with inbox := n.inbox ++ [⟨port, s.now, f⟩] }) := by
  unfold workerFrame
  rw [if_pos (Or.inl hdst)]
  simp only [consume, ksfDatagram, hksf]

/-! Departure (R483). -/

theorem stampOwn_rest (s : State) (p sub : Nat) (o : OutFrame) :
    ∃ c, (stampOwn s p sub o).1 = { s with clk := c } := by
  unfold stampOwn
  split
  · dsimp only
    split <;> exact ⟨_, rfl⟩
  · exact ⟨_, rfl⟩

theorem exec_egressTransmit_sends {sub c : Nat} {o : OutFrame} {r : List OutFrame} (h : nextFrame (s.port port) = some (c, o, r))
    (hown : c ≠ 0 ∨ o.own = true) : exec (.egressTransmit ⟨port, sub⟩) s =
      .next (putOnWire (stampOwn s port sub o).1 port c o r (stampOwn s port sub o).2) := by
  show execEgressTransmit ⟨port, sub⟩ s = _
  unfold execEgressTransmit
  rw [h]
  refine if_neg ?_
  rintro ⟨hclass, hforwarded⟩
  exact hown.elim (absurd hclass) fun hy => by rw [hy] at hforwarded; exact absurd hforwarded (by decide)

theorem putOnWire_shows (s : State) (hport : port < s.net.ports.length) (c : Nat) (o : OutFrame) (r : List OutFrame) (f : Frame) :
    Counted s (putOnWire s port c o r f) .link port 6 1 ∧ ((putOnWire s port c o r f).port port).sent = some f ∧
      ((putOnWire s port c o r f).port port).egress = (s.port port).egress.set c r := by
  have hsent := port_modPort_same (s := s.bump .link port 6 1) (fun q =>
    { q with egress := q.egress.set c r, lastOwn := q.lastOwn.set c o.own, sent := some f }) (p := port) hport
  refine ⟨num_bump_same .., ?_, ?_⟩
  · exact (congrArg PortSt.sent hsent :)
  · exact (congrArg PortSt.egress hsent :)

/-! The manager's own services on port C (R501). -/

/-- A frame for an idle port C waits alone in class 2. -/
theorem enqueue_idle {o : OutFrame} (hports : s.net.ports.length = 3) (hready : portReady s 2 = true)
    (hidle : (s.port 2).egress = [[], [], [], []]) (hclass : frameClass s o.frame = 2) (hlen : o.frame.len ≤ 16384) :
    enqueue s 2 o = s.modPort 2 (fun q => { q with egress := q.egress.set 2 [o] }) ∧
      ((enqueue s 2 o).port 2).egress = [[], [], [o], []] := by
  have hhas : s.has .link 2 = true := (Bool.and_eq_true_iff.mp hready).1
  have hsent : enqueue s 2 o = s.modPort 2 (fun q => { q with egress := q.egress.set 2 [o] }) := by
    unfold enqueue
    rw [hhas, hready, hclass, hidle, if_neg (by simp)]
    exact if_neg (by simp only [classRoom, List.getD_cons_succ, List.getD_cons_zero, List.map_nil, List.foldl_nil, Nat.reduceEqDiff, if_false]; omega)
  refine ⟨hsent, ?_⟩
  rw [hsent, port_modPort_same _ (by omega), hidle]
  rfl

theorem exec_arpRequest_answers {rx : Rx} {sip tip : Nat} (hinbox : s.net.inbox = [rx]) (harp : rx.frame.content = .arp false sip tip) :
    exec .arpRequest s = .next (sendOwn (dropInbox s 0) 2 rx.frame.src 64 (.arp true tip sip)) := by
  show execArpRequest s = _
  unfold execArpRequest
  rw [hinbox]
  simp only [List.zipIdx_singleton, List.find?_cons, harp]

theorem exec_icmpEcho_answers {rx : Rx} {sip dip : Nat} {b : Bytes} (hinbox : s.net.inbox = [rx])
    (hecho : rx.frame.content = .icmpEcho false sip dip b) :
    exec .icmpEcho s = .next (sendOwn (dropInbox s 0) 2 rx.frame.src (frameLen (b.length + 28)) (.icmpEcho true dip sip b)) := by
  show execIcmpEcho s = _
  unfold execIcmpEcho
  rw [hinbox]
  simp only [List.zipIdx_singleton, List.find?_cons, hecho]

theorem dropInbox_only {rx : Rx} (h : s.net.inbox = [rx]) : (dropInbox s 0).net.inbox = [] :=
  (congrArg (fun l : List Rx => l.eraseIdx 0) h :)

/-- An answer on an idle port C: the request is gone, the answer waits, and no entry changes. -/
theorem answered_on_portC {rx : Rx} {o : OutFrame} (hports : s.net.ports.length = 3) (hready : portReady s 2 = true)
    (hidle : (s.port 2).egress = [[], [], [], []]) (hinbox : s.net.inbox = [rx]) (hclass : frameClass s o.frame = 2)
    (hlen : o.frame.len ≤ 16384) :
    (enqueue (dropInbox s 0) 2 o).net.inbox = [] ∧ ((enqueue (dropInbox s 0) 2 o).port 2).egress = [[], [], [o], []] ∧
      (enqueue (dropInbox s 0) 2 o).regs = s.regs := by
  obtain ⟨hsent, hwaits⟩ := enqueue_idle (s := dropInbox s 0) hports hready hidle hclass hlen
  exact ⟨(enqueue_frame _ 2 o).inbox.trans (dropInbox_only hinbox), hwaits, by rw [hsent]; rfl⟩

/-! Notifications (R498). -/

theorem sendUdp_frame (s : State) (dst a b c d : Nat) (bs : Bytes) : PortFrame s (sendUdp s dst a b c d bs) := sendOwn_frame s 2 _ _ _

theorem sendNotify_manager (m : Kmp) (hmanager : s.isManager = true) (hsink : s.nat .kmp 0 5 ≠ 0) :
    PortFrame (s.bump .kmp 0 8 1) (sendNotify s m) := by
  unfold sendNotify
  rw [if_pos hmanager, if_neg hsink]
  dsimp only
  split
  · exact sendKmp_frame _ _ _ _
  · exact sendUdp_frame _ _ _ _ _ _ _

theorem exec_notify_manager {i : Nat} {rx : Rx} {m : Kmp} (hmanager : s.isManager = true)
    (h : (inboxMsgs s).find? (fun (_, _, m) => m.ty == 0x0B && !(bit m.flags 0)) = some (i, rx, m)) :
    exec .notify s = .next (sendNotify (dropInbox s i) m) := by
  have hrole : (dropInbox s i).isManager = true := hmanager
  show execNotify s = _
  unfold execNotify
  rw [h]
  exact congrArg Host.Outcome.next (if_pos hrole)

/-- Settles O40: each frame that arrives is counted once by what becomes of it, and each that leaves once. -/
theorem framesAreTakenCountedAndSent : Obligations.FramesAreTakenCountedAndSent := by
  unfold Obligations.FramesAreTakenCountedAndSent
  refine ⟨?badFcs, ?dropped, ?taken, ?transmit, ?arp, ?echo, ?notify⟩
  case badFcs =>
    intro s port f hport hhas hup hfcs
    obtain ⟨hreceived, herror⟩ := frame_counts s port (show 7 ≠ 5 by decide)
    exact ⟨_, (exec_frameReceived f hhas hup).trans (congrArg Host.Outcome.next (if_pos hfcs)), hreceived, herror, rfl⟩
  case dropped =>
    intro s port f hport hhas hup hfcs hno
    obtain ⟨hreceived, hdrop⟩ := frame_counts s port (show 8 ≠ 5 by decide)
    refine ⟨_, (exec_frameReceived f hhas hup).trans (congrArg Host.Outcome.next ?_), hreceived, hdrop, rfl⟩
    rw [if_neg (by rw [hfcs]; decide)]
    exact if_pos ((accepts_bump s hport f).trans hno)
  case taken =>
    intro s port f b hworker hport hhas hup hfcs hksf hvlan hlen hdst
    have haccepts : accepts (s.bump .link port 5 1) port f = true := by
      simp [accepts, hport, hvlan, hlen, hksf]
    have hother {o : Obj} {sub : Nat} := nat_received s (show port < 3 by omega) (o := o) (sub := sub)
    have hrole : (s.bump .link port 5 1).isManager = false := by
      rw [← hworker]
      exact congrArg (· == 1) (hother (by decide) (by decide) (by decide))
    have hmac : (s.bump .link port 5 1).mac = s.mac := hother (by decide) (by decide) (by decide)
    refine ⟨(s.bump .link port 5 1).modNet (fun n => { n with inbox := n.inbox ++ [⟨port, s.now, f⟩] }),
      (exec_frameReceived f hhas hup).trans (congrArg Host.Outcome.next ?_), num_bump_same s .link port 5 1, rfl,
      num_bump_ne s (entryKey_sub_ne .link port (show 8 ≠ 5 by decide)) 1⟩
    rw [if_neg (by rw [hfcs]; decide), if_neg (by rw [haccepts]; decide), if_neg (by rw [hrole]; decide)]
    exact workerFrame_taken hksf (hdst.trans hmac.symm)
  case transmit =>
    intro s port sub c o r hports hport hnext hown
    obtain ⟨k, hstamp⟩ := stampOwn_rest s port sub o
    refine ⟨_, exec_egressTransmit_sends hnext hown, ?_⟩
    rw [hstamp]
    exact putOnWire_shows { s with clk := k } (show port < s.net.ports.length by omega) c o r _
  case arp =>
    intro s rx sip tip hmanager hports hhas hready hidle hinbox harp
    exact ⟨_, exec_arpRequest_answers hinbox harp, answered_on_portC hports hready hidle hinbox rfl (show 64 ≤ 16384 by decide)⟩
  case echo =>
    intro s rx sip dip b hmanager hports hhas hready hidle hinbox hecho hlen
    refine ⟨_, exec_icmpEcho_answers hinbox hecho, answered_on_portC hports hready hidle hinbox rfl ?_⟩
    show 18 + max 46 (b.length + 28) ≤ 16384
    omega
  case notify =>
    intro s i rx m hmanager h hsink
    have hsent := sendNotify_manager (s := dropInbox s i) m hmanager hsink
    refine ⟨_, exec_notify_manager hmanager h, ?_, hsent.inbox⟩
    rw [Counted, hsent.num (by decide) (by decide) (.inl (by decide)), num_bump_same]
    rfl

end Sys2Proof.Machine
end

section
/-! PROOFS. Requests of KMP sessions (R489 to R497): how a request is taken, served and answered, and what the operations do. -/

namespace Sys2Proof.Machine

open Sys2Proof

variable {s t u : State} {ses i sub : Nat} {rx : Rx} {m : Kmp} {k : Sess} {c : Code} {body bs : Bytes} {p : Kmp → Bool}

/-! Fields of a body (R489). -/

/-- A field is its first bytes, and then the rest of it. -/
theorem leAt_add (b : Bytes) (o n l : Nat) : leAt b o (n + l) = leAt b o n + 256 ^ n * leAt b (o + n) l := by
  induction n generalizing o with
  | zero => rw [Nat.zero_add, Nat.pow_zero, Nat.one_mul]; exact (Nat.zero_add _).symm
  | succ n ih =>
    have hstep (j : Nat) : leAt b o (j + 1) = leAt b o 1 + 256 * leAt b (o + 1) j := by
      unfold leAt slice
      rw [← List.drop_drop]
      cases b.drop o with
      | nil => simp [leNat]
      | cons x xs => simp [leNat]
    rw [show n + 1 + l = (n + l) + 1 by omega, hstep, ih, hstep n, show o + 1 + n = o + (n + 1) by omega, Nat.pow_succ]
    rw [Nat.mul_add, ← Nat.mul_assoc, Nat.mul_comm 256 (256 ^ n), Nat.add_assoc]

/-- A field that is worth less than 256 stands in its first byte. -/
theorem leAt_small {b : Bytes} {o n v : Nat} (h : leAt b o (1 + n) = v) (hv : v < 256) : leAt b o 1 = v ∧ leAt b (o + 1) n = 0 := by
  rw [leAt_add, Nat.pow_one] at h
  omega

theorem leAt_zero {b : Bytes} {o n l : Nat} (h : leAt b o (n + l) = 0) : leAt b o n = 0 ∧ leAt b (o + n) l = 0 := by
  rw [leAt_add] at h
  obtain ⟨hlow, hhigh⟩ := Nat.add_eq_zero_iff.mp h
  exact ⟨hlow, (Nat.mul_eq_zero.mp hhigh).resolve_left (by positivity)⟩

/-! A request is served and its answer kept (R491, R495). -/

/-- The answer to the request is kept by its session and leaves. -/
def kmpAnswered (u : State) (rx : Rx) (m : Kmp) (c : Code) (body : Bytes) : State :=
  reply (keepAnswer u m.ses m.tid c body) rx (answerTo (keepAnswer u m.ses m.tid c body) m m.ses c body)

/-- A request of an open session that has not answered its transaction before is served. -/
theorem serveRequest_serves {use : SesUse} {run : State → Rx → Kmp → Served} (h : KmpIn s p i rx m k) (huse : use ≠ .none_)
    (hrun : run (s.opened i rx m k) rx m = (u, some (c, body))) : serveRequest s p use run = kmpAnswered u rx m c body := by
  obtain ⟨hreq, hlow, -, hopen, hnew⟩ := h
  have hfound : Sparse.find (dropInbox s i).net.sessions m.ses = some k := hopen
  unfold serveRequest
  simp only [hreq, huse, hfound, hnew, if_false, Nat.ne_of_gt hlow, hrun]
  rfl

theorem keepAnswer_rest (u : State) (tid : Nat) (c : Code) (body : Bytes) :
    { keepAnswer u ses tid c body with net := { (keepAnswer u ses tid c body).net with sessions := u.net.sessions } } = u := by
  unfold keepAnswer
  split <;> rfl

/-- `t` is `u` once an answer has been kept and has left: the sessions, the ports and the counts of frames without room may differ. -/
structure KmpFrame (u t : State) : Prop where
  rest : { t with net := { t.net with ports := u.net.ports, sessions := u.net.sessions }, regs := u.regs } = u
  regs : KeepsRegs DropKey u t

theorem kmpAnswered_frame (u : State) (rx : Rx) (m : Kmp) (c : Code) (body : Bytes) : KmpFrame u (kmpAnswered u rx m c body) := by
  obtain ⟨hrest, hregs⟩ := reply_frame (keepAnswer u m.ses m.tid c body) rx
    (answerTo (keepAnswer u m.ses m.tid c body) m m.ses c body)
  have hkept := keepAnswer_rest (ses := m.ses) u m.tid c body
  have hsame : (keepAnswer u m.ses m.tid c body).regs = u.regs := (congrArg State.regs hkept :)
  refine ⟨?_, ?_⟩
  · have hports : (keepAnswer u m.ses m.tid c body).net.ports = u.net.ports := (congrArg (fun x => x.net.ports) hkept :)
    rw [hports, hsame] at hrest
    exact (congrArg (fun x : State => { x with net := { x.net with sessions := u.net.sessions } }) hrest :).trans hkept
  · exact KeepsRegs.trans (.of_eq hsame) hregs

namespace KmpFrame

theorem num (h : KmpFrame u t) {o : Obj} {w sub : Nat} (hw : w < o.size) (hsub : sub < 256) (hne : o ≠ .link ∨ sub ≠ 9) :
    t.num o w sub = u.num o w sub := by
  refine h.regs.num (congrArg State.variant h.rest :) (congrArg State.fac h.rest :) o w sub ?_
  rintro ⟨q, hq, hkey⟩
  obtain ⟨hobj, -, hs⟩ := entryKey_inj hw (show q < Obj.size .link from hq) hsub (by decide) hkey
  exact hne.elim (· hobj) (· hs)

theorem inbox (h : KmpFrame u t) : t.net.inbox = u.net.inbox := (congrArg (fun x => x.net.inbox) h.rest :)
theorem stages (h : KmpFrame u t) : t.stages = u.stages := (congrArg State.stages h.rest :)
theorem stage (h : KmpFrame u t) (n : Nat) : t.stage n = u.stage n := congrArg (fun l => Sparse.get l n Stage.empty) h.stages
theorem queries (h : KmpFrame u t) : t.queries = u.queries := (congrArg State.queries h.rest :)
theorem takeMem (h : KmpFrame u t) : t.takeMem = u.takeMem := (congrArg State.takeMem h.rest :)
theorem blobs (h : KmpFrame u t) : t.blobs = u.blobs := (congrArg State.blobs h.rest :)

end KmpFrame

theorem kmpAnswered_sessions (u : State) (rx : Rx) (m : Kmp) (c : Code) (body : Bytes) :
    (kmpAnswered u rx m c body).net.sessions = (keepAnswer u m.ses m.tid c body).net.sessions :=
  (congrArg NetSt.sessions (reply_frame (keepAnswer u m.ses m.tid c body) rx _).net :)

/-- The session keeps the answer behind those it kept, eight in all. -/
theorem kmpAnswered_session (h : Sparse.find u.net.sessions m.ses = some k) : Sparse.find (kmpAnswered u rx m c body).net.sessions m.ses =
    some { k with kept := lastN 8 (k.kept ++ [(m.tid, c.num, body)]) } := by
  rw [kmpAnswered_sessions]
  unfold keepAnswer
  rw [h]
  exact Sparse.find_put_same ..

theorem getLast?_lastN_concat {α : Type} (l : List α) (x : α) : (lastN 8 (l ++ [x])).getLast? = some x := by
  unfold lastN
  rw [List.getLast?_drop, if_neg (by simp), List.getLast?_concat]

/-- What served the request left its count, the inbox and its session: the answer is then as R495 says. -/
theorem kmpOut_of_served {k' : Sess} (hcount : u.num .kmp 0 2 = (s.opened i rx m k).num .kmp 0 2)
    (hinbox : u.net.inbox = (s.opened i rx m k).net.inbox) (hses : Sparse.find u.net.sessions m.ses = some k') (c : Code)
    (body : Bytes) : KmpOut s (kmpAnswered u rx m c body) i m c body := by
  have hframe := kmpAnswered_frame u rx m c body
  refine ⟨?_, hframe.inbox.trans hinbox, ?_⟩
  · rw [Counted, hframe.num (by decide) (by decide) (.inl (by decide)), hcount]
    exact num_bump_same ..
  · rw [kmpAnswered_session hses]
    exact getLast?_lastN_concat ..

theorem opened_session (s : State) (i : Nat) (rx : Rx) (m : Kmp) (k : Sess) :
    Sparse.find (s.opened i rx m k).net.sessions m.ses = some { k with last := max k.last rx.tick } := Sparse.find_put_same ..

theorem opened_num (s : State) (i : Nat) (rx : Rx) (m : Kmp) (k : Sess) {o : Obj} {w sub : Nat} (ho : o ≠ .kmp) (hw : w < o.size)
    (hsub : sub < 256) : (s.opened i rx m k).num o w sub = s.num o w sub :=
  num_bump_ne (putSess (dropInbox s i) m.ses { k with last := max k.last rx.tick })
    (entryKey_obj_ne (p := .kmp) (w := 0) (b := 2) ho hw (by decide) hsub (by decide)) 1

/-- A session whose request is served may write. -/
theorem opened_serves (h : KmpIn s p i rx m k) (hphase : 3 ≤ phase s) : (s.opened i rx m k).serves m.ses := by
  refine ⟨?_, ?_⟩
  · unfold sessionOpen
    rw [opened_session, decide_eq_true (show m.ses < 15 by omega)]
    simp
  · rw [phase, State.nat, opened_num _ _ _ _ _ (by decide) (by decide) (by decide)]
    exact hphase

/-! A write that a request asks for. -/

/-- A write that a request asks for, of an entry that is not retained, does its action and answers so. -/
theorem Accepted.written {o : Obj} {w : Nat} {e : Entry} {n : Int} (h : Accepted s ses o w sub e bs n) (hr : e.ret = false)
    (hact : writeAction s ses o w sub n bs = (t, c)) :
    ∃ x, serveWrite s ses (o.index w) sub bs = (x, c) ∧ x.net = t.net ∧ x.stages = t.stages ∧ x.queries = t.queries ∧
      ∀ (o : Obj) (w sub : Nat), o ≠ .answers → w < o.size → sub < 256 → x.num o w sub = t.num o w sub := by
  have htried : tryWrite s ses (o.index w) sub bs = (t, c) := by
    obtain ⟨hs, hu, hh, ⟨hentry, hro, hrws, htake, hband, h0⟩, hfit, hvalue, huse, hfield⟩ := h
    rw [tryWrite_served hs hu hh h0 hentry hro hfit.1 hfit.2]
    unfold writeEntry
    dsimp only
    rw [if_neg (by rintro (h | h); exacts [hrws h, htake h])]
    simp only [huse, hvalue, hfield, hact, noteRetained_volatile t hentry hr, ite_self]
  refine ⟨if t.power.inReset then t else answer t c, ?_, ?_⟩
  · unfold serveWrite
    rw [htried]
  · split
    · exact ⟨rfl, rfl, rfl, fun _ _ _ _ _ _ => rfl⟩
    · exact ⟨rfl, rfl, rfl, fun o w sub ho hw hsub => answer_num t c ho hw hsub⟩

/-! The FENCE operations (R496). -/

theorem fenceRequest_writes {op : Nat} {v : Bytes} (hlen : m.body.length = 12) (hop : leAt m.body 0 1 = op) (hzero : leAt m.body 1 3 = 0)
    (hlow : 1 ≤ op) (hhigh : op ≤ 3) (hv : (if op = 2 then slice m.body 4 8 else [1]) = v)
    (hwrite : serveWrite s m.ses 0x1300 op v = (t, .success)) :
    fenceRequest s m = (t, some (.success, leBytes 8 (if op = 2 then t.nat .session m.ses 4 else 0))) := by
  unfold fenceRequest
  simp only [hlen, hop, hzero, hv, hwrite, ne_eq, not_true_eq_false, or_self, if_false, Nat.not_lt.mpr hlow, Nat.not_lt.mpr hhigh,
    and_true]

theorem fence_accepted {e : Entry} {n : Int} (hs : s.serves ses) (he : Plain .fence 0 sub e) (hfit : Fits e bs)
    (hvalue : (if e.ty.isBytes then 0 else e.ty.decode bs) = n) (hfield : fieldCheck s .fence 0 sub n bs = none) :
    Accepted s ses .fence 0 sub e bs n :=
  ⟨hs, by decide, has_of_present (by decide) rfl, he, hfit, hvalue, rfl, hfield⟩

/-- A session that has entered held mode (R432). -/
def heldOpened (s : State) (ses : Nat) : State :=
  let g := s.stage ses
  (s.putStage ses { g with held := true, set := [], opened := s.now }).setNum .session ses 3 s.now

theorem openHeld_opens (h : (s.stage ses).held = false) : openHeld s ses 1 = (heldOpened s ses, .success) := by
  unfold openHeld
  simp only [h, ne_eq, not_true_eq_false, Bool.false_eq_true, if_false]
  rfl

theorem abandonHeld_drops (h : (s.stage ses).held = true) : abandonHeld s ses 1 = (abandonSet s ses, .success) := by
  unfold abandonHeld
  simp [h]

/-- The held set becomes a pending set of tick e (R433). -/
def committed (s : State) (ses e : Nat) : State :=
  let g := s.stage ses
  let s := s.putStage ses { g with held := false, set := [], pend := g.pend ++ [⟨e, s.order, g.set⟩] }
  (({ s with order := s.order + 1 }).setNum .session ses 4 e).setNum .session ses 5 1

theorem commitHeld_atOnce (h : (s.stage ses).held = true) :
    commitHeld s ses 0 = (committed s ses (ceilTo 24576 (s.now + s.nat .fence 0 4)), .success) := by
  unfold commitHeld commitTick
  simp only [h, Bool.not_true, Bool.false_eq_true, if_false, if_true]
  rfl

end Sys2Proof.Machine
end

section
/-! PROOFS. Sessions, FENCE and the requests without a session (R494, R496, R497). -/

namespace Sys2Proof.Machine

open Sys2Proof

variable {s t : State} {i n : Nat} {rx : Rx} {m : Kmp} {k : Sess} {p : Kmp → Bool}

/-- A request taken from the inbox and counted (R495). -/
abbrev State.asked (s : State) (i : Nat) : State := (dropInbox s i).bump .kmp 0 2 1

theorem asked_nat (s : State) (i : Nat) {o : Obj} {w sub : Nat} (ho : o ≠ .kmp) (hw : w < o.size) (hsub : sub < 256) :
    (s.asked i).nat o w sub = s.nat o w sub :=
  congrArg Int.toNat (num_bump_ne (dropInbox s i) (entryKey_obj_ne (p := .kmp) (w := 0) (b := 2) ho hw (by decide) hsub (by decide)) 1)

theorem sendAnswer_frame (r : Served) (rx : Rx) (m : Kmp) (ses : Nat) : PortFrame r.1 (sendAnswer r rx m ses) := by
  unfold sendAnswer
  split
  · exact reply_frame _ _ _
  · exact .refl _

/-- What serves a request without a session starts from the request taken and counted. -/
theorem PortFrame.asked {u : State} (h : PortFrame u t) (hcount : u.num .kmp 0 2 = (s.asked i).num .kmp 0 2)
    (hinbox : u.net.inbox = (s.asked i).net.inbox) : Counted s t .kmp 0 2 1 ∧ t.net.inbox = s.net.inbox.eraseIdx i := by
  refine ⟨?_, h.inbox.trans hinbox⟩
  rw [Counted, h.num (by decide) (by decide) (.inl (by decide)), hcount]
  exact num_bump_same ..

theorem serveRequest_plain {use : SesUse} {run : State → Rx → Kmp → Served} (h : inboxReq s p = some (i, rx, m))
    (huse : use = .none_ ∨ use = .optional ∧ m.ses = 0) :
    ∃ ses, serveRequest s p use run = sendAnswer (run (s.asked i) rx m) rx m ses := by
  unfold serveRequest
  rw [h]
  rcases huse with rfl | ⟨rfl, hses⟩
  · exact ⟨m.ses, rfl⟩
  · exact ⟨0, by simp [hses]⟩

/-! Sessions (R494). -/

theorem mem_freeSessions : n ∈ freeSessions s ↔ (1 ≤ n ∧ n ≤ 14) ∧ Sparse.find s.net.sessions n = none := by
  unfold freeSessions
  rw [List.mem_filter, List.mem_map, Option.isNone_iff_eq_none]
  refine and_congr_left fun _ => ⟨?_, fun ⟨hlow, hhigh⟩ => ⟨n - 1, List.mem_range.mpr (by omega), by omega⟩⟩
  rintro ⟨j, hj, rfl⟩
  have := List.mem_range.mp hj
  omega

/-- The session that a request is given among those that are free. -/
def picked (s : State) : Nat := (freeSessions s).getD ((Config.sessionPick s.free).toNat % max 1 (freeSessions s).length) 0

theorem picked_free (h : freeSessions s ≠ []) : picked s ∈ freeSessions s := by
  have hlen : 0 < (freeSessions s).length := List.length_pos_iff.mpr h
  have hlt : (Config.sessionPick s.free).toNat % max 1 (freeSessions s).length < (freeSessions s).length := by
    rw [Nat.max_eq_right hlen]
    exact Nat.mod_lt _ hlen
  unfold picked
  rw [List.getD_eq_getElem _ _ hlt]
  exact List.getElem_mem hlt

/-- A session opens with what its request says. -/
def sessionAsked (s : State) (m : Kmp) : Sess := { timeout := leAt m.body 0 2, tag := leAt m.body 4 8, last := s.now, kept := [], asm := none }

theorem openSession_opens (hlen : m.body.length = 12) (hzero : leAt m.body 2 2 = 0) (hlow : 1 ≤ leAt m.body 0 2)
    (hhigh : leAt m.body 0 2 ≤ 3600) (hfree : freeSessions s ≠ []) :
    PortFrame (putSess s.draw (picked s) (sessionAsked s m)) (openSession s rx m) := by
  have hpick : picked s ≠ 0 := Nat.ne_of_gt (mem_freeSessions.mp (picked_free hfree)).1.1
  unfold openSession
  dsimp only
  rw [if_neg (by simp [hlen, hzero]), if_neg (by omega)]
  change PortFrame _ (if picked s = 0 then _ else sendAnswer (putSess s.draw (picked s) (sessionAsked s m), _) rx m (picked s))
  rw [if_neg hpick]
  exact sendAnswer_frame (_, _) _ _ _

theorem openSession_exhausted (hlen : m.body.length = 12) (hzero : leAt m.body 2 2 = 0) (hlow : 1 ≤ leAt m.body 0 2)
    (hhigh : leAt m.body 0 2 ≤ 3600) (hfree : freeSessions s = []) : PortFrame s (openSession s rx m) := by
  unfold openSession
  dsimp only
  rw [if_neg (by simp [hlen, hzero]), if_neg (by omega), if_pos (by rw [hfree]; rfl)]
  exact sendAnswer_frame (_, _) _ _ _

theorem exec_openSession (h : inboxReq s (fun m => m.ty == 0x05) = some (i, rx, m)) :
    exec .openSession s = .next (openSession (s.asked i) rx m) := by
  show execOpenSession s = _
  unfold execOpenSession
  rw [h]

/-- Entries with different subindices have different keys, whatever their units. -/
theorem entryKey_ne_of_sub {o q : Obj} {w v a b : Nat} (ha : a < 256) (hb : b < 256) (h : a ≠ b) : entryKey o w a ≠ entryKey q v b := by
  unfold entryKey
  omega

theorem abandonSet_kmp (s : State) (ses : Nat) : (abandonSet s ses).num .kmp 0 4 = s.num .kmp 0 4 := by
  unfold abandonSet
  dsimp only
  split
  · rw [raise_num_sub _ _ _ _ (by decide) (by decide), num_bump_ne _ (entryKey_ne_of_sub (by decide) (by decide) (by decide)),
      num_setNum_ne _ (entryKey_ne_of_sub (by decide) (by decide) (by decide))]
    rfl
  · rfl

theorem closeSes_shows (s : State) (n : Nat) : Sparse.find (closeSes s n).net.sessions n = none ∧
    Sparse.find (closeSes s n).queries n = none ∧ ((closeSes s n).stage n).held = false ∧
      (closeSes s n).num .kmp 0 4 = s.num .kmp 0 4 :=
  ⟨Sparse.find_del_same _ n, Sparse.find_del_same _ n, abandonSet_unheld s n, abandonSet_kmp s n⟩

theorem exec_sessionExpiry_closes
    (h : s.net.sessions.find? (fun p => decide (p.2.last + p.2.timeout * 24576000 ≤ s.now)) = some (n, k)) :
    exec .sessionExpiry s = .next (raise ((closeSes s n).bump .kmp 0 4 1) 76 1 n) := by
  show execSessionExpiry s = _
  unfold execSessionExpiry
  rw [h]

/-! FENCE (R496): what each operation leaves. -/

theorem abandonSet_drops {ses : Nat} (hheld : (s.stage ses).held = true) :
    (abandonSet s ses).net = s.net ∧ ((abandonSet s ses).stage ses).set = [] ∧ Counted s (abandonSet s ses) .session ses 10 1 ∧
      (abandonSet s ses).num .kmp 0 2 = s.num .kmp 0 2 := by
  have hother : entryKey .kmp 0 2 ≠ entryKey .session ses 10 := entryKey_ne_of_sub (by decide) (by decide) (by decide)
  unfold abandonSet
  dsimp only
  rw [if_pos hheld, Counted, raise_num_sub _ _ _ _ (by decide) (by decide), raise_num_sub _ _ _ _ (by decide) (by decide),
    num_bump_same, num_bump_ne _ hother, num_setNum_sub _ _ _ (by decide),
    num_setNum_ne _ (entryKey_ne_of_sub (by decide) (by decide) (by decide)), raise_net]
  refine ⟨rfl, ?_, rfl, rfl⟩
  show Stage.set (Sparse.get (raise _ 72 2 ses).stages ses Stage.empty) = []
  rw [raise_stages]
  exact congrArg Stage.set (State.putStage_same s ses { s.stage ses with held := false, set := [] })

theorem heldOpened_shows (s : State) (ses : Nat) : ((heldOpened s ses).stage ses).held = true ∧
    ((heldOpened s ses).stage ses).set = [] ∧ (heldOpened s ses).num .kmp 0 2 = s.num .kmp 0 2 := by
  have hstage : (heldOpened s ses).stage ses = { s.stage ses with held := true, set := [], opened := s.now } :=
    State.putStage_same s ses { s.stage ses with held := true, set := [], opened := s.now }
  refine ⟨congrArg Stage.held hstage, congrArg Stage.set hstage, ?_⟩
  exact num_setNum_ne _ (entryKey_ne_of_sub (by decide) (by decide) (by decide)) _

theorem committed_shows (s : State) (ses e : Nat) :
    (committed s ses e).num .session ses 4 = (entryTy .session ses 4).narrow (e : Int) ∧ (committed s ses e).stage ses =
      { s.stage ses with held := false, set := [], pend := (s.stage ses).pend ++ [⟨e, s.order, (s.stage ses).set⟩] } ∧
      (committed s ses e).num .kmp 0 2 = s.num .kmp 0 2 := by
  refine ⟨(num_setNum_sub _ _ _ (by decide) _).trans (num_setNum_same ..), State.putStage_same s ses _, ?_⟩
  unfold committed
  rw [num_setNum_ne _ (entryKey_ne_of_sub (by decide) (by decide) (by decide)),
    num_setNum_ne _ (entryKey_ne_of_sub (by decide) (by decide) (by decide))]
  rfl

/-! Requests without a session (R497). -/

theorem slateRequest_lists {a : Nat} (hanchor : anchored s = true) (hlead : s.now + s.nat .slate 0 4 ≤ a) : slateRequest s a =
    (s.modClk (fun c => { c with slates := if c.slates.contains a then c.slates else c.slates ++ [a] }), .success) :=
  if_pos ⟨hanchor, hlead⟩

theorem mem_listed (l : List Nat) (a : Nat) : a ∈ (if l.contains a then l else l ++ [a]) := by
  split
  · next h => exact List.contains_iff_mem.mp h
  · exact List.mem_append_right _ (List.mem_singleton_self a)

/-- How a SLATE command is served (R497). -/
def slateServed (s : State) (rx : Rx) (m : Kmp) : Served :=
  if m.body.length ≠ 8 then (s, some (.malformed, []))
  else if s.isManager ∨ rx.frame.src ≠ s.net.mgrMac then (s, some (.access, []))
  else let (s, c) := slateRequest s (leNat m.body); (s, some (c, []))

theorem slateServed_accepts {c : Code} (hlen : m.body.length = 8) (hworker : s.isManager = false) (hsrc : rx.frame.src = s.net.mgrMac)
    (h : slateRequest s (leNat m.body) = (t, c)) : slateServed s rx m = (t, some (c, [])) := by
  unfold slateServed
  simp only [hlen, hworker, hsrc, h, ne_eq, not_true_eq_false, Bool.false_eq_true, or_self, if_false]

/-- How a take trigger is served (R272, R497). -/
def triggerServed (s : State) (rx : Rx) (m : Kmp) : Served :=
  let t := leAt m.body 0 1
  let zone := m.ident == allHubs
  let c : Code := if m.body.length ≠ 16 ∨ leAt m.body 1 7 ≠ 0 then .malformed else if 16 ≤ t then .outOfRange else .success
  let s := if c = .success then netTrigger s t (leAt m.body 8 8) else s
  let s := if zone ∧ s.isManager = true ∧ rx.port = 2 ∧ c = .success then
      [0, 1].foldl (fun s p => sendKmp s p zoneGroup { m with flags := setBit m.flags 1 }) s else s
  (s, if zone then none else some (c, []))

theorem netTrigger_rest (s : State) (k a : Nat) : { netTrigger s k a with takes := s.takes } = s := deliver_same s _ _ _

theorem triggerServed_worker {k : Nat} (hworker : s.isManager = false) (hlen : m.body.length = 16) (htake : leAt m.body 0 1 = k)
    (hzero : leAt m.body 1 7 = 0) (hk : k < 16) : (triggerServed s rx m).1 = netTrigger s k (leAt m.body 8 8) := by
  have hrole : (netTrigger s k (leAt m.body 8 8)).isManager = false := by
    rw [← hworker]
    exact (congrArg State.isManager (netTrigger_rest s k (leAt m.body 8 8)) :)
  unfold triggerServed
  simp only [hlen, htake, hzero, Nat.not_le.mpr hk, ne_eq, not_true_eq_false, or_self, if_false, if_true, hrole, Bool.false_eq_true,
    false_and, and_false]

/-- Settles O42: a session opens, expires and holds its set, and the requests that need none are served. -/
theorem fenceRequestsAndSessionsOfKmp : Obligations.FenceRequestsAndSessionsOfKmp := by
  unfold Obligations.FenceRequestsAndSessionsOfKmp
  refine ⟨?opens, ?exhausted, ?expires, ?openSet, ?commit, ?abandon, ?slate, ?trigger⟩
  case opens =>
    intro s i rx m h hlen hzero hlow hhigh hfree
    have hsent := openSession_opens (s := s.asked i) (rx := rx) hlen hzero hlow hhigh hfree
    obtain ⟨hcount, hinbox⟩ := hsent.asked (s := s) rfl rfl
    refine ⟨_, exec_openSession h, ?_, hcount, hinbox, (congrArg State.free hsent.rest :)⟩
    refine List.any_eq_true.mpr ⟨picked (s.asked i), picked_free hfree, beq_iff_eq.mpr ?_⟩
    rw [show (openSession (s.asked i) rx m).net.sessions = _ from (congrArg NetSt.sessions hsent.net :)]
    exact Sparse.find_put_same ..
  case exhausted =>
    intro s i rx m h hlen hzero hlow hhigh hfree
    have hsent := openSession_exhausted (s := s.asked i) (rx := rx) hlen hzero hlow hhigh hfree
    obtain ⟨hcount, -⟩ := hsent.asked (s := s) rfl rfl
    exact ⟨_, exec_openSession h, (congrArg NetSt.sessions hsent.net :), hcount, (congrArg State.free hsent.rest :)⟩
  case expires =>
    intro s n k h
    obtain ⟨hgone, -, hheld, hnum⟩ := closeSes_shows s n
    refine ⟨_, exec_sessionExpiry_closes h, ?_, ?_, ?_⟩
    · rw [raise_net]
      exact hgone
    · rw [Counted, raise_num_sub _ _ _ _ (by decide) (by decide), num_bump_same, hnum]
    · show Stage.held (Sparse.get (raise _ 76 1 n).stages n Stage.empty) = false
      rw [raise_stages]
      exact hheld
  case openSet =>
    intro s i rx m k h hlen hop hphase hheld
    obtain ⟨hop, hzero⟩ := leAt_small (n := 3) hop (by decide)
    have hok : Accepted (s.opened i rx m k) m.ses .fence 0 1 ⟨1, 1, "Open set", .u8, .wo, false, .calc, .rng 1 1⟩ [1] 1 :=
      fence_accepted (opened_serves h hphase) ⟨rfl, by decide⟩ ⟨rfl, rfl⟩ rfl rfl
    obtain ⟨x, hwrite, hnet, hstages, -, hnum⟩ := hok.written rfl (openHeld_opens hheld)
    obtain ⟨hopened, hset, hkmp⟩ := heldOpened_shows (s.opened i rx m k) m.ses
    have hstage (body : Bytes) (n : Nat) : (kmpAnswered x rx m .success body).stage n = (heldOpened (s.opened i rx m k) m.ses).stage n :=
      ((kmpAnswered_frame x rx m .success body).stage n).trans (congrArg (fun l => Sparse.get l n Stage.empty) hstages)
    refine ⟨_, congrArg Host.Outcome.next (serveRequest_serves h (by decide)
      (fenceRequest_writes hlen hop hzero (by decide) (by decide) rfl hwrite)), ?_, ?_, ?_⟩
    · exact kmpOut_of_served ((hnum _ _ _ (by decide) (by decide) (by decide)).trans hkmp) (congrArg NetSt.inbox hnet)
        (hnet ▸ opened_session s i rx m k) _ _
    · exact (congrArg Stage.held (hstage _ m.ses)).trans hopened
    · exact (congrArg Stage.set (hstage _ m.ses)).trans hset
  case commit =>
    intro s i rx m k h hlen hop hnow hphase hheld
    obtain ⟨hop, hzero⟩ := leAt_small (n := 3) hop (by decide)
    have hses : m.ses < 16 := by have := h.2.2.1; omega
    have hok : Accepted (s.opened i rx m k) m.ses .fence 0 2 ⟨2, 2, "Commit at tick", .grid, .wo, false, .calc, .any⟩
        (slice m.body 4 8) 0 :=
      fence_accepted (opened_serves h hphase) ⟨rfl, by decide⟩ ⟨show ((slice m.body 4 8).length != 8) = false by simp [slice, hlen], rfl⟩ (congrArg Int.ofNat hnow) rfl
    obtain ⟨x, hwrite, hnet, hstages, -, hnum⟩ := hok.written rfl (commitHeld_atOnce (s := s.opened i rx m k) hheld)
    have hlead : (s.opened i rx m k).nat .fence 0 4 = s.nat .fence 0 4 :=
      congrArg Int.toNat (opened_num s i rx m k (by decide) (by decide) (by decide))
    rw [hlead] at hstages hnum hnet
    obtain ⟨htick, hstage, hkmp⟩ := committed_shows (s.opened i rx m k) m.ses (ceilTo 24576 (s.now + s.nat .fence 0 4))
    have hshown (body : Bytes) : (kmpAnswered x rx m .success body).num .session m.ses 4 = x.num .session m.ses 4 :=
      (kmpAnswered_frame x rx m .success body).num hses (by decide) (.inl (by decide))
    have hpending (body : Bytes) := ((kmpAnswered_frame x rx m .success body).stage m.ses).trans
      ((congrArg (fun l => Sparse.get l m.ses Stage.empty) hstages).trans hstage)
    refine ⟨_, congrArg Host.Outcome.next (serveRequest_serves h (by decide)
      (fenceRequest_writes hlen hop hzero (by decide) (by decide) rfl hwrite)), ?_, ?_, ?_, ?_⟩
    · rw [show State.nat (kmpAnswered _ _ _ _ _) .session m.ses 4 = _ from congrArg Int.toNat (hshown _)]
      exact kmpOut_of_served ((hnum _ _ _ (by decide) (by decide) (by decide)).trans hkmp) (congrArg NetSt.inbox hnet)
        (hnet ▸ opened_session s i rx m k) _ _
    · exact (hshown _).trans ((hnum _ _ _ (by decide) hses (by decide)).trans htick)
    · exact (congrArg Stage.held (hpending _) :)
    · exact (congrArg Stage.pend (hpending _) :)
  case abandon =>
    intro s i rx m k h hlen hop hphase hheld
    obtain ⟨hop, hzero⟩ := leAt_small (n := 3) hop (by decide)
    have hses : m.ses < 16 := by have := h.2.2.1; omega
    have hok : Accepted (s.opened i rx m k) m.ses .fence 0 3 ⟨3, 3, "Abandon", .u8, .wo, false, .calc, .rng 1 1⟩ [1] 1 :=
      fence_accepted (opened_serves h hphase) ⟨rfl, by decide⟩ ⟨rfl, rfl⟩ rfl rfl
    obtain ⟨x, hwrite, hnet, hstages, -, hnum⟩ := hok.written rfl (abandonHeld_drops (s := s.opened i rx m k) hheld)
    obtain ⟨hdropNet, hset, hcount, hkmp⟩ := abandonSet_drops (s := s.opened i rx m k) hheld
    have hframe (body : Bytes) := kmpAnswered_frame x rx m .success body
    have hstage (body : Bytes) (n : Nat) : (kmpAnswered x rx m .success body).stage n =
        (abandonSet (s.opened i rx m k) m.ses).stage n :=
      ((hframe body).stage n).trans (congrArg (fun l => Sparse.get l n Stage.empty) hstages)
    have hnet := hnet.trans hdropNet
    refine ⟨_, congrArg Host.Outcome.next (serveRequest_serves h (by decide)
      (fenceRequest_writes hlen hop hzero (by decide) (by decide) rfl hwrite)), ?_, ?_, ?_, ?_⟩
    · exact kmpOut_of_served ((hnum _ _ _ (by decide) (by decide) (by decide)).trans hkmp) (congrArg NetSt.inbox hnet)
        (hnet ▸ opened_session s i rx m k) _ _
    · exact (congrArg Stage.held (hstage _ _)).trans (abandonSet_unheld _ _)
    · exact (congrArg Stage.set (hstage _ _)).trans hset
    · rw [Counted, (hframe _).num hses (by decide) (.inl (by decide)), hnum _ _ _ (by decide) hses (by decide), hcount,
        opened_num s i rx m k (by decide) hses (by decide)]
  case slate =>
    intro s i rx m hworker h hlen hsrc hanchor hlead
    have hanchored : anchored (s.asked i) = true := by
      rw [← hanchor]
      exact congrArg (fun v => v != 0 && _) (asked_nat s i (by decide) (by decide) (by decide))
    have hrole : (s.asked i).isManager = false := by
      rw [← hworker]
      exact congrArg (· == 1) (asked_nat s i (by decide) (by decide) (by decide))
    have hrequest := slateRequest_lists (s := s.asked i) (a := leNat m.body) hanchored
      (by rw [asked_nat s i (by decide) (by decide) (by decide)]; exact hlead)
    obtain ⟨ses, hserved⟩ := serveRequest_plain (run := slateServed) h (.inl rfl)
    have hran := slateServed_accepts (s := s.asked i) hlen hrole hsrc hrequest
    have hsent := sendAnswer_frame (slateServed (s.asked i) rx m) rx m ses
    rw [hran] at hsent
    obtain ⟨hcount, hinbox⟩ := hsent.asked (s := s) rfl rfl
    refine ⟨_, congrArg Host.Outcome.next hserved, ?_, ?_⟩
    · rw [hran, hsent.clk]
      exact mem_listed _ _
    · rw [hran]
      exact ⟨hcount, hinbox⟩
  case trigger =>
    intro s i rx m hworker h hses hlen htake hsel
    obtain ⟨htake', hzero⟩ := leAt_small (n := 7) (v := leAt m.body 0 8) rfl (by omega)
    have hrole : (s.asked i).isManager = false := by
      rw [← hworker]
      exact congrArg (· == 1) (asked_nat s i (by decide) (by decide) (by decide))
    obtain ⟨ses, hserved⟩ := serveRequest_plain (run := triggerServed) h (.inr ⟨rfl, hses⟩)
    have hran := triggerServed_worker (s := s.asked i) (rx := rx) hrole hlen htake' hzero htake
    have hsent := sendAnswer_frame (triggerServed (s.asked i) rx m) rx m ses
    rw [hran] at hsent
    have hrest := netTrigger_rest (s.asked i) (leAt m.body 0 8) (leAt m.body 8 8)
    obtain ⟨hcount, hinbox⟩ := hsent.asked (s := s) (congrArg (State.num · .kmp 0 2) hrest :) (congrArg (fun x => x.net.inbox) hrest :)
    refine ⟨_, congrArg Host.Outcome.next hserved, ?_, hcount, hinbox⟩
    have hsel : selMatches ((s.asked i).nat .take (leAt m.body 0 8) 5) .network = true := by
      rw [asked_nat s i (by decide) htake (by decide)]
      unfold selMatches
      simp [hsel]
    obtain ⟨o, ho, htick⟩ := deliver_holds (s.asked i) (if leAt m.body 8 8 < (s.asked i).now then (s.asked i).now else leAt m.body 8 8)
      htake hsel
    refine ⟨o, ?_, htick.trans ?_⟩
    · rw [show (sendAnswer (triggerServed (s.asked i) rx m) rx m ses).take (leAt m.body 0 8) = _ from
        (congrArg (State.take · (leAt m.body 0 8)) hsent.rest :)]
      exact ho
    · show (if leAt m.body 8 8 < s.now then s.now else leAt m.body 8 8) = _
      split <;> omega

end Sys2Proof.Machine
end

section
/-! PROOFS. The requests of an open session (R492 to R494): what each operation answers and leaves. -/

namespace Sys2Proof.Machine

open Sys2Proof

variable {s t : State} {i : Nat} {rx : Rx} {m : Kmp} {k : Sess} {bs : Bytes} {c : Code}

/-! READ (R492). -/

/-- How a READ is served. -/
def readServed (s : State) (rx : Rx) (m : Kmp) : Served :=
  match readEntries m.body with
  | none => (s, some (.malformed, []))
  | some es =>
    let (s, b) := readAll s (whoOf rx m) (answerRoom rx m - 24) es
    (s, some (.success, b))

/-- What reads leave: the network record and the counts of KMP. -/
abbrev ReadKeeps (s t : State) : Prop := t.net = s.net ∧ t.num .kmp 0 2 = s.num .kmp 0 2

theorem readOne_keeps (who room : Nat) (a : State × Bytes) (e : (Nat × Nat) × Nat) (later : Nat) :
    ReadKeeps a.1 (readOne who room a e later).1 := by
  unfold readOne
  dsimp only
  split
  · refine ⟨?_, serveRead_num _ _ _ _ (by decide) (by decide) (by decide)⟩
    rw [serveRead_state]
    rfl
  · exact ⟨rfl, answer_num _ _ (by decide) (by decide) (by decide)⟩

theorem readAll_keeps (s : State) (who room : Nat) (es : List (Nat × Nat)) : ReadKeeps s (readAll s who room es).1 := by
  unfold readAll
  refine List.foldlRecOn (motive := fun a : State × Bytes => ReadKeeps s a.1) _ _ ⟨rfl, rfl⟩ ?_
  rintro a ⟨hnet, hnum⟩ e -
  obtain ⟨gnet, gnum⟩ := readOne_keeps who room a e (es.length - 1 - e.2)
  exact ⟨gnet.trans hnet, gnum.trans hnum⟩

/-! WRITE (R492). -/

/-- How a WRITE is served. -/
def writeServed (s : State) (_rx : Rx) (m : Kmp) : Served :=
  let c := leAt m.body 0 1
  if c < 1 ∨ 32 < c ∨ leAt m.body 1 3 ≠ 0 then (s, some (.malformed, []))
  else match writeEntries c (m.body.drop 4) with
    | none => (s, some (.malformed, []))
    | some es =>
      let (s, cs) := writeAll s m.ses es
      (s, some (.success, padTo (ceilTo 4 (2 * cs.length)) (cs.flatMap (fun c => leBytes 2 c.num))))

theorem writeServed_miscounted (h : leAt m.body 0 1 = 0 ∨ 32 < leAt m.body 0 1) : writeServed s rx m = (s, some (.malformed, [])) := by
  unfold writeServed
  exact if_pos (by omega)

theorem writeServed_one {idx sub : Nat} (hlen : leAt m.body 0 4 = 1) (hentries : writeEntries 1 (m.body.drop 4) = some [(idx, sub, bs)])
    (hwrite : serveWrite s m.ses idx sub bs = (t, c)) : writeServed s rx m = (t, some (.success, padTo 4 (leBytes 2 c.num))) := by
  obtain ⟨hcount, hzero⟩ := leAt_small (n := 3) hlen (by decide)
  unfold writeServed
  simp only [hcount, hzero, hentries, writeAll, List.foldl_cons, List.foldl_nil, hwrite, List.nil_append, List.flatMap_singleton,
    List.length_singleton, ne_eq, not_true_eq_false, or_false, if_false, Nat.lt_irrefl, show ¬ 32 < 1 by decide,
    show ceilTo 4 (2 * 1) = 4 by decide]

/-- The query of the session, kept and answered (R529). -/
def queried (s : State) (ses : Nat) (bs : Bytes) : State := answer { s with queries := Sparse.put s.queries ses (leNat bs) } .success

theorem queried_shows (s : State) (ses : Nat) (bs : Bytes) : (queried s ses bs).net = s.net ∧
    (queried s ses bs).num .kmp 0 2 = s.num .kmp 0 2 ∧ Sparse.find (queried s ses bs).queries ses = some (leNat bs) ∧
      Counted s (queried s ses bs) .answers 0 1 1 :=
  ⟨rfl, answer_num _ _ (by decide) (by decide) (by decide), Sparse.find_put_same .., answer_counts _ .success⟩

theorem serveWrite_query {ses : Nat} (hs : s.serves ses) (hreset : s.power.inReset = false) (hlen : bs.length = 4)
    (hlow : leNat bs % 256 = 0) : serveWrite s ses 0x1030 1 bs = (queried s ses bs, .success) := by
  have hserved := (serveWrite_eq_serveObj (o := .describe) (u := 0) (by decide)).trans (descriptionQuery_keeps hs hreset hlen hlow)
  exact Prod.ext hserved (serveWrite_code hserved hreset)

/-! Blocks (R493). -/

/-- How a READ BLOCK is served. -/
def blockRead (s : State) (rx : Rx) (m : Kmp) : Served :=
  let b := m.body
  let idx := leAt b 2 2
  let sub := leAt b 4 1
  let off := leAt b 8 8
  let len := leAt b 16 2
  let deny := fun (c : Code) => ((answer s c, some (c, [])) : Served)
  if b.length ≠ 20 ∨ leAt b 1 1 ≠ 0 ∨ leAt b 5 3 ≠ 0 ∨ leAt b 18 2 ≠ 0 then (s, some (.malformed, []))
  else if len < 1 ∨ 1440 < len ∨ (answerRoom rx m = 1472 ∧ 1424 < len) then deny .outOfRange
  else match leAt b 0 1 with
    | 0 => let (s, c, v) := readObjectBlock s rx m idx sub off len; (s, some (c, v))
    | 1 =>
      if idx ≠ 0 ∨ sub ≠ 0 ∨ regionHeld s off len = false then deny .outOfRange
      else (answer s .success, some (.success,
        blockBody (regionSize s) off ((List.range len).map (fun i => regionLoad s (off + i)))))
    | _ => deny .outOfRange

/-- A READ BLOCK of kind 1 names the capture region, and no object. -/
theorem regionBlock_fields {b : Bytes} (h : leAt b 0 8 = 1) :
    leAt b 0 1 = 1 ∧ leAt b 1 1 = 0 ∧ leAt b 2 2 = 0 ∧ leAt b 4 1 = 0 ∧ leAt b 5 3 = 0 := by
  obtain ⟨hkind, h7⟩ := leAt_small (n := 7) h (by decide)
  obtain ⟨hfirst, h6⟩ := leAt_zero (n := 1) (l := 6) h7
  obtain ⟨hindex, h4⟩ := leAt_zero (n := 2) (l := 4) h6
  obtain ⟨hsub, h3⟩ := leAt_zero (n := 1) (l := 3) h4
  exact ⟨hkind, hfirst, hindex, hsub, h3⟩

theorem blockRead_region {off len : Nat} (hlen : m.body.length = 20) (hkind : leAt m.body 0 8 = 1) (hoff : off = leAt m.body 8 8)
    (hl : len = leAt m.body 16 2) (hzero : leAt m.body 18 2 = 0) (hlow : 1 ≤ len) (hhigh : len ≤ 1424)
    (hheld : regionHeld s off len = true) : blockRead s rx m = (answer s .success, some (.success,
      blockBody (regionSize s) off ((List.range len).map (fun i => regionLoad s (off + i))))) := by
  obtain ⟨hk, h1, h2, h4, h5⟩ := regionBlock_fields hkind
  unfold blockRead
  dsimp only
  rw [if_neg (by simp [hlen, h1, h5, hzero]), ← hl, ← hoff, if_neg (by omega), hk]
  exact if_neg (by simp [h2, h4, hheld])

theorem regionHeld_opened (off len : Nat) : regionHeld (s.opened i rx m k) off len = regionHeld s off len := by
  have hnat (sub : Nat) (hsub : sub < 256) : (s.opened i rx m k).nat .takeMem 0 sub = s.nat .takeMem 0 sub :=
    congrArg Int.toNat (opened_num s i rx m k (by decide) (by decide) hsub)
  unfold regionHeld
  rw [hnat 5 (by decide), hnat 6 (by decide)]
  rfl

/-- How a WRITE BLOCK is served. -/
def blockWrite (s : State) (_rx : Rx) (m : Kmp) : Served :=
  let b := m.body
  let idx := leAt b 0 2
  let sub := leAt b 2 1
  let total := leAt b 4 4
  let off := leAt b 8 4
  let len := leAt b 12 2
  let asm := (Sparse.find s.net.sessions m.ses).bind (·.asm)
  let held : Option Bytes := if off = 0 then some [] else match asm with
    | some (i, u, t, d) => if i = idx ∧ u = sub ∧ t = total ∧ d.length = off then some d else none
    | none => none
  if b.length ≠ 16 + ceilTo 4 len ∨ leAt b 3 1 ≠ 0 ∨ leAt b 14 2 ≠ 0 then (s, some (.malformed, []))
  else if len < 1 ∨ 1440 < len ∨ total < 1 ∨ 65535 < total then (answer s .outOfRange, some (.outOfRange, []))
  else match held with
    | none => (answer (putAsm s m.ses none) .blockSequence, some (.blockSequence, []))
    | some d =>
      let v := d ++ slice b 16 len
      if total < v.length then (answer (putAsm s m.ses none) .blockSequence, some (.blockSequence, []))
      else if v.length = total then
        let (s, c) := serveWrite (putAsm s m.ses none) m.ses idx sub v
        (s, some (c, []))
      else (putAsm s m.ses (some (idx, sub, total, v)), some (.success, []))

theorem le_ceilTo_four (n : Nat) : n ≤ ceilTo 4 n := by
  show n ≤ (n + 4 - 1) / 4 * 4
  omega

theorem blockWrite_first {total len : Nat} (htotal : total = leAt m.body 4 4) (hoff : leAt m.body 8 4 = 0) (hl : len = leAt m.body 12 2)
    (h3 : leAt m.body 3 1 = 0) (h14 : leAt m.body 14 2 = 0) (hlen : m.body.length = 16 + ceilTo 4 len) (hlow : 1 ≤ len)
    (hhigh : len ≤ 1440) (hmore : len < total) (hmax : total ≤ 65535) : blockWrite s rx m =
      (putAsm s m.ses (some (leAt m.body 0 2, leAt m.body 2 1, total, slice m.body 16 len)), some (.success, [])) := by
  have hpad := le_ceilTo_four len
  have hslice : (slice m.body 16 len).length = len := by
    unfold slice
    rw [List.length_take, List.length_drop, hlen]
    omega
  unfold blockWrite
  dsimp only
  rw [← htotal, ← hl, if_neg (by simp [hlen, h3, h14]), if_neg (by omega), if_pos hoff]
  simp only [List.nil_append, hslice, Nat.not_lt.mpr (Nat.le_of_lt hmore), Nat.ne_of_lt hmore, if_false]

theorem putAsm_session {a : Option (Nat × Nat × Nat × Bytes)} (h : Sparse.find s.net.sessions m.ses = some k) :
    putAsm s m.ses a = putSess s m.ses { k with asm := a } := by
  unfold putAsm
  rw [h]

theorem putSess_shows (s : State) (n : Nat) (k : Sess) : (putSess s n k).num .kmp 0 2 = s.num .kmp 0 2 ∧
    (putSess s n k).net.inbox = s.net.inbox ∧ Sparse.find (putSess s n k).net.sessions n = some k :=
  ⟨rfl, rfl, Sparse.find_put_same ..⟩

/-! Closing (R494). -/

theorem closeSes_kmp (s : State) (n : Nat) : (closeSes s n).num .kmp 0 2 = s.num .kmp 0 2 ∧ (closeSes s n).net.inbox = s.net.inbox := by
  have hdrop : (abandonSet s n).num .kmp 0 2 = s.num .kmp 0 2 ∧ (abandonSet s n).net = s.net := by
    by_cases hheld : (s.stage n).held = true
    · obtain ⟨hnet, -, -, hnum⟩ := abandonSet_drops hheld
      exact ⟨hnum, hnet⟩
    · rw [show abandonSet s n = s from if_neg hheld]
      exact ⟨rfl, rfl⟩
  exact ⟨hdrop.1, (congrArg NetSt.inbox hdrop.2 :)⟩

theorem keepAnswer_none {u : State} {n tid : Nat} {body : Bytes} (h : Sparse.find u.net.sessions n = none) :
    keepAnswer u n tid c body = u := by
  unfold keepAnswer
  rw [h]

/-- Settles O41: each request is served once, and its session keeps the answer. -/
theorem requestsOfASessionAreServedAndAnswered : Obligations.RequestsOfASessionAreServedAndAnswered := by
  unfold Obligations.RequestsOfASessionAreServedAndAnswered
  refine ⟨?read, ?readMalformed, ?query, ?writeMalformed, ?readBlock, ?writeBlock, ?close, ?keepalive⟩
  case read =>
    intro s i rx m k es h hes
    have hwho : whoOf rx m = m.ses := if_neg (Nat.ne_of_gt h.2.1)
    obtain ⟨hnet, hnum⟩ := readAll_keeps (s.opened i rx m k) m.ses (answerRoom rx m - 24) es
    have hran : readServed (s.opened i rx m k) rx m = ((readAll (s.opened i rx m k) m.ses (answerRoom rx m - 24) es).1,
        some (.success, (readAll (s.opened i rx m k) m.ses (answerRoom rx m - 24) es).2)) := by
      unfold readServed
      rw [hes, ← hwho]
    have hses := (congrArg (fun x => Sparse.find x.sessions m.ses) hnet).trans (opened_session s i rx m k)
    refine ⟨_, congrArg Host.Outcome.next (serveRequest_serves (run := readServed) h (by decide) hran), ?_, ?_⟩
    · exact kmpOut_of_served hnum (congrArg NetSt.inbox hnet) hses _ _
    · rw [kmpAnswered_session hses]
      rfl
  case readMalformed =>
    intro s i rx m k h hes
    have hran : readServed (s.opened i rx m k) rx m = (s.opened i rx m k, some (.malformed, [])) := by
      unfold readServed
      rw [hes]
    exact ⟨_, congrArg Host.Outcome.next (serveRequest_serves (run := readServed) h (by decide) hran),
      kmpOut_of_served rfl rfl (opened_session s i rx m k) _ _⟩
  case query =>
    intro s i rx m k v h hphase hreset hcount hentries hlen hlow
    have hwrite := serveWrite_query (opened_serves h hphase) hreset hlen hlow
    obtain ⟨hnet, hnum, hquery, hanswers⟩ := queried_shows (s.opened i rx m k) m.ses v
    generalize queried (s.opened i rx m k) m.ses v = u at *
    have hframe := kmpAnswered_frame u rx m .success (padTo 4 (leBytes 2 Code.success.num))
    have hses := (congrArg (fun x => Sparse.find x.sessions m.ses) hnet).trans (opened_session s i rx m k)
    refine ⟨_, congrArg Host.Outcome.next (serveRequest_serves (run := writeServed) h (by decide) (writeServed_one hcount hentries hwrite)),
      ?_, ?_, ?_⟩
    · exact kmpOut_of_served hnum (congrArg NetSt.inbox hnet) hses _ _
    · exact (congrArg (fun q => Sparse.find q m.ses) hframe.queries).trans hquery
    · rw [Counted, hframe.num (by decide) (by decide) (.inl (by decide)), hanswers,
        opened_num s i rx m k (by decide) (by decide) (by decide)]
  case writeMalformed =>
    intro s i rx m k h hcount
    have hframe := kmpAnswered_frame (s.opened i rx m k) rx m .malformed []
    exact ⟨_, congrArg Host.Outcome.next (serveRequest_serves (run := writeServed) h (by decide) (writeServed_miscounted hcount)),
      kmpOut_of_served rfl rfl (opened_session s i rx m k) _ _, hframe.blobs⟩
  case readBlock =>
    intro s i rx m k off len h hlen hkind hoff hl hzero hlow hhigh hheld
    have hran := blockRead_region (s := s.opened i rx m k) (rx := rx) hlen hkind hoff hl hzero hlow hhigh
      ((regionHeld_opened off len).trans hheld)
    have hblock : blockBody (regionSize (s.opened i rx m k)) off ((List.range len).map (fun j => regionLoad (s.opened i rx m k) (off + j))) =
        blockBody (regionSize s) off ((List.range len).map (fun j => regionLoad s (off + j))) := rfl
    rw [hblock] at hran
    have hnum : (answer (s.opened i rx m k) .success).num .kmp 0 2 = (s.opened i rx m k).num .kmp 0 2 :=
      answer_num _ _ (by decide) (by decide) (by decide)
    have hnet : (answer (s.opened i rx m k) .success).net = (s.opened i rx m k).net := rfl
    have hmem : (answer (s.opened i rx m k) .success).takeMem = s.takeMem := rfl
    generalize answer (s.opened i rx m k) .success = u at *
    have hses := (congrArg (fun x => Sparse.find x.sessions m.ses) hnet).trans (opened_session s i rx m k)
    exact ⟨_, congrArg Host.Outcome.next (serveRequest_serves (run := blockRead) h (by decide) hran),
      kmpOut_of_served hnum (congrArg NetSt.inbox hnet) hses _ _, (kmpAnswered_frame u rx m _ _).takeMem.trans hmem⟩
  case writeBlock =>
    intro s i rx m k total len h htotal hoff hl h3 h14 hlen hlow hhigh hmore hmax
    have hran := blockWrite_first (s := s.opened i rx m k) (rx := rx) htotal hoff hl h3 h14 hlen hlow hhigh hmore hmax
    rw [putAsm_session (opened_session s i rx m k)] at hran
    obtain ⟨hnum, hinbox, hses⟩ := putSess_shows (s.opened i rx m k) m.ses { { k with last := max k.last rx.tick } with
      asm := some (leAt m.body 0 2, leAt m.body 2 1, total, slice m.body 16 len) }
    generalize putSess (s.opened i rx m k) m.ses _ = u at *
    refine ⟨_, congrArg Host.Outcome.next (serveRequest_serves (run := blockWrite) h (by decide) hran), ?_, ?_⟩
    · exact kmpOut_of_served hnum hinbox hses _ _
    · rw [kmpAnswered_session hses]
      rfl
  case close =>
    intro s i rx m k h hbody
    have hran : (if m.body ≠ [] then (s.opened i rx m k, some (Code.malformed, []))
        else (closeSes (s.opened i rx m k) m.ses, some (.success, [])) : Served) = (closeSes (s.opened i rx m k) m.ses, some (.success, [])) :=
      if_neg (by simp [hbody])
    obtain ⟨hgone, hquery, hheld, -⟩ := closeSes_shows (s.opened i rx m k) m.ses
    obtain ⟨hnum, hinbox⟩ := closeSes_kmp (s.opened i rx m k) m.ses
    have hframe := kmpAnswered_frame (closeSes (s.opened i rx m k) m.ses) rx m .success []
    refine ⟨_, congrArg Host.Outcome.next (serveRequest_serves h (by decide) hran), ?_, ?_, ?_, ?_, ?_⟩
    · rw [Counted, hframe.num (by decide) (by decide) (.inl (by decide)), hnum]
      exact num_bump_same ..
    · exact hframe.inbox.trans hinbox
    · rw [kmpAnswered_sessions, keepAnswer_none hgone]
      exact hgone
    · exact (congrArg (fun q => Sparse.find q m.ses) hframe.queries).trans hquery
    · rw [hframe.stage]
      exact hheld
  case keepalive =>
    intro s i rx m k h hbody
    have hran : ((s.opened i rx m k, some (if m.body ≠ [] then Code.malformed else .success, [])) : Served) =
        (s.opened i rx m k, some (.success, [])) := by
      rw [if_neg (by simp [hbody])]
    refine ⟨_, congrArg Host.Outcome.next (serveRequest_serves h (by decide) hran), ?_, ?_⟩
    · exact kmpOut_of_served rfl rfl (opened_session s i rx m k) _ _
    · rw [kmpAnswered_session (opened_session s i rx m k)]
      rfl

end Sys2Proof.Machine
end

section
/-! PROOFS. What a manager takes and acknowledges (R362 to R370). -/

namespace Sys2Proof.Machine

open Sys2Proof

variable {s t : State} {k : AckSt} {i : Nat} {b : Bytes}

/-! Data received (R362, R365). -/

theorem exec_ksfDataReceived {good : Bool} (hmanager : s.isManager = true) (h : inboxData s = some (i, b, good)) :
    exec .ksfDataReceived s =
      .next (if good then takeFrame (dropInbox s i) b else (dropInbox s i).bump .mgrAck 0 8 1) := by
  have hrole : (dropInbox s i).isManager = true := hmanager
  show execKsfDataReceived s = _
  unfold execKsfDataReceived
  simp only [h, hrole, Bool.not_true, Bool.false_eq_true, if_false]
  cases good <;> rfl

/-- The frame of a hub is heard by every stream of that hub (R367). -/
def heardBy (s : State) (ident : Nat) : State :=
  s.modStrm (fun x => { x with acks := x.acks.map (fun y => if y.ident = ident then { y with heard := s.now } else y) })

theorem ackOf_heardBy {ident stream num : Nat} (h : s.ackOf ident stream num = some k) :
    (heardBy s ident).ackOf ident stream num = some { k with heard := s.now } := by
  have hident : k.ident = ident := by
    have hk := List.find?_some h
    simp only [Bool.and_eq_true, beq_iff_eq] at hk
    exact hk.1.1
  show ((s.strm.acks.map _).find? _) = _
  rw [List.find?_map]
  have hsame : ((fun x : AckSt => x.ident == ident && x.stream == stream && x.num == num) ∘
      fun y => if y.ident = ident then { y with heard := s.now } else y) =
      fun x => x.ident == ident && x.stream == stream && x.num == num := by
    funext y
    show (fun x : AckSt => x.ident == ident && x.stream == stream && x.num == num) (if _ then _ else _) = _
    split <;> rfl
  rw [hsame]
  refine (congrArg _ h).trans ?_
  rw [Option.map_some, if_pos hident]

/-- An item that its stream has accepted before is counted, and not accepted again. -/
theorem takeItem_again {pos ident stream num : Nat} {x : Item} (hann : x.isAnn = false) (h : s.ackOf ident stream num = some k)
    (hcurrent : k.current s = true) (hhas : k.has x.seq = true) : takeItem s pos ident stream num x = s.bump .mgrAck 0 7 1 := by
  unfold takeItem
  simp [hann, h, Option.filter, hcurrent, hhas]

theorem frameContent_one (h : leAt b 32 2 = 1) : ∃ x, frameContent b = [x] ∧ x.seq = leAt b 20 4 % 2 ^ 32 :=
  ⟨_, by unfold frameContent; rw [h]; rfl, rfl⟩

theorem takeFrame_again (hpos : atPosition s (leAt b 12 1) (leAt b 4 8) = true) (hty : leAt b 1 1 = 1) (hstream : leAt b 13 1 ≤ 15)
    (hone : leAt b 32 2 = 1) (h : s.ackOf (leAt b 4 8) (leAt b 13 1) (leAt b 16 4) = some k) (hhas : k.has (leAt b 20 4) = true)
    (hcurrent : k.current s = true) (hann : (frameContent b).all (fun x => !x.isAnn) = true) :
    takeFrame s b = (heardBy s (leAt b 4 8)).bump .mgrAck 0 7 1 := by
  have hrec : leAt b 13 1 ≠ recStream := by unfold recStream; omega
  have hheard := ackOf_heardBy h
  obtain ⟨x, hx, hseq⟩ := frameContent_one hone
  have hxann : x.isAnn = false := by simpa [hx] using hann
  have hlow : leAt b 20 4 < 2 ^ 32 := (leNat_lt _).trans_le (by
    refine (Nat.pow_le_pow_right (by decide) (show (slice b 20 4).length ≤ 4 by simp [slice])).trans (by decide))
  have hxhas : ({ k with heard := s.now } : AckSt).has x.seq = true := by
    rw [hseq, Nat.mod_eq_of_lt hlow]
    exact hhas
  have hitem := takeItem_again (s := heardBy s (leAt b 4 8)) (pos := leAt b 12 1) hxann hheard hcurrent hxhas
  have hstill : ((heardBy s (leAt b 4 8)).bump .mgrAck 0 7 1).ackOf (leAt b 4 8) (leAt b 13 1) (leAt b 16 4) =
      some { k with heard := s.now } := hheard
  have hgood : AckSt.current ((heardBy s (leAt b 4 8)).bump .mgrAck 0 7 1) { k with heard := s.now } = true := hcurrent
  unfold takeFrame
  dsimp only
  rw [if_neg (by simp [hpos, hty, hrec]; omega)]
  unfold heardBy at *
  simp only [hrec, false_and, if_false, hx, List.foldl_cons, List.foldl_nil, hitem, hstill, Option.filter, hgood, if_true,
    Option.isNone_some, Bool.false_eq_true]

/-! Acknowledgements (R366). -/

/-- What an ACK leaves with its stream. -/
def AckSt.told (k : AckSt) (now : Nat) : AckSt := { k with lastA := k.a, lastAcc := k.acc, ackAt := some now }

theorem modAck_only (h : s.strm.acks = [k]) (f : AckSt → AckSt) : (s.modAck k.ident k.stream k.num f).strm.acks = [f k] := by
  show s.strm.acks.map _ = _
  rw [h, List.map_singleton, if_pos ⟨rfl, rfl, rfl⟩]

theorem sendAck_only (h : s.strm.acks = [k]) :
    (sendAck s k).strm.acks = [k.told s.now] ∧ (sendAck s k).strm.ackLook = s.strm.ackLook := by
  unfold sendAck
  dsimp only
  generalize ksfControl _ _ = b
  have hsent := sendWorker_frame s k.ident b
  generalize sendWorker s k.ident b = u at *
  refine ⟨?_, (congrArg StrmSt.ackLook hsent.strm :)⟩
  rw [modAck_only (by rw [hsent.strm]; exact h)]
  rfl

theorem exec_ackInterval_told (hmanager : s.isManager = true) (hacks : s.strm.acks = [k]) (hlook : s.strm.ackLook ≠ some (ackBoundary s))
    (hcurrent : k.current s = true) (hnews : k.a ≠ k.lastA ∨ ackBits k.a k.acc ≠ ackBits k.lastA k.lastAcc) :
    exec .ackInterval s = .next (sendAck (s.modStrm (fun x => { x with ackLook := some (ackBoundary s) })) k) := by
  have hlist : (s.modStrm (fun x => { x with ackLook := some (ackBoundary s) })).strm.acks = [k] := hacks
  have hstill : k.current (s.modStrm (fun x => { x with ackLook := some (ackBoundary s) })) = true := hcurrent
  show execAckInterval s = _
  unfold execAckInterval
  dsimp only
  rw [if_neg (by rintro (h | h); exacts [absurd (hmanager.symm.trans h) (by decide), hlook h]), hlist, List.foldl_cons, List.foldl_nil]
  refine congrArg Host.Outcome.next (if_neg ?_)
  rintro (⟨ha, hbits⟩ | hold)
  · exact hnews.elim (· ha) (· hbits)
  · exact absurd (hstill.symm.trans hold) (by decide)

theorem exec_keepaliveAck_told (hmanager : s.isManager = true) (hacks : s.strm.acks = [k]) (hkeeps : k.keeps = true)
    (hcurrent : k.current s = true) (hnone : k.ackAt = none) : exec .keepaliveAck s = .next (sendAck s k) := by
  show execKeepaliveAck s = _
  unfold execKeepaliveAck
  rw [if_neg (by simp [hmanager]), hacks, List.foldl_cons, List.foldl_nil]
  exact congrArg Host.Outcome.next (if_pos ⟨hkeeps, hcurrent, by rw [hnone]⟩)

/-! Holes (R367). -/

theorem nackHoles_only {n a : Nat} {l : Option Nat} {due : Nat × Nat × Option Nat → Bool} (hacks : s.strm.acks = [k])
    (hcurrent : k.current s = true) (hn : n < 4294967296) (hholes : k.holes = [(n, a, l)]) (hdue : due (n, a, l) = true) :
    (nackHoles s k due).strm.acks = [{ k with holes := [(n, a, some s.now)] }] ∧ Counted s (nackHoles s k due) .mgrAck 0 9 1 := by
  have hsent : PortFrame (s.bump .mgrAck 0 9 1) (sendNack s k [(n, 1)]) := by
    unfold sendNack
    rw [if_neg (by simp)]
    exact sendWorker_frame _ _ _
  have hranges : (rangesOf (((k.holes.filter due).map (·.1)).insertionSort
      (fun x y => (x + 2 ^ 32 - k.a) % 2 ^ 32 ≤ (y + 2 ^ 32 - k.a) % 2 ^ 32))).take 64 = [(n, 1)] := by
    rw [hholes]
    simp [hdue, rangesOf]
  have hcontains : (rangeNumbers [(n, 1)]).contains n = true := by
    simp [rangeNumbers, Nat.mod_eq_of_lt hn]
  unfold nackHoles
  dsimp only
  rw [hranges, if_neg (by simp [hcurrent])]
  generalize sendNack s k [(n, 1)] = u at *
  refine ⟨?_, ?_⟩
  · rw [modAck_only (by rw [hsent.strm]; exact hacks), hholes]
    simp only [List.map_singleton, hcontains, if_true]
  · exact (hsent.num (by decide) (by decide) (.inl (by decide))).trans (num_bump_same ..)

/-- Settles O34: a manager counts each frame by what becomes of it, and an ACK or a NACK leaves its tick with the stream. -/
theorem aManagerAcknowledgesWhatItTakes : Obligations.AManagerAcknowledgesWhatItTakes := by
  unfold Obligations.AManagerAcknowledgesWhatItTakes
  refine ⟨?discarded, ?again, ?interval, ?keepalive, ?holdoff, ?retransmit⟩
  case discarded =>
    intro s i b hmanager h
    exact ⟨_, exec_ksfDataReceived hmanager h, num_bump_same (dropInbox s i) .mgrAck 0 8 1, rfl, rfl⟩
  case again =>
    intro s i b k hmanager h hpos hty hstream hone hack hhas hcurrent hann
    refine ⟨_, (exec_ksfDataReceived hmanager h).trans (congrArg Host.Outcome.next
      (takeFrame_again (s := dropInbox s i) hpos hty hstream hone hack hhas hcurrent hann)), ?_, ?_, rfl, rfl⟩
    · exact num_bump_same (heardBy (dropInbox s i) (leAt b 4 8)) .mgrAck 0 7 1
    · exact num_bump_ne (heardBy (dropInbox s i) (leAt b 4 8)) (by decide) 1
  case interval =>
    intro s k hmanager hacks hlook hcurrent hnews
    obtain ⟨htold, hnoted⟩ := sendAck_only (s := s.modStrm (fun x => { x with ackLook := some (ackBoundary s) })) hacks
    exact ⟨_, exec_ackInterval_told hmanager hacks hlook hcurrent hnews, htold, hnoted⟩
  case keepalive =>
    intro s k hmanager hacks hkeeps hcurrent hnone
    exact ⟨_, exec_keepaliveAck_told hmanager hacks hkeeps hcurrent hnone, sendAck_only hacks⟩
  case holdoff =>
    intro s k n a hmanager hacks hcurrent hn hholes hdue
    refine ⟨_, ?_, nackHoles_only hacks hcurrent hn hholes (due := fun h => h.2.2.isNone && decide (h.2.1 + usTicks (s.nat .mgrAck 0 2) ≤ s.now))
      (by simp [hdue])⟩
    show execNackHoldoffExpiry s = _
    unfold execNackHoldoffExpiry
    rw [if_neg (by simp [hmanager]), hacks, List.foldl_cons, List.foldl_nil]
  case retransmit =>
    intro s k n a u hmanager hacks hcurrent hn hholes hdue hheard
    refine ⟨_, ?_, nackHoles_only hacks hcurrent hn hholes (due := fun h => match h.2.2 with
          | some t => decide (t + msTicks (s.nat .mgrAck 0 3) ≤ s.now)
          | none => false) (by simp [hdue])⟩
    show execRetransmitInterval s = _
    unfold execRetransmitInterval
    rw [if_neg (by simp [hmanager]), hacks, List.foldl_cons, List.foldl_nil, if_pos hheard] <;> rfl

end Sys2Proof.Machine
end

section
/-! PROOFS. What a worker sends, holds and frees (R363, R364, R366 to R368). -/

namespace Sys2Proof.Machine

open Sys2Proof

variable {s t v : State} {p : Space} {i x : Item} {f r is : List Item} {b : Bytes} {rx : Rx} {k n now seq : Nat} {bad : List Nat}

/-! The items of a frame (R363, R364). -/

theorem framePrefix_sub (n room : Nat) (l : List Item) : framePrefix n room l ⊆ l := by
  induction n generalizing room l with
  | zero => exact List.nil_subset _
  | succ n ih =>
    cases l with
    | nil => exact List.nil_subset _
    | cons a l =>
      unfold framePrefix
      dsimp only
      split
      · exact List.cons_subset_cons _ (ih _ _)
      · exact List.nil_subset _

theorem frameItems_sub (budget : Nat) (l : List Item) : frameItems budget l ⊆ l := by
  unfold frameItems
  split
  · exact List.take_subset 1 l
  · exact framePrefix_sub _ _ _

theorem consecutive_sub (l : List Item) : consecutive l ⊆ l := by
  induction l with
  | nil => exact List.nil_subset _
  | cons a l ih =>
    cases l with
    | nil => exact List.Subset.refl _
    | cons c l =>
      unfold consecutive
      split
      · exact List.cons_subset_cons _ ih
      · exact List.cons_subset_cons _ (List.nil_subset _)

theorem consecutive_head (a : Item) (l : List Item) : ∃ m, consecutive (a :: l) = a :: m := by
  cases l with
  | nil => exact ⟨[], rfl⟩
  | cons c l =>
    unfold consecutive
    split <;> exact ⟨_, rfl⟩

theorem framePrefix_head (n room : Nat) (a : Item) (l : List Item) : framePrefix n room (a :: l) = [] ∨
    ∃ m, framePrefix n room (a :: l) = a :: m := by
  cases n with
  | zero => exact .inl rfl
  | succ n =>
    unfold framePrefix
    dsimp only
    split
    · exact .inr ⟨_, rfl⟩
    · exact .inl rfl

/-- A frame begins with the first of the items that wait. -/
theorem frameItems_head (budget : Nat) (a : Item) (l : List Item) : ∃ m, frameItems budget (a :: l) = a :: m := by
  unfold frameItems
  rcases framePrefix_head 64 (budget - 40) a l with h | ⟨m, h⟩
  · rw [h]
    exact ⟨[], rfl⟩
  · rw [h]
    exact ⟨m, rfl⟩

theorem unsent_sub (p : Space) : p.unsent ⊆ p.items := fun _ h => List.mem_of_mem_filter h

/-! A frame goes out (R362). -/

/-- Items whose numbers are listed were sent now. -/
def sentNow (l : List Nat) (now : Nat) (q : Space) : Space :=
  { q with items := q.items.map (fun x => if l.contains x.seq then { x with sent := some now, again := false } else x) }

/-- One space of a list changed. -/
def atSpace (p : Space) (f : Space → Space) (q : Space) : Space := if q.stream = p.stream ∧ q.num = p.num then f q else q

/-- A frame goes out, its items are marked as sent, and they are counted. -/
theorem sendItems_shape (s : State) (p : Space) (i : Item) (f : List Item) (again : Bool) : ∃ u, PortFrame s u ∧
    sendItems s p (i :: f) again =
      (let m := u.modSpace p.stream p.num (sentNow ((i :: f).map (·.seq)) s.now)
       if p.stream < 16 then m.bump .stream p.stream (if again then 11 else 10) (f.length + 1) else m) := by
  unfold sendItems
  dsimp only
  generalize ksfData _ _ = b
  have hsent := sendOwn_frame s (s.nat .ring 0 2) s.net.mgrMac (frameLen b.length) (.ksf b)
  refine ⟨_, hsent, ?_⟩
  rw [List.length_map, List.length_cons, hsent.now]
  rfl

theorem sendItems_spaces (s : State) (p : Space) (i : Item) (f : List Item) (again : Bool) :
    (sendItems s p (i :: f) again).strm.spaces = s.strm.spaces.map (atSpace p (sentNow ((i :: f).map (·.seq)) s.now)) ∧
      (sendItems s p (i :: f) again).now = s.now ∧ (sendItems s p (i :: f) again).net.inbox = s.net.inbox := by
  obtain ⟨u, hsent, hshape⟩ := sendItems_shape s p i f again
  have hspaces : u.strm.spaces = s.strm.spaces := congrArg StrmSt.spaces hsent.strm
  rw [hshape, ← hspaces, ← hsent.inbox]
  dsimp only
  split <;> exact ⟨rfl, hsent.now, rfl⟩

theorem sendItems_counts (s : State) (p : Space) (i : Item) (f : List Item) (hstream : p.stream < 16) :
    Counted s (sendItems s p (i :: f) false) .stream p.stream 10 (f.length + 1) := by
  obtain ⟨u, hsent, hshape⟩ := sendItems_shape s p i f false
  rw [hshape]
  dsimp only
  rw [if_pos hstream, Counted, ← hsent.num (o := .stream) hstream (show 10 < 256 by decide) (.inl (by decide))]
  exact num_bump_same (u.modSpace p.stream p.num (sentNow ((i :: f).map (·.seq)) s.now)) .stream p.stream 10 (f.length + 1)

/-! An item on its way (R364, R368). -/

/-- A held item of this number is to be sent again or has been sent now. -/
def Goes (now seq : Nat) (t : State) : Prop :=
  t.now = now ∧ ∃ q ∈ t.strm.spaces, ∃ y ∈ q.items, y.seq = seq ∧ (y.again = true ∨ y.sent = some now)

theorem Goes.any (h : Goes now seq t) :
    (t.strm.spaces.flatMap (·.items)).any (fun y => y.seq == seq && (y.again || y.sent == some now)) = true := by
  obtain ⟨-, q, hq, y, hy, hseq, hgoes⟩ := h
  refine List.any_eq_true.mpr ⟨y, List.mem_flatMap.mpr ⟨q, hq, hy⟩, ?_⟩
  rw [hseq, beq_self_eq_true, Bool.true_and, Bool.or_eq_true, beq_iff_eq]
  exact hgoes

theorem sendItems_sends (h : p ∈ s.strm.spaces) (hx : x ∈ p.items) (hin : x ∈ i :: f) (again : Bool) :
    (((sendItems s p (i :: f) again).strm.spaces.flatMap (·.items)).any (fun y => y.seq == x.seq && y.sent == some s.now)) = true := by
  rw [(sendItems_spaces s p i f again).1]
  refine List.any_eq_true.mpr ⟨{ x with sent := some s.now, again := false }, List.mem_flatMap.mpr
    ⟨_, List.mem_map_of_mem h, ?_⟩, by simp⟩
  have hlisted : ((i :: f).map (·.seq)).contains x.seq = true := List.contains_iff_mem.mpr (List.mem_map_of_mem hin)
  unfold atSpace sentNow
  rw [if_pos ⟨rfl, rfl⟩]
  exact List.mem_map.mpr ⟨x, hx, if_pos hlisted⟩

theorem Goes.sendItems (h : Goes now seq s) (p : Space) (is : List Item) (again : Bool) : Goes now seq (sendItems s p is again) := by
  cases is with
  | nil => exact h
  | cons i f =>
    obtain ⟨hnow, q, hq, y, hy, hseq, hgoes⟩ := h
    obtain ⟨hspaces, hstill, -⟩ := sendItems_spaces s p i f again
    refine ⟨hstill.trans hnow, ?_⟩
    rw [hspaces]
    refine ⟨_, List.mem_map_of_mem hq, ?_⟩
    unfold atSpace
    split
    · refine ⟨_, List.mem_map_of_mem hy, ?_⟩
      split
      · exact ⟨hseq, .inr (congrArg some hnow)⟩
      · exact ⟨hseq, hgoes⟩
    · exact ⟨y, hy, hseq, hgoes⟩

theorem Goes.useResend (h : Goes now seq s) (n : Nat) : Goes now seq (useResend s n) := h

theorem Goes.sendFull (n : Nat) (h : Goes now seq s) : Goes now seq (sendFull n s) := by
  induction n generalizing s with
  | zero => exact h
  | succ n ih =>
    unfold Machine.sendFull
    split
    · exact iteInduction (motive := Goes now seq) (fun _ => ih (h.sendItems _ _ _)) fun _ => h
    · exact h

theorem Goes.sendAgain (n stream num : Nat) (h : Goes now seq s) : Goes now seq (sendAgain n s stream num) := by
  induction n generalizing s with
  | zero => exact h
  | succ n ih =>
    unfold Machine.sendAgain
    split
    · exact h
    · exact iteInduction (motive := Goes now seq) (fun _ => h) fun _ => ih ((h.sendItems _ _ _).useResend _)

/-- Items whose numbers are listed are to be sent again. -/
def askedAgain (l : List Nat) (q : Space) : Space :=
  { q with items := q.items.map (fun x => if l.contains x.seq then { x with again := true } else x) }

theorem resend_whole (hreach : reachable s p.stream = true)
    (hgood : ∀ x ∈ is, bad.contains x.seq = false) : resend s p is bad = sendAgain is.length
      (sendFull (unsentCount (s.modSpace p.stream p.num (askedAgain (is.map (·.seq)))))
        (s.modSpace p.stream p.num (askedAgain (is.map (·.seq))))) p.stream p.num := by
  have hbroken : is.filter (fun i => bad.contains i.seq && decide (i.ch ≠ 0xFFFF)) = [] :=
    List.filter_eq_nil_iff.mpr fun x hx => by rw [hgood x hx]; simp
  have hwhole : is.filter (fun i => !(bad.contains i.seq && decide (i.ch ≠ 0xFFFF))) = is :=
    List.filter_eq_self.mpr fun x hx => by rw [hgood x hx]; rfl
  unfold resend
  dsimp only
  rw [if_neg (by rw [hreach]; decide), hbroken, hwhole]
  rfl

/-- An item of a space that is asked for again goes, when every item asked for is good. -/
theorem resend_goes (hp : p ∈ s.strm.spaces) (hreach : reachable s p.stream = true) (hgood : ∀ x ∈ is, bad.contains x.seq = false)
    (hx : x ∈ p.items) (hin : x ∈ is) : Goes s.now x.seq (resend s p is bad) := by
  have hlisted : (is.map (·.seq)).contains x.seq = true := List.contains_iff_mem.mpr (List.mem_map_of_mem hin)
  have hstart : Goes s.now x.seq (s.modSpace p.stream p.num (askedAgain (is.map (·.seq)))) := by
    refine ⟨rfl, _, List.mem_map_of_mem hp, ?_⟩
    rw [if_pos ⟨rfl, rfl⟩]
    exact ⟨_, List.mem_map_of_mem hx, by rw [if_pos hlisted], by rw [if_pos hlisted]; exact .inl rfl⟩
  rw [resend_whole hreach hgood]
  exact (hstart.sendFull _).sendAgain _ _ _

/-! What a resend leaves of the entries (R350, R368, R380). -/

/-- The objects of which sending, accepting and naming items write entries. -/
def sideObjs : List Obj := [.stream, .link, .uplink, .mgrAck, .decoder, .handoff]

/-- The entries that sending, accepting and naming items may write. -/
def SideKey (k : Nat) : Prop := (∃ i, i < 32 ∧ k = entryKey .queue (162 + i) 3) ∨ (∃ n, ∃ sub ∈ [6, 12, 15], k = entryKey .stream n sub) ∨
  ∃ o u sub, o ∈ sideObjs ∧ u < o.size ∧ sub < 256 ∧ k = entryKey o u sub

theorem sideKey_unit {o : Obj} {u sub : Nat} (ho : o ∈ sideObjs) (hu : u < o.size) (hsub : sub < 256) : SideKey (entryKey o u sub) :=
  .inr (.inr ⟨o, u, sub, ho, hu, hsub, rfl⟩)

theorem sideKey_halt (n : Nat) {sub : Nat} (h : sub ∈ [6, 12, 15]) : SideKey (entryKey .stream n sub) := .inr (.inl ⟨n, sub, h, rfl⟩)

theorem not_sideKey {o : Obj} {u sub : Nat} (ho : o ∉ sideObjs) (hu : u < o.size) (hsub : sub < 256) (hne : sub ∉ [3, 6, 12, 15]) :
    ¬ SideKey (entryKey o u sub) := by
  simp only [List.mem_cons, List.not_mem_nil, or_false, not_or] at hne
  obtain ⟨h3, h6, h12, h15⟩ := hne
  rintro (⟨i, -, hkey⟩ | ⟨n, a, ha, hkey⟩ | ⟨q, w, a, hq, hw, ha, hkey⟩)
  · exact entryKey_ne_of_sub hsub (by decide) h3 hkey
  · simp only [List.mem_cons, List.not_mem_nil, or_false] at ha
    rcases ha with rfl | rfl | rfl
    · exact entryKey_ne_of_sub hsub (by decide) h6 hkey
    · exact entryKey_ne_of_sub hsub (by decide) h12 hkey
    · exact entryKey_ne_of_sub hsub (by decide) h15 hkey
  · exact ho ((entryKey_inj hu hw hsub ha hkey).1 ▸ hq)

/-- The entries of streams lie behind those of the start-up, whatever their number. -/
theorem entryKey_ne_stream (n : Nat) {a b : Nat} (ha : a < 256) : entryKey .startup 0 a ≠ entryKey .stream n b := by
  have hindex : Obj.index .startup 0 < Obj.index .stream n :=
    Nat.lt_of_lt_of_le (show Obj.index .startup 0 < Obj.base .stream by decide) ((Nat.le_add_right _ _).trans (Nat.le_add_right _ _))
  unfold entryKey
  omega

/-- `t` is `s` but for its ports, its streams, the hand-off ring in the DMA buffer, its events and those entries. -/
structure SideFrame (s t : State) : Prop where
  rest : { t with net := { t.net with ports := s.net.ports }, regs := s.regs, strm := s.strm, queues := s.queues, ev := s.ev,
                  dmaBuf := s.dmaBuf } = s
  regs : KeepsRegs SideKey s t

namespace SideFrame

theorem refl (s : State) : SideFrame s s := ⟨rfl, .refl _ s⟩

theorem trans (h : SideFrame s t) (g : SideFrame t v) : SideFrame s v := by
  obtain ⟨hrest, hregs⟩ := h
  obtain ⟨grest, gregs⟩ := g
  refine ⟨?_, hregs.trans gregs⟩
  rw [← hrest, ← grest]

theorem inbox (h : SideFrame s t) : t.net.inbox = s.net.inbox := (congrArg (fun x => x.net.inbox) h.rest :)

/-- An entry that items do not write stands as before. -/
theorem num (h : SideFrame s t) {o : Obj} {u sub : Nat} (ho : o ∉ sideObjs) (hu : u < o.size) (hsub : sub < 256)
    (hne : sub ∉ [3, 6, 12, 15]) : t.num o u sub = s.num o u sub :=
  h.regs.num (congrArg State.variant h.rest :) (congrArg State.fac h.rest :) o u sub (not_sideKey ho hu hsub hne)

/-- So does every entry of the start-up. -/
theorem num_startup (h : SideFrame s t) {sub : Nat} (hsub : sub < 256) : t.num .startup 0 sub = s.num .startup 0 sub := by
  refine h.regs.num (congrArg State.variant h.rest :) (congrArg State.fac h.rest :) .startup 0 sub ?_
  rintro (⟨i, hi, hkey⟩ | ⟨n, a, ha, hkey⟩ | ⟨q, w, a, hq, hw, ha, hkey⟩)
  · have hsize : 162 + i < Obj.size .queue := Nat.lt_of_lt_of_le (Nat.add_lt_add_left hi 162) (by decide)
    exact entryKey_obj_ne (by decide) (by decide) hsize hsub (by decide) hkey
  · exact entryKey_ne_stream n hsub hkey
  · exact absurd ((entryKey_inj (by decide) hw hsub ha hkey).1 ▸ hq) (by decide)

theorem setNum (s : State) {o : Obj} {u sub : Nat} (x : Int) (h : SideKey (entryKey o u sub)) : SideFrame s (s.setNum o u sub x) :=
  ⟨rfl, .setNum s x h⟩

theorem bump (s : State) {o : Obj} {u sub : Nat} (n : Nat) (h : SideKey (entryKey o u sub)) : SideFrame s (s.bump o u sub n) :=
  setNum s _ h

theorem modStrm (s : State) (f : StrmSt → StrmSt) : SideFrame s (s.modStrm f) := ⟨rfl, .of_eq rfl⟩

theorem modSpace (s : State) (stream num : Nat) (f : Space → Space) : SideFrame s (s.modSpace stream num f) := modStrm s _

theorem raise (s : State) {src : Nat} (cause : Nat) {detail : Nat} (h : islandOf s src detail < 32) :
    SideFrame s (raise s src cause detail) := by
  obtain ⟨hrest, -⟩ := raise_frame s src cause detail
  refine ⟨?_, (raiseAt_keeps s src cause detail s.now).mono fun k hk => .inl ⟨_, h, hk⟩⟩
  exact (congrArg (fun x : State => { x with net := { x.net with ports := s.net.ports }, strm := s.strm, dmaBuf := s.dmaBuf }) hrest :)

theorem of_port (h : PortFrame s t) : SideFrame s t := by
  refine ⟨?_, h.regs.mono ?_⟩
  · exact (congrArg (fun x : State => { x with strm := s.strm, queues := s.queues, ev := s.ev, dmaBuf := s.dmaBuf }) h.rest :)
  · rintro _ ⟨q, hq, rfl⟩
    exact sideKey_unit (by decide) hq (by decide)

theorem foldl {α : Type} {f : State → α → State} (l : List α) (s : State) (h : ∀ s a, SideFrame s (f s a)) : SideFrame s (l.foldl f s) :=
  List.foldlRecOn l f (refl s) fun t ht a _ => ht.trans (h t a)

end SideFrame

theorem sendItems_side (s : State) (p : Space) (is : List Item) (again : Bool) : SideFrame s (sendItems s p is again) := by
  cases is with
  | nil => exact .refl s
  | cons i f =>
    obtain ⟨u, hsent, hshape⟩ := sendItems_shape s p i f again
    rw [hshape]
    dsimp only
    refine (SideFrame.of_port hsent).trans ?_
    split
    · next hstream =>
      exact (SideFrame.modSpace u p.stream p.num _).trans (.bump _ _ (sideKey_unit (by decide) hstream (by split <;> decide)))
    · exact .modSpace u _ _ _

theorem sendFull_side (n : Nat) (s : State) : SideFrame s (sendFull n s) := by
  induction n generalizing s with
  | zero => exact .refl s
  | succ n ih =>
    unfold sendFull
    split
    · exact iteInduction (motive := SideFrame s) (fun _ => (sendItems_side s _ _ _).trans (ih _)) fun _ => .refl s
    · exact .refl s

theorem useResend_side (s : State) (n : Nat) : SideFrame s (useResend s n) :=
  ⟨rfl, .of_eq rfl⟩

theorem sendAgain_side (n : Nat) (s : State) (stream num : Nat) : SideFrame s (sendAgain n s stream num) := by
  induction n generalizing s with
  | zero => exact .refl s
  | succ n ih =>
    unfold sendAgain
    split
    · exact .refl s
    · exact iteInduction (motive := SideFrame s) (fun _ => .refl s) fun _ =>
        ((sendItems_side s _ _ _).trans (useResend_side _ _)).trans (ih _)

theorem uplinkItems_side (s : State) (pos ident stream num : Nat) (is : List Item) : SideFrame s (uplinkItems s pos ident stream num is) := by
  have hsend (x : State) (c : Bytes) : SideFrame x (sendUplink x c) := by
    unfold sendUplink
    dsimp only
    refine (SideFrame.bump x (o := .uplink) (u := 0) (sub := 6) 1 (sideKey_unit (by decide) (by decide) (by decide))).trans ?_
    split
    · exact .of_port (sendUdp_frame _ _ _ _ _ _ _)
    · exact .of_port (sendOwn_frame _ _ _ _ _)
  unfold uplinkItems
  extract_lets first frame s1
  have h1 : SideFrame s s1 := (SideFrame.modStrm s _).trans (hsend _ _)
  exact iteInduction (motive := SideFrame s) (fun _ => h1.trans (.modStrm _ _)) fun _ => h1

theorem handPut_side (s : State) (pos ident stream num : Nat) (i : Item) : SideFrame s (handPut s pos ident stream num i) := by
  unfold handPut
  dsimp only
  split
  · exact .refl s
  · exact ⟨rfl, .setNum s _ (sideKey_unit (o := .handoff) (u := 0) (sub := 3) (by decide) (by decide) (by decide))⟩

/-- What an own item counts in the decoder (R27). -/
def ownDecoded (s : State) (i : Item) : State :=
  if i.ch = 0xFFFF then s
  else
    let fl := leAt i.bytes 1 1
    let s := s.bump .decoder 0 1 1
    let s := if bit fl 7 then s.bump .decoder 0 2 1 else s
    if bit fl 6 then s.bump .decoder 0 3 1 else s

theorem ownDecoded_side (s : State) (i : Item) : SideFrame s (ownDecoded s i) := by
  unfold ownDecoded
  split
  · exact .refl s
  · extract_lets fl s1 s2
    have h1 : SideFrame s s1 := .bump s 1 (sideKey_unit (by decide) (by decide) (by decide))
    have h2 : SideFrame s s2 :=
      iteInduction (motive := SideFrame s) (fun _ => h1.trans (.bump s1 1 (sideKey_unit (by decide) (by decide) (by decide)))) fun _ => h1
    exact iteInduction (motive := SideFrame s) (fun _ => h2.trans (.bump s2 1 (sideKey_unit (by decide) (by decide) (by decide)))) fun _ => h2

theorem passOn_side (s : State) (pos ident stream num : Nat) {i : Item} (h : i.n ≠ 0x10) : SideFrame s (passOn s pos ident stream num i) := by
  unfold passOn
  extract_lets s1
  have h1 : SideFrame s s1 := (uplinkItems_side _ _ _ _ _ _).trans (handPut_side _ _ _ _ _ _)
  exact iteInduction (motive := SideFrame s) (fun hrec => absurd hrec.2 h) fun _ => h1

theorem ownItem_side (s : State) (stream num : Nat) {i : Item} (h : i.n ≠ 0x10) : SideFrame s (ownItem s stream num i) := by
  have hcount : SideFrame s (s.bump .mgrAck 0 6 1) := .bump s 1 (sideKey_unit (by decide) (by decide) (by decide))
  exact (hcount.trans (ownDecoded_side _ i)).trans (passOn_side _ 0 _ stream num h)

theorem withRec_side (s : State) : SideFrame s (withRec s) := by
  unfold withRec
  dsimp only
  split
  · exact .refl s
  · exact .modStrm _ _

theorem putItem_side (s : State) (stream num : Nat) {i : Item} (h : i.n ≠ 0x10) : SideFrame s (putItem s stream num i) := by
  have hshow (x : State) : SideFrame x (showNext x stream num) := by
    unfold showNext
    split
    · split
      · next hstream => exact .setNum x _ (sideKey_unit (by decide) hstream.1 (by decide))
      · exact .refl x
    · exact .refl x
  unfold putItem
  split
  · exact .refl s
  · extract_lets held s1 s2
    have h1 : SideFrame s s1 := .modSpace s _ _ _
    have h2 : SideFrame s s2 := iteInduction (motive := SideFrame s) (fun _ => h1.trans (ownItem_side _ _ _ h)) fun _ => h1
    exact h2.trans (hshow s2)

/-- A gap record is no window record (R377). -/
theorem gapItem_type (h : GapHead) (rs rs' : List Range) : (recordItem (gapRecord h rs) rs').n ≠ 0x10 := by
  have htype : recordType (gapRecord h rs) = 0x20 := by
    unfold recordType gapRecord sealCrc
    simp only [List.append_assoc]
    rw [leAt_prefix (leBytes 2 0x20) _ (o := 0) (n := 2) (by decide)]
    decide
  unfold recordItem
  dsimp only
  rw [htype]
  decide

theorem writeGap_side (s : State) (h : GapHead) (rs : List Range) : SideFrame s (writeGap s h rs).1 := by
  unfold writeGap
  split
  · exact .refl s
  · split
    · extract_lets s1 s2
      have h2 : SideFrame s s2 := (withRec_side s).trans (putItem_side _ _ _ (gapItem_type _ _ _))
      exact iteInduction (motive := SideFrame s) (fun hs => h2.trans (.bump s2 1 (sideKey_unit (by decide) hs (by decide)))) fun _ => h2
    · exact .refl s

theorem ownGap_side (s : State) (stream inst cause seq count : Nat) (rs : List Range) :
    SideFrame s (ownGap s stream inst cause seq count rs).1 := by
  have hnumber : SideFrame s (takeGapNumber s stream inst).1 := by
    have hrec : SideFrame s (if stream = recStream then withRec s else s) :=
      iteInduction (motive := SideFrame s) (fun _ => withRec_side s) fun _ => .refl s
    unfold takeGapNumber
    dsimp only
    split
    · exact hrec.trans (.modSpace _ _ _ _)
    · exact hrec
  unfold ownGap
  split
  · exact .refl s
  · exact hnumber.trans (writeGap_side _ _ _)

theorem haltStream_side (s : State) (n : Nat) : SideFrame s (haltStream s n) := by
  unfold haltStream
  dsimp only
  refine SideFrame.trans ?_ (.raise _ _ (show 28 < 32 by decide))
  exact ((SideFrame.setNum s _ (sideKey_halt n (by decide))).trans (.bump _ 1 (sideKey_halt n (by decide)))).trans
    ((SideFrame.setNum _ _ (sideKey_halt n (by decide))).trans (.modStrm _ _))

theorem gapHalts_side (s : State) (n inst : Nat) (rs : List Range) : SideFrame s (gapHalts s n inst rs) := by
  unfold gapHalts
  split
  · extract_lets new s1
    have h1 : SideFrame s s1 := .modStrm s _
    exact iteInduction (motive := SideFrame s) (fun _ => h1) fun _ => h1.trans (.raise s1 2 (show 28 < 32 by decide))
  · extract_lets on s1
    have h1 : SideFrame s s1 := iteInduction (motive := SideFrame s) (fun _ => .modStrm _ _) fun _ => .modStrm _ _
    exact iteInduction (motive := SideFrame s) (fun _ => h1.trans (haltStream_side _ _)) fun _ => h1

theorem spillFailed_side (s : State) (p : Space) (i : Item) : SideFrame s (spillFailed s p i) := by
  unfold spillFailed
  dsimp only
  refine (SideFrame.raise s 1 (show islandOf s 63 p.stream < 32 from (by decide : 28 < 32))).trans ?_
  split
  · exact .refl _
  · refine SideFrame.trans ?_ (.modStrm _ _)
    exact iteInduction (motive := SideFrame _) (fun _ => ownGap_side _ _ _ _ _ _ _) fun _ =>
      (ownGap_side _ _ _ _ _ _ _).trans (gapHalts_side _ _ _ _)

theorem resend_side (s : State) (p : Space) (is : List Item) (bad : List Nat) : SideFrame s (resend s p is bad) := by
  unfold resend
  dsimp only
  split
  · exact .refl s
  · refine SideFrame.trans ?_ ((sendFull_side _ _).trans (sendAgain_side _ _ _ _))
    exact (SideFrame.foldl _ _ fun s i => spillFailed_side s p i).trans (.modStrm _ _)

/-! The commands of a worker. -/

theorem exec_ksfDataSend_full (hsend : canSend s = true) (hspaces : s.strm.spaces = [p]) (hfull : fullFrame s p = some f) :
    exec .ksfDataSend s = .next (sendItems s p f false) := by
  have hnext : nextFull s = some (p, f) := by
    unfold nextFull
    rw [hspaces, List.findSome?_cons, hfull]
    rfl
  show execKsfDataSend s = _
  unfold execKsfDataSend
  rw [if_neg (by rw [hsend]; decide), hnext]

theorem fullFrame_sub (h : fullFrame s p = some f) : f ⊆ p.items := by
  unfold fullFrame at h
  dsimp only at h
  split at h
  · rw [← Option.some.inj h]
    exact fun x hx => unsent_sub p (consecutive_sub _ (frameItems_sub _ _ hx))
  · exact absurd h (by simp)

theorem exec_packingHoldExpiry_sends (hsend : canSend s = true) (hspaces : s.strm.spaces = [p]) (hwaits : p.unsent = i :: r)
    (hheld : i.formed + holdOf s p ≤ s.now) :
    exec .packingHoldExpiry s = .next (sendItems s p (frameItems (budgetOf s p) (consecutive (i :: r))) false) := by
  show execPackingHoldExpiry s = _
  unfold execPackingHoldExpiry
  rw [hspaces, List.find?_cons_of_pos (by rw [hwaits]; exact decide_eq_true hheld)]
  dsimp only
  rw [if_pos hsend, hwaits]

theorem find_space (h : s.strm.spaces = [p]) : s.space p.stream p.num = some p := by
  unfold State.space
  rw [h]
  exact List.find?_cons_of_pos (by simp)

theorem mem_of_space {stream num : Nat} (h : s.space stream num = some p) : p ∈ s.strm.spaces ∧ p.stream = stream ∧ p.num = num := by
  have hfound := List.find?_some h
  simp only [Bool.and_eq_true, beq_iff_eq] at hfound
  exact ⟨List.mem_of_find?_eq_some h, hfound⟩

/-! An ACK (R366, R368). -/

theorem exec_ack_own (hworker : s.isManager = false) (h : inboxKsf s (· == 3) = some (k, rx, b)) (hident : leAt b 4 8 = s.ident) :
    exec .ack s = .next (takeAck (dropInbox s k) (leAt b 13 1) (leAt b 16 4) (leAt b 20 4) (leAt b 40 8)) := by
  have hrole : (dropInbox s k).isManager = false := hworker
  show execAck s = _
  unfold execAck
  rw [h]
  dsimp only
  rw [if_neg (by rw [hrole]; decide)]
  exact if_pos hident

/-- No stream of the hub has fallen back or halted. -/
abbrev StreamsRun (s : State) : Prop := ∀ n : Fin 16, s.streamState n = 0 ∨ s.streamState n = 1

theorem StreamsRun.le (h : StreamsRun s) (hn : n < 16) : s.streamState n ≤ 1 := by
  have hstate : s.streamState n = 0 ∨ s.streamState n = 1 := h ⟨n, hn⟩
  omega

theorem resumeStream_runs {a : Nat} (hrun : StreamsRun s) (hn : n < 16) : resumeStream s n a = s := by
  have hstate := hrun.le hn
  unfold resumeStream
  dsimp only
  split
  · exact if_pos (by omega)
  · rfl

theorem foldl_streams_kept {g : State → Nat → State} (h : ∀ n < 16, g s n = s) : (List.range 16).foldl g s = s :=
  List.foldlRecOn (motive := fun t => t = s) _ _ rfl fun t ht n hn => by rw [ht]; exact h n (List.mem_range.mp hn)

theorem resumeHalted_runs {a : Nat} (hrun : StreamsRun s) (howed : s.strm.owed = []) : resumeHalted s a = s := by
  unfold resumeHalted
  rw [howed, List.foldl_nil]
  exact foldl_streams_kept fun n hn => if_pos (by have := hrun.le hn; omega)

theorem recover_runs (hrun : StreamsRun s) : recover s = s :=
  foldl_streams_kept fun n hn => if_neg fun h => by have := hrun.le hn; omega

theorem freeEnded_live (hspaces : s.strm.spaces = [p]) (hlive : p.live = true) : (freeEnded s).strm.spaces = [p] := by
  unfold freeEnded
  show (s.strm.spaces.map _).filter _ = [p]
  rw [hspaces]
  simp [hlive]

/-- What an ACK with A and a bitmap leaves of a space. -/
def ackTaken (a bitmap : Nat) (q : Space) : Space :=
  { q with items := q.items.filter (fun i => i.isAnn || !ackCovers a bitmap i.seq), acked0 := q.acked0 || ackCovers a bitmap 0 }

/-- The space of an ACK once it is taken, and the tick of it. -/
def acked (s : State) (stream num a bitmap : Nat) : State :=
  (s.modSpace stream num (ackTaken a bitmap)).modStream stream (fun k => { k with ackAt := some s.now })

theorem takeAck_shape {a bitmap : Nat} (hspaces : s.strm.spaces = [p]) (hstream : p.stream < 16) (howed : s.strm.owed = [])
    (hrun : StreamsRun s) : takeAck s p.stream p.num a bitmap = freeEnded (acked s p.stream p.num a bitmap) := by
  have hstill : StreamsRun (acked s p.stream p.num a bitmap) := hrun
  have hnone : (acked s p.stream p.num a bitmap).strm.owed = [] := howed
  unfold takeAck
  extract_lets s1 s2
  have h1 : s1 = acked s p.stream p.num a bitmap := if_pos (by rw [find_space hspaces]; rfl)
  have h2 : s2 = acked s p.stream p.num a bitmap := by
    refine (if_pos hstream).trans ?_
    rw [h1]
    exact resumeStream_runs hstill hstream
  rw [h2, resumeHalted_runs hstill hnone, recover_runs hstill]

theorem takeAck_running {a bitmap : Nat} (hspaces : s.strm.spaces = [p]) (hstream : p.stream < 16) (hlive : p.live = true)
    (howed : s.strm.owed = []) (hrun : StreamsRun s) : (takeAck s p.stream p.num a bitmap).strm.spaces = [ackTaken a bitmap p] ∧
      ((takeAck s p.stream p.num a bitmap).stream p.stream).ackAt = some s.now ∧
      (takeAck s p.stream p.num a bitmap).net.inbox = s.net.inbox := by
  have htaken : (acked s p.stream p.num a bitmap).strm.spaces = [ackTaken a bitmap p] := by
    show s.strm.spaces.map _ = _
    rw [hspaces, List.map_singleton, if_pos ⟨rfl, rfl⟩]
  rw [takeAck_shape hspaces hstream howed hrun]
  refine ⟨freeEnded_live htaken hlive, ?_, rfl⟩
  exact congrArg StreamSt.ackAt (Sparse.get_store_same s.strm.streams p.stream { s.stream p.stream with ackAt := some s.now } StreamSt.init)

/-! A NACK and the resend timeout (R367, R368). -/

theorem exec_nack_own (hworker : s.isManager = false) (h : inboxKsf s (· == 4) = some (k, rx, b)) (hident : leAt b 4 8 = s.ident)
    (hspace : s.space (leAt b 13 1) (leAt b 16 4) = some p) : exec (.nack bad) s =
      .next (resend ((dropInbox s k).bump .transmit 0 4 1) p (p.items.filter (fun x => (nackNumbers b).contains x.seq)) bad) := by
  have hrole : (dropInbox s k).isManager = false := hworker
  have hfound : (dropInbox s k).space (leAt b 13 1) (leAt b 16 4) = some p := hspace
  show execNack bad s = _
  unfold execNack
  rw [h]
  dsimp only
  rw [if_neg (fun hne => hne hident), if_neg (by rw [hrole]; decide), hfound]

theorem exec_resendTimeout_resends (hworker : s.isManager = false) (hsend : canSend s = true) (hspaces : s.strm.spaces = [p])
    (hreach : reachable s p.stream = true) (hover : overdue s p = [i]) :
    exec (.resendTimeout bad) s = .next (resend s p [i] bad) := by
  show execResendTimeout bad s = _
  unfold execResendTimeout
  rw [if_neg (by rw [hworker]; decide), hspaces, List.find?_cons_of_pos (by rw [hreach, hover]; rfl)]
  dsimp only
  rw [if_pos hsend, hover]

/-! The end of reachability (R368). -/

/-- A stream whose manager is no longer reachable: nothing of it is queued to be sent again. -/
def unreached (s : State) (n : Nat) : State :=
  (s.modStream n (fun k => { k with ackAt := none })).modStrm (fun k =>
    { k with spaces := k.spaces.map (fun q =>
        if q.stream = n then { q with items := q.items.map (fun i => { i with again := false }) } else q) })

theorem exec_reachabilityTimeout_ends {a : Nat} {q : StreamSt} (hstreams : s.strm.streams = [(n, q)]) (hat : q.ackAt = some a)
    (hlate : a + msTicks (s.nat .transmit 0 2) < s.now) : exec .reachabilityTimeout s = .next (unreached s n) := by
  have hstream : s.stream n = q := by
    unfold State.stream
    rw [hstreams]
    simp [Sparse.get, Sparse.find]
  have hlost : reachable s n = false := by
    unfold reachable
    rw [hstream, hat]
    exact decide_eq_false (by omega)
  show execReachabilityTimeout s = _
  unfold execReachabilityTimeout
  rw [hstreams, List.foldl_cons, List.foldl_nil]
  exact congrArg Host.Outcome.next (if_pos ⟨by rw [hstream, hat]; rfl, hlost⟩)

theorem unreached_shows (s : State) (n : Nat) : ((unreached s n).stream n).ackAt = none ∧
    ∀ q ∈ (unreached s n).strm.spaces, q.stream = n → ∀ x ∈ q.items, x.again = false := by
  refine ⟨?_, fun q hq hn x hx => ?_⟩
  · exact congrArg StreamSt.ackAt (Sparse.get_store_same s.strm.streams n { s.stream n with ackAt := none } StreamSt.init)
  · obtain ⟨q0, -, rfl⟩ := List.mem_map.mp hq
    split at hx
    · obtain ⟨x0, -, rfl⟩ := List.mem_map.mp hx
      rfl
    · next hother =>
      rw [if_neg hother] at hn
      exact absurd hn hother

/-- Settles O33: what is sent is marked, an ACK frees what it covers, and what is asked for again goes or waits. -/
theorem aWorkerSendsItsItemsAndHoldsThemUntilAcked : Obligations.AWorkerSendsItsItemsAndHoldsThemUntilAcked := by
  unfold Obligations.AWorkerSendsItsItemsAndHoldsThemUntilAcked
  refine ⟨?send, ?hold, ?ack, ?nack, ?nackGoes, ?resends, ?unreachable⟩
  case send =>
    intro s p i f hsend hspaces hfull
    have hmem : i ∈ p.items := fullFrame_sub hfull (List.mem_cons_self ..)
    exact ⟨_, exec_ksfDataSend_full hsend hspaces hfull,
      sendItems_sends (by rw [hspaces]; exact List.mem_singleton_self p) hmem (List.mem_cons_self ..) false,
      sendItems_counts s p i f, (sendItems_spaces s p i f false).2.2⟩
  case hold =>
    intro s p i r hsend hspaces hwaits hheld
    obtain ⟨l, hl⟩ := consecutive_head i r
    obtain ⟨f, hf⟩ := frameItems_head (budgetOf s p) i l
    have hmem : i ∈ p.items := unsent_sub p (by rw [hwaits]; exact List.mem_cons_self ..)
    refine ⟨_, exec_packingHoldExpiry_sends hsend hspaces hwaits hheld, ?_, ?_⟩
    · rw [hl, hf]
      exact sendItems_sends (by rw [hspaces]; exact List.mem_singleton_self p) hmem (List.mem_cons_self ..) false
    · exact (sendItems_side s p _ false).inbox
  case ack =>
    intro s k rx b p hworker h hident hspaces hstream hnum hlow hlive howed hrun
    refine ⟨_, exec_ack_own hworker h hident, ?_⟩
    rw [← hstream, ← hnum]
    exact takeAck_running (s := dropInbox s k) hspaces hlow hlive howed hrun
  case nack =>
    intro s bad k rx b p hworker h hident hspace
    have hside := resend_side ((dropInbox s k).bump .transmit 0 4 1) p (p.items.filter (fun x => (nackNumbers b).contains x.seq)) bad
    refine ⟨_, exec_nack_own hworker h hident hspace, ?_, hside.inbox⟩
    exact (hside.num (by decide) (by decide) (by decide) (by decide)).trans (num_bump_same (dropInbox s k) .transmit 0 4 1)
  case nackGoes =>
    intro s k rx b p x hworker h hident hspace hreach hx hlisted
    obtain ⟨hp, -, -⟩ := mem_of_space hspace
    have hstill : reachable ((dropInbox s k).bump .transmit 0 4 1) p.stream = true := by
      rw [← hreach]
      unfold reachable
      rw [show ((dropInbox s k).bump .transmit 0 4 1).nat .transmit 0 2 = s.nat .transmit 0 2 from
        congrArg Int.toNat (num_bump_ne (dropInbox s k) (by decide) 1)]
      rfl
    exact ⟨_, exec_nack_own hworker h hident hspace,
      (resend_goes (s := (dropInbox s k).bump .transmit 0 4 1) hp hstill (fun _ _ => rfl) hx
        (List.mem_filter.mpr ⟨hx, hlisted⟩)).any⟩
  case resends =>
    intro s bad p i hworker hsend hspaces hreach hover hgood
    have hmem : i ∈ p.items := List.mem_of_mem_filter (by rw [show p.items.filter _ = [i] from hover]; exact List.mem_singleton_self i)
    refine ⟨_, exec_resendTimeout_resends hworker hsend hspaces hreach hover, (resend_goes (by rw [hspaces]; exact List.mem_singleton_self p)
      hreach ?_ hmem (List.mem_singleton_self i)).any⟩
    intro x hx
    rwa [List.mem_singleton.mp hx]
  case unreachable =>
    intro s n a q hstreams hat hlate
    exact ⟨_, exec_reachabilityTimeout_ends hstreams hat hlate, unreached_shows s n⟩

end Sys2Proof.Machine
end

section
/-! PROOFS. Window starts, cross-hub reductions and the replay decoder (R302, R320 to R325, R351). -/

namespace Sys2Proof.Machine

open Sys2Proof

variable {s t v : State} {w x ses : Nat} {d : WinDef} {c : CrossIdx} {bs : Bytes}

/-! Window starts (R302). -/

theorem exec_windowStart_due (hw : w < 32) (hnext : (s.win w).next = some x) (hdue : x ≤ s.now) :
    exec (.windowStart w) s = .next (winStart s w) := by
  show execWindowStart w s = _
  unfold execWindowStart
  rw [hnext]
  exact if_pos ⟨hw, hdue⟩

/-- The window that starts at tick x under a definition. -/
def winOpened (d : WinDef) (x : Nat) : WinRun :=
  { i := (x - d.phase) / d.w, start := x, stop := d.phase + ((x - d.phase) / d.w + 1) * d.w
    part := decide (d.phase + (x - d.phase) / d.w * d.w ≠ x), anch := none, d := d, accs := d.members.map (fun _ => Stat.init) }

theorem winStart_opens (hnext : (s.win w).next = some x) (hd : d = (s.win w).defAt x (winDef s w)) (hmode : d.mode = 1)
    (hphase : d.phase ≤ x) : winStart s w = s.modWin w (fun k => { k with next := some (winOpened d x).stop, runs := k.runs ++ [winOpened d x] }) := by
  unfold winStart
  rw [hnext]
  dsimp only
  rw [← hd, if_neg (by simp [hmode]), if_neg (by omega)]
  rfl

theorem winStart_waits (hnext : (s.win w).next = some x) (hd : d = (s.win w).defAt x (winDef s w)) (hmode : d.mode = 1)
    (hphase : x < d.phase) : winStart s w = s.modWin w (fun k => { k with next := some d.phase }) := by
  unfold winStart
  rw [hnext]
  dsimp only
  rw [← hd, if_neg (by simp [hmode]), if_pos hphase]

theorem winStart_stops (hnext : (s.win w).next = some x) (hmode : ((s.win w).defAt x (winDef s w)).mode ≠ 1) :
    winStart s w = s.modWin w (fun k => { k with next := k.again x }) := by
  unfold winStart
  rw [hnext]
  exact if_pos hmode

/-! Cross-hub reductions (R320 to R325). -/

/-- What a combined record leaves when it goes out. -/
theorem sendCombined_side (s : State) (x index : Nat) (b : Bytes) : SideFrame s (sendCombined s x index b) := by
  unfold sendCombined
  extract_lets s1 n
  have h1 : SideFrame s s1 := withRec_side s
  split
  · exact h1
  · exact iteInduction (motive := SideFrame s) (fun _ => h1.trans ((SideFrame.modSpace s1 recStream n _).trans (uplinkItems_side _ _ _ _ _ _)))
      fun _ => h1.trans (ownGap_side _ _ _ _ _ _ _)

/-- The windows, the time and the records accepted stand as before. -/
abbrev WinKeeps (s t : State) : Prop := t.wins = s.wins ∧ t.now = s.now ∧ t.crossIn = s.crossIn

theorem WinKeeps.trans (h : WinKeeps s t) (g : WinKeeps t v) : WinKeeps s v :=
  ⟨g.1.trans h.1, g.2.1.trans h.2.1, g.2.2.trans h.2.2⟩

theorem SideFrame.winKeeps (h : SideFrame s t) : WinKeeps s t :=
  ⟨(congrArg State.wins h.rest :), (congrArg State.now h.rest :), (congrArg State.crossIn h.rest :)⟩

theorem raise_winKeeps (s : State) (src cause detail : Nat) : WinKeeps s (raise s src cause detail) :=
  have hrest := (raise_frame s src cause detail).1
  ⟨(congrArg State.wins hrest :), (congrArg State.now hrest :), (congrArg State.crossIn hrest :)⟩

theorem bump_winKeeps (s : State) (sub : Nat) : WinKeeps s (s.bump .crossHub x sub 1) := ⟨rfl, rfl, rfl⟩

theorem crossIssue_winKeeps (s : State) (x : Nat) (c : CrossIdx) : WinKeeps s (crossIssue s x c).1 := by
  unfold crossIssue
  extract_lets r s1 s2
  have h1 : WinKeeps s s1 := ⟨rfl, rfl, rfl⟩
  have h2 : WinKeeps s s2 := iteInduction (motive := WinKeeps s) (fun _ => h1) fun _ =>
    h1.trans ((bump_winKeeps s1 10).trans (raise_winKeeps _ 60 3 (x * 256)))
  exact h2

theorem crossOne_winKeeps (s : State) (x pos ch : Nat) (r : Bytes) (c : CrossIdx) : WinKeeps s (crossOne s x pos ch r c).1 := by
  have hbad : WinKeeps s (raise (s.bump .crossHub x 12 1) 60 1 (x * 256 + pos)) := (bump_winKeeps s 12).trans (raise_winKeeps _ _ _ _)
  unfold crossOne
  dsimp only
  split
  · exact iteInduction (motive := fun p : State × CrossIdx => WinKeeps s p.1) (fun _ => ⟨rfl, rfl, rfl⟩) fun _ => hbad
  · exact hbad

theorem crossTake_winKeeps (s : State) (x pos : Nat) (r : Bytes) : WinKeeps s (crossTake s x pos r).1 := by
  unfold crossTake
  split
  · exact ⟨rfl, rfl, rfl⟩
  · extract_lets mine found
    refine iteInduction (motive := fun p : State × Option Bytes => WinKeeps s p.1) (fun _ => ⟨rfl, rfl, rfl⟩) fun _ => ?_
    refine iteInduction (motive := fun p : State × Option Bytes => WinKeeps s p.1)
      (fun _ => (bump_winKeeps s 11).trans (raise_winKeeps _ _ _ _)) fun _ => ?_
    refine iteInduction (motive := fun p : State × Option Bytes => WinKeeps s p.1) (fun _ => ⟨rfl, rfl, rfl⟩) fun _ => ?_
    have hused : WinKeeps s (mine.foldl (fun (p : State × CrossIdx) e => crossOne p.1 x pos e.2 r p.2)
        (s, { found with got := setBit found.got pos })).1 :=
      List.foldlRecOn (motive := fun p : State × CrossIdx => WinKeeps s p.1) _ _ ⟨rfl, rfl, rfl⟩
        fun p hp e _ => hp.trans (crossOne_winKeeps p.1 x pos e.2 r p.2)
    exact iteInduction (motive := fun p : State × Option Bytes => WinKeeps s p.1)
      (fun _ => hused.trans (crossIssue_winKeeps _ _ _)) fun _ => hused

/-- One definition looks at a record that the hub has accepted. -/
def crossLooked (pos : Nat) (r : Bytes) (s : State) (x : Nat) : State :=
  match crossTake s x pos r with
  | (s, some b) => sendCombined s x (leAt b 16 8) b
  | (s, none) => s

theorem crossLooked_winKeeps (pos : Nat) (r : Bytes) (s : State) (x : Nat) : WinKeeps s (crossLooked pos r s x) := by
  have htaken := crossTake_winKeeps s x pos r
  unfold crossLooked
  split
  · next u b h =>
    rw [h] at htaken
    exact htaken.trans (sendCombined_side u x _ b).winKeeps
  · next u h =>
    rw [h] at htaken
    exact htaken

theorem crossLooked_off (pos : Nat) (r : Bytes) (h : s.nat .crossHub x 1 ≠ 1) : crossLooked pos r s x = s := by
  have hnone : crossAccepts s x r = none := if_neg fun hall => h hall.1
  unfold crossLooked crossTake
  rw [hnone]

theorem exec_crossHubContribution_looks {e : Nat × Bytes} {rest : List (Nat × Bytes)} (hmanager : s.isManager = true)
    (h : s.crossIn = e :: rest) :
    exec .crossHubContribution s = .next ((List.range 64).foldl (crossLooked e.1 e.2) { s with crossIn := rest }) := by
  show execCrossHubContribution s = _
  unfold execCrossHubContribution
  rw [h]
  dsimp only
  rw [if_neg (by rw [hmanager]; decide)]
  rfl

/-! The deadline of a reduction (R322). -/

theorem exec_crossHubDeadline_issues (hmanager : s.isManager = true) (hx : x < 64) (hon : s.nat .crossHub x 1 = 1)
    (hlow : crossLowest s x = some c)
    (hdue : gridNs (s.nat .crossHub x 5 + (c.i + 1) * s.nat .crossHub x 4) + s.nat .crossHub x 8 * 1000000 ≤ s.localNs) :
    exec (.crossHubDeadline x) s = .next (sendCombined (crossIssue s x c).1 x c.i (crossIssue s x c).2) := by
  show execCrossHubDeadline x s = _
  unfold execCrossHubDeadline
  rw [hlow]
  exact if_pos ⟨hmanager, hx, hon, hdue⟩

theorem issue_isIssued (k : CrossSt) (i : Nat) : (k.issue i).isIssued i = true := by
  unfold CrossSt.isIssued CrossSt.issue
  rw [Bool.or_eq_true]
  cases hnext : k.next with
  | none => exact .inl (List.contains_iff_mem.mpr (List.mem_filter.mpr ⟨List.mem_cons_self .., by simp⟩))
  | some n =>
    simp only [Option.map_some]
    by_cases hkept : i < k.first ∨ nextIssue (i :: k.issued) (i :: k.issued).length n ≤ i
    · refine .inl (List.contains_iff_mem.mpr (List.mem_filter.mpr ⟨List.mem_cons_self .., ?_⟩))
      rw [Bool.or_eq_true, decide_eq_true_iff, decide_eq_true_iff]
      exact hkept
    · rw [Bool.and_eq_true, decide_eq_true_iff, decide_eq_true_iff]
      omega

/-- The combined record of an index as it is shown. -/
def crossShown (s : State) (x : Nat) (c : CrossIdx) : State := (s.bump .crossHub x 9 1).setBytes .crossLast x 1 (combinedRecord s x c)

/-- The same, with an index that lacks a record counted. -/
def crossCounted (s : State) (x : Nat) (c : CrossIdx) : State :=
  if c.got = crossExpected (crossShown s x c) x then crossShown s x c
  else raise ((crossShown s x c).bump .crossHub x 10 1) 60 3 (x * 256)

theorem crossIssue_eq (s : State) (x : Nat) (c : CrossIdx) :
    crossIssue s x c = ((crossCounted s x c).modCross x (fun k => k.issue c.i), combinedRecord s x c) := rfl

theorem crossShown_expected (s : State) (hx : x < 64) (c : CrossIdx) : crossExpected (crossShown s x c) x = crossExpected s x := by
  have hkey : entryKey .crossHub x 3 ≠ entryKey .crossLast x 1 := entryKey_obj_ne (by decide) hx hx (by decide) (by decide)
  have hbytes : (crossShown s x c).bytes .crossHub x 3 = s.bytes .crossHub x 3 := bytes_setBytes_ne _ hkey _
  unfold crossExpected crossEntries
  rw [hbytes]

theorem crossCounted_shows (s : State) (hx : x < 64) (c : CrossIdx) : Counted s (crossCounted s x c) .crossHub x 9 1 ∧
    (crossCounted s x c).bytes .crossLast x 1 = combinedRecord s x c ∧
      (c.got ≠ crossExpected s x → Counted s (crossCounted s x c) .crossHub x 10 1) ∧ (crossCounted s x c).cross = s.cross := by
  have hother : entryKey .crossHub x 9 ≠ entryKey .crossHub x 10 := entryKey_sub_ne _ _ (by decide)
  have hshown : (crossShown s x c).bytes .crossLast x 1 = combinedRecord s x c := bytes_setBytes_same ..
  have hnine : Counted s (crossShown s x c) .crossHub x 9 1 := num_bump_same s .crossHub x 9 1
  have hten : (crossShown s x c).num .crossHub x 10 = s.num .crossHub x 10 := num_bump_ne s hother.symm 1
  unfold crossCounted
  rw [crossShown_expected s hx c]
  split
  · next hall => exact ⟨hnine, hshown, fun hne => absurd hall hne, rfl⟩
  · obtain ⟨hrest, -⟩ := raise_frame ((crossShown s x c).bump .crossHub x 10 1) 60 3 (x * 256)
    refine ⟨?_, ?_, fun _ => ?_, (congrArg State.cross hrest :)⟩
    · rw [Counted, raise_num_sub _ _ _ _ (by decide) (by decide), num_bump_ne _ hother]
      exact hnine
    · exact (congrArg (State.bytes · .crossLast x 1) hrest :).trans hshown
    · rw [Counted, raise_num_sub _ _ _ _ (by decide) (by decide), num_bump_same, hten]

/-! The replay decoder (R351). -/

theorem replay_accepted (hs : s.serves ses) (hhas : s.has .replay 0 = true) (hlen : bs.length ≤ 65535) :
    Accepted s ses .replay 0 1 ⟨1, 1, "Block", .blob, .wo, false, .calc, .any⟩ bs 0 :=
  ⟨hs, by decide, hhas, ⟨rfl, by decide⟩, ⟨decide_eq_false (by omega), rfl⟩, rfl, rfl, rfl⟩

theorem replayWrite_shows (s : State) (bs : Bytes) {r : Nat × List Nat}
    (hr : (if bs.length < 32 ∨ 1052 < bs.length then (1, []) else decodeBlock bs) = r) :
    (answer (replayWrite s bs) .success).num .replay 0 2 = (entryTy .replay 0 2).narrow r.1 ∧
      (answer (replayWrite s bs) .success).bytes .replay 0 3 = r.2.flatMap (leBytes 4) ∧
      Counted s (answer (replayWrite s bs) .success) .replay 0 4 1 := by
  rw [Counted, answer_num _ _ (by decide) (by decide) (by decide), answer_num _ _ (by decide) (by decide) (by decide)]
  unfold replayWrite
  simp only [hr]
  rw [num_bump_same, num_bump_ne _ (entryKey_sub_ne _ _ (by decide))]
  refine ⟨num_setNum_same .., bytes_setBytes_same .., ?_⟩
  exact congrArg (fun n : Int => (entryTy .replay 0 4).narrow (n + 1)) (num_setNum_sub s .replay 0 (by decide) _)

/-- Settles O32: a window starts under the definition in force, and a combined record goes out once. -/
theorem windowsStartAndCombinedRecordsAreIssued : Obligations.WindowsStartAndCombinedRecordsAreIssued := by
  unfold Obligations.WindowsStartAndCombinedRecordsAreIssued
  refine ⟨?opens, ?waits, ?stops, ?taken, ?off, ?deadline, ?decodes, ?short⟩
  case opens =>
    intro s w x d hw hnext hdue hd hmode hphase
    refine ⟨_, (exec_windowStart_due hw hnext hdue).trans (congrArg Host.Outcome.next (winStart_opens hnext hd hmode hphase)), ?_, ?_, rfl⟩
    · rw [State.modWin_same]
      rfl
    · rw [State.modWin_same]
      exact List.map_append ..
  case waits =>
    intro s w x d hw hnext hdue hd hmode hphase
    exact ⟨_, (exec_windowStart_due hw hnext hdue).trans (congrArg Host.Outcome.next (winStart_waits hnext hd hmode hphase)),
      by rw [State.modWin_same], by rw [State.modWin_same], rfl⟩
  case stops =>
    intro s w x hw hnext hdue hmode
    exact ⟨_, (exec_windowStart_due hw hnext hdue).trans (congrArg Host.Outcome.next (winStart_stops hnext hmode)),
      by rw [State.modWin_same], by rw [State.modWin_same], rfl⟩
  case taken =>
    intro s e rest hmanager h
    have hkept : WinKeeps { s with crossIn := rest } ((List.range 64).foldl (crossLooked e.1 e.2) { s with crossIn := rest }) :=
      List.foldlRecOn (motive := WinKeeps { s with crossIn := rest }) _ _ ⟨rfl, rfl, rfl⟩
        fun t ht x _ => ht.trans (crossLooked_winKeeps e.1 e.2 t x)
    exact ⟨_, exec_crossHubContribution_looks hmanager h, hkept.2.2, hkept.1, hkept.2.1⟩
  case off =>
    intro s e rest hmanager h hoff
    have hsame : (List.range 64).foldl (crossLooked e.1 e.2) { s with crossIn := rest } = { s with crossIn := rest } :=
      List.foldlRecOn (motive := fun t => t = { s with crossIn := rest }) _ _ rfl fun t ht x hx => by
        rw [ht]
        exact crossLooked_off e.1 e.2 (hoff ⟨x, List.mem_range.mp hx⟩)
    refine ⟨_, (exec_crossHubContribution_looks hmanager h).trans (congrArg Host.Outcome.next hsame), rfl, rfl⟩
  case deadline =>
    intro s x c hmanager hx hon hlow hdue
    obtain ⟨hcount, hbytes, hlack, hcross⟩ := crossCounted_shows s hx c
    have hsent := sendCombined_side (crossIssue s x c).1 x c.i (crossIssue s x c).2
    have hnum {sub : Nat} (hsub : sub < 256) (hne : sub ∉ [3, 6, 12, 15]) :
        (sendCombined (crossIssue s x c).1 x c.i (crossIssue s x c).2).num .crossHub x sub = (crossCounted s x c).num .crossHub x sub :=
      hsent.num (by decide) hx hsub hne
    have hstate : (sendCombined (crossIssue s x c).1 x c.i (crossIssue s x c).2).crossSt x = (s.crossSt x).issue c.i := by
      have hst : (sendCombined (crossIssue s x c).1 x c.i (crossIssue s x c).2).crossSt x = (crossIssue s x c).1.crossSt x :=
        (congrArg (State.crossSt · x) hsent.rest :)
      rw [hst, crossIssue_eq, State.modCross_same]
      exact congrArg (fun l => (Sparse.get l x CrossSt.init).issue c.i) hcross
    refine ⟨_, exec_crossHubDeadline_issues hmanager hx hon hlow hdue, ?_, ?_, fun hne => ?_, ?_, ?_⟩
    · rw [Counted, hnum (by decide) (by decide)]
      exact hcount
    · exact (congrArg (State.bytes · .crossLast x 1) hsent.rest :).trans hbytes
    · rw [Counted, hnum (by decide) (by decide)]
      exact hlack hne
    · rw [hstate]
      exact issue_isIssued _ _
    · rw [hstate]
      rfl
  case decodes =>
    intro s ses bs hs hreset hhas hlow hhigh
    have hserved := (replay_accepted hs hhas (by omega)).volatile rfl (t := replayWrite s bs) (c := .success) rfl hreset
    exact ⟨_, congrArg Host.Outcome.next hserved, rfl, replayWrite_shows s bs (if_neg (by omega))⟩
  case short =>
    intro s ses bs hs hreset hhas hshort
    have hserved := (replay_accepted hs hhas (by omega)).volatile rfl (t := replayWrite s bs) (c := .success) rfl hreset
    obtain ⟨hresult, hwords, hcount⟩ := replayWrite_shows s bs (if_pos (.inl hshort))
    exact ⟨_, congrArg Host.Outcome.next hserved, rfl, hresult, hwords, hcount⟩

end Sys2Proof.Machine
end

section
/-! PROOFS. Calibration of cells and background selection of elements (R235 to R259). -/

namespace Sys2Proof.Machine

open Sys2Proof

variable {s t : State} {c cell m ses : Nat} {r : CalRun} {bs : Bytes}

/-! What the values of a cell leave of the run (R236 to R259). -/

/-- The power state, the run with its cells, and the modulators to be marked as failed. -/
def calView (s : State) : PowerSt × Option CalRun × List Nat × List (Nat × Nat) × Option Nat × List (Nat × Nat × Nat) :=
  (s.power, s.cal.run, s.cal.waiting, s.cal.running, s.cal.abortAt, s.cal.unmatched)

theorem setNum_calView (s : State) (o : Obj) (u sub : Nat) (v : Int) : calView (s.setNum o u sub v) = calView s := rfl

theorem raiseAt_calView (s : State) (src cause detail tick : Nat) : calView (raiseAt s src cause detail tick) = calView s :=
  (congrArg calView (raiseAt_frame s src cause detail tick).1 :)

theorem raise_calView (s : State) (src cause detail : Nat) : calView (raise s src cause detail) = calView s := raiseAt_calView ..

theorem windowsRestart_calView (s : State) (cell a : Nat) : calView (windowsRestart s cell a) = calView s :=
  foldl_kept _ s fun _ _ => rfl

theorem setElements_calView (s : State) (c m a mask : Nat) : calView (setElements s c m a mask) = calView s := by
  unfold setElements
  split <;> rfl

theorem addFlag_calView (s : State) (ch flag : Nat) (src : FSrc) (a b : Nat) : calView (addFlag s ch flag src a b) = calView s := by
  unfold addFlag
  split <;> rfl

theorem failedTouch_calView (s : State) (c a : Nat) : calView (failedTouch s c a) = calView s := by
  refine foldl_kept _ s fun v m => ?_
  dsimp only
  split
  · exact raiseAt_calView v 46 1 (c * 256 + m) a
  · split <;> rfl

theorem spareTouch_calView (s : State) (c a b : Nat) : calView (spareTouch s c a b) = calView s := by
  unfold spareTouch
  extract_lets serving move restarted stop
  have hmove (v : State) (m serving : Nat) : calView (move v m serving) = calView v :=
    iteInduction (motive := fun x => calView x = calView v) (fun _ => addFlag_calView _ _ _ _ _ _) fun _ => rfl
  clear_value move
  have hrestarted : calView restarted = calView s := (windowsRestart_calView _ c b).trans ((hmove _ _ 1).trans (hmove s a 0))
  exact (failedTouch_calView _ c b).trans hrestarted

theorem setSpare_calView (s : State) (c b a : Nat) : calView (setSpare s c b a) = calView s := by
  unfold setSpare
  dsimp only
  split
  · rfl
  · exact spareTouch_calView _ _ _ _

theorem selfTest_calView (s : State) (c a : Nat) (x : CalResult) : calView (selfTest s c a x) = calView s := by
  unfold selfTest
  extract_lets tested mask want assigned
  have htested : calView tested = calView s := foldl_kept _ s fun v m => by
    dsimp only
    split
    · rfl
    · exact setElements_calView _ _ _ _ _
  have hassigned : calView assigned = calView tested :=
    iteInduction (motive := fun v => calView v = calView tested) (fun _ => setSpare_calView _ _ _ _) fun _ =>
      iteInduction (motive := fun v => calView v = calView tested) (fun _ => setSpare_calView _ _ _ _) fun _ => rfl
  exact (failedTouch_calView assigned c a).trans (hassigned.trans htested)

theorem calRefuse_calView (s : State) (cause detail : Nat) : calView (calRefuse s cause detail) = calView s := raise_calView _ _ _ _

theorem gainValue_calView (s : State) (ch code a : Nat) (span offset : Int) : calView (gainValue s ch code a span offset) = calView s := by
  unfold gainValue
  dsimp only
  split
  · exact calRefuse_calView _ _ _
  · rfl

theorem trimValue_calView (s : State) (c k : Nat) (x : Int) : calView (trimValue s c k x) = calView s := by
  unfold trimValue
  extract_lets d mode sub set v
  refine iteInduction (motive := fun y => calView y = calView s) (fun _ => rfl) fun _ => ?_
  exact iteInduction (motive := fun y => calView y = calView s) (fun _ => calRefuse_calView _ _ _) fun _ => rfl

theorem deltaNow_calView (s : State) (ch delta : Nat) : calView (deltaNow s ch delta) = calView s := rfl

theorem skewValue_calView (s : State) (ch a delta : Nat) : calView (skewValue s ch a delta) = calView s := by
  unfold skewValue
  dsimp only
  split
  · exact raise_calView _ _ _ _
  · rfl

theorem cellValues_calView (s : State) (c a ms : Nat) (r : CalRun) (x : CalResult) : calView (cellValues s c a ms r x) = calView s := by
  unfold cellValues
  extract_lets st tested passes each gained trimmed
  have htested : calView tested = calView s :=
    iteInduction (motive := fun v => calView v = calView s) (fun _ => selfTest_calView _ _ _ _) fun _ => rfl
  have heach (v : State) (f : State → Nat → CalChan → State) (hf : ∀ v n y, calView (f v n y) = calView v) :
      calView (each v f) = calView v := foldl_kept _ v fun _ _ => hf _ _ _
  clear_value each
  have hgained : calView gained = calView tested :=
    foldl_kept _ tested fun _ _ => heach _ _ fun _ _ _ => gainValue_calView _ _ _ _ _ _
  have htrimmed : calView trimmed = calView gained :=
    iteInduction (motive := fun v => calView v = calView gained)
      (fun _ => foldl_kept _ gained fun v k => by
        split
        · exact trimValue_calView _ _ _ _
        · rfl) fun _ => rfl
  have hall : calView trimmed = calView s := htrimmed.trans (hgained.trans htested)
  exact iteInduction (motive := fun v => calView v = calView s)
    (fun _ => (heach trimmed _ fun _ _ _ => skewValue_calView _ _ _ _).trans hall) fun _ => hall

theorem chainTouch_calView (old s : State) (a ch : Nat) : calView (chainTouch old s a ch) = calView s := by
  unfold chainTouch
  split <;> rfl

theorem imageCellApply_calView (s : State) (c : Nat) (b : Bytes) : calView (imageCellApply s c b) = calView s := by
  unfold imageCellApply
  extract_lets s1 s2 s3 s4 s5
  have h2 : calView s2 = calView s := (setSpare_calView s1 c _ _).trans (setNum_calView s _ _ _ _)
  have h3 : calView s3 = calView s2 := foldl_kept _ s2 fun _ _ => setElements_calView _ _ _ _ _
  have h4 : calView s4 = calView s3 := foldl_kept _ s3 fun v _ => setNum_calView v _ _ _ _
  have h5 : calView s5 = calView s4 := foldl_kept _ s4 fun v p => by
    extract_lets ch o gains
    have hgains : calView gains = calView v := foldl_kept _ v fun v _ => setNum_calView v _ _ _ _
    clear_value gains
    exact (setNum_calView _ _ _ _ _).trans ((setNum_calView _ _ _ _ _).trans ((deltaNow_calView gains ch _).trans hgains))
  exact (failedTouch_calView s5 c _).trans (h5.trans (h4.trans (h3.trans h2)))

/-! A cell starts, is skipped, or ends (R235 to R244). -/

theorem openFlags_kept {α : Type} {g : State → α} (s : State) (l : List Nat) (a : Nat)
    (hg : ∀ s n, g (openFlag s n fCAL .calibration a) = g s) : g (onChans s l (fun s n => openFlag s n fCAL .calibration a)) = g s :=
  foldl_kept l s hg

theorem openFlag_num (s : State) (n a : Nat) : (openFlag s n fCAL .calibration a).num .cellCal c 31 = s.num .cellCal c 31 := by
  unfold openFlag
  exact State.modChan_num ..

theorem openFlag_cal (s : State) (n a : Nat) : (openFlag s n fCAL .calibration a).cal = s.cal := rfl

theorem addClaims_num (s : State) (l : List (Nat × Option Nat)) (o : Obj) (u sub : Nat) : (addClaims s l).num o u sub = s.num o u sub := rfl

theorem cellBegin_shows (s : State) (c : Nat) (r : CalRun) : (cellBegin s c r).cal.running = s.cal.running ++ [(c, s.now)] ∧
    (cellBegin s c r).cal.waiting = s.cal.waiting.erase c ∧
      (cellBegin s c r).cal.deferred = s.cal.deferred.filter (fun p => p.1 != c) ∧
      (cellBegin s c r).num .cellCal c 31 = (entryTy .cellCal c 31).narrow s.now := by
  unfold cellBegin
  extract_lets a s1 s2 s3 gain s4 s5
  have hcal : (onChans s5 (chansOf c) (fun s n => openFlag s n fCAL .calibration a)).cal = s5.cal :=
    openFlags_kept s5 (chansOf c) a fun v n => openFlag_cal v n a
  have hnum : (onChans s5 (chansOf c) (fun s n => openFlag s n fCAL .calibration a)).num .cellCal c 31 = s5.num .cellCal c 31 :=
    openFlags_kept (g := (State.num · .cellCal c 31)) s5 (chansOf c) a fun v n => openFlag_num v n a
  have hview : calView (windowsRestart s2 c a) = calView s2 := windowsRestart_calView s2 c a
  have hdeferred : (windowsRestart s2 c a).cal.deferred = s2.cal.deferred := foldl_kept (g := fun v => v.cal.deferred) _ s2 fun _ _ => rfl
  rw [hcal, hnum]
  refine ⟨?_, ?_, hdeferred, ?_⟩
  · exact (congrArg (fun v => v.2.2.2.1) hview :)
  · exact (congrArg (fun v => v.2.2.1) hview :)
  · exact (addClaims_num s4 _ _ _ _).trans ((State.modAux_num s3 _ _ _ _).trans (num_setNum_same ..))

theorem exec_cellInterruptionStart_next (hrun : s.cal.run = some r) (hstate : calState s = 3) (htick : s.now % 24576 = 0)
    (hroom : s.cal.running.length < calConcurrency s r) : exec .cellInterruptionStart s = .next (cellNext s r s.cal.waiting) := by
  show execCellInterruptionStart s = _
  unfold execCellInterruptionStart
  rw [hrun]
  dsimp only
  rw [if_neg (by rintro ⟨h, -⟩; omega)]
  exact if_pos ⟨hstate, htick, hroom⟩

theorem cellNext_begins {rest : List Nat} (hready : bit (s.nat .refPower c 3) 1 = true)
    (hfill : cellFilling s c = false ∨ (r.defer = false ∧ s.cal.deferred = [])) : cellNext s r (c :: rest) = cellBegin s c r := by
  unfold cellNext
  rcases hfill with hfill | ⟨hdefer, hnone⟩
  · simp [hfill, hready]
  · simp [hdefer, hnone, hready]

theorem cellNext_skips {rest : List Nat} (hready : bit (s.nat .refPower c 3) 1 = false) (hfill : cellFilling s c = false) :
    cellNext s r (c :: rest) = cellSkip s c := by
  unfold cellNext
  simp [hfill, hready]

theorem calCheckEnd_goesOn (h : s.cal.waiting ≠ [] ∨ s.cal.running ≠ []) : calCheckEnd s = s :=
  if_neg fun ⟨hw, hr⟩ => h.elim (· hw) (· hr)

theorem cellSkip_shows {d : Nat} {rest : List Nat} (hwaiting : s.cal.waiting = c :: d :: rest) :
    (cellSkip s c).cal.running = s.cal.running ∧ (cellSkip s c).cal.waiting = d :: rest ∧ (cellSkip s c).chans = s.chans := by
  unfold cellSkip
  extract_lets s1
  have hleft : (raise (s1.modCal (fun k => { k with waiting := k.waiting.erase c, deferred := k.deferred.filter (fun p => p.1 != c) }))
      51 4 c).cal.waiting = d :: rest := by
    rw [raise_cal]
    exact (congrArg (List.erase · c) hwaiting).trans (List.erase_cons_head ..)
  rw [calCheckEnd_goesOn (.inl (by rw [hleft]; simp)), hleft, raise_cal, raise_chans]
  exact ⟨rfl, rfl, rfl⟩

theorem exec_takeGuardExpiry_begins {d : Nat × Nat} (hrun : s.cal.run = some r)
    (hdeferred : s.cal.deferred.find? (fun p => p.1 == cell) = some d) (hstate : calState s = 3) (htick : s.now % 24576 = 0)
    (hdue : d.2 + msTicks (s.nat .cal 0 4) ≤ s.now) (hroom : s.cal.running.length < calConcurrency s r)
    (hready : bit (s.nat .refPower cell 3) 1 = true) : exec (.takeGuardExpiry cell) s = .next (cellBegin (raise s 51 5 cell) cell r) := by
  show execTakeGuardExpiry cell s = _
  unfold execTakeGuardExpiry
  rw [hrun, hdeferred]
  dsimp only
  rw [if_pos ⟨hstate, htick, hdue, hroom⟩, if_pos hready]

theorem exec_cellInterruptionEnd_ends {a : Nat} {measured : CalResult} (hrun : s.cal.run = some r)
    (hrunning : s.cal.running = [(cell, a)]) (habort : s.cal.abortAt = none) (hdue : a + msTicks r.length ≤ s.now) :
    exec (.cellInterruptionEnd cell measured) s = .next (cellEnd s cell a (a + msTicks r.length) r measured) := by
  have hfind : s.cal.running.find? (fun p => p.1 == cell) = some (cell, a) := by
    rw [hrunning]
    exact List.find?_cons_of_pos (by simp)
  show execCellInterruptionEnd cell measured s = _
  unfold execCellInterruptionEnd
  rw [hrun, hfind]
  dsimp only
  rw [habort]
  exact if_pos hdue

/-- A cell whose interruption has ended, before the run is looked at (R237, R238). -/
def cellClosed (s : State) (c ta tb : Nat) (r : CalRun) (x : CalResult) : State :=
  let old := s
  let s := cellValues s c tb ((tb - ta) / 24576) r x
  let s := onChans s (chansOf c) (fun s n => chainTouch old s tb n)
  let s := onChans s (chansOf c) (fun s n =>
    let s := closeLater (closeFlag s n fCAL .calibration tb) c tb (inputSwitches s n)
    addFlag s n fSET .timed tb (tb + usTicks 200 + s.holdTicks n + s.settleTicks n tb))
  let s := (windowsRestart s c tb).setNum .cellCal c 32 tb
  let s := s.modAux (fun a => { a with claims := a.claims.filter (fun q => (q.2.map (· / 4)) != some c) })
  s.modCal (fun k => { k with running := k.running.filter (fun p => p.1 != c) })

theorem cellEnd_eq (s : State) (c ta tb : Nat) (r : CalRun) (x : CalResult) : cellEnd s c ta tb r x = calCheckEnd (cellClosed s c ta tb r x) := rfl

theorem cellClosed_shows (s : State) (c ta tb : Nat) (r : CalRun) (x : CalResult) :
    (cellClosed s c ta tb r x).cal.run = s.cal.run ∧ (cellClosed s c ta tb r x).cal.waiting = s.cal.waiting ∧
      (cellClosed s c ta tb r x).cal.running = s.cal.running.filter (fun p => p.1 != c) ∧
      (cellClosed s c ta tb r x).num .cellCal c 32 = (entryTy .cellCal c 32).narrow (tb : Int) := by
  unfold cellClosed
  extract_lets old s1 s2 s3 s4 s5
  have h1 : calView s1 = calView s := cellValues_calView _ _ _ _ _ _
  have h2 : calView s2 = calView s1 := foldl_kept _ s1 fun _ _ => chainTouch_calView _ _ _ _
  have h3 : calView s3 = calView s2 := foldl_kept _ s2 fun _ _ => addFlag_calView _ _ _ _ _ _
  have h4 : calView s4 = calView s3 := (setNum_calView _ _ _ _ _).trans (windowsRestart_calView s3 c tb)
  have h : calView s4 = calView s := h4.trans (h3.trans (h2.trans h1))
  refine ⟨?_, ?_, ?_, (State.modCal_num s5 _ _ _ _).trans ((State.modAux_num s4 _ _ _ _).trans (num_setNum_same ..))⟩
  · exact (congrArg (fun v => v.2.1) h :)
  · exact (congrArg (fun v => v.2.2.1) h :)
  · exact (congrArg (fun v => v.2.2.2.1.filter (fun p => p.1 != c)) h :)

theorem calEnd_cellCal (s : State) (code c : Nat) (hc : c < 24) :
    (calEnd s code).num .cellCal c 32 = s.num .cellCal c 32 ∧ (calEnd s code).cal.running = [] := by
  have hkey {o : Obj} {sub : Nat} (ho : o ≠ .cellCal) (hu : 0 < o.size) (hsub : sub < 256) : entryKey .cellCal c 32 ≠ entryKey o 0 sub :=
    entryKey_obj_ne (Ne.symm ho) hc hu (by decide) hsub
  unfold calEnd
  extract_lets s1 s2 s3
  have h1 : s1.num .cellCal c 32 = s.num .cellCal c 32 := by
    simp only [s1]
    rw [num_setNum_ne _ (hkey (by decide) (by decide) (by decide)), num_setNum_ne _ (hkey (by decide) (by decide) (by decide)),
      num_setNum_ne _ (hkey (by decide) (by decide) (by decide))]
  have h2 : s2.num .cellCal c 32 = s1.num .cellCal c 32 :=
    iteInduction (motive := fun t : State => t.num .cellCal c 32 = s1.num .cellCal c 32)
      (fun _ => num_bump_ne s1 (hkey (by decide) (by decide) (by decide)) 1) fun _ => rfl
  rw [raise_num_sub _ _ _ _ (by decide) (by decide), raise_cal]
  unfold phaseAfterRun
  refine ⟨(conditionMet_num _ _ _ _).trans (Eq.trans ?_ (h2.trans h1)), ?_⟩
  · split
    · rw [num_setNum_ne _ (hkey (by decide) (by decide) (by decide)), num_setNum_ne _ (hkey (by decide) (by decide) (by decide))]
      rfl
    · rfl
  · show (if _ then _ else _ : State).cal.running = []
    split <;> rfl

/-! The calibration image (R257 to R259). -/

theorem serveRead_image (hphase : 3 ≤ phase s) (hstaged : stagedView s ses .calImage 0 1 = none) :
    serveRead s ses 0x4110 1 = (answer s .success, .success, calImage s) := by
  have hserved : notServed s 0x4110 true = false := by
    unfold notServed
    rw [decide_eq_false (by omega)]
    rfl
  have hvalue : readValue s ses .calImage 0 1 = calImage s := by
    unfold readValue
    rw [hstaged]
    rfl
  unfold serveRead
  dsimp only
  rw [hserved, show locate 0x4110 = some (.calImage, 0) from locate_index (o := .calImage) (u := 0) (by decide)]
  dsimp only
  rw [if_neg (by decide), show s.has .calImage 0 = true from has_of_present (by decide) rfl, if_neg (by decide), if_neg (by decide)]
  exact congrArg (fun b => (answer s .success, Code.success, b)) hvalue

theorem image_accepted (hs : s.serves ses) (hlen : bs.length ≤ 65535) :
    Accepted s ses .calImage 0 1 ⟨1, 1, "Calibration image", .blob, .rw, false, .calc, .any⟩ bs 0 :=
  ⟨hs, by decide, has_of_present (by decide) rfl, ⟨rfl, by decide⟩, ⟨decide_eq_false (by omega), rfl⟩, rfl, rfl, rfl⟩

/-- The values of an image in effect (R259). -/
def imageApplied (s : State) (b : Bytes) : State :=
  let t := s.allCells.foldl (fun s c => imageCellApply s c (slice b (32 + 1260 * c) 1260)) s
  onChans t t.allChans (fun x n => chainTouch s x x.now n)

/-- The hold-off ends with an image (R258, R259). -/
def imageTaken (s : State) (b : Bytes) : State :=
  let s := ((s.setNum .cal 0 13 (leAt b 16 4)).setNum .cal 0 5 0).setNum .cal 0 6 5
  holdEnded ((s.setNum .cal 0 9 0).modCal (fun k => { k with holdFrom := none })) 5

theorem imageWrite_takes (hstate : calState s = 1) (hok : imageOk s bs = true) :
    imageWrite s bs = (imageTaken (imageApplied s bs) bs, .success) := by
  unfold imageWrite
  rw [if_neg (by simp [hstate]), if_neg (by simp [hok])]
  unfold imageTaken imageApplied
  dsimp only

theorem imageWrite_refused (hstate : calState s ≠ 1) : imageWrite s bs = (s, .inUse) := if_pos hstate

theorem imageApplied_power (s : State) (b : Bytes) : (imageApplied s b).power = s.power := by
  unfold imageApplied
  extract_lets applied
  have happlied : calView applied = calView s := foldl_kept _ s fun _ _ => imageCellApply_calView _ _ _
  have htouched : calView (onChans applied applied.allChans (fun x n => chainTouch s x x.now n)) = calView applied :=
    foldl_kept _ applied fun _ _ => chainTouch_calView _ _ _ _
  exact (congrArg Prod.fst (htouched.trans happlied) :)

theorem imageTaken_shows (s : State) (b : Bytes) : (imageTaken s b).num .cal 0 5 = 0 ∧ (imageTaken s b).num .cal 0 6 = 5 ∧
    (imageTaken s b).num .startup 0 3 = 5 ∧ (imageTaken s b).cal.holdFrom = none ∧
      (imageTaken s b).power.inReset = s.power.inReset := by
  refine ⟨?_, ?_, ?_, rfl, rfl⟩ <;>
  · simp (disch := decide) only [imageTaken, holdEnded, conditionMet_num, num_setNum_ne, num_setNum_same, State.modCal_num]
    rfl

/-! Background selection (R248 to R251). -/

theorem exec_estimationWindowEnd_ends {est : List Int} {a : Nat} (hcell : cell < Config.cells s.variant) (hm : m < 17)
    (hon : s.nat .cal 0 10 = 1) (hfree : interrupted s cell = false) (hready : bit (s.nat .refPower cell 3) 1 = true)
    (hlen : est.length = 15) (ha : a = Sparse.get s.cal.winFrom (17 * cell + m) 0 + 2 ^ s.nat .cal 0 11 * s.modPeriod cell)
    (hdue : a ≤ s.now) : exec (.estimationWindowEnd cell m est) s =
      .next (if windowSpoiled s cell m (Sparse.get s.cal.winFrom (17 * cell + m) 0) a then windowRestart s cell m a
        else windowEnd s cell m a est) := by
  subst ha
  exact if_pos ⟨hcell, hm, hon, hfree, hready, hlen, hdue⟩

/-- What the end of an estimation window leaves, beside the estimates and what follows from them. -/
abbrev WindowEnded (s t : State) (key a : Nat) : Prop :=
  Sparse.find t.cal.winFrom key = some a ∧ t.cal.running = s.cal.running ∧ { t with cal := s.cal } = s

theorem WindowEnded.modCal {key a : Nat} (h : WindowEnded s t key a) {f : CalSt → CalSt} (hfrom : ∀ k, (f k).winFrom = k.winFrom)
    (hrunning : ∀ k, (f k).running = k.running) : WindowEnded s (t.modCal f) key a := by
  obtain ⟨hw, hr, hrest⟩ := h
  exact ⟨(congrArg (Sparse.find · key) (hfrom t.cal)).trans hw, (hrunning t.cal).trans hr, hrest⟩

theorem windowEnd_shows (s : State) (cell m a : Nat) (est : List Int) : WindowEnded s (windowEnd s cell m a est) (17 * cell + m) a := by
  unfold windowEnd
  extract_lets key mask active old es x y beyond n s1 s2 late
  have h1 : WindowEnded s s1 key a := ⟨Sparse.find_put_same .., rfl, rfl⟩
  clear_value s1
  have h2 : WindowEnded s s2 key a :=
    iteInduction (motive := fun t => WindowEnded s t key a) (fun _ => h1.modCal (fun _ => rfl) fun _ => rfl) fun _ => h1
  clear_value s2
  exact iteInduction (motive := fun t => WindowEnded s t key a) (fun _ => h2.modCal (fun _ => rfl) fun _ => rfl) fun _ => h2

theorem exec_elementSwitch_due {x : ElemSwitch} (h : s.cal.switches.find? (fun y => y.cell == cell && y.m == m) = some x)
    (hdue : x.tick ≤ s.now) : exec (.elementSwitch cell m) s =
      .next (elementSwitch (s.modCal (fun k => { k with switches := k.switches.erase x })) x) := by
  show execElementSwitch cell m s = _
  unfold execElementSwitch
  rw [h]
  exact if_pos hdue

theorem elementSwitch_shows (s : State) (x : ElemSwitch) (hcell : x.cell < 24) (hm : x.m < 17) :
    (elementSwitch s x).num .elements x.cell (x.m + 1) = (entryTy .elements x.cell (x.m + 1)).narrow
      ((setBit (clearBit (s.nat .elements x.cell (x.m + 1)) x.out) x.into : Nat) : Int) ∧
      Counted s (elementSwitch s x) .cellCal x.cell 28 1 ∧
      (elementSwitch s x).num .cellCal x.cell 29 = (entryTy .cellCal x.cell 29).narrow (x.tick : Int) ∧
      (elementSwitch s x).cal.switches = s.cal.switches := by
  have hkey (sub : Nat) (hsub : sub < 256) : entryKey .elements x.cell (x.m + 1) ≠ entryKey .cellCal x.cell sub :=
    entryKey_obj_ne (by decide) hcell hcell (by omega) hsub
  unfold elementSwitch
  extract_lets mask s1 s2 s3
  have h3 : s3.num .elements x.cell (x.m + 1) = (entryTy .elements x.cell (x.m + 1)).narrow
      ((setBit (clearBit (s.nat .elements x.cell (x.m + 1)) x.out) x.into : Nat) : Int) ∧ Counted s s3 .cellCal x.cell 28 1 ∧
      s3.num .cellCal x.cell 29 = (entryTy .cellCal x.cell 29).narrow (x.tick : Int) ∧ s3.cal.switches = s.cal.switches := by
    refine ⟨?_, ?_, num_setNum_same .., rfl⟩
    · refine (num_setNum_ne _ (hkey 29 (by decide)) _).trans ((num_bump_ne _ (hkey 28 (by decide)) _).trans (num_setNum_same ..))
    · refine (num_setNum_sub _ _ _ (by decide) _).trans ((num_bump_same ..).trans ?_)
      rw [num_setNum_ne _ (hkey 28 (by decide)).symm]
  clear_value s3
  split
  · unfold addFlag
    dsimp only
    split <;> exact h3
  · exact h3

/-! A modulator that cannot be matched (R251). -/

/-- The failed mask of a cell stands as before, whatever the spare does. -/
theorem raiseAt_failedMask (s : State) (src cause detail tick c : Nat) : (raiseAt s src cause detail tick).num .spare c 2 = s.num .spare c 2 :=
  raiseAt_num_sub _ _ _ _ _ (by decide) (by decide)

theorem addFlag_failedMask (s : State) (ch flag : Nat) (src : FSrc) (a b c : Nat) :
    (addFlag s ch flag src a b).num .spare c 2 = s.num .spare c 2 := by
  unfold addFlag
  split
  · exact State.modChan_num ..
  · rfl

theorem closeFlag_failedMask (s : State) (ch flag : Nat) (src : FSrc) (a c : Nat) :
    (closeFlag s ch flag src a).num .spare c 2 = s.num .spare c 2 := State.modChan_num ..

theorem openFlag_failedMask (s : State) (ch flag : Nat) (src : FSrc) (a c : Nat) :
    (openFlag s ch flag src a).num .spare c 2 = s.num .spare c 2 := State.modChan_num ..

theorem failedTouch_failedMask (s : State) (cell a c : Nat) : (failedTouch s cell a).num .spare c 2 = s.num .spare c 2 := by
  refine foldl_kept (g := (State.num · .spare c 2)) _ s fun v m => ?_
  dsimp only
  split
  · exact (openFlag_failedMask _ _ _ _ _ _).trans (raiseAt_failedMask _ _ _ _ _ _)
  · split
    · exact closeFlag_failedMask _ _ _ _ _ _
    · rfl

theorem windowsRestart_failedMask (s : State) (cell a c : Nat) : (windowsRestart s cell a).num .spare c 2 = s.num .spare c 2 :=
  foldl_kept (g := (State.num · .spare c 2)) _ s fun _ _ => rfl

theorem ovlSwitch_num (s : State) (ch a : Nat) (o : Obj) (u sub : Nat) : (ovlSwitch s ch a).num o u sub = s.num o u sub := rfl

theorem spareTouch_failedMask (s : State) (cell a b c : Nat) : (spareTouch s cell a b).num .spare c 2 = s.num .spare c 2 := by
  unfold spareTouch
  extract_lets serving move restarted stop
  have hmove (v : State) (m serving : Nat) : (move v m serving).num .spare c 2 = v.num .spare c 2 :=
    iteInduction (motive := fun x : State => x.num .spare c 2 = v.num .spare c 2)
      (fun _ => (addFlag_failedMask _ _ _ _ _ _ _).trans ((ovlSwitch_num _ _ _ _ _ _).trans
        (num_setNum_ne v (entryKey_ne_of_sub (by decide) (by decide) (by decide)) _))) fun _ => rfl
  clear_value move
  have hrestarted : restarted.num .spare c 2 = s.num .spare c 2 :=
    (windowsRestart_failedMask _ cell b c).trans ((hmove _ _ 1).trans (hmove s a 0))
  clear_value restarted
  exact (failedTouch_failedMask _ cell b c).trans ((State.modCell_num restarted _ _ _ _ _).trans hrestarted)

theorem setSpare_failedMask (s : State) (cell b a c : Nat) : (setSpare s cell b a).num .spare c 2 = s.num .spare c 2 := by
  unfold setSpare
  dsimp only
  split
  · rfl
  · refine (spareTouch_failedMask _ _ _ _ _).trans ?_
    rw [num_bump_ne _ (entryKey_ne_of_sub (by decide) (by decide) (by decide)),
      num_setNum_ne _ (entryKey_ne_of_sub (by decide) (by decide) (by decide))]

/-- A modulator that cannot be matched, marked as failed, with its event (R251). -/
def unmatchedMarked (s : State) (cell m : Nat) (x : Nat × Nat × Nat) : State :=
  let s := s.modCal (fun k => { k with unmatched := k.unmatched.erase x })
  raise (s.setNum .spare cell 2 (setBit (s.nat .spare cell 2) m : Nat)) 46 2 (cell * 256 + m)

theorem unmatchedMarked_shows (s : State) (hm : m < 17) (x : Nat × Nat × Nat) :
    bit ((unmatchedMarked s cell m x).nat .spare cell 2) m = true ∧
      (calView (unmatchedMarked s cell m x)).2.2.2.2.2 = s.cal.unmatched.erase x := by
  unfold unmatchedMarked
  refine ⟨?_, ?_⟩
  · rw [State.nat, raise_num_sub _ _ _ _ (by decide) (by decide), num_setNum_same]
    exact (bit_narrow32 _ (by omega)).trans (bit_setBit _ _)
  · rw [raise_calView]
    rfl

/-- The spare answers a failing modulator: it leaves one that it serves when it fails itself, or serves the failing one when it is free and
substitution is automatic (R107, R251). -/
def spareAnswers (s : State) (cell m : Nat) : State :=
  let a := s.nat .spare cell 1
  if m = 16 then (if a < 16 then setSpare s cell 255 s.now else s)
  else if s.nat .cal 0 15 = 1 ∧ bit (s.nat .spare cell 2) 16 = false ∧ (a = 255 ∨ a = m) then setSpare s cell m s.now
  else s

theorem spareAnswers_calView (s : State) (cell m : Nat) : calView (spareAnswers s cell m) = calView s := by
  unfold spareAnswers
  extract_lets a
  split_ifs
  · exact setSpare_calView _ _ _ _
  · rfl
  · exact setSpare_calView _ _ _ _
  · rfl

theorem spareAnswers_failedMask (s : State) (cell m c : Nat) : (spareAnswers s cell m).num .spare c 2 = s.num .spare c 2 := by
  unfold spareAnswers
  extract_lets a
  split_ifs
  · exact setSpare_failedMask _ _ _ _ _
  · rfl
  · exact setSpare_failedMask _ _ _ _ _
  · rfl

theorem exec_modulatorCannotBeMatched_marks {x : Nat × Nat × Nat}
    (h : s.cal.unmatched.find? (fun y => y.1 == cell && y.2.1 == m) = some x) (hdue : x.2.2 ≤ s.now) :
    exec (.modulatorCannotBeMatched cell m) s =
      .next (failedTouch (spareAnswers (unmatchedMarked s cell m x) cell m) cell (spareAnswers (unmatchedMarked s cell m x) cell m).now) := by
  show execModulatorCannotBeMatched cell m s = _
  unfold execModulatorCannotBeMatched
  rw [h]
  exact if_pos hdue

/-- Settles O31: a cell's values leave the run as it is, and its end looks at the run once. -/
theorem cellsAreInterruptedAndElementsSwitched : Obligations.CellsAreInterruptedAndElementsSwitched := by
  unfold Obligations.CellsAreInterruptedAndElementsSwitched
  refine ⟨?starts, ?skips, ?guard, ?ends, ?read, ?image, ?refused, ?window, ?switch, ?unmatched⟩
  case starts =>
    intro s r c rest hrun hstate htick hroom hwaiting hcell hready hfill
    obtain ⟨hrunning, hleft, -, hnum⟩ := cellBegin_shows s c r
    refine ⟨cellBegin s c r, ?_, hrunning, ?_, hnum⟩
    · rw [exec_cellInterruptionStart_next hrun hstate htick hroom, hwaiting, cellNext_begins hready hfill]
    · rw [hleft, hwaiting, List.erase_cons_head]
  case skips =>
    intro s r c d rest hrun hstate htick hroom hwaiting hready hfill
    refine ⟨cellSkip s c, ?_, cellSkip_shows hwaiting⟩
    rw [exec_cellInterruptionStart_next hrun hstate htick hroom, hwaiting, cellNext_skips hready hfill]
  case guard =>
    intro s cell r d hrun hdeferred hstate htick hdue hroom hready
    obtain ⟨hrunning, -, hleft, -⟩ := cellBegin_shows (raise s 51 5 cell) cell r
    rw [raise_cal, raise_now] at hrunning
    rw [raise_cal] at hleft
    exact ⟨_, exec_takeGuardExpiry_begins hrun hdeferred hstate htick hdue hroom hready, hrunning, hleft⟩
  case ends =>
    intro s cell a r measured hcell hrun hrunning habort hdue
    have hlt : cell < 24 := Nat.lt_of_lt_of_le hcell (cells_le s.variant)
    obtain ⟨hrun', hwaiting, hrunning', hnum⟩ := cellClosed_shows s cell a (a + msTicks r.length) r measured
    have hnone : (cellClosed s cell a (a + msTicks r.length) r measured).cal.running = [] := by
      rw [hrunning', hrunning]
      simp
    have hexec := exec_cellInterruptionEnd_ends (measured := measured) hrun hrunning habort hdue
    rw [cellEnd_eq] at hexec
    generalize cellClosed s cell a (a + msTicks r.length) r measured = u at *
    by_cases hleft : s.cal.waiting = []
    · have hend : calCheckEnd u = calEnd u (if u.cal.abortAt.isSome then 3 else if u.cal.refused then 2 else 1) :=
        if_pos ⟨hwaiting.trans hleft, hnone⟩
      obtain ⟨hstate, -, -, hover⟩ := calEnd_result u (code := if u.cal.abortAt.isSome then 3 else if u.cal.refused then 2 else 1)
        (by split_ifs <;> decide)
      obtain ⟨hkept, hfree⟩ := calEnd_cellCal u (if u.cal.abortAt.isSome then 3 else if u.cal.refused then 2 else 1) cell hlt
      rw [hend] at hexec
      exact ⟨_, hexec, hfree, hkept.trans hnum, fun _ => ⟨hover, hstate⟩, fun hne => absurd hleft hne⟩
    · rw [calCheckEnd_goesOn (.inl (by rw [hwaiting]; exact hleft))] at hexec
      exact ⟨_, hexec, hnone, hnum, fun hempty => absurd hempty hleft, fun _ => hrun'.trans hrun⟩
  case read =>
    intro s ses hphase hstaged
    refine ⟨readAnswer (answer s .success, .success, calImage s), ?_, rfl, rfl, rfl⟩
    exact congrArg (fun x => Host.Outcome.next (readAnswer x)) (serveRead_image hphase hstaged)
  case image =>
    intro s ses bs hs hreset hstate hlen hok
    obtain ⟨hrun, hcode, hphase, hhold, hpower⟩ := imageTaken_shows (imageApplied s bs) bs
    have hserved := (image_accepted hs hlen).volatile rfl (imageWrite_takes hstate hok)
      (by rw [hpower, imageApplied_power]; exact hreset)
    generalize imageTaken (imageApplied s bs) bs = u at *
    refine ⟨_, congrArg Host.Outcome.next hserved, rfl, ?_, ?_, ?_, hhold⟩
    · exact (answer_num _ _ (by decide) (by decide) (by decide)).trans hrun
    · exact (answer_num _ _ (by decide) (by decide) (by decide)).trans hcode
    · exact (answer_num _ _ (by decide) (by decide) (by decide)).trans hphase
  case refused =>
    intro s ses bs hs hreset hlen hstate
    exact ⟨_, congrArg Host.Outcome.next ((image_accepted hs hlen).refused (imageWrite_refused hstate) (by decide) hreset), rfl, rfl⟩
  case window =>
    intro s cell m est hcell hm hon hfree hready hlen hdue
    refine ⟨_, exec_estimationWindowEnd_ends hcell hm hon hfree hready hlen rfl hdue, ?_⟩
    split
    · exact ⟨Sparse.find_put_same .., rfl, rfl⟩
    · exact windowEnd_shows s cell m _ est
  case switch =>
    intro s cell m x hcell hm h hdue
    have hfound := List.find?_some h
    simp only [Bool.and_eq_true, beq_iff_eq] at hfound
    obtain ⟨rfl, rfl⟩ := hfound
    have hlt : x.cell < 24 := Nat.lt_of_lt_of_le hcell (cells_le s.variant)
    exact ⟨_, exec_elementSwitch_due h hdue, elementSwitch_shows (s.modCal (fun k => { k with switches := k.switches.erase x })) x hlt hm⟩
  case unmatched =>
    intro s cell m x hcell hm h hdue
    obtain ⟨hbit, hleft⟩ := unmatchedMarked_shows (cell := cell) s hm x
    have hview := (failedTouch_calView _ cell (spareAnswers (unmatchedMarked s cell m x) cell m).now).trans
      (spareAnswers_calView (unmatchedMarked s cell m x) cell m)
    have hmask := (failedTouch_failedMask _ cell (spareAnswers (unmatchedMarked s cell m x) cell m).now cell).trans
      (spareAnswers_failedMask (unmatchedMarked s cell m x) cell m cell)
    refine ⟨_, exec_modulatorCannotBeMatched_marks h hdue, ?_, ?_⟩
    · rw [State.nat, hmask]
      exact hbit
    · exact (congrArg (fun v => v.2.2.2.2.2) hview :).trans hleft

end Sys2Proof.Machine
end

section
/-! PROOFS. The re-anchor command and the SLATE requests (R213, R225 to R228). -/

namespace Sys2Proof.Machine

open Sys2Proof

variable {s t : State} {ses n m k : Nat} {bs : Bytes}

/-! The tick at which a re-anchor starts stands (R213). -/

theorem SideFrame.now (h : SideFrame s t) : t.now = s.now := (congrArg State.now h.rest :)

theorem settleOld_now (s : State) (n : Nat) : (settleOld s n).now = s.now :=
  foldl_kept (g := State.now) _ _ fun _ _ => foldl_kept (g := State.now) _ _ fun _ _ => rfl

theorem endInst_now (s : State) (n a : Nat) : (endInst s n a).now = s.now := by
  unfold endInst
  extract_lets inst rs s1 s2
  have h1 : s1.now = s.now := by
    unfold s1
    split
    · split
      next s' ok h =>
      have hgap : s'.now = s.now := (congrArg (fun r : State × Bool => r.1.now) h.symm).trans (writeGap_side s _ rs).now
      exact iteInduction (motive := fun x : State => x.now = s.now) (fun _ => hgap) fun _ => (haltStream_side s' n).now.trans hgap
    · split <;> rfl
  clear_value s1
  exact iteInduction (motive := fun x : State => x.now = s.now) (fun _ => rfl) fun _ => (settleOld_now _ n).trans h1

theorem takeTo_now (s : State) (n st a : Nat) : (takeTo s n st a).now = s.now := rfl

theorem spoilResync_now (s : State) : (spoilResync s).now = s.now := rfl

theorem winsReanchor_now (s : State) (a : Nat) : (winsReanchor s a).now = s.now := foldl_kept (g := State.now) _ _ fun _ _ => rfl

theorem fixTide_now (s : State) (n : Nat) (f : Fill) (anch : Bool) (tide : Int) : (fixTide s n f anch tide).now = s.now := by
  unfold fixTide
  extract_lets last g s1 s2
  have h1 : s1.now = s.now := iteInduction (motive := fun x : State => x.now = s.now) (fun _ => rfl) fun _ =>
    (raise_now _ _ _ _).trans (State.bump_now ..)
  have h2 : s2.now = s.now := h1
  clear_value s1 s2
  exact iteInduction (motive := fun x : State => x.now = s.now) (fun _ => (takeTo_now s2 n 3 s2.now).trans h2) fun _ => h2

theorem takesReanchor_now (s : State) : (takesReanchor s).now = s.now := by
  unfold takesReanchor
  dsimp only
  refine foldl_kept (g := State.now) _ s fun u n => ?_
  split
  · split
    · exact fixTide_now _ _ _ _ _
    · rfl
  · rfl

theorem cancelNamed_now (s : State) (a : Nat) : (cancelNamed s a).now = s.now := by
  have hslates (u : State) : (cancelSlates u a).now = u.now := foldl_kept (g := State.now) _ _ fun _ _ => raise_now _ _ _ _
  have hfences (u : State) : (cancelFences u a).now = u.now :=
    foldl_kept (g := State.now) _ u fun _ _ => foldl_kept (g := State.now) _ _ fun _ _ => raise_now _ _ _ _
  have hpulses (u : State) : (cancelPulses u a).now = u.now := by
    refine foldl_kept (g := State.now) _ u fun v p => ?_
    dsimp only
    split
    · split
      · exact raise_now _ _ _ _
      · rfl
    · rfl
  exact (hpulses _).trans ((hfences _).trans (hslates s))

theorem closed_now (s : State) (a : Nat) : (winsReanchor (takesReanchor (streamsEnd s a)) a).now = s.now :=
  (winsReanchor_now _ a).trans ((takesReanchor_now _).trans
    (foldl_kept (g := State.now) (f := fun u n => endInst u n a) _ s fun u n => endInst_now u n a))

theorem reanchor_now (s : State) (a : Nat) : (spoilResync (cancelNamed (winsReanchor (takesReanchor (streamsEnd s a)) a) a)).now = s.now :=
  (spoilResync_now _).trans ((cancelNamed_now _ a).trans (closed_now s a))

theorem exec_reanchorStart_begins {r : Nat} (hcmd : s.clk.reanchorCmd = some r) (htick : s.now % 24576 = 0) (hlate : r < s.now) :
    exec .reanchorStart s = .next ((spoilResync (cancelNamed (winsReanchor (takesReanchor (streamsEnd s s.now)) s.now) s.now)).modClk
      (fun c => { c with reanchorCmd := none, anchorDue := some 2 })) := by
  show execReanchorStart s = _
  unfold execReanchorStart
  rw [hcmd]
  dsimp only
  rw [if_pos ⟨htick, hlate⟩, closed_now]

/-! SLATE requests (R225, R227). -/

theorem slate_accepted (hs : s.serves ses) (hlen : bs.length = 8) :
    Accepted s ses .slate 0 1 ⟨1, 1, "Request SLATE at tick", .grid, .wo, false, .calc, .any⟩ bs (leNat bs) :=
  ⟨hs, by decide, rfl, ⟨rfl, by decide⟩, ⟨bne_eq_false_iff_eq.2 hlen, rfl⟩, rfl, rfl, rfl⟩

theorem zoneSlate_accepted (hs : s.serves ses) (hmanager : s.isManager = true) (hlen : bs.length = 8) :
    Accepted s ses .zoneSlate 0 1 ⟨1, 1, "Zone SLATE at tick", .grid, .wo, false, .calc, .any⟩ bs (leNat bs) :=
  ⟨hs, by decide, has_of_present (by decide) hmanager, ⟨rfl, by decide⟩, ⟨bne_eq_false_iff_eq.2 hlen, rfl⟩, rfl, rfl, rfl⟩

theorem reanchor_accepted (hs : s.serves ses) :
    Accepted s ses .grid 0 10 ⟨10, 10, "Re-anchor command", .u8, .wo, false, .calc, .rng 1 1⟩ [1] 1 :=
  ⟨hs, by decide, rfl, ⟨rfl, by decide⟩, ⟨rfl, rfl⟩, rfl, rfl, rfl⟩

/-- A SLATE at tick m is accepted. -/
def slateListed (s : State) (m : Nat) : State :=
  s.modClk (fun c => { c with slates := if c.slates.contains m then c.slates else c.slates ++ [m] })

theorem slateListed_mem (s : State) (m : Nat) : m ∈ (slateListed s m).clk.slates := by
  show m ∈ (if s.clk.slates.contains m then s.clk.slates else s.clk.slates ++ [m])
  split
  · next h => exact List.contains_iff_mem.mp h
  · exact List.mem_append_right _ (List.mem_singleton_self m)

theorem slateRequest_listed (hanch : anchored s = true) (hlead : s.now + s.nat .slate 0 4 ≤ m) :
    slateRequest s m = (slateListed s m, .success) := if_pos ⟨hanch, hlead⟩

theorem slateRequest_late (h : anchored s = false ∨ m < s.now + s.nat .slate 0 4) :
    slateRequest s m = (raise (s.bump .slate 0 8 1) 55 2 0, .tooLate) := by
  refine if_neg ?_
  rintro ⟨hanch, hlead⟩
  rcases h with h | h
  · exact absurd (h.symm.trans hanch) (by decide)
  · omega

/-- What a manager notes of a SLATE of its zone before it sends the command. -/
def zoneNoted (s : State) (m : Nat) : State :=
  ((s.setNum .zoneSlate 0 2 1).setNum .zoneSlate 0 3 m).modClk
    (fun c => { c with zones := c.zones.filter (fun z => z.1 != m) ++ [(m, 1)] })

theorem zoneIssue_port (s : State) (m : Nat) : PortFrame (zoneNoted s m) (zoneIssue s m) := by
  refine List.foldlRecOn (motive := PortFrame (zoneNoted s m)) _ _ (.refl _) fun u hu p _ => ?_
  split
  · exact hu.trans (sendKmp_frame u _ _ _)
  · exact hu

theorem PortFrame.power (h : PortFrame s t) : t.power = s.power := (congrArg State.power h.rest :)

theorem zoneIssue_shows (s : State) (hm : m < 2 ^ 64) : (zoneIssue s m).num .zoneSlate 0 2 = 1 ∧
    (zoneIssue s m).num .zoneSlate 0 3 = (m : Int) ∧ (m, 1) ∈ (zoneIssue s m).clk.zones ∧
      (zoneIssue s m).clk.slates = s.clk.slates ∧ (zoneIssue s m).power = s.power := by
  have hsent := zoneIssue_port s m
  rw [hsent.num (by decide) (by decide) (.inl (by decide)), hsent.num (by decide) (by decide) (.inl (by decide)), hsent.clk, hsent.power]
  refine ⟨?_, ?_, ?_, rfl, rfl⟩
  · exact (num_setNum_sub _ _ _ (by decide) _).trans (num_setNum_same s _ _ _ _)
  · exact (num_setNum_same (s.setNum .zoneSlate 0 2 1) _ _ _ _).trans (narrowU_of_lt (by omega) (by omega))
  · exact List.mem_append_right _ (List.mem_singleton_self _)

theorem zoneSlate_issues (hanch : anchored s = true) (hlead : s.now + s.nat .slate 0 4 ≤ m) :
    zoneSlate s m = (zoneIssue (slateListed s m) m, .success) := by
  unfold zoneSlate
  rw [slateRequest_listed hanch hlead]
  rfl

theorem leNat_lt_grid (hlen : bs.length = 8) : leNat bs < 2 ^ 64 := by
  have hlt := leNat_lt bs
  rw [hlen] at hlt
  omega

/-- A bit within 64 is kept by an entry of that width. -/
theorem bit_narrow64 (m : Nat) (h : k < 64) : bit (Ty.u64.narrow (m : Nat)).toNat k = bit m k := by
  have hmod : Ty.u64.narrow (m : Nat) = ((m % 2 ^ 64 : Nat) : Int) := rfl
  rw [hmod, Int.toNat_natCast, bit_eq_testBit, bit_eq_testBit, Nat.testBit_mod_two_pow]
  simp [h]

theorem exec_slateConfirm_accepts {pos tick : Nat} (hmanager : s.isManager = true) (hlo : 1 ≤ pos) (hhi : pos ≤ 62) :
    exec (.slateConfirm pos ⟨tick, true⟩) s = .next
      (let u := s.modClk (fun c => { c with zones := c.zones.map (fun z => if z.1 = tick then (z.1, setBit z.2 pos) else z) })
       if tick = s.nat .zoneSlate 0 3 then u.setNum .zoneSlate 0 2 (setBit (s.nat .zoneSlate 0 2) pos : Nat) else u) := by
  show execSlateConfirm pos ⟨tick, true⟩ s = _
  unfold execSlateConfirm
  exact if_pos ⟨hmanager, hlo, hhi, rfl⟩

theorem exec_slateBallEdge_requests {edge : Moment} (hmode : s.nat .slate 0 2 = 1) (hfilter : edge.tick + 25 ≤ s.now)
    (hanch : anchored s = true) (hm : m = ceilTo (s.nat .slate 0 3) (edge.tick + b2n (edge.sub % 65536 != 0) + s.nat .slate 0 4)) :
    exec (.slateBallEdge edge) s = .next (if (slateListed s m).isManager ∧ (slateListed s m).nat .slate 0 5 = 1
      then zoneIssue (slateListed s m) m else slateListed s m) := by
  show execSlateBallEdge edge s = _
  unfold execSlateBallEdge
  rw [if_pos ⟨hmode, hfilter⟩, ← hm]
  exact if_pos hanch

/-- Settles O18: the commands are obeyed or refused as the state of the grid says, and a re-anchor leaves the count. -/
theorem reanchorAndSlateCommands : Obligations.ReanchorAndSlateCommands := by
  unfold Obligations.ReanchorAndSlateCommands
  refine ⟨?obeyed, ?refused, ?starts, ?listed, ?late, ?ball, ?zone, ?confirm⟩
  case obeyed =>
    intro s ses hs hreset hgrid
    have hact : writeAction s ses .grid 0 10 1 [1] = (s.modClk (fun c => { c with reanchorCmd := some s.now }), .success) := if_pos hgrid
    exact ⟨_, congrArg Host.Outcome.next ((reanchor_accepted hs).volatile rfl hact hreset), rfl, rfl⟩
  case refused =>
    intro s ses hs hreset hgrid
    have hact : writeAction s ses .grid 0 10 1 [1] = (s, .outOfRange) := if_neg (by omega)
    exact ⟨_, congrArg Host.Outcome.next ((reanchor_accepted hs).refused hact (by decide) hreset), rfl, rfl⟩
  case starts =>
    intro s r hcmd htick hlate
    have hnow := reanchor_now s s.now
    have hexec := exec_reanchorStart_begins hcmd htick hlate
    generalize spoilResync (cancelNamed (winsReanchor (takesReanchor (streamsEnd s s.now)) s.now) s.now) = u at *
    exact ⟨_, hexec, rfl, rfl, hnow⟩
  case listed =>
    intro s ses bs hs hreset hlen hanch hlead
    have hserved := (slate_accepted hs hlen).volatile rfl (slateRequest_listed hanch hlead) hreset
    exact ⟨_, congrArg Host.Outcome.next hserved, rfl, slateListed_mem s _, answer_num _ _ (by decide) (by decide) (by decide)⟩
  case late =>
    intro s ses bs hs hreset hlen hlate
    have hserved := (slate_accepted hs hlen).volatile rfl (slateRequest_late hlate)
      ((congrArg PowerSt.inReset (raise_power _ _ _ _)).trans hreset)
    refine ⟨_, congrArg Host.Outcome.next hserved, rfl, ?_, ?_⟩
    · exact congrArg ClkSt.slates (raise_clk _ _ _ _)
    · rw [Counted, answer_num _ _ (by decide) (by decide) (by decide), raise_num_sub _ _ _ _ (by decide) (by decide)]
      exact num_bump_same ..
  case ball =>
    intro s edge hmode hfilter hanch
    refine ⟨_, exec_slateBallEdge_requests hmode hfilter hanch rfl, ?_⟩
    split
    · exact (congrArg ClkSt.slates (zoneIssue_port (slateListed s _) _).clk :) ▸ slateListed_mem s _
    · exact slateListed_mem s _
  case zone =>
    intro s ses bs hs hreset hmanager hlen hanch hlead
    obtain ⟨hmask, htick, hzone, hslates, hpower⟩ := zoneIssue_shows (slateListed s (leNat bs)) (leNat_lt_grid hlen)
    have hserved := (zoneSlate_accepted hs hmanager hlen).volatile (t := zoneIssue (slateListed s (leNat bs)) (leNat bs)) rfl (zoneSlate_issues hanch hlead)
      ((congrArg PowerSt.inReset hpower).trans hreset)
    generalize zoneIssue (slateListed s (leNat bs)) (leNat bs) = u at *
    refine ⟨_, congrArg Host.Outcome.next hserved, rfl, ?_, ?_, ?_, hzone⟩
    · exact hslates ▸ slateListed_mem s _
    · exact (answer_num _ _ (by decide) (by decide) (by decide)).trans hmask
    · exact (answer_num _ _ (by decide) (by decide) (by decide)).trans htick
  case confirm =>
    intro s pos tick hmanager hlo hhi
    refine ⟨_, exec_slateConfirm_accepts hmanager hlo hhi, ?_⟩
    dsimp only
    split
    · next hshown =>
      refine ⟨rfl, fun _ => ?_, fun h => absurd hshown h, rfl⟩
      rw [nat_setNum_same]
      exact (bit_narrow64 _ (by omega)).trans (bit_setBit _ _)
    · next hother => exact ⟨rfl, fun h => absurd h hother, fun _ => rfl, rfl⟩

end Sys2Proof.Machine
end

section
/-! PROOFS. What the release of compare units leaves of the grid, of the channels and of the cells (R289, R359, R378, R391, R394). -/

namespace Sys2Proof.Machine

open Sys2Proof

variable {s t : State} {n : Nat}

/-- The grid count, the clock, the channels and the cells. -/
def core (s : State) := (s.now, s.clk, s.chans, s.cells)

/-! The parts of the hub that they do not hold. -/

@[simp] theorem core_setNum (s : State) (o : Obj) (u sub : Nat) (v : Int) : core (s.setNum o u sub v) = core s := rfl
@[simp] theorem core_setBytes (s : State) (o : Obj) (u sub : Nat) (v : Bytes) : core (s.setBytes o u sub v) = core s := rfl
@[simp] theorem core_bump (s : State) (o : Obj) (u sub n : Nat) : core (s.bump o u sub n) = core s := rfl
@[simp] theorem core_modTake (s : State) (n : Nat) (f : TakeSt → TakeSt) : core (s.modTake n f) = core s := rfl
@[simp] theorem core_modMem (s : State) (f : TakeMem → TakeMem) : core (s.modMem f) = core s := rfl
@[simp] theorem core_modStrm (s : State) (f : StrmSt → StrmSt) : core (s.modStrm f) = core s := rfl
@[simp] theorem core_modStream (s : State) (n : Nat) (f : StreamSt → StreamSt) : core (s.modStream n f) = core s := rfl
@[simp] theorem core_modSpace (s : State) (n k : Nat) (f : Space → Space) : core (s.modSpace n k f) = core s := rfl
@[simp] theorem core_modWin (s : State) (n : Nat) (f : WinSt → WinSt) : core (s.modWin n f) = core s := rfl
@[simp] theorem core_modCust (s : State) (f : CustSt → CustSt) : core (s.modCust f) = core s := rfl
@[simp] theorem core_putQueue (s : State) (q : Nat) (k : Queue) : core (s.putQueue q k) = core s := rfl

@[simp] theorem core_raiseAt (s : State) (src cause detail tick : Nat) : core (raiseAt s src cause detail tick) = core s :=
  (congrArg core (raiseAt_frame s src cause detail tick).1 :)

@[simp] theorem core_raise (s : State) (src cause detail : Nat) : core (raise s src cause detail) = core s := core_raiseAt ..

theorem SideFrame.core (h : SideFrame s t) : core t = core s := (congrArg Machine.core h.rest :)

/-! Takes (R282, R288 to R290). -/

@[simp] theorem core_takeTo (s : State) (n st a : Nat) : core (takeTo s n st a) = core s := rfl

@[simp] theorem core_noteSlack (s : State) (n slack : Nat) : core (noteSlack s n slack) = core s := by
  unfold noteSlack
  dsimp only
  split <;> rfl

@[simp] theorem core_withWrites (s : State) (ws : List Wr) : core (s.withWrites ws) = core s :=
  foldl_kept _ s fun u w => by split <;> rfl

@[simp] theorem core_noteRetained (s : State) (o : Obj) (u sub : Nat) : core (noteRetained s o u sub) = core s := by
  unfold noteRetained
  split
  · split <;> rfl
  · rfl

@[simp] theorem core_ringStart (s : State) (ch a : Nat) : core (ringStart s ch a) = core s := rfl

@[simp] theorem core_ringsUpdate (s : State) (a : Nat) : core (ringsUpdate s a) = core s := by
  unfold ringsUpdate
  extract_lets want s1 s2
  have h2 : core s2 = core s1 := foldl_kept _ s1 fun u ch => by split <;> rfl
  exact (core_setNum s2 .takeMem 0 11 _).trans h2

@[simp] theorem core_takeArmed (s : State) (n a : Nat) : core (takeArmed s n a) = core s := rfl

@[simp] theorem core_takeArm (s : State) (n a : Nat) : core (takeArm s n a) = core s := by
  unfold takeArm
  dsimp only
  split
  · rfl
  · rw [core_modTake]
    exact foldl_kept _ _ fun _ _ => rfl

@[simp] theorem core_takeChanged (s : State) (n old a : Nat) : core (takeChanged s n old a) = core s := by
  unfold takeChanged
  extract_lets st s1 s2 mode
  have h2 : core s2 = core s := core_ringsUpdate s a
  clear_value s2
  split_ifs <;> simp [h2]

@[simp] theorem core_takeApply (s : State) (n : Nat) (ws : List Wr) (a : Nat) : core (takeApply s n ws a) = core s := by
  unfold takeApply
  dsimp only
  rw [core_takeChanged, foldl_kept (g := core) ws _ fun u w => core_noteRetained u w.obj w.u w.sub, core_withWrites]

@[simp] theorem core_takeLate (s : State) (n : Nat) (ws : List Wr) (a : Nat) : core (takeLate s n ws a) = core s := by
  unfold takeLate
  dsimp only
  split
  · exact core_takeApply s n ws a
  · rw [core_takeChanged]
    refine foldl_kept _ s fun u w => ?_
    split
    · rw [core_noteRetained, core_withWrites]
    · rfl

@[simp] theorem core_takeWaited (s : State) (n a : Nat) : core (takeWaited s n a) = core s := by
  unfold takeWaited
  extract_lets k late
  have hlate : core late = core s := core_takeLate (s.modTake n _) n _ a
  clear_value late
  refine (foldl_kept _ late fun u p => ?_).trans hlate
  split <;> rfl

@[simp] theorem core_afterCommit (s : State) (n fillEnd : Nat) : core (afterCommit s n fillEnd) = core s := by
  unfold afterCommit
  extract_lets k sets s1 mode arm s2 r s3
  have h2 : core s2 = core s :=
    iteInduction (motive := fun x : State => core x = core s) (fun _ => core_takeWaited s n s.now) fun _ => rfl
  have h3 : core s3 = core s := (core_noteSlack (takeTo s2 n 4 s2.now) n _).trans h2
  clear_value s2 s3
  split_ifs <;> simp [h2, h3]

@[simp] theorem core_regionAdvance (n : Nat) (s : State) : core (regionAdvance n s) = core s := by
  induction n generalizing s with
  | zero => rfl
  | succ n ih =>
    unfold regionAdvance
    split
    · split
      · exact ih _
      · rfl
    · rfl

@[simp] theorem core_takeStore (s : State) (n : Nat) (f : Fill) : core (takeStore s n f) = core s := core_regionAdvance _ (s.modMem _)

@[simp] theorem core_oweBound (s : State) (n : Nat) (f : Fill) : core (oweBound s n f) = core s :=
  foldl_kept _ s fun u w => by
    dsimp only
    split <;> rfl

@[simp] theorem core_commitTake (s : State) (n : Nat) : core (commitTake s n) = core s := by
  unfold commitTake takeCommit
  split
  · rfl
  · rw [core_afterCommit, core_takeStore, core_oweBound]

/-! Streams (R359, R375 to R380). -/

@[simp] theorem core_ownGap (s : State) (n k cause seq count : Nat) (rs : List Range) :
    core (ownGap s n k cause seq count rs).1 = core s := (ownGap_side s n k cause seq count rs).core

@[simp] theorem core_writeGap (s : State) (h : GapHead) (rs : List Range) : core (writeGap s h rs).1 = core s := (writeGap_side s h rs).core

@[simp] theorem core_haltStream (s : State) (n : Nat) : core (haltStream s n) = core s := (haltStream_side s n).core

@[simp] theorem core_gapHalts (s : State) (n k : Nat) (rs : List Range) : core (gapHalts s n k rs) = core s := (gapHalts_side s n k rs).core

@[simp] theorem core_withRec (s : State) : core (withRec s) = core s := (withRec_side s).core

@[simp] theorem core_nameGone (s : State) (n k cause : Nat) (rs : List Range) : core (nameGone s n k cause rs) = core s := by
  unfold nameGone
  dsimp only
  split <;> simp

@[simp] theorem core_nameLost (s : State) (n cause : Nat) (rs : List Range) : core (nameLost s n cause rs) = core s := by
  unfold nameLost
  dsimp only
  split_ifs <;> simp

@[simp] theorem core_recordLost (s : State) (cause w ty index : Nat) : core (recordLost s cause w ty index) = core s := by
  unfold recordLost
  dsimp only
  split <;> simp

@[simp] theorem core_takeGapNumber (s : State) (n k : Nat) : core (takeGapNumber s n k).1 = core s := by
  have hrec : core (if n = recStream then withRec s else s) = core s :=
    iteInduction (motive := fun x : State => core x = core s) (fun _ => core_withRec s) fun _ => rfl
  unfold takeGapNumber
  dsimp only
  split <;> simpa using hrec

@[simp] theorem core_fallBack (s : State) (n : Nat) : core (fallBack s n) = core s := by
  unfold fallBack
  dsimp only
  split <;> simp

@[simp] theorem core_passOn (s : State) (pos ident n k : Nat) (i : Item) : core (passOn s pos ident n k i) = core s := by
  unfold passOn
  extract_lets s1
  have h1 : core s1 = core s := ((uplinkItems_side _ _ _ _ _ _).trans (handPut_side _ _ _ _ _ _)).core
  have hin (u : State) (l : List (Nat × Bytes)) : core { u with crossIn := l } = core u := rfl
  clear_value s1
  exact iteInduction (motive := fun x : State => core x = core s) (fun _ => (hin s1 _).trans h1) fun _ => h1

@[simp] theorem core_putItem (s : State) (n k : Nat) (i : Item) : core (putItem s n k i) = core s := by
  have hshow (x : State) : core (showNext x n k) = core x := by
    unfold showNext
    split
    · split <;> rfl
    · rfl
  have hown (x : State) (i : Item) : core (ownItem x n k i) = core x := by
    have hdecoded : core (ownDecoded (x.bump .mgrAck 0 6 1) i) = core x :=
      (ownDecoded_side (x.bump .mgrAck 0 6 1) i).core.trans (core_bump x .mgrAck 0 6 1)
    exact (core_passOn (ownDecoded (x.bump .mgrAck 0 6 1) i) 0 _ n k i).trans hdecoded
  unfold putItem
  split
  · rfl
  · extract_lets held s1 s2
    have h2 : core s2 = core s := iteInduction (motive := fun x : State => core x = core s) (fun _ => hown _ _) fun _ => rfl
    exact (hshow s2).trans h2

@[simp] theorem core_countBlock (s : State) (k : BlkDef) (b : Bytes) : core (countBlock s k b) = core s := by
  unfold countBlock
  dsimp only
  split_ifs <;> rfl

@[simp] theorem core_storeBlock (s : State) (n k ord : Nat) (d : BlkDef) (b : Bytes) : core (storeBlock s n k ord d b) = core s := by
  unfold storeBlock
  dsimp only
  split_ifs <;> simp

@[simp] theorem core_storeRecord (s : State) (w index ord : Nat) (b : Bytes) : core (storeRecord s w index ord b) = core s := by
  unfold storeRecord
  extract_lets ty s1 item storeFit
  have h1 : core s1 = core s := core_withRec s
  have hfit (x : State) : core (storeFit x) = core x :=
    iteInduction (motive := fun y : State => core y = core x) (fun _ => core_putItem _ _ _ _) fun _ => core_recordLost _ _ _ _ _
  clear_value storeFit s1
  split
  · split
    next r hr u ok hgap =>
    have hown : core u = core s1 := (congrArg (fun p : State × Bool => core p.1) hgap.symm).trans (core_ownGap ..)
    refine Eq.trans ?_ (hown.trans h1)
    exact iteInduction (motive := fun y : State => core y = core u) (fun _ => hfit _) fun _ => rfl
  · exact (hfit _).trans h1

/-! Compare units (R389 to R406). -/

@[simp] theorem core_emit (s : State) (ord : Nat) (u : CUnit) : core (emit s ord u) = core s := by
  unfold emit
  dsimp only
  split
  · rfl
  · split_ifs <;> simp
  · split_ifs <;> simp
  · split_ifs <;> simp

@[simp] theorem core_releaseFirst (s : State) : core (releaseFirst s) = core s := by
  unfold releaseFirst
  split
  · rfl
  · exact core_emit _ _ _

@[simp] theorem core_releaseAll (s : State) : core (releaseAll s) = core s := by
  have hn (n : Nat) (u : State) : core (releaseN n u) = core u := by
    induction n generalizing u with
    | zero => rfl
    | succ n ih => exact (ih _).trans (core_releaseFirst u)
  exact hn _ s

@[simp] theorem core_standbyOut (s : State) (why : TestWhy) : core (standbyOut s why) = core s := by
  unfold standbyOut
  extract_lets s1
  have h1 : core s1 = core s := iteInduction (motive := fun x : State => core x = core s) (fun _ => rfl) fun _ => rfl
  exact (core_releaseAll _).trans h1

@[simp] theorem core_formUnit (s : State) (u : CUnit) : core (formUnit s u) = core s := by
  unfold formUnit
  dsimp only
  split_ifs <;> simp

@[simp] theorem core_cutSpan (s : State) (ch : Nat) : core (cutSpan s ch) = core s := by
  unfold cutSpan
  split
  · exact core_formUnit _ _
  · rfl

end Sys2Proof.Machine
end

section
/-! PROOFS. Samples, crossings and SLATEs on the channels (R158, R187, R192, R225). -/

namespace Sys2Proof.Machine

open Sys2Proof

variable {s t : State} {ch n k g : Nat}

/-! What settles a channel leaves the count, the clock and the cells as they are (R76, R100, R120, R190). -/

/-- The grid count, the clock and the cells. -/
def rim (s : State) := (s.now, s.clk, s.cells)

theorem rim_of_core (h : core t = core s) : rim t = rim s := congrArg (fun c => (c.1, c.2.1, c.2.2.2)) h

@[simp] theorem core_raiseChan (s : State) (ch src cause tick : Nat) : core (raiseChan s ch src cause tick) = core s := by
  unfold raiseChan
  split <;> simp

@[simp] theorem core_deliver (s : State) (kind : OccKind) (tick : Nat) (only : Option Nat) : core (deliver s kind tick only) = core s :=
  (congrArg core (deliver_same s kind tick only) :)

@[simp] theorem core_crossPerform (s : State) (ch : Nat) (x : Crossing) : core (crossPerform s ch x) = core s := by
  unfold crossPerform
  simp

theorem crossSettle_rim (s : State) (ch : Nat) : rim (crossSettle s ch) = rim s := by
  unfold crossSettle
  dsimp only
  split
  · rfl
  · exact foldl_kept (g := rim) _ _ fun u x => rim_of_core (core_crossPerform u ch x)

theorem addFlag_rim (s : State) (ch flag : Nat) (src : FSrc) (a b : Nat) : rim (addFlag s ch flag src a b) = rim s := by
  unfold addFlag
  split <;> rfl

theorem ovlPerform_rim (s : State) (ch : Nat) (d : OvlDue) : rim (ovlPerform s ch d) = rim s := by
  cases d with
  | onset a neg =>
    have h := rim_of_core ((core_raiseChan (s.bump .chFront ch 11 1) ch 42 (if neg then 2 else 1) a).trans (core_bump ..))
    exact h
  | resetEnd a => rfl
  | release a => exact addFlag_rim _ _ _ _ _ _

theorem ovlSettle_rim (s : State) (ch : Nat) : rim (ovlSettle s ch) = rim s :=
  foldl_kept (g := rim) _ _ fun u d => ovlPerform_rim u ch d

theorem owdCount_rim (s : State) (ch cause a : Nat) : rim (owdCount s ch cause a) = rim s :=
  rim_of_core ((core_raiseChan (s.bump .chFront ch 12 1) ch 43 cause a).trans (core_bump ..))

theorem pullSettle_rim (s : State) (ch : Nat) : rim (pullSettle s ch) = rim s := by
  have hdeclare : rim (pullDeclare s ch) = rim s := by
    unfold pullDeclare
    split
    · exact owdCount_rim (s.modChan ch _) ch 1 _
    · rfl
  refine Eq.trans ?_ hdeclare
  unfold pullSettle pullRelease
  split
  · exact addFlag_rim _ _ _ _ _ _
  · rfl

/-! A decimation switch (R190). -/

@[simp] theorem core_winStart (s : State) (n : Nat) : core (winStart s n) = core s := by
  unfold winStart
  dsimp only
  split
  · rfl
  · split_ifs <;> rfl

@[simp] theorem core_winCatchUp (s : State) (a : Nat) : core (winCatchUp s a) = core s :=
  foldl_kept _ s fun u p => by
    split
    · split
      · exact core_winStart u p.1
      · rfl
    · rfl

@[simp] theorem core_winSwitch (s : State) (ch a : Nat) : core (winSwitch s ch a) = core s := foldl_kept _ s fun _ _ => rfl

@[simp] theorem core_readyAccs (s : State) (n k : Nat) (l : List BlkAcc) : core (readyAccs s n k l) = core s :=
  foldl_kept _ s fun _ _ => rfl

@[simp] theorem core_settleOld (s : State) (n : Nat) : core (settleOld s n) = core s :=
  foldl_kept (g := core) _ _ fun u o => (core_modStream _ n _).trans (core_readyAccs u n o.inst _)

@[simp] theorem core_endAccs (s : State) (n : Nat) (p : BlkAcc → Bool) : core (endAccs s n p) = core s := foldl_kept _ s fun _ _ => rfl

@[simp] theorem core_streamsSwitch (s : State) (ch d d' a : Nat) : core (streamsSwitch s ch d d' a) = core s :=
  foldl_kept _ s fun u n => by
    extract_lets u1 u2 tb more
    have h1 : core u1 = core u := core_endAccs u n _
    have h2 : core u2 = core u1 := foldl_kept (g := core) _ u1 fun v o => core_readyAccs v n o.inst _
    clear_value u1 u2
    exact (core_settleOld _ n).trans ((core_modStream u2 n _).trans (h2.trans h1))

@[simp] theorem core_putBand (s : State) (ch : Nat) (b : BandCh) : core (s.putBand ch b) = core s := rfl

@[simp] theorem core_bandClear (s : State) (ch a : Nat) : core (bandClear s ch a) = core s := by
  unfold bandClear
  dsimp only
  rw [core_putBand]

@[simp] theorem core_bandAnew (s : State) (ch a : Nat) : core (bandAnew s ch a) = core s := by
  unfold bandAnew
  dsimp only
  rw [core_putBand, core_bandClear]

@[simp] theorem core_showCmps (s : State) (ch : Nat) : core (showCmps s ch) = core s := rfl

theorem decSwitch_rim (s : State) (ch a w : Nat) : rim (decSwitch s ch a w) = rim s := rfl

theorem performSwitch_rim (s : State) (ch : Nat) : rim (performSwitch s ch) = rim s := by
  unfold performSwitch
  split
  · next a w _ =>
    extract_lets d u
    have hu : rim u = rim s := by
      refine (rim_of_core (core_showCmps _ ch)).trans ((decSwitch_rim _ ch a w).trans (rim_of_core ?_))
      rw [core_winSwitch, core_winCatchUp, core_cutSpan]
    clear_value u
    exact (rim_of_core ((core_bandAnew _ ch a).trans (core_streamsSwitch _ ch d (decW w).D a))).trans hu
  · rfl

theorem settleChan_rim (s : State) (ch : Nat) : rim (settleChan s ch) = rim s := by
  unfold settleChan
  extract_lets s1 s2
  have h1 : rim s1 = rim s := (crossSettle_rim _ ch).trans ((pullSettle_rim _ ch).trans (ovlSettle_rim s ch))
  have h2 : rim s2 = rim s1 := by
    unfold s2
    split
    · split <;> rfl
    · rfl
  exact (performSwitch_rim s2 ch).trans (h2.trans h1)

/-! A sample (R158, R549). -/

theorem noteDelays_rim (s : State) (ch g : Nat) : rim (noteDelays s ch g) = rim s := foldl_kept (g := rim) _ s fun _ _ => rfl

theorem deliverSample_index (s : State) (k d g w : Nat) (v : Int) (flags : Nat) (xs : List Crossing) :
    (deliverSample s ch k d g w v flags xs).num .chStatus ch 3 = ((k % 2 ^ 64 : Nat) : Int) := by
  have hlgo (u : State) : (lgoSample u ch d g w).num .chStatus ch 3 = u.num .chStatus ch 3 := by
    unfold lgoSample
    split <;> rfl
  refine (hlgo _).trans ?_
  unfold noteStatus
  dsimp only
  rw [num_setNum_ne _ (entryKey_sub_ne _ _ (by decide)), num_setNum_ne _ (entryKey_sub_ne _ _ (by decide)), num_setNum_same]
  rfl

/-- A sample of a cell that has lost no period is emitted under its index. -/
theorem emitSample_index (hlost : (s.cell (cellOfCh ch)).lost = []) :
    (emitSample s ch k g).num .chStatus ch 3 = ((k % 2 ^ 64 : Nat) : Int) := by
  unfold emitSample
  extract_lets slates s1 s2
  have h2 : rim s2 = rim s :=
    (noteDelays_rim s1 ch g).trans (rim_of_core (foldl_kept (g := core) slates s fun _ _ => rfl))
  clear_value s1 s2
  split
  next c p _ =>
  extract_lets s3 x o sats s4
  have h3 : core s3 = core s2 := foldl_kept (g := core) _ s2 fun u i => by split <;> rfl
  have h4 : core s4 = core s3 := iteInduction (motive := fun u : State => core u = core s3) (fun _ => rfl) fun _ => core_bump ..
  have hlost4 : (s4.cell (cellOfCh ch)).lost = [] := by
    have hcells : s4.cells = s.cells := congrArg (·.2.2) ((rim_of_core (h4.trans h3)).trans h2)
    rw [State.cell, hcells]
    exact hlost
  have hhere : isMissing s4 ch g = false := by
    unfold isMissing
    rw [hlost4]
    rfl
  clear_value s4
  split
  rw [hhere, if_neg (by decide)]
  exact deliverSample_index ..

theorem exec_sampleEmitted_emits (hch : ch < Config.channels s.variant) (hnext : nextSample (settleChan s ch) ch = some (k, g)) :
    exec (.sampleEmitted ch) s = .next (emitSample (settleChan s ch) ch k g) := by
  show execSampleEmitted ch s = _
  unfold execSampleEmitted
  rw [if_neg (by omega)]
  dsimp only
  rw [hnext]

/-! A crossing (R187). -/

theorem exec_thresholdCrossing_performs {x : Crossing} {xs : List Crossing} (h : (s.chan ch).crossings = x :: xs) :
    exec (.thresholdCrossing ch x.cmp) s = .next (crossPerform (s.modChan ch (fun c => { c with crossings := xs })) ch x) := by
  show execThresholdCrossing ch x.cmp s = _
  unfold execThresholdCrossing
  rw [h]
  exact if_pos rfl

theorem raiseChan_thresh {sub : Nat} (hch : ch < 384) (hsub : sub < 256) (h3 : sub ≠ 3) (s : State) (src cause tick : Nat) :
    (raiseChan s ch src cause tick).num .chThresh ch sub = s.num .chThresh ch sub := by
  unfold raiseChan
  split
  · rw [num_bump_ne _ (entryKey_obj_ne (by decide) hch hch hsub (by decide)), raiseAt_num_sub _ _ _ _ _ hsub h3]
  · rfl

theorem crossPerform_shows (hch : ch < 384) (x : Crossing) (hcmp : x.cmp < 2) :
    (crossPerform s ch x).num .chThresh ch (7 * x.cmp + 6) = (b2n x.active : Nat) ∧
      Counted s (crossPerform s ch x) .chThresh ch (7 * x.cmp + 7) 1 := by
  unfold crossPerform
  dsimp only
  rw [Counted, deliver_num, deliver_num, raiseChan_thresh hch (by omega) (by omega), raiseChan_thresh hch (by omega) (by omega),
    num_bump_same, num_bump_ne _ (entryKey_sub_ne _ _ (by omega)), num_setNum_same, num_setNum_ne _ (entryKey_sub_ne _ _ (by omega))]
  refine ⟨?_, rfl⟩
  have hbit : b2n x.active < 2 := by cases x.active <;> decide
  generalize x.cmp = i at *
  interval_cases i <;> exact narrowU_of_lt (by omega) (by omega)

/-! A SLATE is performed (R192, R225). -/

/-- A channel of the list holds a SLATE at tick n. -/
def Reached (n ch : Nat) (s : State) : Prop := ∃ c, Sparse.find s.chans ch = some c ∧ n ∈ c.slates

theorem Reached.slates (h : Reached n ch s) : n ∈ (s.chan ch).slates := by
  obtain ⟨c, hc, hn⟩ := h
  rw [chan_of_find hc]
  exact hn

theorem Reached.of_core (h : Reached n ch s) (hcore : core t = core s) : Reached n ch t := by
  have hchans : t.chans = s.chans := congrArg (·.2.2.1) hcore
  unfold Reached
  rw [hchans]
  exact h

/-- A SLATE at tick n is given to a channel. -/
def slateGiven (n : Nat) (s : State) (i : Nat) : State := s.modChan i (fun c => { c with slates := c.slates ++ [n] })

theorem slateGiven_reaches (s : State) (i : Nat) : Reached n i (slateGiven n s i) :=
  ⟨_, Sparse.find_put_same .., List.mem_append_right _ (List.mem_singleton_self n)⟩

theorem Reached.slateGiven (h : Reached n ch s) (i : Nat) : Reached n ch (slateGiven n s i) := by
  by_cases hi : ch = i
  · subst hi
    exact slateGiven_reaches s ch
  · obtain ⟨c, hc, hn⟩ := h
    exact ⟨c, (Sparse.find_put_ne _ hi _).trans hc, hn⟩

/-- A SLATE given to every channel of a list reaches each of them. -/
theorem slates_reach (l : List Nat) (s : State) (h : ch ∈ l ∨ Reached n ch s) : Reached n ch (l.foldl (slateGiven n) s) := by
  induction l generalizing s with
  | nil => exact h.resolve_left (List.not_mem_nil)
  | cons i l ih =>
    refine ih _ ?_
    rcases h with h | h
    · rcases List.mem_cons.mp h with rfl | h
      · exact .inr (slateGiven_reaches s ch)
      · exact .inl h
    · exact .inr (h.slateGiven i)

/-- What a SLATE leaves before its event: its tick is shown and counted, and every channel holds it. -/
def slateDone (s : State) (n : Nat) : State :=
  let s := onChans s s.allChans (slateGiven n)
  deliver (spoilResync ((s.setNum .slate 0 6 n).bump .slate 0 7 1)) .slate n none

theorem slateGiven_num (s : State) (n : Nat) (o : Obj) (u sub : Nat) :
    (onChans s s.allChans (slateGiven n)).num o u sub = s.num o u sub :=
  foldl_kept (g := (State.num · o u sub)) _ s fun v i => State.modChan_num v i _ _ _ _

theorem slateDone_shows (s : State) (n : Nat) : (slateDone s n).num .slate 0 6 = ((n % 2 ^ 64 : Nat) : Int) ∧
    Counted s (slateDone s n) .slate 0 7 1 ∧ (slateDone s n).clk = s.clk ∧ ∀ ch ∈ s.allChans, Reached n ch (slateDone s n) := by
  have hnum := slateGiven_num s n .slate 0 7
  have hcore : core (slateDone s n) = core (onChans s s.allChans (slateGiven n)) := core_deliver _ _ _ _
  refine ⟨?_, ?_, ?_, fun ch hch => (slates_reach s.allChans s (.inl hch)).of_core hcore⟩
  · unfold slateDone
    dsimp only
    rw [deliver_num]
    exact (num_bump_ne _ (entryKey_sub_ne _ _ (by decide)) _).trans (num_setNum_same ..)
  · unfold slateDone
    dsimp only
    rw [Counted, deliver_num, ← hnum]
    refine (num_bump_same ((onChans s s.allChans (slateGiven n)).setNum .slate 0 6 n) .slate 0 7 1).trans ?_
    rw [num_setNum_ne _ (entryKey_sub_ne _ _ (by decide))]
  · have hgiven : (onChans s s.allChans (slateGiven n)).clk = s.clk := foldl_kept (g := State.clk) _ s fun _ _ => rfl
    exact Eq.trans (congrArg (·.2.1) hcore) hgiven

/-- The clock without the SLATE of tick n. -/
def slateTaken (s : State) (n : Nat) : State :=
  s.modClk (fun c => { c with slates := c.slates.filter (· != n), zones := c.zones.filter (fun z => z.1 != n),
                              slateBall := if s.nat .slate 0 2 = 2 then some n else c.slateBall })

theorem exec_slatePerformed_done (h : s.clk.slates = [n]) (hdue : n ≤ s.now) :
    exec .slatePerformed s = .next
      (let u := raiseAt (slateDone (slateTaken s n) n) 55 1 0 n
       if (s.clk.zones.find? (fun z => z.1 == n)).any (fun z => zoneMissing u z.2) then raiseAt u 55 3 0 n else u) := by
  show execSlatePerformed s = _
  unfold execSlatePerformed
  rw [h, List.foldl_cons, List.foldl_nil]
  exact if_pos hdue

/-- Settles O14: a sample shows its index, a crossing its comparator, and a SLATE comes to every channel. -/
theorem sampleEmissionAndCrossings : Obligations.SampleEmissionAndCrossings := by
  unfold Obligations.SampleEmissionAndCrossings
  refine ⟨?sample, ?crossing, ?slate⟩
  case sample =>
    intro s ch k g hch hlost hnext
    refine ⟨_, exec_sampleEmitted_emits hch hnext, emitSample_index ?_⟩
    have hcells : (settleChan s ch).cells = s.cells := congrArg (·.2.2) (settleChan_rim s ch)
    rw [State.cell, hcells]
    exact hlost
  case crossing =>
    intro s ch cmp x xs hch hcmp h hx
    subst hx
    obtain ⟨hshown, hcount⟩ := crossPerform_shows (s := s.modChan ch (fun c => { c with crossings := xs })) hch x hcmp
    refine ⟨_, exec_thresholdCrossing_performs h, ?_, hshown, ?_⟩
    · have hchans : (crossPerform (s.modChan ch (fun c => { c with crossings := xs })) ch x).chans =
          (s.modChan ch (fun c => { c with crossings := xs })).chans := congrArg (·.2.2.1) (core_crossPerform _ ch x)
      rw [chan_of_find ((congrArg (Sparse.find · ch) hchans).trans (Sparse.find_put_same ..))]
    · rw [Counted, hcount, State.modChan_num]
  case slate =>
    intro s n h hdue
    obtain ⟨hshown, hcount, hclk, hreach⟩ := slateDone_shows (slateTaken s n) n
    have hempty : (slateDone (slateTaken s n) n).clk.slates = [] := by
      rw [hclk]
      show s.clk.slates.filter (· != n) = []
      rw [h]
      simp
    refine ⟨_, exec_slatePerformed_done h hdue, ?_⟩
    generalize slateDone (slateTaken s n) n = u at *
    have hraised (v : State) (cause : Nat) (hv : v.clk.slates = [] ∧ v.num .slate 0 6 = ((n % 2 ^ 64 : Nat) : Int) ∧
        Counted s v .slate 0 7 1 ∧ ∀ ch ∈ s.allChans, Reached n ch v) :
        (raiseAt v 55 cause 0 n).clk.slates = [] ∧ (raiseAt v 55 cause 0 n).num .slate 0 6 = ((n % 2 ^ 64 : Nat) : Int) ∧
          Counted s (raiseAt v 55 cause 0 n) .slate 0 7 1 ∧ ∀ ch ∈ s.allChans, Reached n ch (raiseAt v 55 cause 0 n) := by
      obtain ⟨h1, h2, h3, h4⟩ := hv
      refine ⟨?_, ?_, ?_, fun ch hch => (h4 ch hch).of_core (core_raiseAt ..)⟩
      · rw [raiseAt_clk]
        exact h1
      · rw [raiseAt_num_sub _ _ _ _ _ (by decide) (by decide)]
        exact h2
      · rw [Counted, raiseAt_num_sub _ _ _ _ _ (by decide) (by decide)]
        exact h3
    have hu := hraised u 1 ⟨hempty, hshown, hcount, hreach⟩
    dsimp only
    split
    · obtain ⟨h1, h2, h3, h4⟩ := hraised _ 3 hu
      exact ⟨h1, h2, h3, fun ch hch => (h4 ch hch).slates⟩
    · obtain ⟨h1, h2, h3, h4⟩ := hu
      exact ⟨h1, h2, h3, fun ch hch => (h4 ch hch).slates⟩

end Sys2Proof.Machine
end

section
/-! PROOFS. The timeouts of the clock, and the evaluation and the load of the grid (R206 to R211, R215). -/

namespace Sys2Proof.Machine

open Sys2Proof

variable {s t : State} {n a st : Nat}

/-! A transition of the grid (R210, R211). -/

theorem markGrid_touch (s : State) (a : Nat) : TouchFrame s (markGrid s a) := by
  refine TouchFrame.onChans s s.allChans fun u i => ?_
  dsimp only
  split
  · exact rfl
  · split
    · exact rfl
    · exact .refl u

theorem TouchFrame.clk (h : TouchFrame s t) : t.clk = s.clk := (congrArg State.clk (show { t with chans := _, excSettle := _, cal := _ } = s from h) :)

theorem TouchFrame.now (h : TouchFrame s t) : t.now = s.now := (congrArg State.now (show { t with chans := _, excSettle := _, cal := _ } = s from h) :)

theorem gridTo_shows (s : State) (hst : st < 256) (a : Nat) : (gridTo s st a).num .grid 0 2 = st ∧ (gridTo s st a).now = s.now ∧
    (gridTo s st a).clk = { s.clk with moved := some a, stHist := ((a, st) :: s.clk.stHist).take 64 } ∧
      (gridTo s st a).num .grid 0 3 = s.num .grid 0 3 := by
  unfold gridTo
  extract_lets s1
  have hmark := markGrid_touch (raiseAt s1 53 1 st a) a
  have hisland : islandOf s1 53 st < 32 := show 24 < 32 by decide
  rw [hmark.num, hmark.num, hmark.now, hmark.clk, raiseAt_now, raiseAt_clk, raiseAt_num_sub _ _ _ _ _ (by decide) (by decide),
    raiseAt_num 1 a hisland (by decide) (by decide) (by decide)]
  refine ⟨?_, rfl, rfl, ?_⟩
  · exact (num_setNum_same s .grid 0 2 st).trans (narrowU_of_lt (by omega) (by omega))
  · exact num_setNum_sub s .grid 0 (by decide) st

/-! The evaluation (R208, R210, R212). -/

/-- The grid error is measured at the current tick, shown and counted from. -/
structure Evaluated (s t : State) : Prop where
  error : t.num .grid 0 3 = wrapS 64 (gridError s)
  evalAt : t.clk.evalAt = some s.now
  now : t.now = s.now
  time : t.clk.local_ = s.clk.local_

namespace Evaluated

variable {u : State}

theorem modClk (h : Evaluated s u) {f : ClkSt → ClkSt} (hf : ∀ c, (f c).evalAt = c.evalAt ∧ (f c).local_ = c.local_) :
    Evaluated s (u.modClk f) :=
  ⟨h.error, (hf u.clk).1.trans h.evalAt, h.now, (hf u.clk).2.trans h.time⟩

theorem gridTo (h : Evaluated s u) (hst : st < 256) : Evaluated s (gridTo u st u.now) := by
  obtain ⟨-, hnow, hclk, hnum⟩ := gridTo_shows u hst u.now
  exact ⟨hnum.trans h.error, (congrArg ClkSt.evalAt hclk).trans h.evalAt, hnow.trans h.now, (congrArg ClkSt.local_ hclk).trans h.time⟩

theorem raise (h : Evaluated s u) : Evaluated s (raise u 53 2 0) := by
  have hisland : islandOf u 53 0 < 32 := show 24 < 32 by decide
  refine ⟨?_, ?_, ?_, ?_⟩
  · rw [raise_num 2 hisland (by decide) (by decide) (by decide)]
    exact h.error
  · rw [raise_clk]
    exact h.evalAt
  · rw [raise_now]
    exact h.now
  · rw [raise_clk]
    exact h.time

end Evaluated

theorem exec_gridEvaluation_evaluates (htick : s.now % 24576 = 0) (hnew : s.clk.evalAt ≠ some s.now) :
    ∃ t, exec .gridEvaluation s = .next t ∧ Evaluated s t := by
  show ∃ t, execGridEvaluation s = _ ∧ _
  unfold execGridEvaluation
  rw [if_pos ⟨htick, hnew⟩]
  extract_lets e g lim sv s1 s2 big s3 s4 near byE
  have h1 : Evaluated s s1 := ⟨num_setNum_same .., rfl, rfl, rfl⟩
  have h2 : Evaluated s s2 := by
    refine ⟨?_, rfl, rfl, rfl⟩
    exact (num_setNum_sub (markClock s1) .grid 0 (by decide) _).trans h1.error
  clear_value s2
  have h3 : Evaluated s s3 := iteInduction (motive := Evaluated s) (fun _ => h2.raise) fun _ => h2
  clear_value s3
  have h4 : Evaluated s s4 := h3.modClk fun _ => ⟨rfl, rfl⟩
  clear_value s4
  have hbyE : byE < 256 := by
    unfold byE
    split <;> decide
  clear_value byE near g
  split
  · exact ⟨_, rfl, h4⟩
  · split
    · exact ⟨_, rfl, iteInduction (motive := Evaluated s) (fun _ => h4.modClk fun _ => ⟨rfl, rfl⟩) fun _ => h4⟩
    · exact ⟨_, rfl, iteInduction (motive := Evaluated s) (fun _ => h4.gridTo (by decide)) fun _ =>
        iteInduction (motive := Evaluated s) (fun _ => h4.gridTo (by decide)) fun _ => h4⟩
    · exact ⟨_, rfl, iteInduction (motive := Evaluated s) (fun _ => (h4.gridTo (by decide)).modClk fun _ => ⟨rfl, rfl⟩) fun _ =>
        iteInduction (motive := Evaluated s) (fun _ => h4.gridTo (by decide)) fun _ => h4⟩
    · exact ⟨_, rfl, iteInduction (motive := Evaluated s) (fun _ => h4.gridTo hbyE) fun _ => h4⟩

/-! What a load leaves of the clock (R209). -/

theorem clk_of_core (h : core t = core s) : t.clk = s.clk := congrArg (·.2.1) h

theorem clk_of_rim (h : rim t = rim s) : t.clk = s.clk := congrArg (·.2.1) h

theorem onChans_clk {f : State → Nat → State} (s : State) (l : List Nat) (h : ∀ u i, (f u i).clk = u.clk) :
    (onChans s l f).clk = s.clk := foldl_kept (g := State.clk) l s h

@[simp] theorem core_noteMismatch (s : State) (kind : Nat) (u : Option CUnit) : core (noteMismatch s kind u) = core s := by
  unfold noteMismatch
  dsimp only
  rw [core_raise]
  split <;> simp only [core_bump, core_modCust, core_setNum]

@[simp] theorem core_takeover (s : State) (kind : Nat) (why : TestWhy) : core (takeover s kind why) = core s := by
  unfold takeover setCore
  dsimp only
  rw [core_raise, core_modCust, core_bump, core_releaseAll, core_setNum, core_setNum, core_setNum]

@[simp] theorem core_coreFault (s : State) (n : Nat) : core (coreFault s n) = core s := by
  unfold coreFault
  split_ifs <;> simp

@[simp] theorem core_oldLost (s : State) (n cause : Nat) (rs : List Range) : core (oldLost s n cause rs) = core s := by
  refine foldl_kept _ s fun u o => ?_
  dsimp only
  split
  · rfl
  · rw [core_settleOld, core_modStream, core_nameGone]

@[simp] theorem core_streamsLost (s : State) (cause : Nat) (rs : List Range) : core (streamsLost s cause rs) = core s :=
  foldl_kept _ s fun u n => (core_nameLost _ n cause _).trans (core_oldLost u n cause _)

theorem loseperiods_clk (s : State) (cell cause a b : Nat) : (loseperiods s cell cause a b).clk = s.clk := by
  unfold loseperiods
  extract_lets e zero old rs s1 s2
  have h1 : s1.clk = s.clk := onChans_clk s _ fun _ _ => State.modChan_clk ..
  exact (clk_of_core (core_streamsLost s2 cause rs)).trans h1

theorem judgeLosses_clk (s : State) (cell cause : Nat) : (judgeLosses s cell cause).clk = s.clk := by
  refine foldl_kept (g := State.clk) _ s fun u m => ?_
  extract_lets
  refine iteInduction (motive := fun v : State => v.clk = u.clk) (fun _ => rfl) fun _ => ?_
  refine iteInduction (motive := fun v : State => v.clk = u.clk) (fun _ => State.modCell_clk ..) fun _ => ?_
  refine iteInduction (motive := fun v : State => v.clk = u.clk) (fun _ => rfl) fun _ => ?_
  split
  · exact (loseperiods_clk _ _ _ _ _).trans ((State.modCust_clk ..).trans (State.modCell_clk ..))
  · exact (clk_of_core (core_coreFault _ _)).trans (State.modCell_clk ..)

theorem chainsStart_clk (s : State) (cell a : Nat) : (chainsStart s cell a).clk = s.clk := onChans_clk s _ fun u i => by
  dsimp only
  split <;> rfl

theorem chanWord_clk (s : State) (ch a period code : Nat) : (chanWord s ch a period code).clk = s.clk := State.modChan_clk ..

theorem cellWords_clk (s : State) (cell a : Nat) (ws : List Nat) : (cellWords s cell a ws).clk = s.clk := by
  induction ws generalizing s a with
  | nil => rfl
  | cons w ws ih =>
    unfold cellWords
    extract_lets p
    refine Eq.trans (ih _ _) ?_
    exact onChans_clk s _ fun u i => chanWord_clk u i a p _

theorem itemTaken_clk (s : State) (cell : Nat) (status : Bool) (a : Nat) (ws : List Nat) : (itemTaken s cell status a ws).clk = s.clk := by
  unfold itemTaken
  split
  · exact onChans_clk s _ fun _ _ => State.modChan_clk ..
  · exact cellWords_clk s cell a ws

theorem periodsGone_clk (s : State) (cell cause : Nat) (status : Bool) (a b : Nat) : (periodsGone s cell cause status a b).clk = s.clk := by
  unfold periodsGone
  refine (onChans_clk _ _ fun _ _ => State.modChan_clk ..).trans ?_
  exact iteInduction (motive := fun u : State => u.clk = s.clk) (fun _ => rfl) fun _ => loseperiods_clk _ _ _ _ _

theorem takeEarly_clk (cell cause : Nat) (status : Bool) (n : Nat) (s : State) : (takeEarly cell cause status n s).clk = s.clk := by
  induction n generalizing s with
  | zero => rfl
  | succ n ih =>
    unfold takeEarly
    dsimp only
    split
    · split_ifs
      · exact ih _
      · exact (ih _).trans ((itemTaken_clk _ _ _ _ _).trans (State.modCell_clk ..))
      · exact (ih _).trans ((itemTaken_clk _ _ _ _ _).trans ((State.modCell_clk ..).trans (periodsGone_clk _ _ _ _ _ _)))
      · rfl
    · rfl

theorem cellItem_clk (s : State) (cell core cause : Nat) (status : Bool) (ws : List Nat) : (cellItem s cell core cause status ws).clk = s.clk := by
  unfold cellItem
  split
  · rfl
  · extract_lets gap stop counts s1 s2 s3 s4
    have h1 : s1.clk = s.clk := rfl
    have h2 : s2.clk = s1.clk := judgeLosses_clk s1 cell cause
    clear_value s1 s2
    have h3 : s3.clk = s2.clk := by
      unfold s3
      split
      · split
        · rfl
        · exact onChans_clk s2 _ fun _ _ => State.modChan_clk ..
      · exact chainsStart_clk _ _ _
    have h4 : s4.clk = s3.clk := rfl
    clear_value s3 s4
    split
    · exact h1
    · exact (takeEarly_clk _ _ _ _ s4).trans (h4.trans (h3.trans (h2.trans h1)))

theorem drainCell_clk (s : State) (q : Nat) : (drainCell s q).clk = s.clk := by
  unfold drainCell
  split
  · extract_lets k all s1
    have h1 : s1.clk = s.clk := iteInduction (motive := fun u : State => u.clk = s.clk)
      (fun _ => foldl_kept (g := State.clk) _ s fun u ws => cellItem_clk u _ _ _ _ ws) fun _ => rfl
    exact h1
  · rfl

/-- A channel gives up what it holds of the old count. -/
def chanReloaded (s : State) (ch : Nat) : State :=
  let s := crossSettle (pullSettle (ovlSettle s ch) ch) ch
  if (s.chan ch).nextM.isSome then
    let (c, n) := (s.chan ch).reload s
    let s := s.putChan ch c
    if n = 0 then s else s.bump .chFilter ch 20 n
  else s

theorem chanReloaded_clk (s : State) (ch : Nat) : (chanReloaded s ch).clk = s.clk := by
  unfold chanReloaded
  extract_lets s1
  have h1 : s1.clk = s.clk :=
    clk_of_rim ((crossSettle_rim _ ch).trans ((pullSettle_rim _ ch).trans (ovlSettle_rim s ch)))
  clear_value s1
  split
  · dsimp only
    split <;> exact h1
  · exact h1

/-- What the hub gives up before the count is loaded. -/
def loadDrained (s : State) : State := s.allChans.foldl chanReloaded (s.allChans.foldl cutSpan ((List.range 96).foldl drainCell s))

theorem loadDrained_clk (s : State) : (loadDrained s).clk = s.clk :=
  (foldl_kept (g := State.clk) _ _ chanReloaded_clk).trans
    ((foldl_kept (g := State.clk) _ _ fun u ch => clk_of_core (core_cutSpan u ch)).trans (foldl_kept (g := State.clk) _ s drainCell_clk))

theorem snapsPassed_clk (s : State) (a : Nat) : (snapsPassed s a).clk = s.clk := foldl_kept (g := State.clk) _ s fun u k => by
  dsimp only
  split <;> rfl

/-- The count is loaded and every tick that is kept moves with it. -/
def countMoved (s : State) (a : Nat) : State :=
  ({ moveTicks s ((a : Int) - s.now) with now := a }.setNum .grid 0 9 a).bump .grid 0 12 1

theorem loadCount_eq (s : State) (a : Nat) : loadCount s a = countMoved (snapsPassed (loadDrained s) a) a := rfl

theorem countMoved_shows (s : State) (a : Nat) : (countMoved s a).now = a ∧ (countMoved s a).clk.local_ = s.clk.local_ := ⟨rfl, rfl⟩

theorem loadCount_shows (s : State) (a : Nat) : (loadCount s a).now = a ∧ (loadCount s a).clk.local_ = s.clk.local_ := by
  rw [loadCount_eq]
  obtain ⟨hnow, htime⟩ := countMoved_shows (snapsPassed (loadDrained s) a) a
  exact ⟨hnow, htime.trans (congrArg ClkSt.local_ ((snapsPassed_clk _ a).trans (loadDrained_clk s)))⟩

theorem oldsDrop_clk (s : State) : (oldsDrop s).clk = s.clk := by
  refine foldl_kept (g := State.clk) _ s fun u n => ?_
  unfold oldDrop
  extract_lets os u1
  have h1 : u1.clk = u.clk := foldl_kept (g := State.clk) os u fun v o => by
    dsimp only
    split
    · exact clk_of_core (core_readyAccs _ _ _ _)
    · exact clk_of_core ((core_nameGone _ _ _ _ _).trans (core_readyAccs _ _ _ _))
  exact h1

theorem cancelNamed_time (s : State) (a : Nat) : (cancelNamed s a).clk.local_ = s.clk.local_ := by
  have hslates (u : State) : (cancelSlates u a).clk.local_ = u.clk.local_ :=
    foldl_kept (g := fun v : State => v.clk.local_) _ _ fun _ _ => congrArg ClkSt.local_ (raise_clk _ _ _ _)
  have hfences (u : State) : (cancelFences u a).clk = u.clk :=
    foldl_kept (g := State.clk) _ u fun _ _ => foldl_kept (g := State.clk) _ _ fun _ _ => raise_clk _ _ _ _
  have hpulses (u : State) : (cancelPulses u a).clk = u.clk := by
    refine foldl_kept (g := State.clk) _ u fun v p => ?_
    dsimp only
    split
    · split
      · exact raise_clk _ _ _ _
      · rfl
    · rfl
  exact (congrArg ClkSt.local_ ((hpulses _).trans (hfences _))).trans (hslates s)

/-- The hub with its count loaded, at the integer second that the clock has passed. -/
def anchorLoaded (s : State) (a : Nat) : State :=
  (loadCount (oldsDrop (if s.nat .grid 0 12 = 0 then cancelNamed s 0 else s)) a).modClk (fun c => { c with anchorDue := none })

theorem anchorLoaded_shows (s : State) (a : Nat) : (anchorLoaded s a).now = a ∧
    (anchorLoaded s a).clk.anchorDue = none ∧ (anchorLoaded s a).clk.local_ = s.clk.local_ := by
  have hcancel : (if s.nat .grid 0 12 = 0 then cancelNamed s 0 else s).clk.local_ = s.clk.local_ :=
    iteInduction (motive := fun u : State => u.clk.local_ = s.clk.local_) (fun _ => cancelNamed_time s 0) fun _ => rfl
  unfold anchorLoaded
  generalize (if s.nat .grid 0 12 = 0 then cancelNamed s 0 else s) = u at *
  obtain ⟨hnow, htime⟩ := loadCount_shows (oldsDrop u) a
  generalize loadCount (oldsDrop u) a = v at *
  exact ⟨hnow, rfl, htime.trans ((congrArg ClkSt.local_ (oldsDrop_clk u)).trans hcancel)⟩

theorem exec_gridAnchor_loads {kind sec : Nat} (hdue : s.clk.anchorDue = some kind) (hkind : kind ≤ 1) (hsec : passedSecond s = some sec)
    (ha : sec * 24576000 = a) :
    ∃ st, st ≠ 0 ∧ st < 256 ∧ exec .gridAnchor s = .next (gridTo (anchorLoaded s a) st (anchorLoaded s a).now) := by
  show ∃ st, st ≠ 0 ∧ st < 256 ∧ execGridAnchor s = _
  unfold execGridAnchor
  rw [hdue, hsec]
  dsimp only
  rw [ha]
  refine ⟨_, ?_, ?_, congrArg Host.Outcome.next (if_neg fun h => ?_)⟩
  · split_ifs <;> decide
  · split_ifs <;> decide
  · exact absurd h.1 (by omega)

/-! Holdover (R206, R207). -/

theorem servoHold_holds (h : hasMaster s = true) : (servoHold s).num .localClock 0 14 = 4 ∧ (servoHold s).clk.local_ = s.clk.local_ ∧
    (servoHold s).num .localClock 0 2 = s.num .localClock 0 2 := by
  unfold servoHold
  rw [if_pos h]
  exact ⟨num_setNum_same s .localClock 0 14 4, rfl, num_setNum_sub s .localClock 0 (a := 14) (b := 2) (by decide) 4⟩

/-- Settles O17: each timeout does what its rule says, and neither they nor a load change the time of the clock. -/
theorem timeoutsOfTheClockLeadToHoldover : Obligations.TimeoutsOfTheClockLeadToHoldover := by
  unfold Obligations.TimeoutsOfTheClockLeadToHoldover
  refine ⟨?sync, ?announce, ?evaluation, ?grace, ?free, ?anchor⟩
  case sync =>
    intro s hdue hmaster
    exact ⟨_, if_pos hdue, servoHold_holds hmaster⟩
  case announce =>
    intro s hdue hmaster
    obtain ⟨hstate, htime, -⟩ := servoHold_holds hmaster
    refine ⟨_, if_pos hdue, ?_, rfl, htime⟩
    exact (num_setNum_sub (servoHold s) .localClock 0 (a := 11) (b := 14) (by decide) 255).trans hstate
  case evaluation =>
    intro s htick hnew
    obtain ⟨t, hexec, herror, hat, hnow, htime⟩ := exec_gridEvaluation_evaluates htick hnew
    exact ⟨t, hexec, herror, hat, hnow, htime⟩
  case grace =>
    intro s hstate htick hlater hmoved hservo hdue
    obtain ⟨hnum, -, hclk, -⟩ := gridTo_shows s (st := 4) (by decide) s.now
    exact ⟨_, if_pos ⟨hstate, htick, hlater, hmoved, hservo, hdue⟩, hnum, congrArg ClkSt.moved hclk⟩
  case free =>
    intro s hstate hset hmaster hnone hdue
    exact ⟨_, if_pos ⟨hstate, hset, hmaster, hnone, hdue⟩, rfl, rfl⟩
  case anchor =>
    intro s kind sec hdue hkind hsec
    obtain ⟨st, hst, hlt, hexec⟩ := exec_gridAnchor_loads hdue hkind hsec rfl
    obtain ⟨hnow, hnone, htime⟩ := anchorLoaded_shows s (sec * 24576000)
    obtain ⟨hnum, hthen, hclk, -⟩ := gridTo_shows (anchorLoaded s (sec * 24576000)) hlt (anchorLoaded s (sec * 24576000)).now
    generalize anchorLoaded s (sec * 24576000) = u at *
    refine ⟨_, hexec, hthen.trans hnow, (congrArg ClkSt.anchorDue hclk).trans hnone, ?_, (congrArg ClkSt.local_ hclk).trans htime⟩
    rw [hnum]
    omega

end Sys2Proof.Machine
end

section
/-! PROOFS. Time pulses, fades, decimation switches and forwarded PTP messages (R168, R190, R197, R218 to R221). -/

namespace Sys2Proof.Machine

open Sys2Proof

variable {s t : State} {p i ch tick w : Nat}

/-! Time pulses (R217 to R221). -/

theorem tpo_of_tpos (h : t.tpos = s.tpos) (p : Nat) : t.tpo p = s.tpo p := congrArg (Sparse.get · p TpoSt.idle) h

/-- What comes after a pulse leaves the pulse, its count and every entry but the mode. -/
theorem tpoAfter_keeps (s : State) (p i : Nat) : ((tpoAfter s p i).tpo p).pulse = (s.tpo p).pulse ∧
    ((tpoAfter s p i).tpo p).fired = (s.tpo p).fired ∧ (tpoAfter s p i).queues = s.queues ∧
      ∀ sub, sub ≠ 1 → (tpoAfter s p i).num .tpo p sub = s.num .tpo p sub := by
  unfold tpoAfter
  dsimp only
  split_ifs
  · rw [State.modTpo_same]
    exact ⟨rfl, rfl, rfl, fun sub _ => State.modTpo_num ..⟩
  · rw [State.modTpo_same]
    exact ⟨rfl, rfl, rfl, fun sub hsub => (State.modTpo_num ..).trans (num_setNum_sub s .tpo p hsub 0)⟩
  · rw [State.modTpo_same]
    exact ⟨rfl, rfl, rfl, fun sub _ => State.modTpo_num ..⟩

theorem exec_tpoLeadingEdge_gated (hp : p < 8) (hnext : (s.tpo p).next = some i)
    (hdue : tpoPlace s (s.nat .tpo p 2) (tpoEdge s p i) < 1) (hpulse : (s.tpo p).pulse = none) (hgate : s.nat .tpo p 11 = 1)
    (hgrid : s.nat .grid 0 2 = 1 ∨ s.nat .grid 0 2 = 4 ∨ s.nat .grid 0 2 = 5) :
    exec (.tpoLeadingEdge p) s = .next (tpoAfter (s.bump .tpo p 13 1) p i) := by
  show execTpoLeadingEdge p s = _
  unfold execTpoLeadingEdge
  rw [hnext]
  dsimp only
  rw [if_pos ⟨hp, hdue, hpulse⟩]
  exact if_pos ⟨hgate, hgrid⟩

/-- A pulse is counted with its event. -/
def tpoFired (s : State) (p i : Nat) : State := raise (s.bump .tpo p 12 1) (32 + p) 1 (i % 2 ^ 32)

/-- A pulse begins at a place in this cycle, with a width. -/
def pulseBegun (s : State) (p i width : Nat) (lead : Rat) : State :=
  s.modTpo p (fun x => { x with pulse := some (((tpoEdge s p i + width : Nat) : Int), s.nat .tpo p 2, s.nat .tpo p 3), lead := lead,
                                fired := x.fired + 1 })

theorem exec_tpoLeadingEdge_fires (hp : p < 8) (hnext : (s.tpo p).next = some i)
    (hdue : tpoPlace s (s.nat .tpo p 2) (tpoEdge s p i) < 1) (hpulse : (s.tpo p).pulse = none)
    (hopen : ¬ (s.nat .tpo p 11 = 1 ∧ (s.nat .grid 0 2 = 1 ∨ s.nat .grid 0 2 = 4 ∨ s.nat .grid 0 2 = 5))) :
    ∃ lead, exec (.tpoLeadingEdge p) s = .next (tpoAfter (pulseBegun (tpoFired s p i) p i (tpoPlan s p).2.2 lead) p i) := by
  show ∃ lead, execTpoLeadingEdge p s = _
  unfold execTpoLeadingEdge
  rw [hnext]
  dsimp only
  rw [if_pos ⟨hp, hdue, hpulse⟩, if_neg hopen]
  exact ⟨_, rfl⟩

theorem tpoFired_shows (s : State) (hp : p < 8) (i : Nat) : Counted s (tpoFired s p i) .tpo p 12 1 ∧
    (tpoFired s p i).tpo p = s.tpo p ∧ ∀ sub, sub < 256 → sub ≠ 12 → (tpoFired s p i).nat .tpo p sub = s.nat .tpo p sub := by
  have hisland : islandOf (s.bump .tpo p 12 1) (32 + p) (i % 2 ^ 32) < 32 := by
    unfold islandOf
    rw [if_neg (by omega), if_pos (by omega)]
    decide
  have hnum {sub : Nat} (hsub : sub < 256) : (tpoFired s p i).num .tpo p sub = (s.bump .tpo p 12 1).num .tpo p sub :=
    raise_num 1 hisland (by decide) hp hsub
  refine ⟨?_, tpo_of_tpos (raise_tpos ..) p, fun sub hsub hne => ?_⟩
  · rw [Counted, hnum (by decide)]
    exact num_bump_same ..
  · rw [State.nat, hnum hsub]
    exact congrArg Int.toNat (num_bump_ne s (entryKey_sub_ne _ _ hne) 1)

theorem tpoEdge_kept (h : ∀ sub, sub < 256 → sub ≠ 12 → t.nat .tpo p sub = s.nat .tpo p sub) (i : Nat) : tpoEdge t p i = tpoEdge s p i := by
  unfold tpoEdge tpoPlan
  rw [h 2 (by decide) (by decide), h 4 (by decide) (by decide), h 5 (by decide) (by decide), h 6 (by decide) (by decide),
    h 7 (by decide) (by decide), h 8 (by decide) (by decide), h 9 (by decide) (by decide)]

theorem exec_tpoTrailingEdge_ends {tb pol : Nat} {e : Int} (hpulse : (s.tpo p).pulse = some (e, tb, pol)) (hdue : tpoPlace s tb e < 1)
    (hleast : tb = 0 ∨ (s.tpo p).lead + 100 / localStep s < (s.now : Rat) + 1) :
    exec (.tpoTrailingEdge p) s = .next
      (let u := s.modTpo p (fun x => { x with pulse := none, rearm := false })
       if (s.tpo p).rearm then tpoSchedule u p else u) := by
  show execTpoTrailingEdge p s = _
  unfold execTpoTrailingEdge
  rw [hpulse]
  exact if_pos ⟨hdue, hleast⟩

theorem tpoSchedule_keeps (s : State) (p : Nat) : ((tpoSchedule s p).tpo p).pulse = (s.tpo p).pulse ∧
    ((tpoSchedule s p).tpo p).rearm = (s.tpo p).rearm := by
  have hlate (u : State) : (tpoLate u p 1).tpo p = u.tpo p := by
    show (raise (u.bump .tpo p 13 1) 49 1 p).tpo p = u.tpo p
    exact tpo_of_tpos ((raise_tpos ..).trans (State.bump_tpos ..)) p
  unfold tpoSchedule
  dsimp only
  split
  · rw [State.modTpo_same]
    exact ⟨rfl, rfl⟩
  · split
    · rw [State.modTpo_same]
      exact ⟨rfl, rfl⟩
    · rw [hlate, State.modTpo_same]
      exact ⟨rfl, rfl⟩
  · rw [State.modTpo_same]
    exact ⟨rfl, rfl⟩

/-! The end of a fade (R168). -/

/-- The delay from a tick on joins those of a channel. -/
theorem noteDelay_shows (s : State) (ch a k : Nat) : ((noteDelay s ch a k).chan ch).fade = (s.chan ch).fade ∧
    ((noteDelay s ch a k).chan ch).refWait = (s.chan ch).refWait ∧ ((noteDelay s ch a k).chan ch).use = (s.chan ch).use ∧
      ((noteDelay s ch a k).chan ch).sched = (s.chan ch).sched := by
  unfold noteDelay
  rw [State.modChan_same]
  dsimp only
  split <;> exact ⟨rfl, rfl, rfl, rfl⟩

theorem endFade_ends {c : Chan} (h : c.fadeWait = []) : c.endFade.fade = none ∧ c.endFade.refWait = [] := by
  unfold Chan.endFade
  dsimp only
  rw [h]
  exact ⟨rfl, rfl⟩

theorem fadeDone_ends (h : (s.chan ch).fadeWait = []) : ((fadeDone s ch).chan ch).fade = none ∧
    ((fadeDone s ch).chan ch).refWait = [] ∧ { fadeDone s ch with chans := s.chans } = s := by
  obtain ⟨hfade, hwait⟩ := endFade_ends h
  unfold fadeDone
  extract_lets a u
  obtain ⟨h1, h2, -, -⟩ := noteDelay_shows u ch a (delayOf u ch (u.chan ch).use)
  rw [h1, h2]
  refine ⟨?_, ?_, rfl⟩
  · unfold u
    rw [State.modChan_same]
    exact hfade
  · unfold u
    rw [State.modChan_same]
    exact hwait

/-! A decimation switch (R190, R191). -/

theorem switchDue_one (h : (s.chan ch).sched = [⟨tick, .dec, w, true⟩]) (hdue : tick ≤ s.now)
    (hlast : tick < 4 * (decW (s.chan ch).use.dw).D * (s.chan ch).nextK) : switchDue s ch = some (tick, w) := by
  unfold switchDue
  dsimp only
  rw [h, List.findSome?_cons, if_pos ⟨rfl, rfl, hdue, .inr hlast⟩]
  rfl

theorem setRun_keeps (c : Chan) (g n : Nat) : (c.setRun g n).use = c.use ∧ (c.setRun g n).sched = c.sched := by
  unfold Chan.setRun
  split <;> exact ⟨rfl, rfl⟩

theorem cutFade_sched (c : Chan) (acts : List Nat) : (c.cutFade acts).sched = c.sched := by
  unfold Chan.cutFade
  split <;> rfl

/-- The chain of a channel whose one waiting change is its decimation word. -/
theorem decSwitch_shows (h : (s.chan ch).sched = [⟨tick, .dec, w, true⟩]) :
    ((decSwitch s ch tick w).chan ch).use.dw = w ∧ ((decSwitch s ch tick w).chan ch).sched = [] := by
  unfold decSwitch
  extract_lets u
  obtain ⟨-, -, huse, hsched⟩ := noteDelay_shows u ch (tick + 1) (delayOf u ch (u.chan ch).use)
  rw [huse, hsched]
  unfold u
  rw [State.modChan_same]
  have hspoil : (spoilResync s).chan ch = s.chan ch := rfl
  rw [hspoil]
  have hcut : (((s.chan ch).cutFade []).resetCmps tick).sched = [⟨tick, .dec, w, true⟩] := (cutFade_sched _ _).trans h
  generalize ((s.chan ch).cutFade []).resetCmps tick = c at *
  dsimp only
  rw [(setRun_keeps _ _ _).1, (setRun_keeps _ _ _).2, hcut]
  simp [Chan.apply]

/-- The hub with its streams set aside. -/
def offStreams (s : State) : State := { s with strm := { s.strm with streams := [], ready := [] } }

theorem modStream_offStreams (s : State) (n : Nat) (f : StreamSt → StreamSt) : offStreams (s.modStream n f) = offStreams s := rfl

theorem readyAccs_offStreams (s : State) (n k : Nat) (l : List BlkAcc) : offStreams (readyAccs s n k l) = offStreams s :=
  foldl_kept (g := offStreams) l s fun _ _ => rfl

theorem settleOld_offStreams (s : State) (n : Nat) : offStreams (settleOld s n) = offStreams s :=
  foldl_kept (g := offStreams) _ _ fun u o => (modStream_offStreams _ n _).trans (readyAccs_offStreams u n o.inst _)

theorem streamsSwitch_offStreams (s : State) (ch d d' a : Nat) : offStreams (streamsSwitch s ch d d' a) = offStreams s :=
  foldl_kept (g := offStreams) _ s fun u n => by
    extract_lets u1 u2 tb more
    have h1 : offStreams u1 = offStreams u := foldl_kept (g := offStreams) _ u fun _ _ => rfl
    have h2 : offStreams u2 = offStreams u1 := foldl_kept (g := offStreams) _ u1 fun v o => readyAccs_offStreams v n o.inst _
    clear_value u1 u2
    exact (settleOld_offStreams _ n).trans ((modStream_offStreams u2 n _).trans (h2.trans h1))

theorem offStreams_num (h : offStreams t = offStreams s) (o : Obj) (u sub : Nat) : t.num o u sub = s.num o u sub :=
  (congrArg (State.num · o u sub) h :)

theorem bandAnew_num (s : State) (ch a : Nat) (o : Obj) (u sub : Nat) : (bandAnew s ch a).num o u sub = s.num o u sub := rfl

theorem chans_of_core (h : core t = core s) : t.chans = s.chans := congrArg (·.2.2.1) h

/-- The windows and the check span are brought up to a switch of a channel. -/
def switchReady (s : State) (ch a : Nat) : State := winSwitch (winCatchUp (cutSpan s ch) a) ch a

theorem core_switchReady (s : State) (ch a : Nat) : core (switchReady s ch a) = core s := by
  unfold switchReady
  rw [core_winSwitch, core_winCatchUp, core_cutSpan]

theorem performSwitch_due {d : Nat} (h : switchDue s ch = some (tick, w)) (hd : s.decOf ch = d) : performSwitch s ch =
    bandAnew (streamsSwitch (showCmps (decSwitch (switchReady s ch tick) ch tick w) ch) ch d (decW w).D tick) ch tick := by
  unfold performSwitch
  rw [h, ← hd]
  rfl

theorem performSwitch_shows (hsched : (s.chan ch).sched = [⟨tick, .dec, w, true⟩]) (hdue : switchDue s ch = some (tick, w)) :
    ((performSwitch s ch).chan ch).use.dw = w ∧ ((performSwitch s ch).chan ch).sched = [] ∧
      (performSwitch s ch).num .chThresh ch 6 = 0 ∧ (performSwitch s ch).num .chThresh ch 13 = 0 := by
  obtain ⟨c, hc⟩ : ∃ c, Sparse.find s.chans ch = some c := by
    cases hfind : Sparse.find s.chans ch with
    | some c => exact ⟨c, rfl⟩
    | none =>
      have hinit : s.chan ch = s.chanInit ch := by rw [State.chan, hfind]; rfl
      rw [hinit] at hsched
      exact absurd hsched (by simp [State.chanInit])
  rw [chan_of_find hc] at hsched
  have hready : (switchReady s ch tick).chan ch = c :=
    chan_of_find ((congrArg (Sparse.find · ch) (chans_of_core (core_switchReady s ch tick))).trans hc)
  rw [performSwitch_due hdue rfl]
  generalize switchReady s ch tick = u at *
  generalize s.decOf ch = d
  obtain ⟨huse, hempty⟩ := decSwitch_shows (hready ▸ hsched : (u.chan ch).sched = _)
  have hlisted : ∃ k, Sparse.find (decSwitch u ch tick w).chans ch = some k := ⟨_, find_modChan _ ch _⟩
  obtain ⟨k, hk⟩ := hlisted
  rw [chan_of_find hk] at huse hempty
  generalize decSwitch u ch tick w = v at *
  have hcore : core (bandAnew (streamsSwitch (showCmps v ch) ch d (decW w).D tick) ch tick) = core v :=
    (core_bandAnew _ ch tick).trans ((core_streamsSwitch _ ch d (decW w).D tick).trans (core_showCmps v ch))
  rw [chan_of_find ((congrArg (Sparse.find · ch) (chans_of_core hcore)).trans hk), bandAnew_num, bandAnew_num,
    offStreams_num (streamsSwitch_offStreams _ ch d (decW w).D tick), offStreams_num (streamsSwitch_offStreams _ ch d (decW w).D tick)]
  refine ⟨huse, hempty, ?_, ?_⟩
  · exact (num_setNum_sub (v.setNum .chThresh ch 6 0) .chThresh ch (a := 13) (b := 6) (by decide) 0).trans (num_setNum_same ..)
  · exact num_setNum_same ..

/-! A forwarded PTP message (R197, R202). -/

theorem exec_ptpForward_forwards {port sub c : Nat} {o : OutFrame} {r : List OutFrame} {m : PtpMsg}
    (hnext : nextFrame (s.port port) = some (c, o, r)) (hptp : o.frame.content = .ptp m) (hown : o.own = false) :
    exec (.ptpForward ⟨port, sub⟩) s = .next (putOnWire (correctPtp s port sub o m).1 port c o r
      { o.frame with content := .ptp (correctPtp s port sub o m).2 }) := by
  show execPtpForward ⟨port, sub⟩ s = _
  unfold execPtpForward
  rw [hnext]
  dsimp only
  rw [hptp]
  dsimp only
  rw [if_neg (by rw [hown]; decide)]

/-- A message of a kind that the end-to-end profile corrects, on ports with PTP enabled. -/
structure Corrects (s : State) (port : Nat) (o : OutFrame) (m : PtpMsg) : Prop where
  out : s.nat .ptpPort port 1 = 1
  into : s.nat .ptpPort o.inPort 1 = 1
  kind : correctedKind s m.kind = true
  profile : s.nat .clock 0 2 = 0

theorem correctPtp_adds {port : Nat} {o : OutFrame} {m : PtpMsg} (h : Corrects s port o m) (sub : Nat)
    (hone : m.kind ≠ .sync ∨ m.twoStep = false) :
    correctPtp s port sub o m = (s.bump .ptpPort port 8 1, { m with corr := m.corr + residence s o port sub m.kind }) := by
  obtain ⟨hout, hin, hkind, hprofile⟩ := h
  have hsync : ¬ ((m.kind == .sync && m.twoStep) = true) := by
    rw [Bool.and_eq_true, beq_iff_eq]
    rintro ⟨hk, ht⟩
    exact hone.elim (· hk) fun hf => absurd (hf.symm.trans ht) (by decide)
  unfold correctPtp
  simp only [hout, hin, hkind, hprofile, beq_self_eq_true, Bool.true_or, Bool.true_and, Bool.and_true, if_neg hsync, if_true]

theorem correctPtp_keeps {port : Nat} {o : OutFrame} {m : PtpMsg} (h : Corrects s port o m) (sub : Nat) (hkind : m.kind = .sync)
    (htwo : m.twoStep = true) : correctPtp s port sub o m = (s.modClk (fun c =>
      { c with resid := lastN 64 (c.resid ++ [⟨m.sender, m.domain, m.seq, port, residence s o port sub m.kind⟩]) }), m) := by
  obtain ⟨hout, hin, hcorrected, hprofile⟩ := h
  have hsync : (m.kind == .sync && m.twoStep) = true := by rw [hkind, htwo]; rfl
  unfold correctPtp
  simp only [hout, hin, hcorrected, hprofile, beq_self_eq_true, Bool.true_or, Bool.true_and, Bool.and_true, if_pos hsync]

/-- Settles O19: what is due happens once, and a switch leaves the words that wait for the chain. -/
theorem timePulsesFadesAndDecimationSwitches : Obligations.TimePulsesFadesAndDecimationSwitches := by
  unfold Obligations.TimePulsesFadesAndDecimationSwitches
  refine ⟨?fires, ?gated, ?ends, ?rearmed, ?fade, ?switch, ?corrected, ?kept⟩
  case fires =>
    intro s p i hp hnext hdue hpulse hopen
    obtain ⟨lead, hexec⟩ := exec_tpoLeadingEdge_fires hp hnext hdue hpulse (by
      rintro ⟨hgate, hgrid⟩
      rcases hopen with h | ⟨h1, h4, h5⟩
      · exact h hgate
      · omega)
    obtain ⟨hcount, htpo, hkept⟩ := tpoFired_shows s hp i
    have hedge := tpoEdge_kept hkept i
    have htb := hkept 2 (by decide) (by decide)
    have hpol := hkept 3 (by decide) (by decide)
    generalize tpoFired s p i = u at *
    obtain ⟨h1, h2, -, h4⟩ := tpoAfter_keeps (pulseBegun u p i (tpoPlan s p).2.2 lead) p i
    refine ⟨_, hexec, ?_, ?_, ?_⟩
    · rw [Counted, h4 12 (by decide), ← hcount]
      exact State.modTpo_num ..
    · rw [h1, pulseBegun, State.modTpo_same, hedge, htb, hpol]
    · rw [h2, pulseBegun, State.modTpo_same, htpo]
  case gated =>
    intro s p i hp hnext hdue hpulse hgate hgrid
    obtain ⟨h1, -, h3, h4⟩ := tpoAfter_keeps (s.bump .tpo p 13 1) p i
    refine ⟨_, exec_tpoLeadingEdge_gated hp hnext hdue hpulse hgate hgrid, ?_, ?_, h1.trans hpulse, h3⟩
    · rw [Counted, h4 13 (by decide)]
      exact num_bump_same ..
    · rw [h4 12 (by decide)]
      exact num_bump_ne s (entryKey_sub_ne _ _ (by decide)) 1
  case ends =>
    intro s p tb pol e hpulse hdue hleast hrearm
    refine ⟨_, exec_tpoTrailingEdge_ends hpulse hdue hleast, ?_⟩
    dsimp only
    rw [if_neg (by rw [hrearm]; decide)]
    exact ⟨congrArg TpoSt.pulse (State.modTpo_same s p _), rfl⟩
  case rearmed =>
    intro s p tb pol e hpulse hdue hleast hrearm
    refine ⟨_, exec_tpoTrailingEdge_ends hpulse hdue hleast, ?_⟩
    dsimp only
    rw [if_pos hrearm]
    obtain ⟨h1, h2⟩ := tpoSchedule_keeps (s.modTpo p (fun x => { x with pulse := none, rearm := false })) p
    rw [State.modTpo_same] at h1 h2
    exact ⟨h1, h2⟩
  case fade =>
    intro s ch f hch hfade hleft hwait
    refine ⟨_, ?_, fadeDone_ends hwait⟩
    show execCrossFadeEnd ch s = _
    unfold execCrossFadeEnd
    rw [hfade]
    exact if_pos ⟨hleft, hch⟩
  case switch =>
    intro s ch tick w hch hsched hdue hlast
    exact ⟨_, if_pos hch, performSwitch_shows hsched (switchDue_one hsched hdue hlast)⟩
  case corrected =>
    intro s port sub c o r m hlen hport hnext hptp hown hout hin hkind hmode hone
    have hexec := exec_ptpForward_forwards (sub := sub) hnext hptp hown
    rw [correctPtp_adds ⟨hout, hin, hkind, hmode⟩ sub hone] at hexec
    obtain ⟨-, hsent, -⟩ := putOnWire_shows (s.bump .ptpPort port 8 1) (show port < s.net.ports.length by omega) c o r
      { o.frame with content := .ptp { m with corr := m.corr + residence s o port sub m.kind } }
    refine ⟨_, hexec, ?_, hsent⟩
    have hother : entryKey .ptpPort port 8 ≠ entryKey .link port 6 := entryKey_ne_of_sub (by decide) (by decide) (by decide)
    exact (num_bump_ne (s.bump .ptpPort port 8 1) hother 1).trans (num_bump_same ..)
  case kept =>
    intro s port sub c o r m hlen hport hnext hptp hown hout hin hmode hkind htwo
    have hcorrected : correctedKind s m.kind = true := by
      unfold correctedKind
      rw [hkind, hmode]
      rfl
    have hexec := exec_ptpForward_forwards (sub := sub) hnext hptp hown
    rw [correctPtp_keeps ⟨hout, hin, hcorrected, hmode⟩ sub hkind htwo] at hexec
    obtain ⟨-, hsent, -⟩ := putOnWire_shows (s.modClk (fun c =>
      { c with resid := lastN 64 (c.resid ++ [⟨m.sender, m.domain, m.seq, port, residence s o port sub m.kind⟩]) }))
      (show port < s.net.ports.length by omega) c o r { o.frame with content := .ptp m }
    refine ⟨_, hexec, rfl, hsent.trans ?_⟩
    rw [← hptp]

end Sys2Proof.Machine
end

section
/-! PROOFS. The release of reset and the boot (R24, R587, R594, R597). -/

namespace Sys2Proof.Machine

open Sys2Proof

variable {s t : State} {straps i : Nat}

/-! The release of reset (R24, R587, R597). -/

theorem narrow_b2n (b : Bool) : (entryTy .role 0 2).narrow (b2n b : Nat) = (b2n b : Nat) := by
  cases b <;> decide

theorem b2n_eq_one (b : Bool) : ((b2n b : Nat) : Int) = 1 ↔ b = true := by
  cases b <;> decide

/-- A hub that has left reset is in the boot phase, with its straps sampled. -/
structure Released (s : State) (straps : Nat) (t : State) : Prop where
  inReset : t.power.inReset = false
  held : t.power.held = false
  phase : phase t = 1
  code : t.num .role 0 1 = (straps % 4 : Nat)
  manager : t.num .role 0 2 = 1 ↔ straps % 4 = 2 ∧ Config.hasManager s.variant = true

theorem releaseReset_released (s : State) (straps : Nat) : Released s straps (releaseReset s straps) := by
  have hsupply (u : State) (o : Obj) (sub : Nat) (v : Int) (ho : o ≠ .supply) (hsize : 0 < o.size) (hsub : sub < 256) :
      (u.setNum .supply 0 11 v).num o 0 sub = u.num o 0 sub := num_setNum_obj u ho (by decide) hsize (by decide) hsub v
  have hphase (u : State) (sub : Nat) (v : Int) (hsub : sub < 256) : (u.setNum .startup 0 3 v).num .role 0 sub = u.num .role 0 sub :=
    num_setNum_obj u (by decide) (by decide) (by decide) (by decide) hsub v
  unfold releaseReset
  extract_lets code mgr s1 s2 s3
  have hcode : code < 4 := Nat.mod_lt _ (by decide)
  refine ⟨rfl, rfl, ?_, ?_, ?_⟩
  · rw [phase, State.nat, hsupply _ _ _ _ (by decide) (by decide) (by decide), num_setNum_same]
    rfl
  · rw [hsupply _ _ _ _ (by decide) (by decide) (by decide), hphase _ _ _ (by decide), num_setNum_sub _ _ _ (by decide),
      num_setNum_sub _ _ _ (by decide), num_setNum_same]
    exact narrowU_of_lt (by omega) (by omega)
  · rw [hsupply _ _ _ _ (by decide) (by decide) (by decide), hphase _ _ _ (by decide), num_setNum_sub _ _ _ (by decide),
      num_setNum_same]
    rw [narrow_b2n, b2n_eq_one, Bool.and_eq_true, beq_iff_eq]
    rfl

/-- RESET_N is high again: boundary scan has lost the balls. -/
def heldReturned (s : State) : State :=
  ({ s with dbg := { s.dbg with control := false } }.setNum .debug 0 2 0).modPower (fun p => { p with held := false })

theorem heldReturned_num (s : State) {o : Obj} {u sub : Nat} (h : entryKey o u sub ≠ entryKey .debug 0 2) :
    (heldReturned s).num o u sub = s.num o u sub := by
  have hshown : (heldReturned s).num o u sub = (s.setNum .debug 0 2 0).num o u sub := rfl
  rw [hshown, num_setNum_ne s h]

theorem heldReturned_supply (s : State) : (heldReturned s).nat .supply 0 11 = s.nat .supply 0 11 :=
  congrArg Int.toNat (heldReturned_num s (by decide))

theorem heldReturned_phase (s : State) : phase (heldReturned s) = phase s := congrArg Int.toNat (heldReturned_num s (by decide))

theorem releaseReset_dbg (s : State) (straps : Nat) : (releaseReset s straps).dbg = s.dbg := rfl

theorem exec_resetNRelease_held (h : s.power.held = true) : exec (.resetNRelease straps) s = .next
    (if s.power.powered = true ∧ s.nat .supply 0 11 % 32 = 31 then releaseReset (heldReturned s) straps else heldReturned s) := by
  show execResetNRelease straps s = _
  unfold execResetNRelease
  rw [if_pos h, ← heldReturned_supply s]
  rfl

/-! The boot (R594, R597). -/

/-- Image i is empty, or its check does not pass. -/
abbrev ImageBad (s : State) (okA okB : Bool) (i : Nat) : Prop := (s.image i).state = 0 ∨ (if i = 0 then okA else okB) = false

/-- An image that cannot run is emptied. -/
def imageDropped (s : State) (i : Nat) : State := if (s.image i).state ≠ 0 then s.putImage i ⟨0, 0, []⟩ else s

theorem imageDropped_empty (s : State) (i : Nat) : ((imageDropped s i).image i).state = 0 := by
  unfold imageDropped
  split
  · exact image_emptied (s := s) rfl
  · next h => exact not_not.mp h

theorem imageDropped_other (s : State) {i j : Nat} (h : j ≠ i) : (imageDropped s i).image j = s.image j := by
  unfold imageDropped
  split
  · unfold State.image State.putImage State.modFlash
    rw [List.getD_eq_getElem?_getD, List.getD_eq_getElem?_getD, List.getElem?_set_ne (Ne.symm h)]
  · rfl

theorem bothDropped_shows (s : State) (hi : i ≤ 1) : ((imageDropped (imageDropped s i) (1 - i)).image 0).state = 0 ∧
    ((imageDropped (imageDropped s i) (1 - i)).image 1).state = 0 ∧ phase (imageDropped (imageDropped s i) (1 - i)) = phase s := by
  have hstays (u : State) (j : Nat) : phase (imageDropped u j) = phase u := by
    unfold imageDropped
    split <;> rfl
  have hlast := imageDropped_empty (imageDropped s i) (1 - i)
  have hfirst : ((imageDropped (imageDropped s i) (1 - i)).image i).state = 0 := by
    rw [imageDropped_other _ (by omega)]
    exact imageDropped_empty s i
  refine ⟨?_, ?_, (hstays _ _).trans (hstays s i)⟩
  · rcases Nat.le_one_iff_eq_zero_or_eq_one.mp hi with rfl | rfl
    · exact hfirst
    · exact hlast
  · rcases Nat.le_one_iff_eq_zero_or_eq_one.mp hi with rfl | rfl
    · exact hlast
    · exact hfirst

/-- The hub runs image i. -/
def imageRuns (s : State) (i : Nat) : State :=
  let s := (s.setNum .images 0 1 i).setNum .identity 0 10 i
  let s := (s.setNum .identity 0 9 (s.image i).version).setNum .startup 0 4 (sinceRelease s)
  showFlash (s.setNum .startup 0 3 2)

/-- The entries that show the flash's records. -/
def flashKeys : List Nat := [entryKey .images 0 2, entryKey .images 0 3, entryKey .images 0 4, entryKey .images 0 5,
  entryKey .images 0 6, entryKey .startup 0 2, entryKey .startup 0 11]

theorem showFlash_num (s : State) {o : Obj} {u sub : Nat} (h : entryKey o u sub ∉ flashKeys) : (showFlash s).num o u sub = s.num o u sub := by
  simp only [flashKeys, List.mem_cons, List.not_mem_nil, or_false, not_or] at h
  obtain ⟨h2, h3, h4, h5, h6, hboots, hdogs⟩ := h
  unfold showFlash
  dsimp only
  rw [num_setNum_ne _ hdogs, num_setNum_ne _ hboots, num_setNum_ne _ h6, num_setNum_ne _ h5, num_setNum_ne _ h4, num_setNum_ne _ h3,
    num_setNum_ne _ h2]

theorem showFlash_flash (s : State) : (showFlash s).flash = s.flash := by
  unfold showFlash
  simp only [State.setNum_flash]

theorem showFlash_cal (s : State) : (showFlash s).cal = s.cal := by
  unfold showFlash
  simp only [State.setNum_cal]

theorem showFlash_phase (s : State) : phase (showFlash s) = phase s := congrArg Int.toNat (showFlash_num s (by decide))

theorem imageRuns_shows (s : State) (hi : i ≤ 1) : phase (imageRuns s i) = 2 ∧ (imageRuns s i).num .images 0 1 = i ∧
    (imageRuns s i).num .identity 0 10 = i ∧ (imageRuns s i).flash = s.flash := by
  unfold imageRuns
  dsimp only
  rw [showFlash_phase, showFlash_num _ (by decide), showFlash_num _ (by decide)]
  refine ⟨?_, ?_, ?_, (showFlash_flash _).trans (by simp only [State.setNum_flash])⟩
  · rw [phase, State.nat, num_setNum_same]
    rfl
  · rw [num_setNum_ne _ (by decide), num_setNum_ne _ (by decide), num_setNum_ne _ (by decide), num_setNum_ne _ (by decide), num_setNum_same]
    exact narrowU_of_lt (by omega) (by omega)
  · rw [num_setNum_ne _ (by decide), num_setNum_ne _ (by decide), num_setNum_ne _ (by decide), num_setNum_same]
    exact narrowU_of_lt (by omega) (by omega)

/-- A boot that can begin. -/
structure Boots (s : State) : Prop where
  phase : phase s = 1
  inReset : s.power.inReset = false
  bootOk : s.power.bootOk = true

theorem Boots.bootImage (h : Boots s) :
    bootImage s = if (s.image s.flash.preferred).state ≠ 0 then s.flash.preferred else 1 - s.flash.preferred :=
  if_neg (by rw [h.phase]; decide)

theorem exec_bootEnd_eq (h : Boots s) (okA okB : Bool) (hi : Machine.bootImage s = i) : exec (.bootEnd okA okB) s = .next
    (if ¬ ImageBad s okA okB i then imageRuns s i
    else if ¬ ImageBad s okA okB (1 - i) then
      (imageRuns (imageDropped s i) (1 - i)).modPower (fun p => { p with fellBack := decide ((s.image i).state ≠ 0) })
    else showFlash ((imageDropped (imageDropped s i) (1 - i)).modPower (fun p => { p with bootOk := false }))) := by
  have hok (j : Nat) : ((s.image j).state != 0 && (if j = 0 then okA else okB)) = true ↔ ¬ ImageBad s okA okB j := by
    rw [Bool.and_eq_true, bne_iff_ne, ImageBad, not_or, Bool.not_eq_false]
  show execBootEnd okA okB s = _
  unfold execBootEnd
  rw [if_pos ⟨h.phase, h.inReset, h.bootOk⟩, hi]
  extract_lets ok drop run
  by_cases hfirst : ImageBad s okA okB i
  · rw [if_neg (fun hgood => (hok i).mp hgood hfirst), if_neg (not_not.mpr hfirst)]
    by_cases hother : ImageBad s okA okB (1 - i)
    · rw [if_neg (fun hgood => (hok (1 - i)).mp hgood hother), if_neg (not_not.mpr hother)]
      rfl
    · rw [if_pos ((hok (1 - i)).mpr hother), if_pos hother]
      rfl
  · rw [if_pos ((hok i).mpr hfirst), if_pos hfirst]
    rfl

end Sys2Proof.Machine
end

section
/-! PROOFS. The restore step of a start-up (R520 to R525, R592, R598). -/

namespace Sys2Proof.Machine

open Sys2Proof

variable {s t : State}

/-! What the restored values leave of the grid count (R59, R81 to R84, R109 to R114, R135, R136). -/

theorem onChans_now {f : State → Nat → State} (s : State) (l : List Nat) (h : ∀ u n, (f u n).now = u.now) : (onChans s l f).now = s.now :=
  foldl_kept (g := State.now) l s h

theorem touchAll_now (s : State) (chs : List Nat) (a us : Nat) : (touchAll s chs a us).now = s.now :=
  onChans_now s chs fun _ _ => addFlag_now _ _ _ _ _ _

theorem setTouch_now (s : State) (ch a us : Nat) : (setTouch s ch a us).now = s.now := addFlag_now _ _ _ _ _ _

theorem touchUnit_now (old s : State) (unit : ExcUnit) (a : Nat) (us : Option Nat) : (touchUnit old s unit a us).now = s.now :=
  (touchUnit_frame old s unit a us).now

theorem switchTouch_now (old s : State) (cell a : Nat) : (switchTouch old s cell a).now = s.now := rfl

theorem auxTouch_now (old s : State) (term a : Nat) : (auxTouch old s term a).now = s.now := by
  unfold auxTouch
  split <;> rfl

theorem assocTouch_now (old s : State) (cell a : Nat) : (assocTouch old s cell a).now = s.now :=
  foldl_kept (g := State.now) _ s fun u unit => onChans_now u _ fun v n => by
    unfold assocExc
    dsimp only
    split
    · split <;> rfl
    · split
      · exact addFlag_now _ _ _ _ _ _
      · rfl

theorem frontTouch_now (old s : State) (a : Nat) (o : Obj) (u sub : Nat) : (frontTouch old s a o u sub).now = s.now := by
  unfold frontTouch
  split
  · exact (assocTouch_now _ _ _ _).trans ((auxTouch_now _ _ _ _).trans ((switchTouch_now _ _ _ _).trans (touchAll_now _ _ _ _)))
  · split
    · refine (assocTouch_now _ _ _ _).trans ?_
      exact iteInduction (motive := fun v : State => v.now = s.now)
        (fun _ => (setTouch_now _ _ _ _).trans ((setTouch_now _ _ _ _).trans (switchTouch_now _ _ _ _)))
        fun _ => (setTouch_now _ _ _ _).trans (switchTouch_now _ _ _ _)
    · exact (assocTouch_now _ _ _ _).trans ((setTouch_now _ _ _ _).trans (switchTouch_now _ _ _ _))
    · exact (assocTouch_now _ _ _ _).trans ((setTouch_now _ _ _ _).trans (switchTouch_now _ _ _ _))
    · exact assocTouch_now _ _ _ _
    · exact setTouch_now _ _ _ _
    · exact setTouch_now _ _ _ _
    · exact State.modChan_now ..
    · rfl
  · exact touchUnit_now _ _ _ _ _
  · exact touchUnit_now _ _ _ _ _
  · exact touchAll_now _ _ _ _
  · rfl

theorem refLost_now (s : State) (cell a : Nat) : (refLost s cell a).now = s.now := by
  unfold refLost
  dsimp only
  refine (onChans_now _ _ fun u n => ?_).trans ?_
  · split <;> rfl
  · exact (foldl_kept (g := State.now) _ _ fun _ _ => rfl : (windowsRestart (s.setNum .refPower cell 3 _) cell a).now = _)

theorem refTouch_now (s : State) (cell a : Nat) : (refTouch s cell a).now = s.now := by
  unfold refTouch
  extract_lets u v
  refine iteInduction (motive := fun x : State => x.now = s.now) (fun _ => ?_) fun _ => ?_
  · exact (State.modCell_now ..).trans (refLost_now v cell a)
  · exact (State.modCell_now ..).trans ((State.setNum_now ..).trans (refLost_now u cell a))

theorem modeSwitch_now (s : State) (cell a mode : Nat) : (modeSwitch s cell a mode).now = s.now := by
  unfold modeSwitch
  extract_lets clock was u v x
  have hu : u.now = s.now := rfl
  have hv : v.now = u.now := onChans_now u _ fun _ _ => State.modChan_now ..
  clear_value u v
  refine iteInduction (motive := fun x : State => x.now = s.now) (fun _ => hv.trans hu) fun _ => ?_
  exact (refLost_now x cell a).trans ((State.modCell_now ..).trans (hv.trans hu))

theorem modeTouch_now (s : State) (cell a : Nat) : (modeTouch s cell a).now = s.now := by
  unfold modeTouch
  extract_lets u due mode v w
  have hu : u.now = s.now := by
    unfold u
    split
    · split
      · exact modeSwitch_now _ _ _ _
      · exact onChans_now s _ fun _ _ => rfl
    · rfl
  have hv : v.now = u.now := State.modCell_now ..
  have hw : w.now = v.now :=
    iteInduction (motive := fun x : State => x.now = v.now) (fun _ => rfl) fun _ => onChans_now v _ fun _ _ => rfl
  clear_value u v w
  refine (onChans_now w _ fun x n => ?_).trans (hw.trans (hv.trans hu))
  split <;> rfl

theorem auxRefTouch_now (s : State) (a : Nat) : (auxRefTouch s a).now = s.now := by
  unfold auxRefTouch
  dsimp only
  split <;> rfl

theorem auxModeTouch_now (s : State) (a : Nat) : (auxModeTouch s a).now = s.now := by
  unfold auxModeTouch auxSwitchDue
  dsimp only
  split
  · split_ifs
    · rfl
    · exact auxRefTouch_now _ _
    · rfl
    · rfl
  · rfl

theorem startFrontEnd_now (old s : State) : (startFrontEnd old s).now = s.now := by
  unfold startFrontEnd
  extract_lets a ws u v w
  have hu : u.now = s.now := foldl_kept (g := State.now) ws s fun k x =>
    iteInduction (motive := fun x : State => x.now = k.now) (fun _ => frontTouch_now _ _ _ _ _ _) fun _ => rfl
  have hv : v.now = u.now := foldl_kept (g := State.now) _ u fun k c => by
    dsimp only
    split
    · exact (modeTouch_now _ _ _).trans (refTouch_now _ _ _)
    · exact refTouch_now _ _ _
  have hw : w.now = v.now := (auxRefTouch_now _ _).trans (State.modAux_now ..)
  clear_value u v w
  exact iteInduction (motive := fun x : State => x.now = s.now) (fun _ => (auxModeTouch_now _ _).trans (hw.trans (hv.trans hu)))
    fun _ => hw.trans (hv.trans hu)

/-! The restore step (R520 to R525, R592, R598). -/

/-- The retained values are restored, or the factory's. -/
def retainedRestored (s : State) : State :=
  match s.flash.marker with
  | some scope => factoryRestore s scope
  | none => restoreStore s

theorem restoreResult_now (s : State) (result gen : Nat) : (restoreResult s result gen).now = s.now := rfl

theorem snapValue_now (s : State) (x : Snap) (r : Obj × Nat × Nat) : (snapValue s x r).now = s.now := by
  unfold snapValue
  dsimp only
  split <;> rfl

theorem toDefault_now (s : State) (r : Obj × Nat × Nat) : (toDefault s r).now = s.now := by
  unfold toDefault
  split <;> rfl

theorem factoryRestore_now (s : State) (scope : Nat) : (factoryRestore s scope).now = s.now := by
  unfold factoryRestore
  extract_lets cfg gen erased cfg2
  have hcfg : cfg.now = s.now := by
    unfold cfg
    split
    · exact iteInduction (motive := fun x : State => x.now = s.now) (fun _ => foldl_kept (g := State.now) _ s fun u r => snapValue_now u _ r)
        fun _ => rfl
    · rfl
  have herased : erased.now = cfg.now := foldl_kept (g := State.now) _ cfg fun _ _ => State.modFlash_now ..
  clear_value cfg erased
  exact (raise_now _ _ _ _).trans ((restoreResult_now _ _ _).trans ((State.modFlash_now ..).trans (herased.trans hcfg)))

theorem restoreStore_now (s : State) : (restoreStore s).now = s.now := by
  unfold restoreStore
  split
  · exact (raise_now _ _ _ _).trans (restoreResult_now _ _ _)
  · extract_lets rs cfg bad cfg2 n count
    have hcfg : cfg.now = s.now := foldl_kept (g := State.now) rs s fun u r => snapValue_now u _ r
    have hcfg2 : cfg2.now = s.now := (foldl_kept (g := State.now) bad cfg toDefault_now).trans hcfg
    have hcount (u : State) : (count u).now = u.now :=
      iteInduction (motive := fun x : State => x.now = u.now) (fun _ => rfl) fun _ => (raise_now _ _ _ _).trans (State.setNum_now ..)
    clear_value cfg cfg2 count
    refine iteInduction (motive := fun x : State => x.now = s.now) (fun _ => ?_) fun _ => ?_
    · refine iteInduction (motive := fun x : State => x.now = s.now) (fun _ => ?_) fun _ => ?_
      · exact (restoreResult_now _ _ _).trans ((hcount _).trans hcfg2)
      · exact (raise_now _ _ _ _).trans ((restoreResult_now _ _ _).trans ((hcount _).trans hcfg2))
    · exact (raise_now _ _ _ _).trans ((restoreResult_now _ _ _).trans (hcount _))

theorem retainedRestored_now (s : State) : (retainedRestored s).now = s.now := by
  unfold retainedRestored
  split
  · exact factoryRestore_now _ _
  · exact restoreStore_now _

/-- The restored values are in effect, before the ports may come up. -/
def restoredInEffect (old s : State) : State :=
  let s := (List.range 8).foldl (fun s p => if s.nat .tpo p 1 = 1 then s.setNum .tpo p 1 0 else s) s
  let s := lgoRestored (startCores (dinsStart (startFrontEnd old (usePartitions s))))
  ringsUpdate s s.now

theorem usePartitions_now (s : State) : (usePartitions s).now = s.now := rfl

theorem dinsStart_now (s : State) : (dinsStart s).now = s.now := rfl

theorem startCores_now (s : State) : (startCores s).now = s.now := by
  unfold startCores
  extract_lets cores u
  exact (State.modCust_now ..).trans (foldl_kept (g := State.now) cores s fun _ _ => State.setNum_now ..)

theorem lgoRestored_now (s : State) : (lgoRestored s).now = s.now := foldl_kept (g := State.now) _ s fun _ _ => State.modLgo_now ..

theorem now_of_core (h : core t = core s) : t.now = s.now := congrArg (·.1) h

theorem restoredInEffect_now (old s : State) : (restoredInEffect old s).now = s.now := by
  unfold restoredInEffect
  extract_lets u v
  have hu : u.now = s.now := foldl_kept (g := State.now) _ s fun k n => by
    split
    · exact State.setNum_now ..
    · rfl
  have hv : v.now = u.now :=
    (lgoRestored_now _).trans ((startCores_now _).trans ((dinsStart_now _).trans ((startFrontEnd_now old _).trans (usePartitions_now u))))
  exact (now_of_core (core_ringsUpdate v v.now)).trans (hv.trans hu)

/-- The ports may come up from now on (R598). -/
def portsRestored (s : State) : State :=
  (List.range 3).foldl (fun s p => if s.has .link p then s.setNum .link p 3 (if heldDown s p then 3 else 0) else s)
    ((s.setNum .startup 0 3 3).setNum .startup 0 5 (sinceRelease s))

theorem portsRestored_shows (s : State) : phase (portsRestored s) = 3 ∧ (portsRestored s).now = s.now := by
  unfold portsRestored
  generalize hbase : (s.setNum .startup 0 3 3).setNum .startup 0 5 (sinceRelease s) = u
  have hu : phase u = 3 ∧ u.now = s.now := by
    rw [← hbase]
    refine ⟨?_, rfl⟩
    rw [phase, State.nat, num_setNum_ne _ (entryKey_sub_ne _ _ (by decide)), num_setNum_same]
    rfl
  refine List.foldlRecOn (motive := fun v : State => phase v = 3 ∧ v.now = s.now) _ _ hu fun v hv p hp => ?_
  obtain ⟨hphase, hnow⟩ := hv
  split
  · refine ⟨?_, (State.setNum_now ..).trans hnow⟩
    have hsize : p < Obj.size .link := Nat.lt_of_lt_of_le (List.mem_range.mp hp) (by decide)
    rw [phase, State.nat, num_setNum_ne _ (entryKey_obj_ne (by decide) (by decide) hsize (by decide) (by decide))]
    exact hphase
  · exact ⟨hphase, hnow⟩

theorem putImage_phase (s : State) (i : Nat) (x : Image) : phase (s.putImage i x) = phase s := rfl

theorem putImage_cal (s : State) (i : Nat) (x : Image) : (s.putImage i x).cal = s.cal := rfl

theorem startEvents_shows (s : State) : phase (startEvents s) = phase s ∧ (startEvents s).cal = s.cal ∧
    (startEvents s).power.rejected = none ∧ (startEvents s).power.fellBack = false := by
  unfold startEvents
  extract_lets i x s1 s2 s3 s4 s5 s6
  have hraise (u : State) (cause detail : Nat) (src : Nat) (hsrc : src = 83 ∨ src = 78) :
      phase (raise u src cause detail) = phase u ∧ (raise u src cause detail).cal = u.cal := by
    have hisland : islandOf u src detail < 32 := by
      rcases hsrc with rfl | rfl
      · exact show 29 < 32 by decide
      · exact show 29 < 32 by decide
    exact ⟨congrArg Int.toNat (raise_num cause hisland (by decide) (by decide) (by decide)), raise_cal ..⟩
  have h1 : phase s1 = phase s ∧ s1.cal = s.cal :=
    iteInduction (motive := fun v : State => phase v = phase s ∧ v.cal = s.cal) (fun _ => ⟨putImage_phase _ _ _, putImage_cal _ _ _⟩)
      fun _ => ⟨rfl, rfl⟩
  have h2 : phase s2 = phase s1 ∧ s2.cal = s1.cal := ⟨showFlash_phase s1, showFlash_cal s1⟩
  have h3 : phase s3 = phase s2 ∧ s3.cal = s2.cal :=
    iteInduction (motive := fun v : State => phase v = phase s2 ∧ v.cal = s2.cal) (fun _ => hraise _ _ _ _ (.inl rfl)) fun _ => ⟨rfl, rfl⟩
  have h4 : phase s4 = phase s3 ∧ s4.cal = s3.cal := by
    unfold s4
    split
    · exact hraise _ _ _ _ (.inl rfl)
    · exact ⟨rfl, rfl⟩
  have h5 : phase s5 = phase s4 ∧ s5.cal = s4.cal := hraise _ _ _ _ (.inl rfl)
  have h6 : phase s6 = phase s5 ∧ s6.cal = s5.cal :=
    iteInduction (motive := fun v : State => phase v = phase s5 ∧ v.cal = s5.cal) (fun _ => hraise _ _ _ _ (.inr rfl)) fun _ => ⟨rfl, rfl⟩
  clear_value s1 s2 s3 s4 s5 s6
  obtain ⟨p1, c1⟩ := h1
  obtain ⟨p2, c2⟩ := h2
  obtain ⟨p3, c3⟩ := h3
  obtain ⟨p4, c4⟩ := h4
  obtain ⟨p5, c5⟩ := h5
  obtain ⟨p6, c6⟩ := h6
  exact ⟨p6.trans (p5.trans (p4.trans (p3.trans (p2.trans p1)))), c6.trans (c5.trans (c4.trans (c3.trans (c2.trans c1)))), rfl, rfl⟩

/-- The hold-off begins. -/
def holdOffBegun (s : State) : State := s.modCal (fun k => { k with holdFrom := some s.now })

theorem startUp_eq (old s : State) : startUp old s = startEvents (holdOffBegun (portsRestored (restoredInEffect old s))) := rfl

theorem startUp_shows (old s : State) : phase (startUp old s) = 3 ∧ (startUp old s).cal.holdFrom = some s.now ∧
    (startUp old s).power.rejected = none ∧ (startUp old s).power.fellBack = false := by
  rw [startUp_eq]
  obtain ⟨hports, hnow⟩ := portsRestored_shows (restoredInEffect old s)
  have hthen := hnow.trans (restoredInEffect_now old s)
  generalize portsRestored (restoredInEffect old s) = u at *
  obtain ⟨hphase, hcal, hrejected, hback⟩ := startEvents_shows (holdOffBegun u)
  exact ⟨hphase.trans hports, (congrArg CalSt.holdFrom hcal).trans (congrArg some hthen), hrejected, hback⟩

/-- A boot of the hub is counted in its flash. -/
def bootCounted (s : State) : State := s.modFlash (fun f => { f with boots := (f.boots + 1) % 2 ^ 32 })

theorem bootCounted_now (s : State) : (bootCounted s).now = s.now := rfl

theorem exec_restore_starts (h : phase s = 2) :
    exec .restore s = .next (startUp s (retainedRestored (bootCounted s))) := by
  show execRestore s = _
  unfold execRestore
  exact if_pos h

end Sys2Proof.Machine
end

section
/-! PROOFS. The stream start, and with it the whole start-up (R24, R587, R594, R597 to R600). -/

namespace Sys2Proof.Machine

open Sys2Proof

variable {s t : State} {p : Nat}

/-! The stream start (R599, R600). -/

/-- Every entry of the start-up stands as before. -/
def KeepsStart (s t : State) : Prop := ∀ sub, sub < 256 → t.num .startup 0 sub = s.num .startup 0 sub

namespace KeepsStart

variable {v : State}

theorem refl (s : State) : KeepsStart s s := fun _ _ => rfl

theorem trans (h : KeepsStart s t) (g : KeepsStart t v) : KeepsStart s v := fun sub hsub => (g sub hsub).trans (h sub hsub)

theorem of_side (h : SideFrame s t) : KeepsStart s t := fun _ hsub => h.num_startup hsub

theorem setNum (s : State) {o : Obj} {u sub : Nat} (v : Int) (ho : o ≠ .startup) (hu : u < o.size) (hsub : sub < 256) :
    KeepsStart s (s.setNum o u sub v) := fun _ h => num_setNum_obj s ho.symm hu (by decide) hsub h v

theorem setStream (s : State) (n sub : Nat) (v : Int) : KeepsStart s (s.setNum .stream n sub v) := fun _ h =>
  num_setNum_ne s (entryKey_ne_stream n h) v

theorem modStrm (s : State) (f : StrmSt → StrmSt) : KeepsStart s (s.modStrm f) := fun _ _ => State.modStrm_num ..

theorem modTake (s : State) (n : Nat) (f : TakeSt → TakeSt) : KeepsStart s (s.modTake n f) := fun _ _ => State.modTake_num ..

theorem modTpo (s : State) (n : Nat) (f : TpoSt → TpoSt) : KeepsStart s (s.modTpo n f) := fun _ _ => State.modTpo_num ..

theorem modWin (s : State) (n : Nat) (f : WinSt → WinSt) : KeepsStart s (s.modWin n f) := fun _ _ => State.modWin_num ..

theorem raise (s : State) {src : Nat} (cause : Nat) {detail : Nat} (h : islandOf s src detail < 32) :
    KeepsStart s (raise s src cause detail) := of_side (.raise s cause h)

theorem foldl {α : Type} {f : State → α → State} (l : List α) (s : State) (h : ∀ u, ∀ a ∈ l, KeepsStart u (f u a)) :
    KeepsStart s (l.foldl f s) :=
  List.foldlRecOn l f (refl s) fun u hu a ha => hu.trans (h u a ha)

end KeepsStart

theorem passOn_keepsStart (s : State) (pos ident n k : Nat) (x : Item) : KeepsStart s (passOn s pos ident n k x) := by
  unfold passOn
  extract_lets u
  have hu : KeepsStart s u := .of_side ((uplinkItems_side _ _ _ _ _ _).trans (handPut_side _ _ _ _ _ _))
  have hin (w : State) (l : List (Nat × Bytes)) : KeepsStart w { w with crossIn := l } := fun _ _ => rfl
  clear_value u
  exact iteInduction (motive := KeepsStart s) (fun _ => hu.trans (hin u _)) fun _ => hu

theorem ownItem_keepsStart (s : State) (n k : Nat) (x : Item) : KeepsStart s (ownItem s n k x) := by
  have hcount : KeepsStart s (s.bump .mgrAck 0 6 1) := .setNum s _ (by decide) (by decide) (by decide)
  exact (hcount.trans (.of_side (ownDecoded_side _ x))).trans (passOn_keepsStart _ 0 _ n k x)

/-- The gap of a stream that has fallen back is open. -/
def gapOpened (s : State) (n g : Nat) : State :=
  raise ((((s.setNum .stream n 6 2).bump .stream n 12 1).setNum .stream n 15 s.now).modStream n (fun k => { k with gap := some g })) 64 1 n

theorem gapOpened_keepsStart (s : State) (n g : Nat) : KeepsStart s (gapOpened s n g) := by
  refine KeepsStart.trans ?_ (.raise _ 1 (show 28 < 32 by decide))
  exact (((KeepsStart.setStream s n 6 2).trans (.setStream _ n 12 _)).trans (.setStream _ n 15 _)).trans (.modStrm _ _)

theorem fallBack_keepsStart (s : State) (n : Nat) : KeepsStart s (fallBack s n) := by
  have hnumber (u : State) (k : Nat) : KeepsStart u (takeGapNumber u n k).1 := by
    have hrec : KeepsStart u (if n = recStream then withRec u else u) :=
      iteInduction (motive := KeepsStart u) (fun _ => .of_side (withRec_side u)) fun _ => .refl u
    unfold takeGapNumber
    dsimp only
    split
    · exact hrec.trans (.modStrm _ _)
    · exact hrec
  unfold fallBack
  extract_lets inst u w rs
  have hw : KeepsStart s w := (KeepsStart.modStrm s _).trans (.modStrm u _)
  clear_value w
  refine iteInduction (motive := KeepsStart s) (fun _ => ?_) fun _ => hw.trans (.of_side (haltStream_side w n))
  have hgap (h : GapHead) : KeepsStart s (writeGap (takeGapNumber w n inst).1 h rs).1 :=
    hw.trans ((hnumber w inst).trans (.of_side (writeGap_side (takeGapNumber w n inst).1 h rs)))
  exact (hgap _).trans (gapOpened_keepsStart _ n _)

theorem beginInst_keepsStart (s : State) (n a : Nat) : KeepsStart s (beginInst s n a) := by
  unfold beginInst
  extract_lets num ms start space want u v w ann announced x
  have hw : KeepsStart s w :=
    ((KeepsStart.modStrm s _).trans (.modStrm u _)).trans ((KeepsStart.setStream v n 7 num).trans (.setStream _ n 8 1))
  have hx : KeepsStart w x := .setStream w n 6 1
  clear_value w x
  refine iteInduction (motive := KeepsStart s) (fun _ => ?_) fun _ => hw.trans ((KeepsStart.modStrm w _).trans (fallBack_keepsStart _ n))
  exact iteInduction (motive := KeepsStart s) (fun _ => (hw.trans hx).trans (ownItem_keepsStart x n num _))
    fun _ => (hw.trans hx).trans (.modStrm x _)

theorem streamsBegin_keepsStart (s : State) (a : Nat) : KeepsStart s (streamsBegin s a) := .foldl _ s fun u n _ =>
  iteInduction (motive := KeepsStart u) (fun _ => beginInst_keepsStart u n a) fun _ => .refl u

theorem winsStart_keepsStart (s : State) (a : Nat) : KeepsStart s (winsStart s a) := .foldl _ s fun u w _ =>
  iteInduction (motive := KeepsStart u) (fun _ => .refl u) fun _ => .modWin u w _

theorem ringsUpdate_keepsStart (s : State) (a : Nat) : KeepsStart s (ringsUpdate s a) := by
  unfold ringsUpdate
  extract_lets want u v
  have hu : KeepsStart s u := fun _ _ => rfl
  have hv : KeepsStart u v := .foldl want u fun x ch _ =>
    iteInduction (motive := KeepsStart x) (fun _ => .refl x) fun _ => fun _ _ => rfl
  exact (hu.trans hv).trans (.setNum v _ (by decide) (by decide) (by decide))

theorem takesStart_keepsStart (s : State) (a : Nat) : KeepsStart s (takesStart s a) := by
  unfold takesStart
  extract_lets u
  refine (ringsUpdate_keepsStart s a).trans (.foldl _ u fun x n hn => ?_)
  extract_lets y
  have hy : KeepsStart x y := .modTake x n _
  clear_value y
  refine hy.trans (iteInduction (motive := KeepsStart y) (fun _ => .refl y) fun _ => ?_)
  have hstate : KeepsStart y (y.setNum .takeStat n 1 1) :=
    .setNum y _ (by decide) (Nat.lt_of_lt_of_le (List.mem_range.mp hn) (by decide)) (by decide)
  exact (hstate.trans (.modTake _ n _)).trans (.modTake _ n _)

theorem tpoArm_keepsStart (s : State) (hp : p < 8) : KeepsStart s (tpoArm s p) := by
  have hlate (u : State) : KeepsStart u (tpoLate u p 1) := by
    have hcount : KeepsStart u (u.bump .tpo p 13 1) := .setNum u _ (by decide) hp (by decide)
    exact hcount.trans (.raise _ 1 (show islandOf (u.bump .tpo p 13 1) 49 p < 32 from (by decide : 24 < 32)))
  unfold tpoArm tpoSchedule
  dsimp only
  split
  · split
    · exact .modTpo s p _
    · split
      · exact .modTpo s p _
      · exact (KeepsStart.modTpo s p _).trans (hlate _)
    · exact .modTpo s p _
  · exact .modTpo s p _

/-- The stream start is shown with its tick, and its event raised. -/
def startShown (s : State) : State :=
  let s := (s.setNum .startup 0 3 6).setNum .startup 0 8 s.now
  raise s 83 1 (s.nat .startup 0 2)

theorem startShown_shows (s : State) : (startShown s).num .startup 0 3 = 6 ∧
    (startShown s).num .startup 0 8 = ((s.now % 2 ^ 64 : Nat) : Int) := by
  have hraised : KeepsStart ((s.setNum .startup 0 3 6).setNum .startup 0 8 s.now) (startShown s) := .raise _ 1 (show 29 < 32 by decide)
  rw [hraised 3 (by decide), hraised 8 (by decide)]
  exact ⟨(num_setNum_sub (s.setNum .startup 0 3 6) .startup 0 (a := 8) (b := 3) (by decide) s.now).trans (num_setNum_same ..),
    num_setNum_same ..⟩

/-- What begins together at the stream start. -/
def allBegun (s : State) : State :=
  let s := takesStart (winsStart (streamsBegin s s.now) s.now) s.now
  let s := (List.range 8).foldl (fun s p => if (s.tpo p).next = none ∧ s.nat .tpo p 1 ≠ 0 then tpoArm s p else s) s
  let s := (List.range 16).foldl (fun s i => s.modLgo i (fun k => { k with lastTaken := s.now })) s
  if s.isManager then (List.range 64).foldl (fun s x => if s.nat .crossHub x 1 = 1 then crossBegin s x s.now else s) s else s

theorem allBegun_keepsStart (s : State) : KeepsStart s (allBegun s) := by
  unfold allBegun
  extract_lets u v w
  have hu : KeepsStart s u :=
    ((streamsBegin_keepsStart s s.now).trans (winsStart_keepsStart _ s.now)).trans (takesStart_keepsStart _ s.now)
  have hv : KeepsStart u v := .foldl _ u fun x p hp =>
    iteInduction (motive := KeepsStart x) (fun _ => tpoArm_keepsStart x (List.mem_range.mp hp)) fun _ => .refl x
  have hw : KeepsStart v w := .foldl _ v fun x i _ => fun _ _ => State.modLgo_num ..
  clear_value u v w
  refine ((hu.trans hv).trans hw).trans (iteInduction (motive := KeepsStart w) (fun _ => ?_) fun _ => .refl w)
  exact .foldl _ w fun x i _ => iteInduction (motive := KeepsStart x) (fun _ => fun _ _ => State.modCross_num ..) fun _ => .refl x

theorem exec_streamStart_begins (h : streamStartTick s = true) : exec .streamStart s = .next (allBegun (startShown s)) := by
  show execStreamStart s = _
  unfold execStreamStart
  rw [if_pos h]
  rfl

/-- Settles O2: the release samples the straps, and every later phase of the start-up follows from the one before it. -/
theorem releaseOfResetStartsTheBootAndSamplesTheStraps : Obligations.ReleaseOfResetStartsTheBootAndSamplesTheStraps := by
  unfold Obligations.ReleaseOfResetStartsTheBootAndSamplesTheStraps
  refine ⟨?release, ?returned, ?waits, ?preferred, ?other, ?neither, ?restore, ?stream⟩
  case release =>
    intro s straps hpowered hreset hheld
    obtain ⟨hout, -, hphase, hcode, hmanager⟩ := releaseReset_released s straps
    exact ⟨_, if_pos ⟨hpowered, hreset, hheld⟩, hout, hphase, hcode, hmanager⟩
  case returned =>
    intro s straps hpowered hheld hrails
    obtain ⟨hout, hfree, hphase, hcode, hmanager⟩ := releaseReset_released (heldReturned s) straps
    refine ⟨_, (exec_resetNRelease_held hheld).trans (congrArg Host.Outcome.next (if_pos ⟨hpowered, hrails⟩)), hout, hfree, hphase,
      hcode, hmanager, ?_⟩
    exact congrArg DebugSt.control (releaseReset_dbg (heldReturned s) straps)
  case waits =>
    intro s straps hheld hnot
    have hstay : ¬ (s.power.powered = true ∧ s.nat .supply 0 11 % 32 = 31) := by
      rintro ⟨hpowered, hrails⟩
      exact hnot.elim (fun h => absurd (h.symm.trans hpowered) (by decide)) (· hrails)
    exact ⟨_, (exec_resetNRelease_held hheld).trans (congrArg Host.Outcome.next (if_neg hstay)), rfl, rfl, heldReturned_phase s, rfl⟩
  case preferred =>
    intro s okA okB hphase hreset hok hpref hstate hcheck
    have hboots : Boots s := ⟨hphase, hreset, hok⟩
    have hgood : ¬ ImageBad s okA okB s.flash.preferred := by
      rintro (h | h)
      · exact hstate h
      · exact absurd (h.symm.trans hcheck) (by decide)
    have hexec := exec_bootEnd_eq hboots okA okB (hboots.bootImage.trans (if_pos hstate))
    rw [if_pos hgood] at hexec
    obtain ⟨hruns, himage, hidentity, -⟩ := imageRuns_shows s hpref
    exact ⟨_, hexec, hruns, himage, hidentity⟩
  case other =>
    intro s okA okB p hphase hreset hok hpref hp hbad hstate hcheck
    have hboots : Boots s := ⟨hphase, hreset, hok⟩
    have hsub : 1 - p ≤ 1 := Nat.sub_le 1 p
    have hgood : ¬ ImageBad s okA okB (1 - p) := by
      have hsame : (if 1 - p = 0 then okA else okB) = (if p = 0 then okB else okA) := by
        rcases Nat.le_one_iff_eq_zero_or_eq_one.mp hp with rfl | rfl <;> rfl
      rintro (h | h)
      · exact hstate h
      · exact absurd ((hsame.symm.trans h).symm.trans hcheck) (by decide)
    by_cases hempty : (s.image p).state = 0
    · have hexec := exec_bootEnd_eq hboots okA okB (hboots.bootImage.trans (by rw [hpref, if_neg (not_not.mpr hempty)]))
      rw [if_pos hgood] at hexec
      obtain ⟨hruns, himage, hidentity, hflash⟩ := imageRuns_shows s hsub
      refine ⟨_, hexec, hruns, himage, hidentity, ?_⟩
      rw [State.image, hflash]
      exact hempty
    · have hexec := exec_bootEnd_eq hboots okA okB (hboots.bootImage.trans (by rw [hpref, if_pos hempty]))
      rw [if_neg (not_not.mpr hbad), if_pos hgood] at hexec
      obtain ⟨hruns, himage, hidentity, hflash⟩ := imageRuns_shows (imageDropped s p) hsub
      generalize imageRuns (imageDropped s p) (1 - p) = v at *
      refine ⟨_, hexec, hruns, himage, hidentity, ?_⟩
      have hdropped := imageDropped_empty s p
      rw [State.image, ← hflash] at hdropped
      exact hdropped
  case neither =>
    intro s okA okB hphase hreset hok hpref hA hB
    have hboots : Boots s := ⟨hphase, hreset, hok⟩
    have hbad : ∀ j ≤ 1, ImageBad s okA okB j := by
      intro j hj
      rcases Nat.le_one_iff_eq_zero_or_eq_one.mp hj with rfl | rfl
      · exact hA
      · exact hB
    have hfirst : bootImage s ≤ 1 := by
      rw [hboots.bootImage]
      split
      · exact hpref
      · exact Nat.sub_le 1 _
    have hexec := exec_bootEnd_eq hboots okA okB (rfl : bootImage s = bootImage s)
    rw [if_neg (not_not.mpr (hbad _ hfirst)), if_neg (not_not.mpr (hbad _ (Nat.sub_le 1 _)))] at hexec
    generalize bootImage s = i at *
    obtain ⟨hempty, hother, hstays⟩ := bothDropped_shows s hfirst
    generalize imageDropped (imageDropped s i) (1 - i) = u at *
    refine ⟨_, hexec, (showFlash_phase _).trans (hstays.trans hphase), (congrArg PowerSt.bootOk (showFlash_power ..) :), ?_, ?_⟩
    · rw [State.image, showFlash_flash]
      exact hempty
    · rw [State.image, showFlash_flash]
      exact hother
  case restore =>
    intro s hphase
    refine ⟨_, exec_restore_starts hphase, ?_⟩
    obtain ⟨h1, h2, h3, h4⟩ := startUp_shows s (retainedRestored (bootCounted s))
    rw [retainedRestored_now, bootCounted_now] at h2
    exact ⟨h1, h2, h3, h4⟩
  case stream =>
    intro s hstart
    have hkept := allBegun_keepsStart (startShown s)
    obtain ⟨hphase, htick⟩ := startShown_shows s
    have hsix : phase (allBegun (startShown s)) = 6 := by
      rw [phase, State.nat, hkept 3 (by decide), hphase]
      rfl
    exact ⟨_, exec_streamStart_begins hstart, hsix, (hkept 8 (by decide)).trans htick⟩

end Sys2Proof.Machine
end
